-- ==== Sys2Proof/Word.lean ====
section
/-! DEFINITION. Sys2Proof/Word.lean: the word types of the machine (R9, R44, R66, R70) and their plainest arithmetic. -/

namespace Sys2Proof

/-- A byte of memory (R9). -/
abbrev Byte := BitVec 8

/-- A register or an instruction word: 32 bits (R44, R66). -/
abbrev Word := BitVec 32

/-- A register pair or a doubleword: 64 bits (R9, R72). -/
abbrev Dword := BitVec 64

/-- A 7-bit operand code (R70). -/
abbrev Code := BitVec 7

/-- A thread's program counter: 57 bits (R93). -/
abbrev PC := BitVec 57

/-- Sext(x, n) of R12 to 64 bits. -/
def sext64 {n : Nat} (x : BitVec n) : Dword := x.signExtend 64

/-- The doubleword whose low half is `lo` (R9: the even member holds bits [31:0]). -/
def dwordOf (lo hi : Word) : Dword := hi ++ lo

/-- Bits [31:0] of a doubleword. -/
def loWord (x : Dword) : Word := x.extractLsb' 0 32

/-- Bits [63:32] of a doubleword. -/
def hiWord (x : Dword) : Word := x.extractLsb' 32 32

/-- Clamp(v, [lo, hi]) of R104: the nearest value of the range. -/
def clampInt (lo hi v : Int) : Int := if v < lo then lo else if hi < v then hi else v

end Sys2Proof
end

