-- ==== Sys2Proof/Config.lean ====
section
/-! DEFINITION. Sys2Proof/Config.lean: what the spec leaves open. Every constant here is opaque: no proof can see its value. A free
value is a constant applied to the counter `State.free` (or to the operands it depends on), so a claim holds whatever it is. -/

namespace Sys2Proof.Config

/-- A free choice, a number (log 6): which of several allowed behaviours is taken. -/
opaque freeNat : Nat → Nat

/-- A free word (log 6). -/
opaque freeWord : Nat → BitVec 32

/-- A free doubleword (log 6). -/
opaque freeDword : Nat → BitVec 64

/-- The first sector of a flash program that does not read back as written, a free choice; beyond the program, none (log 9; R455). -/
opaque flashFault : Nat → Nat

/-- The result of a correctly rounded function where the model's enclosure does not decide the rounding (log 11): by function,
operand and mode. -/
opaque undecided : Nat → BitVec 32 → Nat → BitVec 32

/-- The public key in Sirmel's fuses, the P-384 point x, y (log 9; R445). -/
opaque publicKey : Nat × Nat

/-- The lowest image sequence number that Sirmel's fuses allow (log 9; R454). -/
opaque minIseq : Nat

/-- The tile of each die whose core was fused in manufacture, if one was: at most one a die (log 9; R4, R19). -/
opaque fusedTile : Nat → Option Nat

/-- The cores that fail self-test at this boot (log 9; R19, R448). -/
opaque selfTestFail : BitVec 256

/-- The stacks that fail self-test at this boot (log 9; R207, R449). -/
opaque stackFail : BitVec 16

/-- A boot failure that no corking covers (log 9; R449): 0 none, else STCAUSE, with its die and unit. -/
opaque bootFail : Nat × Nat × Nat

/-- The links that fail to train at this boot (log 9; R449): bits 0 to 47 of the Xarath Link, 48 to 55 of the Ethernet ports. -/
opaque linkFail : BitVec 56

/-- The layout of a management log entry's DATA where it holds more than one item (log 21; R363): by event and items. -/
opaque logData : Nat → Nat → Nat → Nat

/-- The package's number in its scale-up domain, modulo 1,024 (log 93; R190). -/
opaque packageNo : Nat

end Sys2Proof.Config
end

