-- ==== Sys2Proof/Machine/Sparse.lean ====
section
/-! DEFINITION. Sys2Proof/Machine/Sparse.lean: tables kept as lists of (key, value) pairs with strictly rising keys. A table
with a default value lists no entry equal to the default, so that equal contents are equal lists; a table without a default
lists exactly the keys it holds. -/

namespace Sys2Proof.Machine

/-- A table: pairs of a key and a value, keys strictly rising. -/
abbrev Sparse (α : Type) := List (Nat × α)

/-- The value at a key; an unlisted key reads as `d`. -/
def sget {α : Type} (d : α) : Sparse α → Nat → α
  | [], _ => d
  | (j, w) :: t, k => if k = j then w else sget d t k

/-- The entry at a key of a table without a default. -/
def aget {α : Type} : Sparse α → Nat → Option α
  | [], _ => none
  | (j, w) :: t, k => if k = j then some w else aget t k

/-- Enters or replaces the entry at a key. -/
def aset {α : Type} : Sparse α → Nat → α → Sparse α
  | [], k, v => [(k, v)]
  | (j, w) :: t, k, v =>
    if k < j then (k, v) :: (j, w) :: t
    else if k = j then (k, v) :: t
    else (j, w) :: aset t k v

/-- Removes the entry at a key. -/
def adel {α : Type} (m : Sparse α) (k : Nat) : Sparse α := m.filter (fun e => decide (e.1 ≠ k))

/-- Sets the value at a key and keeps the canonical form: a value equal to the default is not listed. -/
def sset {α : Type} [DecidableEq α] (d : α) (m : Sparse α) (k : Nat) (v : α) : Sparse α :=
  if v = d then adel m k else aset m k v

/-- Sets several keys, in order. -/
def ssetAll {α : Type} [DecidableEq α] (d : α) (m : Sparse α) (kvs : List (Nat × α)) : Sparse α :=
  kvs.foldl (fun m kv => sset d m kv.1 kv.2) m

/-- Changes the entry at a key, if there is one. -/
def amod {α : Type} (m : Sparse α) (k : Nat) (f : α → α) : Sparse α :=
  m.map (fun e => if e.1 = k then (e.1, f e.2) else e)

/-- Keys strictly rise. -/
def skeysRise {α : Type} : Sparse α → Bool
  | [] => true
  | [_] => true
  | (i, _) :: (j, w) :: t => decide (i < j) && skeysRise ((j, w) :: t)

/-- The canonical form of a table with default `d`: keys strictly rise and no entry equals the default. -/
def swf {α : Type} [DecidableEq α] (d : α) (m : Sparse α) : Bool :=
  skeysRise m && m.all (fun e => decide (e.2 ≠ d))

end Sys2Proof.Machine
end

