-- ==== Sys2Proof/Syntax.lean ====
section
/-! DEFINITION. Sys2Proof/Syntax.lean: one constructor of `Instr` for each row of spec/opcode_table.json: the 257 instruction
words (R81 to R85) and the 129 steps that other agents of the device take (messages, packets, host writes, timers, boot steps),
each with the data that its message or write carries. -/

namespace Sys2Proof

/-- The fields of a prefix word (R67). -/
structure Pfx where
  c : Code
  msel : BitVec 4
  zm : Bool
  rnd : BitVec 3
  sat : Bool
  deriving DecidableEq, Repr

/-- A deque entry (R304); `result` is bits [100:64] of the TAIL, widened. -/
structure DqEntry where
  cline : BitVec 50
  shape : BitVec 2
  kind : BitVec 2
  stg : Bool
  clm : Bool
  lo : Word
  hi : Word
  result : Dword
  deriving DecidableEq, Repr

/-- A node of the dependence graph (R308, R309): a pending task of a core's pool, or a copy, by its index. -/
structure NodeRef where
  core : Nat
  isCopy : Bool
  idx : Nat
  deriving DecidableEq, Repr

/-- A channel slot (R326): a value for each lane, lane 0 first, and the valid mask. -/
structure ChanSlot where
  vals : List Word
  valid : Word
  deriving DecidableEq, Repr

/-- A chunk in the commit protocol (R219 to R221): its core, its group slot and its number within the group. -/
structure ChunkRef where
  core : Nat
  slot : Nat
  num : Nat
  deriving DecidableEq, Repr

/-- A receiver of a write signature (R220): a core, or the slices of a die. -/
inductive Receiver where
  | core (c : Nat)
  | die (d : Nat)
  deriving DecidableEq, Repr

/-- The combine of a far reduction (R254). -/
inductive RedOp where
  | addI | addF | and | or | xor | minI | minN | maxI | maxN | addI64
  deriving DecidableEq, Repr

/-- A released far reduction (R254, R255): its operation, location, value, effective scope and issuing group. -/
structure Red where
  op : RedOp
  pa : Nat
  v : Dword
  scope : Nat
  core : Nat
  slot : Nat
  /-- Numbers the reductions in the order of their release. -/
  id : Nat := 0
  deriving DecidableEq, Repr

/-- What a STEALREQ carries beside its two cores (R309): whether it crosses dies, and the thief's request number. -/
structure StealReq where
  cross : Bool
  num : Nat
  deriving DecidableEq, Repr

/-- An Ethernet packet as a port receives it (R361, R386): the transport header, the payload as received and the GCM tag. -/
structure LandPacket where
  header : List Byte
  payload : List Byte
  tag : BitVec 128
  deriving DecidableEq, Repr

/-- The issue that a shadow latch flags (R182): the group slot and the instruction's address. -/
structure FlaggedIssue where
  slot : Nat
  pc : PC
  deriving DecidableEq, Repr

/-- A barrier object (R408): a named barrier of the team whose first slot is `team`, a cluster's, or a gang's. -/
inductive BarRef where
  | named (core team id : Nat)
  | cluster (cl : Nat)
  | gang (grid : Nat)
  deriving DecidableEq, Repr

/-- An arrival (R410): the group, its count, operation and partial, the instruction's address, and whether the group only waits
for acceptance (BARARV). -/
structure Arrival where
  core : Nat
  slot : Nat
  count : Nat
  op : BitVec 2
  part : Word
  addr : PC
  /-- Reductions and packets of the group with a lower number were released before the arrival (R412). -/
  upto : Nat := 0
  deriving DecidableEq, Repr

/-- A multicast or reduction packet (R419): cluster, group id, receiving core, scratch offset, the reduction's ROP or none, and
the 128 bytes sent. -/
structure McstPacket where
  cl : Nat
  gid : Nat
  target : Nat
  off : Nat
  rop : Option (BitVec 2)
  bytes : List Byte
  /-- The slot of the sending group, and the packet's number in the order of release. -/
  slot : Nat := 0
  id : Nat := 0
  deriving DecidableEq, Repr

/-- The rows of spec/opcode_table.json: the steps of other agents first, then the instruction words. A prefixable instruction (class A or M, R76) carries its prefix. -/
inductive Instr where
  /-- OWNER_POP: A core with a free slot set pops the hot end of its deque. (R305) -/
  | ownerPop (core : Nat)
  /-- TASK_START: A staged task starts on a free slot set with fresh register state. (R97) -/
  | taskStart (core : Nat)
  /-- EAGER_STAGING: The prefetch engine stages tile operands of hot-end entries. (R35) -/
  | eagerStaging (core : Nat)
  /-- STAGE_HOLD_EXPIRY: The eviction hold on a staged task's lines ends after 8,192 clk. (R307) -/
  | stageHoldExpiry (core cline : Nat)
  /-- STEAL_TRY: An idle core sends a STEALREQ to its next victim. (R38) -/
  | stealTry (core : Nat)
  /-- STEALREQ: A victim answers a steal request with an entry, a split or STEALNO. (R310) -/
  | stealreq (thief victim : Nat) (req : StealReq)
  /-- STEALENT: A thief receives a deque entry and stages the task. (R309) -/
  | stealent (thief victim : Nat) (e : DqEntry)
  /-- STEALSPL: A thief receives a split range and starts a piece. (R315) -/
  | stealspl (thief victim cline : Nat) (lo hi : BitVec 32)
  /-- STEALNO: A thief receives a refusal and tries the next victim. (R38) -/
  | stealno (thief victim depth : Nat)
  /-- SPLIT_COMMIT: The item unit commits a split of a piece's cursor as its own chunk. (R315) -/
  | splitCommit (core piece thief : Nat)
  /-- FREG: A future's home records a waiter or answers FREADY at once. (R308) -/
  | freg (node : NodeRef) (h : BitVec 64)
  /-- FREADY: A node's predecessor count falls by one, pushing or starting it at zero. (R308) -/
  | fready (node : NodeRef)
  /-- WAITFULL: A full waiter store makes the node core poll the future. (R308) -/
  | waitfull (node : NodeRef) (h : BitVec 64)
  /-- FQUERY_POLL: A node core polls a future every 1 µs after WAITFULL. (R308) -/
  | fqueryPoll (node : NodeRef) (h : BitVec 64)
  /-- FRESV: A future's home stores a resolution and serves its waiters. (R303) -/
  | fresv (core : Nat) (ctx : BitVec 32) (h v : BitVec 64)
  /-- ITEMDONE: A range future's item count falls, resolving it at zero. (R314) -/
  | itemdone (core : Nat) (h : BitVec 64) (n : Nat)
  /-- FQUERY: A future's home answers a state query with FSTATE. (R309) -/
  | fquery (core slot : Nat) (h : BitVec 64)
  /-- FSTATE: A querying core receives a future's state and value. (R318) -/
  | fstate (core slot : Nat) (h : BitVec 64) (st : Nat) (v : BitVec 64)
  /-- FWAIT: A future's home registers a parked joiner or wakes it at once. (R318) -/
  | fwait (core slot : Nat) (h : BitVec 64)
  /-- WAKE: Parked joiner threads resume with the future's value. (R318) -/
  | wake (core slot : Nat) (h : BitVec 64) (stale : Bool) (v : BitVec 64)
  /-- FFREE: A future's home frees an entry whose value was read remotely. (R303) -/
  | ffree (core : Nat) (h : BitVec 64)
  /-- TYIELD_WINDOW_END: The 64 issue clk yield window of a group ends. (R324) -/
  | tyieldWindowEnd (core slot : Nat)
  /-- CHANNEL_SLOT_ARRIVAL: A committed channel send lands at its receive end. (R326) -/
  | channelSlotArrival (core chan : Nat) (s : ChanSlot)
  /-- STREAM_RUNAHEAD: The stream engine fetches upcoming positions into L1. (R330) -/
  | streamRunahead (core slot port : Nat)
  /-- PRESS_REQUEST: A die's Press grants or holds a commit request. (R219) -/
  | pressRequest (die : Nat) (k : ChunkRef)
  /-- PRESS_GRANT: A grant reaches the committing core, which sends W once all are held. (R219) -/
  | pressGrant (die : Nat) (k : ChunkRef)
  /-- COMMIT_SIGNATURE: A core or slice receives a write signature, squashes or holds, and acknowledges. (R220) -/
  | commitSignature (dest : Receiver) (k : ChunkRef)
  /-- COMMIT_ACK: An acknowledgement reaches the committing core, which sends claims once all arrive. (R221) -/
  | commitAck (k : ChunkRef)
  /-- OWNERSHIP_CLAIM: A home slice counts a line claim and makes lines visible when the count is met. (R221) -/
  | ownershipClaim (line phase : Nat) (k : ChunkRef)
  /-- CLAIM_ANNOUNCE: A home slice learns how many claims a core will send in a phase. (R221) -/
  | claimAnnounce (slice phase n : Nat) (k : ChunkRef)
  /-- SLICE_DONE: A slice report reaches the core, completing the commit and releasing deferred effects. (R221) -/
  | sliceDone (slice : Nat) (k : ChunkRef)
  /-- PRESS_RELEASE: A Press releases a chunk's grant and reconsiders held requests. (R221) -/
  | pressRelease (die : Nat) (k : ChunkRef)
  /-- INBOUND_ACCESS: A host, CXL, Xarath Link or landing access is ordered at its home slice. (R223) -/
  | inboundAccess (pa : Nat) (wr : Option (List (BitVec 8))) (n : Nat)
  /-- COPY_START: A committed copy starts once its dependency future resolves. (R266) -/
  | copyStart (id : Nat)
  /-- ENGINE_CHUNK_START: A copy engine admits and commits its next engine chunk of up to 48 lines. (R223) -/
  | engineChunkStart (id : Nat)
  /-- COPY_COMPLETE: A copy's last writes land and DONE resolves with 0. (R266) -/
  | copyComplete (id : Nat)
  /-- RED_PERFORM: A released reduction is performed at its place. (R255) -/
  | redPerform (r : Red)
  /-- TEAM_HALT: A sibling receives a halt and stops within its skid. (R177) -/
  | teamHalt (core slot : Nat)
  /-- SHADOW_LATCH_FLAG: A late sample suppresses writes and replays the instruction guarded. (R182) -/
  | shadowLatchFlag (core : Nat) (i : FlaggedIssue) (twice : Bool)
  /-- MARGIN_WINDOW_END: At each replay window's end the margin offset is raised, lowered or the core corked. (R184) -/
  | marginWindowEnd (core : Nat)
  /-- MARGIN_SETTLE: A new margin offset settles and VNOW takes it. (R183) -/
  | marginSettle (core : Nat)
  /-- WAITADDR_WAKE: A write to the watched line wakes sleeping threads. (R259) -/
  | waitaddrWake (core slot : Nat)
  /-- WAITADDR_POLL: A watched line beyond the package is polled every 1 µs. (R259) -/
  | waitaddrPoll (core slot : Nat)
  /-- WAITADDR_TIMEOUT: A WAITADDR sleep ends at its timeout. (R259) -/
  | waitaddrTimeout (core slot : Nat)
  /-- DECANT: A hot line is pushed to helper slices at the end of a read window. (R200) -/
  | decant (line : Nat) (helpers : List Nat)
  /-- DECANT_PUSH_DONE: A completed decant push installs redirect entries. (R200) -/
  | decantPushDone (line helper : Nat)
  /-- REDIRECT_INSTALL: A network interface enters a redirect entry. (R381) -/
  | redirectInstall (ni line helper : Nat)
  /-- REVOCATION: A redirect entry or replica is removed and acknowledged. (R201) -/
  | revocation (line : Nat)
  /-- HBM_READ: A stack controller performs a read packet. (R202) -/
  | hbmRead (line : Nat) (bad : List Nat)
  /-- HBM_WRITE: A stack controller performs a data write and sends its delta. (R205) -/
  | hbmWrite (line : Nat) (bad : List Nat)
  /-- HBM_ATOMIC: A stack controller performs an atomic packet. (R202) -/
  | hbmAtomic (line : Nat) (r : Red)
  /-- DELTA: The parity controller XORs a delta into the row's parity and returns DACK. (R205) -/
  | delta (stack row sender : Nat) (bytes : List (BitVec 8))
  /-- DACK: A data controller decrements its delta count for the row. (R205) -/
  | dack (stack row : Nat)
  /-- FREEZE: A data controller holds new writes to a row and returns its value when its count is zero. (R206) -/
  | freeze (stack row : Nat) (bad : Bool)
  /-- FREEZE_VALUE: The parity controller gathers values and completes the reconstruction. (R206) -/
  | freezeValue (stack row sender : Nat) (v : Option (List (BitVec 8)))
  /-- UNFREEZE: A data controller performs the writes held for a row. (R206) -/
  | unfreeze (stack row : Nat)
  /-- STACK_LOSS: A stack is declared lost, entering degraded mode or poisoning its lines. (R207) -/
  | stackLoss (stack : Nat)
  /-- SWAP_START: A controller starts a remap swap and holds traffic to the two frames. (R212) -/
  | swapStart (stack f1 f2 : Nat)
  /-- SWAP_DRAIN_DONE: Accepted packets of the frames have completed and copying begins. (R212) -/
  | swapDrainDone (stack : Nat)
  /-- SWAP_ROW_COPY: One row of a swap or park move is exchanged and remapped. (R213) -/
  | swapRowCopy (stack : Nat)
  /-- MARCHREQ: A write queues the parking and march of one bank. (R380) -/
  | marchreq (v : BitVec 32)
  /-- BANK_MARCH_END: A bank march ends, returning the frames or retiring the bank. (R214) -/
  | bankMarchEnd (stack : Nat) (pass : Bool)
  /-- BUDGET_PERIOD: A budget period starts and USED counters are reset. (R405) -/
  | budgetPeriod (die : Nat)
  /-- ACCALLOC_GRANT: The oldest allocation request is granted when tiles are free. (R273) -/
  | accallocGrant (core : Nat)
  /-- MMA_STEP_END: A matrix step ends, enters its results and the engine picks the next step. (R294) -/
  | mmaStepEnd (core : Nat) (flag : Nat)
  /-- ENGINE_OP_COMPLETE: A released engine operation completes on its tile. (R280) -/
  | engineOpComplete (core id : Nat)
  /-- DOORBELL: A host doorbell write sets WPTR and wakes dispatch. (R337) -/
  | doorbell (q : Nat) (v : BitVec 32)
  /-- QUEUE_DESC_WRITE: A host write to a queue descriptor enables, disables or edits it. (R336) -/
  | queueDescWrite (q off : Nat) (v : BitVec 64)
  /-- LAUNCH: A LAUNCH packet starts a grid or writes a refusal status. (R340) -/
  | launch (slot : Nat)
  /-- COPY_PACKET: A COPY packet starts a copy on a die's engine. (R341) -/
  | copyPacket (slot : Nat)
  /-- SIGNAL: A SIGNAL packet stores or adds a value once earlier packets complete. (R341) -/
  | signal (slot : Nat)
  /-- WAIT: A WAIT packet reads a location and holds until its condition holds. (R341) -/
  | wait (slot : Nat)
  /-- WAIT_RECHECK: A WAIT condition is re-read on a write or every 1 µs. (R341) -/
  | waitRecheck (slot : Nat)
  /-- WAIT_TIMEOUT: A WAIT packet's timeout sets queue error WAITTMO. (R341) -/
  | waitTimeout (slot : Nat)
  /-- MARKER: A MARKER packet writes the cycle counter after earlier packets complete. (R341) -/
  | marker (slot : Nat)
  /-- CTXOP_CREATE: Enters a new context in the context table. (R342) -/
  | ctxopCreate (slot : Nat)
  /-- CTXOP_DESTROY: Aborts a context's grids and tears down its PASID. (R342) -/
  | ctxopDestroy (slot : Nat)
  /-- CTXOP_SLICE: Sets a context's slice length. (R342) -/
  | ctxopSlice (slot : Nat)
  /-- CTXOP_PREEMPT: Ends a context's slices at once and saves its state. (R342) -/
  | ctxopPreempt (slot : Nat)
  /-- CTXOP_RESUME: Makes a pre-empted context eligible for slices. (R342) -/
  | ctxopResume (slot : Nat)
  /-- GRID_COMPLETION: A grid whose live counter reaches zero writes its completion word and unbinds. (R340) -/
  | gridCompletion (grid : Nat)
  /-- GANG_ROOT_PUSH: At start time TS each die pushes its share of the roots. (R352) -/
  | gangRootPush (grid die : Nat)
  /-- FIRMWARE_TIMER: The firmware timer period elapses and sets FPEND.TIMER. (R175) -/
  | firmwareTimer (die : Nat)
  /-- SLICE_END: At E minus drain the collector sends stop requests to a context's engines. (R353) -/
  | sliceEnd (pasid : Nat)
  /-- STOP_ACK: An engine class acknowledges a stop; the context is stopped when all have. (R353) -/
  | stopAck (core cls : Nat)
  /-- FAULT_QUEUE_POST: A stopped agent posts its entry to the die's fault queue when space frees. (R358) -/
  | faultQueuePost (die : Nat)
  /-- FRDONE: The host answers a fault entry with retry or abort. (R359) -/
  | frdone (v : BitVec 64)
  /-- PRI_RESPONSE: A page request response resumes or aborts the faulted agent. (R359) -/
  | priResponse (id : Nat) (ok : Bool)
  /-- ATS_COMPLETION: An ATS translation answer, the bus page and the permissions to read, write and fetch, fills the ATC or faults the access.
  (R371) -/
  | atsCompletion (tag : Nat) (busPage : Option (Nat × Bool)) (w x : Bool)
  /-- ATS_TAG_TIMEOUT: An ATS tag or PRI request stops being outstanding after 100 µs. (R377) -/
  | atsTagTimeout (tag : Nat)
  /-- ATS_INVALIDATE: A host invalidate request is carried out as a PAGE TLBINV. (R374) -/
  | atsInvalidate (pasid va pages : Nat)
  /-- PAGE_WALK: A walker walks the page tables for a translation miss. (R369) -/
  | pageWalk (core pasid : Nat) (va : BitVec 64)
  /-- TEARDOWN_FINISH: With no tags outstanding, a dying PASID's context entry is freed. (R378) -/
  | teardownFinish (pasid : Nat)
  /-- LANDING_PACKET: An Ethernet packet lands in its ring or meets the ring's policy. (R361) -/
  | landingPacket (ring : Nat) (packet : LandPacket) (seq : BitVec 64)
  /-- LANDING_RETRY: A backpressured packet lands once the ring has room. (R362) -/
  | landingRetry (ring : Nat)
  /-- LANDING_DESC_WRITE: A host write enables, disables or edits a landing ring descriptor. (R360) -/
  | landingDescWrite (ring off : Nat) (v : BitVec 64)
  /-- MLCTL_WRITE: A write to MLCTL starts or stops storing of log entries. (R363) -/
  | mlctlWrite (v : BitVec 64)
  /-- KEYCMD_LOAD: Loads the staged key and salt into the addressed key table entry. (R386) -/
  | keycmdLoad
  /-- KEYCMD_CLEAR: Clears the addressed key table entry. (R386) -/
  | keycmdClear
  /-- KEYCMD_DONE: A key command completes and BUSY clears. (R386) -/
  | keycmdDone
  /-- BARRIER_ARRIVAL: A committed arrival opens, joins or is refused by a barrier generation. (R411) -/
  | barrierArrival (b : BarRef) (v : Arrival)
  /-- BARRIER_RELEASE: A complete generation releases once its REDs, multicasts and pending lines are done. (R411) -/
  | barrierRelease (b : BarRef)
  /-- PENDING_LINE_PRESENT: A bound prefetch line arrives and lowers the barrier's pending lines. (R414) -/
  | pendingLinePresent (b : BarRef)
  /-- MCST_DELIVERY: A multicast or reduction line is performed at a member. (R419) -/
  | mcstDelivery (m : McstPacket)
  /-- GROUP_TIMEOUT: A GRPOPEN stalled for 64 µs faults GROUP_TIMEOUT. (R417) -/
  | groupTimeout (core slot : Nat)
  /-- SCGO: A write completes the waiting system call of the group named by CTXSEL. (R174) -/
  | scgo (core slot : Nat)
  /-- REGISTER_WRITE: A write to a register with no row of its own, under its access type. (R11) -/
  | registerWrite (off size : Nat) (v : BitVec 64) (fmode : Bool)
  /-- POWER_ON_RESET: The package resets and boots through its stages. (R448) -/
  | powerOnReset
  /-- HOT_RESET: A PCI Express hot reset leaves the safe state and clears QHOLD. (R450) -/
  | hotReset
  /-- IMGCHK: A write starts the image check of a staged image. (R454) -/
  | imgchk (v : BitVec 64)
  /-- IMAGE_CHECK_DONE: The image check ends with PASS or an error code. (R454) -/
  | imageCheckDone
  /-- FLASH_READ: A flash descriptor copies flash into the firmware region. (R455) -/
  | flashRead (v : BitVec 64)
  /-- FLASH_PROGRAM: A flash descriptor erases, writes and verifies sectors. (R455) -/
  | flashProgram (v : BitVec 64)
  /-- FLASH_ERASE: A flash descriptor erases sectors. (R455) -/
  | flashErase (v : BitVec 64)
  /-- FLASH_OP_DONE: A flash operation ends and FLSTAT BUSY clears. (R455) -/
  | flashOpDone
  /-- QHOLD: A write holds or releases packet starts on each die. (R456) -/
  | qhold (v : BitVec 32)
  /-- HBARM: A write arms the heartbeat watch with a cookie and timeout. (R457) -/
  | hbarm (v : BitVec 64)
  /-- HBEAT: A vintner core's matching beat sets its die bit, setting OK when complete. (R457) -/
  | hbeat (die : Nat) (v : BitVec 32)
  /-- HEARTBEAT_TIMEOUT: The heartbeat watch expires and the rollback restart follows. (R457) -/
  | heartbeatTimeout
  /-- MBX_STATUS: Mailbox command STATUS returns device status. (R451) -/
  | mbxStatus
  /-- MBX_RESET: Mailbox command RESET makes Sirmel reset the device. (R451) -/
  | mbxReset
  /-- MBX_UPDATE: Mailbox command UPDATE starts a live firmware update. (R451) -/
  | mbxUpdate
  /-- FATAL_ERROR: A fatal error stops compute cores and starts the dump. (R463) -/
  | fatalError (core cause : Nat)
  /-- DUMP_TIMEOUT: A dump without DONE after 500 ms sends the device to the safe state. (R463) -/
  | dumpTimeout
  /-- SPDM_REQUEST: Sirmel answers an SPDM request over MCTP. (R15) -/
  | spdmRequest (index : Nat)
  /-- POWER_OFF: The package loses power, losing HBM, key table and all volatile state, and cutting short any flash erase or program so that the copy being written is left invalid. (R447) -/
  | powerOff
  /-- FILL_RETURN: A line requested by a load miss, a staging or a stash fill arrives at the core, frees its fill table entry and releases the instructions, waits and stagings held on it. (R195) -/
  | fillReturn (core line : Nat)
  /-- TARGET_ACKNOWLEDGEMENT: A store, MMIO access, load or atomic sent beyond the package is acknowledged or returns from its target, releasing a waiting STREL, FENCE, LDACQ, TLBINV, copy completion or the next MMIO access. (R231) -/
  | targetAcknowledgement (core slot : Nat)
  /-- CXL_CACHE_SNOOP: The host takes back a host line that the device holds through CXL.cache, ending the device's ownership and waking any WAITADDR that watches it. (R259) -/
  | cxlCacheSnoop (line : Nat)
  /-- IADD: Writes the 32-bit wrapped sum of a and b to d. (R107) -/
  | iadd (p : Option Pfx) (d a b : Code)
  /-- ISUB: Writes the 32-bit wrapped difference a minus b to d. (R107) -/
  | isub (p : Option Pfx) (d a b : Code)
  /-- IMUL: Writes the low 32 bits of the product of a and b to d. (R107) -/
  | imul (p : Option Pfx) (d a b : Code)
  /-- IMULHI_I: Writes the high 32 bits of the signed product of a and b to d. (R107) -/
  | imulhiI (p : Option Pfx) (d a b : Code)
  /-- IMULHI_N: Writes the high 32 bits of the unsigned product of a and b to d. (R107) -/
  | imulhiN (p : Option Pfx) (d a b : Code)
  /-- IMULW_I: Writes the signed 64-bit product of a and b to the pair d. (R107) -/
  | imulwI (p : Option Pfx) (d a b : Code)
  /-- IMULW_N: Writes the unsigned 64-bit product of a and b to the pair d. (R107) -/
  | imulwN (p : Option Pfx) (d a b : Code)
  /-- IMAD: Writes a times b plus the third source, wrapped to 32 bits, to d. (R107) -/
  | imad (p : Option Pfx) (d a b : Code)
  /-- IADDSAT_I: Writes the signed sum of a and b clamped to i32. (R108) -/
  | iaddsatI (p : Option Pfx) (d a b : Code)
  /-- IADDSAT_N: Writes the unsigned sum of a and b clamped to n32. (R108) -/
  | iaddsatN (p : Option Pfx) (d a b : Code)
  /-- ISUBSAT_I: Writes the signed difference clamped to i32. (R108) -/
  | isubsatI (p : Option Pfx) (d a b : Code)
  /-- ISUBSAT_N: Writes the unsigned difference clamped to n32. (R108) -/
  | isubsatN (p : Option Pfx) (d a b : Code)
  /-- IMIN_I: Writes the signed lesser of a and b. (R108) -/
  | iminI (p : Option Pfx) (d a b : Code)
  /-- IMIN_N: Writes the unsigned lesser of a and b. (R108) -/
  | iminN (p : Option Pfx) (d a b : Code)
  /-- IMAX_I: Writes the signed greater of a and b. (R108) -/
  | imaxI (p : Option Pfx) (d a b : Code)
  /-- IMAX_N: Writes the unsigned greater of a and b. (R108) -/
  | imaxN (p : Option Pfx) (d a b : Code)
  /-- IABS: Writes the wrapped absolute value of signed a. (R109) -/
  | iabs (p : Option Pfx) (d a : Code)
  /-- ICSUB: Subtracts b from a when a is not below b, otherwise keeps a. (R109) -/
  | icsub (p : Option Pfx) (d a b : Code)
  /-- SAD: Adds the sum of absolute byte differences of a and b to the third source. (R109) -/
  | sad (p : Option Pfx) (d a b : Code)
  /-- AND: Writes the bitwise AND of a and b. (R110) -/
  | and (p : Option Pfx) (d a b : Code)
  /-- OR: Writes the bitwise OR of a and b. (R110) -/
  | or (p : Option Pfx) (d a b : Code)
  /-- XOR: Writes the bitwise XOR of a and b. (R110) -/
  | xor (p : Option Pfx) (d a b : Code)
  /-- ANDN: Writes a AND NOT b. (R110) -/
  | andn (p : Option Pfx) (d a b : Code)
  /-- SHL: Shifts a left by the full count in b, giving 0 for counts of 32 or more. (R111) -/
  | shl (p : Option Pfx) (d a b : Code)
  /-- SHR_N: Shifts a right logically by the count in b. (R111) -/
  | shrN (p : Option Pfx) (d a b : Code)
  /-- SHR_I: Shifts a right arithmetically by the count in b. (R111) -/
  | shrI (p : Option Pfx) (d a b : Code)
  /-- ROTL: Rotates a left by b modulo 32. (R111) -/
  | rotl (p : Option Pfx) (d a b : Code)
  /-- POPC: Writes the number of 1 bits of a. (R112) -/
  | popc (p : Option Pfx) (d a : Code)
  /-- CLZ: Writes the number of leading zero bits of a. (R112) -/
  | clz (p : Option Pfx) (d a : Code)
  /-- BREV: Writes a with its bit order reversed. (R112) -/
  | brev (p : Option Pfx) (d a : Code)
  /-- BFX_I: Extracts a sign-extended bit field of a at the position and length in b. (R113) -/
  | bfxI (p : Option Pfx) (d a b : Code)
  /-- BFX_N: Extracts a zero-extended bit field of a at the position and length in b. (R113) -/
  | bfxN (p : Option Pfx) (d a b : Code)
  /-- BFI: Inserts the low bits of a into the third source at the field given by b. (R114) -/
  | bfi (p : Option Pfx) (d a b : Code)
  /-- PRMT: Builds a word from eight source bytes under four control bytes in b. (R115) -/
  | prmt (p : Option Pfx) (d a b : Code)
  /-- ISET_EQ: Writes 1 if a equals b, else 0. (R116) -/
  | isetEq (p : Option Pfx) (d a b : Code)
  /-- ISET_NE: Writes 1 if a differs from b, else 0. (R116) -/
  | isetNe (p : Option Pfx) (d a b : Code)
  /-- ISET_LT_I: Writes 1 if signed a is less than b. (R116) -/
  | isetLtI (p : Option Pfx) (d a b : Code)
  /-- ISET_LT_N: Writes 1 if unsigned a is less than b. (R116) -/
  | isetLtN (p : Option Pfx) (d a b : Code)
  /-- ISET_LE_I: Writes 1 if signed a is at most b. (R116) -/
  | isetLeI (p : Option Pfx) (d a b : Code)
  /-- ISET_LE_N: Writes 1 if unsigned a is at most b. (R116) -/
  | isetLeN (p : Option Pfx) (d a b : Code)
  /-- ISEL: Writes a if the third source is nonzero, otherwise b. (R117) -/
  | isel (p : Option Pfx) (d a b : Code)
  /-- IADD64: Writes the 64-bit wrapped sum of two register pairs. (R118) -/
  | iadd64 (p : Option Pfx) (d a b : Code)
  /-- ISUB64: Writes the 64-bit wrapped difference of two register pairs. (R118) -/
  | isub64 (p : Option Pfx) (d a b : Code)
  /-- MOV: Copies 32 bits from a to d, popping or pushing ports as named. (R119) -/
  | mov (p : Option Pfx) (d a : Code)
  /-- IADDI: Adds a sign-extended 7-bit immediate to a. (R120) -/
  | iaddi (p : Option Pfx) (d a : Code) (i : BitVec 7)
  /-- ANDI: ANDs a with a zero-extended 7-bit immediate. (R120) -/
  | andi (p : Option Pfx) (d a : Code) (i : BitVec 7)
  /-- ORI: ORs a with a zero-extended 7-bit immediate. (R120) -/
  | ori (p : Option Pfx) (d a : Code) (i : BitVec 7)
  /-- XORI: XORs a with a zero-extended 7-bit immediate. (R120) -/
  | xori (p : Option Pfx) (d a : Code) (i : BitVec 7)
  /-- SHLI: Shifts a left by an immediate count 0 to 31. (R120) -/
  | shli (p : Option Pfx) (d a : Code) (i : BitVec 5)
  /-- SHRI_N: Shifts a right logically by an immediate count 0 to 31. (R120) -/
  | shriN (p : Option Pfx) (d a : Code) (i : BitVec 5)
  /-- SHRI_I: Shifts a right arithmetically by an immediate count 0 to 31. (R120) -/
  | shriI (p : Option Pfx) (d a : Code) (i : BitVec 5)
  /-- ISETI_EQ: Writes 1 if a equals the sign-extended immediate. (R120) -/
  | isetiEq (p : Option Pfx) (d a : Code) (i : BitVec 7)
  /-- ISETI_LT_I: Writes 1 if signed a is less than the immediate. (R120) -/
  | isetiLtI (p : Option Pfx) (d a : Code) (i : BitVec 7)
  /-- ISETI_LT_N: Writes 1 if unsigned a is less than the sign-extended immediate read unsigned. (R120) -/
  | isetiLtN (p : Option Pfx) (d a : Code) (i : BitVec 7)
  /-- MOVI: Writes a sign-extended 14-bit immediate to d. (R121) -/
  | movi (p : Option Pfx) (d : Code) (i : BitVec 14)
  /-- MOVL: Writes the 32-bit literal of the following word to d. (R122) -/
  | movl (p : Option Pfx) (d : Code) (lit : BitVec 32)
  /-- IADDI14: Adds a sign-extended 14-bit immediate to d in place. (R121) -/
  | iaddi14 (p : Option Pfx) (d : Code) (i : BitVec 14)
  /-- FADD: Writes the f32 sum of a and b rounded once in the mode. (R127) -/
  | fadd (p : Option Pfx) (d a b : Code)
  /-- FSUB: Writes the f32 difference of a and b rounded once. (R127) -/
  | fsub (p : Option Pfx) (d a b : Code)
  /-- FMUL: Writes the f32 product of a and b rounded once. (R127) -/
  | fmul (p : Option Pfx) (d a b : Code)
  /-- FFMA: Writes a times b plus the third source, rounded once. (R127) -/
  | ffma (p : Option Pfx) (d a b : Code)
  /-- FMIN: Writes minimumNumber of a and b. (R129) -/
  | fmin (p : Option Pfx) (d a b : Code)
  /-- FMAX: Writes maximumNumber of a and b. (R129) -/
  | fmax (p : Option Pfx) (d a b : Code)
  /-- FNEG: Flips bit 31 of a. (R129) -/
  | fneg (p : Option Pfx) (d a : Code)
  /-- FABS: Clears bit 31 of a. (R129) -/
  | fabs (p : Option Pfx) (d a : Code)
  /-- FSET_EQ: Writes 1 if a equals b as IEEE compares. (R130) -/
  | fsetEq (p : Option Pfx) (d a b : Code)
  /-- FSET_NE: Writes 1 if a differs from b or either is NaN. (R130) -/
  | fsetNe (p : Option Pfx) (d a b : Code)
  /-- FSET_LT: Writes 1 if a is less than b and neither is NaN. (R130) -/
  | fsetLt (p : Option Pfx) (d a b : Code)
  /-- FSET_LE: Writes 1 if a is at most b and neither is NaN. (R130) -/
  | fsetLe (p : Option Pfx) (d a b : Code)
  /-- FSET_UN: Writes 1 if a or b is NaN. (R130) -/
  | fsetUn (p : Option Pfx) (d a b : Code)
  /-- FRND: Rounds a to an integral f32 value in the mode. (R131) -/
  | frnd (p : Option Pfx) (d a : Code)
  /-- FDIV: Writes the correctly rounded quotient a over b. (R132) -/
  | fdiv (p : Option Pfx) (d a b : Code)
  /-- FSQRT: Writes the correctly rounded square root of a. (R132) -/
  | fsqrt (p : Option Pfx) (d a : Code)
  /-- FRCP: Writes the correctly rounded reciprocal of a. (R132) -/
  | frcp (p : Option Pfx) (d a : Code)
  /-- FRSQ: Writes the correctly rounded reciprocal square root of a. (R132) -/
  | frsq (p : Option Pfx) (d a : Code)
  /-- FEXP2: Writes the correctly rounded 2 to the power a. (R132) -/
  | fexp2 (p : Option Pfx) (d a : Code)
  /-- FLOG2: Writes the correctly rounded base-2 logarithm of a. (R132) -/
  | flog2 (p : Option Pfx) (d a : Code)
  /-- FSIN: Writes the correctly rounded sine of a. (R132) -/
  | fsin (p : Option Pfx) (d a : Code)
  /-- FCOS: Writes the correctly rounded cosine of a. (R132) -/
  | fcos (p : Option Pfx) (d a : Code)
  /-- FTANH: Writes the correctly rounded hyperbolic tangent of a. (R132) -/
  | ftanh (p : Option Pfx) (d a : Code)
  /-- FSIG: Writes the correctly rounded logistic sigmoid of a. (R132) -/
  | fsig (p : Option Pfx) (d a : Code)
  /-- FCLASS: Writes a one-hot class code of the f32 value a. (R133) -/
  | fclass (p : Option Pfx) (d a : Code)
  /-- FSCALE: Writes a times 2 to the signed power b, rounded once. (R134) -/
  | fscale (p : Option Pfx) (d a b : Code)
  /-- PADD_BF: Adds two packed bf16 element pairs. (R135) -/
  | paddBf (p : Option Pfx) (d a b : Code)
  /-- PMUL_BF: Multiplies two packed bf16 element pairs. (R135) -/
  | pmulBf (p : Option Pfx) (d a b : Code)
  /-- PFMA_BF: Fused multiply-add on packed bf16 elements. (R135) -/
  | pfmaBf (p : Option Pfx) (d a b : Code)
  /-- PADD_H: Adds two packed f16 element pairs. (R135) -/
  | paddH (p : Option Pfx) (d a b : Code)
  /-- PMUL_H: Multiplies two packed f16 element pairs. (R135) -/
  | pmulH (p : Option Pfx) (d a b : Code)
  /-- PFMA_H: Fused multiply-add on packed f16 elements. (R135) -/
  | pfmaH (p : Option Pfx) (d a b : Code)
  /-- CVT: Converts a by the conversion code held in the b field. (R136) -/
  | cvt (p : Option Pfx) (d a b : Code)
  /-- CVTPK_BF: Converts two f32 sources to bf16 and packs them. (R137) -/
  | cvtpkBf (p : Option Pfx) (d a b : Code)
  /-- CVTPK_H: Converts two f32 sources to f16 and packs them. (R137) -/
  | cvtpkH (p : Option Pfx) (d a b : Code)
  /-- CVTPK_E4: Converts two f32 sources to e4m3 and shifts them into d. (R137) -/
  | cvtpkE4 (p : Option Pfx) (d a b : Code)
  /-- CVTPK_E5: Converts two f32 sources to e5m2 and shifts them into d. (R137) -/
  | cvtpkE5 (p : Option Pfx) (d a b : Code)
  /-- CVTPK_I8: Converts two f32 sources to i8 and shifts them into d. (R137) -/
  | cvtpkI8 (p : Option Pfx) (d a b : Code)
  /-- CVTPK_N8: Converts two f32 sources to n8 and shifts them into d. (R137) -/
  | cvtpkN8 (p : Option Pfx) (d a b : Code)
  /-- CVTUN: Extracts and widens one packed element of a selected by the b field. (R138) -/
  | cvtun (p : Option Pfx) (d a b : Code)
  /-- XSHFL: Reads register a of a chosen lane of the thread's segment. (R140) -/
  | xshfl (p : Option Pfx) (d a b : Code)
  /-- XBFLY: Reads register a of the lane t XOR n. (R140) -/
  | xbfly (p : Option Pfx) (d a b : Code)
  /-- XUP: Reads register a of the segment rotated up by n. (R140) -/
  | xup (p : Option Pfx) (d a b : Code)
  /-- XDN: Reads register a of the segment rotated down by n. (R140) -/
  | xdn (p : Option Pfx) (d a b : Code)
  /-- XBCAST: Broadcasts register a of the lane chosen by the lowest executing thread. (R140) -/
  | xbcast (p : Option Pfx) (d a b : Code)
  /-- VOTEANY: Writes 1 if some contributor has a nonzero a. (R141) -/
  | voteany (p : Option Pfx) (d a : Code)
  /-- VOTEALL: Writes 1 if every contributor has a nonzero a. (R141) -/
  | voteall (p : Option Pfx) (d a : Code)
  /-- BALLOT: Writes the mask of contributors with nonzero a. (R141) -/
  | ballot (p : Option Pfx) (d a : Code)
  /-- XRED_ADD_I: Writes the exact wrapped integer sum over contributing lanes. (R142) -/
  | xredAddI (p : Option Pfx) (d a : Code)
  /-- XRED_ADD_F: Writes the f32 sum formed by the fixed lane tree. (R142) -/
  | xredAddF (p : Option Pfx) (d a : Code)
  /-- XRED_MIN_I: Writes the least signed value over contributing lanes. (R142) -/
  | xredMinI (p : Option Pfx) (d a : Code)
  /-- XRED_MAX_I: Writes the greatest signed value over contributing lanes. (R142) -/
  | xredMaxI (p : Option Pfx) (d a : Code)
  /-- XRED_MIN_F: Writes minimumNumber over contributing lanes. (R142) -/
  | xredMinF (p : Option Pfx) (d a : Code)
  /-- XRED_MAX_F: Writes maximumNumber over contributing lanes. (R142) -/
  | xredMaxF (p : Option Pfx) (d a : Code)
  /-- XSCAN_ADD_I: Writes each lane's inclusive integer prefix sum. (R142) -/
  | xscanAddI (p : Option Pfx) (d a : Code)
  /-- XSCAN_ADD_F: Writes each lane's inclusive f32 prefix sum by the five-step scan. (R142) -/
  | xscanAddF (p : Option Pfx) (d a : Code)
  /-- IDP4_II: Signed four-byte dot product added to the third source, wrapped. (R143) -/
  | idp4Ii (p : Option Pfx) (d a b : Code)
  /-- IDP4_NN: Unsigned four-byte dot product added to the third source, wrapped. (R143) -/
  | idp4Nn (p : Option Pfx) (d a b : Code)
  /-- IDP4S_II: Signed four-byte dot product with one final clamp to i32. (R143) -/
  | idp4sIi (p : Option Pfx) (d a b : Code)
  /-- IDP4S_NN: Unsigned four-byte dot product with one final clamp to n32. (R143) -/
  | idp4sNn (p : Option Pfx) (d a b : Code)
  /-- IDP2_II: Signed two-half dot product added to the third source, wrapped. (R143) -/
  | idp2Ii (p : Option Pfx) (d a b : Code)
  /-- IDP2S_II: Signed two-half dot product with one final clamp to i32. (R143) -/
  | idp2sIi (p : Option Pfx) (d a b : Code)
  /-- BRA: Branches the executing threads to PC plus four times the immediate. (R147) -/
  | bra (i : BitVec 21)
  /-- CALL: Pushes a return-stack entry and branches. (R147) -/
  | call (i : BitVec 21)
  /-- BZ: Branches each thread whose d is zero. (R147) -/
  | bz (d : Code) (i : BitVec 14)
  /-- BNZ: Branches each thread whose d is nonzero. (R147) -/
  | bnz (d : Code) (i : BitVec 14)
  /-- BEOD: Branches if the end-of-dimension flag of a stream port is set. (R147) -/
  | beod (q dim : BitVec 2) (i : BitVec 14)
  /-- JMP: Jumps each thread to the address in its register pair a. (R147) -/
  | jmp (a : Code)
  /-- CALLR: Pushes a return-stack entry and jumps to the address in pair a. (R147) -/
  | callr (a : Code)
  /-- RET: Returns each thread to the newest call entry holding its bit and pops empty entries. (R157) -/
  | ret
  /-- EXIT: Ends the executing threads, clearing their mask bits, and ends the group's part when last. (R148) -/
  | exit
  /-- TRAP: Ends the chunk and faults TRAP_SW recording the immediate. (R147) -/
  | trap (i : BitVec 14)
  /-- BRK: Ends the chunk and faults BREAKPOINT. (R147) -/
  | brk
  /-- NOP: Does nothing. (R147) -/
  | nop
  /-- MJOIN: Sets the executing threads' bits in a mask register. (R150) -/
  | mjoin (d : Code)
  /-- MLEAVE: Clears the executing threads' bits in a mask and re-evaluates release. (R150) -/
  | mleave (d : Code)
  /-- MWAIT: Makes member threads wait on a mask until all its members wait. (R151) -/
  | mwait (d : Code)
  /-- MSYNC: As MWAIT, and clears the mask at release. (R151) -/
  | msync (d : Code)
  /-- MSET: Writes a mask register from a and re-evaluates release. (R150) -/
  | mset (d a : Code)
  /-- MGET: Reads a mask register into d. (R150) -/
  | mget (d a : Code)
  /-- MACT: Writes the set of executing threads into d. (R150) -/
  | mact (d : Code)
  /-- CKEND: Ends the current chunk and leaves irrevocable mode. (R162) -/
  | ckend
  /-- CKIRR: Ends the chunk, waits for its commit and enters irrevocable mode. (R163) -/
  | ckirr
  /-- CKSTAT: Writes the current chunk status word to d. (R162) -/
  | ckstat (d : Code)
  /-- WBASE: Sets the group's window base to the immediate. (R165) -/
  | wbase (i : BitVec 14)
  /-- WGROW: Tries to grow the register allocation, returning GRANTED or REFUSED. (R166) -/
  | wgrow (d a : Code)
  /-- MFSR: Reads a system register into d. (R168) -/
  | mfsr (d : Code) (i : BitVec 14)
  /-- MTSR: Writes a system register from d, in F-mode. (R168) -/
  | mtsr (d : Code) (i : BitVec 14)
  /-- ERET: Returns from an F-mode trap handler to the trapped threads. (R173) -/
  | eret
  /-- SYSCALL: Ends the chunk and posts a system-call record to the vintner core, or traps in F-mode. (R174) -/
  | syscall (i : BitVec 14)
  /-- TLBINV: Invalidates cached translations of a page, a PASID or all. (R375) -/
  | tlbinv (a b : Code)
  /-- CTXSAVE: Writes the kind-2 record of the stopped group named by CTXSEL. (R176) -/
  | ctxsave (a : Code)
  /-- CTXRSTR: Loads a kind-2 record into the free slot named by CTXSEL. (R176) -/
  | ctxrstr (a : Code)
  /-- WFI: Ends the chunk and waits until FPEND AND FIEN is nonzero. (R173) -/
  | wfi
  /-- IPI: Sets the sender's die bit of FPEND on a vintner core. (R173) -/
  | ipi (a : Code)
  /-- QMAP: Maps a host queue to a free hardware slot. (R350) -/
  | qmap (a b : Code)
  /-- QUNMAP: Unmaps a hardware slot at its next packet boundary. (R350) -/
  | qunmap (a : Code)
  /-- GANGRES: Reserves cores for a LAUNCH image and returns a reservation status. (R351) -/
  | gangres (d a : Code)
  /-- GANGCMT: Binds reserved cores and sets the root start time. (R352) -/
  | gangcmt (a : Code)
  /-- GANGABT: Releases a reservation. (R352) -/
  | gangabt (a : Code)
  /-- LDG_8I: Loads a sign-extended byte from global memory. (R241) -/
  | ldg8i (p : Option Pfx) (d a b : Code)
  /-- LDG_8N: Loads a zero-extended byte from global memory. (R241) -/
  | ldg8n (p : Option Pfx) (d a b : Code)
  /-- LDG_16I: Loads a sign-extended half from global memory. (R241) -/
  | ldg16i (p : Option Pfx) (d a b : Code)
  /-- LDG_16N: Loads a zero-extended half from global memory. (R241) -/
  | ldg16n (p : Option Pfx) (d a b : Code)
  /-- LDG_32: Loads a word from global memory. (R241) -/
  | ldg32 (p : Option Pfx) (d a b : Code)
  /-- LDG_64: Loads a doubleword into a register pair. (R241) -/
  | ldg64 (p : Option Pfx) (d a b : Code)
  /-- LDG_128: Loads 16 bytes into a register quad. (R241) -/
  | ldg128 (p : Option Pfx) (d a b : Code)
  /-- STG_8: Stores a byte to global memory as part of the chunk. (R241) -/
  | stg8 (p : Option Pfx) (d a b : Code)
  /-- STG_16: Stores a half to global memory. (R241) -/
  | stg16 (p : Option Pfx) (d a b : Code)
  /-- STG_32: Stores a word to global memory. (R241) -/
  | stg32 (p : Option Pfx) (d a b : Code)
  /-- STG_64: Stores a register pair to global memory. (R241) -/
  | stg64 (p : Option Pfx) (d a b : Code)
  /-- STG_128: Stores a register quad to global memory. (R241) -/
  | stg128 (p : Option Pfx) (d a b : Code)
  /-- LDS_8I: Loads a sign-extended byte from scratch. (R244) -/
  | lds8i (p : Option Pfx) (d a b : Code)
  /-- LDS_8N: Loads a zero-extended byte from scratch. (R244) -/
  | lds8n (p : Option Pfx) (d a b : Code)
  /-- LDS_16I: Loads a sign-extended half from scratch. (R244) -/
  | lds16i (p : Option Pfx) (d a b : Code)
  /-- LDS_16N: Loads a zero-extended half from scratch. (R244) -/
  | lds16n (p : Option Pfx) (d a b : Code)
  /-- LDS_32: Loads a word from scratch. (R244) -/
  | lds32 (p : Option Pfx) (d a b : Code)
  /-- LDS_64: Loads a doubleword from scratch into a pair. (R244) -/
  | lds64 (p : Option Pfx) (d a b : Code)
  /-- LDS_128: Loads 16 bytes from scratch into a quad. (R244) -/
  | lds128 (p : Option Pfx) (d a b : Code)
  /-- STS_8: Stores a byte to scratch. (R244) -/
  | sts8 (p : Option Pfx) (d a b : Code)
  /-- STS_16: Stores a half to scratch. (R244) -/
  | sts16 (p : Option Pfx) (d a b : Code)
  /-- STS_32: Stores a word to scratch. (R244) -/
  | sts32 (p : Option Pfx) (d a b : Code)
  /-- STS_64: Stores a pair to scratch. (R244) -/
  | sts64 (p : Option Pfx) (d a b : Code)
  /-- STS_128: Stores a quad to scratch. (R244) -/
  | sts128 (p : Option Pfx) (d a b : Code)
  /-- LDK: Performs one uniform word load and writes it to every executing thread. (R242) -/
  | ldk (p : Option Pfx) (d a b : Code)
  /-- PFL: Requests lines to be filled into L1 or stash without fault or value change. (R243) -/
  | pfl (p : Option Pfx) (a b : Code)
  /-- SMAP: Enters a stash map entry at the commit of its chunk. (R248) -/
  | smap (p : Option Pfx) (d a b : Code)
  /-- SUNMAP: Removes stash map entries at commit, writing back dirty lines. (R248) -/
  | sunmap (p : Option Pfx) (d b : Code)
  /-- SFLUSH: Writes back committed dirty stash lines of a range. (R249) -/
  | sflush (p : Option Pfx) (d b : Code)
  /-- SDROP: Discards stash copies of a range without write-back at commit. (R248) -/
  | sdrop (p : Option Pfx) (d b : Code)
  /-- LLOCK: Pins lines in L1 or stash and returns a lock status. (R250) -/
  | llock (p : Option Pfx) (d a b : Code)
  /-- LUNLOCK: Clears the pins of the addressed lines. (R250) -/
  | lunlock (p : Option Pfx) (a b : Code)
  /-- CACHEOP: Performs a privileged cache operation on a device-physical line. (R251) -/
  | cacheop (p : Option Pfx) (d a b : Code)
  /-- ATOM_ADD: Atomic 32-bit add returning the old value. (R252) -/
  | atomAdd (p : Option Pfx) (d a b : Code)
  /-- ATOM_AND: Atomic 32-bit AND returning the old value. (R252) -/
  | atomAnd (p : Option Pfx) (d a b : Code)
  /-- ATOM_OR: Atomic 32-bit OR returning the old value. (R252) -/
  | atomOr (p : Option Pfx) (d a b : Code)
  /-- ATOM_XOR: Atomic 32-bit XOR returning the old value. (R252) -/
  | atomXor (p : Option Pfx) (d a b : Code)
  /-- ATOM_MIN_I: Atomic signed minimum returning the old value. (R252) -/
  | atomMinI (p : Option Pfx) (d a b : Code)
  /-- ATOM_MIN_N: Atomic unsigned minimum returning the old value. (R252) -/
  | atomMinN (p : Option Pfx) (d a b : Code)
  /-- ATOM_MAX_I: Atomic signed maximum returning the old value. (R252) -/
  | atomMaxI (p : Option Pfx) (d a b : Code)
  /-- ATOM_MAX_N: Atomic unsigned maximum returning the old value. (R252) -/
  | atomMaxN (p : Option Pfx) (d a b : Code)
  /-- ATOM_EXCH: Atomic exchange returning the old value. (R252) -/
  | atomExch (p : Option Pfx) (d a b : Code)
  /-- ATOM_CAS: Atomic 32-bit compare-and-swap with the compare value in d. (R252) -/
  | atomCas (p : Option Pfx) (d a b : Code)
  /-- ATOM64_ADD: Atomic 64-bit add returning the old value. (R252) -/
  | atom64Add (p : Option Pfx) (d a b : Code)
  /-- ATOM64_CAS: Atomic 64-bit compare-and-swap. (R252) -/
  | atom64Cas (p : Option Pfx) (d a b : Code)
  /-- RED_ADD_I: Releases a far 32-bit integer add at commit. (R254) -/
  | redAddI (p : Option Pfx) (d a b : Code)
  /-- RED_ADD_F: Releases a far f32 add at commit. (R254) -/
  | redAddF (p : Option Pfx) (d a b : Code)
  /-- RED_AND: Releases a far AND at commit. (R254) -/
  | redAnd (p : Option Pfx) (d a b : Code)
  /-- RED_OR: Releases a far OR at commit. (R254) -/
  | redOr (p : Option Pfx) (d a b : Code)
  /-- RED_XOR: Releases a far XOR at commit. (R254) -/
  | redXor (p : Option Pfx) (d a b : Code)
  /-- RED_MIN_I: Releases a far signed minimum at commit. (R254) -/
  | redMinI (p : Option Pfx) (d a b : Code)
  /-- RED_MIN_N: Releases a far unsigned minimum at commit. (R254) -/
  | redMinN (p : Option Pfx) (d a b : Code)
  /-- RED_MAX_I: Releases a far signed maximum at commit. (R254) -/
  | redMaxI (p : Option Pfx) (d a b : Code)
  /-- RED_MAX_N: Releases a far unsigned maximum at commit. (R254) -/
  | redMaxN (p : Option Pfx) (d a b : Code)
  /-- RED_ADD_I64: Releases a far 64-bit integer add at commit. (R254) -/
  | redAddI64 (p : Option Pfx) (d a b : Code)
  /-- WAITADDR: Ends the chunk and sleeps until the watched line is written or the timeout ends. (R259) -/
  | waitaddr (a b : Code)
  /-- STREL_32: Stores a word with release at the given scope. (R257) -/
  | strel32 (p : Option Pfx) (d a b : Code)
  /-- STREL_64: Stores a pair with release at the given scope. (R257) -/
  | strel64 (p : Option Pfx) (d a b : Code)
  /-- LDACQ_32: Loads a word with acquire at the given scope. (R257) -/
  | ldacq32 (p : Option Pfx) (d a b : Code)
  /-- LDACQ_64: Loads a pair with acquire at the given scope. (R257) -/
  | ldacq64 (p : Option Pfx) (d a b : Code)
  /-- FENCE: Orders accesses beyond the package at scopes 7 to 9; no effect below. (R258) -/
  | fence (d : Code)
  /-- CPSEAL: Seals the thread's open copy batch and returns its number. (R267) -/
  | cpseal (d : Code)
  /-- CPWAIT: Waits until the thread's batches up to a number are complete. (R267) -/
  | cpwait (a : Code)
  /-- CPY: Queues a multi-dimensional copy per thread and ends the chunk. (R260) -/
  | cpy (p : Option Pfx) (a b : Code)
  /-- TCPY: Queues a tensor-to-tile copy per thread and ends the chunk. (R260) -/
  | tcpy (p : Option Pfx) (a b : Code)
  /-- CPYQ: Queues copies without waiting and returns ACCEPTED or QFULL. (R261) -/
  | cpyq (p : Option Pfx) (d a b : Code)
  /-- STRBIND: Binds a stream port to a descriptor at position zero. (R332) -/
  | strbind (d a b : Code)
  /-- STRUNB: Unbinds a stream port and frees its context. (R332) -/
  | strunb (d : Code)
  /-- STRSKIP: Advances a stream position without access. (R332) -/
  | strskip (d a : Code)
  /-- ACCALLOC: Requests more accumulator tiles for the team, waiting for a grant. (R273) -/
  | accalloc (d a : Code)
  /-- ACCFREE: Releases accumulator tile names as an engine operation. (R275) -/
  | accfree (a : Code)
  /-- ACCZERO: Zeroes the named tiles as an engine operation. (R288) -/
  | acczero (a : Code)
  /-- ACCLD: Loads tile rows from scratch as an engine operation. (R288) -/
  | accld (d a b : Code)
  /-- ACCST: Stores tile rows to scratch as an engine operation. (R288) -/
  | accst (d a b : Code)
  /-- MMA: Issues a team matrix multiply-accumulate into a tile. (R283) -/
  | mma (d a b : Code)
  /-- MMAWAIT: Waits until at most m engine operations of the group are incomplete. (R290) -/
  | mmawait (a : Code)
  /-- CBLOAD: Loads a codebook slot from scratch as an engine operation. (R279) -/
  | cbload (a b : Code)
  /-- ACCEPI: Reads one tile element per thread, converted, into d. (R289) -/
  | accepi (d a b : Code)
  /-- MMASTAT: Writes the group's matrix status word to d. (R291) -/
  | mmastat (d : Code)
  /-- SPAWN: Creates a plain or continuation task from a closure line. (R317) -/
  | spawn (d a : Code)
  /-- SPAWNR: Creates a range task from a closure line. (R317) -/
  | spawnr (d a : Code)
  /-- JOIN: Reads a future's value, runs its child inline, or parks. (R318) -/
  | join (d a : Code)
  /-- FNEW: Allocates a future table entry and returns its handle or 0. (R320) -/
  | fnew (d : Code)
  /-- FRES: Resolves a future with a 64-bit value at commit. (R320) -/
  | fres (a b : Code)
  /-- FPOLL: Returns the state of a future. (R320) -/
  | fpoll (d a : Code)
  /-- TEND: Ends the group's part of its task, resolving the future when last. (R321) -/
  | tend (a : Code)
  /-- ITEMNEXT: Takes the next item of the running piece per thread, or branches out. (R323) -/
  | itemnext (i : BitVec 14)
  /-- TYIELD: Lets other groups of the pipe issue first for 64 issue clk. (R324) -/
  | tyield
  /-- CHBIND: Binds channel port q4 or q5 to a declared channel. (R328) -/
  | chbind (d a : Code)
  /-- CHUNB: Unbinds a channel port. (R328) -/
  | chunb (d : Code)
  /-- CHSTAT: Writes the status of a channel to d. (R328) -/
  | chstat (d a : Code)
  /-- BAR: Arrives at a barrier at commit and waits for its release. (R413) -/
  | bar (d a b : Code)
  /-- BARARV: Arrives at a barrier and continues once accepted. (R413) -/
  | bararv (a b : Code)
  /-- BARWT: Waits for the release of the group's barrier record. (R413) -/
  | barwt (d b : Code)
  /-- GBAR: Arrives at the gang barrier and waits. (R413) -/
  | gbar (d a b : Code)
  /-- GRPOPEN: Opens a reduction or multicast group id at commit. (R417) -/
  | grpopen (a : Code)
  /-- GRPCLOSE: Closes a reduction or multicast group id at commit. (R418) -/
  | grpclose (a : Code)
  /-- MCST: Sends a scratch line to group members at commit. (R419) -/
  | mcst (a b : Code)
  /-- CTRRD: Reads half of a named counter into d. (R403) -/
  | ctrrd (d a : Code)
  /-- CTRSET: Writes half of a writable counter. (R404) -/
  | ctrset (a b : Code)
  deriving DecidableEq, Repr

end Sys2Proof
end

