-- ==== Sys2Proof/Machine/State.lean ====
section
/-! DEFINITION. Sys2Proof/Machine/State.lean: all the state that the spec gives the device, as plain data, the reasons a step can
stop, and the state after power-on reset. Names follow the spec; each field cites the rule that names it. -/

namespace Sys2Proof.Machine

/-- A fault outcome of a step: the machine itself stops. Device faults (R391) are never outcomes: they are taken (R171, R177). -/
inductive Fault where
  /-- Raised by `exec` on an instruction word when no live group stands at the issuing context `State.cur`: there is no group
  that could execute it. Safe: `step` never issues without a group. -/
  | noGroup
  deriving DecidableEq, Repr

/-- A refusal outcome of a step. -/
inductive Refusal where
  /-- Raised by `exec` for an instruction whose meaning is not written yet. Safe: nothing is claimed of it. -/
  | notModelled (mnemonic : String)
  deriving DecidableEq, Repr

/-- A write or read signature: four banks of 512 bits (R216). -/
structure Sig where
  b0 : BitVec 512 := 0
  b1 : BitVec 512 := 0
  b2 : BitVec 512 := 0
  b3 : BitVec 512 := 0
  deriving DecidableEq, Repr

/-- What a thread is doing (R27, R148, R151, R174, R259, R273, R318, R413). -/
inductive Thr where
  /-- Eligible as far as the thread itself goes. -/
  | run
  /-- Exited (R148). -/
  | exited
  /-- Waiting on mask `mk` at its MWAIT or MSYNC (R151). -/
  | mwait (mk : Nat) (sync : Bool)
  /-- Parked in a JOIN on future `h`, whose value goes to `d` (R318). -/
  | join (h : Dword) (d : Code)
  /-- Waiting for an inline call that has not started, or (a team sibling) for the caller (R317, R319). -/
  | call
  /-- Blocked in BAR, BARWT or GBAR on barrier `id` (16 cluster, 17 gang); the result goes to `d` (R413). -/
  | bar (id : Nat) (d : Code)
  /-- Waiting in BARARV for acceptance (R413). -/
  | barAck (id : Nat)
  /-- Asleep in WAITADDR (R259). -/
  | addr
  /-- Waiting for a system call's answer (R174). -/
  | sysc
  deriving DecidableEq, Repr

/-- A bound operand stream (R329, R330): its descriptor's fields and its position. -/
structure Stream where
  base : Dword
  esz : Nat
  sgn : Bool
  scr : Bool
  store : Bool
  nd : Nat
  lstr : Word
  cnt : List Word
  str : List Word
  pos : List Nat
  deriving DecidableEq, Repr

/-- What the removal of translations still waits for (R376): chunks that are not squashed, and the device-physical pages that the removed
entries gave, each a first page and a number, whose stores beyond the package are to be acknowledged. -/
structure InvWait where
  chunks : List ChunkRef
  pages : List (Nat × Nat)
  deriving DecidableEq, Repr

/-- The part of a group that a chunk's checkpoint copies and a squash restores (R99, R161, R267, R270, R328, R332, R398). -/
structure GRegs where
  /-- Vector registers of the allocation: key 32 × physical register + lane (R94). -/
  v : Sparse Word := []
  /-- k0–k15 (R100). -/
  k : Sparse Word := []
  /-- m0–m11 (R149). -/
  m : Sparse Word := []
  /-- WB (R95). -/
  wb : Nat := 0
  /-- CYS (R102). -/
  cys : Word := 0
  /-- EOD of `sf` (R159). -/
  eod : BitVec 16 := 0
  /-- RST of `sf` (R159). -/
  rst : Bool := false
  /-- ICALL of `sf` (R159). -/
  icall : Bool := false
  /-- `it` of each lane; an unlisted lane holds 0xFFFF_FFFF (R102). -/
  it : Sparse Word := []
  /-- The program counters (R93). -/
  pc : Sparse PC := []
  /-- What each thread is doing; an unlisted lane runs. -/
  thr : Sparse Thr := []
  /-- RSP: occupied lines of the return stack (R153). -/
  rsp : Nat := 0
  /-- Bound streams of q0–q3 (R332). -/
  streams : Sparse Stream := []
  /-- Channels bound to q4 (key 4) and q5 (key 5) (R328). -/
  chans : Sparse Nat := []
  /-- ACNT0–ACNT15, ACNTC (16), ACNTG (17) (R398). -/
  acnt : Sparse (BitVec 15) := []
  /-- PFB (R398). -/
  pfb : BitVec 5 := 0
  /-- Expected sequence number of the group's next MMA (R270). -/
  seq : BitVec 4 := 0
  /-- The number of the last batch each lane sealed (R267). -/
  sealed : Sparse Nat := []
  /-- ACCALLOC names that only this group sees as held yet, and names its ACCFREE has given up (R273, R275). -/
  accOwn : BitVec 8 := 0
  accGone : BitVec 8 := 0
  deriving DecidableEq, Repr

/-- A stash-map entry (R246): V, first scratch line, number of lines, first global (virtual) line, and PEND. The entry of an SMAP
whose chunk has not committed has V = 0 and PEND = 1. -/
structure StashEnt where
  valid : Bool
  sline : Nat
  nline : Nat
  gline : Nat
  pend : Bool
  deriving DecidableEq, Repr

/-- A pending task node (R308, R317): its entry, handles, predecessor count and whether it is committed. -/
structure PNode where
  e : DqEntry
  count : Nat
  deps : List Dword
  grid : Nat
  deriving DecidableEq, Repr

/-- An engine operation (R280, R297). Kind: 0 ACCZERO, 1 ACCLD, 2 ACCST, 3 MMA, 4 CBLOAD, 5 ACCFREE. `order` numbers the releases
of the core; `phys` holds the physical tiles of the names; `differ` marks members' MMAs that are not equal; `waitSince` is the clk at which an MMA became ready or ran its last step (R294). -/
structure EngOp where
  core : Nat
  team : Nat
  gi : Nat
  kind : Nat
  word : Word
  opA : Dword
  opB : Dword
  bytes : List Byte
  arrived : List Nat
  next : Nat
  order : Nat
  waitSince : Nat
  differ : Bool
  phys : List Nat
  /-- An MMA is ready, and `waitSince` counts (R294). -/
  ready : Bool := false
  /-- The operation has failed and waits only for the arrivals still to come (R292). -/
  failed : Bool := false
  deriving DecidableEq, Repr

/-- A fault record (R389). -/
structure FaultRec where
  code : Nat
  cause : Nat
  wr : Bool
  fetch : Bool
  under : Bool
  recov : Bool
  src : Nat
  engine : Bool
  core : Nat
  slot : Nat
  shape : Nat
  gi : Nat
  lane : Nat
  pc : PC
  addr : Nat
  imm : BitVec 14
  ctx : Word
  time : Dword
  ivec : List Nat
  opkind : Nat
  opword : Word
  deriving DecidableEq, Repr

/-- A copy (R260 to R268): issuer, batch, descriptor, progress. `st`: 0 waiting for its dependency or start, 1 running, 2 stopped
on a recoverable fault, 3 complete, 4 ended with a fault, whose record it keeps (R389). -/
structure Copy where
  core : Nat
  slot : Nat
  lane : Nat
  batch : Nat
  uid : Nat
  desc : List Dword
  st : Nat
  count : Nat
  pos : Nat
  die : Nat
  engine : Nat
  pasid : Nat
  grid : Option Nat
  pkt : Option (Nat × Nat)
  fault : Option FaultRec
  endOrder : Nat
  /-- Of a TCPY: the scale byte of the block in progress (R265). -/
  scale : Nat := 0x7F
  /-- Names the outermost task of the issuing group (R228). -/
  base : Nat := 0
  deriving DecidableEq, Repr

/-- Where an inline call returns to (R158, R317, R318, R319): the issuing group's index, the address of its instruction, the threads that
executed it, its destination, and the handle if a JOIN claimed the child. -/
structure CallInfo where
  gi : Nat
  pc : PC
  lanes : List Nat
  d : Code
  joinH : Option Dword
  deriving DecidableEq, Repr

/-- An inline call that has not started: what it returns to, the child's closure address and line, the dependencies still awaited (bit j
for the j-th), and the number that its waits carry. -/
structure PendCall where
  info : CallInfo
  ca : Dword
  cl : List Dword
  deps : Nat
  tag : Nat
  /-- The deque entry that a JOIN's claim has removed, at its commit (R318). -/
  entry : Option DqEntry := none
  deriving DecidableEq, Repr

/-- An effect held until its chunk commits (R41, R217, R248, R267, R280, R410, R419, R453). -/
inductive Effect where
  /-- A task entry pushed on the own deque (R306). -/
  | push (e : DqEntry)
  /-- A node entered in the pending pool (R308). -/
  | node (e : DqEntry) (deps : List Dword)
  /-- A range task's item count, set at the SPAWNR commit, and the RESULT that it concerns; an empty range resolves (R308, R311). -/
  | rangeInit (h : Dword) (n : Nat)
  /-- The spawning task's continuation flag (R317). -/
  | contFlag
  /-- A future entry allocated by FNEW: nothing at commit; a squash returns it (R320). -/
  | fnew (idx : Nat)
  /-- A resolution (R320). -/
  | resolve (h v : Dword)
  /-- The freeing of an entry whose value a JOIN read (R318). -/
  | ffree (h : Dword)
  /-- A channel slot sent to a core's receive end (R326). -/
  | send (core chan : Nat) (s : ChanSlot)
  /-- A received channel slot freed (R326). -/
  | recvDone (chan : Nat)
  /-- A far reduction (R254). -/
  | red (r : Red)
  /-- Stores beyond the package by one instruction, merged: the bytes of each are written together (R229, R231, R235). -/
  | ext (atoms : List (List Host.Cell)) (rel : Bool := false)
  /-- A copy (R260). -/
  | copy (c : Copy)
  /-- Stash-map changes (R248). -/
  | smap (e : StashEnt)
  | sunmap (sline nline : Nat)
  | sdrop (sline nline : Nat)
  /-- A stash-map instruction that changes nothing: its range, and the global lines that an SMAP named. -/
  | mapSame (sline nline : Nat) (gline : Option Nat)
  /-- CACHEOP POISON (R251): what the chunk writes afterwards is noted in `Chunk.psn`. -/
  | cachePoison (line : Nat)
  /-- An engine operation (R280). -/
  | engine (o : EngOp)
  /-- Names of an ACCALLOC become held for the team (R273). -/
  | accNames (mask : BitVec 8)
  /-- Items done of the running piece (R314). -/
  | items (h : Dword) (n : Nat)
  /-- A parking JOIN's registration (R318). -/
  | park (h : Dword)
  /-- An inline call, and the dependencies to wait on (R158, R317, R318). -/
  | inlineCall (c : PendCall) (deps : List Dword)
  /-- Threads wait on an arrival record: a release that has come by then lets them go on (R413). -/
  | barPoll (i : Nat)
  /-- An arrival record consumed by an instruction that wrote its result to a port (R413). -/
  | barUsed (i : Nat)
  /-- A barrier arrival (R410). -/
  | arrive (b : BarRef) (a : Arrival)
  /-- A bound PFL's line (R414). -/
  | pending (b : BarRef) (line : Nat)
  /-- A multicast or reduction send: the id's state as its MCST read it, and the bytes of its line that the chunk had written by then (R221,
  R419). -/
  | mcst (gid : Nat) (off : Nat) (w : Word) (own : List (Option Byte))
  /-- The arming of a WAITADDR: threads, device-physical line, timeout in clk (R259). -/
  | watch (lanes : List Nat) (line : Nat) (timeout : Nat)
  /-- A system-call record (R174). -/
  | sysc (imm : BitVec 14) (pc : PC) (args : List Word) (lanes : List Nat)
  /-- A firmware-block command written by an MMIO store (R453). -/
  | fwWrite (off size : Nat) (v : Dword)
  /-- The end of the group's part of its task, by TEND with a value or by the last EXIT (R148, R321). -/
  | groupEnd (tend : Option Dword)
  deriving DecidableEq, Repr

/-- A chunk of a group (R161, R215, R217): its checkpoint, buffered bytes, signatures, lines and deferred effects, and for an
ended chunk how far its commit has got. -/
structure Chunk where
  num : Nat := 0
  ckpt : GRegs := {}
  /-- Uncommitted bytes of global memory and beyond, by device-physical address. -/
  wr : Sparse (Option Byte) := []
  /-- Uncommitted bytes of unmapped scratch, key core × 2^28 + offset. -/
  ws : Sparse (Option Byte) := []
  /-- Uncommitted bytes of the return stack, by device-physical address (R154). -/
  wk : Sparse (Option Byte) := []
  rsig : Sig := {}
  wsig : Sig := {}
  /-- Distinct written lines that count towards the limit (R215). -/
  lines : List Nat := []
  /-- Global lines written, that is, claimed at commit. -/
  glines : List Nat := []
  /-- Lines read, exactly: what WAITADDR, the stash map and TLBINV ask about; and unmapped scratch lines read, by their keys. -/
  reads : List Nat := []
  sreads : List Nat := []
  effects : List Effect := []
  /-- Lines that a CACHEOP POISON of the chunk names, and the bytes of each that the chunk has written since (R209, R251). -/
  psn : Sparse (List Nat) := []
  /-- SLOTS and SQ (R162). -/
  slots : Nat := 0
  sq : Nat := 0
  /-- The instruction that issues now is the chunk's last (R215). -/
  ending : Bool := false
  /-- A KIND 2 SPAWN issued in the chunk (R317). -/
  kind2 : Bool := false
  pri : Bool := false
  irr : Bool := false
  /-- 0 open; 1 ended, asking its Presses; 2 signature sent; 3 in the claim stage. -/
  phase : Nat := 0
  /-- Dies still to grant, and dies that have granted (R219). -/
  toGrant : List Nat := []
  granted : List Nat := []
  /-- Acknowledgements of W awaited (R220). -/
  acks : Nat := 0
  /-- Slices that have not yet reported (R221). -/
  dones : Nat := 0
  tag : Nat := 0
  deriving DecidableEq, Repr

/-- The F-mode registers of a group (R169, R172). -/
structure FRegs where
  cause : Word := 0
  emask : Word := 0
  epc : Dword := 0
  addr : Dword := 0
  vec : Dword := 0
  inh : Bool := false
  scerr : Bool := false
  msel : BitVec 8 := 0
  ctxsel : Word := 0
  scval : Dword := 0
  /-- The threads that a trap holds until ERET: those that did not execute the trapping instruction (R171). -/
  held : Word := 0
  deriving DecidableEq, Repr

/-- An arrival record (R411, R413): generation, the result once released, the address of the arriving instruction, and whether the
object has answered. -/
structure BarRec where
  gen : Word
  res : Option Word
  addr : PC
  acked : Bool
  deriving DecidableEq, Repr

/-- An outstanding FQUERY of a group and its reply (R318, R320): state and value; `used` once its instruction has read it. -/
structure Query where
  h : Dword
  reply : Option (Nat × Dword)
  used : Bool := false
  deriving DecidableEq, Repr

/-- An armed WAITADDR (R259): the sleeping threads, line, deadline, the 128 bytes at arming for lines that are polled, and whether a
write has hit the line. -/
structure Watch where
  lanes : List Nat
  line : Nat
  deadline : Nat
  bytes : List Byte
  hit : Bool
  deriving DecidableEq, Repr

/-- A stopped group's trap record data (R390): KIND, SKID, and CKS, the CKSTAT word at the stop (R162). -/
structure StopRec where
  kind : Nat
  skid : Nat
  cks : Word := 0
  deriving DecidableEq, Repr

/-- A group in a slot (R22, R93). -/
structure Group where
  r : GRegs := {}
  /-- The allocation A (R94). -/
  a : Nat := 32
  /-- Registers that WGROW added in the open chunk begin here (R161). -/
  grownFrom : Option Nat := none
  fmode : Bool := false
  f : FRegs := {}
  /-- Index in the team (R25) and the team's first slot. -/
  gi : Nat := 0
  team : Nat := 0
  pasid : Nat := 0
  grid : Option Nat := none
  /-- Base of the return stack and RSL (R153). -/
  rsbase : Nat := 0
  rsl : Nat := 64
  /-- The open chunk and the ended ones, oldest first. -/
  open_ : Chunk := {}
  done : List Chunk := []
  nextNum : Nat := 1
  /-- Irrevocable mode and priority (R163, R222). -/
  irr : Bool := false
  pri : Bool := false
  /-- A restored group enters irrevocable mode before its first issue (R176). -/
  reirr : Bool := false
  /-- Consecutive squashes of the chunk to run next (R162). -/
  sq : Nat := 0
  /-- Stopped (R177), and the skid still allowed and used after a halt. -/
  stop : Option StopRec := none
  haltLeft : Option (Nat × Nat) := none
  /-- The group waits until all its ended chunks have committed and its stores beyond the package are acknowledged (R163, R257, R258). -/
  hold : Bool := false
  recs : Sparse BarRec := []
  query : List Query := []
  /-- WAKEs that came while no thread was parked for them (R318): handle, whether stale, value. -/
  wakes : List (Dword × Bool × Dword) := []
  watch : List Watch := []
  /-- What happens at the group's next chunk boundary: 1 a stop for pre-emption, 2 a stop for a team-mate's inline call, 3 a restart of the
  firmware, 4 the abort of its grid, 5 the corking of its core (R164, R185, R319, R354, R359, R458). -/
  atEnd : Option Nat := none
  /-- A stalled GRPOPEN: the clk at which it gives up, its address and its threads (R417). -/
  grpWait : Option (Nat × PC × List Nat) := none
  /-- The clk since which the group has been blocked in BAR, BARWT or GBAR (R399). -/
  barSince : Option Nat := none
  /-- What a TLBINV in progress waits for (R376). -/
  inval : Option InvWait := none
  /-- Last-issue stamps of the group and its threads; 0 is never (R28, R30). -/
  stamp : Nat := 0
  tstamp : Sparse Nat := []
  /-- Issue clk of the TYIELD window still to run (R324). -/
  yieldLeft : Nat := 0
  /-- Names the task in copy batches (R267). -/
  uid : Nat := 0
  /-- CTXSAVE has saved the stopped group (R176). -/
  saved : Bool := false
  /-- Ended: slot and allocation are released at the commit of its last chunk (R321). -/
  ended : Bool := false
  /-- Lanes whose instruction could not complete, and `State.moves` at that time: they are not eligible until something has moved (R27). -/
  blocked : List Nat := []
  blockedAt : Nat := 0
  /-- A flagged instruction whose repeat, in guarded issue, is to come: its threads and its address (R182, R186). -/
  replay : Option (List Nat × PC) := none
  /-- ACCEPIs that wait: address, physical tile, and the number from which later releases wait for their read (R289). -/
  epi : List (PC × Nat × Nat) := []
  /-- An event waits for the commit of the group's priority or irrevocable chunk (R164). -/
  awaited : Bool := false
  /-- Of a saved group whose fault was answered meanwhile: the address of its TRAP or BRK, past which its threads go on (R359). -/
  past : Option PC := none
  deriving DecidableEq, Repr

/-- A task that a team runs (R299, R322): its closure address, own future, kind, piece, continuation flag, and, when it runs as a
call, what it returns to. -/
structure Task where
  ca : Dword
  own : Dword
  kind : Nat
  piece : Option Nat
  cont : Bool
  call : Option CallInfo
  /-- Of a task that runs as a call, how many groups run it: those of the team whose parts of its own task had not ended (R319; log 99). -/
  members : Option Nat := none
  deriving DecidableEq, Repr

/-- A barrier object (R408): open, GEN, N, OP, arrivals (core, slot), partial, pending lines. -/
structure BarObj where
  open_ : Bool := false
  gen : Word := 0
  n : Nat := 0
  op : BitVec 2 := 0
  fixed : Bool := false
  arrived : List (Nat × Nat) := []
  /-- For each arrival its core and slot at that time, and the number below which its reductions and packets were released before it
  (R227, R412). -/
  waits : List (Nat × Nat × Nat) := []
  part : Word := 0
  pending : Nat := 0
  deriving DecidableEq, Repr

/-- A recorded engine fault (R292). -/
structure EngFault where
  code : Nat
  kind : Nat
  word : Word
  addr : Nat
  deriving DecidableEq, Repr

/-- What an inline call sets aside of one member group beside its frame (R319, R328, R398): arrival records, ACNT, PFB, the number of
batches sealed, channel bindings, and the name of its task in copy batches. -/
structure Kept where
  recs : Sparse BarRec
  acnt : Sparse (BitVec 15)
  pfb : BitVec 5
  sealed : Sparse Nat
  chans : Sparse Nat
  uid : Nat
  deriving DecidableEq, Repr

/-- What an inline call sets aside of the team (R319): its named barrier objects, each member's part, and the parts of its task that have
ended. -/
structure BarLevel where
  bars : Sparse BarObj
  kept : List Kept
  parts : List (Nat × Option Dword) := []
  deriving DecidableEq, Repr

/-- A team (R22): its groups' size, tasks (current first), tiles, codebooks, engine fault, barriers and fault record. -/
structure Team where
  size : Nat := 1
  grid : Option Nat := none
  tasks : List Task := []
  /-- Name to physical tile (R271). -/
  tiles : Sparse Nat := []
  /-- Codebook slots, key 16 × slot + entry (R279). -/
  cb : Sparse (BitVec 16) := []
  efault : Option EngFault := none
  est : Nat := 46
  /-- An inline call that waits for its dependencies or for every sibling to stop (R317, R319). -/
  call : Option PendCall := none
  /-- Results of the parts ended so far (R321): group index and TEND value. -/
  parts : List (Nat × Option Dword) := []
  bars : Sparse BarObj := []
  levels : List BarLevel := []
  fault : Option FaultRec := none
  /-- The stopped team's fault has gone to the fault queue (R358). -/
  posted : Bool := false
  /-- Device-physical lines that the task still holds from its staging, and the clk at which the hold ends (R307). -/
  held : List Nat := []
  heldEnd : Nat := 0
  deriving DecidableEq, Repr

/-- A future table entry (R303, R383): state 0 free, 1 open, 2 resolved. -/
structure Fut where
  st : Nat := 0
  gen : BitVec 8 := 1
  rng : Bool := false
  ctx : Word := 0
  value : Dword := 0
  items : Word := 0
  total : Word := 0
  waiters : List (Bool × NodeRef) := []
  deriving DecidableEq, Repr

/-- A piece of a range task in the item queue (R311, R313): closure line and what its task read there (R301), RESULT, and whether it waits
for a slot set. Its cursor is a line of memory (R312). -/
structure Piece where
  ca : Dword
  result : Dword
  grid : Nat
  groups : Nat
  kept : Bool
  cl : List Dword := []
  deriving DecidableEq, Repr

/-- A receive end of a channel (R325, R326): committed slots, slots taken by open chunks with the taking slot, credits out. -/
structure Chan where
  buf : List ChanSlot := []
  taken : List (Nat × ChanSlot) := []
  credits : Nat := 0
  deriving DecidableEq, Repr

/-- A taken task (R35, R307): entry, closure line (empty until it is read), the device-physical lines held, and the clk the hold
ends; 0 until its lines are present and it is staged. -/
structure Staged where
  e : DqEntry
  cl : List Dword
  held : List Nat
  deadline : Nat
  /-- A staging fault holds the task (R301). -/
  bad : Bool
  /-- Its lines have been asked for, within the 1,024 that a core holds (R307). -/
  asked : Bool := false
  deriving DecidableEq, Repr

/-- An answer of the host (R371): the page of the bus address, and the permissions to read, write and fetch. -/
structure AtsAns where
  page : Nat
  r : Bool
  w : Bool
  x : Bool
  deriving DecidableEq, Repr

/-- A cached translation (R373): PASID, virtual page number and page level, and the leaf, which serves every page that it covers; or the
host's answer for one page of 4 KiB. -/
structure TlbEnt where
  pasid : Nat
  va : Nat
  lvl : Nat
  leaf : Dword
  ats : Option AtsAns
  deriving DecidableEq, Repr

/-- A line of an L1, a stash or an L2 slice (R188, R192, R197): in L1 its way; a pinned line that another commit has invalidated is listed
and not `valid` until its next touch. -/
structure L1Line where
  line : Nat
  dirty : Bool
  pin : Bool
  way : Nat := 0
  valid : Bool := true
  /-- A staging or a stream's run-ahead has brought the line (R307, R330, R376). -/
  ahead : Bool := false
  deriving DecidableEq, Repr

/-- The margin registers of a core (R183, R184). VOFF, VFLOOR and VNOW are steps of 5 mV. -/
structure Margin where
  voff : Int := 0
  vfloor : Int := 0
  aup : Bool := true
  adn : Bool := false
  qthr : Nat := 3
  win : Nat := 100
  lim : Nat := 64
  clean : Nat := 16
  vnow : Int := 0
  raised : Bool := false
  corked : Bool := false
  tophit : Bool := false
  topcnt : Nat := 0
  repwin : Nat := 0
  cleanRun : Nat := 0
  deriving DecidableEq, Repr

/-- A scratch byte that a copy has landed (R228): the byte before it, the copy's outermost task, task, lane and batch, whether its thread has
waited for the batch, and the barriers at which that thread's group has arrived since. -/
structure Fresh where
  old : Byte
  base : Nat
  uid : Nat
  lane : Nat
  batch : Nat
  seen : Bool := false
  bars : List Nat := []
  deriving DecidableEq, Repr

/-- A store beyond the package on its way to its target (R229, R231): bytes that are written together, its group and task, whether a STREL at
scopes 7 to 9 makes it, whether it has left (its chunk's commit is complete), and its number in the order of leaving. -/
structure ExtWrite where
  core : Nat
  slot : Nat
  uid : Nat
  bytes : List Host.Cell
  rel : Bool := false
  out : Bool := true
  id : Nat := 0
  deriving DecidableEq, Repr

/-- The steal state of a core (R38, R309, R388). -/
structure Steal where
  out : Bool := false
  victims : BitVec 256 := 0
  ptr0 : Nat := 0
  ptr1 : Nat := 0
  ptr2 : Nat := 0
  ring : Nat := 0
  tries : Nat := 0
  num : Nat := 0
  deriving DecidableEq, Repr

/-- A request in the allocation queue (R273): group slot, team, tiles asked for and the clk of asking; `granted` is the answer, which
leaves the queue and which the instruction takes at its next issue. -/
structure AccReq where
  slot : Nat
  team : Nat
  n : Nat
  at_ : Nat
  /-- The address of the ACCALLOC. -/
  pc : PC := 0
  granted : Option Word := none
  deriving DecidableEq, Repr

/-- A core (R19, R188, R299): role 0 compute, 1 vintner, 2 fused, 3 corked (R387). -/
structure Core where
  role : Nat := 0
  why : Nat := 0
  reserved : Option Nat := none
  grid : Option Nat := none
  /-- Cluster number (its first core's id) and index in it (R23). -/
  cluster : Nat := 0
  cidx : Nat := 0
  /-- Scratch partition in units of 32 KiB (R192). -/
  psize : Nat := 0
  scratch : Sparse Byte := []
  stash : Sparse StashEnt := []
  stashLines : List L1Line := []
  l1 : List L1Line := []
  /-- Lines whose copy the core has dropped while chunks (slot, task, number) were open or awaited their grants: the home directory keeps the
  core until those have gone (R199). -/
  leaving : List (Nat × List (Nat × Nat × Nat)) := []
  /-- Scratch bytes landed by copies and not yet published to every thread, the latest landing first (R228). -/
  fresh : Sparse (List Fresh) := []
  qused : Nat := 0
  fills : List Nat := []
  groups : Sparse Group := []
  teams : Sparse Team := []
  /-- The deque, cold end first (R304). -/
  deque : List DqEntry := []
  dqResv : Nat := 0
  pool : Sparse PNode := []
  poolResv : Nat := 0
  /-- Nodes with count zero that wait for a deque entry, oldest first (R306). -/
  poolReady : List Nat := []
  /-- Pushes of commits that wait for their clk, the clk of the last operation of each kind of R305 (1 pushes of commits, 2 of nodes, 3 pops, 4
  claims and removals of JOINs, 5 thefts), and STEALREQs that arrived in this clk: thief and request number. -/
  pushQ : List DqEntry := []
  dqAt : Sparse Nat := []
  /-- Entries that JOINs have claimed and whose removal by a commit waits for its clk: handle and closure, in commit order. -/
  remQ : List (Dword × Dword) := []
  reqQ : List (Nat × Nat) := []
  futs : Sparse Fut := []
  /-- The generation of every future table entry that is not listed (R303). -/
  genBase : BitVec 8 := 1
  pieces : Sparse Piece := []
  chans : Sparse Chan := []
  staged : List Staged := []
  /-- Bound prefetches in flight, with their barriers (R414), and the prefetches that a stop abandoned, for reissue (R354). -/
  boundFills : List (Nat × BarRef) := []
  abandoned : List (Nat × Option BarRef) := []
  steal : Steal := {}
  tiles : Sparse Word := []
  tilesUsed : BitVec 8 := 0
  accQ : List AccReq := []
  ops : List EngOp := []
  opOrder : Nat := 0
  engineHalt : Bool := false
  /-- The operation whose step runs (R294). -/
  engineStep : Option Nat := none
  /-- The L1 and the L2 TLB of the core, and the TLBs of its stream engine and its prefetch engine (R373). -/
  tlb1 : List TlbEnt := []
  tlb2 : List TlbEnt := []
  stlb : List TlbEnt := []
  ptlb : List TlbEnt := []
  margin : Margin := {}
  mcklim : BitVec 4 := 8
  fpend : Word := 0
  fien : Word := 0
  /-- The clk at which sources last fired, and their bits of FPEND: a write of that clk does not clear them (R175). -/
  fpendNew : Option (Nat × Word) := none
  /-- Commits begun, modulo 4 the phase tag, and commits in the claim stage (R221). -/
  phase : Nat := 0
  claiming : Nat := 0
  /-- The vector pipes have received a stop request (R354). -/
  stopReq : Bool := false
  deriving DecidableEq, Repr

/-- A cluster (R22, R408, R416): grid, members in index order, shape, barrier, packets in flight of each group id. -/
structure Cluster where
  grid : Nat
  members : List Nat
  bar : BarObj
  flight : Sparse Nat
  deriving DecidableEq, Repr

/-- A granted or held Press request (R219). -/
structure GrantRec where
  k : ChunkRef
  w : Sig
  pri : Bool
  deriving DecidableEq, Repr

/-- A writer that is no chunk of a group, an engine chunk or a split, asking the Presses (R223, R315): its reference, the lines that it writes,
the dies still to grant and those that have, and its step once all have. -/
structure PressAsk where
  k : ChunkRef
  lines : List Nat
  toGrant : List Nat
  granted : List Nat
  ev : Instr
  deriving DecidableEq, Repr

/-- A fault queue entry and the agent it concerns (R358): `agent` is 0 the team at (core, id), 1 the copy `id`, 2 the
group of slot `id` whose stream faulted, 3 the staging of closure line `id` on `core`. -/
structure FaultEnt where
  rec_ : FaultRec
  agent : Nat
  core : Nat
  id : Nat
  pasid : Nat
  deriving DecidableEq, Repr

/-- A system-call record (R174). -/
structure SysRec where
  core : Nat
  slot : Nat
  pc : PC
  imm : BitVec 14
  args : List Word
  deriving DecidableEq, Repr

/-- A die (R188, R334, R345, R347). -/
structure Die where
  granted : List GrantRec := []
  waiting : List GrantRec := []
  /-- Claims counted by slice, source core and phase: key, count and announced number (R221). -/
  phases : Sparse (Nat × Option Nat) := []
  faultQ : List FaultEnt := []
  faultWait : List FaultEnt := []
  sysRecs : List SysRec := []
  /-- Wait lists of classes 0–3 (R345). -/
  waits : Sparse (List Nat) := []
  /-- Slot served last of each class, and the decisions left in the round (R347). -/
  rr : Sparse Nat := []
  atc : List TlbEnt := []
  /-- The TLBs of the die's copy engines (R373). -/
  ctlb : Sparse (List TlbEnt) := []
  wcache : List TlbEnt := []
  deriving DecidableEq, Repr

/-- A swap or park move in progress (R212, R214): logical frames or park frame, next row, and what follows it. -/
structure Move where
  f1 : Nat
  f2 : Option Nat
  parkFrame : Nat
  row : Nat
  copying : Bool
  deriving DecidableEq, Repr

/-- A reconstruction at a parity controller (R206): row, line wanted, values gathered by stack, whether one failed, whether it is
a degraded write and of what value. -/
structure Recon where
  row : Nat
  line : Nat
  vals : Sparse (List Byte)
  failed : Bool
  wr : Option (List Byte)
  deriving DecidableEq, Repr

/-- An HBM4E stack (R202 to R214, R379). -/
structure Stack where
  lost : Bool := false
  remap : Sparse (Option Nat) := []
  moving : Option Move := none
  parked : Sparse Nat := []
  bank : Sparse Nat := []
  /-- Stripe delta counts by row (R205). -/
  cnt : Sparse Nat := []
  frozen : List Nat := []
  /-- Packets held by a freeze or a move, in arrival order. -/
  held : List (Nat × Instr) := []
  recons : List Recon := []
  /-- Controller tags in use, and the packets of slices that wait for one (R202). -/
  tags : Nat := 0
  tagQ : List (Nat × Instr) := []
  march : Option (Nat × Nat) := none
  parkQ : List Nat := []
  marching : Bool := false
  parkGone : List Nat := []
  deriving DecidableEq, Repr

/-- A context table entry (R334, R342, R465). -/
structure Ctx where
  pasid : Nat
  save : Nat := 0
  slice : Nat := 2000
  drain : Nat := 100
  stack : Nat := 0
  stksz : Nat := 0
  /-- A DESTROY has been consumed; once the context's grids have gone, its teardown begins (R342, R378). -/
  ending : Bool := false
  dying : Bool := false
  preempted : Bool := false
  /-- Dies whose collectors have reached Q, and whose state is not saved yet (R353). -/
  atQ : List Nat := []
  /-- Overrun not yet charged, by die (R356). -/
  charge : Sparse Nat := []
  /-- End of the current slice by die (R353, R356), and while stopping the acknowledgements still awaited, as (core, class). -/
  ends : Sparse Nat := []
  stopping : Option (List (Nat × Nat)) := none
  /-- The cores' state as the save area holds it while the context is pre-empted (R355, R385). -/
  saved : List (Nat × Core) := []
  pre : Option (Nat × Nat) := none
  /-- With `saved`: the cluster objects, by head core, and the bytes of the lines of the reserved range that hold cursors of pieces and
  reduction ids of those cores (R312, R415, R416). -/
  clus : Sparse Cluster := []
  keys : List Host.Cell := []
  /-- What the teardown's removal of translations still waits for (R376, R378). -/
  inval : Option InvWait := none
  /-- The clk of the last save: contexts come back in that order (R348). -/
  savedAt : Nat := 0
  deriving DecidableEq, Repr

/-- A declared channel of a grid (R325). -/
structure ChanDecl where
  slots : Nat
  peer : Int
  deriving DecidableEq, Repr

/-- A grid (R22, R339, R394). -/
structure Grid where
  pasid : Nat
  gnum : Nat := 0
  roots : Nat := 0
  nroot : Nat := 0
  scratch : Nat := 0
  regs : Nat := 32
  team : Nat := 1
  w : Nat := 1
  h : Nat := 1
  acc : Nat := 0
  lthresh : Nat := 16
  drain : Nat := 100
  rsl : Nat := 64
  parts : BitVec 8 := 0
  gang : Bool := false
  lat : Nat := 0
  chans : Sparse ChanDecl := []
  doneAddr : Dword := 0
  cores : List Nat := []
  glive : Word := 0
  started : Bool := false
  aborted : Option Nat := none
  ts : Nat := 0
  pkt : Option (Nat × Nat) := none
  /-- Dies that have pushed their share of the roots, the grid's cores at its commit, in ascending id, and the entries of its roots (R352). -/
  pushed : List Nat := []
  rootCores : List Nat := []
  rootEnts : List DqEntry := []
  gangBar : BarObj := {}
  deriving DecidableEq, Repr

/-- A gang reservation (R351, R352): generation, and the grid it holds while live. -/
structure GangRes where
  gen : BitVec 8 := 1
  grid : Option Nat := none
  deriving DecidableEq, Repr

/-- A mapped hardware slot (R345): queue, class, the order in which it was lent, and whether its packet is being consumed. -/
structure HSlot where
  q : Nat
  cls : Nat
  lent : Option Nat
  consuming : Bool
  unmap : Bool
  /-- The class whose share the decision on its packet used (R347). -/
  share : Nat := 0
  /-- The packet at its boundary is not tried again before this clk: a reservation was BUSY, or a translation awaits the host. -/
  retry : Nat := 0
  deriving DecidableEq, Repr

/-- A packet consumed but not complete, or a WAIT at its boundary (R338, R341): queue, number; of a WAIT its deadline, 0 for none, the
line that it watches, and whether its condition has held, so that a decision may consume it (R347). -/
structure Pkt where
  q : Nat
  n : Nat
  irq : Bool
  deadline : Option Nat
  line : Nat := 0
  pass : Bool := false
  deriving DecidableEq, Repr

/-- An ATS tag (R377): PASID, virtual page, asking core, whether it is outstanding, the accesses that wait for it (a core and a slot, or slot
64 for its engines and its die's units), and, once the answer is that the page is not present, that it is: it goes to those accesses
alone, since no structure caches it (R373). -/
structure AtsReq where
  pasid : Nat
  page : Nat
  core : Nat
  out : Bool
  who : List (Nat × Nat)
  absent : Bool := false
  deriving DecidableEq, Repr

/-- The port key table's staging registers and entries (R386). -/
structure Keys where
  idx : BitVec 12 := 0
  w : Sparse Dword := []
  salt : Word := 0
  busy : Bool := false
  entries : Sparse (List Dword) := []
  deriving DecidableEq, Repr

/-- The firmware block and boot state (R451, R448, R463). -/
structure Fw where
  bslot : BitVec 2 := 3
  bymark : Bool := false
  safe : Bool := false
  stage : Nat := 0
  stcause : Nat := 0
  stdie : Nat := 0
  stunit : Nat := 0
  liveupd : Bool := false
  imgBusy : Option Nat := none
  imgPass : Bool := false
  imgErr : Nat := 0
  /-- The flash operation in progress: OP, FADDR, MADDR, LEN (R455). -/
  flOp : Option (Nat × Nat × Nat × Nat) := none
  flErr : Nat := 0
  qhold : BitVec 4 := 0
  resume : PC := 0
  cookie : Word := 0
  tmo : Nat := 0
  beat : BitVec 4 := 0
  armed : Bool := false
  ok : Bool := false
  roll : Bool := false
  mbxIn : Sparse Dword := []
  mbxOut : Sparse Dword := []
  mbxBusy : Bool := false
  mbxStatus : BitVec 8 := 0
  /-- Execution area and DUMPENT of the running image (R445, R463). -/
  area : Nat := 0
  dumpEnt : Nat := 0
  /-- The same of the image that has last passed the image check, which a committed update makes the running image (R454, R457, R463). -/
  newArea : Nat := 0
  newDump : Nat := 0
  dumping : Option Nat := none
  dumpCore : Nat := 0
  digest1 : Nat := 0
  digest2 : Nat := 0
  /-- Measurements that Sirmel has reported, newest first: index and digest (R454). -/
  spdmOut : List (Nat × Nat) := []
  deriving DecidableEq, Repr

/-- The package's MMIO registers outside the firmware block (R210, R335, R363, R367, R380). -/
structure Mmio where
  qtbase : Nat := 0
  rtbase : Nat := 0
  mlbase : Nat := 0
  frbase : Nat := 0
  savesz : Nat := 0
  ptbase : Nat := 0
  atsen : Bool := false
  swapen : Bool := true
  marchen : Bool := true
  imb : BitVec 8 := 50
  mlen : Bool := false
  hostIdx : Dword := 0
  sirmelIdx : Dword := 0
  prodIdx : Dword := 0
  lost0 : BitVec 5 := 0x1F
  lost1 : BitVec 5 := 0x1F
  degr : Bool := false
  dual : Bool := false
  unprot : Bool := false
  more : Bool := false
  /-- Management log entries that wait for the telemetry budget, oldest first (R208, R363, R407). -/
  logWait : List Nat := []
  deriving DecidableEq, Repr

/-- A message in flight: its sending and receiving agents, and the step its arrival is. Messages of one pair of agents arrive in the
order sent (R309). -/
structure Msg where
  src : Nat
  dst : Nat
  ev : Instr
  deriving DecidableEq, Repr

/-- What is to move next, where the environment or a schedule has said so. -/
inductive Turn where
  /-- Message `k` of those in flight arrives. -/
  | deliver (k : Nat)
  /-- The group of a core's slot issues. -/
  | issue (core slot : Nat)
  /-- A step of the table that is no instruction word. -/
  | event (e : Instr)
  /-- The reference clock advances. -/
  | tick (n : Nat)
  deriving DecidableEq, Repr

/-- The issuing context: the group, its active set in ascending lane order, and the address of the instruction unit. -/
structure Cur where
  core : Nat := 0
  slot : Nat := 0
  lanes : List Nat := []
  pc : PC := 0
  deriving DecidableEq, Repr

/-- The whole device. -/
structure State where
  /-- Periods of the 1.1 GHz reference since power-on (R103). -/
  clk : Nat := 0
  /-- How often the device has moved, by an event or by the passing of time: a stalled instruction is tried again after that (R27; the
  model's own). -/
  moves : Nat := 0
  /-- Counts by which each die's cycle counter leads (R103: at most 2); the model keeps it as it is (log 104). -/
  skew : Sparse Nat := []
  power : Bool := true
  sched : List Turn := []
  net : List Msg := []
  /-- Expiries to come: the clk and the step. -/
  timers : List (Nat × Instr) := []
  cur : Cur := {}
  /-- Counts the free values used so far, and the tasks started (the model's own). -/
  free : Nat := 0
  uids : Nat := 0
  /-- Bytes as the package order leaves them, by device-physical address; an unlisted byte is 0 (R188, R190, R204). -/
  mem : List Host.Cell := []
  /-- Bytes stored in the stacks, by device-physical address of the data line, and parity bytes, key 128 × stripe + byte. -/
  dram : Sparse Byte := []
  parity : Sparse Byte := []
  /-- Lines whose readers meet poison, lines whose stored bytes are marked poisoned, and lines whose stored bytes are uncorrectable (R203,
  R209). -/
  poison : List Nat := []
  hpoison : List Nat := []
  ecc : List Nat := []
  /-- Addresses of bytes that stores have merged into poisoned lines (R209). -/
  merged : List Nat := []
  l2 : List L1Line := []
  dir : Sparse (List Nat) := []
  /-- The bytes at its home slice of a line that a stash holds dirty (R196, R248). -/
  home : Sparse (List Byte) := []
  /-- Decant replicas, oldest first: line and helper core id (R200). -/
  replicas : List (Nat × Nat) := []
  /-- Redirect entries: network interface, line, helper core id (R381). -/
  redirects : List (Nat × Nat × Nat) := []
  /-- Reads of a line in the current decant window, by core (R200). -/
  readWin : Sparse (List Nat) := []
  /-- Lines that a commit has written in the current decant window (R200). -/
  wroteWin : List Nat := []
  cores : Sparse Core := []
  dies : Sparse Die := []
  hbm : Sparse Stack := []
  clusters : Sparse Cluster := []
  grids : Sparse Grid := []
  gangs : Sparse GangRes := []
  ctxs : Sparse Ctx := []
  hslots : Sparse HSlot := []
  pkts : List Pkt := []
  copies : Sparse Copy := []
  /-- Engine chunks and splits that ask the Presses (R223, R315). -/
  asks : List PressAsk := []
  /-- REDs released and not yet performed, and REDs that a place holds unperformed (R227, R255). -/
  reds : List Red := []
  /-- The place that holds the combined reductions of a line, by line (R255): a core's array (its id), a cluster unit (256 + the cluster's
  number); no entry for the home slice. -/
  redAt : Sparse Nat := []
  /-- Stores beyond the package on their way, in the order in which they left (R231). -/
  extPend : List ExtWrite := []
  /-- Acknowledgements awaited from beyond the package (R231): key 64 × core + slot. -/
  extOut : Sparse Nat := []
  ats : Sparse AtsReq := []
  pri : Sparse (Nat × FaultEnt) := []
  /-- Invalidate Requests of the host in progress: PASID, address and pages, and what they wait for; the Invalidate Completions sent and
  the PASIDs of the PRI Stop Markers sent, newest first (R374, R378). -/
  atsInv : List ((Nat × Nat × Nat) × InvWait) := []
  invSent : List (Nat × Nat × Nat) := []
  priStops : List Nat := []
  /-- The driver fault ring's entries that await an answer (R359), by index, and the next index. -/
  ring : Sparse FaultEnt := []
  ringNext : Nat := 0
  /-- Packets held by backpressure in a port's ingress buffer (R362): ring, and the payload as it was decrypted when it came (R386). -/
  ingress : List (Nat × List Byte) := []
  /-- The writes still to come of the packet that is landing in a ring (R361): device-physical address and bytes. -/
  landing : Sparse (List (Nat × List Byte)) := []
  /-- Counters of classes 1–5 and 7, key N >> 1; an unlisted one holds its reset value (R395 to R402). -/
  ctr : Sparse (Option Dword) := []
  /-- SHORT counters that have counted in the current period (R405). -/
  shorted : List Nat := []
  /-- The links that failed to train at boot: bits 0 to 47 of the Xarath Link, 48 to 55 of the Ethernet ports (R449). -/
  linkDown : BitVec 56 := 0
  mmio : Mmio := {}
  keys : Keys := {}
  fw : Fw := {}
  /-- Sirmel's flash, 64 MiB; an unlisted byte is 0xFF (R444). -/
  flash : Sparse Byte := []
  /-- MSI-X messages sent, newest first (R338, R343). -/
  msix : List Nat := []
  /-- Host lines held through CXL.cache (R239, R259). -/
  cxl : List Nat := []
  deriving DecidableEq, Repr

/-- The state right after power-on reset, before boot has run: every core held, nothing in flight, and the boot of R448 as the next
thing to move. -/
def State.reset : State := { sched := [.event .powerOnReset] }

end Sys2Proof.Machine
end

