-- ==== Sys2Proof/WellFormed.lean ====
section
/-! DEFINITION. Sys2Proof/WellFormed.lean: the prefix class of each instruction (R76, R81 to R85) and what makes a term of `Instr` an
instruction that some words encode: it is no step of another agent, and its prefix keeps R76 and R77. -/

namespace Sys2Proof

/-- The prefix classes of R76; `ev` marks a step that is no instruction word. -/
inductive PfxClass where
  | a | m | n | ev
  deriving DecidableEq, Repr

/-- The prefix class of an instruction (R81 to R85). -/
def Instr.cls : Instr → PfxClass
  | .iadd _ _ _ _ => .a
  | .isub _ _ _ _ => .a
  | .imul _ _ _ _ => .a
  | .imulhiI _ _ _ _ => .a
  | .imulhiN _ _ _ _ => .a
  | .imulwI _ _ _ _ => .a
  | .imulwN _ _ _ _ => .a
  | .imad _ _ _ _ => .a
  | .iaddsatI _ _ _ _ => .a
  | .iaddsatN _ _ _ _ => .a
  | .isubsatI _ _ _ _ => .a
  | .isubsatN _ _ _ _ => .a
  | .iminI _ _ _ _ => .a
  | .iminN _ _ _ _ => .a
  | .imaxI _ _ _ _ => .a
  | .imaxN _ _ _ _ => .a
  | .iabs _ _ _ => .a
  | .icsub _ _ _ _ => .a
  | .sad _ _ _ _ => .a
  | .and _ _ _ _ => .a
  | .or _ _ _ _ => .a
  | .xor _ _ _ _ => .a
  | .andn _ _ _ _ => .a
  | .shl _ _ _ _ => .a
  | .shrN _ _ _ _ => .a
  | .shrI _ _ _ _ => .a
  | .rotl _ _ _ _ => .a
  | .popc _ _ _ => .a
  | .clz _ _ _ => .a
  | .brev _ _ _ => .a
  | .bfxI _ _ _ _ => .a
  | .bfxN _ _ _ _ => .a
  | .bfi _ _ _ _ => .a
  | .prmt _ _ _ _ => .a
  | .isetEq _ _ _ _ => .a
  | .isetNe _ _ _ _ => .a
  | .isetLtI _ _ _ _ => .a
  | .isetLtN _ _ _ _ => .a
  | .isetLeI _ _ _ _ => .a
  | .isetLeN _ _ _ _ => .a
  | .isel _ _ _ _ => .a
  | .iadd64 _ _ _ _ => .a
  | .isub64 _ _ _ _ => .a
  | .mov _ _ _ => .a
  | .iaddi _ _ _ _ => .a
  | .andi _ _ _ _ => .a
  | .ori _ _ _ _ => .a
  | .xori _ _ _ _ => .a
  | .shli _ _ _ _ => .a
  | .shriN _ _ _ _ => .a
  | .shriI _ _ _ _ => .a
  | .isetiEq _ _ _ _ => .a
  | .isetiLtI _ _ _ _ => .a
  | .isetiLtN _ _ _ _ => .a
  | .movi _ _ _ => .a
  | .movl _ _ _ => .a
  | .iaddi14 _ _ _ => .a
  | .fadd _ _ _ _ => .a
  | .fsub _ _ _ _ => .a
  | .fmul _ _ _ _ => .a
  | .ffma _ _ _ _ => .a
  | .fmin _ _ _ _ => .a
  | .fmax _ _ _ _ => .a
  | .fneg _ _ _ => .a
  | .fabs _ _ _ => .a
  | .fsetEq _ _ _ _ => .a
  | .fsetNe _ _ _ _ => .a
  | .fsetLt _ _ _ _ => .a
  | .fsetLe _ _ _ _ => .a
  | .fsetUn _ _ _ _ => .a
  | .frnd _ _ _ => .a
  | .fdiv _ _ _ _ => .a
  | .fsqrt _ _ _ => .a
  | .frcp _ _ _ => .a
  | .frsq _ _ _ => .a
  | .fexp2 _ _ _ => .a
  | .flog2 _ _ _ => .a
  | .fsin _ _ _ => .a
  | .fcos _ _ _ => .a
  | .ftanh _ _ _ => .a
  | .fsig _ _ _ => .a
  | .fclass _ _ _ => .a
  | .fscale _ _ _ _ => .a
  | .paddBf _ _ _ _ => .a
  | .pmulBf _ _ _ _ => .a
  | .pfmaBf _ _ _ _ => .a
  | .paddH _ _ _ _ => .a
  | .pmulH _ _ _ _ => .a
  | .pfmaH _ _ _ _ => .a
  | .cvt _ _ _ _ => .a
  | .cvtpkBf _ _ _ _ => .a
  | .cvtpkH _ _ _ _ => .a
  | .cvtpkE4 _ _ _ _ => .a
  | .cvtpkE5 _ _ _ _ => .a
  | .cvtpkI8 _ _ _ _ => .a
  | .cvtpkN8 _ _ _ _ => .a
  | .cvtun _ _ _ _ => .a
  | .xshfl _ _ _ _ => .a
  | .xbfly _ _ _ _ => .a
  | .xup _ _ _ _ => .a
  | .xdn _ _ _ _ => .a
  | .xbcast _ _ _ _ => .a
  | .voteany _ _ _ => .a
  | .voteall _ _ _ => .a
  | .ballot _ _ _ => .a
  | .xredAddI _ _ _ => .a
  | .xredAddF _ _ _ => .a
  | .xredMinI _ _ _ => .a
  | .xredMaxI _ _ _ => .a
  | .xredMinF _ _ _ => .a
  | .xredMaxF _ _ _ => .a
  | .xscanAddI _ _ _ => .a
  | .xscanAddF _ _ _ => .a
  | .idp4Ii _ _ _ _ => .a
  | .idp4Nn _ _ _ _ => .a
  | .idp4sIi _ _ _ _ => .a
  | .idp4sNn _ _ _ _ => .a
  | .idp2Ii _ _ _ _ => .a
  | .idp2sIi _ _ _ _ => .a
  | .bra _ => .n
  | .call _ => .n
  | .bz _ _ => .n
  | .bnz _ _ => .n
  | .beod _ _ _ => .n
  | .jmp _ => .n
  | .callr _ => .n
  | .ret => .n
  | .exit => .n
  | .trap _ => .n
  | .brk => .n
  | .nop => .n
  | .mjoin _ => .n
  | .mleave _ => .n
  | .mwait _ => .n
  | .msync _ => .n
  | .mset _ _ => .n
  | .mget _ _ => .n
  | .mact _ => .n
  | .ckend => .n
  | .ckirr => .n
  | .ckstat _ => .n
  | .wbase _ => .n
  | .wgrow _ _ => .n
  | .mfsr _ _ => .n
  | .mtsr _ _ => .n
  | .eret => .n
  | .syscall _ => .n
  | .tlbinv _ _ => .n
  | .ctxsave _ => .n
  | .ctxrstr _ => .n
  | .wfi => .n
  | .ipi _ => .n
  | .qmap _ _ => .n
  | .qunmap _ => .n
  | .gangres _ _ => .n
  | .gangcmt _ => .n
  | .gangabt _ => .n
  | .ldg8i _ _ _ _ => .m
  | .ldg8n _ _ _ _ => .m
  | .ldg16i _ _ _ _ => .m
  | .ldg16n _ _ _ _ => .m
  | .ldg32 _ _ _ _ => .m
  | .ldg64 _ _ _ _ => .m
  | .ldg128 _ _ _ _ => .m
  | .stg8 _ _ _ _ => .m
  | .stg16 _ _ _ _ => .m
  | .stg32 _ _ _ _ => .m
  | .stg64 _ _ _ _ => .m
  | .stg128 _ _ _ _ => .m
  | .lds8i _ _ _ _ => .m
  | .lds8n _ _ _ _ => .m
  | .lds16i _ _ _ _ => .m
  | .lds16n _ _ _ _ => .m
  | .lds32 _ _ _ _ => .m
  | .lds64 _ _ _ _ => .m
  | .lds128 _ _ _ _ => .m
  | .sts8 _ _ _ _ => .m
  | .sts16 _ _ _ _ => .m
  | .sts32 _ _ _ _ => .m
  | .sts64 _ _ _ _ => .m
  | .sts128 _ _ _ _ => .m
  | .ldk _ _ _ _ => .m
  | .pfl _ _ _ => .m
  | .smap _ _ _ _ => .m
  | .sunmap _ _ _ => .m
  | .sflush _ _ _ => .m
  | .sdrop _ _ _ => .m
  | .llock _ _ _ _ => .m
  | .lunlock _ _ _ => .m
  | .cacheop _ _ _ _ => .m
  | .atomAdd _ _ _ _ => .m
  | .atomAnd _ _ _ _ => .m
  | .atomOr _ _ _ _ => .m
  | .atomXor _ _ _ _ => .m
  | .atomMinI _ _ _ _ => .m
  | .atomMinN _ _ _ _ => .m
  | .atomMaxI _ _ _ _ => .m
  | .atomMaxN _ _ _ _ => .m
  | .atomExch _ _ _ _ => .m
  | .atomCas _ _ _ _ => .m
  | .atom64Add _ _ _ _ => .m
  | .atom64Cas _ _ _ _ => .m
  | .redAddI _ _ _ _ => .m
  | .redAddF _ _ _ _ => .m
  | .redAnd _ _ _ _ => .m
  | .redOr _ _ _ _ => .m
  | .redXor _ _ _ _ => .m
  | .redMinI _ _ _ _ => .m
  | .redMinN _ _ _ _ => .m
  | .redMaxI _ _ _ _ => .m
  | .redMaxN _ _ _ _ => .m
  | .redAddI64 _ _ _ _ => .m
  | .waitaddr _ _ => .n
  | .strel32 _ _ _ _ => .m
  | .strel64 _ _ _ _ => .m
  | .ldacq32 _ _ _ _ => .m
  | .ldacq64 _ _ _ _ => .m
  | .fence _ => .n
  | .cpseal _ => .n
  | .cpwait _ => .n
  | .cpy _ _ _ => .m
  | .tcpy _ _ _ => .m
  | .cpyq _ _ _ _ => .m
  | .strbind _ _ _ => .n
  | .strunb _ => .n
  | .strskip _ _ => .n
  | .accalloc _ _ => .n
  | .accfree _ => .n
  | .acczero _ => .n
  | .accld _ _ _ => .n
  | .accst _ _ _ => .n
  | .mma _ _ _ => .n
  | .mmawait _ => .n
  | .cbload _ _ => .n
  | .accepi _ _ _ => .n
  | .mmastat _ => .n
  | .spawn _ _ => .n
  | .spawnr _ _ => .n
  | .join _ _ => .n
  | .fnew _ => .n
  | .fres _ _ => .n
  | .fpoll _ _ => .n
  | .tend _ => .n
  | .itemnext _ => .n
  | .tyield => .n
  | .chbind _ _ => .n
  | .chunb _ => .n
  | .chstat _ _ => .n
  | .bar _ _ _ => .n
  | .bararv _ _ => .n
  | .barwt _ _ => .n
  | .gbar _ _ _ => .n
  | .grpopen _ => .n
  | .grpclose _ => .n
  | .mcst _ _ => .n
  | .ctrrd _ _ => .n
  | .ctrset _ _ => .n
  | .ownerPop _ => .ev
  | .taskStart _ => .ev
  | .eagerStaging _ => .ev
  | .stageHoldExpiry _ _ => .ev
  | .stealTry _ => .ev
  | .stealreq _ _ _ => .ev
  | .stealent _ _ _ => .ev
  | .stealspl _ _ _ _ _ => .ev
  | .stealno _ _ _ => .ev
  | .splitCommit _ _ _ => .ev
  | .freg _ _ => .ev
  | .fready _ => .ev
  | .waitfull _ _ => .ev
  | .fqueryPoll _ _ => .ev
  | .fresv _ _ _ _ => .ev
  | .itemdone _ _ _ => .ev
  | .fquery _ _ _ => .ev
  | .fstate _ _ _ _ _ => .ev
  | .fwait _ _ _ => .ev
  | .wake _ _ _ _ _ => .ev
  | .ffree _ _ => .ev
  | .tyieldWindowEnd _ _ => .ev
  | .channelSlotArrival _ _ _ => .ev
  | .streamRunahead _ _ _ => .ev
  | .pressRequest _ _ => .ev
  | .pressGrant _ _ => .ev
  | .commitSignature _ _ => .ev
  | .commitAck _ => .ev
  | .ownershipClaim _ _ _ => .ev
  | .claimAnnounce _ _ _ _ => .ev
  | .sliceDone _ _ => .ev
  | .pressRelease _ _ => .ev
  | .inboundAccess _ _ _ => .ev
  | .copyStart _ => .ev
  | .engineChunkStart _ => .ev
  | .copyComplete _ => .ev
  | .redPerform _ => .ev
  | .teamHalt _ _ => .ev
  | .shadowLatchFlag _ _ _ => .ev
  | .marginWindowEnd _ => .ev
  | .marginSettle _ => .ev
  | .waitaddrWake _ _ => .ev
  | .waitaddrPoll _ _ => .ev
  | .waitaddrTimeout _ _ => .ev
  | .decant _ _ => .ev
  | .decantPushDone _ _ => .ev
  | .redirectInstall _ _ _ => .ev
  | .revocation _ => .ev
  | .hbmRead _ _ => .ev
  | .hbmWrite _ _ => .ev
  | .hbmAtomic _ _ => .ev
  | .delta _ _ _ _ => .ev
  | .dack _ _ => .ev
  | .freeze _ _ _ => .ev
  | .freezeValue _ _ _ _ => .ev
  | .unfreeze _ _ => .ev
  | .stackLoss _ => .ev
  | .swapStart _ _ _ => .ev
  | .swapDrainDone _ => .ev
  | .swapRowCopy _ => .ev
  | .marchreq _ => .ev
  | .bankMarchEnd _ _ => .ev
  | .budgetPeriod _ => .ev
  | .accallocGrant _ => .ev
  | .mmaStepEnd _ _ => .ev
  | .engineOpComplete _ _ => .ev
  | .doorbell _ _ => .ev
  | .queueDescWrite _ _ _ => .ev
  | .launch _ => .ev
  | .copyPacket _ => .ev
  | .signal _ => .ev
  | .wait _ => .ev
  | .waitRecheck _ => .ev
  | .waitTimeout _ => .ev
  | .marker _ => .ev
  | .ctxopCreate _ => .ev
  | .ctxopDestroy _ => .ev
  | .ctxopSlice _ => .ev
  | .ctxopPreempt _ => .ev
  | .ctxopResume _ => .ev
  | .gridCompletion _ => .ev
  | .gangRootPush _ _ => .ev
  | .firmwareTimer _ => .ev
  | .sliceEnd _ => .ev
  | .stopAck _ _ => .ev
  | .faultQueuePost _ => .ev
  | .frdone _ => .ev
  | .priResponse _ _ => .ev
  | .atsCompletion _ _ _ _ => .ev
  | .atsTagTimeout _ => .ev
  | .atsInvalidate _ _ _ => .ev
  | .pageWalk _ _ _ => .ev
  | .teardownFinish _ => .ev
  | .landingPacket _ _ _ => .ev
  | .landingRetry _ => .ev
  | .landingDescWrite _ _ _ => .ev
  | .mlctlWrite _ => .ev
  | .keycmdLoad => .ev
  | .keycmdClear => .ev
  | .keycmdDone => .ev
  | .barrierArrival _ _ => .ev
  | .barrierRelease _ => .ev
  | .pendingLinePresent _ => .ev
  | .mcstDelivery _ => .ev
  | .groupTimeout _ _ => .ev
  | .scgo _ _ => .ev
  | .registerWrite _ _ _ _ => .ev
  | .powerOnReset => .ev
  | .hotReset => .ev
  | .imgchk _ => .ev
  | .imageCheckDone => .ev
  | .flashRead _ => .ev
  | .flashProgram _ => .ev
  | .flashErase _ => .ev
  | .flashOpDone => .ev
  | .qhold _ => .ev
  | .hbarm _ => .ev
  | .hbeat _ _ => .ev
  | .heartbeatTimeout => .ev
  | .mbxStatus => .ev
  | .mbxReset => .ev
  | .mbxUpdate => .ev
  | .fatalError _ _ => .ev
  | .dumpTimeout => .ev
  | .spdmRequest _ => .ev
  | .powerOff => .ev
  | .fillReturn _ _ => .ev
  | .targetAcknowledgement _ _ => .ev
  | .cxlCacheSnoop _ => .ev

/-- The instruction is marked [, c] in the opcode map: its third source is c under a prefix (R78). -/
def Instr.hasC : Instr → Bool
  | .imad _ _ _ _ => true
  | .sad _ _ _ _ => true
  | .bfi _ _ _ _ => true
  | .prmt _ _ _ _ => true
  | .isel _ _ _ _ => true
  | .ffma _ _ _ _ => true
  | .pfmaBf _ _ _ _ => true
  | .pfmaH _ _ _ _ => true
  | .idp4Ii _ _ _ _ => true
  | .idp4Nn _ _ _ _ => true
  | .idp4sIi _ _ _ _ => true
  | .idp4sNn _ _ _ _ => true
  | .idp2Ii _ _ _ _ => true
  | .idp2sIi _ _ _ _ => true
  | _ => false

/-- The prefix that the instruction carries. -/
def Instr.pfx : Instr → Option Pfx
  | .iadd p _ _ _ => p
  | .isub p _ _ _ => p
  | .imul p _ _ _ => p
  | .imulhiI p _ _ _ => p
  | .imulhiN p _ _ _ => p
  | .imulwI p _ _ _ => p
  | .imulwN p _ _ _ => p
  | .imad p _ _ _ => p
  | .iaddsatI p _ _ _ => p
  | .iaddsatN p _ _ _ => p
  | .isubsatI p _ _ _ => p
  | .isubsatN p _ _ _ => p
  | .iminI p _ _ _ => p
  | .iminN p _ _ _ => p
  | .imaxI p _ _ _ => p
  | .imaxN p _ _ _ => p
  | .iabs p _ _ => p
  | .icsub p _ _ _ => p
  | .sad p _ _ _ => p
  | .and p _ _ _ => p
  | .or p _ _ _ => p
  | .xor p _ _ _ => p
  | .andn p _ _ _ => p
  | .shl p _ _ _ => p
  | .shrN p _ _ _ => p
  | .shrI p _ _ _ => p
  | .rotl p _ _ _ => p
  | .popc p _ _ => p
  | .clz p _ _ => p
  | .brev p _ _ => p
  | .bfxI p _ _ _ => p
  | .bfxN p _ _ _ => p
  | .bfi p _ _ _ => p
  | .prmt p _ _ _ => p
  | .isetEq p _ _ _ => p
  | .isetNe p _ _ _ => p
  | .isetLtI p _ _ _ => p
  | .isetLtN p _ _ _ => p
  | .isetLeI p _ _ _ => p
  | .isetLeN p _ _ _ => p
  | .isel p _ _ _ => p
  | .iadd64 p _ _ _ => p
  | .isub64 p _ _ _ => p
  | .mov p _ _ => p
  | .iaddi p _ _ _ => p
  | .andi p _ _ _ => p
  | .ori p _ _ _ => p
  | .xori p _ _ _ => p
  | .shli p _ _ _ => p
  | .shriN p _ _ _ => p
  | .shriI p _ _ _ => p
  | .isetiEq p _ _ _ => p
  | .isetiLtI p _ _ _ => p
  | .isetiLtN p _ _ _ => p
  | .movi p _ _ => p
  | .movl p _ _ => p
  | .iaddi14 p _ _ => p
  | .fadd p _ _ _ => p
  | .fsub p _ _ _ => p
  | .fmul p _ _ _ => p
  | .ffma p _ _ _ => p
  | .fmin p _ _ _ => p
  | .fmax p _ _ _ => p
  | .fneg p _ _ => p
  | .fabs p _ _ => p
  | .fsetEq p _ _ _ => p
  | .fsetNe p _ _ _ => p
  | .fsetLt p _ _ _ => p
  | .fsetLe p _ _ _ => p
  | .fsetUn p _ _ _ => p
  | .frnd p _ _ => p
  | .fdiv p _ _ _ => p
  | .fsqrt p _ _ => p
  | .frcp p _ _ => p
  | .frsq p _ _ => p
  | .fexp2 p _ _ => p
  | .flog2 p _ _ => p
  | .fsin p _ _ => p
  | .fcos p _ _ => p
  | .ftanh p _ _ => p
  | .fsig p _ _ => p
  | .fclass p _ _ => p
  | .fscale p _ _ _ => p
  | .paddBf p _ _ _ => p
  | .pmulBf p _ _ _ => p
  | .pfmaBf p _ _ _ => p
  | .paddH p _ _ _ => p
  | .pmulH p _ _ _ => p
  | .pfmaH p _ _ _ => p
  | .cvt p _ _ _ => p
  | .cvtpkBf p _ _ _ => p
  | .cvtpkH p _ _ _ => p
  | .cvtpkE4 p _ _ _ => p
  | .cvtpkE5 p _ _ _ => p
  | .cvtpkI8 p _ _ _ => p
  | .cvtpkN8 p _ _ _ => p
  | .cvtun p _ _ _ => p
  | .xshfl p _ _ _ => p
  | .xbfly p _ _ _ => p
  | .xup p _ _ _ => p
  | .xdn p _ _ _ => p
  | .xbcast p _ _ _ => p
  | .voteany p _ _ => p
  | .voteall p _ _ => p
  | .ballot p _ _ => p
  | .xredAddI p _ _ => p
  | .xredAddF p _ _ => p
  | .xredMinI p _ _ => p
  | .xredMaxI p _ _ => p
  | .xredMinF p _ _ => p
  | .xredMaxF p _ _ => p
  | .xscanAddI p _ _ => p
  | .xscanAddF p _ _ => p
  | .idp4Ii p _ _ _ => p
  | .idp4Nn p _ _ _ => p
  | .idp4sIi p _ _ _ => p
  | .idp4sNn p _ _ _ => p
  | .idp2Ii p _ _ _ => p
  | .idp2sIi p _ _ _ => p
  | .ldg8i p _ _ _ => p
  | .ldg8n p _ _ _ => p
  | .ldg16i p _ _ _ => p
  | .ldg16n p _ _ _ => p
  | .ldg32 p _ _ _ => p
  | .ldg64 p _ _ _ => p
  | .ldg128 p _ _ _ => p
  | .stg8 p _ _ _ => p
  | .stg16 p _ _ _ => p
  | .stg32 p _ _ _ => p
  | .stg64 p _ _ _ => p
  | .stg128 p _ _ _ => p
  | .lds8i p _ _ _ => p
  | .lds8n p _ _ _ => p
  | .lds16i p _ _ _ => p
  | .lds16n p _ _ _ => p
  | .lds32 p _ _ _ => p
  | .lds64 p _ _ _ => p
  | .lds128 p _ _ _ => p
  | .sts8 p _ _ _ => p
  | .sts16 p _ _ _ => p
  | .sts32 p _ _ _ => p
  | .sts64 p _ _ _ => p
  | .sts128 p _ _ _ => p
  | .ldk p _ _ _ => p
  | .pfl p _ _ => p
  | .smap p _ _ _ => p
  | .sunmap p _ _ => p
  | .sflush p _ _ => p
  | .sdrop p _ _ => p
  | .llock p _ _ _ => p
  | .lunlock p _ _ => p
  | .cacheop p _ _ _ => p
  | .atomAdd p _ _ _ => p
  | .atomAnd p _ _ _ => p
  | .atomOr p _ _ _ => p
  | .atomXor p _ _ _ => p
  | .atomMinI p _ _ _ => p
  | .atomMinN p _ _ _ => p
  | .atomMaxI p _ _ _ => p
  | .atomMaxN p _ _ _ => p
  | .atomExch p _ _ _ => p
  | .atomCas p _ _ _ => p
  | .atom64Add p _ _ _ => p
  | .atom64Cas p _ _ _ => p
  | .redAddI p _ _ _ => p
  | .redAddF p _ _ _ => p
  | .redAnd p _ _ _ => p
  | .redOr p _ _ _ => p
  | .redXor p _ _ _ => p
  | .redMinI p _ _ _ => p
  | .redMinN p _ _ _ => p
  | .redMaxI p _ _ _ => p
  | .redMaxN p _ _ _ => p
  | .redAddI64 p _ _ _ => p
  | .strel32 p _ _ _ => p
  | .strel64 p _ _ _ => p
  | .ldacq32 p _ _ _ => p
  | .ldacq64 p _ _ _ => p
  | .cpy p _ _ => p
  | .tcpy p _ _ => p
  | .cpyq p _ _ _ => p
  | _ => none

/-- The prefix rules of R76 and R77 for a prefix before an instruction of class `k`. -/
def Pfx.legal (k : PfxClass) (hasC : Bool) (p : Pfx) : Bool :=
  decide (p.msel.toNat ≤ 12) && decide (p.rnd.toNat ≤ 4) &&
    match k with
    | .a => hasC || decide (p.c = 0)
    | .m => decide (p.c = 0) && !p.zm && decide (p.rnd = 0) && !p.sat
    | .n => false
    | .ev => false

/-- The term is an instruction that the encoding of chapter 03 can write. -/
def Instr.wellFormed (i : Instr) : Bool :=
  decide (i.cls ≠ .ev) &&
    match i.pfx with
    | none => true
    | some p => p.legal i.cls i.hasC

end Sys2Proof
end

