-- ==== Sys2Proof/Machine/Ops.lean ====
section
/-! DEFINITION. Sys2Proof/Machine/Ops.lean: named operations over the state: cores, groups, teams, dies and stacks, counters, free
values, messages and timers, signatures (R216), and the fault codes (R391). -/

namespace Sys2Proof.Machine

/-! ### Tables of the state -/

/-- Core `c`; an unlisted core is as power-on reset leaves it. -/
def coreAt (s : State) (c : Nat) : Core := (aget s.cores c).getD {}

/-- Replaces core `c`. -/
def setCore (s : State) (c : Nat) (x : Core) : State := { s with cores := aset s.cores c x }

/-- Changes core `c`. -/
def modCore (s : State) (c : Nat) (f : Core → Core) : State := setCore s c (f (coreAt s c))

/-- The group in slot `g` of core `c`, if the slot is taken. -/
def groupAt (s : State) (c g : Nat) : Option Group := aget (coreAt s c).groups g

/-- Places a group in a slot. -/
def setGroup (s : State) (c g : Nat) (x : Group) : State :=
  modCore s c (fun k => { k with groups := aset k.groups g x })

/-- Frees a slot. -/
def freeSlot (s : State) (c g : Nat) : State := modCore s c (fun k => { k with groups := adel k.groups g })

/-- Changes the group in a slot, if there is one. -/
def modGroup (s : State) (c g : Nat) (f : Group → Group) : State :=
  match groupAt s c g with
  | none => s
  | some x => setGroup s c g (f x)

/-- The team whose first slot is `t` on core `c`; slots without a team record act as a team of one with no task. -/
def teamAt (s : State) (c t : Nat) : Team := (aget (coreAt s c).teams t).getD {}

/-- Replaces a team's record. -/
def setTeam (s : State) (c t : Nat) (x : Team) : State :=
  modCore s c (fun k => { k with teams := aset k.teams t x })

/-- Changes a team's record. -/
def modTeam (s : State) (c t : Nat) (f : Team → Team) : State := setTeam s c t (f (teamAt s c t))

/-- The member slots of the team at `t` (R25). -/
def teamSlots (s : State) (c t : Nat) : List Nat := (List.range (teamAt s c t).size).map (t + ·)

/-- Die `d`. -/
def dieAt (s : State) (d : Nat) : Die := (aget s.dies d).getD {}

/-- Changes die `d`. -/
def modDie (s : State) (d : Nat) (f : Die → Die) : State := { s with dies := aset s.dies d (f (dieAt s d)) }

/-- Stack `x`. -/
def stackAt (s : State) (x : Nat) : Stack := (aget s.hbm x).getD {}

/-- Changes stack `x`. -/
def modStack (s : State) (x : Nat) (f : Stack → Stack) : State := { s with hbm := aset s.hbm x (f (stackAt s x)) }

/-- Grid `g`, if it lives. -/
def gridAt (s : State) (g : Nat) : Option Grid := aget s.grids g

/-- Changes grid `g`, if it lives. -/
def modGrid (s : State) (g : Nat) (f : Grid → Grid) : State := { s with grids := amod s.grids g f }

/-- Changes cluster `cl`, if it exists. -/
def modCluster (s : State) (cl : Nat) (f : Cluster → Cluster) : State := { s with clusters := amod s.clusters cl f }

/-- The die of a core (R16). -/
def dieOf (c : Nat) : Nat := c / 64

/-- The vintner core of a die: the lowest core of the die in that role (R19). -/
def vintnerOf (s : State) (d : Nat) : Option Nat :=
  ((List.range 64).map (64 * d + ·)).find? (fun c => (coreAt s c).role == 1)

/-- A core that runs grids (R19). -/
def isCompute (s : State) (c : Nat) : Bool := (coreAt s c).role == 0

/-- The number of cores in the compute role: LIVECNT (R387). -/
def liveCount (s : State) : Nat := ((List.range 256).filter (isCompute s)).length

/-- The smallest key from `i` on that a table does not list, trying `n` keys. -/
def freshKey {α : Type} (m : Sparse α) : Nat → Nat → Option Nat
  | 0, _ => none
  | n + 1, i => if (aget m i).isNone then some i else freshKey m n (i + 1)

/-! ### Free values -/

/-- A free number, and the state with the next free value not yet used (log 6). -/
def takeFree (s : State) : Nat × State := (Config.freeNat s.free, { s with free := s.free + 1 })

/-- Passes over the free values that an instruction took before it stopped: no later choice depends on them (log 6). -/
def spendFree (s : State) : State := { s with free := s.free + 1024 }

/-! ### Counters of classes 1–5 and 7 (R395, R398 to R402) -/

/-- The key N >> 1 of a counter. -/
def ctrKey (cls unit idx : Nat) : Nat := cls + 16 * unit + 4096 * idx

/-- The LIMIT counters' reset values (R407); every other counter resets to 0. -/
def ctrReset (k : Nat) : Dword :=
  let cls := k % 16
  let idx := k / 4096
  if cls = 1 ∧ idx = 15 then 14080 else if cls = 1 ∧ idx = 18 then 4096
  else if cls = 2 ∧ idx = 7 then 262144 else if cls = 2 ∧ idx = 10 then 4096
  else if cls = 2 ∧ idx = 13 then 16384
  else if cls = 3 ∧ idx = 33 then 8192 else if cls = 3 ∧ idx = 36 then 2816 else 0

/-- A counter's value. -/
def ctrGet (s : State) (k : Nat) : Dword := (sget none s.ctr k).getD (ctrReset k)

/-- Sets a counter; its reset value is not listed. -/
def ctrPut (s : State) (k : Nat) (v : Dword) : State :=
  { s with ctr := sset none s.ctr k (if v = ctrReset k then none else some v) }

/-- Adds to a counter, modulo 2^64 (R395). -/
def ctrAdd (s : State) (k n : Nat) : State := ctrPut s k (ctrGet s k + BitVec.ofNat 64 n)

/-- Adds to a core counter (R399). -/
def coreCtr (s : State) (c idx n : Nat) : State := ctrAdd s (ctrKey 1 c idx) n

/-- Adds to a die counter (R400). -/
def dieCtr (s : State) (d idx n : Nat) : State := ctrAdd s (ctrKey 2 d idx) n

/-- An activity is admitted while USED < LIMIT (R405); `k` is the key of its USED counter, whose LIMIT and SHORT follow it. -/
def admits (s : State) (k : Nat) : Bool := (ctrGet s k).toNat < (ctrGet s (k + 4096)).toNat

/-- Charges an activity (R405). -/
def charge (s : State) (k n : Nat) : State := ctrAdd s k n

/-- Counts a refused admission, once a period (R405). -/
def refuseAdmission (s : State) (k : Nat) : State :=
  if k ∈ s.shorted then s else ctrAdd { s with shorted := k :: s.shorted } (k + 8192) 1

/-! ### The cycle counters (R103) -/

/-- Die `d`'s 64-bit cycle counter. -/
def cycles (s : State) (d : Nat) : Dword := BitVec.ofNat 64 (s.clk + sget 0 s.skew d)

/-! ### Messages and timers -/

/-- Sends a message; messages between one pair of agents arrive in the order sent (R309). -/
def send (s : State) (src dst : Nat) (e : Instr) : State := { s with net := s.net ++ [{ src := src, dst := dst, ev := e }] }

/-- Sends several messages from one agent. -/
def sendAll (s : State) (src : Nat) (ms : List (Nat × Instr)) : State :=
  ms.foldl (fun s m => send s src m.1 m.2) s

/-- Sets a timer `n` clk from now. -/
def after (s : State) (n : Nat) (e : Instr) : State := { s with timers := s.timers ++ [(s.clk + n, e)] }

/-- Takes away the timers of one step. -/
def cancel (s : State) (e : Instr) : State := { s with timers := s.timers.filter (fun t => decide (t.2 ≠ e)) }

/-- A timer of the step is still to come: it has been called out of its time. -/
def timerSet (s : State) (e : Instr) : Bool := s.timers.any (fun t => decide (t.2 = e))

/-- The allocator of a core looks at its queue (R273, R274). -/
def kickAcc (s : State) (c : Nat) : State := if (coreAt s c).accQ.isEmpty then s else send s c c (.accallocGrant c)

/-- Agents that are no cores, as ends of messages: the Press of a die, a slice, a stack controller, the copy engines. -/
def pressAgent (d : Nat) : Nat := 1000 + d
def sliceAgent (sl : Nat) : Nat := 2000 + sl
def stackAgent (x : Nat) : Nat := 3000 + x
def engineAgent (d : Nat) : Nat := 4000 + d

/-! ### Bytes -/

/-- The little-endian number of a list of bytes (R9). -/
def natOfBytes : List Byte → Nat
  | [] => 0
  | b :: t => b.toNat + 256 * natOfBytes t

/-- The `n` lowest bytes of a number, lowest first (R9). -/
def bytesOf : Nat → Nat → List Byte
  | 0, _ => []
  | n + 1, v => BitVec.ofNat 8 v :: bytesOf n (v / 256)

/-- The committed byte at a device-physical address: what an unlisted one reads as is 0 (R204; log 5). -/
def memByte (s : State) (a : Nat) : Byte := sget 0 s.mem a

/-- The committed bytes from an address on. -/
def memBytes (s : State) (a n : Nat) : List Byte := (List.range n).map (fun i => memByte s (a + i))

/-- A committed little-endian value of `n` bytes. -/
def memNat (s : State) (a n : Nat) : Nat := natOfBytes (memBytes s a n)

/-- Stores committed bytes; the canonical form is kept. -/
def memPut (s : State) (kvs : List (Nat × Byte)) : State := { s with mem := ssetAll 0 s.mem kvs }

/-- Pairs addresses from `a` on with bytes. -/
def bytesAt : Nat → List Byte → List (Nat × Byte)
  | _, [] => []
  | a, b :: t => (a, b) :: bytesAt (a + 1) t

/-- Stores a committed little-endian value of `n` bytes. -/
def memPutNat (s : State) (a n v : Nat) : State := memPut s (bytesAt a (bytesOf n v))

/-- Writes a scratch byte of a core, which every thread then sees (R226). -/
def putScratch (k : Core) (e : Nat × Byte) : Core := { k with scratch := sset 0 k.scratch e.1 e.2, fresh := adel k.fresh e.1 }

/-! ### Address ranges (R190) -/

/-- 960 GiB: the end of HBM. -/
def hbmEnd : Nat := 0x00F000000000

/-- The line lies in HBM. -/
def inHbm (pa : Nat) : Bool := pa < hbmEnd

/-- The device's own MMIO range. -/
def mmioBase : Nat := 0x010000000000
def inMmio (pa : Nat) : Bool := decide (mmioBase ≤ pa) && decide (pa < mmioBase + 0x100000000)

/-- Domain, host and CXL.mem windows. -/
def inDomain (pa : Nat) : Bool := decide (0x4000000000000 ≤ pa) && decide (pa < 0x8000000000000)
def inHost (pa : Nat) : Bool := decide (0x8000000000000 ≤ pa) && decide (pa < 0xC000000000000)
def inCxlMem (pa : Nat) : Bool := decide (0xC000000000000 ≤ pa) && decide (pa < 0xE000000000000)

/-- Memory beyond the package. -/
def beyond (pa : Nat) : Bool := inDomain pa || inHost pa || inCxlMem pa

/-- Where an access beyond the package ends: one through the domain window to the device's own slot comes back to its own HBM (R190). -/
def homePa (pa : Nat) : Nat :=
  if inDomain pa && decide ((pa - 0x4000000000000) / 2 ^ 40 = Config.packageNo % 1024) then (pa - 0x4000000000000) % 2 ^ 40 else pa

/-- A reserved address: the ranges R190 reserves, and the part of a domain slot past its HBM. -/
def isReserved (pa : Nat) : Bool :=
  if inHbm pa || inMmio pa || inHost pa || inCxlMem pa then false
  else if inDomain pa then !(decide ((pa - 0x4000000000000) % 2 ^ 40 < hbmEnd))
  else true

/-- The firmware region (R452). -/
def fwRegion : Nat := 0x00EFF0000000
def inFwRegion (pa : Nat) : Bool := decide (fwRegion ≤ pa) && decide (pa < hbmEnd)

/-- The key of an item cursor (R312), and of a multicast id's state (R416): lines of the reserved range. -/
def cursorLine (core piece : Nat) : Nat := 0x00F000000000 / 128 + 64 * core + piece
def mcstLine (cl gid : Nat) : Nat := 0x00F000000000 / 128 + 0x100000 + 16 * cl + gid

/-! ### Placement of lines (R198, R199) -/

/-- Stripe, parity stack, data stack and row of a line. -/
def stripeOf (line : Nat) : Nat := line / 15
def parityStack (line : Nat) : Nat := stripeOf line % 16
def dataStack (line : Nat) : Nat := let j := line % 15; if j < parityStack line then j else j + 1

/-- The logical frame that holds a row (R198). -/
def frameOf (row : Nat) : Nat := (row / 524288) * 32 + row % 32

/-- The line of a row at a data stack (R198). -/
def lineOf (row x : Nat) : Nat := let p := row % 16; 15 * row + (if x < p then x else x - 1)

/-- The home die of a line; the key lines of R312 and R416 are homed by the core or cluster they belong to. -/
def homeDie (line : Nat) : Nat :=
  let base := 0x00F000000000 / 128
  if line < base then dataStack line / 4
  else if line < base + 0x100000 then dieOf ((line - base) / 64)
  else dieOf ((line - base - 0x100000) / 16)

/-- The home slice's tile (R199). -/
def homeTile (line : Nat) : Nat :=
  let b := BitVec.ofNat 64 line
  (b.extractLsb' 0 6 ^^^ b.extractLsb' 6 6 ^^^ b.extractLsb' 12 6 ^^^ b.extractLsb' 18 6 ^^^ b.extractLsb' 24 6
    ^^^ b.extractLsb' 30 6).toNat

/-- The home slice, numbered as its tile's core. -/
def homeSlice (line : Nat) : Nat := 64 * homeDie line + homeTile line

/-- Gives a packet to a stack's controller, tagged: a slice that finds no tag free waits (R202). -/
def sendPacket (s : State) (src x : Nat) (e : Instr) : State :=
  let k := stackAt s x
  if k.tags < 32768 then send (modStack s x (fun k => { k with tags := k.tags + 1 })) src (stackAgent x) e
  else modStack s x (fun k => { k with tagQ := k.tagQ ++ [(src, e)] })

/-- A packet's reply frees its tag, which the packet that has waited longest takes (R202). -/
def freeTag (s : State) (x : Nat) : State :=
  match (stackAt s x).tagQ with
  | [] => modStack s x (fun k => { k with tags := k.tags - 1 })
  | (src, e) :: rest => send (modStack s x (fun k => { k with tagQ := rest })) src (stackAgent x) e

/-! ### Signatures (R216) -/

/-- The four bit indexes of a line. -/
def sigBits (line : Nat) : Nat × Nat × Nat × Nat :=
  let f := fun (c : Nat) => (line * c % 2 ^ 64) / 2 ^ 55
  (f 0x9E3779B97F4A7C15, f 0xC2B2AE3D27D4EB4F, f 0x165667B19E3779F9, f 0x27D4EB2F165667C5)

/-- Enters a line. -/
def sigAdd (g : Sig) (line : Nat) : Sig :=
  let (i0, i1, i2, i3) := sigBits line
  let one := fun (i : Nat) => BitVec.ofNat 512 (2 ^ i)
  { b0 := g.b0 ||| one i0, b1 := g.b1 ||| one i1, b2 := g.b2 ||| one i2, b3 := g.b3 ||| one i3 }

/-- Enters several lines. -/
def sigAddAll (g : Sig) (ls : List Nat) : Sig := ls.foldl sigAdd g

/-- Two signatures intersect: in every bank their AND is nonzero. -/
def sigMeets (x y : Sig) : Bool :=
  decide (x.b0 &&& y.b0 ≠ 0) && decide (x.b1 &&& y.b1 ≠ 0) && decide (x.b2 &&& y.b2 ≠ 0) && decide (x.b3 &&& y.b3 ≠ 0)

/-- The line tests as entered in the signature. -/
def sigHas (g : Sig) (line : Nat) : Bool := sigMeets g (sigAdd {} line)

/-- The number of 1 bits among the `n` lowest bits of a number. -/
def onesBelow : Nat → Nat → Nat
  | 0, _ => 0
  | n + 1, v => v % 2 + onesBelow n (v / 2)

/-- The number of 1 bits of a bank. -/
def popBits {w : Nat} (v : BitVec w) : Nat := onesBelow w v.toNat

/-- A bank holds 256 set bits (R216). -/
def sigFull (g : Sig) : Bool :=
  decide (256 ≤ popBits g.b0) || decide (256 ≤ popBits g.b1) || decide (256 ≤ popBits g.b2) || decide (256 ≤ popBits g.b3)

/-! ### Fault codes (R391) -/

def fcIllegalOpcode : Nat := 0x01
def fcIllegalOperand : Nat := 0x02
def fcIllegalPrefix : Nat := 0x03
def fcRegRange : Nat := 0x04
def fcPrivileged : Nat := 0x05
def fcMisaligned : Nat := 0x06
def fcTranslation : Nat := 0x07
def fcPermission : Nat := 0x08
def fcScratchRange : Nat := 0x09
def fcMemUncorrectable : Nat := 0x0A
def fcBarrierMismatch : Nat := 0x0B
def fcAccRange : Nat := 0x0C
def fcCodebookRange : Nat := 0x0D
def fcStreamUnbound : Nat := 0x0E
def fcChannelUnbound : Nat := 0x0F
def fcFutureStale : Nat := 0x10
def fcCallstackOverflow : Nat := 0x11
def fcTrapSw : Nat := 0x12
def fcBreakpoint : Nat := 0x13
def fcGroupTimeout : Nat := 0x14
def fcTimingHard : Nat := 0x15
def fcCopyFault : Nat := 0x16
def fcNonreplayable : Nat := 0x17
/-- FCAUSE's value for SYSCALL (R172). -/
def fcSyscall : Nat := 0x80

/-- What a fault carries to its record (R389, R391). -/
structure FaultInfo where
  code : Nat
  cause : Nat := 0
  wr : Bool := false
  fetch : Bool := false
  under : Bool := false
  recov : Bool := false
  lane : Nat := 0xFF
  addr : Nat := 0
  imm : BitVec 14 := 0
  engine : Bool := false
  ivec : List Nat := []
  opkind : Nat := 0
  opword : Word := 0
  src : Nat := 0
  deriving DecidableEq, Repr

/-- Why an instruction does not complete at this issue: it waits and issues again (R73), stalled in a port access, which blocks its whole
group (R27), waiting meanwhile for an ATS answer about a
page (R371), for an FSTATE about a handle (R318), within GRPOPEN's limit (R417), for ACCALLOC's grant of `n` tiles (R273), for the operations on a tile that ACCEPI
reads (R289) or for a removal of translations (R376); its chunk must end before it (R195, R215, R216); or
it faults (R3). -/
inductive Stop where
  | stall
  | port
  | ask (pasid page : Nat)
  | query (h : Dword)
  | grpOpen
  | accAlloc (n : Nat)
  | accEpi (phys : Nat)
  | inval (kind pasid va : Nat)
  | cut
  | fault (f : FaultInfo)
  deriving DecidableEq, Repr

/-- A computation of one instruction: it changes the state, or stops without effect. -/
abbrev M := StateT State (Except Stop)

/-- Stops with a fault. -/
def faultM {α : Type} (f : FaultInfo) : M α := fun _ => .error (.fault f)

/-- Stops with a fault code and nothing else recorded. -/
def failM {α : Type} (code : Nat) : M α := faultM { code := code }

/-- Waits. -/
def stallM {α : Type} : M α := fun _ => .error .stall

/-- Waits in a port access (R27, R73). -/
def portM {α : Type} : M α := fun _ => .error .port

/-- Ends the chunk before the instruction. -/
def cutM {α : Type} : M α := fun _ => .error .cut

/-- Faults unless a condition holds. -/
def ensure (b : Bool) (code : Nat) : M Unit := if b then pure () else failM code

/-- Waits unless a condition holds. -/
def waitFor (b : Bool) : M Unit := if b then pure () else stallM

/-! ### The issuing group -/

/-- The issuing group; `exec` has checked that it is there. -/
def curGroup (s : State) : Group := (groupAt s s.cur.core s.cur.slot).getD {}

/-- Changes the issuing group. -/
def modCur (s : State) (f : Group → Group) : State := modGroup s s.cur.core s.cur.slot f

/-- Reads the issuing group. -/
def getG : M Group := fun s => .ok (curGroup s, s)

/-- Changes the issuing group. -/
def modG (f : Group → Group) : M Unit := fun s => .ok ((), modCur s f)

/-- Changes the issuing group's checkpointed part. -/
def modR (f : GRegs → GRegs) : M Unit := modG (fun g => { g with r := f g.r })

/-- Changes the issuing group's open chunk. -/
def modK (f : Chunk → Chunk) : M Unit := modG (fun g => { g with open_ := f g.open_ })

/-- Appends a deferred effect to the open chunk (R41). -/
def deferM (e : Effect) : M Unit := modK (fun k => { k with effects := k.effects ++ [e] })

/-- Changes the state. -/
def modS (f : State → State) : M Unit := fun s => .ok ((), f s)

/-- Reads from the state. -/
def getS {α : Type} (f : State → α) : M α := fun s => .ok (f s, s)

/-- The issuing core. -/
def getCore : M Core := getS (fun s => coreAt s s.cur.core)

/-- Changes the issuing core. -/
def modC (f : Core → Core) : M Unit := modS (fun s => modCore s s.cur.core f)

/-- The issuing team. -/
def getTeam : M Team := getS (fun s => teamAt s s.cur.core (curGroup s).team)

/-- Changes the issuing team. -/
def modT (f : Team → Team) : M Unit := modS (fun s => modTeam s s.cur.core (curGroup s).team f)

/-- Counts a guarded issue of the core (R186, R399). -/
def guardM : M Unit := modS (fun s => ctrAdd s (ctrKey 1 s.cur.core 6) 1)

/-- All lanes. -/
def allLanes : List Nat := List.range 32

/-- What a thread is doing. -/
def thrOf (g : Group) (t : Nat) : Thr := sget .run g.r.thr t

/-- Threads not exited. -/
def liveLanes (g : Group) : List Nat := allLanes.filter (fun t => decide (thrOf g t ≠ .exited))

/-- Sets what threads are doing. -/
def setThr (r : GRegs) (ls : List Nat) (t : Thr) : GRegs := { r with thr := ssetAll .run r.thr (ls.map (·, t)) }

/-- Sets program counters. -/
def setPcs (r : GRegs) (kvs : List (Nat × PC)) : GRegs := { r with pc := ssetAll 0 r.pc kvs }

/-- The mask of a list of lanes. -/
def maskOf (ls : List Nat) : Word := ls.foldl (fun m t => m ||| BitVec.ofNat 32 (2 ^ t)) 0

/-- The lanes of a mask, ascending. -/
def lanesOf (m : Word) : List Nat := allLanes.filter (fun t => m.getLsbD t)

/-- The group is in irrevocable mode; in F-mode every chunk is (R163). -/
def irrevocable (g : Group) : Bool := g.irr || g.fmode

/-- The status flags word (R159). -/
def sfWord (g : Group) : Word :=
  BitVec.ofNat 32 (g.r.eod.toNat + 2 ^ 16 * g.r.rst.toNat + 2 ^ 17 * g.r.icall.toNat
    + 2 ^ 18 * (irrevocable g).toNat + 2 ^ 19 * g.pri.toNat)

/-- A group of the core holds a priority chunk or is in irrevocable mode, other than slot `g` (R28, R163). -/
def otherPri (s : State) (c g : Nat) : Bool :=
  (coreAt s c).groups.any (fun e => decide (e.1 ≠ g) && (e.2.pri || e.2.irr || e.2.done.any (fun k => k.pri || k.irr)))

/-- CTXID of a group (R169). -/
def ctxidOf (s : State) (g : Group) : Word :=
  BitVec.ofNat 32 (g.pasid + 2 ^ 20 * ((g.grid.bind (gridAt s)).map (·.gnum)).getD 0)

/-- The context of a PASID: entry number and entry (R465). -/
def ctxOf (s : State) (p : Nat) : Option (Nat × Ctx) := s.ctxs.find? (fun e => e.2.pasid == p)

/-- PASID p is a created context; PASID 0 is one from boot (R452). -/
def ctxLive (s : State) (p : Nat) : Bool := (ctxOf s p).isSome

/-- The die of a management log entry (R363). -/
def logDie (v : Nat) : Nat := v / 2 ^ 80 % 2 ^ 8

/-- Stores an entry in the management log's ring, charged to its die; an overwritten one is counted (R363, R407). -/
def storeLog (s : State) (v : Nat) : State :=
  let k := s.mmio.prodIdx
  let a := s.mmio.mlbase + 32 * (k.toNat % 1024)
  let slow := min s.mmio.hostIdx.toNat s.mmio.sirmelIdx.toNat
  let s := if k.toNat ≥ slow + 1024 then ctrAdd s (ctrKey 7 0 1) 1 else s
  let s := charge s (ctrKey 2 (logDie v) 12) 32
  memPutNat { s with mmio := { s.mmio with prodIdx := k + 1 } } a 32 v

/-- Entries that wait are stored while their die's telemetry budget lasts; those of one die keep their order (R208, R363, R407). -/
def drainLog (s : State) : State :=
  let r := s.mmio.logWait.foldl (fun (a : State × List Nat × List Nat) v =>
    let d := logDie v
    if d ∈ a.2.2 then (a.1, a.2.1 ++ [v], a.2.2)
    else if admits a.1 (ctrKey 2 d 12) then (storeLog a.1 v, a.2.1, a.2.2)
    else (refuseAdmission a.1 (ctrKey 2 d 12), a.2.1 ++ [v], d :: a.2.2)) (s, [], [])
  { r.1 with mmio := { r.1.mmio with logWait := r.2.1 } }

/-- Posts an event to the management log (R363): stored while MLCTL.EN, in order and within the telemetry budget, else counted as lost. -/
def postLog (s : State) (ev die unit data : Nat) : State :=
  if s.mmio.mlen then
    let v := (cycles s 0).toNat + 2 ^ 64 * ev + 2 ^ 80 * die + 2 ^ 88 * unit + 2 ^ 96 * data
    drainLog { s with mmio := { s.mmio with logWait := s.mmio.logWait ++ [v] } }
  else ctrAdd s (ctrKey 7 0 1) 1

/-- The bits of FPEND whose sources fired in this clk (R175). -/
def freshPend (k : Core) (clk : Nat) : Word :=
  match k.fpendNew with
  | some (t, b) => if t = clk then b else 0
  | none => 0

/-- Sets bits of FPEND on a core, as sources that fire in this clk (R175). -/
def setFpend (s : State) (c : Nat) (bits : Word) : State :=
  modCore s c (fun k => { k with fpend := k.fpend ||| bits, fpendNew := some (s.clk, freshPend k s.clk ||| bits) })

/-- Sets bits of FPEND on a die's vintner core. -/
def pendDie (s : State) (d : Nat) (bits : Word) : State :=
  match vintnerOf s d with
  | none => s
  | some c => setFpend s c bits

end Sys2Proof.Machine
end

