-- ==== Sys2Proof/Machine/Reserve.lean ====
section
/-! DEFINITION. Sys2Proof/Machine/Reserve.lean: stored lines, parity and poison (R198, R203 to R210), the reconstruction that a read of a
poisoned, uncorrectable or lost line waits for (R209, R240), and the passing of time. -/

namespace Sys2Proof.Machine

/-! ### Stored lines and parity -/

/-- The stored bytes of a data line, and of the parity line of a row (R198). -/
def dramLine (s : State) (line : Nat) : List Byte := (List.range 128).map (fun i => sget 0 s.dram (128 * line + i))
def parityLine (s : State) (row : Nat) : List Byte := (List.range 128).map (fun i => sget 0 s.parity (128 * row + i))

/-- Stores a data line, or a parity line. -/
def dramPut (s : State) (line : Nat) (bs : List Byte) : State := { s with dram := ssetAll 0 s.dram (bytesAt (128 * line) bs) }
def parityPut (s : State) (row : Nat) (bs : List Byte) : State := { s with parity := ssetAll 0 s.parity (bytesAt (128 * row) bs) }

/-- The XOR of two lines. -/
def xorBytes (x y : List Byte) : List Byte := List.zipWith (· ^^^ ·) x y

/-- The data lines of a stripe. -/
def stripeLines (row : Nat) : List Nat := (List.range 15).map (15 * row + ·)

/-- A line's stack is lost (R207). -/
def lineLost (s : State) (line : Nat) : Bool := inHbm (128 * line) && (stackAt s (dataStack line)).lost

/-- Reads of the line return poison: it is marked, or it lies on one of two or more lost stacks (R208, R209). -/
def isPoisoned (s : State) (line : Nat) : Bool := decide (line ∈ s.poison) || (s.mmio.dual && lineLost s line)

/-- A line of the stripe that a reconstruction cannot use (R209). -/
def unusable (s : State) (line : Nat) : Bool :=
  decide (line ∈ s.hpoison) || decide (line ∈ s.ecc) || lineLost s line

/-- A reconstruction of the line can succeed (R209). -/
def reconOk (s : State) (line : Nat) : Bool :=
  !(stackAt s (parityStack line)).lost && !(stripeLines (stripeOf line)).any (fun m => m != line && unusable s m)

/-- The deltas of a row that are still on their way: a FREEZE waits for them (R206). -/
def deltasOut (s : State) (row : Nat) : List (List Byte) :=
  (s.net.map (·.ev) ++ (stackAt s (row % 16)).tagQ.map (·.2)).filterMap (fun e => match e with
    | .delta _ r _ bs => if r = row then some bs else none
    | _ => none)

/-- The value that a reconstruction of the line gives: the XOR of the parity, with every delta of the row applied, and the other
fourteen data lines (R206). -/
def reconValue (s : State) (line : Nat) : List Byte :=
  let row := stripeOf line
  let base := (deltasOut s row).foldl xorBytes (parityLine s row)
  ((stripeLines row).filter (fun m => m != line)).foldl (fun v m => xorBytes v (dramLine s m)) base

/-! ### Poison -/

/-- The line becomes poisoned, in L2 and in HBM (R203, R209, R401). -/
def markPoison (s : State) (line : Nat) : State :=
  let old := (decide (line ∈ s.poison) && decide (line ∈ s.hpoison)) || (s.mmio.dual && lineLost s line)
  let s := { s with poison := line :: s.poison.filter (fun l => !(l == line)),
                    hpoison := line :: s.hpoison.filter (fun l => !(l == line)) }
  if old then s else ctrAdd s (ctrKey 3 (dataStack line) 41) 1

/-- The markers of a line go, and with them the note of what has been merged into it. -/
def clearPoison (s : State) (line : Nat) : State :=
  { s with poison := s.poison.filter (fun l => !(l == line)), hpoison := s.hpoison.filter (fun l => !(l == line))
           ecc := s.ecc.filter (fun l => !(l == line)), merged := s.merged.filter (fun a => !(a / 128 == line)) }

/-- A full L2 slice of 16,384 lines evicts one, a free choice, and writes it back if it is dirty (R188; log 94). -/
def l2Room (s : State) (slice : Nat) : State :=
  let mine := s.l2.filter (fun x => homeSlice x.line == slice)
  if mine.length < 16384 then s
  else
    match mine[Config.freeNat s.free % mine.length]? with
    | none => s
    | some v =>
      let s := { s with free := s.free + 1, l2 := s.l2.filter (fun x => !(x.line == v.line)) }
      if v.dirty then sendPacket s (sliceAgent slice) (dataStack v.line) (.hbmWrite v.line []) else s

/-- A line of the home slice's L2, clean, where it is absent (R188). -/
def l2Fill (s : State) (line : Nat) : State :=
  if s.l2.any (fun x => x.line == line) then s
  else
    let s := l2Room s (homeSlice line)
    { s with l2 := s.l2 ++ [{ line := line, dirty := false, pin := false }] }

/-- A reconstructed value is entered: it is rewritten in HBM where the stack is there, it is what readers see but for bytes that
stores have merged meanwhile or a newer line in L2, and the poison goes (R209). -/
def enterRebuilt (s : State) (line : Nat) (v : List Byte) : State :=
  let newer := s.l2.any (fun x => x.line == line && x.dirty) && !(decide (line ∈ s.poison))
  let kvs := if newer then [] else (bytesAt (128 * line) v).filter (fun e => !(decide (e.1 ∈ s.merged)))
  let s := if lineLost s line then s else dramPut s line v
  l2Fill (clearPoison (memPut s kvs) line) line

/-! ### Packets to the stacks (R202, R211, R212) -/

/-- The physical frame of a logical frame, and its channel (R211). -/
def physFrame (k : Stack) (f : Nat) : Nat := (sget none k.remap f).getD f
def frameChan (pf : Nat) : Nat := if pf < 32768 then pf % 32 else (pf - 32768) / 16

/-- The place of a row in its frame (R198). -/
def rowIn (row : Nat) : Nat := row % 524288 / 32

/-- The physical frame that holds a row: a row that a move has copied lies at its new place at once (R212, R213). -/
def physRow (k : Stack) (row : Nat) : Nat :=
  let f := frameOf row
  match k.moving with
  | none => physFrame k f
  | some m =>
    if m.row ≤ rowIn row then physFrame k f
    else if m.f1 = f then (match m.f2 with | some g => physFrame k g | none => m.parkFrame)
    else if m.f2 = some f then physFrame k m.f1 else physFrame k f

/-- Counts a packet performed for a row at a stack (R401); a lost stack performs none. -/
def countPacket (s : State) (x row : Nat) : State :=
  if (stackAt s x).lost then s else ctrAdd s (ctrKey 3 x (frameChan (physRow (stackAt s x) row))) 1

/-- A move holds the slices' packets to a frame (R212). -/
def moveHolds (k : Stack) (row : Nat) : Bool :=
  match k.moving with
  | none => false
  | some m => decide (m.f1 = frameOf row) || decide (m.f2 = some (frameOf row))

/-- A packet of a slice that names this line. -/
def packetLine : Instr → Option Nat
  | .hbmRead l _ => some l
  | .hbmWrite l _ => some l
  | .hbmAtomic l _ => some l
  | _ => none

/-- An older packet for the line is held at its controller: packets to one line are performed in their order of arrival (R202). -/
def behindHeld (s : State) (line : Nat) : Bool := (stackAt s (dataStack line)).held.any (fun e => packetLine e.2 == some line)

/-- A read that its home slice cannot serve from L2 waits: its packet is held by a move or behind an older packet, or finds no tag (R202,
R212). -/
def readWaits (s : State) (line : Nat) : Bool :=
  let k := stackAt s (dataStack line)
  inHbm (128 * line) && !(s.l2.any (fun x => x.line == line))
    && (moveHolds k (stripeOf line) || behindHeld s line || decide (32768 ≤ k.tags))

/-- A read is served at the home slice, which fills its L2 by a read packet where the line is absent (R188, R202). -/
def l2Fetch (s : State) (line : Nat) : State :=
  if !inHbm (128 * line) || s.l2.any (fun x => x.line == line) then s
  else l2Fill (countPacket s (dataStack line) (stripeOf line)) line

/-- A reconstruction of the line for a read, counted at its parity stack, whose controller runs it (R206, R209, R401): the value is entered, or
the line is poisoned. -/
def rebuild (s : State) (line : Nat) : State :=
  let s := countPacket s (dataStack line) (stripeOf line)
  let p := parityStack line
  let s := if (stackAt s p).lost then s else ctrAdd s (ctrKey 3 p 40) 1
  if reconOk s line then enterRebuilt s line (reconValue s line) else markPoison s line

/-- The read of a line waits for its reconstruction: it is poisoned, or it is not in L2 and its stored bytes are uncorrectable or lie on
the lost stack (R207, R209, R240). -/
def needsRebuild (s : State) (line : Nat) : Bool :=
  inHbm (128 * line) && !(s.mmio.dual && lineLost s line) &&
    (decide (line ∈ s.poison) || ((decide (line ∈ s.ecc) || lineLost s line) && !(s.l2.any (fun x => x.line == line))))

/-- A read of a line, as far as poison goes (R209, R240). -/
def readLine (s : State) (line : Nat) : State := if needsRebuild s line then rebuild s line else s

/-- A read of some bytes, as far as poison goes. -/
def readLines (s : State) (pas : List Nat) : State := ((pas.map (· / 128)).dedup).foldl readLine s

/-- Reads of several bytes at their home slices. -/
def fetchLines (s : State) (pas : List Nat) : State := ((pas.map (· / 128)).dedup).foldl l2Fetch s

/-- The first poisoned byte among some. -/
def poisonAt (s : State) (pas : List Nat) : Option Nat := pas.find? (fun a => isPoisoned s (a / 128))

/-! ### Time -/

/-- A marching stack's march runs on while its budget lasts (R407). -/
def marchOn (n : Nat) (s : State) (e : Nat × Stack) : State :=
  if !e.2.marching then s
  else
    let k := ctrKey 3 e.1 35
    let left := (ctrGet s (k + 4096)).toNat - (ctrGet s k).toNat
    let s := charge s k (min n left)
    if left < n then refuseAdmission s k else s

/-- `n` clk pass: the reference counts, read windows of 1,024 clk end (R200), and marches run. -/
def passTime (s : State) (n : Nat) : State :=
  let same := decide ((s.clk + n) / 1024 = s.clk / 1024)
  s.hbm.foldl (marchOn n) { s with
    clk := s.clk + n, moves := s.moves + 1, readWin := if same then s.readWin else [], wroteWin := if same then s.wroteWin else [] }

end Sys2Proof.Machine
end

