-- ==== Sys2Proof/Machine/Chunks.lean ====
section
/-! DEFINITION. Sys2Proof/Machine/Chunks.lean: chunks: their beginning (R161), a group's view of memory over its own uncommitted bytes
(R217, R226), squash (R99, R161, R220, R222), and the performing of committed writes, which invalidates copies, squashes
conflicting chunks, wakes watchers and revokes replicas (R201, R220, R223, R259). -/

namespace Sys2Proof.Machine

/-! ### Views -/

/-- The first uncommitted byte found, newest chunk first. -/
def firstByte (f : Chunk → Sparse (Option Byte)) (key : Nat) : List Chunk → Option Byte
  | [] => none
  | c :: t => match sget none (f c) key with
    | some b => some b
    | none => firstByte f key t

/-- The chunks of a group, newest first. -/
def chunksOf (g : Group) : List Chunk := g.open_ :: g.done.reverse

/-- The name of the outermost task that a group runs: tasks are named in the order of their start, so those of its inline calls come after
it. -/
def baseUid (s : State) (c : Nat) (g : Group) : Nat :=
  (teamAt s c g.team).levels.foldl (fun n l => l.kept.foldl (fun n k => min n k.uid) n) g.uid

/-- The byte that the device's latest store on its way beyond the package gives an address: stores to one byte arrive in the order of their
commits, so a later read may not see an older value (R229; log 34). -/
def extByte (s : State) (pa : Nat) : Option Byte :=
  s.extPend.foldl (fun b w => ((w.bytes.find? (fun e => e.1 == pa)).map (·.2)).or b) none

/-- A byte of global memory as the issuing group sees it: its own uncommitted byte if there is one, else the device's store on its way
beyond the package, else the committed byte (R190, R217, R229, R241). -/
def viewByte (s : State) (g : Group) (pa : Nat) : Byte :=
  (firstByte (·.wr) pa (chunksOf g)).getD ((if beyond pa then extByte s pa else none).getD (memByte s (homePa pa)))

/-- Bytes of global memory as a group sees them. -/
def viewBytes (s : State) (g : Group) (pas : List Nat) : List Byte := pas.map (viewByte s g)

/-- The key of a scratch byte of a core. -/
def scrKey (core off : Nat) : Nat := core * 2 ^ 28 + off

/-- A byte of unmapped scratch as a group sees it (R226). -/
def viewScratch (s : State) (g : Group) (core off : Nat) : Byte :=
  (firstByte (·.ws) (scrKey core off) (chunksOf g)).getD (sget 0 (coreAt s core).scratch off)

/-- A byte of the group's return stack as the group sees it (R154). -/
def viewStack (s : State) (g : Group) (pa : Nat) : Byte :=
  (firstByte (·.wk) pa (chunksOf g)).getD (memByte s pa)

/-- A little-endian value of the return stack as the group sees it. -/
def viewStackNat (s : State) (g : Group) (pa n : Nat) : Nat :=
  natOfBytes ((List.range n).map (fun i => viewStack s g (pa + i)))

/-! ### Beginning -/

/-- A chunk begins at the first issue after a boundary: the checkpoint is taken. A chunk squashed `lim` times in a row is a priority
chunk where `pri` allows it (R28, R161, R163, R222). RST falls at a chunk that follows no squash (R159). -/
def beginChunk (g : Group) (lim : Nat) (pri : Bool) : Group :=
  if g.open_.slots ≠ 0 then g
  else
    let r := if g.sq = 0 then { g.r with rst := false } else g.r
    let p := decide (lim ≤ g.sq) && pri && !irrevocable g
    { g with
      r := r
      pri := p
      open_ := { num := g.nextNum, ckpt := r, sq := g.sq, pri := p, irr := irrevocable g }
      nextNum := g.nextNum + 1
      grownFrom := none }

/-- Begins a chunk of the group in a slot if none is open. -/
def beginAt (s : State) (c slot : Nat) : State :=
  match groupAt s c slot with
  | none => s
  | some g =>
    let g := if g.reirr && decide (g.open_.slots = 0) then { g with irr := true, reirr := false } else g
    let g' := beginChunk g (coreAt s c).mcklim.toNat (!otherPri s c slot)
    let s := if g.open_.slots = 0 && g'.pri then coreCtr s c 4 1 else s
    setGroup s c slot g'

/-! ### The home directory (R199) -/

/-- Enters a core in the directory entry of a line (R199). -/
def dirAdd (s : State) (c line : Nat) : State :=
  let s := modCore s c (fun k => { k with leaving := k.leaving.filter (fun e => !(e.1 == line)) })
  let cs := (aget s.dir line).getD []
  if c ∈ cs then s else { s with dir := aset s.dir line (c :: cs) }

/-- Takes a core out of the directory entry of a line. -/
def dirDel (s : State) (c line : Nat) : State :=
  match ((aget s.dir line).getD []).filter (fun x => !(x == c)) with
  | [] => { s with dir := adel s.dir line }
  | cs => { s with dir := aset s.dir line cs }

/-- The chunks of a core that are open, or ended and awaiting their grants: slot, task and number. -/
def waitingChunks (k : Core) : List (Nat × Nat × Nat) :=
  k.groups.flatMap (fun e => ((e.2.done ++ [e.2.open_]).filter (fun x => decide (x.num ≠ 0) && decide (x.phase < 2))).map
    (fun x => (e.1, e.2.uid, x.num)))

/-- A core has dropped its copy of a line: its entry stays until the chunks that are open or await their grants now have committed or been
squashed (R199). -/
def leaveDir (s : State) (c line : Nat) : State :=
  if c ∉ (aget s.dir line).getD [] then s
  else
    let ws := waitingChunks (coreAt s c)
    if ws.isEmpty then dirDel s c line
    else modCore s c (fun k => { k with leaving := (line, ws) :: k.leaving.filter (fun e => !(e.1 == line)) })

/-- Chunks of a core have committed or been squashed: the entries that waited for the last of them go (R199). -/
def sweepDir (s : State) (c : Nat) : State :=
  let k := coreAt s c
  if k.leaving.isEmpty then s
  else
    let live := k.groups.flatMap (fun e => (e.2.done ++ [e.2.open_]).map (fun x => (e.1, e.2.uid, x.num)))
    let ls := k.leaving.map (fun e => (e.1, e.2.filter (fun w => decide (w ∈ live))))
    let s := setCore s c { k with leaving := ls.filter (fun e => !e.2.isEmpty) }
    (ls.filter (fun e => e.2.isEmpty)).foldl (fun s e => dirDel s c e.1) s

/-- Lines of a core that open or ended chunks hold uncommitted. -/
def uncommittedLines (k : Core) : List Nat :=
  k.groups.flatMap (fun e => (e.2.done ++ [e.2.open_]).flatMap (·.glines))

/-- A squash drops the uncommitted lines of its chunks, but for a stash line that is committed and dirty below them (R188, R196). -/
def dropUncommitted (s : State) (c : Nat) (lines : List Nat) : State :=
  let k := coreAt s c
  let un := uncommittedLines k
  let gone := fun (x : L1Line) => decide (x.line ∈ lines) && !(decide (x.line ∈ un)) && !x.dirty
  let s := setCore s c { k with
    l1 := (k.l1.filter (fun x => !(gone x && !x.pin))).map (fun x => if gone x then { x with valid := false } else x)
    stashLines := (k.stashLines.filter (fun x => !(gone x && !x.pin))).map (fun x => if gone x then { x with valid := false } else x) }
  ((k.l1 ++ k.stashLines).filter gone).foldl (fun s x => leaveDir s c x.line) s

/-! ### Squash -/

/-- The entry of a deque that a JOIN on `h` has claimed, of the closure at `ca` (R318). -/
def isClaimed (h ca : Dword) (e : DqEntry) : Bool :=
  e.clm && decide (e.kind ≠ 1) && decide (e.result = h) && decide (ca.extractLsb' 7 50 = e.cline)

/-- A claim on one entry of a deque ends (R318). -/
def unclaimed (l : List DqEntry) (h ca : Dword) : List DqEntry :=
  let i := l.findIdx (isClaimed h ca)
  l.mapIdx (fun j e => if j = i then { e with clm := false } else e)

/-- Returns what an effect of a squashed chunk had reserved (R40, R248, R273, R306, R318, R320, R326). -/
def unreserve (c slot : Nat) (s : State) : Effect → State
  | .push _ =>
      let s := modCore s c (fun k => { k with dqResv := k.dqResv - 1 })
      if (coreAt s c).poolReady.isEmpty then s else send s c c (.ownerPop c)
  | .node _ _ => modCore s c (fun k => { k with poolResv := k.poolResv - 1 })
  | .fnew i => modCore s c (fun k =>
      { k with futs := aset k.futs i { (aget k.futs i).getD {} with st := 0, value := 0, ctx := 0, waiters := [] } })
  | .send tc ch _ => modCore s tc (fun k => { k with chans := amod k.chans ch (fun x => { x with credits := x.credits - 1 }) })
  | .recvDone ch => modCore s c (fun k => { k with chans := amod k.chans ch (fun x =>
      let (later, before) := x.taken.reverse.span (fun t => t.1 != slot)
      { x with buf := (before.take 1).map (·.2) ++ x.buf, taken := (later ++ before.drop 1).reverse }) })
  | .accNames mask =>
      match groupAt s c slot with
      | none => s
      | some g =>
        let t := teamAt s c g.team
        let phys := t.tiles.filter (fun e => mask.getLsbD e.1)
        modCore (setTeam s c g.team { t with tiles := t.tiles.filter (fun e => !mask.getLsbD e.1) }) c (fun k =>
          { k with tilesUsed := phys.foldl (fun m e => m &&& ~~~(BitVec.ofNat 8 (2 ^ e.2))) k.tilesUsed })
  | .smap e => modCore s c (fun k => { k with stash := k.stash.eraseP (fun x => decide (x.2 = e)) })
  | .sunmap a n => modCore s c (fun k => { k with stash := k.stash.map (fun x =>
      if a ≤ x.2.sline ∧ x.2.sline < a + n then (x.1, { x.2 with pend := false }) else x) })
  | .sdrop a n => modCore s c (fun k => { k with stash := k.stash.map (fun x =>
      if a < x.2.sline + x.2.nline ∧ x.2.sline < a + n then (x.1, { x.2 with pend := false }) else x) })
  | .inlineCall x _ => match x.info.joinH with
      | none => s
      | some h => modCore s c (fun k => { k with deque := unclaimed k.deque h x.ca })
  | _ => s

/-- A group none of whose threads is blocked in BAR, BARWT or GBAR any more: the clk of its wait are counted (R399). -/
def tallyBar (s : State) (c slot : Nat) : State :=
  match groupAt s c slot with
  | none => s
  | some g =>
    match g.barSince with
    | none => s
    | some t0 =>
      if g.r.thr.any (fun e => match e.2 with | .bar _ _ => true | _ => false) then s
      else modGroup (coreCtr s c 12 (s.clk - t0)) c slot (fun g => { g with barSince := none })

/-- A counter as it stands: BARCLK with the clk of the waits that still last (R399). -/
def ctrNow (s : State) (cls unit idx : Nat) : Dword :=
  let more := if cls = 1 ∧ idx = 12 then (coreAt s unit).groups.foldl (fun n e => n + (e.2.barSince.map (s.clk - ·)).getD 0) 0 else 0
  ctrGet s (ctrKey cls unit idx) + BitVec.ofNat 64 more

/-- Takes a waiting or granted ACCALLOC request of a slot out of the queue; tiles that were granted return (R273). -/
def dropAcc (s : State) (c slot : Nat) : State :=
  let rs := (coreAt s c).accQ.filter (fun r => r.slot == slot)
  let s := rs.foldl (fun s r => match r.granted with
    | some w => unreserve c slot s (.accNames (w.setWidth 8))
    | none => s) s
  kickAcc (modCore s c (fun k => { k with accQ := k.accQ.filter (fun r => !(r.slot == slot)) })) c

/-- An access has taken its answer that the page is not present, or is gone (R373). `q` picks the tags. -/
def dropAsker (s : State) (me : Nat × Nat) (q : AtsReq → Bool) : State :=
  let one := fun (e : Nat × AtsReq) => if e.2.absent && q e.2 then (e.1, { e.2 with who := e.2.who.filter (fun x => decide (x ≠ me)) }) else e
  if s.ats.all (fun e => !(e.2.absent && q e.2)) then s
  else { s with ats := (s.ats.map one).filter (fun e => !(e.2.absent && e.2.who.isEmpty)) }

/-- Squashes chunk number `num` of a group and every later one: the group restarts from that chunk's checkpoint with RST set, registers
that WGROW added read 0, and everything the chunks had reserved returns (R99, R161, R222). Its Press
requests and grants fall away. -/
def squashFrom (s : State) (c slot num : Nat) : State :=
  match groupAt s c slot with
  | none => s
  | some g =>
    let all := g.done ++ [g.open_]
    let dead := all.filter (fun k => num ≤ k.num)
    let keep := g.done.filter (fun k => k.num < num)
    match dead with
    | [] => s
    | first :: _ =>
      let s := (dead.reverse).foldl (fun s k => k.effects.reverse.foldl (unreserve c slot) s) s
      let s := dropAcc s c slot
      let s := coreCtr s c 3 dead.length
      let sq := min 15 (first.sq + 1)
      let gone := dead.filter (fun k => k.phase == 1)
      let left := fun (x : GrantRec) => !(x.k.core == c && x.k.slot == slot && gone.any (fun k => k.num == x.k.num))
      let s := if gone.isEmpty then s else { s with dies := s.dies.map (fun (e : Nat × Die) =>
        (e.1, { e.2 with granted := e.2.granted.filter left, waiting := e.2.waiting.filter left })) }
      let s := (gone.flatMap (·.granted)).foldl (fun s d => send s c (pressAgent d) (.pressRelease d { core := c, slot := slot, num := 0 })) s
      let r0 := { first.ckpt with rst := true }
      let r1 := match g.grownFrom with
        | none => r0
        | some a => { r0 with v := r0.v.filter (fun e => e.1 < 32 * a) }
      let s := modGroup s c slot (fun g =>
        { g with
          r := r1, done := keep, open_ := {}, sq := sq, pri := false, hold := false, query := [], grpWait := none
          stop := g.stop.map (fun x => { x with kind := 2, skid := 0 })
          replay := none, awaited := false, epi := [], ended := false })
      let s := dropAsker (tallyBar s c slot) (c, slot) (fun _ => true)
      sweepDir (dropUncommitted s c (dead.flatMap (·.glines))) c

/-- A chunk is safe from squash: priority, irrevocable, or already holding its grants (R163, R164, R220). -/
def chunkSafe (k : Chunk) : Bool := k.pri || k.irr || decide (2 ≤ k.phase)

/-- The first open or ended-but-ungranted chunk of a group that meets a test, and may be squashed. -/
def firstVictim (p : Chunk → Bool) (g : Group) : Option Nat :=
  ((g.done ++ [g.open_]).find? (fun k => !chunkSafe k && p k && decide (k.num ≠ 0))).map (·.num)

/-- Squashes in one core every chunk that meets a test, other than those of slot `except` (R220). -/
def squashCore (s : State) (c : Nat) (except : Option Nat) (p : Chunk → Bool) : State :=
  (coreAt s c).groups.foldl (fun s e =>
    if some e.1 = except then s
    else match firstVictim p e.2 with
      | none => s
      | some n => squashFrom s c e.1 n) s

/-- A chunk conflicts with a write signature (R220). -/
def conflicts (w : Sig) (k : Chunk) : Bool := sigMeets k.rsig w || sigMeets k.wsig w

/-- The cores that the home directory lists for any of the lines (R199, R220). -/
def sharers (s : State) (lines : List Nat) : List Nat :=
  (List.range 256).filter (fun c => lines.any (fun l => decide (c ∈ (aget s.dir l).getD [])))

/-- Invalidates a core's copies of lines: clean and committed copies leave L1 and stash; a pinned line stays pinned and is refetched on its
next touch (R197, R199, R220). -/
def invalidate (s : State) (c : Nat) (lines : List Nat) : State :=
  let s := modCore s c (fun k =>
    { k with
      l1 := (k.l1.filter (fun x => !(decide (x.line ∈ lines) && !x.pin))).map
        (fun x => if x.line ∈ lines then { x with dirty := false, valid := false } else x)
      stashLines := (k.stashLines.filter (fun x => !(decide (x.line ∈ lines) && !x.pin))).map
        (fun x => if x.line ∈ lines then { x with dirty := false, valid := false } else x) })
  lines.foldl (fun s l => leaveDir s c l) s

/-- Some core's stash holds the line committed and dirty (R196). -/
def stashDirty (s : State) (line : Nat) : Bool := s.cores.any (fun e => e.2.stashLines.any (fun x => x.line == line && x.dirty))

/-- The bytes of a line at its home slice: what a dirty stash copy has not written back is not among them (R196, R248). -/
def homeBytes (s : State) (line : Nat) : List Byte :=
  let now := memBytes s (128 * line) 128
  if stashDirty s line then (aget s.home line).getD now else now


/-- A push or an install of a line on its way (R200). -/
def decantMsg (line : Nat) (m : Msg) : Bool :=
  match m.ev with
  | .decantPushDone l _ => l == line
  | .redirectInstall _ l _ => l == line
  | _ => false

/-- Revocation before a written line is visible: every replica and redirect entry of it goes, and a push or an install still on its way
is dropped (R201, R381). -/
def revoke (s : State) (line : Nat) : State :=
  if s.replicas.all (fun e => !(e.1 == line)) && s.redirects.all (fun e => !(e.2.1 == line)) && !(s.net.any (decantMsg line)) then s
  else dieCtr { s with replicas := s.replicas.filter (fun e => !(e.1 == line))
                       redirects := s.redirects.filter (fun e => !(e.2.1 == line))
                       net := s.net.filter (fun m => !(decantMsg line m)) } (homeDie line) 4 1

/-- A WAIT packet that watches the line is evaluated again (R341). -/
def wakePackets (s : State) (line : Nat) : State :=
  s.hslots.foldl (fun s h =>
    if s.pkts.any (fun p => p.q == h.2.q && p.deadline.isSome && p.line == line) then
      send s (sliceAgent (homeSlice line)) (engineAgent (h.1 / 256)) (.waitRecheck h.1) else s) s

/-- Wakes every sleeper in WAITADDR whose watched line is written (R259), and the WAIT packets on it. -/
def wakeWatchers (s : State) (line : Nat) : State :=
  s.cores.foldl (fun s ce =>
    ce.2.groups.foldl (fun s ge =>
      if ge.2.watch.any (fun w => homePa (128 * w.line) / 128 == line) then
        send (modGroup s ce.1 ge.1 (fun g => { g with watch := g.watch.map (fun w => { w with hit := w.hit || homePa (128 * w.line) / 128 == line }) }))
          (sliceAgent (homeSlice line)) ce.1 (.waitaddrWake ce.1 ge.1)
      else s) s) (wakePackets s line)

/-- Marks an HBM line present and dirty in its home slice's L2 (R188). -/
def l2Write (s : State) (line : Nat) : State :=
  if !inHbm (128 * line) then s
  else if line ∈ s.l2.map (·.line) then { s with l2 := s.l2.map (fun x => if x.line = line then { x with dirty := true } else x) }
  else
    let s := l2Room s (homeSlice line)
    { s with l2 := s.l2 ++ [{ line := line, dirty := true, pin := false }] }

/-- A committing chunk's line becomes dirty in its core's L1 or stash, whichever holds it; of a stash line the home slice keeps the bytes it
had (R195, R196, R248). -/
def markDirty (c : Nat) (s : State) (line : Nat) : State :=
  let mark := fun (x : L1Line) => if x.line = line ∧ x.valid then { x with dirty := true } else x
  let s := if (coreAt s c).stashLines.any (fun x => x.line == line) then { s with home := aset s.home line (homeBytes s line) } else s
  modCore s c (fun k => { k with l1 := k.l1.map mark, stashLines := k.stashLines.map mark })

/-- A staging or a stream's run-ahead has brought a line (R376). -/
def markAhead (c : Nat) (s : State) (line : Nat) : State :=
  modCore s c (fun k => { k with l1 := k.l1.map (fun x => if x.line = line then { x with ahead := true } else x) })

/-- A copy that leaves a core is written back to its home slice if it is dirty (R188, R194). -/
def leaveL1 (s : State) (x : L1Line) : State := if x.dirty then l2Write s x.line else s

/-- Committed dirty copies of some lines of a core are written back to their home slices (R196). -/
def writeBack (s : State) (c : Nat) (lines : List Nat) : State :=
  let k := coreAt s c
  let mine := fun (x : L1Line) => decide (x.line ∈ lines)
  let clean := fun (x : L1Line) => if mine x then { x with dirty := false } else x
  ((k.l1 ++ k.stashLines).filter mine).foldl leaveL1
    (setCore s c { k with stashLines := k.stashLines.map clean, l1 := k.l1.map clean })

/-- The lines of a list of bytes, each once. -/
def linesOf (kvs : List (Nat × Byte)) : List Nat := (kvs.map (·.1 / 128)).dedup

/-- All 128 bytes of a line are written: that clears its poison (R209). -/
def fullLine (kvs : List (Nat × Byte)) (line : Nat) : Bool :=
  (List.range 128).all (fun i => kvs.any (fun e => e.1 == 128 * line + i))

/-- The device enters the safe state: every core held in reset (R450); after a fatal error the failing unit is the core that raised it (R451).
The L2 contents and memory stay, and Sirmel's own work goes on. -/
def enterSafe (s : State) (cause : Nat) : State :=
  { s with
    fw := { s.fw with safe := true, stcause := cause, dumping := none, armed := false
                      stdie := if cause = 8 then dieOf s.fw.dumpCore else s.fw.stdie, stunit := if cause = 8 then s.fw.dumpCore else s.fw.stunit }
    cores := s.cores.map (fun e => (e.1, { e.2 with groups := [], teams := [] }))
    net := [], timers := s.timers.filter (fun t => decide (t.2 = .flashOpDone ∨ t.2 = .imageCheckDone)) }

/-- The dump area (R452, R464). -/
def dumpBase : Nat := fwRegion + 0x8000000

/-- The 96-bit image of a stash-map entry (R246). -/
def stashImage (e : StashEnt) : List Byte :=
  bytesOf 12 (e.valid.toNat + 2 * e.sline + 2 ^ 12 * (e.nline - 1) + 2 ^ 23 * e.gline + 2 ^ 73 * e.pend.toNat)

/-- A fault queue entry's 64 bytes (R358). -/
def entryBytes (e : FaultEnt) : List Byte :=
  let r := e.rec_
  let lo := r.code + 2 ^ 8 * r.cause + 2 ^ 16 * r.wr.toNat + 2 ^ 17 * r.fetch.toNat + 2 ^ 18 * r.src + 2 ^ 20 * r.core + 2 ^ 28 * r.slot
    + 2 ^ 34 * r.imm.toNat
  let vec := r.ivec.foldr (fun v n => v % 2 ^ 32 + 2 ^ 32 * n) 0
  bytesOf 64 (lo + 2 ^ 64 * (r.addr % 2 ^ 64) + 2 ^ 128 * e.pasid + 2 ^ 192 * vec)

/-- The lines of an L1 that scratch ways leave, a quarter of which a core may pin (R382). -/
def lockLimit (k : Core) : Nat := (10 - k.psize) * 256 / 4

/-- A redirect entry (R381). -/
def redirectImage (e : Nat × Nat × Nat) : List Byte :=
  bytesOf 8 (e.2.1 + 2 ^ 33 + 2 ^ 34 * dieOf e.2.2 + 2 ^ 36 * (e.2.2 % 64))

/-- A network interface's redirect table: 32 sets of 4 ways, in the order of installs (R381; log 101). -/
def redirectTable (s : State) (ni : Nat) : List Byte :=
  (List.range 32).flatMap (fun i =>
    let es := s.redirects.filter (fun e => e.1 == ni && e.2.1 % 32 == i)
    ((es.take 4).flatMap redirectImage ++ List.replicate 32 0).take 32)

/-- A core's stash map and lock quota entry as a dump holds them (R246, R382, R464). -/
def coreDump (k : Core) : List Byte :=
  (List.range 16).flatMap (fun i => ((aget k.stash i).map stashImage).getD (bytesOf 12 0)) ++ bytesOf 4 (lockLimit k + 2 ^ 16 * k.qused)

/-- What a die section holds that no instruction reads: the fault queue, stash maps and lock quota entries, and redirect tables (R246, R358,
R381, R464; log 101). -/
def dieDump (s : State) (d : Nat) : State :=
  let a := dumpBase + 0x400000 + 0x1000000 * d
  let s := memPut s (bytesAt (a + 0x40000) ((dieAt s d).faultQ.flatMap entryBytes))
  let s := (List.range 64).foldl (fun s i => memPut s (bytesAt (a + 0x60000 + 512 * i) (coreDump (coreAt s (64 * d + i))))) s
  (List.range 64).foldl (fun s i => memPut s (bytesAt (a + 0x300000 + 1024 * i) (redirectTable s (64 * d + i)))) s

/-- When a dump's DONE word has been written, the device enters the safe state with STCAUSE 8 (R463). The sections of the dies in VALID hold
what the device itself enters there. -/
def dumpDone (s : State) : State :=
  match s.fw.dumping with
  | none => s
  | some _ =>
    if memNat s (dumpBase + 28) 4 = 1 then
      enterSafe (((List.range 4).filter (fun d => (memByte s (dumpBase + 11)).getLsbD d)).foldl dieDump s) 8
    else s

/-- A line's bytes become visible at its home slice: replicas are revoked first, the bytes are stored, a whole line clears poison and a part
of one merges into it, and watchers wake (R201, R208, R209, R221, R259). -/
def showLine (s : State) (kvs : List (Nat × Byte)) (line : Nat) : State :=
  let s := revoke s line
  let mine := kvs.filter (fun e => e.1 / 128 == line)
  let lost := s.mmio.dual && lineLost s line
  let s := if lost then s else memPut s mine
  let s := if lost ∨ line ∉ s.poison then s
    else if fullLine kvs line then
      { s with poison := s.poison.filter (fun l => !(l == line)), merged := s.merged.filter (fun a => !(a / 128 == line)) }
    else { s with merged := (mine.map (·.1)).filter (fun a => !(decide (a ∈ s.merged))) ++ s.merged }
  let s := { s with wroteWin := if line ∈ s.wroteWin then s.wroteWin else line :: s.wroteWin, redAt := adel s.redAt line }
  dumpDone (wakeWatchers (l2Write s line) line)

/-- The signature of lines. -/
def sigOf (lines : List Nat) : Sig := sigAddAll {} lines

/-- A write that takes its place in the package order at once: an inbound access, an engine chunk, a RED, a split (R223, R227, R315).
Copies are invalidated, conflicting chunks are squashed, and the bytes become visible. `except` names a core and slot whose own
chunks are left (the performing group's). -/
def performWrite (s : State) (except : Option (Nat × Nat)) (kvs : List (Nat × Byte)) : State :=
  let lines := linesOf kvs
  let w := sigOf lines
  let s := (sharers s lines).foldl (fun s c =>
    invalidate (squashCore s c (except.bind (fun e => if e.1 = c then some e.2 else none)) (conflicts w)) c lines) s
  lines.foldl (fun s l => showLine s kvs l) s

/-- The live signature of some priority or irrevocable chunk meets the lines: an inbound write or an engine chunk waits (R223). -/
def heldByLive (s : State) (w : Sig) (except : Option (Nat × Nat)) : Bool :=
  s.cores.any (fun ce => ce.2.groups.any (fun ge =>
    decide (some (ce.1, ge.1) ≠ except) &&
      (ge.2.done ++ [ge.2.open_]).any (fun k => (k.pri || k.irr) && decide (k.num ≠ 0) && conflicts w k)))

/-- A Press has granted a chunk that has not completed and whose write signature meets `w` (R219). -/
def heldByGrant (s : State) (w : Sig) : Bool :=
  s.dies.any (fun d => d.2.granted.any (fun g => sigMeets g.w w))

/-- A write of some lines that is no chunk of a group waits at their home slices (R219, R223). -/
def writeHeld (s : State) (lines : List Nat) : Bool := heldByGrant s (sigOf lines) || heldByLive s (sigOf lines) none

/-! ### The Press (R219) -/

/-- A Press may grant a write signature of a chunk: no granted chunk that has not completed and no live signature of a priority or
irrevocable chunk of another group meets it. -/
def mayGrant (s : State) (d : Nat) (x : GrantRec) : Bool :=
  !((dieAt s d).granted.any (fun g => sigMeets g.w x.w)) && !heldByLive s x.w (some (x.k.core, x.k.slot))

/-- A grant is given. -/
def grantPress (s : State) (d : Nat) (x : GrantRec) : State :=
  send (dieCtr (modDie s d (fun k => { k with granted := k.granted ++ [x], waiting := k.waiting.filter (fun y => decide (y ≠ x)) })) d 0 1)
    (pressAgent d) x.k.core (.pressGrant d x.k)

/-- Held requests are looked at again, priority chunks first (R219). -/
def reconsider (s : State) (d : Nat) : State :=
  let ws := (dieAt s d).waiting
  (ws.filter (·.pri) ++ ws.filter (fun x => !x.pri)).foldl (fun s x => if mayGrant s d x then grantPress s d x else s) s

/-- A request is granted at once, or held (R219). -/
def enterPress (s : State) (d : Nat) (r : GrantRec) : State :=
  if mayGrant s d r then grantPress s d r else dieCtr (modDie s d (fun y => { y with waiting := y.waiting ++ [r] })) d 1 1

/-! ### Writers that are no chunk of a group (R223, R315) -/

/-- The writer of a reference that asks the Presses. -/
def askOf (s : State) (k : ChunkRef) : Option PressAsk := s.asks.find? (fun a => decide (a.k = k))

/-- An engine chunk or a split asks the Press of each die that homes a line it writes, in die order; its step `ev` is taken once all have
granted (R223). A writer of no tracked line has nobody to ask. -/
def askPress (s : State) (k : ChunkRef) (lines : List Nat) (ev : Instr) : State :=
  match (List.range 4).filter (fun d => lines.any (fun l => homeDie l == d)) with
  | [] => send { s with asks := s.asks ++ [⟨k, lines, [], [], ev⟩] } k.core k.core ev
  | d :: ds => send { s with asks := s.asks ++ [⟨k, lines, d :: ds, [], ev⟩] } k.core (pressAgent d) (.pressRequest d k)

/-- A grant reaches such a writer: the next Press is asked, or its step follows. -/
def askGot (s : State) (d : Nat) (k : ChunkRef) : State :=
  match askOf s k with
  | none => s
  | some a =>
    if a.toGrant.head? ≠ some d then s
    else
      let a' := { a with toGrant := a.toGrant.drop 1, granted := a.granted ++ [d] }
      let s := { s with asks := s.asks.map (fun x => if x.k = k then a' else x) }
      match a'.toGrant with
      | e :: _ => send s k.core (pressAgent e) (.pressRequest e k)
      | [] => send s k.core k.core a.ev

/-- The writer has all its grants. -/
def askGranted (s : State) (k : ChunkRef) : Bool := (askOf s k).any (fun a => a.toGrant.isEmpty)

/-- The writer has written, or is gone: its requests fall away and its grants are released (R221). -/
def askOver (s : State) (k : ChunkRef) : State :=
  match askOf s k with
  | none => s
  | some a =>
    let s := { s with
      asks := s.asks.filter (fun x => decide (x.k ≠ k))
      dies := s.dies.map (fun (e : Nat × Die) => (e.1, { e.2 with waiting := e.2.waiting.filter (fun x => decide (x.k ≠ k)) })) }
    (a.granted ++ a.toGrant.take 1).foldl (fun s d => send s k.core (pressAgent d) (.pressRelease d k)) s

/-- The reference of a copy's engine chunk, and of a split for a thief. -/
def copyRef (id : Nat) : ChunkRef := { core := 10000 + id, slot := 0, num := 0 }
def splitRef (c piece thief : Nat) : ChunkRef := { core := 20000 + c, slot := thief, num := piece }

end Sys2Proof.Machine
end

