-- ==== Sys2Proof/Machine/Memory.lean ====
section
/-! DEFINITION. Sys2Proof/Machine/Memory.lean: translation (R189, R366 to R374), scratch addresses (R191) and the common frame of the
memory instructions (R232 to R240): what is checked, in which order, and how bytes are read and buffered. -/

namespace Sys2Proof.Machine

/-! ### Translation -/

/-- Who makes an access: a group, the stream or the prefetch engine of a core, a copy engine of its die, or another unit of the die, which has
no TLB (R373). -/
inductive Agent where
  | group
  | stream
  | prefetch
  | copy (engine : Nat)
  | unit
  deriving DecidableEq, Repr

/-- What an access wants of a page. -/
structure Access where
  wr : Bool := false
  fetch : Bool := false
  who : Agent := .group
  deriving DecidableEq, Repr

/-- An engine or a unit makes the access, for which MMIO is refused (R238, R371). -/
def Access.eng (a : Access) : Bool := decide (a.who ≠ .group)

/-- Why a translation gives no address: it waits for an ATS answer, its walk is held by a commit in progress (R220), or it faults. -/
inductive XErr where
  | wait (page : Nat)
  | held
  | fault (code : Nat) (recov : Bool)
  deriving DecidableEq, Repr

/-- A translated page: where the byte lies and whether the access is an MMIO access (R238). -/
structure Xl where
  pa : Nat
  mmio : Bool
  deriving DecidableEq, Repr

/-- Bits of a doubleword, as a number (R12). -/
def bitsOf (x : Dword) (hi lo : Nat) : Nat := (x.toNat / 2 ^ lo) % 2 ^ (hi + 1 - lo)

/-- A 64-bit address is canonical: bits [63:57] equal bit 56 (R189). -/
def canonical (va : Dword) : Bool :=
  let top := bitsOf va 63 56
  top == 0 || top == 255

/-- Fields of a table entry (R368). -/
def pteV (e : Dword) : Bool := e.getLsbD 0
def pteLeaf (e : Dword) : Bool := e.getLsbD 1
def pteW (e : Dword) : Bool := e.getLsbD 2
def pteX (e : Dword) : Bool := e.getLsbD 3
def pteFm (e : Dword) : Bool := e.getLsbD 4
def pteCont (e : Dword) : Bool := e.getLsbD 5
def pteMt (e : Dword) : Nat := bitsOf e 7 6
def pteAddr (e : Dword) : Nat := 4096 * bitsOf e 51 12

/-- The number of bytes that a leaf of a level maps (R369). -/
def leafSize (lvl : Nat) : Nat := 2 ^ (12 + 9 * lvl)

/-- An entry is malformed at its level (R368 to R370). `slot` is its place in its 64 KiB block, which a leaf of MT 2 with CONT holds in ADDR
[3:0] above zeros (log 114). -/
def pteMalformed (e : Dword) (lvl slot : Nat) : Bool :=
  decide (bitsOf e 11 8 ≠ 0) || decide (bitsOf e 63 52 ≠ 0) ||
  if pteLeaf e then
    decide (pteMt e = 3) || decide (3 ≤ lvl) || (pteCont e && decide (lvl ≠ 0)) ||
    (pteCont e && decide (bitsOf e 15 12 ≠ slot)) ||
    (if pteMt e = 2 then decide (bitsOf e 51 (if pteCont e then 16 else 12) ≠ 0)
     else decide (pteAddr e % leafSize lvl ≠ 0) || isReserved (pteAddr e))
  else
    decide (bitsOf e 7 2 ≠ 0) || decide (lvl = 0) || !inHbm (pteAddr e)

/-- A committed table entry (R369: a walk reads the value in package order and enters no signature). -/
def readEntry (s : State) (a : Nat) : Dword := BitVec.ofNat 64 (memNat s a 8)

/-- A walk from level `lvl`, `fuel` levels to go: the leaf, its level and the address of its table (R369). -/
def walkFrom (s : State) (va : Nat) : Nat → Nat → Nat → Except XErr (Dword × Nat × Nat)
  | 0, _, _ => .error (.fault fcTranslation false)
  | fuel + 1, lvl, t =>
    let i := (va / 2 ^ (12 + 9 * lvl)) % 512
    let e := readEntry s (t + 8 * i)
    if !pteV e then .error (.fault fcTranslation true)
    else if pteMalformed e lvl (i % 16) then .error (.fault fcTranslation false)
    else if pteLeaf e then .ok (e, lvl, t)
    else walkFrom s va fuel (lvl - 1) (pteAddr e)

/-- The lines that a walk reads, and the address of the level-0 table that it reaches (R369). -/
def walkReads (s : State) (va : Nat) : Nat → Nat → Nat → List Nat × Option Nat
  | 0, _, _ => ([], none)
  | fuel + 1, lvl, t =>
    let i := (va / 2 ^ (12 + 9 * lvl)) % 512
    let a := t + 8 * i
    let e := readEntry s a
    if lvl = 0 then ([a / 128], some t)
    else if !pteV e || pteMalformed e lvl (i % 16) || pteLeaf e then ([a / 128], none)
    else
      let (ls, r) := walkReads s va fuel (lvl - 1) (pteAddr e)
      (a / 128 :: ls, r)

/-- The PASID table entry allows a walk: the context lives and is not dying, and the entry is well formed (R366). -/
def pasidRoot (s : State) (p : Nat) : Option Nat :=
  match ctxOf s p with
  | none => none
  | some (_, c) =>
    if c.dying then none
    else
      let lo := readEntry s (s.mmio.ptbase + 16 * p)
      let hi := readEntry s (s.mmio.ptbase + 16 * p + 8)
      if lo.getLsbD 0 && decide (bitsOf lo 11 1 = 0) && decide (bitsOf lo 63 52 = 0) && decide (hi = 0)
          && inHbm (pteAddr lo) then some (pteAddr lo) else none

/-- A walk may begin at a cached non-leaf entry (R373): where that gives something else than the tables do, either is allowed until
TLBINV (R374; log 7). -/
def takeWalk (s : State) (d p va : Nat) (r : Except XErr (Dword × Nat × Nat)) : Except XErr (Dword × Nat × Nat) × State :=
  let cs := (dieAt s d).wcache.filter (fun t => t.pasid == p && t.va == va / 2 ^ (12 + 9 * t.lvl))
  let other := (cs.map (fun t => walkFrom s va t.lvl (t.lvl - 1) (pteAddr t.leaf))).filter (fun x => decide (x ≠ r))
  match other with
  | [] => (r, s)
  | x :: _ =>
    let (n, s) := takeFree s
    (if n % 2 = 0 then x else r, s)

/-- The entries with CONT = 1 of the 64 KiB block of `va`, in a level-0 table (R370). -/
def contEntries (s : State) (va t : Nat) : List (Dword × Nat) :=
  let first := ((va / 4096) % 512) / 16 * 16
  ((List.range 16).map (fun i => (readEntry s (t + 8 * (first + i)), i))).filter
    (fun e => pteV e.1 && pteLeaf e.1 && pteCont e.1)

/-- A CONT entry as an access to a page of its block takes it: its ADDR with the access's own 4 KiB offset in the block (R370). -/
def contLeaf (e : Dword) (own : Nat) : Dword := if pteCont e then (e &&& ~~~0xF000) ||| BitVec.ofNat 64 (4096 * own) else e

/-- The leaf that an access takes (R369, R370): in a block with CONT entries, a free choice among them and the entry of the access's
own 4 KiB where that has CONT = 0 (log 8). `table` is the level-0 table, where the walk reached one. -/
def takeLeaf (s : State) (va : Nat) (table : Option Nat) (r : Except XErr (Dword × Nat × Nat)) : Except XErr (Dword × Nat) × State :=
  let plain := r.map (fun x => (x.1, x.2.1))
  match table with
  | none => (plain, s)
  | some t =>
    let own := (va / 4096) % 16
    let cs := contEntries s va t
    let take := fun (c : Dword × Nat) =>
      if pteMalformed c.1 0 c.2 then .error (.fault fcTranslation false) else .ok (contLeaf c.1 own, 0)
    let opts := (if cs.any (fun c => c.2 == own) then [] else [plain]) ++ cs.map take
    match opts with
    | [] => (plain, s)
    | [x] => (x, s)
    | x :: _ =>
      let (n, s) := takeFree s
      (opts.getD (n % opts.length) x, s)

/-- The access that waits for an answer: a group's or its stream's, or one of its core's engines and of its die's units. -/
def asker (s : State) (core : Nat) (acc : Access) : Nat × Nat :=
  (core, if acc.who = .group ∨ acc.who = .stream then s.cur.slot else 64)

/-- Asks the host for a page (R371, R377): a free tag is sent once for a page of a PASID; the answer arrives as ATS_COMPLETION. -/
def askAts (s : State) (core p page : Nat) (me : Nat × Nat) : State :=
  match s.ats.find? (fun e => e.2.out && e.2.pasid == p && e.2.page == page) with
  | some (tag, r) => if me ∈ r.who then s else { s with ats := aset s.ats tag { r with who := me :: r.who } }
  | none =>
    match freshKey s.ats 1024 0 with
    | none => s
    | some tag =>
      let s := { s with ats := aset s.ats tag { pasid := p, page := page, core := core, out := true, who := [me] } }
      after s 110000 (.atsTagTimeout tag)

/-- The answer the ATC holds for a page (R373). -/
def atcFind (s : State) (d p page : Nat) : Option AtsAns :=
  ((dieAt s d).atc.find? (fun e => e.pasid == p && e.va == page)).bind (·.ats)

/-- A read of the line is held: another chunk that holds all its grants and has not completed writes it, by the signature test
(R220). -/
def heldRead (s : State) (me : Option (Nat × Nat)) (line : Nat) : Bool :=
  s.cores.any (fun ce => ce.2.groups.any (fun ge =>
    decide (some (ce.1, ge.1) ≠ me) && ge.2.done.any (fun k => decide (2 ≤ k.phase) && sigHas k.wsig line)))

/-! ### TLBs (R373) -/

/-- The number of 4 KiB pages that an entry covers: those of its leaf, or the one of an answer. -/
def entPages (t : TlbEnt) : Nat := if t.ats.isSome then 1 else if t.lvl = 0 && pteCont t.leaf then 16 else 512 ^ t.lvl

/-- An entry serves a page. -/
def entCovers (t : TlbEnt) (p page : Nat) : Bool := t.pasid == p && t.va / entPages t == page / entPages t

/-- Two entries are for the same pages. -/
def entSame (t u : TlbEnt) : Bool :=
  t.pasid == u.pasid && t.ats.isSome == u.ats.isSome && entPages t == entPages u && t.va / entPages t == u.va / entPages u

/-- Enters an entry in a table of `n`, whose oldest leaves (log 102). -/
def enterLeaf (n : Nat) (t : TlbEnt) (l : List TlbEnt) : List TlbEnt := (t :: l.filter (fun u => !entSame t u)).take n

/-- The set of an entry in the L2 TLB, of 256 with eight ways (R373; log 102). -/
def entSet (t : TlbEnt) : Nat := t.va / entPages t % 256

/-- Enters an entry in an L2 TLB, which holds none of 1 GiB or more (R373). -/
def enterSet (t : TlbEnt) (l : List TlbEnt) : List TlbEnt :=
  if 2 ≤ t.lvl then l
  else enterLeaf 8 t (l.filter (fun u => entSet u == entSet t)) ++ l.filter (fun u => !(entSet u == entSet t))

/-- Caches an entry where an agent's accesses look (R373). -/
def fillTlb (s : State) (core : Nat) (who : Agent) (t : TlbEnt) : State :=
  match who with
  | .group => modCore s core (fun k => { k with tlb1 := enterLeaf 64 t k.tlb1, tlb2 := enterSet t k.tlb2 })
  | .stream => modCore s core (fun k => { k with stlb := enterLeaf 128 t k.stlb })
  | .prefetch => modCore s core (fun k => { k with ptlb := enterLeaf 128 t k.ptlb })
  | .copy e => modDie s (dieOf core) (fun d => { d with ctlb := aset d.ctlb e (enterLeaf 128 t ((aget d.ctlb e).getD [])) })
  | .unit => s

/-- The entries that an agent's accesses look up, the first table first. -/
def tlbOf (s : State) (core : Nat) (who : Agent) : List TlbEnt :=
  match who with
  | .group => (coreAt s core).tlb1 ++ (coreAt s core).tlb2
  | .stream => (coreAt s core).stlb
  | .prefetch => (coreAt s core).ptlb
  | .copy e => (aget (dieAt s (dieOf core)).ctlb e).getD []
  | .unit => []

/-- The cached leaf of a page. -/
def tlbLeaf (s : State) (core p page : Nat) (who : Agent) : Option TlbEnt :=
  (tlbOf s core who).find? (fun t => t.ats.isNone && entCovers t p page)

/-- The host's answer for a page, as a TLB or the ATC of the die holds it. -/
def tlbAnswer (s : State) (core p page : Nat) (who : Agent) : Option AtsAns :=
  (((tlbOf s core who).find? (fun t => t.ats.isSome && entCovers t p page)).bind (·.ats)).or (atcFind s (dieOf core) p page)

/-- The page that a leaf of MT 2 stands for (R371): the host's answer, for which the access waits; a page that is not present faults the
accesses that waited for the answer. -/
def atsPage (s : State) (core p page : Nat) (e : Dword) (acc : Access) : Except XErr AtsAns × State :=
  if !s.mmio.atsen then (.error (.fault fcTranslation false), s)
  else match tlbAnswer s core p page acc.who with
  | some a => (.ok a, fillTlb s core acc.who { pasid := p, va := page, lvl := 0, leaf := e, ats := some a })
  | none =>
    let me := asker s core acc
    let q := fun (r : AtsReq) => r.pasid == p && r.page == page
    if s.ats.any (fun t => t.2.absent && q t.2 && decide (me ∈ t.2.who)) then (.error (.fault fcTranslation true), dropAsker s me q)
    else (.error (.wait page), askAts s core p page me)

/-- The permissions that a leaf, and an answer for it, give an access to an address (R371): a failure that is not recoverable counts first. -/
def leafPerm (fmode : Bool) (e : Dword) (ans : Option AtsAns) (pa : Nat) (acc : Access) : Option XErr :=
  if (pteFm e && !fmode) || (acc.eng && (pteMt e == 1 || inMmio pa)) || (acc.fetch && pteMt e == 1) || (inMmio pa && !fmode) then
    some (.fault fcPermission false)
  else if (acc.wr && !(pteW e && (ans.map (·.w)).getD true)) || (acc.fetch && !(pteX e && (ans.map (·.x)).getD true))
      || (!acc.wr && !acc.fetch && !(ans.map (·.r)).getD true) then some (.fault fcPermission true)
  else none

/-- Applies a leaf to an access (R371): the address first, then its permissions (R234). -/
def applyLeaf (s : State) (core p : Nat) (fmode : Bool) (va : Nat) (e : Dword) (lvl : Nat) (acc : Access) : Except XErr Xl × State :=
  let give := fun (s : State) (pa : Nat) (ans : Option AtsAns) =>
    match leafPerm fmode e ans pa acc with
    | some x => (.error x, s)
    | none => (.ok { pa := pa, mmio := pteMt e == 1 || inMmio pa }, s)
  if pteMt e = 2 then
    match atsPage s core p (va / 4096) e acc with
    | (.error x, s) => (.error x, s)
    | (.ok a, s) => give s (0x8000000000000 + a.page * 4096 + va % 4096) (some a)
  else
    let pa := pteAddr e + va % leafSize lvl
    if isReserved pa then (.error (.fault fcTranslation false), s) else give s pa none

/-- Translates one byte address of PASID `p` for an access made by core `core` (R189, R366 to R374). PASID 0 is, before its tables, the identity that
Sirmel builds over the firmware region and the MMIO range (R452; log 3). An entry cached before a change of the tables, and the
changed entry, are both allowed until TLBINV: a free choice (R374; log 7). -/
def xlate (s : State) (core p : Nat) (fmode : Bool) (va : Dword) (acc : Access) : Except XErr Xl × State :=
  if !canonical va then (.error (.fault fcTranslation false), s)
  else if p = 0 ∧ inFwRegion va.toNat then (.ok { pa := va.toNat, mmio := false }, s)
  else if p = 0 ∧ inMmio va.toNat then
    if fmode && !acc.fetch then (.ok { pa := va.toNat, mmio := true }, s) else (.error (.fault fcPermission false), s)
  else
    let v := va.toNat % 2 ^ 57
    let page := v / 4096
    let use := fun (s : State) (e : Dword) (lvl : Nat) => applyLeaf s core p fmode v e lvl acc
    let fill := fun (s : State) (e : Dword) (lvl : Nat) => fillTlb s core acc.who { pasid := p, va := page, lvl := lvl, leaf := e, ats := none }
    match pasidRoot s p with
    | none => (.error (if (ctxOf s p).isSome && heldRead s none ((s.mmio.ptbase + 16 * p) / 128) then .held else .fault fcTranslation false), s)
    | some root =>
      let (path, table) := walkReads s v 5 4 root
      let held := heldRead s none ((s.mmio.ptbase + 16 * p) / 128) || path.any (heldRead s none)
      let (r, s) := takeWalk s (dieOf core) p v (walkFrom s v 5 4 root)
      let (r, s) := if held then (.error .held, s) else takeLeaf s v table r
      match tlbLeaf s core p page acc.who with
      | none =>
        match r with
        | .error x => (.error x, s)
        | .ok (e, lvl) => use (fill s e lvl) e lvl
      | some t =>
        let old := contLeaf t.leaf (page % 16)
        match r with
        | .ok (e, lvl) =>
          if e = old then use (fill s e lvl) e lvl
          else
            let (n, s) := takeFree s
            if n % 2 = 0 then use s old t.lvl else use (fill s e lvl) e lvl
        | .error .held => use s old t.lvl
        | .error x =>
          let (n, s) := takeFree s
          if n % 2 = 0 then use s old t.lvl else (.error x, s)

/-- A byte as the device's own reads find it: of memory beyond the package, as its stores on their way leave it (R188, R190, R229). -/
def nowByte (s : State) (a : Nat) : Byte := (if beyond a then extByte s a else none).getD (memByte s (homePa a))

/-- A unit reads bytes at their home slices: it waits where a commit or a packet holds a line, else the lines are rebuilt where that is needed and
the L2 holds them (R188, R202, R209, R220). -/
def unitRead (s : State) (pas : List Nat) : Option State :=
  let ls := (pas.map (· / 128)).dedup
  let s := ls.foldl readLine s
  if ls.any (fun l => heldRead s none l || readWaits s l) then none else some (ls.foldl l2Fetch s)

/-- Address arithmetic modulo 2^64 (R232). -/
def addAddr (a : Dword) (n : Nat) : Dword := a + BitVec.ofNat 64 n

/-- The pages, 4 KiB each, that `n` bytes at an address touch: the byte offsets at which each starts. -/
def pageStarts (va : Dword) (n : Nat) : List Nat :=
  let room := 4096 - va.toNat % 4096
  if n ≤ room then [0] else [0, room]

/-- Translates every page of an access in turn. -/
def xlatePages (core p : Nat) (fmode : Bool) (va : Dword) (acc : Access) :
    List Nat → State → List (Nat × Except XErr Xl) × State
  | [], s => ([], s)
  | o :: t, s =>
    let (r, s) := xlate s core p fmode (addAddr va o) acc
    let (rs, s) := xlatePages core p fmode va acc t s
    ((o, r) :: rs, s)

/-- Where a page's failure counts in R234's order: TRANSLATION, or a translation that is not known yet, then PERMISSION; 2 is none. An MMIO page
fails where the form is not allowed one (R238). -/
def pageRank (mmioOk : Bool) : Except XErr Xl → Nat
  | .error (.fault c _) => if c = fcTranslation then 0 else 1
  | .error _ => 0
  | .ok x => if x.mmio && !mmioOk then 1 else 2

/-- The failure that decides among the pages of an access's pieces, each with its address: of the first rank, the lowest byte's (R234). -/
def worstPage (mmioOk : Bool) (rs : List (Dword × Except XErr Xl)) : Option (XErr × Nat) :=
  ([0, 1].findSome? (fun n => rs.find? (fun r => pageRank mmioOk r.2 == n))).map (fun r =>
    (match r.2 with | .error x => x | .ok _ => .fault fcPermission false, r.1.toNat))

/-- The pages that were translated. -/
def pagesOk (rs : List (Nat × Except XErr Xl)) : List (Nat × Xl) :=
  rs.filterMap (fun r => match r.2 with | .ok x => some (r.1, x) | .error _ => none)

/-- The pages' results with their addresses. -/
def pagesAt (va : Dword) (rs : List (Nat × Except XErr Xl)) : List (Dword × Except XErr Xl) := rs.map (fun r => (addAddr va r.1, r.2))

/-- The device-physical address of each byte of an access. -/
def byteAddrs (ps : List (Nat × Xl)) (n : Nat) : List Nat :=
  match ps with
  | [] => []
  | [(_, x)] => (List.range n).map (x.pa + ·)
  | (_, x) :: (o, y) :: _ => (List.range n).map (fun i => if i < o then x.pa + i else y.pa + (i - o))

/-- Translates an access by an engine or a queue unit of a core: its byte addresses, or why not. An MMIO page is refused (R238). -/
def engineAddrs (s : State) (core p : Nat) (va : Dword) (n : Nat) (wr : Bool) (who : Agent := .unit) :
    Except (XErr × Nat) (List Nat) × State :=
  let (rs, s) := xlatePages core p false va { wr := wr, who := who } (pageStarts va n) s
  match worstPage false (pagesAt va rs) with
  | some e => (.error e, s)
  | none => (.ok (byteAddrs (pagesOk rs) n), s)

/-! ### Lines, L1 and signatures of a group's access -/

/-- L1 ways of a core (R192). -/
def l1Ways (k : Core) : Nat := 10 - k.psize

/-- The way and set of the unified array in which an unmapped scratch line lies (R192). -/
def scratchWay (k : Core) (off : Nat) : Nat := 10 - k.psize + off / 32768
def scratchSet (off : Nat) : Nat := off % 32768 / 128

/-- The uncommitted lines that an L1 set of a core holds: HBM lines, those in the stash left out. -/
def uncommittedIn (k : Core) (st : List Nat) (set : Nat) : List Nat :=
  (uncommittedLines k).dedup.filter (fun l => l % 256 == set && inHbm (128 * l) && !(k.stashLines.any (fun x => x.line == l)) && !(decide (l ∈ st)))

/-- An L1 set of a core has too few ways that are neither uncommitted nor pinned for the lines that an instruction newly writes in it, `gl`
but for the stash-mapped ones `st` (R195). -/
def setFull (k : Core) (gl st : List Nat) (set : Nat) : Bool :=
  let un := uncommittedIn k st set
  let pins := (k.l1.filter (fun x => x.pin && x.line % 256 == set && !(decide (x.line ∈ un)))).map (·.line)
  let new := gl.dedup.filter (fun l => l % 256 == set && !(decide (l ∈ un)) && !(decide (l ∈ pins)) && !(decide (l ∈ st))
    && !(k.stashLines.any (fun x => x.line == l)))
  !new.isEmpty && decide (l1Ways k < un.length + pins.length + new.length)

/-- The core holds no valid copy of the line. -/
def missing (k : Core) (line : Nat) : Bool :=
  !(k.l1.any (fun x => x.line == line && x.valid)) && !(k.stashLines.any (fun x => x.line == line && x.valid))

/-- A core's read of a line goes to the helper that its network interface redirects it to, while that holds its replica (R200, R201). -/
def redirected (s : State) (c line : Nat) : Bool :=
  s.redirects.any (fun e => e.1 == c && e.2.1 == line && decide ((line, e.2.2) ∈ s.replicas))

/-- A core's read of a line that it holds no copy of waits: its home slice's packet does (R202, R212). -/
def readStalls (s : State) (c line : Nat) : Bool := missing (coreAt s c) line && !redirected s c line && readWaits s line

/-- Lines that staged tasks, and tasks whose first chunk has not committed, hold against eviction (R307). -/
def heldLines (k : Core) : List Nat := k.staged.flatMap (·.held) ++ k.teams.flatMap (·.2.held)

/-- A core's read of a line is served by the helper that it is redirected to, or counts as a read that the home slice has served (R200, R201),
which takes the line into its L2 where it is absent (R188, R202). -/
def serveRead (s : State) (c line : Nat) : State :=
  if !inHbm (128 * line) || redirected s c line then s
  else l2Fetch { s with readWin := aset s.readWin line (c :: (aget s.readWin line).getD []) } line

/-- A core takes the value of a line and keeps no copy: the directory lists it while chunks of it are under way (R188, R199). -/
def takeValue (s : State) (c line : Nat) (rd : Bool := true) : State :=
  if !missing (coreAt s c) line then s else leaveDir (dirAdd (if rd then serveRead s c line else s) c line) c line

/-- Makes a pinned line valid again (R197). -/
def revalidate (k : Core) (line : Nat) : Core :=
  { k with l1 := k.l1.map (fun x => if x.line = line then { x with valid := true } else x)
           stashLines := k.stashLines.map (fun x => if x.line = line then { x with valid := true } else x) }

/-- Brings a line into L1 where it is absent: into the lowest free way of its set, or in place of the oldest line of the set that is neither
pinned, held nor uncommitted (R195, R197, R307; log 116), which is written back if it is dirty; with no way for it the core takes its value
and keeps no copy. The home directory lists the core (R199). A store needs no fill; a read has the line served (R200). -/
def touchLine (s : State) (c line : Nat) (rd : Bool := true) : State :=
  let k := coreAt s c
  if !missing k line then s
  else
    let s := if rd then serveRead s c line else s
    if k.l1.any (fun x => x.line == line) || k.stashLines.any (fun x => x.line == line) then dirAdd (setCore s c (revalidate k line)) c line
    else
      let mates := k.l1.filter (fun x => x.line % 256 == line % 256)
      let un := uncommittedLines k ++ heldLines k
      let put := fun (l1 : List L1Line) (w : Nat) => dirAdd (setCore s c { k with l1 := l1 ++ [{ line := line, dirty := false, pin := false, way := w }] }) c line
      match (List.range (l1Ways k)).find? (fun w => mates.all (fun x => !(x.way == w))) with
      | some w => put k.l1 w
      | none =>
        match mates.find? (fun x => !x.pin && !(decide (x.line ∈ un))) with
        | some old => leaveDir (leaveL1 (put (k.l1.filter (fun x => !(x.line == old.line))) old.way) old) c old.line
        | none => leaveDir (dirAdd s c line) c line

/-- Brings a stash-mapped line into the core's stash on first touch (R196, R248). -/
def touchStash (s : State) (c line : Nat) (rd : Bool := true) : State :=
  let k := coreAt s c
  if k.stashLines.any (fun x => x.line == line && x.valid) then s
  else
    let s := if rd then serveRead s c line else s
    if k.stashLines.any (fun x => x.line == line) then dirAdd (setCore s c (revalidate k line)) c line
    else
      dirAdd (setCore s c { k with
        stashLines := k.stashLines ++ [{ line := line, dirty := false, pin := k.l1.any (fun x => x.line == line && x.pin) }]
        l1 := k.l1.filter (fun x => !(x.line == line)) }) c line

/-- Lines that enter signatures: HBM lines and the key lines of the reserved range (R216). -/
def tracked (pa : Nat) : Bool := pa < 0x010000000000

/-- The distinct tracked lines of some byte addresses. -/
def trackedLines (pas : List Nat) : List Nat := ((pas.filter tracked).map (· / 128)).dedup

/-- A priority or irrevocable chunk of another group has read or written the line, or written it (R222, R223). -/
def meetsLive (s : State) (wr : Bool) (line : Nat) : Bool :=
  s.cores.any (fun ce => ce.2.groups.any (fun ge => decide ((ce.1, ge.1) ≠ (s.cur.core, s.cur.slot)) &&
    (ge.2.done ++ [ge.2.open_]).any (fun k => (k.pri || k.irr) && decide (k.num ≠ 0) && (sigHas k.wsig line || (wr && sigHas k.rsig line)))))

/-- A priority or irrevocable chunk ends before an access to a line that such a chunk of another group has written, or before a write of
one that it has read, and waits for it: neither may be squashed for the other (log 95; R222, R223, R225). -/
def gateLive (s : State) (wr : Bool) (lines : List Nat) : Option Stop :=
  let g := curGroup s
  if (g.open_.pri || g.open_.irr) && lines.any (meetsLive s wr) then some (if g.open_.slots ≠ 0 then .cut else .stall) else none

/-- Brings lines that the issuing group accesses to its core: into its stash where that maps them (R244), else, in the forms that fill it, into
L1 (R188); others take the value alone, as every access to a key line does. -/
def touchAll (s : State) (ls st : List Nat) (rd fill : Bool) : State :=
  ls.foldl (fun s l =>
    if l ∈ st then touchStash s s.cur.core l rd
    else if fill && inHbm (128 * l) then touchLine s s.cur.core l rd else takeValue s s.cur.core l rd) s

/-- Enters lines that the issuing group reads, `st` the stash-mapped ones: the chunk ends before an access that would saturate the read
signature (R216); a read that a commit in progress holds waits (R220), and so does one that misses while the fill table is full (R195) or its
home slice's packet waits (R202, R212). `fill` tells whether the form fills L1 (R188). -/
def enterReads (pas : List Nat) (st : List Nat := []) (fill : Bool := false) : M Unit := fun s =>
  let g := curGroup s
  let ls := trackedLines pas
  let sg := sigAddAll g.open_.rsig ls
  if sigFull sg && decide (g.open_.slots ≠ 0) then .error .cut
  else if ls.any (heldRead s (some (s.cur.core, s.cur.slot))) then .error .stall
  else if decide (2048 ≤ (coreAt s s.cur.core).fills.length) && ls.any (missing (coreAt s s.cur.core)) then .error .stall
  else if ls.any (readStalls s s.cur.core) then .error .stall
  else match gateLive s false ls with
  | some x => .error x
  | none =>
    let s := touchAll s ls st true fill
    .ok ((), modCur s (fun g => { g with open_ := { g.open_ with
      rsig := sg, reads := (ls.filter (fun l => !(decide (l ∈ g.open_.reads)))) ++ g.open_.reads } }))

/-- Enters lines that the issuing group writes: the chunk ends before the instruction at a 49th line or where an L1 set has no way for its
lines, unless the instruction is its first, which then waits while the set holds uncommitted lines (R195, R215). An instruction whose own
lines are more than a set's ways is taken whole once no other line of the set is uncommitted (log 96). `keys` count towards the limit; `gl`
are the global lines among them, `st` the stash-mapped ones of those. -/
def enterWrites (keys gl : List Nat) (st : List Nat := []) : M Unit := fun s =>
  let g := curGroup s
  let k := g.open_
  let core := coreAt s s.cur.core
  let ls := (keys.filter (fun l => !(decide (l ∈ k.lines)))).dedup ++ k.lines
  let own := gl.filter (fun l => inHbm (128 * l))
  let full := ((own.map (· % 256)).dedup).filter (setFull core own st)
  if decide (48 < ls.length) && decide (k.slots ≠ 0) then .error .cut
  else if !full.isEmpty && decide (k.slots ≠ 0) then .error .cut
  else if full.any (fun x => !(uncommittedIn core st x).isEmpty) then .error .stall
  else match gateLive s true gl with
  | some x => .error x
  | none =>
    let s := touchAll s gl st false true
    .ok ((), modCur s (fun g => { g with open_ := { g.open_ with
      lines := ls
      glines := (gl.filter (fun l => !(decide (l ∈ k.glines)))).dedup ++ k.glines
      wsig := sigAddAll k.wsig gl } }))

/-- Notes bytes written to lines that the chunk has marked poisoned (R209, R251). -/
def notePoisoned (kvs : List (Nat × Byte)) (psn : Sparse (List Nat)) : Sparse (List Nat) :=
  psn.map (fun e => (e.1, e.2 ++ (kvs.map (·.1)).filter (fun a => a / 128 == e.1 && !(decide (a ∈ e.2)))))

/-- Buffers bytes of global memory as uncommitted (R217). -/
def bufferGlobal (kvs : List (Nat × Byte)) : M Unit :=
  modK (fun k => { k with wr := ssetAll none k.wr (kvs.map (fun e => (e.1, some e.2))), psn := notePoisoned kvs k.psn })

/-- A key for a scratch line, and one for a return-stack line, that counts towards the line limit. -/
def scrLineKey (core off : Nat) : Nat := 2 ^ 50 + core * 2 ^ 21 + off / 128
def stkLineKey (pa : Nat) : Nat := 2 ^ 51 + pa / 128

/-! ### The checks of a global access (R234) -/

/-- The fault of a translation failure, for a lane. -/
def xfault (lane : Nat) (acc : Access) (c addr : Nat) (recov fmode : Bool) : FaultInfo :=
  { code := c, wr := acc.wr, fetch := acc.fetch, recov := recov && !fmode, lane := lane, addr := addr }

/-- Translates the pieces of an access of the issuing group, each an address and its bytes. -/
def xlatePieces (acc : Access) : List (Dword × Nat) → State → List (Dword × Nat × List (Nat × Except XErr Xl)) × State
  | [], s => ([], s)
  | (va, n) :: t, s =>
    let (rs, s) := xlatePages s.cur.core (curGroup s).pasid (curGroup s).fmode va acc (pageStarts va n) s
    let (l, s) := xlatePieces acc t s
    ((va, n, rs) :: l, s)

/-- Checks 3 and 4 of an access of the issuing group: the translated pages of each of its pieces. -/
def groupPages (lane : Nat) (ps : List (Dword × Nat)) (acc : Access) (mmioOk : Bool) : M (List (List (Nat × Xl))) := fun s =>
  let (rs, s') := xlatePieces acc ps s
  match worstPage mmioOk (rs.flatMap (fun r => pagesAt r.1 r.2.2)) with
  | none => .ok (rs.map (fun r => pagesOk r.2.2), s')
  | some (.wait page, _) => .error (.ask (curGroup s).pasid page)
  | some (.held, _) => .error .stall
  | some (.fault c r, a) => .error (.fault (xfault lane acc c a r (curGroup s).fmode))

/-- What a form allows of MMIO and of memory beyond the package (R238, R239). -/
structure Form where
  /-- Bytes of the access. -/
  n : Nat
  wr : Bool := false
  /-- The form needs natural alignment. -/
  aligned : Bool := false
  /-- LDG.32, LDG.64, STG.32 and STG.64 may touch MMIO (R238). -/
  mmioOk : Bool := false
  /-- An atomic that is non-replayable beyond the package (R163). -/
  atomic : Bool := false
  /-- The form is one that PCI Express carries without CXL.cache (R239). -/
  pcieOk : Bool := true
  /-- A poisoned line raises no fault although the form does not write (R240). -/
  poisonOk : Bool := false
  /-- WAITADDR: non-replayable on the host and CXL.mem windows (R259). -/
  sleep : Bool := false
  /-- A group's own access, or its stream's (R238). -/
  who : Agent := .group
  deriving DecidableEq, Repr

/-- A line of the host window that the device holds through CXL.cache (R239). -/
def cxlHeld (s : State) (pa : Nat) : Bool := decide (pa / 128 ∈ s.cxl)

/-- An access to a line of the host window: whether the device comes to hold it through CXL.cache is free (R239; log 25). -/
def acquireHost (pas : List Nat) : M Unit := fun s =>
  let ls := ((pas.filter inHost).map (· / 128)).dedup.filter (fun l => !(decide (l ∈ s.cxl)))
  if ls.isEmpty then .ok ((), s)
  else
    let (n, s) := takeFree s
    .ok ((), if n % 2 = 0 then s else { s with cxl := ls ++ s.cxl })

/-- A valid stash-map entry of the core maps the virtual line (R246). -/
def stashMaps (k : Core) (vline : Nat) : Bool :=
  k.stash.any (fun e => e.2.valid && decide (e.2.gline ≤ vline) && decide (vline < e.2.gline + e.2.nline))

/-- The first byte of an access to lines that the core's stash maps which does not lie in the HBM range (R248). -/
def stashOutside (k : Core) (va : Dword) (pas : List Nat) : Option Nat :=
  (pas.zipIdx.find? (fun b => !inHbm b.1 && stashMaps k ((va.toNat + b.2) % 2 ^ 57 / 128))).map (fun b => (addAddr va b.2).toNat)

/-- The group's own chunks have overwritten all of a line: its reads meet no poison there (R209, R217). -/
def ownWhole (g : Group) (line : Nat) : Bool :=
  (List.range 128).all (fun i => (firstByte (·.wr) (128 * line + i) (chunksOf g)).isSome)

/-- The lines that a read of some bytes takes from memory, and their homes (R190, R217). -/
def readHomes (g : Group) (pas : List Nat) : List (Nat × Nat) :=
  (((pas.map (· / 128)).dedup).filter (fun l => !ownWhole g l)).map (fun l => (l, homePa (128 * l) / 128))

/-- Check 6 (R240): a read of a poisoned line waits for its reconstruction (R209), and faults if that has failed. -/
def checkPoison (f : Form) (lane : Nat) (pas : List Nat) : M Unit := do
  let g ← getG
  let ls := readHomes g pas
  modS (fun s => ls.foldl (fun s l => readLine s l.2) s)
  let bad ← getS (fun s => ls.find? (fun l => isPoisoned s l.2))
  match bad with
  | some l => faultM { code := fcMemUncorrectable, wr := f.wr, lane := lane, addr := 128 * l.1 }
  | none => pure ()

/-- Check 4 beyond the pages' own permissions (R238, R239, R248): the first byte that fails. -/
def formFault (f : Form) (s : State) (ps : List (Dword × List Nat)) (held : Bool) : Option Nat :=
  let k := coreAt s s.cur.core
  let out := if f.poisonOk then none else ps.findSome? (fun (p : Dword × List Nat) => stashOutside k p.1 p.2)
  let host := !f.pcieOk && ps.any (fun (p : Dword × List Nat) => p.2.any inHost) && !held
  if host then some (ps.headD (0, [])).1.toNat else out

/-- The checks of R234 for one thread's access of one or more pieces, in their order, each check over all pieces; answers the byte addresses of
each piece and whether it is an MMIO access. A scratch access has a piece for each stash-mapped line that it touches (R244). -/
def checkPieces (f : Form) (lane : Nat) (ps : List (Dword × Nat)) : M (List (List Nat) × Bool) := do
  let at_ := (ps.headD (0, 0)).1.toNat
  if f.aligned && at_ % f.n != 0 then faultM { code := fcMisaligned, wr := f.wr, lane := lane, addr := at_ }
  else do
    let xs ← groupPages lane ps { wr := f.wr, who := f.who } f.mmioOk
    let pss := (ps.zip xs).map (fun e => byteAddrs e.2 e.1.2)
    let pas := pss.flatten
    let mmio := xs.any (fun l => l.any (fun x => x.2.mmio))
    acquireHost (if mmio then [] else pas)
    let held ← getS (fun s => pas.all (cxlHeld s))
    let bad ← getS (fun s => formFault f s ((ps.map (·.1)).zip pss) held)
    if mmio && at_ % f.n != 0 then faultM { code := fcMisaligned, wr := f.wr, lane := lane, addr := at_ }
    else match bad with
    | some a => faultM { code := fcPermission, wr := f.wr, lane := lane, addr := a }
    | none => do
      let g ← getG
      if (mmio || (f.atomic && pas.any beyond) || (f.sleep && pas.any (fun a => inHost a || inCxlMem a))) && !irrevocable g then
        faultM { code := fcNonreplayable, wr := f.wr, lane := lane, addr := at_ }
      else do
        if (f.wr && !f.atomic) || f.poisonOk || mmio then pure () else checkPoison f lane pas
        pure (pss, mmio)

/-- The checks of R234 for one thread's access of `f.n` bytes at one address. -/
def checkAccess (f : Form) (lane : Nat) (va : Dword) : M (List Nat × Bool) := do
  let (pss, mmio) ← checkPieces f lane [(va, f.n)]
  pure (pss.headD [], mmio)

/-- A global access to a line of the executing core's stash that a stash-map instruction of this group still holds (R248): in the same
chunk the access faults, in a later one it waits. `sl` is a scratch line and `gl` a virtual line. -/
def touchesChange (sl gl : Nat → Bool) (k : Chunk) : Bool :=
  k.effects.any (fun e => match e with
    | .smap x => (List.range x.nline).any (fun i => sl (x.sline + i) || gl (x.gline + i))
    | .sunmap a n => (List.range n).any (fun i => sl (a + i))
    | .sdrop a n => (List.range n).any (fun i => sl (a + i))
    | .mapSame a n gline => (List.range n).any (fun i => sl (a + i) || (gline.map (fun x => gl (x + i))).getD false)
    | _ => false)

/-- The virtual line that a stash-mapped scratch line of a core stands for (R246). -/
def stashGlobal (k : Core) (sline : Nat) : Option Nat :=
  (k.stash.find? (fun e => e.2.valid && decide (e.2.sline ≤ sline) && decide (sline < e.2.sline + e.2.nline))).map
    (fun e => e.2.gline + (sline - e.2.sline))

/-- Enforces R248 for an access of virtual lines. -/
def guardChange (vlines : List Nat) : M Unit := fun s =>
  let g := curGroup s
  let k := coreAt s s.cur.core
  let gl := fun (l : Nat) => decide (l ∈ vlines)
  let sl := fun (l : Nat) => match stashGlobal k l with
    | some v => decide (v ∈ vlines)
    | none => false
  if touchesChange sl gl g.open_ then .error (.fault { code := fcIllegalOperand })
  else if g.done.any (touchesChange sl gl) then .error .stall
  else .ok ((), s)

/-- The virtual lines of an access. -/
def vlinesOf (va : Dword) (n : Nat) : List Nat :=
  [va.toNat % 2 ^ 57 / 128, (va.toNat % 2 ^ 57 + (n - 1)) / 128].dedup

/-! ### Scratch addresses (R191, R233) -/

/-- The core and offset that a scratch address names for core `c`, or none: SCRATCH_RANGE. -/
def scrTarget (s : State) (c : Nat) (sa : Word) : Option (Nat × Nat) :=
  let k := coreAt s c
  let i := sa.toNat / 2 ^ 28
  let off := sa.toNat % 2 ^ 28
  let target := if i = 15 ∨ i = k.cidx then some c
    else if 12 ≤ i then none
    else ((aget s.clusters k.cluster).bind (fun cl => cl.members[i]?))
  match target with
  | none => none
  | some tc => if off < (coreAt s tc).psize * 32768 then some (tc, off) else none

/-- The addresses of the bytes of a scratch access. -/
def scrBytes (s : State) (c : Nat) (sa : Word) (n : Nat) : Option (List (Nat × Nat)) :=
  ((List.range n).map (fun i => scrTarget s c (sa + BitVec.ofNat 32 i))).foldr
    (fun x t => match x, t with | some a, some l => some (a :: l) | _, _ => none) (some [])

end Sys2Proof.Machine
end

