-- ==== Sys2Proof/Machine/Access.lean ====
section
/-! DEFINITION. Sys2Proof/Machine/Access.lean: the two passes of a memory instruction (R234, R235): checked accesses of threads to global
memory and to scratch, their values, and the buffering of their stores (R217, R231, R244). -/

namespace Sys2Proof.Machine

/-- Where one byte of an access lies: an unmapped scratch byte of a core, or a device-physical address. -/
inductive Loc where
  | scr (core off : Nat)
  | glob (pa : Nat)
  deriving DecidableEq, Repr

/-- A checked access of one thread. -/
structure Chk where
  lane : Nat
  locs : List Loc
  mmio : Bool
  vlines : List Nat
  deriving DecidableEq, Repr

/-- The value of a byte as the issuing group sees it (R217, R226, R241). -/
def locByte (s : State) (l : Loc) : Byte :=
  match l with
  | .scr c o => viewScratch s (curGroup s) c o
  | .glob pa => viewByte s (curGroup s) pa

/-- What copies have landed at a scratch byte and no barrier has published yet, the latest first, unless the group has written it (R228). -/
def freshAt (s : State) (c o : Nat) : List Fresh :=
  if (firstByte (·.ws) (scrKey c o) (chunksOf (curGroup s))).isSome then [] else (aget (coreAt s c).fresh o).getD []

/-- Of landings at a byte, the latest first, the value that a thread sees: it is sure of those that its outermost task's thread has waited for,
and each other is there or not by a free choice (R228; log 97). `i` counts the layers, `pick` chooses. -/
def layerByte (base t : Nat) (pick : Nat → Bool) : Nat → Byte → List Fresh → Byte
  | _, v, [] => v
  | i, v, f :: r => if (f.base == base && f.lane == t && f.seen) || pick i then v else layerByte base t pick (i + 1) f.old r

/-- The value of a byte as thread `t` of the issuing group sees it: a byte that a copy has landed is visible to the thread that has waited for
its batch, and to others free until a barrier (R228; log 97). `n` is the free choice. -/
def laneByte (s : State) (n t : Nat) (l : Loc) : Byte :=
  match l with
  | .glob _ => locByte s l
  | .scr c o =>
    layerByte (baseUid s s.cur.core (curGroup s)) t (fun i => n.testBit (32 * o + t + 2 ^ 30 * i)) 0 (locByte s l) (freshAt s c o)

/-- The little-endian value of an access. -/
def locsNat (s : State) (n t : Nat) (ls : List Loc) : Nat := natOfBytes (ls.map (laneByte s n t))

/-- Some byte of the accesses has landed and is not published. -/
def anyFresh (s : State) (ls : List Loc) : Bool :=
  ls.any (fun l => match l with | .glob _ => false | .scr c o => !(freshAt s c o).isEmpty)

/-- The device-physical addresses among some bytes. -/
def globsOf (ls : List Loc) : List Nat := ls.filterMap (fun l => match l with | .glob a => some a | .scr _ _ => none)

/-- The key under which a written byte's line counts towards the chunk's limit (R215). -/
def locLine : Loc → Nat
  | .scr c o => scrLineKey c o
  | .glob a => a / 128

/-- Checks the accesses of the executing threads to global memory, in ascending lane order: the first that fails decides (R234). -/
def checkGlobal (f : Form) (lanes : List Nat) (ea : Nat → Dword) : M (List Chk) :=
  lanes.mapM (fun t => do
    let (pas, mmio) ← checkAccess f t (ea t)
    pure { lane := t, locs := pas.map .glob, mmio := mmio, vlines := vlinesOf (ea t) f.n })

/-- The first byte of a scratch access that R191 or R244 rejects: it names no partition, or a stash-mapped line of another core. -/
def scrBad (s : State) (sa : Word) (n : Nat) : Option Nat :=
  (List.range n).find? (fun i =>
    match scrTarget s s.cur.core (sa + BitVec.ofNat 32 i) with
    | none => true
    | some (tc, off) => decide (tc ≠ s.cur.core) && (stashGlobal (coreAt s tc) (off / 128)).isSome)

/-- Where the bytes of a scratch access lie, given the physical base of each stash-mapped line it touches. -/
def scrLocs (bases : List (Nat × Nat)) (bytes : List (Nat × Nat)) : List Loc :=
  bytes.map (fun b => match bases.find? (fun x => x.1 == b.2 / 128) with
    | some x => .glob (x.2 + b.2 % 128)
    | none => .scr b.1 b.2)

/-- The first byte and the number of bytes of a scratch access in a line, by offsets. -/
def inLine (offs : List Nat) (l : Nat) : Nat × Nat :=
  let os := offs.filter (fun o => o / 128 == l)
  (os.headD 0 % 128, os.length)

/-- The piece of a scratch access in a stash-mapped line: its virtual address and its bytes (R246). -/
def linePiece (offs : List Nat) (m : Nat × Nat) : Dword × Nat :=
  let (o, n) := inLine offs m.1
  let va := BitVec.ofNat 64 (m.2 * 128 + o)
  (if va.getLsbD 56 then va ||| 0xFE00000000000000#64 else va, n)

/-- Translates the stash-mapped lines that a scratch access touches: their scratch line and physical base (R246, R248), each check over all of
them (R234). `offs` are the offsets of the access's bytes in the own partition. -/
def scrBases (wr : Bool) (lane : Nat) (offs : List Nat) : M (List (Nat × Nat)) := do
  let k ← getCore
  let ms := (offs.map (· / 128)).dedup.filterMap (fun l => (stashGlobal k l).map (l, ·))
  if ms.isEmpty then pure []
  else do
    let (pss, _) ← checkPieces { n := 1, wr := wr } lane (ms.map (linePiece offs))
    pure ((ms.zip pss).map (fun e => (e.1.1, e.2.headD 0 - (inLine offs e.1.1).1)))

/-- A scratch access of one thread, checked (R191, R233, R234, R244). The same chunk's stash-map changes fault it, an earlier chunk's
hold it (R248). -/
def checkScr (wr : Bool) (n lane : Nat) (sa : Word) : M Chk := do
  let bad ← getS (fun s => scrBad s sa n)
  match bad with
  | some i => faultM { code := fcScratchRange, wr := wr, lane := lane, addr := (sa + BitVec.ofNat 32 i).toNat }
  | none => do
    let bytes ← getS (fun s => (scrBytes s s.cur.core sa n).getD [])
    let c ← getS (·.cur.core)
    let offs := (bytes.filter (fun b => b.1 == c)).map (·.2)
    let own := (offs.map (· / 128)).dedup
    let bases ← scrBases wr lane offs
    let g ← getG
    let k ← getCore
    let sl := fun (l : Nat) => decide (l ∈ own)
    let gl := fun (v : Nat) => own.any (fun l => stashGlobal k l == some v)
    if touchesChange sl gl g.open_ then failM fcIllegalOperand
    else if g.done.any (touchesChange sl gl) then stallM
    else pure { lane := lane, locs := scrLocs bases bytes, mmio := false, vlines := [] }

/-- Checks the scratch accesses of the executing threads. -/
def checkScratch (wr : Bool) (n : Nat) (lanes : List Nat) (sa : Nat → Word) : M (List Chk) :=
  lanes.mapM (fun t => checkScr wr n t (sa t))

/-- The lines of a checked access that the core's stash maps: all of a scratch access's, and those of a global one whose virtual line a
valid entry covers (R244). -/
def stashOf (k : Core) (c : Chk) : List Nat :=
  let ls := ((globsOf c.locs).map (· / 128)).dedup
  if c.vlines.isEmpty then ls else (c.vlines.zip ls).filterMap (fun e => if stashMaps k e.1 then some e.2 else none)

/-- Enters the lines of checked reads (R216) and enforces R248 for global ones; `fill` for a form that fills L1 (R188). -/
def enterChkReads (cs : List Chk) (fill : Bool := false) : M Unit := do
  guardChange (cs.flatMap (·.vlines)).dedup
  let k ← getCore
  enterReads (cs.flatMap (fun c => globsOf c.locs)) (cs.flatMap (stashOf k)) fill
  let scr := (cs.flatMap (fun c => c.locs.filterMap (fun l => match l with
    | .scr c o => some (scrLineKey c o)
    | .glob _ => none))).dedup
  modK (fun k => { k with sreads := scr.filter (fun l => !(decide (l ∈ k.sreads))) ++ k.sreads })

/-- The value that each thread reads. -/
def chkValue (s : State) (n : Nat) (cs : List Chk) (t : Nat) : Nat :=
  match cs.find? (fun c => c.lane == t) with
  | some c => locsNat s n t c.locs
  | none => 0

/-- A free choice, taken only where a landed byte is not published yet (R228). -/
def freshChoice (cs : List Chk) : M Nat := fun s =>
  if anyFresh s (cs.flatMap (·.locs)) then .ok (takeFree s) else .ok (0, s)

/-- The performing pass of a load: every line enters the read signature, and each thread's value is read, its bytes together (R235, R241; log 34).
`fill` for a form that fills L1 (R188). -/
def performReads (cs : List Chk) (fill : Bool := false) : M (Nat → Nat) := do
  enterChkReads cs fill
  let n ← freshChoice cs
  getS (fun s => chkValue s n cs)

/-- Writes bytes, a later one over an earlier one: lines enter the chunk together (R215), and package bytes and scratch bytes are held
uncommitted (R217). `st` are the lines that the own stash maps. -/
def writeLocs (kvs : List (Loc × Byte)) (st : List Nat := []) : M Unit := do
  let gs := kvs.filterMap (fun e => match e.1 with | .glob a => some (a, e.2) | .scr _ _ => none)
  let ss := kvs.filterMap (fun e => match e.1 with | .scr c o => some (scrKey c o, e.2) | .glob _ => none)
  enterWrites (kvs.map (fun e => locLine e.1)) (trackedLines (gs.map (·.1))) st
  bufferGlobal gs
  modK (fun k => { k with ws := ssetAll none k.ws (ss.map (fun e => (e.1, some e.2))) })

/-- The bytes beyond the package that one thread's access of `n` bytes writes together: all of an aligned access of 1, 2, 4 or 8 bytes,
else each byte by itself (R229). -/
def extAtoms (n : Nat) (kvs : List (Nat × Byte)) : List (List Host.Cell) :=
  let out := kvs.filter (fun e => beyond e.1)
  if (n == 1 || n == 2 || n == 4 || n == 8) && out.length == n && (out.headD (0, 0)).1 % n == 0 then [out] else out.map ([·])

/-- Writes of one instruction merged: a byte that a later one writes is no part of an earlier one (R235). -/
def mergeAtoms : List (List Host.Cell) → List (List Host.Cell)
  | [] => []
  | a :: r => a.filter (fun e => !(r.any (fun b => b.any (fun x => x.1 == e.1)))) :: mergeAtoms r

/-- The performing pass of a store: each thread's bytes in ascending lane order. Bytes beyond the package leave at commit, merged (R231,
R235), as releasing ones if `rel`. -/
def performWrites (cs : List Chk) (n : Nat) (v : Nat → Nat) (rel : Bool := false) : M Unit := do
  guardChange (cs.flatMap (·.vlines)).dedup
  let k ← getCore
  writeLocs (cs.flatMap (fun c => c.locs.zip (bytesOf n (v c.lane)))) (cs.flatMap (stashOf k))
  let out := (mergeAtoms (cs.flatMap (fun c => extAtoms n ((globsOf c.locs).zip (bytesOf n (v c.lane)))))).filter (fun a => !a.isEmpty)
  if out.isEmpty then pure () else deferM (.ext out rel)

/-- A load of `n` bytes at one address by the group, through lane `lane` (SPAWN's closure line, a descriptor, LDK, which fills L1). -/
def loadOne (n lane : Nat) (ea : Dword) (fill : Bool := false) : M Nat := do
  let cs ← checkGlobal { n := n } [lane] (fun _ => ea)
  let f ← performReads cs fill
  pure (f lane)

/-- Doubleword `i` of a line read as a number. -/
def dwAt (v i : Nat) : Dword := BitVec.ofNat 64 (v / 2 ^ (64 * i))

end Sys2Proof.Machine
end

