-- ==== Sys2Proof/Machine/Flags.lean ====
section
/-! DEFINITION. Sys2Proof/Machine/Flags.lean: the status words: EOD of `sf` (R159, R331), CKSTAT (R162), FCAUSE and FSTAT (R172), MCTL, MREP
and MSTAT (R183). -/

namespace Sys2Proof.Machine

/-! ### Stream positions and EOD (R330, R331) -/

/-- Advances a position by `n`, innermost dimension first: the new position and, for each dimension, whether it wrapped. -/
def advanceBy : Nat → List Nat → List Nat → List Nat × List Bool
  | n, c :: cs, p :: ps =>
    let t := p + n
    let (ps', ws) := advanceBy (t / max 1 c) cs ps
    (t % max 1 c :: ps', decide (0 < t / max 1 c) :: ws)
  | _, _, _ => ([], [])

/-- The counts of the four dimensions: 1 above ND (R330). -/
def streamCounts (x : Stream) : List Nat :=
  (List.range 4).map (fun k => if k ≤ x.nd then (x.cnt.getD k 0).toNat else 1)

/-- The four EOD bits of wraps. -/
def eodBits : List Bool → Nat
  | [] => 0
  | w :: t => w.toNat + 2 * eodBits t

/-- EOD with the four flags of a port replaced. -/
def setEod (eod : BitVec 16) (port v : Nat) : BitVec 16 :=
  (eod &&& ~~~(BitVec.ofNat 16 (15 * 2 ^ (4 * port)))) ||| BitVec.ofNat 16 (v % 16 * 2 ^ (4 * port))

/-- The stream of a port after an advance by `n`, with the flags that R331 gives. -/
def advancePort (r : GRegs) (port n : Nat) (x : Stream) : GRegs :=
  let (pos, ws) := advanceBy n (streamCounts x) x.pos
  { r with streams := aset r.streams port { x with pos := pos }
           eod := if n = 0 then r.eod else setEod r.eod port (eodBits ws) }

/-! ### CKSTAT (R162) -/

/-- The chunk status word. -/
def ckstatWord (g : Group) : Word :=
  BitVec.ofNat 32 (g.open_.slots + 2 ^ 12 * g.open_.lines.length + 2 ^ 19 * (irrevocable g).toNat + 2 ^ 20 * g.pri.toNat
    + 2 ^ 21 * g.r.rst.toNat + 2 ^ 22 * min 15 g.open_.sq)

/-! ### F-mode words (R172) -/

/-- FCAUSE. -/
def fcauseWord (code : Nat) (imm : BitVec 14) (under : Bool) : Word :=
  BitVec.ofNat 32 (code + 2 ^ 8 * imm.toNat + 2 ^ 22 * under.toNat)

/-- FSTAT. -/
def fstatWord (g : Group) : Word := BitVec.ofNat 32 (g.f.inh.toNat + 2 * g.fmode.toNat + 4 * g.f.scerr.toNat)

/-! ### Margin words (R183) -/

/-- Five bits that hold a signed step. -/
def step5 (v : Int) : Nat := (v % 32).toNat

/-- The signed step of five bits, clamped to −12 to +8. -/
def stepOf (v : Nat) : Int := clampInt (-12) 8 (BitVec.ofNat 5 v).toInt

/-- What MCTL reads: on a vintner core VOFF and VFLOOR never read below 0, and ADN reads 0. -/
def mctlWord (vint : Bool) (m : Margin) : Word :=
  let lo := fun (v : Int) => if vint then max 0 v else v
  BitVec.ofNat 32 (step5 (lo m.voff) + 2 ^ 5 * step5 (lo m.vfloor) + 2 ^ 10 * m.aup.toNat
    + 2 ^ 11 * (m.adn && !vint).toNat + 2 ^ 16 * (m.qthr % 16))

/-- MREP. -/
def mrepWord (m : Margin) : Word := BitVec.ofNat 32 (m.win % 256 + 2 ^ 8 * (m.lim % 65536) + 2 ^ 24 * (m.clean % 256))

/-- MSTAT. -/
def mstatWord (m : Margin) : Word :=
  BitVec.ofNat 32 (step5 m.vnow + 2 ^ 5 * m.raised.toNat + 2 ^ 6 * m.corked.toNat + 2 ^ 7 * m.tophit.toNat
    + 2 ^ 8 * min 15 m.topcnt + 2 ^ 16 * min 65535 m.repwin)

end Sys2Proof.Machine
end

