-- ==== Sys2Proof/Machine/Operands.lean ====
section
/-! DEFINITION. Sys2Proof/Machine/Operands.lean: operand codes, widths and ranges (R70 to R74, R95, R96), executing threads (R71), reads
and writes of every operand form (R70, R100, R102), stream ports (R330) and channel ports (R326). -/

namespace Sys2Proof.Machine

/-! ### Decode checks (R79, steps 5 and 6) -/

/-- An operand field as an instruction uses it. -/
inductive Opnd where
  /-- A 32-bit source. -/
  | src (c : Code)
  /-- A 32-bit destination. -/
  | dst (c : Code)
  /-- A 64-bit operand. -/
  | pair (c : Code)
  /-- A 128-bit operand. -/
  | quad (c : Code)
  deriving DecidableEq, Repr

/-- The code may stand in the field (R70, R72). -/
def Opnd.legal : Opnd → Bool
  | .src c => !(c == 118 || c == 119)
  | .dst c => decide (c.toNat ≤ 117) || c == 120
  | .pair c => (decide (c.toNat < 112) && c.toNat % 2 == 0) || c == 120
  | .quad c => (decide (c.toNat < 112) && c.toNat % 4 == 0) || c == 120

/-- The registers that the field names from its code on. -/
def Opnd.span : Opnd → Code × Nat
  | .src c => (c, 1)
  | .dst c => (c, 1)
  | .pair c => (c, 2)
  | .quad c => (c, 4)

/-- Every v register that the field names lies inside the allocation (R95). -/
def Opnd.inRange (g : Group) (o : Opnd) : Bool :=
  decide (95 < o.span.1.toNat) || decide (g.r.wb + o.span.1.toNat + o.span.2 ≤ g.a)

/-- Steps 5 and 6 of R79; they hold whichever threads execute (R96). -/
def checkOps (ops : List Opnd) : M Unit := do
  ensure (ops.all Opnd.legal) fcIllegalOperand
  let g ← getG
  ensure (ops.all (Opnd.inRange g)) fcRegRange

/-- Step 4 of R79. -/
def privileged : M Unit := do
  let g ← getG
  ensure g.fmode fcPrivileged

/-! ### Executing threads (R71) -/

/-- The lane is in the prefix's mask, or there is none. -/
def inMask (g : Group) (p : Option Pfx) (t : Nat) : Bool :=
  match p with
  | none => true
  | some x => if x.msel = 0 then true else (sget 0 g.r.m (x.msel.toNat - 1)).getLsbD t

/-- The executing threads: the active set narrowed by the prefix mask, ascending. -/
def execLanes (p : Option Pfx) : M (List Nat) := getS (fun s => s.cur.lanes.filter (inMask (curGroup s) p))

/-- The threads of the active set that the mask leaves out. -/
def maskedLanes (p : Option Pfx) : M (List Nat) := getS (fun s => s.cur.lanes.filter (fun t => !inMask (curGroup s) p t))

/-! ### Registers -/

/-- The key of a vector register of a lane. -/
def vKey (wb : Nat) (c : Code) (t : Nat) : Nat := 32 * (wb + c.toNat) + t

/-- A vector register as lane `t` reads it. -/
def readV (r : GRegs) (c : Code) (t : Nat) : Word := sget 0 r.v (vKey r.wb c t)

/-- A v or k register, or zr, as lane `t` reads it. -/
def readVK (r : GRegs) (c : Code) (t : Nat) : Word :=
  if c.toNat ≤ 95 then readV r c t else if c.toNat ≤ 111 then sget 0 r.k (c.toNat - 96) else 0

/-- A 64-bit operand as lane `t` reads it (R72); zr reads zero. -/
def readPairR (r : GRegs) (c : Code) (t : Nat) : Dword :=
  if c = 120 then 0 else dwordOf (readVK r c t) (readVK r (c + 1) t)

/-- A write of one 32-bit v, k or zr destination: each lane of `ex` its value, each lane of `zl` zero; a k register takes the lowest
executing lane's value, and none if no lane executes (R70, R71, R100). -/
def writeVK (r : GRegs) (c : Code) (ex zl : List Nat) (f : Nat → Word) : GRegs :=
  if c.toNat ≤ 95 then
    { r with v := ssetAll 0 r.v (ex.map (fun t => (vKey r.wb c t, f t)) ++ zl.map (fun t => (vKey r.wb c t, 0))) }
  else if c.toNat ≤ 111 then
    match ex with
    | [] => r
    | t :: _ => { r with k := sset 0 r.k (c.toNat - 96) (f t) }
  else r

/-- A write of a pair. -/
def writePairR (r : GRegs) (c : Code) (ex zl : List Nat) (f : Nat → Dword) : GRegs :=
  if c = 120 then r
  else writeVK (writeVK r c ex zl (fun t => loWord (f t))) (c + 1) ex zl (fun t => hiWord (f t))

/-- A write of a quad, given as a number. -/
def writeQuadR (r : GRegs) (c : Code) (ex zl : List Nat) (f : Nat → Nat) : GRegs :=
  if c = 120 then r
  else (List.range 4).foldl (fun r i => writeVK r (c + BitVec.ofNat 7 i) ex zl (fun t => BitVec.ofNat 32 (f t / 2 ^ (32 * i)))) r

/-! ### Stream ports (R330) -/

/-- A pop or push through a port that is unbound or bound the other way (R70, R330). -/
def streamAt (port : Nat) (store : Bool) (lane : Nat) : M Stream := do
  let g ← getG
  match aget g.r.streams port with
  | none => faultM { code := fcStreamUnbound, lane := lane }
  | some x => if x.store = store then pure x else faultM { code := fcStreamUnbound, lane := lane }

/-- The offset of a stream's position: the sum of ik × STR[k]. -/
def streamOffset : List Nat → List Word → Int
  | p :: ps, w :: ws => (p : Int) * w.toInt + streamOffset ps ws
  | _, _ => 0

/-- The element address of lane `t` at a position (R330). -/
def streamAddr (x : Stream) (t : Nat) : Dword :=
  x.base + BitVec.ofInt 64 ((t : Int) * x.lstr.toInt + streamOffset x.pos x.str)

/-- Marks a memory fault as the stream's (SRC 2 of R358, R389), and a wait as one of a port access (R27). -/
def asStream {α : Type} (m : M α) : M α := fun s =>
  match m s with
  | .error (.fault f) => .error (.fault { f with src := 2 })
  | .error .stall => .error .port
  | r => r

/-- The checked accesses of a stream's element for each lane. -/
def streamChecks (x : Stream) (lanes : List Nat) : M (List Chk) := asStream <|
  if x.scr then checkScratch x.store (2 ^ x.esz) lanes (fun t => loWord (streamAddr x t))
  else checkGlobal { n := 2 ^ x.esz, wr := x.store, who := .stream } lanes (streamAddr x)

/-- Widens an element of 2^esz bytes (R329). -/
def widenElem (esz : Nat) (sgn : Bool) (v : Nat) : Word :=
  if sgn then (BitVec.ofNat (8 * 2 ^ esz) v).signExtend 32 else BitVec.ofNat 32 v

/-- A pop by the executing threads: their elements are read and the position advances by one. -/
def popStream (port : Nat) (lanes : List Nat) : M (Nat → Word) := do
  let x ← streamAt port false (lanes.headD 0)
  let cs ← streamChecks x lanes
  let f ← asStream (performReads cs)
  modR (fun r => advancePort r port 1 x)
  pure (fun t => widenElem x.esz x.sgn (f t))

/-- A push by the executing threads. -/
def pushStream (port : Nat) (lanes : List Nat) (v : Nat → Word) : M Unit := do
  let x ← streamAt port true (lanes.headD 0)
  let cs ← streamChecks x lanes
  asStream (performWrites cs (2 ^ x.esz) (fun t => (v t).toNat))
  modR (fun r => advancePort r port 1 x)

/-! ### Channel ports (R325 to R327) -/

/-- The declaration of a channel id by the grid that the core is bound to. -/
def chanDecl (s : State) (core ch : Nat) : Option ChanDecl :=
  ((coreAt s core).grid.bind (gridAt s)).bind (fun g => aget g.chans ch)

/-- The cluster member at an index relative to the core's own. -/
def memberAt (s : State) (core : Nat) (rel : Int) : Option Nat :=
  let k := coreAt s core
  let i := (k.cidx : Int) + rel
  if i < 0 then none else (aget s.clusters k.cluster).bind (fun cl => cl.members[i.toNat]?)

/-- The core that a channel's send end feeds, and the one that feeds its receive end (R325). -/
def chanTarget (s : State) (core ch : Nat) : Option Nat := (chanDecl s core ch).bind (fun d => memberAt s core d.peer)
def chanSource (s : State) (core ch : Nat) : Option Nat := (chanDecl s core ch).bind (fun d => memberAt s core (-d.peer))

/-- A core's receive end of a channel. -/
def chanAt (s : State) (core ch : Nat) : Chan := (aget (coreAt s core).chans ch).getD {}

/-- Changes a receive end. -/
def modChan (s : State) (core ch : Nat) (f : Chan → Chan) : State :=
  modCore s core (fun k => { k with chans := aset k.chans ch (f ((aget k.chans ch).getD {})) })

/-- The channel bound to q4 (key 4) or q5 (key 5). -/
def boundChan (port lane : Nat) : M Nat := do
  let g ← getG
  match aget g.r.chans port with
  | none => faultM { code := fcChannelUnbound, lane := lane }
  | some ch => pure ch

/-- A receive: the oldest committed slot, or a wait for one (R326). -/
def recvChan (port : Nat) (lanes : List Nat) : M (Nat → Word) := do
  let ch ← boundChan port (lanes.headD 0)
  let src ← getS (fun s => chanSource s s.cur.core ch)
  if src.isNone then faultM { code := fcChannelUnbound, lane := lanes.headD 0 }
  else do
    let c ← getS (fun s => chanAt s s.cur.core ch)
    match c.buf with
    | [] => portM
    | x :: rest => do
      modS (fun s => modChan s s.cur.core ch (fun c => { c with buf := rest, taken := c.taken ++ [(s.cur.slot, x)] }))
      deferM (.recvDone ch)
      pure (fun t => if x.valid.getLsbD t then x.vals.getD t 0 else 0)

/-- A send: a credit is taken at the target's buffer, or waited for, and the slot leaves at commit (R326). -/
def sendChan (port : Nat) (lanes : List Nat) (v : Nat → Word) : M Unit := do
  let ch ← boundChan port (lanes.headD 0)
  let tgt ← getS (fun s => chanTarget s s.cur.core ch)
  match tgt with
  | none => faultM { code := fcChannelUnbound, lane := lanes.headD 0 }
  | some tc => do
    let slots ← getS (fun s => ((chanDecl s s.cur.core ch).map (·.slots)).getD 0)
    let c ← getS (fun s => chanAt s tc ch)
    if slots ≤ c.credits then portM
    else do
      modS (fun s => modChan s tc ch (fun c => { c with credits := c.credits + 1 }))
      deferM (.send tc ch { vals := allLanes.map (fun t => if t ∈ lanes then v t else 0), valid := maskOf lanes })

/-! ### Operand reads and writes -/

/-- Reads a 32-bit source field for the executing threads (R70, R102): a port is popped or received from once, and not at all where no
thread executes (R71, R96). A read of `cy` copies the counter's high half into CYS. -/
def readSrc (c : Code) (ex : List Nat) : M (Nat → Word) := do
  let g ← getG
  let n := c.toNat
  if n ≤ 111 then pure (readVK g.r c)
  else if n ≤ 117 then
    if ex.isEmpty then pure (fun _ => 0) else if n ≤ 115 then popStream (n - 112) ex else recvChan (n - 112) ex
  else if n = 121 then pure (fun t => BitVec.ofNat 32 t)
  else if n = 122 then pure (fun _ => BitVec.ofNat 32 g.gi)
  else if n = 123 then do
    let ci ← getS (·.cur.core)
    pure (fun _ => BitVec.ofNat 32 ci)
  else if n = 124 then pure (fun t => sget 0xFFFFFFFF g.r.it t)
  else if n = 125 then do
    let x ← getS (fun s => cycles s (dieOf s.cur.core))
    if ex.isEmpty then pure (fun _ => 0)
    else do
      modR (fun r => { r with cys := hiWord x })
      pure (fun _ => loWord x)
  else if n = 126 then pure (fun _ => g.r.cys)
  else if n = 127 then pure (fun _ => sfWord g)
  else pure (fun _ => 0)

/-- Reads a 64-bit source. -/
def readPair (c : Code) : M (Nat → Dword) := do
  let g ← getG
  pure (readPairR g.r c)

/-- Reads a 128-bit source as a number. -/
def readQuad (c : Code) : M (Nat → Nat) := do
  let g ← getG
  pure (fun t => if c = 120 then 0
    else (List.range 4).foldl (fun n i => n + 2 ^ (32 * i) * (readVK g.r (c + BitVec.ofNat 7 i) t).toNat) 0)

/-- Writes a 32-bit destination for the executing threads; `zl` are the lanes that a zeroing mask leaves out (R70, R71). -/
def writeDst (c : Code) (ex zl : List Nat) (f : Nat → Word) : M Unit :=
  let n := c.toNat
  if n ≤ 111 then modR (fun r => writeVK r c ex zl f)
  else if n ≤ 117 then
    if ex.isEmpty then pure () else if n ≤ 115 then pushStream (n - 112) ex f else sendChan (n - 112) ex f
  else pure ()

/-- Writes a 64-bit destination. -/
def writePair (c : Code) (ex zl : List Nat) (f : Nat → Dword) : M Unit := modR (fun r => writePairR r c ex zl f)

/-- Writes a 128-bit destination. -/
def writeQuad (c : Code) (ex zl : List Nat) (f : Nat → Nat) : M Unit := modR (fun r => writeQuadR r c ex zl f)

/-- The lanes that receive zero: those masked out, under zm (R71). -/
def zeroLanes (p : Option Pfx) : M (List Nat) := do
  let zl ← maskedLanes p
  pure (if (p.map (·.zm)).getD false then zl else [])

/-- The value of the lowest executing thread; 0 where none executes. -/
def lowest {α : Type} [Inhabited α] (ex : List Nat) (f : Nat → α) : α :=
  match ex with
  | [] => default
  | t :: _ => f t

/-! ### The frame of the class A forms (R104) -/

/-- The third source: c if a prefix is present, else d (R78). -/
def third (p : Option Pfx) (d : Code) : Code := (p.map (·.c)).getD d

/-- The prefix's sat bit. -/
def satBit (p : Option Pfx) : Bool := (p.map (·.sat)).getD false

/-- The prefix's rounding code; RNE without one (R51). -/
def rndOf (p : Option Pfx) : Nat :=
  match p with
  | none => 0
  | some x => x.rnd.toNat

/-- A form with one source. -/
def alu1 (p : Option Pfx) (d a : Code) (f : Word → Word) : M Unit := do
  checkOps [.dst d, .src a]
  let ex ← execLanes p
  let zl ← zeroLanes p
  let x ← readSrc a ex
  writeDst d ex zl (fun t => f (x t))

/-- A form with two sources. -/
def alu2 (p : Option Pfx) (d a b : Code) (f : Word → Word → Word) : M Unit := do
  checkOps [.dst d, .src a, .src b]
  let ex ← execLanes p
  let zl ← zeroLanes p
  let x ← readSrc a ex
  let y ← readSrc b ex
  writeDst d ex zl (fun t => f (x t) (y t))

/-- A form with three sources, the third being c or d. -/
def alu3 (p : Option Pfx) (d a b : Code) (f : Word → Word → Word → Word) : M Unit := do
  checkOps [.dst d, .src a, .src b, .src (third p d)]
  let ex ← execLanes p
  let zl ← zeroLanes p
  let x ← readSrc a ex
  let y ← readSrc b ex
  let z ← readSrc (third p d) ex
  writeDst d ex zl (fun t => f (x t) (y t) (z t))

/-- A form without sources. -/
def alu0 (p : Option Pfx) (d : Code) (v : Word) : M Unit := do
  checkOps [.dst d]
  let ex ← execLanes p
  let zl ← zeroLanes p
  writeDst d ex zl (fun _ => v)

/-- A form with two sources and a pair destination. -/
def alu2w (p : Option Pfx) (d a b : Code) (f : Word → Word → Dword) : M Unit := do
  checkOps [.pair d, .src a, .src b]
  let ex ← execLanes p
  let zl ← zeroLanes p
  let x ← readSrc a ex
  let y ← readSrc b ex
  writePair d ex zl (fun t => f (x t) (y t))

/-- A form with two pair sources and a pair destination. -/
def alu64 (p : Option Pfx) (d a b : Code) (f : Dword → Dword → Dword) : M Unit := do
  checkOps [.pair d, .pair a, .pair b]
  let ex ← execLanes p
  let zl ← zeroLanes p
  let x ← readPair a
  let y ← readPair b
  writePair d ex zl (fun t => f (x t) (y t))

end Sys2Proof.Machine
end

