-- ==== Sys2Proof/Machine/Futures.lean ====
section
/-! DEFINITION. Sys2Proof/Machine/Futures.lean: future handles and tables (R302, R303, R383), resolutions and their waiters (R308, R318),
deques (R304 to R306) and the grid-live counter (R394). -/

namespace Sys2Proof.Machine

/-! ### Handles (R302) -/

def hIndex (h : Dword) : Nat := h.toNat % 8192
def hHome (h : Dword) : Nat := h.toNat / 2 ^ 13 % 2 ^ 16
def hGen (h : Dword) : BitVec 8 := h.extractLsb' 29 8

/-- A malformed handle: a nonzero reserved bit, a home of 256 or more, or generation 0. -/
def hMalformed (h : Dword) : Bool :=
  decide (h.toNat / 2 ^ 37 ≠ 0) || decide (256 ≤ hHome h) || decide (hGen h = 0)

/-- The handle of an entry. -/
def handleOf (idx home : Nat) (gen : BitVec 8) : Dword :=
  BitVec.ofNat 64 (idx + 2 ^ 13 * home + 2 ^ 29 * gen.toNat)

/-! ### Future tables (R303) -/

/-- Entry `i` of a future table. -/
def futOf (k : Core) (i : Nat) : Fut := (aget k.futs i).getD { gen := k.genBase }

/-- Entry `i` of a core's future table. -/
def futAt (s : State) (core i : Nat) : Fut := futOf (coreAt s core) i

/-- Changes an entry. -/
def modFut (s : State) (core i : Nat) (f : Fut → Fut) : State :=
  modCore s core (fun k => { k with futs := aset k.futs i (f (futOf k i)) })

/-- The generation after one: 255 wraps to 1. -/
def nextGen (g : BitVec 8) : BitVec 8 := if g = 255 then 1 else g + 1

/-- Frees an entry. -/
def freeFut (s : State) (core i : Nat) : State :=
  modFut s core i (fun f => { st := 0, gen := nextGen f.gen })

/-- The handle names the entry: it is not free, and generation and context match. -/
def futLive (f : Fut) (ctx : Word) (h : Dword) : Bool := f.st ≠ 0 && f.gen == hGen h && f.ctx == ctx

/-- The state of a future at its home: 0 open, 1 resolved, 2 free or stale; and its value. -/
def futState (s : State) (ctx : Word) (h : Dword) : Nat × Dword :=
  let f := futAt s (hHome h) (hIndex h)
  if futLive f ctx h then (if f.st = 1 then (0, 0) else (1, f.value)) else (2, 0)

/-- The lowest index of a future table from `i` on, trying `n`, that is free and, if `fresh`, that nothing has used since the binding. -/
def freeFutFrom (k : Core) (fresh : Bool) : Nat → Nat → Option Nat
  | 0, _ => none
  | n + 1, i =>
    match aget k.futs i with
    | none => some i
    | some f => if f.st = 0 && !fresh then some i else freeFutFrom k fresh n (i + 1)

/-- The free entry that FNEW takes (log 115; R320): the lowest that is unused since the binding, else the lowest free one. -/
def freeFutIdx (k : Core) : Option Nat := (freeFutFrom k true 8192 0).or (freeFutFrom k false 8192 0)

/-- Serves one waiter of a resolution: FREADY to a node, WAKE to a parked joiner. -/
def serveWaiter (home : Nat) (h v : Dword) (s : State) (w : Bool × NodeRef) : State :=
  if w.1 then send s home w.2.core (.wake w.2.core w.2.idx h false v)
  else send s home w.2.core (.fready w.2)

/-- A resolution reaches its home (R303): the first stores the value and serves the waiters in registration order, and the wake of
parked joiners frees the entry; any other is discarded and counted. -/
def resolveAt (s : State) (ctx : Word) (h v : Dword) : State :=
  let home := hHome h
  let f := futAt s home (hIndex h)
  if futLive f ctx h && f.st == 1 then
    let s := modFut s home (hIndex h) (fun f => { f with st := 2, value := v, waiters := [] })
    let s := f.waiters.foldl (serveWaiter home h v) s
    if f.waiters.any (·.1) then freeFut s home (hIndex h) else s
  else dieCtr s (dieOf home) 2 1

/-- Items of a range task are done: their count falls, and where it reaches zero the RESULT resolves with its total; a count that reaches zero
on an entry already resolved is a stray resolution (R303, R314). -/
def itemsDone (s : State) (ctx : Word) (h : Dword) (n : Nat) : State :=
  let home := hHome h
  let f := futAt s home (hIndex h)
  if futLive f ctx h && f.rng then
    if f.items.toNat ≤ n then
      resolveAt (modFut s home (hIndex h) (fun f => { f with rng := false, items := 0 })) ctx h (f.total.setWidth 64)
    else modFut s home (hIndex h) (fun f => { f with items := f.items - BitVec.ofNat 32 n })
  else s

/-- A resolution released by a core: directly when the home is local, else as FRESV (R309). -/
def resolveFrom (s : State) (core : Nat) (ctx : Word) (h v : Dword) : State :=
  if h = 0 then s
  else if hHome h = core then resolveAt s ctx h v
  else send s core (hHome h) (.fresv core ctx h v)

/-- Frees the entry that a handle names, if it is resolved (R303, R309). -/
def freeAt (s : State) (h : Dword) : State :=
  let f := futAt s (hHome h) (hIndex h)
  if f.gen = hGen h ∧ f.st = 2 then freeFut s (hHome h) (hIndex h) else s

/-- Waiter records of a core in use (R299). -/
def waitersUsed (k : Core) : Nat := k.futs.foldl (fun n e => n + e.2.waiters.length) 0

/-- A node waits for a future at its home (R308): a waiter is recorded if the entry is open, WAITFULL answers where the store is full,
and FREADY answers at once for an entry that is resolved, free or stale. -/
def registerNode (s : State) (ctx : Word) (node : NodeRef) (h : Dword) : State :=
  let home := hHome h
  match futState s ctx h with
  | (0, _) =>
    if !node.isCopy && decide (4096 ≤ node.idx) && decide ((false, node) ∈ (futAt s home (hIndex h)).waiters) then s
    else if 4096 ≤ waitersUsed (coreAt s home) then send s home node.core (.waitfull node h)
    else modFut s home (hIndex h) (fun f => { f with waiters := f.waiters ++ [(false, node)] })
  | _ => send s home node.core (.fready node)

/-- A parked joiner registers (R318): recorded once while the entry is open, or, where the store is full, asked again later (log 90); an entry
resolved by then wakes it at once and is freed; a stale one wakes it with a stale state. -/
def registerJoiner (s : State) (ctx : Word) (core slot : Nat) (h : Dword) : State :=
  let home := hHome h
  let me : NodeRef := { core := core, isCopy := false, idx := slot }
  match futState s ctx h with
  | (0, _) =>
    if (true, me) ∈ (futAt s home (hIndex h)).waiters then s
    else if 4096 ≤ waitersUsed (coreAt s home) then after s 1100 (.fwait core slot h)
    else modFut s home (hIndex h) (fun f => { f with waiters := f.waiters ++ [(true, me)] })
  | (1, v) => freeFut (send s home core (.wake core slot h false v)) home (hIndex h)
  | _ => send s home core (.wake core slot h true 0)

/-! ### The grid-live counter (R394) -/

/-- Adds to a grid's GLIVE. -/
def gliveAdd (s : State) (g : Nat) (n : Nat) : State := modGrid s g (fun x => { x with glive := x.glive + BitVec.ofNat 32 n })

/-- Takes one from a grid's GLIVE; at zero the grid completes (R340). -/
def gliveDone (s : State) (g : Nat) : State :=
  let s := modGrid s g (fun x => { x with glive := x.glive - 1 })
  match gridAt s g with
  | none => s
  | some x => if x.glive = 0 then send s (engineAgent 0) (engineAgent 0) (.gridCompletion g) else s

/-! ### Deques (R304 to R306) -/

/-- Bits of a closure address that a deque entry keeps, and back. -/
def clineOf (ca : Dword) : BitVec 50 := ca.extractLsb' 7 50
def caOf (l : BitVec 50) : Dword :=
  let a : BitVec 57 := l ++ (0 : BitVec 7)
  a.signExtend 64

/-- The core's queue unit looks again at what it can do. -/
def kick (s : State) (core : Nat) : State :=
  send (send s core core (.ownerPop core)) core core (.taskStart core)

/-- Entries of a deque and reservations leave room for one more (R306). -/
def dequeRoom (k : Core) : Bool := decide (k.deque.length + k.pushQ.length + k.dqResv < 4096)

/-- A SPAWN finds an entry to reserve, behind the ready nodes that wait for one (R306). -/
def spawnRoom (k : Core) : Bool := decide (k.deque.length + k.pushQ.length + k.dqResv + k.poolReady.length < 4096)

/-- The deque unit can perform no operation of a kind in this clk: it has performed one of that kind, or one of a kind that comes after it
(R305). -/
def dqBusy (s : State) (core kind : Nat) : Bool := (coreAt s core).dqAt.any (fun e => decide (kind ≤ e.1) && e.2 == s.clk)

/-- It performs one. -/
def dqDone (s : State) (core kind : Nat) : State := modCore s core (fun k => { k with dqAt := aset k.dqAt kind s.clk })

/-- Pushes an entry at the hot end (R305). -/
def pushHot (s : State) (core : Nat) (e : DqEntry) : State :=
  let s := modCore s core (fun k => { k with deque := k.deque ++ [e] })
  send (kick s core) core core (.eagerStaging core)

/-- A push released by a commit: one in a clk, and the others wait in commit order (R305). -/
def pushCommit (s : State) (core : Nat) (e : DqEntry) : State :=
  if dqBusy s core 1 || !(coreAt s core).pushQ.isEmpty then
    after (modCore s core (fun k => { k with pushQ := k.pushQ ++ [e] })) 1 (.ownerPop core)
  else pushHot (dqDone s core 1) core e

/-- The next push that waits for its clk (R305). -/
def drainPush (s : State) (core : Nat) : State :=
  match (coreAt s core).pushQ with
  | [] => s
  | e :: rest =>
    if dqBusy s core 1 || decide (4096 ≤ (coreAt s core).deque.length) then after s 1 (.ownerPop core)
    else
      let s := pushHot (dqDone (modCore s core (fun k => { k with pushQ := rest })) core 1) core e
      if rest.isEmpty then s else after s 1 (.ownerPop core)

/-- Pushes the ready node that has waited longest in the pool when the deque has room, one in a clk (R305, R306). -/
def drainReady (s : State) (core : Nat) : State :=
  let k := coreAt s core
  match k.poolReady with
  | [] => s
  | i :: rest =>
    if !dequeRoom k then s
    else if dqBusy s core 2 then after s 1 (.ownerPop core)
    else
      let s := modCore s core (fun k => { k with poolReady := rest, pool := adel k.pool i })
      let s := match aget k.pool i with
        | none => s
        | some x => pushHot (dqDone s core 2) core x.e
      if rest.isEmpty then s else after s 1 (.ownerPop core)

/-- An entry has left the deque: a ready node may enter, and the entries now near the hot end are staged (R35, R306). -/
def leftDeque (s : State) (core : Nat) : State :=
  let s := drainReady s core
  if (coreAt s core).deque.isEmpty then s else send s core core (.eagerStaging core)

/-- A claimed entry leaves the deque for its JOIN (R318). -/
def eraseClaimed (s : State) (core : Nat) (h ca : Dword) : State :=
  leftDeque (dqDone (modCore s core (fun k => { k with deque := k.deque.eraseP (isClaimed h ca) })) core 4) core

/-- A JOIN's claim has committed: its entry leaves the deque, one in a clk in commit order (R305). -/
def removeClaimed (s : State) (core : Nat) (h ca : Dword) : State :=
  if dqBusy s core 4 || !(coreAt s core).remQ.isEmpty then
    after (modCore s core (fun k => { k with remQ := k.remQ ++ [(h, ca)] })) 1 (.ownerPop core)
  else eraseClaimed s core h ca

/-- The next removal that waits for its clk (R305). -/
def drainRemoval (s : State) (core : Nat) : State :=
  match (coreAt s core).remQ with
  | [] => s
  | (h, ca) :: rest =>
    if dqBusy s core 4 then after s 1 (.ownerPop core)
    else
      let s := eraseClaimed (modCore s core (fun k => { k with remQ := rest })) core h ca
      if rest.isEmpty then s else after s 1 (.ownerPop core)

/-- A node's predecessor count falls by one; at zero a task is pushed, or waits in the pool for room (R306, R308). -/
def poolNodeReady (s : State) (core i : Nat) : State :=
  match aget (coreAt s core).pool i with
  | none => s
  | some x =>
    let s := modCore s core (fun k => { k with pool := aset k.pool i { x with count := x.count - 1 } })
    if x.count = 1 then
      drainReady (modCore s core (fun k => { k with poolReady := k.poolReady ++ [i] })) core
    else s

/-- A copy's dependency is satisfied (R266, R308): at zero it starts. -/
def copyNodeReady (s : State) (id : Nat) : State :=
  match aget s.copies id with
  | none => s
  | some x =>
    let s := { s with copies := aset s.copies id { x with count := x.count - 1 } }
    if x.count = 1 then send s (engineAgent x.die) (engineAgent x.die) (.copyStart id) else s

/-- The context of a node: that of the grid bound on its core, or of the grid that issued the copy. -/
def nodeCtx (s : State) (node : NodeRef) : Word :=
  let g := if node.isCopy then (aget s.copies node.idx).bind (·.grid) else (coreAt s node.core).grid
  match g.bind (gridAt s) with
  | none => 0
  | some x => BitVec.ofNat 32 (x.pasid + 2 ^ 20 * x.gnum)

/-- The context of a grid as CTXID holds it. -/
def gridCtx (s : State) (g : Nat) : Word :=
  match gridAt s g with
  | none => 0
  | some x => BitVec.ofNat 32 (x.pasid + 2 ^ 20 * x.gnum)

/-- Sends a registration for a node to a future's home (R308). -/
def sendFreg (s : State) (node : NodeRef) (h : Dword) : State := send s node.core (hHome h) (.freg node h)

end Sys2Proof.Machine
end

