-- ==== Sys2Proof/Machine/Faults.lean ====
section
/-! DEFINITION. Sys2Proof/Machine/Faults.lean: fault and trap records (R389, R390), the stop of a team (R177 to R180), the cork of a core (R185), the fault queue and
its answers (R358, R359), the abort of a grid (R359) and the unbinding of a core (R24, R303, R382). -/

namespace Sys2Proof.Machine

/-! ### Records -/

/-- The fault record of a group's fault (R389). -/
def teamRecord (s : State) (core slot : Nat) (pc : PC) (fi : FaultInfo) : FaultRec :=
  let g := (groupAt s core slot).getD {}
  let t := teamAt s core g.team
  { code := fi.code, cause := fi.cause, wr := fi.wr, fetch := fi.fetch, under := fi.under, recov := fi.recov, src := fi.src
    engine := fi.engine, core := core, slot := if fi.src = 2 then slot else g.team, shape := Nat.log2 t.size, gi := g.gi
    lane := fi.lane, pc := pc, addr := fi.addr, imm := fi.imm, ctx := ctxidOf s g, time := cycles s (dieOf core)
    ivec := fi.ivec, opkind := fi.opkind, opword := fi.opword }

/-- The 128 bytes of a fault record (R389). -/
def recordBytes (r : FaultRec) : List Byte :=
  let flags := r.wr.toNat + 2 * r.fetch.toNat + 4 * r.under.toNat + 8 * r.recov.toNat + 16 * r.src + 64 * r.engine.toNat
  bytesOf 1 r.code ++ bytesOf 1 r.cause ++ bytesOf 1 flags ++ bytesOf 1 r.core ++ bytesOf 1 r.slot ++ bytesOf 1 r.shape
    ++ bytesOf 1 r.gi ++ bytesOf 1 r.lane ++ bytesOf 8 r.pc.toNat ++ bytesOf 8 r.addr ++ bytesOf 2 r.imm.toNat ++ bytesOf 2 0
    ++ bytesOf 4 r.ctx.toNat ++ bytesOf 8 r.time.toNat ++ (List.range 5).flatMap (fun i => bytesOf 4 (r.ivec.getD i 0))
    ++ bytesOf 1 r.opkind ++ bytesOf 3 0 ++ bytesOf 4 r.opword.toNat ++ bytesOf 60 0

/-- The 384 bytes of a trap record (R390). -/
def trapBytes (slot : Nat) (g : Group) : List Byte :=
  let st := g.stop.getD { kind := 1, skid := 0 }
  bytesOf 1 slot ++ bytesOf 1 g.gi ++ bytesOf 1 st.kind ++ bytesOf 1 st.skid ++ bytesOf 4 (maskOf (liveLanes g)).toNat
    ++ bytesOf 4 st.cks.toNat ++ bytesOf 116 0 ++ allLanes.flatMap (fun t => bytesOf 8 (sget 0 g.r.pc t).toNat)

/-! ### Quiet groups -/

/-- No chunk of the group is open or awaits its commit. -/
def quiet (g : Group) : Bool := decide (g.open_.slots = 0) && g.done.isEmpty

/-- Acknowledgements that a group still awaits from beyond the package (R231). -/
def extOut (s : State) (core slot : Nat) : Nat :=
  sget 0 s.extOut (64 * core + slot)

/-- Every store of the group beyond the package is acknowledged, and every reduction that it has released is performed (R231, R258). -/
def extQuiet (s : State) (core slot : Nat) : Bool :=
  decide (extOut s core slot = 0) && !(s.reds.any (fun r => r.core == core && r.slot == slot))

/-! ### Aborts (R359) -/

/-- The cores that are bound to a grid now. -/
def boundCores (s : State) (g : Nat) : List Nat := (s.cores.filter (fun e => e.2.grid == some g)).map (·.1)

/-- Every group of a grid is quiet. -/
def gridQuiet (s : State) (g : Nat) : Bool :=
  (boundCores s g).all (fun c => (coreAt s c).groups.all (fun e => quiet e.2))

/-- An aborted grid whose groups are all quiet completes: its completion word is written and its cores are unbound. -/
def abortCheck (s : State) (g : Nat) : State :=
  match gridAt s g with
  | none => s
  | some x =>
    if x.aborted.isSome && gridQuiet s g then send s (engineAgent 0) (engineAgent 0) (.gridCompletion g) else s

/-- A group has been told to stop at its next boundary: one that waits in an open chunk ends it where it stands (R152, R164), which its HALT
message sees to. -/
def nudgeGroup (s : State) (c slot : Nat) : State :=
  match groupAt s c slot with
  | none => s
  | some g => if g.atEnd.isSome && decide (g.open_.slots ≠ 0) then send s c c (.teamHalt c slot) else s

/-- Stops one group for an abort: chunks that may be squashed are, and an irrevocable or priority chunk commits at its next boundary
(R164). -/
def abortGroup (s : State) (c slot : Nat) : State :=
  match groupAt s c slot with
  | none => s
  | some g =>
    let s := match firstVictim (fun _ => true) g with
      | none => s
      | some n => squashFrom s c slot n
    let s := modGroup s c slot (fun g =>
      if quiet g then { g with stop := some { kind := 1, skid := 0, cks := ckstatWord g }, watch := [], replay := none } else { g with atEnd := some 4 })
    nudgeGroup s c slot

/-- The header of a context's save area holds the completion status of its last abort (R385). -/
def noteAbort (s : State) (p fcode : Nat) : State :=
  match ctxOf s p with
  | none => s
  | some (_, c) => if c.save = 0 then s else memPut s (bytesAt (c.save + 12) (bytesOf 4 (7 + 2 ^ 16 * fcode)))

/-- Aborts a grid with a fault code: its teams stop, its copies end, and GLIVE falls to zero (R359, R394). -/
def abortGrid (s : State) (g fcode : Nat) : State :=
  match gridAt s g with
  | none => s
  | some x =>
    if x.aborted.isSome then s
    else
      let s := modGrid (noteAbort s x.pasid fcode) g (fun x => { x with aborted := some fcode, glive := 0 })
      let s := (boundCores s g).foldl (fun s c => (coreAt s c).groups.foldl (fun s e => abortGroup s c e.1) s) s
      let gone := s.copies.filter (fun e => e.2.grid == some g)
      let s := gone.foldl (fun s e => askOver s (copyRef e.1)) { s with copies := s.copies.filter (fun e => !(e.2.grid == some g)) }
      abortCheck s g

/-! ### The fault queue (R358, R359) -/

/-- Posts an entry to a die's fault queue, or keeps the agent waiting until space frees; an entry of a dying context is discarded
(R358, R378). -/
def postFault (s : State) (e : FaultEnt) : State :=
  let d := dieOf e.core
  if ((ctxOf s e.pasid).map (·.2.dying)).getD true then s
  else if (dieAt s d).faultQ.length < 512 then
    let s := pendDie (modDie s d (fun x => { x with faultQ := x.faultQ ++ [e] })) d 0x20
    send s (engineAgent d) (engineAgent d) (.faultQueuePost d)
  else modDie s d (fun x => { x with faultWait := x.faultWait ++ [e] })

/-- Changes what a pre-empted context's save holds of a core (R357). -/
def modSaved (s : State) (p c : Nat) (f : Core → Core) : State :=
  { s with ctxs := s.ctxs.map (fun (e : Nat × Ctx) => if e.2.pasid = p then
      (e.1, { e.2 with saved := e.2.saved.map (fun (x : Nat × Core) => if x.1 = c then (x.1, f x.2) else x) }) else e) }

/-- What a pre-empted context's save holds of a core. -/
def savedPart (s : State) (p c : Nat) : Option Core :=
  (ctxOf s p).bind (fun k => (k.2.saved.find? (fun x => x.1 == c)).map (·.2))

/-- The records of an aborting fault of a context go to the fault section of its save area: the fault record, and for a team the trap
records of its groups, which lie in its slots or in the context's save; a copy, a stream or a staging has none (R385, R389). -/
def writeFaultSection (s : State) (p : Nat) (r : FaultRec) : State :=
  match ctxOf s p with
  | none => s
  | some (_, c) =>
    if c.save = 0 then s
    else
      let here := (teamAt s r.core r.slot).fault == some r
      let k := if here then coreAt s r.core else (savedPart s p r.core).getD (coreAt s r.core)
      let slots := if r.src = 0 then (List.range (2 ^ r.shape)).map (r.slot + ·) else []
      memPut s (bytesAt (c.save + 0x80) (recordBytes r ++ slots.flatMap (fun i => ((aget k.groups i).map (trapBytes i)).getD [])))

/-- A team all of whose groups have stopped, with every chunk committed, hands on its fault once: a recoverable one to the fault queue,
any other aborts the grid (R177, R358, R359). While its context is being stopped that waits until after the restore (R357). -/
def settle (s : State) (core team : Nat) : State :=
  let t := teamAt s core team
  match t.fault with
  | none => s
  | some r =>
    let ok := (teamSlots s core team).all (fun i => match groupAt s core i with
      | none => true
      | some g => g.stop.isSome && quiet g)
    if t.posted || !ok || (coreAt s core).stopReq then s
    else
      let s := modTeam s core team (fun t => { t with posted := true })
      let p := (((teamSlots s core team).filterMap (groupAt s core)).head?.map (·.pasid)).getD 0
      if r.recov then postFault s { rec_ := r, agent := 0, core := core, id := team, pasid := p }
      else
        match t.grid with
        | none => s
        | some g => abortGrid (writeFaultSection s (((gridAt s g).map (·.pasid)).getD p) r) g r.code

/-- What the commit of an inline call that has not started did is undone: the claimed entry returns to the hot end, and the task of a
SPAWN lives no longer (R317, R318, R394). -/
def uncall (s : State) (core team : Nat) (x : PendCall) : State :=
  match x.entry with
  | some e =>
    let key := (x.info.joinH.getD 0, x.ca)
    if key ∈ (coreAt s core).remQ then
      modCore s core (fun k => { k with remQ := k.remQ.erase key, deque := unclaimed k.deque key.1 key.2 })
    else if dequeRoom (coreAt s core) then pushHot s core e else modCore s core (fun k => { k with pushQ := e :: k.pushQ })
  | none =>
    match (teamAt s core team).grid with
    | none => s
    | some g => modGrid s g (fun y => if y.aborted.isSome then y else { y with glive := y.glive - 1 })

/-- An inline call of a KIND 2 closure is undone: the spawning task has no continuation yet (R317). -/
def uncont (s : State) (core team : Nat) (x : PendCall) : State :=
  let undo := fun (t : Task) => if bitsOf (x.cl.getD 0 0) 61 60 = 2 then { t with cont := false } else t
  modTeam s core team (fun t => { t with tasks := match t.tasks with
    | y :: r => undo y :: r
    | [] => [] })

/-- An inline call that has not started is dropped; its instruction issues again when the team resumes (R319). -/
def dropCall (s : State) (core team : Nat) : State :=
  match (teamAt s core team).call with
  | none => s
  | some c => modTeam (uncont (uncall s core team c) core team c) core team (fun t => { t with call := none })

/-- What a thread is doing after a stop in its slot: a thread that waits issues its instruction again (R413), but one parked in a JOIN
or waiting for a system call still waits. -/
def keptByStop : Thr → Bool
  | .exited => true
  | .join _ _ => true
  | .sysc => true
  | _ => false

/-- A group that resumes after a stop in its slot. -/
def reissue (g : Group) : Group :=
  { g with r := { g.r with thr := g.r.thr.filter (fun e => keptByStop e.2) }, watch := [], query := [], grpWait := none }

/-- The team is stopping on a fault, which runs as R177 lays down (R357). -/
def faulting (s : State) (c team : Nat) : Bool := (teamAt s c team).fault.isSome && !(teamAt s c team).posted

/-- Asks a group to stop at a chunk boundary: chunks that may be squashed are, and any other runs to its boundary (R164, R354). A team that is
stopping on a fault goes on with that (R177, R357): its chunks commit, and no other begins. -/
def haltGroup (why c : Nat) (s : State) (slot : Nat) : State :=
  match groupAt s c slot with
  | none => s
  | some g =>
    if faulting s c g.team then
      if g.stop.isSome && quiet g then s
      else send (modGroup s c slot (fun g => { g with atEnd := some why })) c c (.teamHalt c slot)
    else
      let s := match firstVictim (fun _ => true) g with
        | none => s
        | some n => squashFrom s c slot n
      let s := dropCall s c g.team
      let s := modGroup s c slot (fun g =>
        if quiet g then { reissueParked g with stop := some (g.stop.getD { kind := 1, skid := 0, cks := ckstatWord g }), replay := none } else { g with atEnd := some why })
      nudgeGroup (tallyBar s c slot) c slot
where
  /-- A sleep in WAITADDR ends, and a request for tiles leaves the queue (R354, R357). -/
  reissueParked (g : Group) : Group := { reissue g with hold := g.hold }

/-- Slots of a core that hold groups. -/
def slotsOf (s : State) (c : Nat) : List Nat := (coreAt s c).groups.map (·.1)

/-! ### Steal rings (R38) -/

/-- The quadrant of a core on its die (R18). -/
def quadrantOf (c : Nat) : Nat := 2 * (c % 64 / 32) + c % 8 / 4

/-- The cores of a core's stealing domain in a ring: 0 its quadrant, 1 the rest of its die, 2 the other dies (R38). -/
def stealRing (s : State) (c r : Nat) : List Nat :=
  let vs := (List.range 256).filter (fun v => (coreAt s c).steal.victims.getLsbD v)
  let near := fun (v : Nat) => decide (dieOf v = dieOf c)
  let quad := fun (v : Nat) => near v && quadrantOf v == quadrantOf c
  if r = 0 then vs.filter quad
  else if r = 1 then vs.filter (fun v => near v && !quad v)
  else vs.filter (fun v => !near v)

/-- The victim after the one last tried, in a ring; `ptr` is the place after that. -/
def nextVictim (ring : List Nat) (ptr : Nat) : Option Nat := (ring.find? (fun v => decide (ptr ≤ v))).or ring.head?

/-- A corked core leaves a victim map: its bit goes, and a pointer that names it names the next core of its ring (R388). -/
def leaveMap (s : State) (v c : Nat) : State :=
  let s := modCore s c (fun k => { k with steal := { k.steal with victims := k.steal.victims &&& ~~~(BitVec.ofNat 256 (2 ^ v)) } })
  let move := fun (r ptr : Nat) => if ptr = v + 1 then ((nextVictim (stealRing s c r) ptr).map (· + 1)).getD ptr else ptr
  modCore s c (fun k => { k with steal := { k.steal with
    ptr0 := move 0 k.steal.ptr0, ptr1 := move 1 k.steal.ptr1, ptr2 := move 2 k.steal.ptr2 } })

/-! ### Corks (R185, R387, R388) -/

/-- A core is corked: `why` 1 margin escalation, 2 TIMING_HARD. -/
def cork (s : State) (c why : Nat) : State :=
  if (coreAt s c).role = 3 then s
  else
    let s := modCore s c (fun k => { k with role := 3, why := why, margin := { k.margin with corked := true }, engineHalt := true })
    let s := ((s.cores.filter (fun e => e.2.steal.victims.getLsbD c)).map (·.1)).foldl (fun s x => leaveMap s c x) s
    let s := (slotsOf s c).foldl (haltGroup 5 c) s
    let s := dieCtr (pendDie s (dieOf c) 0x40) (dieOf c) 5 1
    postLog s 0x0002 (dieOf c) c 0

/-! ### The stop on a fault (R177) -/

/-- The issue slots that a halted sibling has used (R177). -/
def skidOf (g : Group) : Nat := (g.stop.map (·.skid)).getD ((g.haltLeft.map (·.2)).getD 0)

/-- A group whose chunk has ended stops on a fault: the team's fault record is made and the siblings are told to halt; of one that was in its skid, the skid is the number of slots it has used (R177). A stream's recoverable fault stops the group
alone (R358). `cks` is the CKSTAT word at the stop (R390). -/
def stopGroup (s : State) (core slot : Nat) (pc : PC) (fi : FaultInfo) (cks : Word) : State :=
  match groupAt s core slot with
  | none => s
  | some g =>
    let r := teamRecord s core slot pc fi
    let halt := fun (g : Group) => { g with stop := some { kind := 0, skid := skidOf g, cks := cks }, haltLeft := none, irr := false, replay := none }
    if fi.src = 2 ∧ fi.recov then
      postFault (modGroup s core slot halt) { rec_ := r, agent := 2, core := core, id := slot, pasid := g.pasid }
    else
      let s := dropCall (modGroup s core slot halt) core g.team
      let t := teamAt s core g.team
      if t.fault.isSome then settle s core g.team
      else
        let s := modTeam s core g.team (fun t => { t with fault := some r })
        let s := ((teamSlots s core g.team).filter (fun i => decide (i ≠ slot))).foldl
          (fun s i => send s core core (.teamHalt core i)) s
        settle s core g.team

/-- A saved team's fault has been answered with retry: its groups run on once they are restored (R357, R359). -/
def resumeSaved (e : FaultEnt) (past : Bool) (k : Core) : Core :=
  { k with
    teams := amod k.teams e.id (fun t => if t.fault = some e.rec_ then { t with fault := none, posted := false } else t)
    groups := k.groups.map (fun (x : Nat × Group) =>
      if x.2.team = e.id ∧ x.2.gi = e.rec_.gi ∧ past then (x.1, { x.2 with past := some e.rec_.pc }) else x) }

/-- Resumes the agent of a fault entry (R359): a team at its recorded PCs, with the threads that executed a TRAP or BRK at its address
+ 4; a stream's group; a copy at its vector; a staging. -/
def resumeAgent (s : State) (e : FaultEnt) : State :=
  let past := e.rec_.code == fcTrapSw || e.rec_.code == fcBreakpoint
  if e.agent = 0 then
    let saved := ((savedPart s e.pasid e.core).bind (fun k => aget k.teams e.id)).bind (·.fault)
    let live := (teamAt s e.core e.id).fault
    let s := if live = some e.rec_ ∨ saved = some e.rec_ then modSaved s e.pasid e.core (resumeSaved e past) else s
    if live ≠ some e.rec_ then s
    else
      let s := modTeam s e.core e.id (fun t => { t with fault := none, posted := false })
      (teamSlots s e.core e.id).foldl (fun s i => modGroup s e.core i (fun g =>
        let g := reissue { g with stop := none }
        if past && g.gi == e.rec_.gi then
          let ls := (liveLanes g).filter (fun t => sget 0 g.r.pc t == e.rec_.pc)
          { g with r := setPcs g.r (ls.map (·, e.rec_.pc + 4)) }
        else g)) s
  else if e.agent = 2 then
    let again := fun (g : Group) => if g.pasid = e.pasid && (g.stop.map (·.kind)) = some 0 then reissue { g with stop := none } else g
    let live := (groupAt s e.core e.id).any (fun g => g.pasid == e.pasid)
    if live then modGroup s e.core e.id again
    else modSaved s e.pasid e.core (fun k => { k with groups := k.groups.map (fun (x : Nat × Group) =>
      if x.1 = e.id then (x.1, { x.2 with stop := x.2.stop.map (fun r => { r with kind := 1 }) }) else x) })
  else if e.agent = 1 then
    let s := { s with copies := amod s.copies e.id (fun c => { c with st := 1, fault := none }) }
    match aget s.copies e.id with
    | none => s
    | some c => send s (engineAgent c.die) (engineAgent c.die) (.engineChunkStart e.id)
  else
    let again := fun (k : Core) => { k with staged := k.staged.map (fun x => if x.e.cline.toNat = e.id then { x with bad := false } else x) }
    kick (modCore (modSaved s e.pasid e.core again) e.core again) e.core

/-- The grid of a fault entry's agent: that of its core, or of its context's save. -/
def agentGrid (s : State) (e : FaultEnt) : Option Nat :=
  if e.agent = 1 then (aget s.copies e.id).bind (·.grid)
  else
    match (coreAt s e.core).grid with
    | some g => if (gridAt s g).map (·.pasid) = some e.pasid then some g else (savedPart s e.pasid e.core).bind (·.grid)
    | none => (savedPart s e.pasid e.core).bind (·.grid)

/-- Aborts the grid of a fault entry's agent (R359). -/
def abortAgent (s : State) (e : FaultEnt) : State :=
  match agentGrid s e with
  | none => s
  | some g =>
    abortGrid (writeFaultSection s e.pasid e.rec_) g e.rec_.code

/-! ### Unbinding (R24) -/

/-- Unbinds a core: futures are freed and their generations advance, queues, stash map, pins and tiles are released (R24, R194, R250,
R299, R303, R382, R388). The partition keeps its size until the next binding. -/
def unbindCore (s : State) (c : Nat) : State :=
  let stash := (coreAt s c).stashLines.map (·.line)
  let s := (coreAt s c).stashLines.foldl leaveL1 s
  let s := modCore s c (fun k =>
    { k with
      grid := none, reserved := none, groups := [], teams := [], deque := [], dqResv := 0, pool := [], poolResv := 0
      poolReady := [], pushQ := [], reqQ := [], pieces := [], chans := [], staged := [], boundFills := [], abandoned := [], steal := {}, stash := [], stashLines := [], qused := 0, accQ := []
      ops := [], tilesUsed := 0, stopReq := false, engineHalt := false
      l1 := (k.l1.filter (·.valid)).map (fun x => { x with pin := false }), fresh := []
      futs := k.futs.map (fun (e : Nat × Fut) => (e.1, { st := 0, gen := nextGen e.2.gen })), genBase := nextGen k.genBase })
  sweepDir (stash.foldl (fun s l => leaveDir s c l) s) c

/-- A core's scratch partition takes `n` units of 32 KiB: the L1 lines in the ways that pass to scratch are written back or dropped, and the
home directory follows (R192, R194). -/
def fitL1 (s : State) (c n : Nat) : State :=
  let out := (coreAt s c).l1.filter (fun x => decide (10 - n ≤ x.way))
  let s := modCore s c (fun k => { k with psize := n, l1 := k.l1.filter (fun x => decide (x.way < 10 - n)) })
  out.foldl (fun s x => leaveDir (leaveL1 s x) c x.line) s

end Sys2Proof.Machine
end

