-- ==== Sys2Proof/Machine/Image.lean ====
section
/-! DEFINITION. Sys2Proof/Machine/Image.lean: canonical operand images in scratch (R276 to R278), the fields of matrix words (R283, R288),
and the scratch ranges of engine operations (R281). -/

namespace Sys2Proof.Machine

/-- Layouts: 0 C8, 1 C16, 2 C4. k values of a slab, and scale bytes of a row. -/
def imgKs (lay : Nat) : Nat := if lay = 0 then 64 else if lay = 1 then 32 else 128
def imgScales (lay : Nat) : Nat := if lay = 1 then 0 else imgKs lay / 32

/-- Bytes rounded up to whole lines. -/
def toLines (n : Nat) : Nat := (n + 127) / 128 * 128

/-- Offsets in a slab of `nr` rows at a pitch of `rowp` × 16 bytes: its scale bytes, its codebook line, its end. -/
def imgScaleOff (nr rowp : Nat) : Nat := toLines (nr * rowp * 16)
def imgBookOff (nr rowp : Nat) : Nat := toLines (imgScaleOff nr rowp + nr * 4)
def imgEnd (lay nr rowp : Nat) : Nat :=
  if lay = 2 then imgBookOff nr rowp + 128 else imgScaleOff nr rowp + nr * imgScales lay

/-- The size of a slab in lines (R278). -/
def slabLines (lay nr rowp : Nat) : Nat := toLines (imgEnd lay nr rowp) / 128

/-- An operand pair (R277): base, row pitch, rotation, slab pitch, and whether its zero fields are zero. -/
def imgBase (x : Dword) : Word := loWord x
def imgRowp (x : Dword) : Nat := ((hiWord x).extractLsb' 0 5).toNat
def imgRot (x : Dword) : Nat := ((hiWord x).extractLsb' 5 2).toNat
def imgSlabp (x : Dword) : Nat := ((hiWord x).extractLsb' 8 12).toNat
def imgZero (x : Dword) : Bool := !(hiWord x).getLsbD 7 && decide ((hiWord x).toNat / 2 ^ 20 = 0)

/-- The offset from slab start of data byte `j` of image row `r` (R277). -/
def imgByte (rowp rot r j : Nat) : Nat := r * rowp * 16 + ((j / 16 + r * rot) % 4) * 16 + j % 16

/-- The offset from slab start of the scale byte of row `r`, block `bb`. -/
def imgScaleByte (lay nr rowp r bb : Nat) : Nat := imgScaleOff nr rowp + r * imgScales lay + bb

/-- The slab's start. -/
def imgSlab (x : Dword) (s : Nat) : Word := imgBase x + BitVec.ofNat 32 (s * imgSlabp x * 128)

/-! ### Words of engine operations -/

/-- Fields of the MMA parameter word (R283). -/
def mmaAcc (w : Word) : Nat := (w.extractLsb' 0 3).toNat
def mmaLayA (w : Word) : Nat := (w.extractLsb' 3 2).toNat
def mmaTagA (w : Word) : Nat := (w.extractLsb' 5 2).toNat
def mmaLayB (w : Word) : Nat := (w.extractLsb' 7 2).toNat
def mmaTagB (w : Word) : Nat := (w.extractLsb' 9 2).toNat
def mmaAcm (w : Word) : Bool := w.getLsbD 11
def mmaAi (w : Word) : Bool := w.getLsbD 12
def mmaClr (w : Word) : Bool := w.getLsbD 13
def mmaNstep (w : Word) : Nat := (w.extractLsb' 14 5).toNat
def mmaCba (w : Word) : Nat := (w.extractLsb' 19 2).toNat
def mmaCbb (w : Word) : Nat := (w.extractLsb' 21 2).toNat
def mmaSeq (w : Word) : BitVec 4 := w.extractLsb' 23 4

/-- FIRST and COUNT of ACCLD and ACCST (R288), as their operation carries them beside the scratch address. -/
def rowFirst (x : Dword) : Nat := ((hiWord x).extractLsb' 0 8).toNat
def rowCount (x : Dword) : Nat := ((hiWord x).extractLsb' 8 8).toNat

/-! ### Scratch ranges (R281) -/

/-- The core and offset of a range of scratch bytes, all in one member's unmapped partition. -/
def scrRange (s : State) (c : Nat) (sa : Word) (n : Nat) : Option (Nat × Nat) :=
  match scrTarget s c sa with
  | none => none
  | some (tc, off) =>
    let k := coreAt s tc
    if k.psize * 32768 < off + n then none
    else if (List.range ((off + n + 127) / 128 - off / 128)).any (fun i => (stashGlobal k (off / 128 + i)).isSome) then none
    else some (tc, off)

/-- The address of the first line of a range of scratch bytes that R281 does not allow. -/
def scrBadLine (s : State) (c : Nat) (sa : Word) (n : Nat) : Option Word :=
  if (scrRange s c sa n).isSome then none
  else ((List.range ((n + 127) / 128)).map (fun i => sa + BitVec.ofNat 32 (128 * i))).find? (fun a => (scrRange s c a (min 128 n)).isNone)

/-- The first scratch address of an MMA operand's slabs that R281 does not allow. -/
def slabsBad (s : State) (c : Nat) (lay nr : Nat) (x : Dword) (nstep : Nat) : Option Word :=
  (List.range (nstep + 1)).findSome? (fun i => scrBadLine s c (imgSlab x i) (imgEnd lay nr (imgRowp x)))

/-- The first scratch address of an engine operation that R281 does not allow. -/
def opScratchBad (s : State) (o : EngOp) : Option Word :=
  if o.kind = 3 then
    (slabsBad s o.core (mmaLayA o.word) 96 o.opA (mmaNstep o.word)).or (slabsBad s o.core (mmaLayB o.word) 128 o.opB (mmaNstep o.word))
  else if o.kind = 1 ∨ o.kind = 2 then scrBadLine s o.core (imgBase o.opA) (512 * rowCount o.opA)
  else none

/-- A committed scratch byte, by scratch address. -/
def scrByte (s : State) (c : Nat) (sa : Word) : Byte :=
  match scrTarget s c sa with
  | none => 0
  | some (tc, off) => sget 0 (coreAt s tc).scratch off

end Sys2Proof.Machine
end

