-- ==== Sys2Proof/Machine/Engine.lean ====
section
/-! DEFINITION. Sys2Proof/Machine/Engine.lean: tile names (R271 to R275), the engine operation list, its order and its failures (R280 to
R285, R292), the choice of the next matrix step (R293, R294), and the release of an ended team's tiles (R271). -/

namespace Sys2Proof.Machine

/-! ### Tiles and names -/

/-- The names in a mask, ascending. -/
def namesOf (mask : BitVec 8) : List Nat := (List.range 8).filter (fun i => mask.getLsbD i)

/-- The mask of some names. -/
def maskOfNames (ns : List Nat) : BitVec 8 := ns.foldl (fun m i => m ||| BitVec.ofNat 8 (2 ^ i)) 0

/-- Free physical tiles of a core, ascending. -/
def freeTiles (k : Core) : List Nat := (List.range 8).filter (fun i => !k.tilesUsed.getLsbD i)

/-- The key of a tile element (R271). -/
def tileKey (phys i j : Nat) : Nat := 12288 * phys + 128 * i + j

/-- An element of a physical tile. -/
def tileGet (k : Core) (phys i j : Nat) : Word := sget 0 k.tiles (tileKey phys i j)

/-- A tile whose every element is 0. -/
def zeroTile (m : Sparse Word) (phys : Nat) : Sparse Word := m.filter (fun e => !(e.1 / 12288 == phys))

/-- Grants `n` tiles to a team under its lowest free names; each reads 0 (R271, R273). Answers the new names. -/
def grantTiles (s : State) (c team n : Nat) : List Nat × State :=
  let k := coreAt s c
  let t := teamAt s c team
  let ns := ((List.range 8).filter (fun i => (aget t.tiles i).isNone)).take n
  let ps := (freeTiles k).take n
  let s := modTeam s c team (fun t => { t with tiles := (ns.zip ps).foldl (fun m e => aset m e.1 e.2) t.tiles })
  (ns, modCore s c (fun k => { k with tilesUsed := k.tilesUsed ||| maskOfNames ps, tiles := ps.foldl zeroTile k.tiles }))

/-- The names held, as a group sees them (R273, R275). -/
def heldNames (s : State) (c slot : Nat) : BitVec 8 :=
  match groupAt s c slot with
  | none => 0
  | some g =>
    let t := teamAt s c g.team
    let others := (teamSlots s c g.team).filter (fun i => decide (i ≠ slot))
    let given := ((coreAt s c).accQ.filter (fun r => decide (r.slot ≠ slot) && decide (r.team = g.team))).foldl (fun m r =>
      m ||| (r.granted.getD 0).setWidth 8) 0
    let hidden := others.foldl (fun m i => m ||| ((groupAt s c i).map (·.r.accOwn)).getD 0) given
    maskOfNames (t.tiles.map (·.1)) &&& ~~~hidden &&& ~~~g.r.accGone

/-! ### Operations -/

/-- The codebook slots that an MMA names. -/
def mmaSlots (w : Word) : List Nat := if mmaLayA w = 2 then [mmaCba w, mmaCbb w] else []

/-- The tile names that an operation names. -/
def opNames (kind : Nat) (w : Word) : List Nat :=
  if kind = 0 ∨ kind = 5 then namesOf (w.setWidth 8)
  else if kind = 1 ∨ kind = 2 then [w.toNat % 8]
  else if kind = 3 then [mmaAcc w] else []

/-- An operation counts as one of a group's: the group issued it, or its part of an MMA has arrived (R282). -/
def opOf (team gi : Nat) (o : EngOp) : Bool := o.team == team && (if o.kind = 3 then decide (gi ∈ o.arrived) else o.gi == gi)

/-- Engine operations that the chunks of a group still hold. -/
def chunkOps (k : Chunk) : List EngOp := k.effects.filterMap (fun e => match e with | .engine o => some o | _ => none)

/-- A group's incomplete engine operations (R282). -/
def groupOps (s : State) (c slot : Nat) : List EngOp :=
  match groupAt s c slot with
  | none => []
  | some g => (coreAt s c).ops.filter (fun o => opOf g.team g.gi o && !o.failed) ++ (g.done ++ [g.open_]).flatMap chunkOps

/-- A released operation fails (R292): it counts as complete, and the team's record, with the control word of ACCLD and ACCST, is made
unless one is held. -/
def engineFail (s : State) (o : EngOp) (code addr : Nat) : State :=
  modTeam s o.core o.team (fun t =>
    { t with efault := match t.efault with
        | some f => some f
        | none => some { code := code, kind := o.kind, word := if o.kind = 1 ∨ o.kind = 2 then hiWord o.opA else o.word, addr := addr } })

/-- Arrival of an MMA is complete (R285); every other operation arrives at its release. -/
def arrivedAll (s : State) (o : EngOp) : Bool := o.kind != 3 || decide ((teamAt s o.core o.team).size ≤ o.arrived.length)

/-- An operation released earlier must complete first (R275, R279, R280). -/
def blocks (o p : EngOp) : Bool :=
  decide (p.order < o.order) && !p.failed &&
    (p.phys.any (fun i => decide (i ∈ o.phys))
      || (decide (o.team = p.team) && decide (o.kind = 4 ∧ p.kind = 3 ∧ o.word.toNat ∈ mmaSlots p.word))
      || (decide (o.team = p.team) && decide (o.kind = 3 ∧ p.kind = 4 ∧ p.word.toNat ∈ mmaSlots o.word)))

/-- An ACCEPI that waits to read a tile of the operation was issued before its release (R289). -/
def epiWaits (s : State) (o : EngOp) (i : Nat) : Bool :=
  (coreAt s o.core).groups.any (fun e => !(opOf e.2.team e.2.gi o) && e.2.epi.any (fun x => x.2.1 == i && decide (x.2.2 ≤ o.order)))

/-- Such an ACCEPI waits to read one of the operation's tiles (R289). -/
def epiHolds (s : State) (o : EngOp) : Bool := o.phys.any (epiWaits s o)

/-- The tiles of an ACCFREE that no earlier operation names, and no earlier ACCEPI is still to read (R275, R289). -/
def freeableTiles (s : State) (o : EngOp) : List Nat :=
  o.phys.filter (fun i => !epiWaits s o i
    && (coreAt s o.core).ops.all (fun p => !(decide (p.order < o.order) && !p.failed && decide (i ∈ p.phys))))

/-- The operation may start; an ACCFREE may where it can free a tile (R275). -/
def opReady (s : State) (o : EngOp) : Bool :=
  if o.kind = 5 then o.phys.isEmpty || !(freeableTiles s o).isEmpty
  else arrivedAll s o && !o.failed && !epiHolds s o && (coreAt s o.core).ops.all (fun p => !blocks o p)

/-- Two budget periods (R294). -/
def agedClk : Nat := 2 * 11264

/-- The oldest wait of some MMAs. -/
def longestWait (os : List EngOp) : Option EngOp :=
  os.find? (fun o => os.all (fun p => decide (o.waitSince < p.waitSince ∨ (o.waitSince = p.waitSince ∧ o.order ≤ p.order))))

/-- The next matrix step by the rules of R294. -/
def pickMma (s : State) (c : Nat) : Option EngOp :=
  let k := coreAt s c
  let rem := (ctrGet s (ctrKey 1 c 15)).toNat - (ctrGet s (ctrKey 1 c 14)).toNat
  let est := fun (o : EngOp) => (teamAt s c o.team).est
  let ready := k.ops.filter (fun o => o.kind == 3 && opReady s o)
  match longestWait (ready.filter (fun o => decide (agedClk ≤ s.clk - o.waitSince) && decide (est o ≤ rem))) with
  | some o => some o
  | none =>
    if 60 ≤ rem then longestWait ready
    else
      let fit := ready.filter (fun o => decide (est o ≤ rem))
      longestWait (fit.filter (fun o => fit.all (fun p => decide (est o ≤ est p))))

/-- MMAs that have become ready wait from now on (R294). -/
def markReady (s : State) (c : Nat) : State :=
  if (coreAt s c).ops.any (fun o => o.kind == 3 && !o.ready && opReady s o) then
    modCore s c (fun k => { k with ops := k.ops.map (fun o =>
      if o.kind = 3 ∧ !o.ready ∧ opReady s o then { o with ready := true, waitSince := s.clk } else o) })
  else s

/-- The engine of a core looks at what it can start: operations other than MMAs at once, and one matrix step of 32 clk. -/
def engineKick (s : State) (c : Nat) : State :=
  let s := markReady s c
  if (coreAt s c).engineHalt then s
  else
    let s := ((coreAt s c).ops.filter (fun o => o.kind != 3 && opReady s o)).foldl (fun s o =>
      if s.net.any (fun m => decide (m.ev = .engineOpComplete c o.order)) then s
      else send s c c (.engineOpComplete c o.order)) s
    if (coreAt s c).engineStep.isSome then s
    else match pickMma s c with
      | some o => after (modCore s c (fun k => { k with engineStep := some o.order })) 32 (.mmaStepEnd c 0)
      | none =>
        if (coreAt s c).ops.any (fun o => o.kind == 3 && opReady s o) then refuseAdmission s (ctrKey 1 c 14) else s

/-- An ended team whose operations are still under way gives up its slot set: its record goes on under a number past the slots, and they act
for it there (R36, R271, R321). -/
def leaveSlots (s : State) (c team : Nat) (t : Team) : State :=
  match freshKey (coreAt s c).teams 4096 64 with
  | none => s
  | some g => kick (modCore s c (fun k => { k with teams := aset (adel k.teams team) g t
                                                   ops := k.ops.map (fun o => if o.team = team then { o with team := g } else o) })) c

/-- A team has ended: its slot set is free, and its tiles, names and record go once its last operation is complete (R271, R321). -/
def closeTeam (s : State) (c team : Nat) : State :=
  let t := teamAt s c team
  if (aget (coreAt s c).teams team).isNone || t.grid.isNone || !t.tasks.isEmpty
      || (teamSlots s c team).any (fun i => (groupAt s c i).isSome) then s
  else if (coreAt s c).ops.any (fun o => o.team == team) then (if team < 64 then leaveSlots s c team t else s)
  else
    kickAcc (kick (modCore s c (fun k =>
      { k with teams := adel k.teams team
               tilesUsed := k.tilesUsed &&& ~~~(maskOfNames (t.tiles.map (·.2))) })) c) c

/-- An ended team's MMAs whose arrival is incomplete are discarded (R271). -/
def dropUnarrived (s : State) (c team : Nat) : State :=
  modCore s c (fun k => { k with ops := k.ops.filter (fun o => !(o.team == team && o.kind == 3 && !arrivedAll s o)) })

/-- An operation is complete: it leaves the list, and others may start. -/
def finishOp (s : State) (o : EngOp) : State :=
  let s := modCore s o.core (fun k => { k with ops := k.ops.filter (fun p => !(p.order == o.order)) })
  engineKick (kickAcc (closeTeam s o.core o.team) o.core) o.core

/-- The arrival of an MMA has become complete: a difference between the members or a name not held fails it, else it is ready
(R285, R292). -/
def mmaArrived (s : State) (o : EngOp) : State :=
  if o.failed then finishOp s o
  else if o.differ then finishOp (engineFail s o fcIllegalOperand 0) o
  else engineKick s o.core

/-- Changes an operation of a core's list. -/
def modOp (s : State) (c order : Nat) (f : EngOp → EngOp) : State :=
  modCore s c (fun k => { k with ops := k.ops.map (fun p => if p.order = order then f p else p) })

/-- A member's MMA is released: a byte that has become stash-mapped ends the MMA, whose later arrivals find it failed (R281, R292). -/
def mmaRelease (s : State) (o : EngOp) : State :=
  let s := match (if o.failed then none else opScratchBad s o) with
    | some a => modOp (engineFail s o fcScratchRange a.toNat) o.core o.order (fun p => { p with failed := true, phys := [] })
    | none => s
  match (coreAt s o.core).ops.find? (fun p => p.order == o.order) with
  | none => s
  | some o => if arrivedAll s o then mmaArrived s o else if o.failed then engineKick (kickAcc s o.core) o.core else s

/-- The release of an engine operation at its chunk's commit (R280): an MMA joins the members' MMAs of its SEQ (R285); names are taken
as they stand, and one not held fails the operation at once (R292, R298); an ACCFREE's names go for every group at the release (R275). -/
def releaseOp (s : State) (o : EngOp) : State :=
  let k := coreAt s o.core
  let t := teamAt s o.core o.team
  let mate := k.ops.find? (fun p => o.kind == 3 && p.kind == 3 && p.team == o.team && mmaSeq p.word == mmaSeq o.word
    && !arrivedAll s p && !(decide (o.gi ∈ p.arrived)))
  match mate with
  | some p =>
    let p' := { p with arrived := p.arrived ++ [o.gi]
                       differ := p.differ || p.word != o.word || p.opA != o.opA || p.opB != o.opB }
    mmaRelease (modOp s o.core p.order (fun _ => p')) p'
  | none =>
    let names := opNames o.kind o.word
    let phys := names.filterMap (aget t.tiles)
    let o' := { o with order := k.opOrder, waitSince := s.clk, phys := phys, arrived := if o.kind = 3 then [o.gi] else [] }
    let s := modCore s o.core (fun k => { k with opOrder := k.opOrder + 1 })
    let bad := if o.kind = 3 then none else opScratchBad s o
    if phys.length ≠ names.length then engineFail s o fcAccRange 0
    else if bad.isSome then engineFail s o fcScratchRange (bad.getD 0).toNat
    else
      let s := modCore s o.core (fun k => { k with ops := k.ops ++ [o'] })
      let s := if o.kind = 5 then modTeam s o.core o.team (fun t => { t with tiles := t.tiles.filter (fun e => !(decide (e.1 ∈ names))) }) else s
      if o.kind = 3 then mmaRelease s o' else engineKick s o.core

end Sys2Proof.Machine
end

