-- ==== Sys2Proof/Machine/Crypto.lean ====
section
/-! DEFINITION. Sys2Proof/Machine/Crypto.lean: the standard functions that the spec names: the SHA-384 digest and the ECDSA P-384 check of an
image (R445, R454; log 9), and AES-256-GCM of an arriving packet (R386; log 10). -/

namespace Sys2Proof.Machine

/-! ### SHA-384 (R445; log 9) -/

/-- The 80 round constants. -/
def shaK : List (BitVec 64) :=
  [0x428A2F98D728AE22, 0x7137449123EF65CD, 0xB5C0FBCFEC4D3B2F, 0xE9B5DBA58189DBBC, 0x3956C25BF348B538, 0x59F111F1B605D019, 0x923F82A4AF194F9B, 0xAB1C5ED5DA6D8118]
  ++ [0xD807AA98A3030242, 0x12835B0145706FBE, 0x243185BE4EE4B28C, 0x550C7DC3D5FFB4E2, 0x72BE5D74F27B896F, 0x80DEB1FE3B1696B1, 0x9BDC06A725C71235, 0xC19BF174CF692694]
  ++ [0xE49B69C19EF14AD2, 0xEFBE4786384F25E3, 0x0FC19DC68B8CD5B5, 0x240CA1CC77AC9C65, 0x2DE92C6F592B0275, 0x4A7484AA6EA6E483, 0x5CB0A9DCBD41FBD4, 0x76F988DA831153B5]
  ++ [0x983E5152EE66DFAB, 0xA831C66D2DB43210, 0xB00327C898FB213F, 0xBF597FC7BEEF0EE4, 0xC6E00BF33DA88FC2, 0xD5A79147930AA725, 0x06CA6351E003826F, 0x142929670A0E6E70]
  ++ [0x27B70A8546D22FFC, 0x2E1B21385C26C926, 0x4D2C6DFC5AC42AED, 0x53380D139D95B3DF, 0x650A73548BAF63DE, 0x766A0ABB3C77B2A8, 0x81C2C92E47EDAEE6, 0x92722C851482353B]
  ++ [0xA2BFE8A14CF10364, 0xA81A664BBC423001, 0xC24B8B70D0F89791, 0xC76C51A30654BE30, 0xD192E819D6EF5218, 0xD69906245565A910, 0xF40E35855771202A, 0x106AA07032BBD1B8]
  ++ [0x19A4C116B8D2D0C8, 0x1E376C085141AB53, 0x2748774CDF8EEB99, 0x34B0BCB5E19B48A8, 0x391C0CB3C5C95A63, 0x4ED8AA4AE3418ACB, 0x5B9CCA4F7763E373, 0x682E6FF3D6B2B8A3]
  ++ [0x748F82EE5DEFB2FC, 0x78A5636F43172F60, 0x84C87814A1F0AB72, 0x8CC702081A6439EC, 0x90BEFFFA23631E28, 0xA4506CEBDE82BDE9, 0xBEF9A3F7B2C67915, 0xC67178F2E372532B]
  ++ [0xCA273ECEEA26619C, 0xD186B8C721C0C207, 0xEADA7DD6CDE0EB1E, 0xF57D4F7FEE6ED178, 0x06F067AA72176FBA, 0x0A637DC5A2C898A6, 0x113F9804BEF90DAE, 0x1B710B35131C471B]
  ++ [0x28DB77F523047D84, 0x32CAAB7B40C72493, 0x3C9EBE0A15C9BEBC, 0x431D67C49C100D4C, 0x4CC5D4BECB3E42B6, 0x597F299CFC657E2A, 0x5FCB6FAB3AD6FAEC, 0x6C44198C4A475817]

/-- The eight words of a hash in progress. -/
structure ShaState where
  a : BitVec 64
  b : BitVec 64
  c : BitVec 64
  d : BitVec 64
  e : BitVec 64
  f : BitVec 64
  g : BitVec 64
  h : BitVec 64
  deriving DecidableEq, Repr

/-- The hash before the first block. -/
def shaInit : ShaState :=
  { a := 0xCBBB9D5DC1059ED8, b := 0x629A292A367CD507, c := 0x9159015A3070DD17, d := 0x152FECD8F70E5939
    e := 0x67332667FFC00B31, f := 0x8EB44A8768581511, g := 0xDB0C2E0D64F98FA7, h := 0x47B5481DBEFA4FA4 }

/-- The XOR of three rotations, and of two rotations and a shift. -/
def shaRot (x : BitVec 64) (i j k : Nat) : BitVec 64 := x.rotateRight i ^^^ x.rotateRight j ^^^ x.rotateRight k
def shaShr (x : BitVec 64) (i j k : Nat) : BitVec 64 := x.rotateRight i ^^^ x.rotateRight j ^^^ (x >>> k)

/-- `n` more words of a message schedule, whose latest word comes first. -/
def shaExtend : Nat → List (BitVec 64) → List (BitVec 64)
  | 0, w => w
  | n + 1, w =>
    shaExtend n ((shaShr (w.getD 1 0) 19 61 6 + w.getD 6 0 + shaShr (w.getD 14 0) 1 8 7 + w.getD 15 0) :: w)

/-- A round, with its constant and its schedule word. -/
def shaRound (x : ShaState) (kw : BitVec 64 × BitVec 64) : ShaState :=
  let t1 := x.h + shaRot x.e 14 18 41 + ((x.e &&& x.f) ^^^ (~~~x.e &&& x.g)) + kw.1 + kw.2
  let t2 := shaRot x.a 28 34 39 + ((x.a &&& x.b) ^^^ (x.a &&& x.c) ^^^ (x.b &&& x.c))
  { a := t1 + t2, b := x.a, c := x.b, d := x.c, e := x.d + t1, f := x.e, g := x.f, h := x.g }

/-- The number that bytes spell, the first highest. -/
def beNat (bs : List Byte) : Nat := bs.foldl (fun n b => 256 * n + b.toNat) 0

/-- The bytes of a number, the highest first. -/
def beBytes (n v : Nat) : List Byte := (bytesOf n v).reverse

/-- A block of 128 bytes enters the hash. -/
def shaBlock (x : ShaState) (bs : List Byte) : ShaState :=
  let w := (List.range 16).map (fun i => BitVec.ofNat 64 (beNat ((bs.drop (8 * i)).take 8)))
  let y := (shaK.zip (shaExtend 64 w.reverse).reverse).foldl shaRound x
  { a := x.a + y.a, b := x.b + y.b, c := x.c + y.c, d := x.d + y.d, e := x.e + y.e, f := x.f + y.f, g := x.g + y.g, h := x.h + y.h }

/-- A message filled up to whole blocks: a one bit, zeros, and its length in bits in 16 bytes. -/
def shaPad (bs : List Byte) : List Byte :=
  bs ++ [(0x80 : Byte)] ++ List.replicate ((239 - bs.length % 128) % 128) 0 ++ beBytes 16 (8 * bs.length)

/-- The SHA-384 digest of a message, as a number of 384 bits. -/
def sha384 (bs : List Byte) : Nat :=
  let m := shaPad bs
  let x := (List.range (m.length / 128)).foldl (fun x i => shaBlock x ((m.drop (128 * i)).take 128)) shaInit
  [x.a, x.b, x.c, x.d, x.e, x.f].foldl (fun n w => 2 ^ 64 * n + w.toNat) 0

/-! ### ECDSA on P-384 (R445; log 9) -/

/-- The field, the base point and its order. -/
def ecP : Nat := 2 ^ 384 - 2 ^ 128 - 2 ^ 96 + 2 ^ 32 - 1
def ecN : Nat := 0xffffffffffffffffffffffffffffffffffffffffffffffffc7634d81f4372ddf581a0db248b0a77aecec196accc52973
def ecG : Nat × Nat :=
  (0xaa87ca22be8b05378eb1c71ef320ad746e1d3b628ba79b9859f741e082542a385502f25dbf55296c3a545e3872760ab7,
   0x3617de4a96262c6f5d9e98bf9292dc29f8f41dbd289a147ce9da3113b5f0b8c00a60b1ce1d7e819d7a431d7c90ea0e5f)

/-- A power modulo `m`, of an exponent of `k` bits. -/
def powMod (m : Nat) : Nat → Nat → Nat → Nat
  | 0, _, _ => 1
  | k + 1, b, e => (if e % 2 = 1 then b else 1) * powMod m k (b * b % m) (e / 2) % m

/-- The inverse modulo a prime below 2^384. -/
def invMod (m x : Nat) : Nat := powMod m 384 (x % m) (m - 2)

/-- A difference modulo the field. -/
def ecSub (x y : Nat) : Nat := (x + ecP - y % ecP) % ecP

/-- The sum of two points; `none` is the point at infinity. -/
def ecAdd (p q : Option (Nat × Nat)) : Option (Nat × Nat) :=
  match p, q with
  | none, q => q
  | p, none => p
  | some (x, y), some (u, v) =>
    let along := fun (l : Nat) =>
      let w := ecSub (ecSub (l * l) x) u
      some (w, ecSub (l * ecSub x w) y)
    if x = u then
      (if (y + v) % ecP = 0 then none else along ((3 * x * x + ecP - 3) * invMod ecP (2 * y) % ecP))
    else along (ecSub v y * invMod ecP (ecSub u x) % ecP)

/-- A multiple of a point, by a number of `k` bits. -/
def ecMul : Nat → Nat → Option (Nat × Nat) → Option (Nat × Nat)
  | 0, _, _ => none
  | k + 1, n, p => ecAdd (if n % 2 = 1 then p else none) (ecMul k (n / 2) (ecAdd p p))

/-- The signature `(r, s)` of a digest checks under a public key. -/
def ecdsaOk (key : Nat × Nat) (digest r s : Nat) : Bool :=
  if r = 0 ∨ ecN ≤ r ∨ s = 0 ∨ ecN ≤ s then false
  else
    let w := invMod ecN s
    match ecAdd (ecMul 384 (digest * w % ecN) (some ecG)) (ecMul 384 (r * w % ecN) (some key)) with
    | none => false
    | some (x, _) => x % ecN == r

/-- The check of an image's signature: 96 bytes, r then s, each stored big-endian (R445). -/
def signatureOk (image sig : List Byte) : Bool :=
  ecdsaOk Config.publicKey (sha384 image) (beNat (sig.take 48)) (beNat (sig.drop 48))

/-! ### AES-256-GCM (R386; log 10) -/

/-- A byte doubled, and a product of bytes, in the field of AES. -/
def gfDouble (x : Byte) : Byte := (x <<< 1) ^^^ (if x.getLsbD 7 then 0x1B else 0)
def gfMul : Nat → Byte → Byte → Byte
  | 0, _, _ => 0
  | k + 1, x, y => (if y.getLsbD 0 then x else 0) ^^^ gfMul k (gfDouble x) (y >>> 1)

/-- The S-box: the inverse, which is the 254th power, and the affine map. -/
def aesSub (x : Byte) : Byte :=
  let sq := fun (y : Byte) => gfMul 8 y y
  let x2 := sq x
  let x3 := gfMul 8 x2 x
  let x12 := sq (sq x3)
  let x15 := gfMul 8 x12 x3
  let x240 := sq (sq (sq (sq x15)))
  let i := gfMul 8 (gfMul 8 x240 x12) x2
  i ^^^ i.rotateLeft 1 ^^^ i.rotateLeft 2 ^^^ i.rotateLeft 3 ^^^ i.rotateLeft 4 ^^^ 0x63

/-- `n` more words of a key schedule, the word numbered `i` being the next; the latest word comes first. -/
def aesExpand : Nat → Nat → Byte → List (List Byte) → List (List Byte)
  | 0, _, _, w => w
  | n + 1, i, rc, w =>
    let t := w.headD []
    let t := if i % 8 = 0 then xorBytes ((t.drop 1 ++ t.take 1).map aesSub) [rc, 0, 0, 0] else if i % 8 = 4 then t.map aesSub else t
    aesExpand n (i + 1) (if i % 8 = 0 then gfDouble rc else rc) (xorBytes (w.getD 7 []) t :: w)

/-- The 15 round keys of a key of 32 bytes. -/
def aesKeys (key : List Byte) : List (List Byte) :=
  let w := (aesExpand 52 8 1 (((List.range 8).map (fun i => (key.drop (4 * i)).take 4)).reverse)).reverse
  (List.range 15).map (fun i => ((w.drop (4 * i)).take 4).flatten)

/-- The rows of a block are shifted: byte `r + 4c` comes from column `c + r`. -/
def aesShift (x : List Byte) : List Byte := (List.range 16).map (fun i => x.getD (i % 4 + 4 * ((i / 4 + i % 4) % 4)) 0)

/-- The columns of a block are mixed. -/
def aesMix (x : List Byte) : List Byte :=
  (List.range 16).map (fun i =>
    let at_ := fun (k : Nat) => x.getD (i / 4 * 4 + (i + k) % 4) 0
    gfDouble (at_ 0) ^^^ gfDouble (at_ 1) ^^^ at_ 1 ^^^ at_ 2 ^^^ at_ 3)

/-- AES-256 of a block of 16 bytes. -/
def aesBlock (keys : List (List Byte)) (x : List Byte) : List Byte :=
  let x := ((keys.drop 1).take 13).foldl (fun x k => xorBytes (aesMix (aesShift (x.map aesSub))) k) (xorBytes x (keys.headD []))
  xorBytes (aesShift (x.map aesSub)) (keys.getD 14 [])

/-- A product in the field of GCM, of 128-bit numbers whose highest bit is the constant term: `k` bits of `x` still to use. -/
def gcmMul : Nat → Nat → Nat → Nat → Nat
  | 0, _, _, z => z
  | k + 1, x, v, z =>
    let z := if x.testBit k then z ^^^ v else z
    gcmMul k x (if v % 2 = 1 then v / 2 ^^^ 0xE1 * 2 ^ 120 else v / 2) z

/-- Bytes cut into blocks of 16, the last filled up with zeros. -/
def blocks16 (bs : List Byte) : List (List Byte) :=
  (List.range ((bs.length + 15) / 16)).map (fun i =>
    let b := (bs.drop (16 * i)).take 16
    b ++ List.replicate (16 - b.length) 0)

/-- The authenticating sum of additional data and ciphertext under the hash key `h`. -/
def ghash (h : Nat) (aad ct : List Byte) : Nat :=
  (blocks16 aad ++ blocks16 ct ++ [beBytes 8 (8 * aad.length) ++ beBytes 8 (8 * ct.length)]).foldl
    (fun y b => gcmMul 128 (y ^^^ beNat b) h 0) 0

/-- AES-256-GCM decryption under a key of 32 bytes and an IV of 12: the plain bytes, if the tag of 16 bytes passes. -/
def gcmDecrypt (key iv aad ct tag : List Byte) : Option (List Byte) :=
  let ks := aesKeys key
  let stream := fun (i : Nat) => aesBlock ks (iv ++ beBytes 4 (i + 1))
  if xorBytes (beBytes 16 (ghash (beNat (aesBlock ks (List.replicate 16 0))) aad ct)) (stream 0) = tag then
    some (xorBytes ct ((List.range ((ct.length + 15) / 16)).flatMap (fun i => stream (i + 1))))
  else none

end Sys2Proof.Machine
end

