-- ==== Sys2Proof/Machine/Firmware.lean ====
section
/-! DEFINITION. Sys2Proof/Machine/Firmware.lean: the start of F-mode groups (R170), boot and its slot choice (R444 to R452), the image
check and the flash (R453 to R455), holds and the heartbeat (R456 to R458), fatal errors and the dump (R463), the mailbox (R451),
the port key commands (R386), MLCTL (R363) and the racking request register (R380), as operations over the state. -/

namespace Sys2Proof.Machine

/-! ### F-mode groups -/

/-- The state of R97 for a group of allocation `a` that starts at `entry`: everything 0 but `it`, with ICALL as given. -/
def freshRegs (entry : PC) (icall : Bool) : GRegs :=
  { icall := icall
    pc := if entry = 0 then [] else allLanes.map (·, entry) }

/-- Starts a group in F-mode in slot 0 of a vintner core at `entry` (R170): a team of one, A = 256, k0–k15 zero, FSTAT 0b10, FVEC the
entry (log 17), its return stack in the reserved range, where nothing else can reach it (log 20). -/
def startFmode (s : State) (c : Nat) (entry : PC) : State :=
  let g : Group :=
    { r := freshRegs entry false, a := 256, fmode := true
      f := { vec := entry.signExtend 64, msel := BitVec.ofNat 8 c }, uid := s.uids
      rsbase := hbmEnd + 0x10000000 + 8192 * c }
  setTeam (setGroup { s with uids := s.uids + 1 } c 0 g) c 0 {}

/-- The vintner cores (R19). -/
def vintners (s : State) : List Nat := (List.range 256).filter (fun c => (coreAt s c).role == 1)

/-- Starts a group at `entry` on every vintner core (R448). -/
def startVintners (s : State) (entry : PC) : State := (vintners s).foldl (fun s c => startFmode s c entry) s

/-- A group stands at a chunk boundary, so that a restart can act on it (R458). -/
def atBoundary (g : Group) : Bool := decide (g.open_.slots = 0) && g.done.isEmpty

/-- Where a restart enters: the dump entry during a dump, else FWRESUME (R458, R463). -/
def restartEntry (s : State) : PC :=
  match s.fw.dumping with
  | some _ => BitVec.ofNat 57 (s.fw.area + s.fw.dumpEnt)
  | none => s.fw.resume

/-- Restarts every vintner core but one (R458, R463): each F-mode group stops at its next chunk boundary, all F-mode slots are freed and
slot 0 starts a fresh group. FPEND, FIEN, the fault queues and the compute cores are untouched. -/
def restartVintners (s : State) (skip : Option Nat) : State :=
  (vintners s).foldl (fun s c =>
    if some c = skip then s
    else if (coreAt s c).groups.all (fun e => atBoundary e.2) then
      startFmode (modCore s c (fun k => { k with groups := [], teams := [] })) c (restartEntry s)
    else modCore s c (fun k => { k with groups := k.groups.map (fun (e : Nat × Group) => (e.1, { e.2 with atEnd := some 3 })) })) s

/-! ### Flash and images (R444 to R447, R455) -/

def flashByte (s : State) (a : Nat) : Byte := sget 0xFF s.flash a
def flashNat (s : State) (a n : Nat) : Nat := natOfBytes ((List.range n).map (fun i => flashByte s (a + i)))

/-- CRC-32 with the polynomial of IEEE 802.3, reflected as that standard's frame check is (log 18). -/
def crcStep (c : BitVec 32) : Nat → BitVec 32
  | 0 => c
  | n + 1 => crcStep (if c.getLsbD 0 then (c >>> 1) ^^^ 0xEDB88320#32 else c >>> 1) n

def crc32 (bs : List Byte) : BitVec 32 :=
  ~~~(bs.foldl (fun c b => crcStep (c ^^^ b.setWidth 32) 8) 0xFFFFFFFF#32)

/-- A marker copy's sequence number and slot, if the copy is valid (R446). -/
def markerAt (s : State) (i : Nat) : Option (Nat × Nat) :=
  let a := 0x2000000 + 0x1000 * i
  let seq := flashNat s (a + 4) 4
  let slot := (flashByte s (a + 8)).toNat
  if flashNat s a 4 = 0x4B52414D ∧ slot ≤ 1 ∧ flashNat s (a + 9) 3 = 0 ∧ seq ≠ 0xFFFFFFFF ∧
      flashNat s (a + 12) 4 = (crc32 ((List.range 12).map (fun j => flashByte s (a + j)))).toNat
  then some (seq, slot) else none

/-- The image check over a byte source (R445, R454): 0 for a pass, else ERR. -/
def imageErr (byte : Nat → Byte) : Nat :=
  let nat := fun (a n : Nat) => natOfBytes ((List.range n).map (fun i => byte (a + i)))
  let len := nat 12 4
  if nat 0 4 ≠ 0x47495349 ∨ nat 4 4 ≠ 1 then 1
  else if len % 128 ≠ 0 ∨ len < 128 ∨ 0x1000000 - 128 < len then 2
  else if !signatureOk ((List.range len).map byte) ((List.range 96).map (fun i => byte (len + i))) then 3
  else if nat 8 4 < Config.minIseq then 4
  else 0

/-- A flash slot's bytes. -/
def slotByte (s : State) (slot a : Nat) : Byte := flashByte s (0x1000000 * slot + a)

def slotOk (s : State) (slot : Nat) : Bool := imageErr (slotByte s slot) == 0

/-- Sirmel's slot choice at boot (R447): the slot and BYMARK. -/
def bootChoice (s : State) : Option (Nat × Bool) :=
  let best := match markerAt s 0, markerAt s 1 with
    | some m, some n => some (if m.1 < n.1 then n.2 else m.2)
    | some m, none => some m.2
    | none, some n => some n.2
    | none, none => none
  match best with
  | some x =>
    if slotOk s x then some (x, true) else if slotOk s (1 - x) then some (1 - x, false) else none
  | none =>
    let seq := fun (x : Nat) => flashNat s (0x1000000 * x + 8) 4
    if slotOk s 0 && (!slotOk s 1 || decide (seq 1 ≤ seq 0)) then some (0, false)
    else if slotOk s 1 then some (1, false) else none

/-! ### Boot (R448, R449, R452) -/

/-- The core was disabled in manufacture: at most one of each die (R4, R19). -/
def isFused (c : Nat) : Bool := decide (Config.fusedTile (dieOf c) = some (c % 64))

/-- Roles after manufacture and self-test (R19): the vintner core is tile 0 of each die, or else the lowest tile whose core is neither
fused nor failed. -/
def bootRole (c : Nat) : Nat × Nat :=
  let ok := fun (i : Nat) => !isFused i && !Config.selfTestFail.getLsbD i
  let first := ((List.range 64).map (64 * dieOf c + ·)).find? ok
  if isFused c then (2, 0)
  else if Config.selfTestFail.getLsbD c then (3, 0)
  else if first = some c then (1, 0) else (0, 0)

/-- The cores as boot makes them (R387, R448): every listed core differs from the plain compute core by its role. -/
def bootCores : Sparse Core :=
  ((List.range 256).filter (fun c => (bootRole c).1 ≠ 0)).map (fun c =>
    (c, { role := (bootRole c).1, why := (bootRole c).2
          margin := { corked := (bootRole c).1 == 3 } }))

/-- The corked cores, with the reason: they stay corked until power-on reset (R19, R185). -/
def corkedCores (s : State) : Sparse Nat := (s.cores.filter (fun e => e.2.role == 3)).map (fun e => (e.1, e.2.why))

/-- The cores of a boot at which some stay corked from before. -/
def withCorks (corks : Sparse Nat) : Sparse Core :=
  corks.foldl (fun m e => aset m e.1 { role := 3, why := e.2, margin := { corked := true } }) bootCores

/-- The cores before self-test: those that are fused, and those that stay corked (R19). -/
def heldCores (corks : Sparse Nat) : Sparse Core := (withCorks corks).filter (fun e => e.2.role == 2 || (aget corks e.1).isSome)

/-- Stacks that failed self-test are lost from boot (R207, R449). -/
def bootStacks : List Nat := (List.range 16).filter (fun x => Config.stackFail.getLsbD x)

/-- What a reset itself leaves (R5, R204): everything at its reset value but the flash and the fuses, with HBM zeroed. What only power-on reset
clears outlives any other: the cycle counters, the event counters and LIVEUPD (R93, R394, R451). -/
def afterReset (s : State) (power : Bool := true) : State :=
  let t : State := { flash := s.flash, skew := s.skew, sched := s.sched, free := s.free + 1024 }
  if power then t else { t with clk := s.clk, moves := s.moves, ctr := s.ctr, fw := { t.fw with liveupd := s.fw.liveupd } }

/-- The timers that run from boot: budget periods of each die, aligned on its cycle counter (R405), the firmware timer (R348) and the margin
windows (R184). -/
def bootTimers (s : State) : List (Nat × Instr) :=
  (List.range 4).flatMap (fun d => [(s.clk + (11264 - (s.clk + sget 0 s.skew d) % 11264), .budgetPeriod d), (s.clk + 11000, .firmwareTimer d)])
    ++ (List.range 256).map (fun c => (s.clk + 1126400, .marginWindowEnd c))

/-- The boot of R448, stage by stage: to a running image in F-mode on every vintner core, or to the safe state with its cause. `corks` are the
cores that stay corked, and `power` says whether this is power-on reset. The cores that are fused or failed show in the cork map whatever boot comes
to (R19, R450). The event of a stack or a link that failed is lost, since MLCTL.EN is 0 (R207, R363, R449). -/
def boot (s : State) (corks : Sparse Nat := []) (power : Bool := true) : State :=
  let s := afterReset s power
  let s := { s with cores := heldCores corks }
  let lost := bootStacks
  let noVintner := (List.range 4).find? (fun d => ((List.range 64).map (64 * d + ·)).all (fun c => (bootRole c).1 != 1))
  let fail := fun (st cause die unit : Nat) (s : State) =>
    { enterSafe s cause with fw := { (enterSafe s cause).fw with stage := st, stdie := die, stunit := unit } }
  let (bf, bd, bu) := Config.bootFail
  if bf = 6 then fail 1 6 bd bu s
  else if bf = 1 ∨ bf = 2 ∨ bf = 4 then fail 3 bf bd bu s
  else if 2 ≤ lost.length then fail 3 3 (lost.getD 1 0 / 4) (lost.getD 1 0) s
  else
    match noVintner with
    | some d => fail 4 7 d 0 { s with cores := withCorks corks }
    | none =>
      let s := { s with cores := withCorks corks, linkDown := Config.linkFail }
      let s := match lost with
        | [] => s
        | x :: _ => { modStack s x (fun k => { k with lost := true }) with
                      mmio := { s.mmio with lost0 := BitVec.ofNat 5 x, degr := true } }
      let s := { s with ctxs := [(0, { pasid := 0 })] }
      let s := ctrAdd s (ctrKey 7 0 1) (lost.length + popBits Config.linkFail)
      match bootChoice s with
      | none => fail 6 5 0 0 s
      | some (slot, mark) =>
        let len := flashNat s (0x1000000 * slot + 12) 4
        let image := (List.range len).map (slotByte s slot)
        let s := memPut s (bytesAt fwRegion image)
        let ent := fwRegion + flashNat s (0x1000000 * slot + 24) 8
        let s := { s with
          fw := { s.fw with bslot := BitVec.ofNat 2 slot, bymark := mark, stage := 7, area := fwRegion
                            dumpEnt := flashNat s (0x1000000 * slot + 32) 8, digest1 := sha384 image }
          mmio := { s.mmio with savesz := 8192 + 0x200000 * liveCount s }
          timers := bootTimers s }
        startVintners s (BitVec.ofNat 57 ent)

/-! ### The firmware block (R451 to R457) -/

/-- A write to IMGCHK starts the image check (R453, R454); ignored while one runs. -/
def imgChk (s : State) (v : Dword) : State :=
  match s.fw.imgBusy with
  | some _ => s
  | none => after { s with fw := { s.fw with imgBusy := some v.toNat } } 4400000 .imageCheckDone

/-- The image check ends: PASS and index 2's digest, or ERR (R451, R454). -/
def imgDone (s : State) : State :=
  match s.fw.imgBusy with
  | none => s
  | some a =>
    let s := readLine s (a / 128)
    let len := memNat s (a + 12) 4
    let ls := (List.range ((len + 128) / 128)).map (a / 128 + ·)
    let s := ls.foldl readLine s
    let byte := fun i => memByte s (a + i)
    let err := imageErr byte
    let bad := ls.any (isPoisoned s)
    let err := if isPoisoned s (a / 128) || (err != 1 && err != 2 && bad) then 5 else err
    { s with fw := { s.fw with
        imgBusy := none, imgPass := err == 0, imgErr := err
        newArea := if err = 0 then a else s.fw.newArea, newDump := if err = 0 then memNat s (a + 32) 8 else s.fw.newDump
        digest2 := if err = 0 then sha384 ((List.range len).map byte) else s.fw.digest2 } }

/-- Fields of a flash descriptor (R455): OP, FADDR, MADDR, LEN; the device ignores what the reserved bits hold (R10). -/
def flashDesc (s : State) (a : Nat) : Nat × Nat × Nat × Nat :=
  (memNat s a 8 % 4, memNat s (a + 8) 4, memNat s (a + 16) 8, memNat s (a + 24) 4)

/-- The descriptor's ERR, or 0 (R451, R455). -/
def flashCheck (s : State) (a : Nat) : Nat :=
  let (op, fa, ma, len) := flashDesc s a
  if a % 64 ≠ 0 ∨ !inFwRegion a then 1
  else if isPoisoned (readLine s (a / 128)) (a / 128) then 4
  else if op = 0 then 1
  else if len % 128 ≠ 0 ∨ len < 128 ∨ 0x1000000 < len then 1
  else if (op = 1 ∧ fa % 128 ≠ 0) ∨ (op ≠ 1 ∧ fa % 4096 ≠ 0) then 1
  else if op ≠ 3 ∧ (ma % 128 ≠ 0 ∨ !(inFwRegion ma && inFwRegion (ma + len - 1))) then 1
  else if 0x2002000 < fa + len then 2
  else if op = 2 ∧ (List.range (len / 128)).any (fun i => isPoisoned (readLine s (ma / 128 + i)) (ma / 128 + i)) then 4
  else 0

/-- Sets flash bytes. -/
def flashPut (s : State) (kvs : List (Nat × Byte)) : State := { s with flash := ssetAll 0xFF s.flash kvs }

/-- The 4 KiB sectors that meet [FADDR, FADDR + LEN). -/
def sectorCount (len : Nat) : Nat := (len + 4095) / 4096

/-- The first `n` sectors of a program (OP 2) or an erase: the bytes beyond LEN read 0xFF (R455). -/
def putSectors (s : State) (op fa ma len n : Nat) : State :=
  flashPut s ((List.range (4096 * n)).map (fun i => (fa + i, if op = 2 ∧ i < len then memByte s (ma + i) else 0xFF)))

/-- A sector whose write has failed or been cut short: a marker copy is invalid, and another sector's bytes are free values (R447; log
9). -/
def spoilSector (s : State) (a : Nat) : State :=
  let byte := fun (i : Nat) => if 0x2000000 ≤ a then (0xFF : Byte) else (Config.freeWord (s.free + i)).setWidth 8
  { flashPut s ((List.range 4096).map (fun i => (a + i, byte i))) with free := s.free + 4096 }

/-- Power or a reset cuts a flash operation short: sectors are written in ascending order, and the one in progress is spoilt (R447,
R455). -/
def cutFlash (s : State) : State :=
  match s.fw.flOp with
  | none => s
  | some (op, fa, ma, len) =>
    if op = 1 then s
    else
      let k := Config.freeNat s.free % sectorCount len
      spoilSector (putSectors s op fa ma len k) (fa + 4096 * k)

/-- A write to FLDESC starts a descriptor (R453, R455); ignored while one runs. -/
def flashStart (s : State) (v : Dword) : State :=
  match s.fw.flOp with
  | some _ => s
  | none =>
    let err := flashCheck s v.toNat
    if err ≠ 0 then { s with fw := { s.fw with flErr := err } }
    else
      let (op, fa, ma, len) := flashDesc s v.toNat
      after { s with fw := { s.fw with flOp := some (op, fa, ma, len), flErr := 0 } } 11000000 .flashOpDone

/-- A flash operation ends: the data has moved, a program has been read back, and BUSY clears (R455). Which sector, if any, reads back
otherwise is a free value. -/
def flashDone (s : State) : State :=
  match s.fw.flOp with
  | none => s
  | some (op, fa, ma, len) =>
    let s := { s with fw := { s.fw with flOp := none } }
    if op = 1 then performWrite s none (bytesAt ma ((List.range len).map (fun i => flashByte s (fa + i))))
    else
      let n := sectorCount len
      let s := putSectors s op fa ma len n
      let k := Config.flashFault s.free
      if op = 2 ∧ k < n then
        let s := spoilSector s (fa + 4096 * k)
        { s with fw := { s.fw with flErr := 3 } }
      else { s with free := s.free + 1 }

/-- Sets QHOLD (R456). -/
def holdQueues (s : State) (v : Word) : State := { s with fw := { s.fw with qhold := v.setWidth 4 } }

/-- A write to HBARM (R457). -/
def armWatch (s : State) (v : Dword) : State :=
  let cookie := loWord v
  let tmo := bitsOf64 v 47 32
  if cookie = 0 ∨ tmo < 1 ∨ 1000 < tmo ∨ bitsOf64 v 63 48 ≠ 0 ∨ s.fw.armed then s
  else
    let s := { s with fw := { s.fw with cookie := cookie, tmo := tmo, beat := 0, ok := false, armed := true } }
    let s := (vintners s).foldl (fun s c => setFpend s c 0x100) s
    after s (1100000 * tmo) .heartbeatTimeout
where
  /-- Bits of a doubleword, as a number. -/
  bitsOf64 (x : Dword) (hi lo : Nat) : Nat := (x.toNat / 2 ^ lo) % 2 ^ (hi + 1 - lo)

/-- The dies that have a vintner core in service. -/
def vintnerDies (s : State) : BitVec 4 :=
  (List.range 4).foldl (fun m d => if (vintnerOf s d).isSome then m ||| BitVec.ofNat 4 (2 ^ d) else m) 0

/-- A write to HBEAT from the vintner core of die `d` (R457). -/
def beatWatch (s : State) (d : Nat) (v : Word) : State :=
  if s.fw.armed && v == s.fw.cookie && decide (d < 4) then
    let b := s.fw.beat ||| BitVec.ofNat 4 (2 ^ d)
    if vintnerDies s &&& ~~~b = 0 then
      cancel { s with fw := { s.fw with beat := b, ok := true, armed := false, liveupd := true, digest1 := s.fw.digest2
                                        area := s.fw.newArea, dumpEnt := s.fw.newDump } }
        .heartbeatTimeout
    else { s with fw := { s.fw with beat := b } }
  else s

/-- Boot after a reset other than power-on reset, which cuts a flash operation short: a corked core stays corked (R19, R450). -/
def reboot (s : State) : State := boot (cutFlash s) (corkedCores s) false

/-- A mailbox doorbell (R451): in the safe state Sirmel serves STATUS and RESET; otherwise die 0's vintner core is told. RESET is
Sirmel's always. The status and the words of an answer are free values. -/
def mailbox (s : State) (cmd : Nat) : State :=
  if cmd = 3 then reboot s
  else if s.fw.safe then
    if cmd = 1 then
      { s with
        fw := { s.fw with
          mbxStatus := (Config.freeWord s.free).setWidth 8, mbxBusy := false
          mbxOut := (List.range 8).foldl (fun m i => sset 0 m i (Config.freeDword (s.free + i))) s.fw.mbxOut }
        free := s.free + 8 }
    else s
  else pendDie { s with fw := { s.fw with mbxBusy := true } } 0 0x100

/-! ### MLCTL, QHOLD's neighbours, keys and marching requests -/

/-- A write to MLCTL (R363). -/
def setMlctl (s : State) (v : Dword) : State := { s with mmio := { s.mmio with mlen := v.getLsbD 0 } }

/-- A key command (R386): 1 loads the staged key and salt, 2 clears; the staging registers then hold zero, and BUSY rises until
KEYCMD_DONE. Ignored while BUSY. -/
def keyCommand (s : State) (cmd : Nat) : State :=
  if s.keys.busy ∨ (cmd ≠ 1 ∧ cmd ≠ 2) then s
  else
    let i := s.keys.idx.toNat
    let entry := [sget 0 s.keys.w 0, sget 0 s.keys.w 1, sget 0 s.keys.w 2, sget 0 s.keys.w 3, s.keys.salt.setWidth 64]
    let es := if cmd = 1 then aset s.keys.entries i entry else adel s.keys.entries i
    after { s with keys := { s.keys with entries := es, w := [], salt := 0, busy := true } } 64 .keycmdDone

/-- A write to MARCHREQ (R380): queues the parking of a bank in service, one request a stack, while MARCHEN. -/
def marchRequest (s : State) (v : Word) : State :=
  let x := v.toNat % 16
  let bank := 64 * (v.toNat / 16 % 32) + v.toNat / 512 % 64
  let k := stackAt s x
  if !s.mmio.marchen ∨ k.march.isSome ∨ sget 0 k.bank bank ≠ 0 then s
  else modStack s x (fun k => { k with march := some (bank / 64, bank % 64) })

end Sys2Proof.Machine
end

