-- ==== Sys2Proof/Machine/Tasks.lean ====
section
/-! DEFINITION. Sys2Proof/Machine/Tasks.lean: closure lines (R300, R301), staging and task start (R97, R100, R305, R307), pieces and
their cursors (R311 to R314), the end of a group's part and of a task (R321), frames of the return stack (R155) and inline calls
(R98, R158, R317 to R319). -/

namespace Sys2Proof.Machine

/-! ### Closure lines (R300) -/

/-- The sixteen doublewords of a line read as a number. -/
def dwsOf (v : Nat) : List Dword := (List.range 16).map (dwAt v)

def clDw (cl : List Dword) (i : Nat) : Dword := cl.getD i 0
def clEntry (cl : List Dword) : PC := (clDw cl 0).extractLsb' 0 57
def clShape (cl : List Dword) : Nat := bitsOf (clDw cl 0) 59 57
def clKind (cl : List Dword) : Nat := bitsOf (clDw cl 0) 61 60
def clLo (cl : List Dword) : Word := loWord (clDw cl 2)
def clHi (cl : List Dword) : Word := hiWord (clDw cl 2)

/-- The dependencies that are not 0 (R308). -/
def clDeps (cl : List Dword) : List Dword := [clDw cl 3, clDw cl 4].filter (fun h => decide (h ≠ 0))

/-- A handle field that is neither 0 nor well formed. -/
def badHandle (h : Dword) : Bool := decide (h ≠ 0) && hMalformed h

/-- The breaches of R317 that do not depend on the spawning task. `range` is SPAWNR. -/
def clMalformed (cl : List Dword) (shape : Nat) (range : Bool) : Bool :=
  decide (bitsOf (clDw cl 0) 63 62 ≠ 0) || decide (clDw cl 9 ≠ 0) || decide ((clEntry cl).toNat % 4 ≠ 0)
    || decide (clShape cl ≠ shape) || clKind cl == 3 || ((clKind cl == 1) != range)
    || (!range && decide (clDw cl 2 ≠ 0))
    || badHandle (clDw cl 1) || badHandle (clDw cl 3) || badHandle (clDw cl 4)
    || [5, 6, 7, 8].any (fun i => decide (bitsOf (clDw cl i) 13 0 = 0) && decide (bitsOf (clDw cl i) 63 14 ≠ 0))

/-- The deque entry of a closure (R304). -/
def entryOf (ca : Dword) (cl : List Dword) : DqEntry :=
  { cline := clineOf ca, shape := BitVec.ofNat 2 (clShape cl), kind := BitVec.ofNat 2 (clKind cl), stg := false, clm := false
    lo := if clKind cl = 1 then clLo cl else 0, hi := if clKind cl = 1 then clHi cl else 0
    result := if clKind cl = 1 then 0 else clDw cl 1 }

/-- The closure line as an entry's copies of SHAPE, KIND, LO and HI leave it (R301: they prevail). -/
def overrideCl (e : DqEntry) (cl : List Dword) : List Dword :=
  let d : Dword := clDw cl 0
  let d0 : Dword := d.extractLsb' 62 2 ++ e.kind ++ (0 : BitVec 1) ++ e.shape ++ d.extractLsb' 0 57
  let cl := cl.set 0 d0
  if e.kind = 1 then cl.set 2 (dwordOf e.lo e.hi) else cl

/-- The tile-operand lines of a closure, as virtual lines: at most 512 are staged (R307). -/
def stagingSet (cl : List Dword) : List Nat :=
  ([5, 6, 7, 8].flatMap (fun i =>
    let first := bitsOf (clDw cl i) 63 14
    (List.range (bitsOf (clDw cl i) 13 0)).map (first + ·))).take 512

/-! ### Slot sets (R25, R26) -/

/-- Registers that the groups of a core hold. -/
def regsUsed (k : Core) : Nat := k.groups.foldl (fun n e => n + e.2.a) 0

/-- The grid that a core is bound to. -/
def coreGrid (s : State) (c : Nat) : Option (Nat × Grid) := (coreAt s c).grid.bind (fun g => (gridAt s g).map (g, ·))

/-- The most teams that a core bound to a grid holds at once (R26). -/
def teamLimit (x : Grid) : Nat :=
  let n := max 1 x.team
  min (64 / n) (min (4096 / max 1 x.regs / n) (if x.acc = 0 then 64 else 8 / x.acc))

/-- The first free slot set of a grid's shape on a core, if slots leave room for one more team, of `regs` registers and `tiles` tiles
(R26). A task that a staging fault holds keeps a slot set of its own (R301). -/
def roomFor (k : Core) (x : Grid) (regs tiles : Nat) : Option Nat :=
  let free := fun (b : Nat) => (List.range x.team).all (fun i => (aget k.groups (b + i)).isNone) && (aget k.teams b).isNone
  let bad := (k.staged.filter (·.bad)).length
  if decide (4096 < regsUsed k + regs) || decide (teamLimit x ≤ (k.teams.filter (fun e => decide (e.1 < 64))).length + bad)
      || decide ((freeTiles k).length < tiles) then none
  else ((((List.range (64 / max 1 x.team)).map (· * x.team)).filter free).drop bad).head?

/-- Groups of a context are still to come back from its save area (R355). -/
def restoring (s : State) (p : Nat) : Bool := ((ctxOf s p).map (fun c => c.2.saved.any (fun e => e.2.grid.isNone))).getD false

/-- The slot set that the next task of a core's grid takes (R26): none while the grid is aborted, or its context is being stopped or
restored, or on a core that is corked (R19, R354, R355, R359). -/
def freeTeam (s : State) (c : Nat) : Option Nat :=
  match coreGrid s c with
  | none => none
  | some (_, x) =>
    if (coreAt s c).role ≠ 0 || (coreAt s c).stopReq || x.aborted.isSome || restoring s x.pasid then none
    else roomFor (coreAt s c) x (x.team * x.regs) x.acc

/-! ### Staging (R301, R307) -/

/-- Asks for a line that the core lacks: it enters the fill table and arrives as FILL_RETURN (R195). -/
def requestLine (c : Nat) (s : State) (line : Nat) : State :=
  let k := coreAt s c
  if !missing k line || decide (line ∈ k.fills) || decide (2048 ≤ k.fills.length) then s
  else send (modCore s c (fun k => { k with fills := k.fills ++ [line] })) (sliceAgent (homeSlice line)) c (.fillReturn c line)

/-- A line is asked for by a staging, which counts it (R307, R399). -/
def stageLine (c : Nat) (s : State) (line : Nat) : State :=
  let t := requestLine c s line
  if (coreAt t c).fills.length = (coreAt s c).fills.length then t else coreCtr t c 11 1

/-- The queue unit of a core looks again at its taken tasks within `n` clk. -/
def startWithin (s : State) (c n : Nat) : State :=
  if s.timers.any (fun t => decide (t.2 = .taskStart c) && decide (t.1 ≤ s.clk + n)) then s else after s n (.taskStart c)

/-- The device-physical lines of a closure's staging set: one that is poisoned or does not translate is not staged (R307). -/
def stagingLines (s : State) (c p : Nat) (cl : List Dword) : List Nat × State :=
  (stagingSet cl).foldl (fun (acc : List Nat × State) v =>
    match engineAddrs acc.2 c p (caOf (BitVec.ofNat 50 v)) 1 false .prefetch with
    | (.ok (a :: _), s) =>
      (if !inHbm a || isPoisoned s (a / 128) || decide (a / 128 ∈ acc.1) then acc.1 else acc.1 ++ [a / 128], s)
    | (_, s) => (acc.1, s)) ([], s)

/-- Changes one taken task of a core. -/
def modStaged (s : State) (c : Nat) (x y : Staged) : State :=
  modCore s c (fun k => { k with staged := match k.staged.findIdx? (fun z => decide (z = x)) with
    | some i => k.staged.set i y
    | none => k.staged })

/-- The lines of a task whose closure line has been read are asked for where they are absent, unless the core would then hold more than
1,024 (R307). -/
def holdLines (s : State) (c p : Nat) (x : Staged) : State :=
  let (ls, s) := stagingLines s c p x.cl
  if 1024 < (heldLines (coreAt s c)).length + ls.length then startWithin s c 64
  else send (ls.foldl (stageLine c) (modStaged s c x { x with held := ls, asked := true })) c c (.taskStart c)

/-- A task whose lines are all present becomes staged: they are held for 8,192 clk (R307). -/
def becomeStaged (s : State) (c : Nat) (x : Staged) : State :=
  let s := modStaged s c x { x with deadline := s.clk + 8192 }
  send (after s 8192 (.stageHoldExpiry c x.e.cline.toNat)) c c (.taskStart c)

/-- Reads a staged task's closure line with the checks of R234, in the grid's PASID (R301). A failure holds the task: a recoverable
one in the fault queue, any other aborts the grid; a missing ATS answer waits. -/
def readClosure (s : State) (c : Nat) (x : Staged) : State :=
  match coreGrid s c with
  | none => s
  | some (gn, g) =>
    let (r, s) := engineAddrs s c g.pasid (caOf x.e.cline) 128 false .prefetch
    let fail := fun (s : State) (code addr : Nat) (recov : Bool) =>
      let r : FaultRec := { code := code, cause := 0, wr := false, fetch := false, under := false, recov := recov, src := 3
                            engine := false, core := c, slot := 0, shape := Nat.log2 g.team, gi := 0, lane := 0xFF, pc := 0
                            addr := addr, imm := 0, ctx := gridCtx s gn, time := cycles s (dieOf c), ivec := [], opkind := 0
                            opword := 0 }
      let s := modStaged s c x { x with bad := true }
      if recov then postFault s { rec_ := r, agent := 3, core := c, id := x.e.cline.toNat, pasid := g.pasid }
      else abortGrid (writeFaultSection s g.pasid r) gn code
    match r with
    | .error (.wait _, _) => startWithin s c 1100
    | .error (.held, _) => startWithin s c 4
    | .error (.fault code recov, a) => fail s code a recov
    | .ok pas =>
      let pas := pas.map homePa
      match unitRead s pas with
      | none => startWithin s c 4
      | some s =>
        if (poisonAt s pas).isSome then fail s fcMemUncorrectable (pas.headD 0) false
        else
          let y := { x with cl := overrideCl x.e (dwsOf (natOfBytes (pas.map (memByte s)))) }
          holdLines (modStaged s c x y) c g.pasid y

/-- A taken entry becomes a staged task (R32, R35). -/
def stageEntry (s : State) (c : Nat) (e : DqEntry) : State :=
  let x : Staged := { e := e, cl := [], held := [], deadline := 0, bad := false }
  let s := modCore s c (fun k => { k with staged := k.staged ++ [x] })
  send (readClosure s c x) c c (.taskStart c)

/-! ### Pieces (R311 to R314) -/

/-- A piece's cursor: NEXT and HI, committed. -/
def cursorAt (s : State) (c i : Nat) : Word × Word :=
  let a := 128 * cursorLine c i
  (BitVec.ofNat 32 (memNat s a 4), BitVec.ofNat 32 (memNat s (a + 4) 4))

/-- Sets a piece's cursor. -/
def putCursor (s : State) (c i : Nat) (next hi : Word) : State :=
  memPutNat s (128 * cursorLine c i) 8 (next.toNat + 2 ^ 32 * hi.toNat)

/-- Begins a piece of the range task of closure line `cl` (R311); none where all 64 are taken, for which the start waits (log 110). -/
def newPiece (s : State) (c grid : Nat) (ca : Dword) (cl : List Dword) (n : Nat) : Option (Nat × State) :=
  let p : Piece := { ca := ca, result := clDw cl 1, grid := grid, groups := n, kept := false, cl := cl }
  (freshKey (coreAt s c).pieces 64 0).map (fun i =>
    (i, putCursor (modCore s c (fun k => { k with pieces := aset k.pieces i p })) c i (clLo cl) (clHi cl)))

/-- The last group of a piece ends (R313): the remaining range returns to the hot end, or stays in the item queue where the deque is
full; a piece with none left ends and GLIVE falls. -/
def pieceEnd (s : State) (c i : Nat) : State :=
  match aget (coreAt s c).pieces i with
  | none => s
  | some p =>
    let (next, hi) := cursorAt s c i
    let drop := fun (s : State) => modCore s c (fun k => { k with pieces := adel k.pieces i })
    if next.toNat < hi.toNat then
      let x := coreGrid s c
      let shape := (x.map (fun g => Nat.log2 g.2.team)).getD 0
      let e : DqEntry := { cline := clineOf p.ca, shape := BitVec.ofNat 2 shape, kind := 1, stg := false, clm := false
                           lo := next, hi := hi, result := 0 }
      if dequeRoom (coreAt s c) then pushCommit (drop s) c e
      else kick (modCore s c (fun k => { k with pieces := aset k.pieces i { p with groups := 0, kept := true } })) c
    else gliveDone (drop s) p.grid

/-! ### Task start (R97, R100) -/

/-- The registers of a group at a task's start: the state of R97 with k loaded from the closure line (R100). -/
def startRegs (ca : Dword) (cl : List Dword) (icall : Bool) : GRegs :=
  let ks := [ca, clDw cl 1] ++ (List.range 6).map (fun i => clDw cl (10 + i))
  let kv := (List.range 16).map (fun i => (i, if i % 2 = 0 then loWord (ks.getD (i / 2) 0) else hiWord (ks.getD (i / 2) 0)))
  { freshRegs (clEntry cl) icall with k := ssetAll 0 [] kv }

/-- The base of a slot's return stack (R153). -/
def stackBase (s : State) (x : Grid) (c slot : Nat) : Nat :=
  match ctxOf s x.pasid with
  | none => 0
  | some (_, k) => k.stack + c * (k.stksz / 256) + slot * x.rsl * 128

/-- Starts a task on the free slot set `b` (R32, R97); `held` are the lines that it holds from its staging until clk `heldEnd`. -/
def startTeam (s : State) (c gn : Nat) (x : Grid) (b : Nat) (ca : Dword) (cl : List Dword) (piece : Option Nat) (held : List Nat)
    (heldEnd : Nat) : State :=
  let own := clDw cl 1
  let task : Task := { ca := ca, own := own, kind := clKind cl, piece := piece, cont := false, call := none }
  let s := (grantTiles (setTeam s c b { size := x.team, grid := some gn, tasks := [task], held := held, heldEnd := heldEnd }) c b x.acc).2
  (List.range x.team).foldl (fun s i =>
    setGroup { s with uids := s.uids + 1 } c (b + i)
      { r := startRegs ca cl false, a := x.regs, gi := i, team := b, pasid := x.pasid, grid := some gn
        rsbase := stackBase s x c (b + i), rsl := x.rsl, uid := s.uids }) s

/-- A piece kept in the item queue runs on the next free slot set before any pop, from the closure line that its task has read (R301,
R313). -/
def startKept (s : State) (c : Nat) : Option State :=
  match coreGrid s c, freeTeam s c, (coreAt s c).pieces.find? (fun e => e.2.kept) with
  | some (gn, x), some b, some (i, p) =>
    let s := modCore s c (fun k => { k with pieces := aset k.pieces i { p with kept := false, groups := x.team } })
    some (startTeam s c gn x b p.ca p.cl (some i) [] 0)
  | _, _, _ => none

/-- A taken task goes on with its staging: its closure line is read, its lines are asked for, and with all of them present it is staged (R35,
R301, R307). -/
def stageStep (c p : Nat) (s : State) (x : Staged) : State :=
  if x.bad || x.deadline ≠ 0 then s
  else if x.cl.isEmpty then readClosure s c x
  else if !x.asked then holdLines s c p x
  else if x.held.any (missing (coreAt s c)) then x.held.foldl (stageLine c) s
  else becomeStaged s c x

/-- The first staged task starts on a free slot set (R32, R97, R311). -/
def startFirst (s : State) (c gn : Nat) (g : Grid) : State :=
  match (coreAt s c).staged.find? (fun x => !x.bad && x.deadline ≠ 0), freeTeam s c with
  | some x, some b =>
    let ca := caOf x.e.cline
    let start := fun (s : State) (piece : Option Nat) =>
      let s := modCore s c (fun k => { k with staged := k.staged.erase x })
      kick (startTeam s c gn g b ca x.cl piece x.held x.deadline) c
    if x.e.kind = 1 then
      match newPiece s c gn ca x.cl g.team with
      | none => s
      | some (i, s) => start s (some i)
    else start s none
  | _, _ => s

/-- TASK_START: a kept piece, else the first staged task, starts on a free slot set; the taken tasks go on with their staging, one for itself
(R32, R35, R97, R311). A core whose context is being stopped starts and stages nothing (R354). -/
def startStaged (s : State) (c : Nat) : State :=
  if (coreAt s c).stopReq || (coreAt s c).role ≠ 0 then s
  else match startKept s c with
  | some s => kick s c
  | none =>
    match coreGrid s c with
    | none => s
    | some (gn, g) => startFirst ((coreAt s c).staged.foldl (stageStep c g.pasid) s) c gn g

/-- The owner's pop: the newest unclaimed entry leaves the hot end when a slot set is free and no staged task waits (R305). A core without an
entry and with a slot set free is idle and looks for a victim (R37, R38). -/
def popDeque (s : State) (c : Nat) : State :=
  let k := coreAt s c
  if (freeTeam s c).isNone then s
  else if k.deque.isEmpty then
    if !k.steal.out && !(s.timers.any (fun t => decide (t.2 = .stealTry c))) then after s 4 (.stealTry c) else s
  else if k.staged.any (fun x => !x.bad) || k.pieces.any (fun e => e.2.kept) then s
  else
    match (k.deque.reverse).find? (fun e => !e.clm) with
    | some e =>
      if dqBusy s c 3 then after s 1 (.ownerPop c)
      else
        let i := k.deque.length - 1 - (k.deque.reverse.findIdx (fun e => !e.clm))
        stageEntry (leftDeque (dqDone (modCore s c (fun k => { k with deque := k.deque.eraseIdx i })) c 3) c) c e
    | none => s

/-- OWNER_POP: the deque unit's operations that wait, in the order of R305. -/
def ownerPopCore (s : State) (c : Nat) : State := drainRemoval (popDeque (drainReady (drainPush s c) c) c) c

/-! ### Frames of the return stack (R155) -/

/-- The bytes of a frame or record of a group: kind 1 or 2, the mask and PCs to record, Dest. -/
def frameBytes (g : Group) (kind dest : Nat) (mask : Word) (pcs : Nat → PC) : List Byte :=
  let r := g.r
  bytesOf 8 (2 ^ 60 * kind) ++ bytesOf 4 mask.toNat ++ bytesOf 4 r.wb ++ bytesOf 4 g.a ++ bytesOf 4 r.cys.toNat
    ++ bytesOf 4 (sfWord g).toNat ++ bytesOf 4 dest ++ (List.range 12).flatMap (fun i => bytesOf 4 (sget 0 r.m i).toNat)
    ++ bytesOf 4 r.rsp ++ bytesOf 8 g.rsbase ++ bytesOf 36 0
    ++ (List.range 16).flatMap (fun i => bytesOf 4 (sget 0 r.k i).toNat) ++ bytesOf 64 0
    ++ allLanes.flatMap (fun t => bytesOf 8 (pcs t).toNat)
    ++ allLanes.flatMap (fun t => bytesOf 4 (sget 0xFFFFFFFF r.it t).toNat)
    ++ (List.range g.a).flatMap (fun j => allLanes.flatMap (fun t => bytesOf 4 (sget 0 r.v (32 * j + t)).toNat))

/-- What a frame or record restores (R98, R176): registers, allocation, and the return-stack pointer that the header holds. `rd` reads
`n` bytes at an offset from the header. -/
def frameRegs (rd : Nat → Nat → Nat) (old : GRegs) : GRegs × Nat :=
  let a := rd 16 4
  let sf : Word := BitVec.ofNat 32 (rd 24 4)
  let mask : Word := BitVec.ofNat 32 (rd 8 4)
  ({ old with
      v := ssetAll 0 [] ((List.range (32 * a)).map (fun i => (i, BitVec.ofNat 32 (rd (640 + 4 * i) 4))))
      k := ssetAll 0 [] ((List.range 16).map (fun i => (i, BitVec.ofNat 32 (rd (128 + 4 * i) 4))))
      m := ssetAll 0 [] ((List.range 12).map (fun i => (i, BitVec.ofNat 32 (rd (32 + 4 * i) 4))))
      wb := rd 12 4
      cys := BitVec.ofNat 32 (rd 20 4)
      eod := sf.extractLsb' 0 16
      rst := sf.getLsbD 16
      icall := sf.getLsbD 17
      it := ssetAll 0xFFFFFFFF [] (allLanes.map (fun t => (t, BitVec.ofNat 32 (rd (512 + 4 * t) 4))))
      pc := ssetAll 0 [] (allLanes.map (fun t => (t, BitVec.ofNat 57 (rd (256 + 8 * t) 8))))
      thr := ssetAll .run [] ((allLanes.filter (fun t => !mask.getLsbD t)).map (·, .exited))
      rsp := rd 80 4 }, a)

/-- The entries of a return stack from the bottom: line and kind of each, `rd` reading `n` bytes at a byte offset (R155). -/
def stackEntries (rd : Nat → Nat → Nat) : Nat → Nat → Nat → List (Nat × Nat)
  | 0, _, _ => []
  | fuel + 1, line, rsp =>
    if rsp ≤ line then []
    else
      let kind := rd (128 * line) 8 / 2 ^ 60 % 4
      let len := if kind = 0 then 1 else rd (128 * line + 16) 4 + 5
      (line, kind) :: stackEntries rd fuel (line + len) rsp

/-- The line of the newest inline-call frame of a return stack. -/
def topFrame (rd : Nat → Nat → Nat) (rsp : Nat) : Option Nat :=
  (((stackEntries rd (rsp + 1) 0 rsp).filter (fun e => e.2 == 1)).getLast?).map (·.1)

/-! ### Inline calls (R158, R317 to R319) -/

/-- A group's own part of an inline call: the child's registers over the advanced return stack (R97, R98). Streams stay as they stand;
channels are unbound; a team of more than one starts with its named counts and records set aside (R319, R398). -/
def childGroup (g : Group) (ca : Dword) (cl : List Dword) (solo : Bool) (uid : Nat) : Group :=
  let r := startRegs ca cl true
  { g with
    r := { r with
      rsp := g.r.rsp + g.a + 5, streams := g.r.streams, seq := g.r.seq
      acnt := if solo then g.r.acnt else g.r.acnt.filter (fun e => decide (16 ≤ e.1))
      pfb := if solo then g.r.pfb else 0
      accOwn := g.r.accOwn, accGone := g.r.accGone }
    recs := if solo then g.recs else g.recs.filter (fun e => decide (16 ≤ e.1))
    uid := uid, ended := false, query := [], watch := [], grpWait := none, irr := false, reirr := false }

/-- What an inline call sets aside of a member. -/
def keptOf (g : Group) : Kept :=
  { recs := g.recs, acnt := g.r.acnt, pfb := g.r.pfb, sealed := g.r.sealed, chans := g.r.chans, uid := g.uid }

/-- The resume point of each lane that a member's frame records: the issuing group's executing threads continue after their
instruction. -/
def framePc (g : Group) (i : CallInfo) (t : Nat) : PC :=
  if g.gi = i.gi ∧ t ∈ i.lanes then i.pc + 4 else sget 0 g.r.pc t

/-- Writes a member's frame and starts the child on it. -/
def enterChild (c : Nat) (p : PendCall) (solo : Bool) (s : State) (slot : Nat) : State :=
  match groupAt s c slot with
  | none => s
  | some g =>
    let dest := if g.gi = p.info.gi then p.info.d.toNat else 0
    let s := memPut s (bytesAt (g.rsbase + 128 * g.r.rsp) (frameBytes g 1 dest (maskOf (liveLanes g)) (framePc g p.info)))
    setGroup { s with uids := s.uids + 1 } c slot (childGroup g p.ca p.cl solo s.uids)

/-- Starts the team's pending call once its dependencies are satisfied and every member is quiet. A frame that does not fit in some
member faults CALLSTACK_OVERFLOW at the issuing instruction (R158, R319). -/
def startCall (s : State) (c team : Nat) : State :=
  let t := teamAt s c team
  match t.call with
  | none => s
  | some p =>
    let members := (teamSlots s c team).filterMap (fun i => (groupAt s c i).map (i, ·))
    let flying := s.net.any (fun m => match m.ev with
      | .barrierArrival (.named c' t' _) _ => c' == c && t' == team
      | .pendingLinePresent (.named c' t' _) => c' == c && t' == team
      | _ => false)
    if flying ∨ p.deps ≠ 0 ∨ members.any (fun m => !quiet m.2 || m.2.stop.isSome) then s
    else if members.any (fun m => decide (m.2.rsl < m.2.r.rsp + m.2.a + 5)) then
      match members.find? (fun m => m.2.gi == p.info.gi) with
      | none => s
      | some (i, _) => stopGroup (modGroup s c i reissue) c i p.info.pc { code := fcCallstackOverflow, lane := 0xFF } (ckstatWord (((groupAt s c i)).getD {}))
    else
      let kind := clKind p.cl
      let start := fun (s : State) (piece : Option Nat) =>
        let task : Task := { ca := p.ca, own := clDw p.cl 1, kind := kind, piece := piece, cont := false
                             call := some p.info, members := some members.length }
        let lvl : BarLevel := { bars := t.bars, kept := members.map (fun m => keptOf m.2), parts := t.parts }
        let s := members.foldl (fun s m => modGroup s c m.1 (fun g => { g with
          r := { g.r with thr := g.r.thr.filter (fun e => decide (e.2 = .exited)) } })) s
        let s := members.foldl (fun s m => enterChild c p (t.size == 1) s m.1) s
        coreCtr (modTeam s c team (fun t => { t with call := none, tasks := task :: t.tasks, levels := lvl :: t.levels, parts := []
                                                     bars := if t.size = 1 then t.bars else [] })) c 10 1
      if kind = 1 then
        match newPiece s c (t.grid.getD 0) p.ca p.cl members.length with
        | none => s
        | some (i, s) => start s (some i)
      else start s none

/-- Restores one member from its newest frame; one that was in irrevocable mode enters it again before its first issue (R98, R158, R319). -/
def leaveChild (c : Nat) (solo : Bool) (s : State) (m : Nat × Kept) : State :=
  match groupAt s c m.1 with
  | none => s
  | some g =>
    let rd := fun (o n : Nat) => memNat s (g.rsbase + o) n
    match topFrame rd g.r.rsp with
    | none => s
    | some line =>
      let (r, a) := frameRegs (fun o n => rd (128 * line + o) n) g.r
      let irr := (rd (128 * line + 24) 4).testBit 18
      let r := { r with rsp := line, sealed := m.2.sealed, chans := m.2.chans
                        acnt := if solo then r.acnt else m.2.acnt.filter (fun e => e.1 < 16) ++ r.acnt.filter (fun e => decide (16 ≤ e.1))
                        pfb := if solo then r.pfb else m.2.pfb }
      setGroup s c m.1 { g with r := r, a := a, uid := m.2.uid, ended := false, irr := false, reirr := irr
                                recs := if solo then g.recs else m.2.recs.filter (fun e => e.1 < 16) ++ g.recs.filter (fun e => decide (16 ≤ e.1)) }

/-- The child of an inline call has ended: every member restores its frame, the barrier level returns, and the issuing group continues
with d written: dw1 for a SPAWN, the value for a JOIN. A JOIN whose future is still open parks, and one whose future has been freed meanwhile
finds it stale (R158, R318, R319). -/
def returnCall (s : State) (c team : Nat) (tk : Task) (info : CallInfo) (joinState : Nat × Dword) : State :=
  let t := teamAt s c team
  let lvl := (t.levels.head?).getD { bars := [], kept := [] }
  let solo := t.size == 1
  let s := (((teamSlots s c team).filter (fun i => (groupAt s c i).isSome)).zip lvl.kept).foldl (leaveChild c solo) s
  let s := modTeam s c team (fun t => { t with tasks := t.tasks.drop 1, levels := t.levels.drop 1, parts := lvl.parts
                                               bars := if solo then t.bars else lvl.bars })
  let slot := team + info.gi
  let put := fun (s : State) (v : Dword) => modGroup s c slot (fun g => { g with r := writePairR g.r info.d info.lanes [] (fun _ => v) })
  match info.joinH with
  | none => put s tk.own
  | some h =>
    let park := fun (s : State) => modGroup s c slot (fun g =>
      { g with r := setPcs (setThr g.r info.lanes (.join h info.d)) (info.lanes.map (·, info.pc)) })
    match joinState with
    | (1, v) => freeAt (put s v) h
    | (0, _) => send (park s) c (hHome h) (.fwait c slot h)
    | _ => send (park s) c c (.wake c slot h true 0)

/-- The value of a task: that of the TEND of the lowest group index, else 0 (R321). -/
def taskValue (parts : List (Nat × Option Dword)) : Dword :=
  let vs := parts.filterMap (fun p => p.2.map (p.1, ·))
  match vs.find? (fun v => vs.all (fun w => decide (v.1 ≤ w.1))) with
  | some v => v.2
  | none => 0

/-- The last part of a task has ended (R321). -/
def taskEnd (s : State) (c team : Nat) : State :=
  let t := teamAt s c team
  match t.tasks with
  | [] => s
  | tk :: _ =>
    let ctx := (t.grid.map (gridCtx s)).getD 0
    let v := taskValue t.parts
    let local_ := (tk.call.bind (·.joinH)).isSome && hHome tk.own == c
    let before := futState s ctx tk.own
    let s := match tk.piece with
      | some i => pieceEnd s c i
      | none =>
        let s := if tk.cont then s else resolveFrom s c ctx tk.own v
        (t.grid.map (gliveDone s)).getD s
    match tk.call with
    | some info =>
      let js : Nat × Dword :=
        if !local_ then (0, 0)
        else if before.1 = 0 then (if tk.cont then (0, 0) else (1, v))
        else before
      returnCall s c team tk info js
    | none => closeTeam (dropUnarrived (modTeam s c team (fun t => { t with tasks := [], parts := [] })) c team) c team

/-- A group's part of its task ends at the commit of its last chunk (R148, R321): slot and registers are released, unless the task runs
as a call. -/
def groupEnd (s : State) (c slot : Nat) (tend : Option Dword) : State :=
  match groupAt s c slot with
  | none => s
  | some g =>
    let t := teamAt s c g.team
    let called := ((t.tasks.head?).bind (·.call)).isSome
    let s := if called then modGroup s c slot (fun g => { g with ended := true, irr := false }) else freeSlot s c slot
    let s := modTeam s c g.team (fun t => { t with parts := t.parts ++ [(g.gi, tend)] })
    if t.parts.length + 1 = ((t.tasks.head?).bind (·.members)).getD t.size then taskEnd s c g.team else s

end Sys2Proof.Machine
end

