-- ==== Sys2Proof/Machine/CopyDesc.lean ====
section
/-! DEFINITION. Sys2Proof/Machine/CopyDesc.lean: copy descriptors: their fields and checks (R262, R264), and the iteration that they ask for (R263,
R265). -/

namespace Sys2Proof.Machine

/-! ### CPY descriptors (R262) -/

def cpyEsz (ds : List Dword) : Nat := bitsOf (clDw ds 2) 2 0
def cpySscr (ds : List Dword) : Bool := (clDw ds 2).getLsbD 3
def cpyDscr (ds : List Dword) : Bool := (clDw ds 2).getLsbD 4
def cpyNd (ds : List Dword) : Nat := bitsOf (clDw ds 2) 7 5
def cpyOp (ds : List Dword) : Nat := bitsOf (clDw ds 2) 9 8
def cpyKind (ds : List Dword) : Nat := bitsOf (clDw ds 2) 63 62
def cpyDone (ds : List Dword) : Dword := clDw ds 3
def cpyDep (ds : List Dword) : Dword := clDw ds 15

/-- The count of dimension `i`; 1 above ND. -/
def cpyCnt (ds : List Dword) (i : Nat) : Nat := if i ≤ cpyNd ds then bitsOf (clDw ds (4 + i)) 31 0 else 1

/-- The source and destination strides of dimension `i`, signed. -/
def cpySst (ds : List Dword) (i : Nat) : Int := (loWord (clDw ds (9 + i))).toInt
def cpyDst (ds : List Dword) (i : Nat) : Int := (hiWord (clDw ds (9 + i))).toInt

/-- The descriptor keeps every rule of R262. -/
def cpyLegal (ds : List Dword) : Bool :=
  cpyKind ds == 0 && decide (bitsOf (clDw ds 2) 61 10 = 0) && decide (cpyEsz ds ≤ 4) && decide (cpyNd ds ≤ 4) && decide (cpyOp ds ≤ 1)
    && (!cpySscr ds || decide (bitsOf (clDw ds 0) 63 32 = 0)) && (!cpyDscr ds || decide (bitsOf (clDw ds 1) 63 32 = 0))
    && (List.range 5).all (fun i => decide (bitsOf (clDw ds (4 + i)) 63 32 = 0)
      && (if i ≤ cpyNd ds then decide (1 ≤ bitsOf (clDw ds (4 + i)) 31 0)
          else decide (clDw ds (4 + i) = 0) && decide (clDw ds (9 + i) = 0)))

/-! ### TCPY descriptors (R264) -/

def tcpSfmt (ds : List Dword) : Nat := bitsOf (clDw ds 2) 2 0
def tcpLay (ds : List Dword) : Nat := bitsOf (clDw ds 2) 4 3
def tcpTag (ds : List Dword) : Nat := bitsOf (clDw ds 2) 6 5
def tcpTrn (ds : List Dword) : Bool := (clDw ds 2).getLsbD 7
def tcpRnd (ds : List Dword) : Nat := bitsOf (clDw ds 2) 10 8
def tcpSat (ds : List Dword) : Bool := (clDw ds 2).getLsbD 11
def tcpRows (ds : List Dword) : Nat := if (clDw ds 2).getLsbD 12 then 128 else 96
def tcpVrow (ds : List Dword) : Nat := bitsOf (clDw ds 4) 15 0
def tcpVk (ds : List Dword) : Nat := bitsOf (clDw ds 4) 31 16
def tcpTk (ds : List Dword) : Nat := bitsOf (clDw ds 4) 47 32

/-- Outer dimension `j` (0 to 2, for dimensions 2 to 4): its count (0 is unused), strides. -/
def tcpCount (ds : List Dword) (j : Nat) : Nat := bitsOf (clDw ds (9 + j)) 15 0
def tcpOdst (ds : List Dword) (j : Nat) : Nat := bitsOf (clDw ds (9 + j)) 31 16
def tcpOsrc (ds : List Dword) (j : Nat) : Int := (hiWord (clDw ds (9 + j))).toInt
def tcpOscl (ds : List Dword) (j : Nat) : Int := (loWord (clDw ds (12 + j))).toInt

/-- Legal pairs of layout and source format; an 8-bit source equals the tag. -/
def tcpPair (lay sfmt tag : Nat) : Bool :=
  if lay = 0 then decide (sfmt ≤ 2 ∧ sfmt = tag) || sfmt == 5
  else if lay = 1 then (sfmt == 3 || sfmt == 4 || sfmt == 5) && tag == 0
  else lay == 2 && sfmt == 6 && tag == 0

/-- The descriptor keeps every rule of R264. -/
def tcpyLegal (ds : List Dword) : Bool :=
  cpyKind ds == 1 && decide (bitsOf (clDw ds 2) 61 13 = 0) && decide (tcpLay ds ≤ 2) && decide (tcpTag ds ≤ 2) && decide (tcpRnd ds ≤ 4)
    && tcpPair (tcpLay ds) (tcpSfmt ds) (tcpTag ds)
    && decide (bitsOf (clDw ds 1) 63 32 = 0) && decide ((clDw ds 1).toNat % 128 = 0)
    && decide (bitsOf (clDw ds 4) 63 48 = 0) && decide (tcpTk ds % 32 = 0) && decide (32 ≤ tcpTk ds) && decide (tcpTk ds ≤ 1024)
    && decide (tcpVrow ds ≤ tcpRows ds) && decide (tcpVk ds ≤ tcpTk ds)
    && (tcpLay ds == 2 || decide (clDw ds 8 = 0))
    && (List.range 3).all (fun j => decide (tcpOdst ds j ≤ 2047) && decide (bitsOf (clDw ds (12 + j)) 63 32 = 0)
      && (decide (tcpCount ds j ≠ 0) || (List.range 3).all (fun i => decide (i ≤ j) || decide (tcpCount ds i = 0))))

/-! ### The iteration (R263, R265) -/

/-- The iteration vector of a position in a descriptor's iteration (R263, R265, R389). -/
def vecOf : List Nat → Nat → List Nat
  | [], _ => []
  | n :: r, p => p % max 1 n :: vecOf r (p / max 1 n)

/-- The counts of a descriptor's iteration, innermost first: dimensions of a CPY, or (kk, r, i2, i3, i4) of a TCPY. -/
def copyCounts (ds : List Dword) : List Nat :=
  if cpyKind ds = 0 then (List.range 5).map (cpyCnt ds)
  else [tcpTk ds, tcpRows ds, max 1 (tcpCount ds 0), max 1 (tcpCount ds 1), max 1 (tcpCount ds 2)]

end Sys2Proof.Machine
end

