-- ==== Sys2Proof/Machine/Barriers.lean ====
section
/-! DEFINITION. Sys2Proof/Machine/Barriers.lean: barrier objects (R408 to R412, R414), group counters (R398), and multicast groups
(R416, R419). -/

namespace Sys2Proof.Machine

/-! ### Group counters (R398) -/

/-- The participant count of barrier `i` that a group's arrivals carry; its task-start value where none has been set. -/
def acntOf (s : State) (c slot i : Nat) : BitVec 15 :=
  match groupAt s c slot with
  | none => 0
  | some g =>
    match aget g.r.acnt i with
    | some v => v
    | none =>
      let n := (teamAt s c g.team).size
      if i < 16 then BitVec.ofNat 15 n
      else if i = 16 then
        match g.grid.bind (gridAt s) with
        | some x => BitVec.ofNat 15 (n * x.w * x.h)
        | none => BitVec.ofNat 15 n
      else 0

/-! ### Objects (R408) -/

def barId : BarRef → Nat
  | .named _ _ i => i
  | .cluster _ => 16
  | .gang _ => 17

/-- A barrier object; idle with GEN 0 where none has been made. -/
def barObj (s : State) : BarRef → BarObj
  | .named c t i => (aget (teamAt s c t).bars i).getD {}
  | .cluster cl => ((aget s.clusters cl).map (·.bar)).getD {}
  | .gang g => ((gridAt s g).map (·.gangBar)).getD {}

/-- Replaces a barrier object. -/
def putBar (s : State) (b : BarRef) (x : BarObj) : State :=
  match b with
  | .named c t i => modTeam s c t (fun t => { t with bars := aset t.bars i x })
  | .cluster cl => modCluster s cl (fun k => { k with bar := x })
  | .gang g => modGrid s g (fun k => { k with gangBar := x })

/-- The cores of a partition (R18). -/
def partitionCores (p : Nat) : List Nat := (List.range 32).map (64 * (p / 2) + 32 * (p % 2) + ·)

/-- Where a barrier object is held (R408). -/
def barHome (s : State) : BarRef → Nat
  | .named c _ _ => c
  | .cluster cl => cl
  | .gang g =>
    match gridAt s g with
    | none => 0
    | some x =>
      let p := ((List.range 8).find? (fun i => x.parts.getLsbD i)).getD 0
      ((partitionCores p).find? (isCompute s)).getD (32 * p)

/-- The barrier object that a selector id names for a group (17 is the gang's). -/
def barOf (s : State) (c slot i : Nat) : BarRef :=
  let g := (groupAt s c slot).getD {}
  if i < 16 then .named c g.team i
  else if i = 16 then .cluster (coreAt s c).cluster
  else .gang (g.grid.getD 0)

/-- Combines a partial (R411). -/
def barCombine (op : BitVec 2) (x y : Word) : Word :=
  if op = 0 then x &&& y else if op = 1 then x ||| y else x + y

/-- Where a reduction is performed (R255): at its core's array, the cluster unit of its core, the home slice of its line, or the port that
takes it beyond the package. Agents: a core, 256 + a cluster's number, a slice, 9000. -/
def redPlace (s : State) (r : Red) : Nat :=
  if beyond r.pa then 9000
  else if r.scope ≤ 3 then r.core
  else if r.scope = 4 then 256 + (coreAt s r.core).cluster
  else sliceAgent (homeSlice (r.pa / 128))

/-- The scope of a barrier contains the place of execution of a reduction by a participant (R227): a named one contains the arrays of the
team's core, the cluster's one also its cluster unit, the gang's one the package. -/
def barCovers (b : BarRef) (r : Red) : Bool :=
  !beyond r.pa && (match b with
    | .named _ _ _ => decide (r.scope ≤ 3)
    | .cluster _ => decide (r.scope ≤ 4)
    | .gang _ => true)

/-- What a release still waits for besides its arrivals (R227, R411, R412): pending lines, and the reductions and multicast packets that its
participants released before they arrived. -/
def barBusy (s : State) (b : BarRef) (x : BarObj) : Bool :=
  let before := fun (c slot id : Nat) => x.waits.any (fun w => w.1 == c && w.2.1 == slot && decide (id < w.2.2))
  decide (x.pending ≠ 0) || s.reds.any (fun r => barCovers b r && before r.core r.slot r.id)
    || s.net.any (fun m => match m.ev with
        | .mcstDelivery p => before m.src p.slot p.id
        | _ => false)

/-- All N arrivals have come. -/
def barFull (x : BarObj) : Bool := x.open_ && x.fixed && decide (x.arrived.length = x.n)

/-- The result of a released generation goes to an arriving group's record (R411). -/
def deliverRelease (i : Nat) (x : BarObj) (s : State) (a : Nat × Nat) : State :=
  match groupAt s a.1 a.2 with
  | none => s
  | some g =>
    match aget g.recs i with
    | none => s
    | some rc =>
      modGroup s a.1 a.2 (fun g => { g with recs := aset g.recs i { rc with res := some x.part, gen := x.gen } })

/-- Lanes of a group that wait in BAR, BARWT or GBAR on barrier `i`, with their destinations. -/
def barWaiters (r : GRegs) (i : Nat) : List (Nat × Code) :=
  allLanes.filterMap (fun t => match sget .run r.thr t with
    | .bar j d => if j = i then some (t, d) else none
    | _ => none)

/-- Lets the waiting threads of a group continue with the result of their barrier record: d takes it at the start of the following
chunk, and they continue at their instruction's address + 4 (R413). Where d is a port they issue the instruction again instead, which
finds its record released. Answers whether the record is consumed. -/
def consumeRecord (i : Nat) (r : GRegs) (v : Word) : GRegs × Bool :=
  match barWaiters r i with
  | [] => (r, false)
  | (t0, d) :: ws =>
    let ls := t0 :: ws.map (·.1)
    if 112 ≤ d.toNat ∧ d.toNat ≤ 117 then (setThr r ls .run, false)
    else (setPcs (setThr (writeVK r d ls [] (fun _ => v)) ls .run) (ls.map (fun t => (t, sget 0 r.pc t + 4))), true)

/-! ### Multicast ids (R416, R417) -/

/-- The word of a multicast id in its key line: bit 12 set while open, with KIND at [5:4], ROP at [7:6] and MEM at [31:20]. -/
def mcstKind (w : Word) : Nat := (w.extractLsb' 4 2).toNat
def mcstRop (w : Word) : BitVec 2 := w.extractLsb' 6 2
def mcstOpen (w : Word) : Bool := w.getLsbD 12
def mcstMem (w : Word) : BitVec 12 := w.extractLsb' 20 12
def mcstWord (kind : Nat) (rop : BitVec 2) (mem : BitVec 12) : Word :=
  BitVec.ofNat 32 (2 ^ 4 * kind + 2 ^ 6 * rop.toNat + 2 ^ 12 + 2 ^ 20 * mem.toNat)

/-- The packets that an MCST of a member sends at its commit (R419), with its line's bytes: to every other member of a multicast, or to the root of
a reduction. -/
def mcstPackets (s : State) (c slot gid off : Nat) (w : Word) (own : List (Option Byte)) : List (Nat × McstPacket) :=
  let k := coreAt s c
  let members := ((aget s.clusters k.cluster).map (·.members)).getD []
  let inMem := (List.range 12).filter (fun i => (mcstMem w).getLsbD i)
  let bytes := own.map (·.getD 0)
  let one := fun (i : Nat) (rop : Option (BitVec 2)) =>
    (members[i]?).map (fun t => (t, ({ cl := k.cluster, gid := gid, target := t, off := off, rop := rop, bytes := bytes, slot := slot, id := s.uids } : McstPacket)))
  if mcstKind w = 0 then (inMem.filter (fun i => decide (i ≠ k.cidx))).filterMap (one · none)
  else match inMem with
    | [] => []
    | root :: _ => if root = k.cidx then [] else ((one root (some (mcstRop w))).map ([·])).getD []

end Sys2Proof.Machine
end

