-- ==== Sys2Proof/Machine/Commit.lean ====
section
/-! DEFINITION. Sys2Proof/Machine/Commit.lean: the end of a chunk (R161, R215), its commit locally or through the Press (R218 to R222),
the release of its deferred effects (R41), and the wakes of waiting threads. -/

namespace Sys2Proof.Machine

/-! ### The end of a chunk -/

/-- Ends the open chunk of a group, if it has begun (R161). -/
def closeChunk (s : State) (c slot : Nat) : State :=
  modGroup s c slot (fun g =>
    if g.open_.slots = 0 then g
    else { g with done := g.done ++ [{ g.open_ with phase := 0 }], open_ := {}, pri := false, sq := 0, awaited := false })

/-- A group that is quiet does what was kept for its next chunk boundary (R164, R185, R354, R359, R458): it stops, or its core's
firmware restarts once every group of the core is quiet. -/
def atBoundaryDo (s : State) (c slot : Nat) : State :=
  match groupAt s c slot with
  | none => s
  | some g =>
    if !quiet g then s
    else
      match g.atEnd with
      | none => s
      | some x =>
        if x = 3 then
          if (coreAt s c).groups.all (fun e => quiet e.2) then
            startFmode (modCore s c (fun k => { k with groups := [], teams := [] })) c (restartEntry s)
          else s
        else
          let s := modGroup s c slot (fun g => { g with stop := some (g.stop.getD { kind := 1, skid := skidOf g, cks := ckstatWord g }), haltLeft := none, atEnd := none, replay := none, epi := [] })
          let s := settle s c g.team
          let s := if (coreAt s c).stopReq && (coreAt s c).groups.all (fun e => quiet e.2 && e.2.stop.isSome) then
              send s c c (.stopAck c 0) else s
          match g.grid with
          | none => s
          | some n => abortCheck s n

/-! ### Registrations and objects that effects reach -/

/-- A store of a committing chunk beyond the package takes its place in the order of such stores, before any line of the chunk shows, so that what
follows the chunk in the package order follows it there too (R229; log 34). -/
def enterExt (c slot uid : Nat) (rel : Bool) (s : State) (bytes : List (Nat × Byte)) : State :=
  { s with uids := s.uids + 1
           extPend := s.extPend ++ [{ core := c, slot := slot, uid := uid, bytes := bytes, rel := rel, out := false, id := s.uids }] }

/-- The chunk's stores beyond the package take their places. -/
def enterExts (c slot uid : Nat) (s : State) (e : Effect) : State :=
  match e with
  | .ext atoms rel => atoms.foldl (enterExt c slot uid rel) s
  | _ => s

/-- The commit of the chunk is complete: its next store beyond the package leaves for the target, which performs it and acknowledges it
(R231). -/
def sendExt (c slot : Nat) (s : State) : State :=
  let i := 64 * c + slot
  let p := s.extPend.findIdx (fun w => w.core == c && w.slot == slot && !w.out)
  send { s with extPend := s.extPend.mapIdx (fun j w => if j = p then { w with out := true } else w)
                extOut := sset 0 s.extOut i (sget 0 s.extOut i + 1) } 9000 c (.targetAcknowledgement c slot)

/-- A committed reduction leaves for the place that performs it (R227, R255). -/
def sendRed (s : State) (r : Red) : State :=
  let r := { r with id := s.uids }
  send { s with uids := s.uids + 1, reds := s.reds ++ [r] } r.core (redPlace s r) (.redPerform r)

/-- The waiting thread's group arrives at barrier `i`: what its copies have landed and its threads have waited for is published by that
barrier's release (R228). -/
def markFresh (s : State) (c base i : Nat) : State :=
  let mark := fun (f : Fresh) => if f.base = base ∧ f.seen ∧ i ∉ f.bars then { f with bars := i :: f.bars } else f
  let one := fun (e : Nat × List Fresh) => (e.1, e.2.map mark)
  ((((aget s.clusters (coreAt s c).cluster).map (·.members)).getD []) ++ [c]).dedup.foldl (fun s m =>
    if (coreAt s m).fresh.isEmpty then s else modCore s m (fun k => { k with fresh := k.fresh.map one })) s

/-- A copy of a committed chunk enters the copy table and starts, or waits for its dependency (R223, R308). -/
def enterCopy (s : State) (x : Copy) : State :=
  let id := (freshKey s.copies (s.copies.length + 1) 0).getD s.copies.length
  let s := { s with copies := aset s.copies id x }
  let dep := x.desc.getD 15 0
  if x.count = 0 then send s (engineAgent x.die) (engineAgent x.die) (.copyStart id)
  else sendFreg s { core := x.core, isCopy := true, idx := id } dep

/-- The physical line of a virtual line, if it translates. -/
def physLine (s : State) (c p vline : Nat) : Option Nat :=
  match (xlate s c p false (caOf (BitVec.ofNat 50 vline)) { who := .prefetch }).1 with
  | .ok x => some (x.pa / 128)
  | .error _ => none

/-- A line arrives at a core: in its stash if the stash map of the context covers it, else in L1 (R196, R307). -/
def fillLine (s : State) (c p line : Nat) : State :=
  if (coreAt s c).stash.any (fun e => e.2.valid && (List.range e.2.nline).any (fun i => physLine s c p (e.2.gline + i) == some line)) then
    touchStash s c line
  else touchLine s c line

/-- The scratch range and the virtual lines of a stash-map effect. -/
def stashRange (k : Core) : Effect → Option (Nat × Nat × List Nat)
  | .smap e => some (e.sline, e.nline, (List.range e.nline).map (e.gline + ·))
  | .sunmap a n => some (a, n, (List.range n).filterMap (fun i => stashGlobal k (a + i)))
  | .sdrop a n => some (a, n, (List.range n).filterMap (fun i => stashGlobal k (a + i)))
  | .mapSame a n gl => some (a, n, match gl with
    | some l => (List.range n).map (l + ·)
    | none => (List.range n).filterMap (fun i => stashGlobal k (a + i)))
  | _ => none

/-- Two stash-map entries overlap in scratch lines or in global lines (R246). -/
def entMeets (x y : StashEnt) : Bool :=
  (decide (x.sline < y.sline + y.nline) && decide (y.sline < x.sline + x.nline))
    || (decide (x.gline < y.gline + y.nline) && decide (y.gline < x.gline + x.nline))

/-- A chunk has accessed a line of a stash-map effect's range, or maps one itself (R248). -/
def usedRange (s : State) (c p : Nat) (r : Nat × Nat × List Nat) (k : Chunk) : Bool :=
  let keys := (List.range r.2.1).map (fun i => scrLineKey c (128 * (r.1 + i)))
  let phys := r.2.2.filterMap (physLine s c p)
  k.effects.any (fun e => match e with
    | .smap x => decide (x.sline < r.1 + r.2.1) && decide (r.1 < x.sline + x.nline)
    | _ => false) || keys.any (fun l => decide (l ∈ k.sreads) || decide (l ∈ k.lines))
    || phys.any (fun l => decide (l ∈ k.reads) || decide (l ∈ k.glines))

/-- Squashes the open chunks of the other groups of the core that have accessed the range (R248). -/
def squashRange (s : State) (c slot : Nat) (e : Effect) : State :=
  match stashRange (coreAt s c) e, groupAt s c slot with
  | some r, some g => squashCore s c (some slot) (usedRange s c g.pasid r)
  | _, _ => s

/-- The priority and irrevocable chunks of other groups that have accessed the range of a chunk's stash-map effect: it waits for them
(R164, R248). -/
def rangeHolders (s : State) (c slot : Nat) (k : Chunk) : List ChunkRef :=
  k.effects.flatMap (fun e => match stashRange (coreAt s c) e, groupAt s c slot with
    | some r, some g => (coreAt s c).groups.flatMap (fun ge => if ge.1 = slot then [] else
        ((ge.2.done ++ [ge.2.open_]).filter (fun x => (x.pri || x.irr) && decide (x.num ≠ 0) && usedRange s c g.pasid r x)).map
          (fun x => { core := c, slot := ge.1, num := x.num }))
    | _, _ => [])

/-- An event waits for chunks: a priority or irrevocable one that is still open ends at its next boundary, or where it stalls (R164). -/
def awaitChunks (s : State) (ws : List ChunkRef) : State :=
  ws.foldl (fun s r => modGroup s r.core r.slot (fun g => if g.open_.num = r.num then { g with awaited := true } else g)) s

/-- Removes scratch bytes of a range of lines: they read zero. -/
def dropScratch (s : State) (c sline nline : Nat) : State :=
  let out := fun (o : Nat) => !(decide (128 * sline ≤ o) && decide (o < 128 * (sline + nline)))
  modCore s c (fun k => { k with scratch := k.scratch.filter (fun e => out e.1), fresh := k.fresh.filter (fun e => out e.1) })

/-- Drops the stash copies of some virtual lines; those that an SUNMAP drops are written back where they are dirty (R196). A pin stays with the map (SDROP, whose lines are refetched on their next touch) or
goes with it (SUNMAP). -/
def dropStash (s : State) (c p : Nat) (vls : List Nat) (keepPins : Bool) : State :=
  let phys := vls.filterMap (physLine s c p)
  let s := if keepPins then s else ((coreAt s c).stashLines.filter (fun x => decide (x.line ∈ phys))).foldl leaveL1 s
  let s := modCore s c (fun k =>
    let hit := k.stashLines.filter (fun x => decide (x.line ∈ phys))
    { k with
      stashLines := k.stashLines.filterMap (fun x =>
        if x.line ∈ phys then (if keepPins && x.pin then some { x with dirty := false, valid := false } else none) else some x)
      qused := if keepPins then k.qused else k.qused - (hit.filter (·.pin)).length })
  phys.foldl (fun s l => leaveDir s c l) s

/-- An SDROP of a chunk that commits: each line of its range that the stash would discard dirty becomes a write of the chunk, of the
bytes at its home slice (R248). -/
def prepareDrop (c slot p : Nat) (s : State) (e : Effect) : State :=
  match e with
  | .sdrop a n =>
    let k := coreAt s c
    let phys := ((List.range n).filterMap (fun i => stashGlobal k (a + i))).filterMap (physLine s c p)
    let dirty := phys.filter (fun l => k.stashLines.any (fun x => x.line == l && x.dirty)
      || k.groups.any (fun g => (g.2.done ++ [g.2.open_]).any (fun x => decide (l ∈ x.glines))))
    let bytes := dirty.flatMap (fun l => bytesAt (128 * l) (homeBytes s l))
    modGroup s c slot (fun g => { g with done := match g.done with
      | [] => []
      | x :: rest => { x with
          wr := ssetAll none x.wr (bytes.map (fun b => (b.1, some b.2)))
          glines := (dirty.filter (fun l => !(decide (l ∈ x.glines)))).dedup ++ x.glines
          wsig := sigAddAll x.wsig dirty } :: rest })
  | _ => s


/-- Changes a group's registers and the checkpoints of its ended chunks alike. -/
def modViews (s : State) (c slot : Nat) (f : GRegs → GRegs) : State :=
  modGroup s c slot (fun g => { g with
    r := f g.r
    done := g.done.map (fun k => { k with ckpt := f k.ckpt })
    open_ := if g.open_.slots = 0 then g.open_ else { g.open_ with ckpt := f g.open_.ckpt } })

/-- Threads that wait on a released record go on with its result (R413), once no chunk of theirs that began to wait is uncommitted; `f`
changes the group's registers. While the group is stopped the result stays in the record (R420). -/
def barWake (s : State) (c slot i : Nat) (f : State → (GRegs → GRegs) → State) : State :=
  match groupAt s c slot with
  | none => s
  | some g =>
    match (aget g.recs i).bind (·.res) with
    | none => s
    | some v =>
      if g.stop.isSome || (g.done ++ [g.open_]).any (fun k => k.effects.any (fun e => decide (e = .barPoll i))) || (barWaiters g.r i).isEmpty then s
      else
        let used := (consumeRecord i g.r v).2
        let s := f s (fun r => (consumeRecord i r v).1)
        tallyBar (if used then modGroup s c slot (fun g => { g with recs := adel g.recs i }) else s) c slot

/-- A watched line that is polled every 1 µs: one beyond the package that the device does not hold (R259). -/
def polled (s : State) (line : Nat) : Bool := beyond (128 * line) && !(decide (line ∈ s.cxl))

/-- The watch of a WAITADDR is armed (R259): a timeout of 0 does not sleep. -/
def armWaitaddr (s : State) (c slot : Nat) (lanes : List Nat) (line timeout : Nat) : State :=
  let ls := fun (r : GRegs) => lanes.filter (fun t => decide (sget .run r.thr t = .addr))
  if timeout = 0 then modViews s c slot (fun r => setThr r (ls r) .run)
  else
    let w : Watch := { lanes := lanes, line := line, deadline := s.clk + timeout, bytes := memBytes s (homePa (128 * line)) 128, hit := false }
    let s := after (modGroup s c slot (fun g => { g with watch := g.watch ++ [w] })) timeout (.waitaddrTimeout c slot)
    if polled s line then after s 1100 (.waitaddrPoll c slot) else s

/-- A system-call record is posted (R174). -/
def postSyscall (s : State) (c slot : Nat) (imm : BitVec 14) (pc : PC) (args : List Word) : State :=
  let r : SysRec := { core := c, slot := slot, pc := pc, imm := imm, args := args }
  pendDie (modDie s (dieOf c) (fun d => { d with sysRecs := d.sysRecs ++ [r] })) (dieOf c) 0x200

/-- A committed command of the firmware block takes effect (R453). -/
def fwCommand (s : State) (off : Nat) (v : Dword) : State :=
  if off = 0x10 then imgChk s v else if off = 0x20 then flashStart s v else if off = 0x48 then armWatch s v else s

/-! ### Release of effects (R41, R221) -/

/-- Takes ACCALLOC names into every view of the group (R273). -/
def publishNames (r : GRegs) (mask : BitVec 8) : GRegs := { r with accOwn := r.accOwn &&& ~~~mask }

/-- Forgets given-up names once their ACCFREE is released (R275). -/
def forgetNames (r : GRegs) (mask : BitVec 8) : GRegs := { r with accGone := r.accGone &&& ~~~mask }

/-- Adds one to the GLIVE of a group's grid; a group in F-mode belongs to none. -/
def groupLive (s : State) (g : Option Nat) : State :=
  match g with
  | none => s
  | some n => gliveAdd s n 1

/-- An inline call that commits while its team already has one that has not started is taken back: the claim ends, the spawning task has no
continuation from it, and its instruction issues again (R317 to R319). -/
def retractCall (s : State) (c slot : Nat) (x : PendCall) : State :=
  match groupAt s c slot with
  | none => s
  | some g =>
    let s := uncont (unreserve c slot s (.inlineCall x [])) c g.team x
    modViews s c slot (fun r => setPcs (setThr r x.info.lanes .run) (x.info.lanes.map (·, x.info.pc)))

/-- A line that a CACHEOP POISON of a committed chunk named is poisoned, but for the bytes that the chunk wrote afterwards, unless those are the
whole line (R209, R251). -/
def releasePoison (s : State) (e : Nat × List Nat) : State :=
  if 128 ≤ e.2.length then s
  else
    let s := markPoison s e.1
    { s with merged := e.2 ++ s.merged.filter (fun a => !(a / 128 == e.1)) }

/-- The bytes that an MCST sends and its chunk had not written by then are those of the committed line (R221, R419). -/
def fixBytes (k : Core) (e : Effect) : Effect :=
  match e with
  | .mcst gid off w own => .mcst gid off w ((List.range 128).map (fun i => some ((own.getD i none).getD (sget 0 k.scratch (off + i)))))
  | _ => e

/-- Releases one deferred effect of a chunk that has committed. -/
def releaseEffect (c slot : Nat) (s : State) (e : Effect) : State :=
  match groupAt s c slot with
  | none => s
  | some g =>
    let ctx := ctxidOf s g
    match e with
    | .push x =>
        let s := modCore s c (fun k => { k with dqResv := k.dqResv - 1 })
        pushCommit (groupLive s g.grid) c x
    | .node x deps =>
        let s := modCore s c (fun k => { k with poolResv := k.poolResv - 1 })
        match freshKey (coreAt s c).pool 2048 0 with
        | none => s
        | some i =>
          let n : PNode := { e := x, count := deps.length, deps := deps, grid := g.grid.getD 0 }
          let s := modCore (groupLive s g.grid) c (fun k => { k with pool := aset k.pool i n })
          deps.foldl (fun s h => sendFreg s { core := c, isCopy := false, idx := i } h) s
    | .rangeInit h n =>
        if h = 0 then s
        else if n = 0 then resolveFrom s c ctx h 0
        else if futLive (futAt s (hHome h) (hIndex h)) ctx h then
          modFut s (hHome h) (hIndex h) (fun f => { f with rng := true, items := BitVec.ofNat 32 n, total := BitVec.ofNat 32 n })
        else s
    | .contFlag => modTeam s c g.team (fun t => { t with tasks := match t.tasks with
        | x :: r => { x with cont := true } :: r
        | [] => [] })
    | .fnew _ => s
    | .resolve h v => resolveFrom s c ctx h v
    | .ffree h =>
        let s := modGroup s c slot (fun g => { g with wakes := g.wakes.filter (fun w => decide (w.1 ≠ h)) })
        if hHome h = c then freeAt s h else send s c (hHome h) (.ffree c h)
    | .send tc ch x => send s c tc (.channelSlotArrival tc ch x)
    | .recvDone ch =>
        modChan s c ch (fun x =>
          let (a, b) := x.taken.span (fun t => t.1 != slot)
          { x with taken := a ++ b.drop 1, credits := x.credits - 1 })
    | .red r => sendRed s r
    | .ext atoms _ => atoms.foldl (fun s _ => sendExt c slot s) s
    | .copy x => enterCopy (groupLive s g.grid) x
    | .smap x =>
        let st := (coreAt s c).stash.eraseP (fun y => decide (y.2 = x))
        if st.any (fun y => y.2.valid && entMeets y.2 x) then modCore s c (fun k => { k with stash := st })
        else
          modCore (dropScratch (squashRange s c slot e) c x.sline x.nline) c (fun k =>
            { k with stash := aset st ((freshKey st 16 0).getD 0) { x with valid := true, pend := false } })
    | .sunmap a n =>
        let vls := (List.range n).filterMap (fun i => stashGlobal (coreAt s c) (a + i))
        let s := dropStash (squashRange s c slot e) c g.pasid vls false
        dropScratch (modCore s c (fun k => { k with stash := k.stash.filter (fun y => !(y.2.valid && decide (a ≤ y.2.sline)
          && decide (y.2.sline < a + n))) })) c a n
    | .sdrop a n =>
        let vls := (List.range n).filterMap (fun i => stashGlobal (coreAt s c) (a + i))
        let s := dropStash (squashRange s c slot e) c g.pasid vls true
        modCore s c (fun k => { k with stash := k.stash.map (fun y =>
          if a < y.2.sline + y.2.nline ∧ y.2.sline < a + n then (y.1, { y.2 with pend := false }) else y) })
    | .mapSame _ _ _ => squashRange s c slot e
    | .cachePoison _ => s
    | .engine o =>
        let s := if o.kind = 5 then modViews s c slot (fun r => forgetNames r (o.word.setWidth 8)) else s
        releaseOp s o
    | .accNames m => modViews s c slot (fun r => publishNames r m)
    | .items h n =>
        if h = 0 then s else if hHome h = c then itemsDone s ctx h n else send s c (hHome h) (.itemdone c h n)
    | .park h => send s c (hHome h) (.fwait c slot h)
    | .inlineCall x deps =>
        if (teamAt s c g.team).call.isSome then retractCall s c slot x
        else
        let entry := x.info.joinH.bind (fun h => (coreAt s c).deque.find? (isClaimed h x.ca))
        let s := match x.info.joinH with
          | none => groupLive s g.grid
          | some h => removeClaimed s c h x.ca
        let tag := s.uids
        let s := modTeam { s with uids := s.uids + 1 } c g.team (fun t => { t with call := some { x with tag := tag, entry := entry.map (fun (e : DqEntry) => { e with clm := false }) } })
        deps.dedup.zipIdx.foldl (fun s h => sendFreg s { core := c, isCopy := false, idx := 4096 + slot + 64 * h.2 + 128 * tag } h.1) s
    | .barPoll i => barWake s c slot i (fun s f => modViews s c slot f)
    | .barUsed i => modGroup s c slot (fun g => { g with recs := adel g.recs i })
    | .arrive b a =>
        let rc : BarRec := { gen := 0, res := none, addr := a.addr, acked := false }
        send (markFresh (modGroup s c slot (fun g => { g with recs := aset g.recs (barId b) rc })) c (baseUid s c g) (barId b)) c (barHome s b)
          (.barrierArrival b { a with upto := s.uids })
    | .pending b l =>
        if (coreAt s c).stopReq then modCore s c (fun k => { k with abandoned := k.abandoned ++ [(l, some b)] })
        else
        let x := barObj s b
        let s := putBar s b { x with open_ := true, pending := x.pending + 1 }
        if inHbm (128 * l) && missing (coreAt s c) l then
          requestLine c (modCore s c (fun k => { k with boundFills := k.boundFills ++ [(l, b)] })) l
        else send s c (barHome s b) (.pendingLinePresent b)
    | .mcst gid off w own =>
        let ps := mcstPackets s c slot gid off w own
        let cl := (coreAt s c).cluster
        let s := modCluster { s with uids := s.uids + 1 } cl (fun k => { k with flight := sset 0 k.flight gid (sget 0 k.flight gid + ps.length) })
        ps.foldl (fun s p => send s c p.1 (.mcstDelivery p.2)) s
    | .watch ls l t => armWaitaddr s c slot ls l t
    | .sysc imm pc args _ => postSyscall s c slot imm pc args
    | .fwWrite off _ v => fwCommand s off v
    | .groupEnd v => groupEnd s c slot v

/-! ### Completion of a commit (R218, R221) -/

/-- Scratch bytes of a chunk become visible (R226). -/
def releaseScratch (s : State) (ws : Sparse (Option Byte)) : State :=
  ws.foldl (fun s e => match e.2 with
    | none => s
    | some b => modCore s (e.1 / 2 ^ 28) (fun k => putScratch k (e.1 % 2 ^ 28, b))) s

/-- Committed bytes of a buffer. -/
def bufferBytes (w : Sparse (Option Byte)) : List (Nat × Byte) := w.filterMap (fun e => e.2.map (e.1, ·))

/-- Completes the commit of a group's oldest ended chunk: its scratch and return-stack bytes and its effects are released in program
order (R221). -/
def finishCommit (s : State) (c slot : Nat) : State :=
  match groupAt s c slot with
  | none => s
  | some g =>
    match g.done with
    | [] => s
    | k :: rest =>
      let s := modTeam (setGroup s c slot { g with done := rest }) c g.team (fun t => { t with held := [] })
      let fx := k.effects.map (fixBytes (coreAt s c))
      let s := if k.phase = 3 then s else fx.foldl (enterExts c slot g.uid) s
      let s := releaseScratch s k.ws
      let s := memPut s (bufferBytes k.wk)
      let s := k.psn.foldl releasePoison (fx.foldl (releaseEffect c slot) s)
      let s := coreCtr (sweepDir s c) c 1 1
      if k.glines.isEmpty then coreCtr s c 2 1 else s

/-- What follows a commit: the team's fault is handed on, a pending call starts, what was kept for the boundary happens. -/
def afterCommit (s : State) (c slot : Nat) : State :=
  match groupAt s c slot with
  | none => s
  | some g => atBoundaryDo (startCall (settle s c g.team) c g.team) c slot

/-- The dies that home a line the chunk writes, ascending (R219). -/
def homesOf (k : Chunk) : List Nat := (List.range 4).filter (fun d => k.glines.any (fun l => homeDie l == d))

/-- Changes an ended chunk of a group. -/
def modDone (s : State) (r : ChunkRef) (f : Chunk → Chunk) : State :=
  modGroup s r.core r.slot (fun g => { g with done := g.done.map (fun k => if k.num = r.num then f k else k) })

/-- An ended chunk of a group. -/
def doneChunk (s : State) (r : ChunkRef) : Option Chunk :=
  (groupAt s r.core r.slot).bind (fun g => g.done.find? (fun k => k.num == r.num))

/-- Some other chunk that holds all its grants writes what this chunk has read or written (R220). -/
def metByGranted (s : State) (r : ChunkRef) (k : Chunk) : Bool :=
  s.cores.any (fun ce => ce.2.groups.any (fun ge => decide ((ce.1, ge.1) ≠ (r.core, r.slot)) &&
    ge.2.done.any (fun x => decide (2 ≤ x.phase) && conflicts x.wsig k)))

/-- All grants are held: W goes to the sharers of the written lines and to the slices of the home dies (R220). -/
def sendSignature (s : State) (r : ChunkRef) (k : Chunk) : State :=
  let cs := sharers s k.glines
  let ds := homesOf k
  let s := modDone s r (fun k => { k with phase := 2, acks := cs.length + ds.length })
  let s := cs.foldl (fun s x => send s r.core x (.commitSignature (.core x) r)) s
  ds.foldl (fun s d => send s r.core (pressAgent d) (.commitSignature (.die d) r)) s

/-- The claim stage (R221): one claim for each written line, and the number of them to each slice. At most four commits of a core are
in it. -/
def claimStage (s : State) (r : ChunkRef) (k : Chunk) : State :=
  let x := coreAt s r.core
  if 4 ≤ x.claiming then s
  else
    let tag := x.phase % 4
    let slices := (k.glines.map homeSlice).dedup
    let s := modCore s r.core (fun x => { x with phase := x.phase + 1, claiming := x.claiming + 1 })
    let s := modDone s r (fun k => { k with phase := 3, tag := tag, dones := slices.length })
    let uid := ((groupAt s r.core r.slot).map (·.uid)).getD 0
    let s := k.effects.foldl (enterExts r.core r.slot uid) s
    let s := k.glines.foldl (markDirty r.core) s
    let s := k.glines.foldl (fun s l => send s r.core (sliceAgent (homeSlice l)) (.ownershipClaim l tag r)) s
    slices.foldl (fun s sl => send s r.core (sliceAgent sl)
      (.claimAnnounce sl tag (k.glines.filter (fun l => homeSlice l == sl)).length r)) s

/-- Releases the grants of a chunk that has committed; the end of a priority or irrevocable chunk lets every Press reconsider its held
requests (R219, R221). -/
def releaseGrants (s : State) (r : ChunkRef) (k : Chunk) : State :=
  (if k.pri || k.irr then List.range 4 else homesOf k).foldl
    (fun s d => send s r.core (pressAgent d) (.pressRelease d r)) s

/-- A priority or irrevocable chunk that another group runs or has ended, as its oldest, meets the write signature of such a chunk: that waits
for it; of two ended ones the lower core and slot goes first (log 95; R219, R222, R223). -/
def meetsOther (s : State) (r : ChunkRef) (k : Chunk) : Bool :=
  s.cores.any (fun ce => ce.2.groups.any (fun ge => decide ((ce.1, ge.1) ≠ (r.core, r.slot)) &&
    match ge.2.done with
    | [] => (ge.2.open_.pri || ge.2.open_.irr) && decide (ge.2.open_.num ≠ 0) && conflicts k.wsig ge.2.open_
    | x :: _ => (x.pri || x.irr) && decide (x.phase = 0) && conflicts k.wsig x
        && decide (ce.1 < r.core ∨ (ce.1 = r.core ∧ ge.1 < r.slot))))

/-- One step of a group's oldest ended chunk towards its commit; answers whether it committed. -/
def commitStep (s : State) (c slot : Nat) : State × Bool :=
  match groupAt s c slot with
  | none => (s, false)
  | some g =>
    match g.done with
    | [] => (s, false)
    | k :: _ =>
      let r : ChunkRef := { core := c, slot := slot, num := k.num }
      if k.phase = 0 ∧ rangeHolders s c slot k ≠ [] then (awaitChunks s (rangeHolders s c slot k), false)
      else if k.phase = 0 then
        let s := k.effects.foldl (prepareDrop c slot g.pasid) s
        let k := (doneChunk s r).getD k
        if k.glines.isEmpty then (afterCommit (releaseGrants (finishCommit s c slot) r k) c slot, true)
        else if k.pri || k.irr then
          if metByGranted s r k || meetsOther s r k then (s, false) else (sendSignature s r k, false)
        else
          match homesOf k with
          | [] => (s, false)
          | d :: ds =>
            let s := modDone s r (fun k => { k with phase := 1, toGrant := d :: ds })
            (send s c (pressAgent d) (.pressRequest d r), false)
      else if k.phase = 2 ∧ k.acks = 0 then (claimStage s r k, false)
      else (s, false)

/-- Advances a group's commits as far as they go by themselves, oldest first (R222). -/
def commitGroup : Nat → Nat → Nat → State → State
  | 0, _, _, s => s
  | n + 1, c, slot, s =>
    match commitStep s c slot with
    | (s, true) => commitGroup n c slot s
    | (s, false) => s

/-- Advances every group's commits: those that waited for another commit go on. -/
def commitAll (s : State) : State :=
  s.cores.foldl (fun s ce => ce.2.groups.foldl (fun s ge => if ge.2.done.isEmpty then s else commitGroup 4 ce.1 ge.1 s) s) s

/-- Ends a group's chunk and begins its commit. -/
def endChunk (s : State) (c slot : Nat) : State :=
  atBoundaryDo (commitAll (commitGroup 8 c slot (closeChunk s c slot))) c slot

/-- The commit is complete: the chunk leaves the claim stage, its grants are released, and what follows goes on (R221). -/
def completeCommit (s : State) (r : ChunkRef) (k : Chunk) : State :=
  let s := modCore s r.core (fun x => { x with claiming := x.claiming - 1 })
  let s := k.glines.foldl (fun s l => if missing (coreAt s r.core) l then s else dirAdd s r.core l) s
  let s := releaseGrants (finishCommit s r.core r.slot) r k
  commitAll (commitGroup 8 r.core r.slot (afterCommit s r.core r.slot))

/-! ### Wakes -/

/-- Wakes threads of a group from outside: its open chunk ends first, so that they go on in a new chunk, and every later checkpoint sees
them awake. -/
def wakeThreads (s : State) (c slot : Nat) (f : GRegs → GRegs) : State := modViews (endChunk s c slot) c slot f

/-- The lanes of a group that a test of their state picks. -/
def lanesWhere (r : GRegs) (p : Thr → Bool) : List Nat := allLanes.filter (fun t => p (sget .run r.thr t))

/-- Lets the threads that a test picks run. -/
def runWhere (p : Thr → Bool) (r : GRegs) : GRegs := setThr r (lanesWhere r p) .run

/-- A WAITADDR sleep is over: its line has been written, its time has come, or a poll finds another value (R259). -/
def watchOver (s : State) (w : Watch) : Bool :=
  w.hit || decide (w.deadline ≤ s.clk) || (polled s w.line && decide (memBytes s (homePa (128 * w.line)) 128 ≠ w.bytes))

/-- Ends the WAITADDR sleeps of a group that are over (R259). -/
def wakeAddr (s : State) (c slot : Nat) : State :=
  match groupAt s c slot with
  | none => s
  | some g =>
    let ls := (g.watch.filter (watchOver s)).flatMap (·.lanes)
    if ls.isEmpty then s
    else wakeThreads (modGroup s c slot (fun g => { g with watch := g.watch.filter (fun w => !watchOver s w) })) c slot
      (fun r => setThr r (ls.filter (fun t => decide (sget .run r.thr t = .addr))) .run)

end Sys2Proof.Machine
end

