-- ==== Sys2Proof/Machine/Stops.lean ====
section
/-! DEFINITION. Sys2Proof/Machine/Stops.lean: the stop of a core's engine classes (R354), the reissue of what a stop has abandoned (R355), and
fatal errors (R463). -/

namespace Sys2Proof.Machine

/-! ### Stops (R353 to R355) -/

/-- Every group of a core has stopped. -/
def coreStopped (s : State) (c : Nat) : Bool := (coreAt s c).groups.all (fun e => quiet e.2 && e.2.stop.isSome)

/-- Reductions and multicast packets of a core that are still under way. -/
def collectivesOut (s : State) (c : Nat) : Bool :=
  s.reds.any (fun r => r.core == c) || s.net.any (fun m => match m.ev with
    | .mcstDelivery _ => m.src == c
    | _ => false)

/-- Changes the count of pending lines of a barrier. -/
def modPending (s : State) (b : BarRef) (f : Nat → Nat) : State :=
  let o := barObj s b
  putBar s b { o with pending := f o.pending }

/-- The prefetches of a core that are in flight are abandoned, and noted for reissue; the barriers that some are bound to expect so many
fewer (R354, R355). -/
def abandonFills (s : State) (c : Nat) : State :=
  let k := coreAt s c
  let lines := (k.staged.filter (fun x => x.asked && decide (x.deadline = 0))).flatMap (fun x => x.held.filter (missing k))
  let s := k.boundFills.foldl (fun s e => modPending s e.2 (· - 1)) s
  modCore s c (fun k => { k with
    boundFills := [], abandoned := lines.map (·, none) ++ k.boundFills.map (fun e => (e.1, some e.2))
    staged := k.staged.map (fun x => { x with held := [], deadline := 0, asked := false }) })

/-- One abandoned prefetch is issued again (R355): of a bound one the barrier's count is raised first, and a line that has come meanwhile is present
at once (R414). -/
def reissueFill (c : Nat) (s : State) (e : Nat × Option BarRef) : State :=
  match e.2 with
  | none => requestLine c s e.1
  | some b =>
    let s := modPending s b (· + 1)
    if missing (coreAt s c) e.1 then
      requestLine c (modCore s c (fun k => { k with boundFills := k.boundFills ++ [(e.1, b)] })) e.1
    else send s c (barHome s b) (.pendingLinePresent b)

/-- The abandoned prefetches of a core are issued again (R355). -/
def reissueFills (s : State) (c : Nat) : State :=
  (coreAt s c).abandoned.foldl (reissueFill c) (modCore s c (fun k => { k with abandoned := [] }))

/-- The stop request to one core: every engine class, and those that can acknowledge at once do (R353, R354). -/
def stopCore (s : State) (c : Nat) : State :=
  let s := modCore (abandonFills s c) c (fun k => { k with stopReq := true, engineHalt := true })
  let s := (slotsOf s c).foldl (fun s slot => haltGroup 1 c (dropAcc s c slot) slot) s
  let s := if coreStopped s c then send s c c (.stopAck c 0) else s
  let s := if (coreAt s c).engineStep.isNone then send s c c (.stopAck c 1) else s
  let s := [2, 3, 4].foldl (fun s k => send s c c (.stopAck c k)) s
  if collectivesOut s c then after s 16 (.stopAck c 5) else send s c c (.stopAck c 5)

/-! ### Fatal errors (R457, R458, R463) -/

/-- The core that raised a fatal error is not restarted: its groups stop at their chunk boundary. -/
def haltRaiser (s : State) (c : Nat) : State :=
  modCore s c (fun k => { k with groups := k.groups.map (fun (e : Nat × Group) =>
    (e.1, if atBoundary e.2 then { e.2 with stop := some { kind := 1, skid := 0 } } else { e.2 with atEnd := some 4 })) })

/-- The first steps of a fatal error (R463): event 0x0009, a stop request to every compute core, and a restart at area + DUMPENT of each
vintner core that did not raise it; no core raises a rollback's (cause 3). A fault during the dump enters the safe state at once. -/
def fatalError (s : State) (c cause : Nat) : State :=
  match s.fw.dumping with
  | some _ => enterSafe s 8
  | none =>
    let s := postLog s 0x0009 (dieOf c) c 0
    let s := (s.cores.filter (fun e => e.2.role == 0)).foldl (fun s e => stopCore s e.1) s
    let s := { s with fw := { s.fw with dumping := some cause, dumpCore := c, armed := false } }
    let s := if cause = 3 then s else haltRaiser s c
    after (restartVintners s (if cause = 3 then none else some c)) 550000000 .dumpTimeout

/-- The heartbeat watch expires (R457, R458): ROLL, and the rollback restart at FWRESUME, or a fatal error where that is 0. -/
def heartbeatExpire (s : State) : State :=
  if s.fw.armed then
    let s := { s with fw := { s.fw with roll := true, armed := false } }
    if s.fw.resume = 0 then fatalError s ((vintnerOf s 0).getD 0) 3 else restartVintners s none
  else s

end Sys2Proof.Machine
end

