-- ==== Sys2Proof/Machine/Tlb.lean ====
section
/-! DEFINITION. Sys2Proof/Machine/Tlb.lean: the removal of cached translations (R374 to R376). -/

namespace Sys2Proof.Machine

/-- What a removal asks for (R375): kind 0 PAGE, 1 PASID, 2 ALL. -/
structure Inval where
  kind : Nat
  pasid : Nat
  va : Nat
  deriving DecidableEq, Repr

/-- A cached leaf or answer is removed: for PAGE, every one that covers the address. -/
def invLeaf (i : Inval) (t : TlbEnt) : Bool :=
  if i.kind = 2 then true
  else if i.kind = 1 then t.pasid == i.pasid
  else entCovers t i.pasid (i.va / 4096)

/-- A walk-cache entry is removed: for PAGE, those on the path of the address. -/
def invWalk (i : Inval) (t : TlbEnt) : Bool :=
  if i.kind = 2 then true
  else if i.kind = 1 then t.pasid == i.pasid
  else t.pasid == i.pasid && t.va == i.va / 2 ^ (12 + 9 * t.lvl)

/-- An answer of the host is removed: for PAGE, that of the address's 4 KiB page. -/
def invAts (i : Inval) (p page : Nat) : Bool :=
  if i.kind = 2 then true else if i.kind = 1 then p == i.pasid else p == i.pasid && page == i.va / 4096

/-- The device-physical 4 KiB pages that a cached leaf gives, the first and their number, or the page of the host window that an answer of the
host gives (R369 to R371). -/
def leafPages (t : TlbEnt) : Nat × Nat :=
  let p := pteAddr t.leaf / 4096
  match t.ats with
  | some a => (0x8000000000000 / 4096 + a.page, 1)
  | none => if pteMt t.leaf = 2 then (0, 0) else (p / entPages t * entPages t, entPages t)

/-- The TLB entries of a core: those of its groups and of its stream and prefetch engines (R373). -/
def coreTlbs (k : Core) : List TlbEnt := k.tlb1 ++ k.tlb2 ++ k.stlb ++ k.ptlb

/-- The device-physical pages of the translations that an invalidation removes, in every structure of the package. -/
def removedPages (s : State) (i : Inval) : List (Nat × Nat) :=
  let ts := s.cores.flatMap (fun (e : Nat × Core) => coreTlbs e.2) ++ s.dies.flatMap (fun (e : Nat × Die) => e.2.ctlb.flatMap (·.2) ++ e.2.atc)
  ((ts.filter (invLeaf i)).map leafPages).dedup

/-- A page is one of these. -/
def inPages (ps : List (Nat × Nat)) (page : Nat) : Bool := ps.any (fun r => decide (r.1 ≤ page) && decide (page < r.1 + r.2))

/-- Cores whose TLBs, those of their engines among them, hold an entry to be removed. -/
def invCores (s : State) (i : Inval) : List Nat :=
  (s.cores.filter (fun (e : Nat × Core) => (coreTlbs e.2).any (invLeaf i))).map (·.1)

/-- The group's context is concerned. -/
def invGroup (i : Inval) (g : Group) : Bool := i.kind == 2 || g.pasid == i.pasid

/-- Chunks of a core that a removal must wait for: those that are not squashed (R164, R376). -/
def invWaits (s : State) (i : Inval) (me : Nat × Nat) (c : Nat) : List ChunkRef :=
  (coreAt s c).groups.flatMap (fun e =>
    if (c, e.1) = me || !invGroup i e.2 then []
    else ((e.2.done ++ [e.2.open_]).filter (fun k => chunkSafe k && decide (k.num ≠ 0))).map (fun k =>
      { core := c, slot := e.1, num := k.num }))

/-- Removes a core's entries; its chunks that may be squashed are (R376). -/
def invCore (i : Inval) (me : Nat × Nat) (s : State) (c : Nat) : State :=
  let s := (coreAt s c).groups.foldl (fun s e =>
    if (c, e.1) = me || !invGroup i e.2 then s
    else match firstVictim (fun _ => true) e.2 with
      | none => s
      | some n => squashFrom s c e.1 n) s
  let keep := fun (l : List TlbEnt) => l.filter (fun t => !invLeaf i t)
  modCore s c (fun k => { k with tlb1 := keep k.tlb1, tlb2 := keep k.tlb2, stlb := keep k.stlb, ptlb := keep k.ptlb })

/-- Lines of pages whose translation is gone are dropped that a staging or a stream's run-ahead has brought, and are held no longer; stash
copies are written back and dropped; a pin stays (R376). -/
def dropPages (ps : List (Nat × Nat)) (s : State) (c : Nat) : State :=
  let gone := fun (l : Nat) => inPages ps (l / 32)
  let k := coreAt s c
  let out := k.stashLines.filter (fun x => gone x.line) ++ k.l1.filter (fun x => gone x.line && (x.ahead || decide (x.line ∈ heldLines k)))
  let mine := fun (x : L1Line) => out.any (fun y => y.line == x.line)
  let keep := fun (x : L1Line) => if !mine x then some x else if x.pin then some { x with dirty := false, valid := false } else none
  let s := setCore s c
    { k with
      staged := k.staged.map (fun x => { x with held := x.held.filter (fun l => !gone l) })
      teams := k.teams.map (fun (e : Nat × Team) => (e.1, { e.2 with held := e.2.held.filter (fun l => !gone l) }))
      stashLines := k.stashLines.filterMap keep
      l1 := k.l1.filterMap keep }
  out.foldl (fun s x => leaveDir (leaveL1 s x) c x.line) s

/-- Removes every cached translation that an invalidation names; answers what it must still wait for (R376). -/
def invalidateTlb (s : State) (me : Nat × Nat) (i : Inval) : State × InvWait :=
  let cs := invCores s i
  let ps := removedPages s i
  let waits := cs.flatMap (invWaits s i me)
  let s := cs.foldl (invCore i me) s
  let s := if ps.isEmpty then s else (s.cores.map (·.1)).foldl (dropPages ps) s
  let s := { s with
    dies := s.dies.map (fun (e : Nat × Die) => (e.1, { e.2 with
      atc := e.2.atc.filter (fun t => !invLeaf i t)
      ctlb := e.2.ctlb.map (fun (x : Nat × List TlbEnt) => (x.1, x.2.filter (fun t => !invLeaf i t)))
      wcache := e.2.wcache.filter (fun t => !invWalk i t) }))
    ats := s.ats.filter (fun e => !e.2.absent || !invAts i e.2.pasid e.2.page) }
  (awaitChunks s waits, { chunks := waits, pages := ps })

/-- A chunk that a removal waits for is still to commit. -/
def chunkLives (s : State) (r : ChunkRef) : Bool :=
  match groupAt s r.core r.slot with
  | none => false
  | some g => (g.done ++ [g.open_]).any (fun k => k.num == r.num)

/-- What an invalidation waits for is over: its chunks have committed, and every store beyond the package that was translated through
a removed entry is acknowledged (R376). -/
def invOver (s : State) (w : InvWait) : Bool :=
  w.chunks.all (fun r => !chunkLives s r) && s.extPend.all (fun x => x.bytes.all (fun b => !inPages w.pages (b.1 / 4096)))

/-- Begins a TLBINV of a group: the removal happens, and what is left to wait for is kept. -/
def startInval (s : State) (c slot : Nat) (i : Inval) : State :=
  match (groupAt s c slot).bind (·.inval) with
  | some _ => s
  | none =>
    let (s, w) := invalidateTlb s (c, slot) i
    modGroup s c slot (fun g => { g with inval := some w })

/-- Both removals are over. -/
def joinWaits (v w : InvWait) : InvWait := { chunks := v.chunks ++ w.chunks, pages := v.pages ++ w.pages }

/-- Removes the translations of a range of pages of a PASID, for an agent that is no group (R374, R378). -/
def invalidateRange (s : State) (p va pages : Nat) : State × InvWait :=
  (List.range pages).foldl (fun (a : State × InvWait) n =>
    let (s, w) := invalidateTlb a.1 (256, 0) { kind := 0, pasid := p, va := va + 4096 * n }
    (s, joinWaits a.2 w)) (s, { chunks := [], pages := [] })

end Sys2Proof.Machine
end

