-- ==== Sys2Proof/Machine/Exec.lean ====
section
/-! DEFINITION. Sys2Proof/Machine/Exec.lean: the frame of every instruction: the issue of a unit (R71, R73, R75, R146), its end of chunk
(R215), the waits of an instruction that cannot complete yet, the taking of a fault in and outside F-mode (R3, R171, R177), the halt
skid (R177), and which group and PC issue next (R27 to R30). -/

namespace Sys2Proof.Machine

/-! ### Eligibility and readiness (R27) -/

/-- The thread is eligible as far as it goes itself: it runs, and no trap of other threads holds it (R171). -/
def laneReady (g : Group) (t : Nat) : Bool := decide (thrOf g t = .run) && !(g.fmode && g.f.held.getLsbD t)

/-- The threads of a group that are eligible as far as they go themselves. -/
def readyLanes (g : Group) : List Nat := allLanes.filter (laneReady g)

/-- The lanes of a group whose instruction could not complete since the device last moved (R27). -/
def blockedLanes (s : State) (g : Group) : List Nat := if g.blockedAt = s.moves then g.blocked else []

/-- The eligible threads of a group: those whose instruction does not wait (R27). -/
def freeLanes (s : State) (g : Group) : List Nat := (readyLanes g).filter (fun t => !(decide (t ∈ blockedLanes s g)))

/-- The team of a group waits for it to reach a chunk boundary and stop there: an inline call whose dependencies are satisfied (R319), a
stop, a cork, an abort or a restart (R164). -/
def mustStop (s : State) (c : Nat) (g : Group) : Bool :=
  g.atEnd.isSome || ((coreAt s c).stopReq && !g.fmode) || (match (teamAt s c g.team).call with
    | some p => p.deps == 0
    | none => false)

/-- The group issued the inline call that its team waits to start. -/
def waitsCall (s : State) (c : Nat) (g : Group) : Bool :=
  match (teamAt s c g.team).call with
  | some p => p.info.gi == g.gi
  | none => false

/-- The group is ready: it may issue on this clk. -/
def groupReady (s : State) (c slot : Nat) (g : Group) : Bool :=
  g.stop.isNone && !g.ended && !(mustStop s c g && decide (g.open_.slots = 0)) && !waitsCall s c g
    && (!g.reirr || !otherPri s c slot)
    && (!g.hold || (quiet g && extQuiet s c slot))
    && g.query.all (fun q => q.reply.isSome)
    && !((coreAt s c).accQ.any (fun q => q.slot == slot && q.granted.isNone))
    && !(freeLanes s g).isEmpty

/-! ### Choice (R28 to R30) -/

/-- The clk at which a thread last issued, plus 1; 0 is never. -/
def laneStamp (g : Group) (t : Nat) : Nat := sget 0 g.tstamp t

/-- The active set: the eligible threads at the PC whose threads have gone longest without issuing; ties go to the lower PC (R30). -/
def activeSet (s : State) (g : Group) : List Nat :=
  let ls := freeLanes s g
  let key := fun (t : Nat) => (laneStamp g t, (sget 0 g.r.pc t).toNat)
  let best := ls.find? (fun t => ls.all (fun u =>
    decide ((key t).1 < (key u).1 ∨ ((key t).1 = (key u).1 ∧ (key t).2 ≤ (key u).2))))
  match best with
  | none => []
  | some t => ls.filter (fun u => sget 0 g.r.pc u == sget 0 g.r.pc t)

/-- The group that a pipe picks (R28, R182, R324): a group whose flagged instruction repeats holds the pipe; else a ready priority group is
first, in its own TYIELD window too (log 111), else the ready group it has issued least recently, ties to the lower slot; a group in its TYIELD window only if no other is
ready. -/
def pipePick (s : State) (c pipe : Nat) : Option (Nat × Group) :=
  let rs := (coreAt s c).groups.filter (fun e => decide (e.1 % 4 = pipe) && groupReady s c e.1 e.2)
  match (rs.filter (fun e => e.2.replay.isSome) ++ rs.filter (fun e => e.2.pri)).head? with
  | some e => some e
  | none =>
    let rs := if rs.any (fun e => e.2.yieldLeft == 0) then rs.filter (fun e => e.2.yieldLeft == 0) else rs
    rs.find? (fun e => rs.all (fun f => decide (e.2.stamp < f.2.stamp ∨ (e.2.stamp = f.2.stamp ∧ e.1 ≤ f.1))))

/-- The next group of the device to issue: of the groups that the pipes pick, the one that has issued least recently. -/
def nextIssue (s : State) : Option (Nat × Nat) :=
  let cs := s.cores.flatMap (fun ce => (List.range 4).filterMap (fun p =>
    if ce.2.groups.isEmpty then none else (pipePick s ce.1 p).map (fun e => (ce.1, e.1, e.2.stamp))))
  (cs.find? (fun x => cs.all (fun y => decide (x.2.2 ≤ y.2.2)))).map (fun x => (x.1, x.2.1))

/-! ### Time -/

/-- A clk passes; the group and its executing threads have had their turn. -/
def tickGroup (s : State) (c slot : Nat) (lanes : List Nat) : State :=
  let now := s.clk + 1
  modGroup (passTime s 1) c slot (fun g =>
    { g with stamp := now, tstamp := ssetAll 0 g.tstamp (lanes.map (·, now)) })

/-- An issue clk of a pipe: the TYIELD windows of its groups run down (R324). -/
def tickYield (s : State) (c slot : Nat) : State :=
  modCore s c (fun k => { k with groups := k.groups.map (fun (e : Nat × Group) =>
    if e.1 % 4 = slot % 4 ∧ e.2.yieldLeft ≠ 0 then (e.1, { e.2 with yieldLeft := e.2.yieldLeft - 1 }) else e) })

/-! ### Faults -/

/-- The group of a slot is still the one it was. -/
def sameGroup (s : State) (c slot : Nat) (g : Group) : Bool :=
  match groupAt s c slot with
  | none => false
  | some h => h.uid == g.uid && h.team == g.team && (h.fmode == g.fmode)

/-- A trap within an F-mode group (R171). -/
def trapEnter (s : State) (c slot : Nat) (lanes : List Nat) (pc : PC) (code : Nat) (imm : BitVec 14) (under : Bool) (addr : Nat) : State :=
  modGroup s c slot (fun g =>
    let vec : PC := (g.f.vec &&& ~~~3).extractLsb' 0 57
    { g with
      f := { g.f with cause := fcauseWord code imm under, emask := maskOf lanes, epc := pc.signExtend 64
                      addr := BitVec.ofNat 64 addr, inh := true, held := ~~~(maskOf lanes) }
      replay := none
      r := setPcs g.r (lanes.map (·, vec)) })

/-- A fault of a group at `pc` by `lanes`: its chunk ends and commits the prefix (R3). In F-mode the group traps (R171), and a fault
in a trap handler is a fatal error; outside F-mode the team stops (R177). -/
def faultGroup (s : State) (c slot : Nat) (lanes : List Nat) (pc : PC) (fi : FaultInfo) : State :=
  match groupAt s c slot with
  | none => s
  | some g =>
    let s := dropAsker s (c, slot) (fun e => e.page == fi.addr % 2 ^ 57 / 4096)
    let cks := ckstatWord g
    if g.fmode && (g.f.inh || s.fw.dumping.isSome) then fatalError (endChunk s c slot) c 2
    else
      let s := endChunk s c slot
      let s := modGroup s c slot (fun g => { g with irr := false, query := [], grpWait := none, inval := none, epi := [] })
      if !sameGroup s c slot g then s
      else if g.fmode then trapEnter s c slot lanes pc fi.code fi.imm fi.under fi.addr
      else stopGroup s c slot pc fi cks

/-- The issuing instruction faults: none of its effects has happened, and its threads stay at it. The report
of an engine fault clears the team's record (R292); a reconstruction that failed leaves the line poisoned (R209). -/
def takeFault (s : State) (fi : FaultInfo) : State :=
  let s := if fi.engine then modTeam s s.cur.core (curGroup s).team (fun t => { t with efault := none })
    else if fi.code = fcMemUncorrectable then readLine s (homePa fi.addr / 128) else s
  tickGroup (faultGroup s s.cur.core s.cur.slot s.cur.lanes s.cur.pc fi) s.cur.core s.cur.slot s.cur.lanes

/-! ### The halt skid (R177) -/

/-- A halted sibling stops with the skid it has used: it cannot issue any more (R177). -/
def stopHalted (s : State) (c slot : Nat) : State :=
  match (groupAt s c slot).bind (·.haltLeft) with
  | none => s
  | some (_, used) =>
    let s := modGroup s c slot (fun g => { g with haltLeft := none, stop := some { kind := 1, skid := used, cks := ckstatWord g }, epi := [] })
    let s := endChunk s c slot
    match groupAt s c slot with
    | none => s
    | some g => settle s c g.team

/-- A halted sibling has used an issue slot; at its last it stops, and its chunk ends there. `cks` is the CKSTAT word at the stop. -/
def spendSkid (s : State) (c slot : Nat) (cks : Word) : State :=
  match (groupAt s c slot).bind (·.haltLeft) with
  | none => s
  | some (left, used) =>
    if left ≤ 1 then
      let s := modGroup s c slot (fun g => { g with haltLeft := none, stop := some { kind := 1, skid := used + 1, cks := cks } })
      let s := endChunk s c slot
      match groupAt s c slot with
      | none => s
      | some g => settle s c g.team
    else modGroup s c slot (fun g => { g with haltLeft := some (left - 1, used + 1) })

/-- The repeat of a flagged instruction is over: it was no issue slot of a halt's skid, which is counted from the next one (R187). -/
def endRepeat (s : State) (c slot : Nat) : State :=
  let s := modGroup s c slot (fun g => { g with replay := none })
  match (groupAt s c slot).bind (·.haltLeft) with
  | some (0, _) => stopHalted s c slot
  | _ => s

/-! ### The frame of an instruction -/

/-- Moves the active set past a unit of `len` bytes (R146); a branch then overrides this. -/
def advancePcs (len : Nat) : M Unit := do
  let c ← getS (·.cur)
  modR (fun r => setPcs r (c.lanes.map (·, c.pc + BitVec.ofNat 57 len)))

/-- The chunk of the issuing group ends after the instruction (R215). -/
def endAfter : M Unit := modK (fun k => { k with ending := true })

/-- A group that must reach a chunk boundary, or whose chunk's commit an event waits for, and that cannot go on ends its chunk where it
stands (R164, R319). -/
def endIfBlocked (s : State) (c slot : Nat) (stalled : Bool) : State :=
  match groupAt s c slot with
  | none => s
  | some g =>
    if (mustStop s c g || g.awaited) && decide (g.open_.slots ≠ 0) && (stalled || !groupReady s c slot g) then
      let s := endChunk s c slot
      match groupAt s c slot with
      | none => s
      | some g => startCall s c g.team
    else s

/-- The issuing group's instruction counts in its chunk. -/
def tallied (s : State) : State :=
  modCur s (fun g => { g with open_ := { g.open_ with slots := g.open_.slots + 1 }
                              query := g.query.filter (fun q => !q.used) })

/-- An instruction has counted, and its clk has passed. -/
def counted (s : State) : State :=
  tickYield (tickGroup (coreCtr (tallied s) s.cur.core 0 1) s.cur.core s.cur.slot (tallied s).cur.lanes) s.cur.core s.cur.slot

/-- An instruction has completed: it counts, and the chunk ends after it where it must (R215). The repeat of a flagged instruction is no
issue slot of a halt's skid (R177, R187). -/
def retire (s : State) : State :=
  let c := s.cur.core
  let slot := s.cur.slot
  let cks := ckstatWord (curGroup (tallied s))
  let repeated := (curGroup s).replay.isSome
  let s := counted s
  match groupAt s c slot with
  | none => s
  | some g =>
    let k := g.open_
    let s := if k.ending || decide (2048 ≤ k.slots) || decide (48 < k.lines.length) then endChunk s c slot else s
    let s := if repeated then endRepeat s c slot else spendSkid s c slot cks
    let s := endIfBlocked s c slot false
    match groupAt s c slot with
    | none => s
    | some g => if groupReady s c slot g then s else stopHalted s c slot

/-- The issuing group's threads wait: those of the active set, or all of them in a port access (R27). -/
def blockLanes (s : State) (all : Bool) : State :=
  modCur s (fun g => { g with blocked := if all then allLanes else s.cur.lanes ++ blockedLanes s g, blockedAt := s.moves })

/-- An instruction that cannot complete yet has not issued: no clk passes, and its threads are not eligible until the device has moved
(R27, R73). -/
def waitAgain (s : State) (all : Bool := false) : State :=
  let c := s.cur.core
  let slot := s.cur.slot
  let s := endIfBlocked (blockLanes s all) c slot true
  match groupAt s c slot with
  | none => s
  | some g => if groupReady s c slot g then s else stopHalted s c slot

/-- Sends an FQUERY for a future's state once (R318, R320). -/
def askFuture (s : State) (h : Dword) : State :=
  let c := s.cur.core
  let slot := s.cur.slot
  if (curGroup s).query.any (fun q => q.h == h) then s
  else send (modCur s (fun g => { g with query := g.query ++ [{ h := h, reply := none }] })) c (hHome h) (.fquery c slot h)

/-- The limit of a stalled GRPOPEN begins (R417). -/
def armGrpWait (s : State) : State :=
  match (curGroup s).grpWait with
  | some _ => s
  | none => after (modCur s (fun g => { g with grpWait := some (s.clk + 70400, s.cur.pc, s.cur.lanes) })) 70400 (.groupTimeout s.cur.core s.cur.slot)

/-- A request enters the allocation queue (R273). -/
def enterAcc (s : State) (n : Nat) : State :=
  let c := s.cur.core
  let r : AccReq := { slot := s.cur.slot, team := (curGroup s).team, n := n, at_ := s.clk, pc := s.cur.pc }
  kickAcc (modCore s c (fun k => { k with accQ := k.accQ ++ [r] })) c

/-- An ACCEPI has been issued: what is released from now on does not start on the tile before it has read (R289). -/
def enterEpi (s : State) (ph : Nat) : State :=
  if (curGroup s).epi.any (fun x => x.1 == s.cur.pc && x.2.1 == ph) then s
  else
    let n := (coreAt s s.cur.core).opOrder
    modCur s (fun g => { g with epi := (s.cur.pc, ph, n) :: g.epi.filter (fun x => !(x.1 == s.cur.pc)) })

/-- What an instruction that did not complete leaves behind. -/
def stopped (s : State) (x : Stop) : State :=
  let s := spendFree s
  match x with
  | .stall => waitAgain s
  | .port => waitAgain s true
  | .cut => waitAgain s
  | .ask p page => waitAgain (askAts s s.cur.core p page (s.cur.core, s.cur.slot))
  | .query h => waitAgain (askFuture s h)
  | .grpOpen => waitAgain (armGrpWait s)
  | .accAlloc n => waitAgain (enterAcc s n)
  | .accEpi ph => waitAgain (enterEpi s ph)
  | .inval k p va => waitAgain (startInval s s.cur.core s.cur.slot { kind := k, pasid := p, va := va })
  | .fault f => takeFault s f

/-- The state in which an instruction's effect begins: a wait for earlier chunks is over, and a chunk is open (R161). -/
def begun (s : State) : State :=
  beginAt (modCur s (fun g => { g with hold := false })) s.cur.core s.cur.slot

/-- Runs an instruction's effect on the issuing group. -/
def attempt (len : Nat) (m : M Unit) (s : State) : Except Stop State :=
  match (advancePcs len >>= fun _ => m) (begun s) with
  | .ok (_, s') => .ok s'
  | .error x => .error x

/-- An instruction's effect has happened, but for a shadow latch's flag on an instruction that itself issues guarded: that is TIMING_HARD,
which stops the team before the instruction and corks the core (R186). -/
def finish (before after_ : State) : State :=
  let k := ctrKey 1 before.cur.core 6
  if (curGroup before).replay.isSome && decide (ctrGet before k ≠ ctrGet after_ k) then
    cork (takeFault before { code := fcTimingHard }) before.cur.core 2
  else retire after_

/-- Ends the chunk before the instruction and tries it as the first of the next (R195, R215, R216). -/
def retryAfterCut (len : Nat) (m : M Unit) (s : State) : State :=
  let g := curGroup s
  let s := endChunk (spendFree s) s.cur.core s.cur.slot
  if !sameGroup s s.cur.core s.cur.slot g || !groupReady s s.cur.core s.cur.slot (curGroup s) then waitAgain s
  else match attempt len m s with
    | .ok s' => finish s s'
    | .error x => stopped s x

/-- An instruction of a unit of `len` bytes with effect `m`, issued by the group and threads that `State.cur` names. -/
def issue (len : Nat) (m : M Unit) (s : State) : Host.Outcome State Fault Refusal :=
  match groupAt s s.cur.core s.cur.slot with
  | none => .fault .noGroup
  | some _ =>
    match attempt len m s with
    | .ok s' => .next (finish s s')
    | .error .cut => .next (retryAfterCut len m s)
    | .error x => .next (stopped s x)

/-! ### What a step chooses -/

/-- The oldest message in flight between the agents of message `k`: messages of one pair arrive in order (R309). -/
def nextOfPair (net : List Msg) (k : Nat) : Nat :=
  match net[k]? with
  | none => k
  | some m => net.findIdx (fun x => x.src == m.src && x.dst == m.dst)

/-- A margin window that ends in this clk waits for the instruction that issues in it: an MTSR to MCTL is applied first (R184). A thief's
request is served after the JOINs of its clk (R305), and a heartbeat in the clk of expiry counts as before it (R457). -/
def laterInClk (s : State) (t : Nat × Instr) : Bool :=
  match t.2 with
  | .marginWindowEnd _ => decide (t.1 = s.clk) && (nextIssue s).isSome
  | .stealreq _ _ _ => decide (t.1 = s.clk) && (nextIssue s).isSome
  | .heartbeatTimeout => decide (t.1 = s.clk) && (nextIssue s).isSome
  | _ => false

/-- The timer that has been due for longest, with its place. -/
def dueTimer (s : State) : Option (Nat × Instr) :=
  let due := s.timers.zipIdx.filter (fun x => decide (x.1.1 ≤ s.clk) && !laterInClk s x.1)
  (due.find? (fun x => due.all (fun y => decide (x.1.1 ≤ y.1.1)))).map (fun x => (x.2, x.1.2))

/-- The clk of the first timer to come. -/
def nextDeadline (s : State) : Nat :=
  match s.timers with
  | [] => 0
  | t :: ts => ts.foldl (fun n u => min n u.1) t.1

/-! ### Fetch -/

/-- Word `k` of the unit at the issuing group's PC: translated as a fetch, and read as the group sees memory, from its home slice
(R79, R80, R188, R189, R217). -/
def fetchWord (s : State) (k : Nat) : Except Stop Word × State :=
  let g := curGroup s
  let va : Dword := s.cur.pc.signExtend 64 + BitVec.ofNat 64 (4 * k)
  let acc : Access := { fetch := true }
  match xlate s s.cur.core g.pasid g.fmode va acc with
  | (.error (.wait page), s) => (.error (.ask (curGroup s).pasid page), s)
  | (.error .held, s) => (.error .stall, s)
  | (.error (.fault code recov), s) => (.error (.fault (xfault (s.cur.lanes.headD 0) acc code va.toNat recov g.fmode)), s)
  | (.ok x, s) =>
    let line := homePa x.pa / 128
    let s := readLine s line
    if tracked (128 * line) && heldRead s (some (s.cur.core, s.cur.slot)) line then (.error .stall, s)
    else if readWaits s line then (.error .stall, s)
    else if isPoisoned s line && !ownWhole g (x.pa / 128) then
      (.error (.fault { code := fcMemUncorrectable, fetch := true, lane := s.cur.lanes.headD 0, addr := x.pa / 128 * 128 }), s)
    else (.ok (BitVec.ofNat 32 (natOfBytes ((List.range 4).map (fun i => viewByte s g (x.pa + i))))), l2Fetch s line)

/-- The length of a unit: a prefix is one word, the instruction one (R75). -/
def unitLen (p : Option Pfx) : Nat := if p.isSome then 8 else 4

/-- An instruction that may carry a prefix. -/
def issueP (p : Option Pfx) (m : M Unit) (s : State) : Host.Outcome State Fault Refusal := issue (unitLen p) m s

/-- A privileged instruction that issues guarded (R186): it is non-replayable, and its chunk ends after it (R163). -/
def issueGuarded (m : M Unit) (s : State) : Host.Outcome State Fault Refusal := issue 4 (m >>= fun _ => guardM >>= fun _ => endAfter) s

end Sys2Proof.Machine
end

