-- ==== Sys2Proof/Machine/Hostq.lean ====
section
/-! DEFINITION. Sys2Proof/Machine/Hostq.lean: work queues (R336 to R338), their dispatch (R343, R347), the checks of a LAUNCH (R339, R340),
reservations, placement and binding (R22 to R24, R193, R194, R351, R352), and the completion of a grid (R340). -/

namespace Sys2Proof.Machine

/-- Whether the firmware of a die runs no program of its own in the slots of its vintner core: the model then does what the command
firmware does (R348). -/
def firmwareIdle (s : State) (d : Nat) : Bool :=
  match vintnerOf s d with
  | none => true
  | some c => (coreAt s c).groups.isEmpty

/-! ### Fields of packed records -/

/-- Bits [hi:lo] of a number. -/
def fieldOf (n hi lo : Nat) : Nat := n / 2 ^ lo % 2 ^ (hi + 1 - lo)

/-- Replaces bits [hi:lo] of a number. -/
def setField (n hi lo v : Nat) : Nat := n - fieldOf n hi lo * 2 ^ lo + (v % 2 ^ (hi + 1 - lo)) * 2 ^ lo

/-- Bytes [hi:lo] of a record, as a number. -/
def bytesField (n hi lo : Nat) : Nat := fieldOf n (8 * hi + 7) (8 * lo)

/-! ### Queue descriptors (R336) -/

def descAt (s : State) (q : Nat) : Nat := memNat s (s.mmio.qtbase + 64 * q) 64
def putDesc (s : State) (q n : Nat) : State := performWrite s none (bytesAt (s.mmio.qtbase + 64 * q) (bytesOf 64 n))

def qLsize (n : Nat) : Nat := fieldOf n 68 64
def qCls (n : Nat) : Nat := fieldOf n 70 69
def qPriv (n : Nat) : Bool := fieldOf n 71 71 == 1
def qEn (n : Nat) : Bool := fieldOf n 72 72 == 1
def qPasid (n : Nat) : Nat := fieldOf n 92 73
def qRptr (n : Nat) : Nat := fieldOf n 127 96
def qWptr (n : Nat) : Nat := fieldOf n 159 128
def qDie (n : Nat) : Nat := fieldOf n 169 168
def qMsix (n : Nat) : Nat := fieldOf n 202 192

/-- Some queue has EN = 1 (R335). -/
def anyQueueOn (s : State) : Bool := (List.range 16384).any (fun q => qEn (descAt s q))

/-- An MSI-X message leaves. -/
def sendMsix (s : State) (v : Nat) : State := { s with msix := v :: s.msix }

/-! ### Slots and wait lists (R345) -/

/-- The slot that holds a queue. -/
def slotOf (s : State) (q : Nat) : Option Nat := (s.hslots.find? (fun e => e.2.q == q)).map (·.1)

/-- The wait list of a class of a die. -/
def waitList (s : State) (d cls : Nat) : List Nat := (aget (dieAt s d).waits cls).getD []

/-- Replaces a wait list. -/
def putWait (s : State) (d cls : Nat) (l : List Nat) : State := modDie s d (fun x => { x with waits := aset x.waits cls l })

/-- A queue joins the end of its class's wait list unless it is on it. -/
def joinWait (s : State) (q : Nat) : State :=
  let n := descAt s q
  let l := waitList s (qDie n) (qCls n)
  if q ∈ l then s else putWait s (qDie n) (qCls n) (l ++ [q])

/-- A queue goes to the head of its class's wait list (R346). -/
def headWait (s : State) (q : Nat) : State :=
  let n := descAt s q
  putWait s (qDie n) (qCls n) (q :: (waitList s (qDie n) (qCls n)).filter (fun x => !(x == q)))

/-- A queue leaves every wait list. -/
def leaveWait (s : State) (q : Nat) : State :=
  { s with dies := s.dies.map (fun (e : Nat × Die) =>
      (e.1, { e.2 with waits := e.2.waits.map (fun w => (w.1, w.2.filter (fun x => !(x == q)))) })) }

/-- Whose reserve a slot index belongs to; 4 for the shared slots (R345). -/
def reserveOf (slot : Nat) : Nat :=
  let i := slot % 256
  if i < 32 then 0 else if i < 64 then 1 else if i < 128 then 2 else if i < 144 then 3 else 4

/-- Frees a slot; a WAIT at its boundary is evaluated afresh when its queue is mapped again. -/
def dropSlot (s : State) (slot : Nat) : State :=
  let wait := fun (p : Pkt) => p.deadline.isSome && ((aget s.hslots slot).map (fun h => h.q == p.q)).getD false
  { s with hslots := adel s.hslots slot, pkts := s.pkts.filter (fun p => !wait p) }

/-! ### Packets (R338) -/

/-- Bytes that the queue unit of a core reads at an address in a PASID, or why it cannot; a line that a commit or a packet holds makes the read wait
(R190, R220), and poison is a failure (R240). -/
def queueRead (s : State) (c p : Nat) (va : Dword) (n : Nat) (who : Agent := .unit) : Except (XErr × Nat) (List Byte) × State :=
  match engineAddrs s c p va n false who with
  | (.error e, s) => (.error e, s)
  | (.ok pas, s) =>
    match unitRead s (pas.map homePa) with
    | none => (.error (.held, va.toNat), s)
    | some s =>
      if (poisonAt s (pas.map homePa)).isSome then (.error (.fault fcMemUncorrectable false, va.toNat), s)
      else (.ok (pas.map (nowByte s)), s)

/-- A read or a write has failed, where others only wait (R343). -/
def isFailure : XErr → Bool
  | .fault _ _ => true
  | _ => false

/-- The 64 bytes of the packet at a queue's RPTR, read in the queue's PASID by the vintner core of its die (R338). -/
def fetchPacket (s : State) (q : Nat) : Except (XErr × Nat) Nat × State :=
  let n := descAt s q
  let va := BitVec.ofNat 64 (fieldOf n 63 0 + 64 * (qRptr n % 2 ^ qLsize n))
  let (x, s) := queueRead s ((vintnerOf s (qDie n)).getD (64 * qDie n)) (qPasid n) va 64
  (x.map natOfBytes, s)

/-- Queue error (R343): ERR, EN cleared, the slot freed, MSI-X, log event 0x0008. -/
def queueError (s : State) (q err : Nat) : State :=
  let n := descAt s q
  let s := putDesc s q (setField (setField n 167 160 err) 72 72 0)
  let s := match slotOf s q with
    | some i => dropSlot s i
    | none => s
  postLog (sendMsix (leaveWait s q) (qMsix n)) 0x0008 (qDie n) (q / 64) (Config.logData 0x0008 q err)

/-- Packets of a queue that are consumed and not complete. -/
def pending (s : State) (q : Nat) : Bool := s.pkts.any (fun p => p.q == q && p.deadline.isNone)

/-- The packet must wait for every earlier one: FENCE, SIGNAL and MARKER (R338, R341). -/
def fenced (pk : Nat) : Bool := fieldOf pk 8 8 == 1 || fieldOf pk 7 0 == 3 || fieldOf pk 7 0 == 5

/-- A WAIT of the queue stands at its boundary and cannot pass yet. -/
def waiting (s : State) (q : Nat) : Bool := s.pkts.any (fun p => p.q == q && p.deadline.isSome && !p.pass)

/-- A slot is ready: its queue has a packet at a passable boundary (R347). -/
def slotReady (s : State) (h : HSlot) : Bool :=
  let n := descAt s h.q
  if h.consuming || h.unmap || !qEn n || qRptr n == qWptr n || waiting s h.q || decide (s.clk < h.retry) then false
  else match (fetchPacket s h.q).1 with
    | .error _ => true
    | .ok pk => !(fenced pk && pending s h.q)

/-- The step of a packet, by its TYPE and, for a CTXOP, its OP. -/
def packetStep (slot pk : Nat) : Option Instr :=
  let ty := fieldOf pk 7 0
  let op := bytesField pk 8 8
  if ty = 1 then some (.launch slot) else if ty = 2 then some (.copyPacket slot) else if ty = 3 then some (.signal slot)
  else if ty = 4 then some (.wait slot) else if ty = 5 then some (.marker slot)
  else if ty = 6 then
    (if op = 0 then some (.ctxopCreate slot) else if op = 1 then some (.ctxopDestroy slot) else if op = 2 then some (.ctxopSlice slot)
     else if op = 3 then some (.ctxopPreempt slot) else some (.ctxopResume slot))
  else none

/-- Shares of a round of 16 decisions (R347). -/
def shareOf (cls : Nat) : Nat := ([8, 4, 3, 1] : List Nat).getD cls 0

/-- The ready slots of a class on a die. -/
def readySlots (s : State) (d cls : Nat) : List Nat :=
  (s.hslots.filter (fun e => decide (e.1 / 256 = d) && e.2.cls == cls && slotReady s e.2)).map (·.1)

/-- Decisions left to a class in the round (key 4 + class). -/
def leftOf (s : State) (d cls : Nat) : Nat := sget (shareOf cls) (dieAt s d).rr (4 + cls)

/-- Sets the decisions left to a class. -/
def putLeft (s : State) (d cls n : Nat) : State := modDie s d (fun x => { x with rr := sset (shareOf cls) x.rr (4 + cls) n })

/-- The class that the next decision goes to, and the class whose share it uses. -/
def pickClass (s : State) (d : Nat) : Option (Nat × Nat) :=
  let ready := (List.range 4).filter (fun c => !(readySlots s d c).isEmpty)
  match ready.find? (fun c => decide (0 < leftOf s d c)) with
  | some c => some (c, c)
  | none =>
    match ready.head?, (List.range 4).find? (fun c => decide (0 < leftOf s d c)) with
    | some c, some u => some (c, u)
    | some c, none => some (c, c)
    | none, _ => none

/-- The packet at a slot's boundary is tried again in 1 µs. -/
def delayPacket (s : State) (slot : Nat) : State :=
  match aget s.hslots slot with
  | none => s
  | some h =>
    after { s with hslots := aset s.hslots slot { h with consuming := false, retry := s.clk + 1100 } } 1100 (.waitRecheck slot)

/-- One decision of a die's dispatch (R347): the class by its share, the slot by round robin, and the step of its packet. A packet of no
type, one that cannot be fetched, and one of no created context are queue errors (R343); the next decision follows. -/
def decide_ (d : Nat) : Nat → State → State
  | 0, s => s
  | fuel + 1, s =>
    if s.fw.qhold.getLsbD d || s.hslots.any (fun e => decide (e.1 / 256 = d) && e.2.consuming) then s
    else match pickClass s d with
    | none => s
    | some (cls, use_) =>
      let s := if leftOf s d use_ = 0 then (List.range 4).foldl (fun s c => putLeft s d c (shareOf c)) s else s
      let s := putLeft s d use_ (leftOf s d use_ - 1)
      let rs := readySlots s d cls
      let last := sget 0 (dieAt s d).rr cls
      match (rs.find? (fun i => decide (last < i + 1 ∧ last ≠ i + 1))).or rs.head? with
      | none => s
      | some i =>
        let s := modDie s d (fun x => { x with rr := sset 0 x.rr cls (i + 1) })
        match aget s.hslots i with
        | none => s
        | some h =>
          let h := { h with share := use_ }
          let p := qPasid (descAt s h.q)
          let (pk, s) := fetchPacket s h.q
          if !ctxLive s p || ((ctxOf s p).map (·.2.dying)).getD true then decide_ d fuel (queueError s h.q 6)
          else match pk with
          | .error e => decide_ d fuel (if isFailure e.1 then queueError s h.q 5 else delayPacket s i)
          | .ok pk =>
            match packetStep i pk with
            | none => decide_ d fuel (queueError s h.q 1)
            | some e => send { s with hslots := aset s.hslots i { h with consuming := true } } (engineAgent d) (engineAgent d) e

/-- A die's dispatch: decisions until a packet's step has begun or no slot is ready (R347). -/
def dispatch (s : State) (d : Nat) : State := decide_ d 1024 s

/-- Every die looks for a decision. -/
def dispatchAll (s : State) : State := (List.range 4).foldl dispatch s

/-! ### The mapping of queues (R345, R346) -/

/-- Maps a queue to a free slot, in its class; a slot of another class's reserve is lent (R345, R350). -/
def mapQueue (s : State) (slot q : Nat) : State :=
  let cls := qCls (descAt s q)
  let own := reserveOf slot
  let lent := if own = 4 ∨ own = cls then none else some s.clk
  let s := leaveWait s q
  dispatch { s with hslots := aset s.hslots slot { q := q, cls := cls, lent := lent, consuming := false, unmap := false } } (slot / 256)

/-- A lent slot goes back to the class of its reserve, whose first waiting queue it takes; the queue that it leaves goes to the head of its
own list (R346). -/
def takeBack (s : State) (slot q : Nat) : State :=
  match waitList s (slot / 256) (reserveOf slot) with
  | [] => headWait (dropSlot s slot) q
  | r :: _ => mapQueue (headWait (dropSlot s slot) q) slot r

/-- A slot is back at a packet boundary: a dying context's queue stops there, an unmapping takes effect, and EN = 0
unmaps the queue (R336, R346, R378). -/
def atPacketBoundary (s : State) (slot : Nat) : State :=
  match aget s.hslots slot with
  | none => s
  | some h =>
    let s := { s with hslots := aset s.hslots slot { h with consuming := false } }
    if ((ctxOf s (qPasid (descAt s h.q))).map (·.2.dying)).getD false then queueError s h.q 6
    else if !qEn (descAt s h.q) then dropSlot s slot
    else if h.unmap then takeBack s slot h.q
    else s

/-- A packet has not started: its slot is back at the boundary, and the packet is tried again in 1 µs if its queue is still there (R336, R338,
R346). -/
def retryPacket (s : State) (slot : Nat) : State :=
  let q := (aget s.hslots slot).map (·.q)
  let s := atPacketBoundary s slot
  dispatch (if q.isSome && (aget s.hslots slot).map (·.q) = q then delayPacket s slot else s) (slot / 256)

/-- A WAIT that cannot pass is no decision: the share that it used is given back (R347). -/
def giveShare (s : State) (slot : Nat) : State :=
  match aget s.hslots slot with
  | none => s
  | some h => putLeft s (slot / 256) h.share (leftOf s (slot / 256) h.share + 1)

/-- The slots of a die in the order in which a class looks for a free one: its own reserve, the shared slots, the others' (R345). -/
def slotOrder (d cls : Nat) : List Nat :=
  let of := fun (p : Nat → Bool) => ((List.range 256).map (256 * d + ·)).filter (fun i => p (reserveOf i))
  of (· == cls) ++ of (· == 4) ++ of (fun k => k != cls && k != 4)

/-- Maps the queues of a class's wait list, from its head, while a slot is free. -/
def mapClass (d cls : Nat) : Nat → State → State
  | 0, s => s
  | fuel + 1, s =>
    match waitList s d cls with
    | [] => s
    | q :: _ =>
      if !qEn (descAt s q) || (slotOf s q).isSome then mapClass d cls fuel (leaveWait s q)
      else match (slotOrder d cls).find? (fun i => (aget s.hslots i).isNone) with
        | none => s
        | some i => mapClass d cls fuel (mapQueue s i q)

/-- The slots of a class's reserve (R345). -/
def reserveSize (cls : Nat) : Nat := ([32, 32, 64, 16] : List Nat).getD cls 0

/-- Takes back the slot of a class's reserve that was lent most recently, at its packet boundary; its queue goes to the head of its wait
list (R346). -/
def reclaim (s : State) (d cls : Nat) : State :=
  let held := (s.hslots.filter (fun e => decide (e.1 / 256 = d) && e.2.cls == cls)).length
  let lent := s.hslots.filter (fun e => decide (e.1 / 256 = d) && reserveOf e.1 == cls && e.2.lent.isSome && !e.2.unmap)
  if (waitList s d cls).isEmpty ∨ reserveSize cls ≤ held then s
  else
    match lent.find? (fun e => lent.all (fun f => decide (f.2.lent.getD 0 < e.2.lent.getD 0 ∨ (f.2.lent = e.2.lent ∧ f.1 ≤ e.1)))) with
    | none => s
    | some e =>
      if e.2.consuming then { s with hslots := aset s.hslots e.1 { e.2 with unmap := true } } else takeBack s e.1 e.2.q

/-- The command firmware serves its wait lists, higher classes first (R345, R346). -/
def serveQueues (s : State) (d : Nat) : State :=
  (List.range 4).foldl (fun s cls => reclaim (mapClass d cls 256 s) d cls) s

/-- A packet is consumed: RPTR advances; it stays pending until it completes (R338). -/
def consume (s : State) (slot q : Nat) (irq : Bool) : State :=
  let n := descAt s q
  let r := qRptr n
  let s := putDesc s q (setField n 127 96 (r + 1))
  let s := { s with pkts := s.pkts.filter (fun p => !(p.q == q && p.deadline.isSome)) ++ [{ q := q, n := r, irq := irq, deadline := none }] }
  atPacketBoundary s slot

/-- A COPY packet's copy ends with a fault: queue error COPY (R341). -/
def endPacketCopy (s : State) (id q n : Nat) : State :=
  dispatchAll (queueError { s with copies := adel s.copies id
                                   pkts := s.pkts.filter (fun p => !(p.q == q && p.n == n && p.deadline.isNone)) } q 8)

/-- An agent whose fault entry is answered with abort (R359): its grid is aborted; a COPY packet's copy ends with queue error COPY. -/
def refuseAgent (s : State) (e : FaultEnt) : State :=
  match (if e.agent = 1 then (aget s.copies e.id).bind (·.pkt) else none) with
  | some (q, n) => endPacketCopy s e.id q n
  | none => abortAgent s e

/-- A packet completes: its MSI-X is sent if it asked for one, and what waited for it may go on (R338). -/
def completePacket (s : State) (q n : Nat) : State :=
  match s.pkts.find? (fun p => p.q == q && p.n == n && p.deadline.isNone) with
  | none => s
  | some p =>
    let s := { s with pkts := s.pkts.filter (fun x => decide (x ≠ p)) }
    dispatchAll (if p.irq then sendMsix s (qMsix (descAt s q)) else s)

/-! ### LAUNCH images (R339, R340) -/

/-- Channel words of a LAUNCH. -/
def chanWord (img i : Nat) : Nat := fieldOf img (8 * 36 + 16 * i + 15) (8 * 36 + 16 * i)

/-- The peer of a channel word: five signed bits. -/
def chanPeer (w : Nat) : Int := (BitVec.ofNat 5 (w / 128)).toInt

/-- The grid that an image asks for. -/
def gridOfImage (img pasid : Nat) (pkt : Option (Nat × Nat)) : Grid :=
  { pasid := pasid
    roots := bytesField img 15 8
    nroot := bytesField img 19 16
    scratch := bytesField img 23 20
    regs := 16 * bytesField img 24 24
    team := 2 ^ fieldOf img (8 * 25 + 1) (8 * 25)
    gang := fieldOf img (8 * 25 + 2) (8 * 25 + 2) == 1
    w := fieldOf img (8 * 26 + 3) (8 * 26)
    h := fieldOf img (8 * 26 + 6) (8 * 26 + 4)
    acc := bytesField img 27 27
    drain := bytesField img 29 28
    lthresh := bytesField img 31 30
    rsl := if bytesField img 33 32 = 0 then 64 else bytesField img 33 32
    parts := BitVec.ofNat 8 (bytesField img 34 34)
    lat := bytesField img 35 35
    chans := ((List.range 8).filter (fun i => decide (chanWord img i % 128 ≠ 0))).map (fun i =>
      (i, { slots := chanWord img i % 128, peer := chanPeer (chanWord img i) }))
    doneAddr := BitVec.ofNat 64 (bytesField img 63 56)
    pkt := pkt }

/-- A field of the image outside its range, or a nonzero reserved byte: BADLAUNCH. -/
def badLaunch (img : Nat) (x : Grid) : Bool :=
  decide (x.roots % 128 ≠ 0) || decide (x.nroot < 1) || decide (4096 < x.nroot)
    || decide (fieldOf img (8 * 25 + 7) (8 * 25 + 3) ≠ 0) || decide (fieldOf img (8 * 26 + 7) (8 * 26 + 7) ≠ 0)
    || decide (8 < x.acc) || decide (x.drain < 1) || decide (x.rsl < 8)
    || decide (3 < x.lat) || (!x.gang && decide (x.lat ≠ 0)) || decide (bytesField img 55 52 ≠ 0)
    || (List.range 8).any (fun i => let w := chanWord img i
        decide (w / 4096 ≠ 0) || decide (64 < w % 128) || decide (11 < (chanPeer w).natAbs))

/-- The partition size of a request, in units of 32 KiB (R193). -/
def partitionUnits (scratch : Nat) : Nat := (scratch + 32767) / 32768

/-- The root closure lines of a grid, read in its PASID, or why one of them cannot be read. -/
def rootLines (c : Nat) (x : Grid) (who : Agent) : Nat → State → Except (XErr × Nat) (List (List Dword)) × State
  | 0, s' => (.ok [], s')
  | n + 1, s' =>
    match rootLines c x who n s' with
    | (.error e, s') => (.error e, s')
    | (.ok ls, s') =>
      let (p, s') := queueRead s' c x.pasid (BitVec.ofNat 64 (x.roots + 128 * n)) 128 who
      (p.map (fun bs => ls ++ [dwsOf (natOfBytes bs)]), s')

/-- The entries that a grid's roots will take in the deques, from their closure lines (R304, R352). -/
def withRoots (x : Grid) (roots : List (List Dword)) : Grid :=
  { x with rootEnts := roots.zipIdx.map (fun e => entryOf (BitVec.ofNat 64 (x.roots + 128 * e.2)) e.1) }

/-- The compute cores of a grid's partitions. -/
def partsCores (s : State) (x : Grid) : List Nat :=
  ((List.range 8).filter (fun p => x.parts.getLsbD p)).flatMap (fun p => (partitionCores p).filter (isCompute s))

/-- The launch status of R340, the first that applies in its order; 0 where none does. -/
def launchStatus (s : State) (img : Nat) (x : Grid) (roots : List (List Dword)) : Nat :=
  let share := ((ctxOf s x.pasid).map (·.2.stksz)).getD 0 / 256
  let ctxDrain := ((ctxOf s x.pasid).map (·.2.drain)).getD 0
  if badLaunch img x then 9
  else if x.regs < 32 ∨ 256 < x.regs then 4
  else if x.w < 1 ∨ 8 < x.w ∨ x.h < 1 ∨ 4 < x.h ∨ 12 < x.w * x.h ∨ roots.any (fun cl => decide (clShape cl ≠ Nat.log2 x.team)) then 3
  else if 8 < partitionUnits x.scratch then 1
  else if 128 < x.chans.foldl (fun n e => n + e.2.slots) 0 then 2
  else if ctxDrain < x.drain then 5
  else if share < 64 * x.rsl * 128 then 10
  else if (partsCores s x).isEmpty then 6
  else if roots.any (fun cl => decide (clDw cl 1 ≠ 0) || decide (clDw cl 3 ≠ 0) || decide (clDw cl 4 ≠ 0)) then 8
  else 0

/-- A status that is decided before any root closure is read: BADLAUNCH, REGS, and the part of SHAPE that the image itself breaks, in R340's
order. -/
def earlyStatus (st : Nat) : Bool := st == 9 || st == 4 || st == 3

/-! ### Placement (R18, R23, R351) -/

/-- The cores of a w × h rectangle of a die, row-major from its corner. -/
def rectCores (d x0 y0 w h : Nat) : List Nat :=
  (List.range h).flatMap (fun y => (List.range w).map (fun x => 64 * d + 8 * (y0 + y) + x0 + x))

/-- Every place that a cluster of a shape may take in the grid's partitions. -/
def places (x : Grid) : List (List Nat) :=
  ((List.range 8).filter (fun p => x.parts.getLsbD p)).flatMap (fun p =>
    (List.range (5 - x.h)).flatMap (fun y => (List.range (9 - x.w)).map (fun x0 =>
      rectCores (p / 2) x0 (4 * (p % 2) + y) x.w x.h)))

/-- Takes places in order while their cores are available. -/
def takePlaces (avail : List Nat) : List (List Nat) → List (List Nat)
  | [] => []
  | r :: rs =>
    if r.all (fun c => decide (c ∈ avail)) then r :: takePlaces (avail.filter (fun c => !(decide (c ∈ r)))) rs
    else takePlaces avail rs

/-- A placement of clusters on available cores: the order of trial is a free choice (log 22). -/
def place (s : State) (x : Grid) (avail : List Nat) : List (List Nat) × State :=
  if x.w * x.h = 1 then (avail.map ([·]), s)
  else
    let (f, s) := takeFree s
    let ps := places x
    let k := f % max 1 ps.length
    (takePlaces avail (ps.drop k ++ ps.take k), s)

/-- A compute core that no grid holds or has reserved. -/
def coreFree (s : State) (c : Nat) : Bool := isCompute s c && (coreAt s c).grid.isNone && (coreAt s c).reserved.isNone

/-- The lowest grid number that no live grid of a context holds (R169; log 23). -/
def freshGnum (s : State) (p : Nat) : Nat :=
  ((List.range 4096).find? (fun n => s.grids.all (fun e => !(e.2.pasid == p && e.2.gnum == n)))).getD 0

/-- A byte of a line of the reserved range that holds a reduction id of the cluster of head core `c` (R416). -/
def isIdByte (c a : Nat) : Bool := decide (128 * mcstLine c 0 ≤ a) && decide (a < 128 * mcstLine c 16)

/-- A byte of a line of the reserved range that belongs to a core: the ids of its cluster and the cursors of its pieces (R312, R416). -/
def isKeyByte (c a : Nat) : Bool := isIdByte c a || (decide (128 * cursorLine c 0 ≤ a) && decide (a < 128 * cursorLine c 64))

/-- The ids of a cluster are closed at its binding: the lines that hold their state read zero (R394, R416). -/
def closeIds (s : State) (c : Nat) : State := { s with mem := s.mem.filter (fun e => !isIdByte c e.1) }

/-- What GANGRES answers (R351): STATUS, then INDEX and GEN, or LSTAT. -/
structure Reservation where
  status : Nat
  index : Nat := 0
  gen : BitVec 8 := 0
  lstat : Nat := 0
  deriving DecidableEq, Repr

/-- Makes a reservation for a grid whose image has passed the checks: of every free compute core of its partitions (R351). -/
def reserve (s : State) (x : Grid) : Reservation × State :=
  let cores := partsCores s x
  let free := cores.filter (coreFree s)
  if (x.gang && decide (free.length ≠ cores.length)) || free.isEmpty then ({ status := 1 }, s)
  else
    let (cls, s) := place s x free
    match (List.range 16).find? (fun i => ((aget s.gangs i).getD {}).grid.isNone) with
    | none => ({ status := 3 }, s)
    | some i =>
      if cls.isEmpty then ({ status := 1 }, s)
      else
        let gn := (freshKey s.grids (s.grids.length + 1) 1).getD 1
        let r := (aget s.gangs i).getD {}
        let s := free.foldl (fun s c => modCore s c (fun k => { k with reserved := some gn })) s
        let s := cls.foldl (fun s m => match m with
          | [] => s
          | c :: _ => closeIds { s with clusters := aset s.clusters c { grid := gn, members := m, bar := {}, flight := [] } } c) s
        ({ status := 0, index := i, gen := r.gen },
          { s with grids := aset s.grids gn { x with gnum := freshGnum s x.pasid, cores := cls.flatten }
                   gangs := aset s.gangs i { r with grid := some gn } })

/-! ### Binding (R24, R194) -/

/-- The victim map of a core for its stealing domain (R37, R388). -/
def victimMap (s : State) (x : Grid) (c : Nat) (members : List Nat) : BitVec 256 :=
  let dom := if x.w * x.h = 1 then partsCores s x else members.filter (isCompute s)
  (dom.filter (fun v => decide (v ≠ c))).foldl (fun m v => m ||| BitVec.ofNat 256 (2 ^ v)) 0

/-- Binds a cluster's cores to a grid: the partition is sized and zeroed, and every line of it reads 0 (R194). -/
def bindCluster (s : State) (gn : Nat) (x : Grid) (members : List Nat) : State :=
  let n := partitionUnits x.scratch
  members.zipIdx.foldl (fun s m => modCore (fitL1 s m.1 n) m.1 (fun k =>
    { k with
      grid := some gn, reserved := none, cluster := members.headD m.1, cidx := m.2, scratch := [], fresh := []
      steal := { victims := victimMap s x m.1 members } })) s

/-- The clusters of a grid, in ascending number. -/
def gridClusters (s : State) (gn : Nat) : List (Nat × Cluster) := s.clusters.filter (fun e => e.2.grid == gn)

/-- Cores bound to a grid of a context. -/
def ctxCores (s : State) (p : Nat) : List Nat :=
  (s.cores.filter (fun e => ((e.2.grid.bind (gridAt s)).map (·.pasid)) == some p)).map (·.1)

/-- The dies on which a context has cores. -/
def ctxDies (s : State) (p : Nat) : List Nat := ((ctxCores s p).map dieOf).dedup

/-- A slice of a context on a die begins at clk `t0`: its end is set, with the die's charge taken off, never below a quarter (R353, R356). -/
def sliceFrom (s : State) (i d t0 : Nat) : State :=
  match aget s.ctxs i with
  | none => s
  | some c =>
    let len := 1100 * c.slice
    let owed := sget 0 c.charge d
    let off := min owed (len - len / 4)
    let e := t0 + (len - off)
    let left := sset 0 c.charge d (owed - off)
    let s := { s with ctxs := aset s.ctxs i { c with ends := aset c.ends d e, charge := left } }
    let s := ctrPut s (ctrKey 5 2 i) (BitVec.ofNat 64 (left.foldl (fun n e => n + e.2) 0))
    after s (e - 1100 * c.drain - s.clk) (.sliceEnd c.pasid)

/-- A context's slice begins on each of its dies where none runs (R348). -/
def startSlice (s : State) (p : Nat) : State :=
  match ctxOf s p with
  | none => s
  | some (i, c) => (ctxDies s p).foldl (fun s d => if s.clk < sget 0 c.ends d then s else sliceFrom s i d s.clk) s

/-- GANGCMT's commit (R352): cores are bound, GLIVE is NROOT, and the roots are pushed at TS, 1,100 counts after the latest die's. -/
def commitGrid (s : State) (gn : Nat) : State :=
  match gridAt s gn with
  | none => s
  | some x =>
    let s := { s with cores := s.cores.map (fun (e : Nat × Core) =>
      if e.2.reserved = some gn then (e.1, { e.2 with reserved := none }) else e) }
    let s := (gridClusters s gn).foldl (fun s e => bindCluster s gn x e.2.members) s
    let dies := (x.cores.map dieOf).dedup
    let ts := (dies.map (fun d => (cycles s d).toNat)).foldl max 0 + 1100
    let s := modGrid s gn (fun x => { x with started := true, glive := BitVec.ofNat 32 x.nroot, ts := ts
                                             rootCores := x.cores.mergeSort (fun a b => decide (a ≤ b)) })
    let s := startSlice s x.pasid
    dies.foldl (fun s d => after s (ts - (cycles s d).toNat) (.gangRootPush gn d)) s

/-- A root reaches its core: its deque, or where a pre-empted context's save holds the core its deque there; the deque of a compute core of the grid
where the core has been corked (R185, R352, R355). -/
def pushRoot (s : State) (gn p c : Nat) (e : DqEntry) : State :=
  if (coreAt s c).grid = some gn then
    pushHot s (if isCompute s c then c else ((boundCores s gn).find? (isCompute s)).getD c) e
  else modSaved s p c (fun k => if k.grid = some gn then { k with deque := k.deque ++ [e] } else k)

/-- A die pushes its share of the roots: root i goes to core i mod N of the grid, in ascending core id (R352). Every core of the die then
looks for work (R37 to R39). -/
def pushRoots (s : State) (gn d : Nat) : State :=
  match gridAt s gn with
  | none => s
  | some x =>
    let s := x.rootEnts.zipIdx.foldl (fun s e =>
      match x.rootCores[e.2 % max 1 x.rootCores.length]? with
      | none => s
      | some c => if dieOf c = d then pushRoot s gn x.pasid c e.1 else s) s
    (x.cores.filter (fun c => decide (dieOf c = d))).foldl kick s

/-- Releases a reservation: its handle's generation advances (R352). -/
def dropReservation (s : State) (i : Nat) : State :=
  match aget s.gangs i with
  | none => s
  | some r => { s with gangs := aset s.gangs i { gen := nextGen r.gen, grid := none } }

/-- GANGABT: the reserved cores are free again. -/
def abortReservation (s : State) (i gn : Nat) : State :=
  let s := { s with cores := s.cores.map (fun (e : Nat × Core) =>
    if e.2.reserved = some gn then (e.1, { e.2 with reserved := none }) else e) }
  dropReservation { s with grids := adel s.grids gn, clusters := s.clusters.filter (fun e => !(e.2.grid == gn)) } i

/-- A context that may not be given cores now: it is stopped, stopping or pre-empted. -/
def ctxParked (s : State) (p : Nat) : Bool :=
  match ctxOf s p with
  | none => true
  | some (_, c) => c.preempted || !c.atQ.isEmpty || c.stopping.isSome || c.saved.any (fun e => e.2.grid.isSome) || c.dying || c.ending

/-- Cores of a partition that have become free are bound to the oldest running grid that is no gang and lists the partition (R351). -/
def bindPartition (s : State) (p : Nat) : State :=
  let gs := s.grids.filter (fun e => e.2.started && !e.2.gang && e.2.parts.getLsbD p && e.2.aborted.isNone && decide (e.2.glive ≠ 0)
    && !ctxParked s e.2.pasid)
  match gs.find? (fun e => gs.all (fun f => decide (e.2.ts ≤ f.2.ts))) with
  | none => s
  | some (gn, x) =>
    let free := (partsCores s { x with parts := BitVec.ofNat 8 (2 ^ p) }).filter (coreFree s)
    if free.isEmpty then s
    else
      let (cls, s) := place s x free
      cls.foldl (fun s m =>
        let s := closeIds { s with clusters := aset s.clusters (m.headD 0) { grid := gn, members := m, bar := {}, flight := [] } } (m.headD 0)
        let s := modGrid (bindCluster s gn x m) gn (fun x => { x with cores := x.cores ++ m })
        m.foldl kick s) s

/-- Cores that have become free are bound, partition by partition (R351). -/
def bindMore (s : State) : State := (List.range 8).foldl bindPartition s

/-! ### Completion (R340) -/

/-- A write by the queue unit waits: a commit holds a line of it, or a store of the device to memory beyond the package is still on its way
there (R219, R223, R229). -/
def unitWriteWaits (s : State) (pas : List Nat) : Bool :=
  writeHeld s ((pas.filter tracked).map (· / 128)) || pas.any (fun a => beyond a && (extByte s a).isSome)

/-- Writes an 8-byte word for the host at a virtual address of a PASID; why it cannot be written, if it cannot. -/
def writeWord (s : State) (c p : Nat) (va : Dword) (v : Nat) : Option XErr × State :=
  let (r, s) := engineAddrs s c p va 8 true
  match r with
  | .error e => (some e.1, s)
  | .ok pas =>
    let pas := pas.map homePa
    if unitWriteWaits s pas then (some .held, s) else (none, performWrite s none (pas.zip (bytesOf 8 v)))

/-- The completion word of a launch status; a word that can no longer be written posts event 0x000B (R340). The word waits, and the answer is
false, while its page is asked of the host or its line is being committed. -/
def writeDone (s : State) (x : Grid) (v : Nat) : Bool × State :=
  if x.doneAddr = 0 then (true, s)
  else
    let c := (x.cores.headD ((vintnerOf s 0).getD 0))
    match writeWord s c x.pasid x.doneAddr v with
    | (none, s) => (true, s)
    | (some (.fault _ _), s) =>
      let q := (x.pkt.map (·.1)).getD 0
      (true, postLog s 0x000B (dieOf c) (q / 64) (Config.logData 0x000B q x.doneAddr.toNat))
    | (some _, s) => (false, s)

/-- Something of the grid has still to be acknowledged or written from its cores (R340). -/
def gridBusy (s : State) (x : Grid) : Bool :=
  s.extOut.any (fun e => decide (e.1 / 64 ∈ x.cores)) || s.reds.any (fun r => decide (r.core ∈ x.cores))

/-- What a context's save holds of a grid that is gone goes with it. -/
def forgetSaved (s : State) (gn : Nat) : State :=
  let part := fun (x : Nat × Core) => (x.1, { x.2 with groups := x.2.groups.filter (fun g => !(g.2.grid == some gn)) })
  { s with ctxs := s.ctxs.map (fun (e : Nat × Ctx) =>
      let gone := (e.2.saved.filter (fun x => x.2.grid == some gn)).map (·.1)
      (e.1, { e.2 with saved := (e.2.saved.filter (fun x => decide (x.1 ∉ gone))).map part
                       clus := e.2.clus.filter (fun x => !(x.2.grid == gn))
                       keys := e.2.keys.filter (fun b => !(gone.any (fun c => isKeyByte c b.1))) })) }

/-- A grid completes: its stash lines are written back, its word is written, its cores are unbound, and its packet is complete (R340). -/
def completeGrid (s : State) (gn : Nat) : State :=
  match gridAt s gn with
  | none => s
  | some x =>
    if gridBusy s x then after s 16 (.gridCompletion gn)
    else
      let v := match x.aborted with
        | none => 0
        | some f => 7 + 2 ^ 16 * f
      let s := (boundCores s gn).foldl (fun s c => writeBack s c ((coreAt s c).stashLines.map (·.line))) s
      match writeDone s x v with
      | (false, s) => after s 1100 (.gridCompletion gn)
      | (true, s) =>
      let s := (boundCores (forgetSaved s gn) gn).foldl unbindCore (forgetSaved s gn)
      let s := { s with grids := adel s.grids gn, copies := s.copies.filter (fun e => !(e.2.grid == some gn)), clusters := s.clusters.filter (fun e => !(e.2.grid == gn)) }
      let s := bindMore s
      match x.pkt with
      | none => dispatchAll s
      | some (q, n) => completePacket (dispatchAll s) q n

end Sys2Proof.Machine
end

