-- ==== Sys2Proof/Machine/Contexts.lean ====
section
/-! DEFINITION. Sys2Proof/Machine/Contexts.lean: the stop of a context and its collector (R353 to R357), its save and restore, the
migration of a corked core (R185), and the completion of a system call (R174). -/

namespace Sys2Proof.Machine

/-! ### Stops -/

/-- Changes a context. -/
def modCtx (s : State) (i : Nat) (f : Ctx → Ctx) : State := { s with ctxs := amod s.ctxs i f }

/-! ### Save and restore -/

/-- What a core holds of a context, apart from what stays with the core. -/
def takeCtx (k : Core) : Core :=
  { k with role := 0, why := 0, l1 := [], stashLines := [], tlb1 := [], tlb2 := [], stlb := [], ptlb := [], margin := {}, mcklim := 8, fpend := 0, fien := 0, fills := []
           phase := 0, claiming := 0, stopReq := false, engineHalt := false, engineStep := none }

/-- A context's part placed on a core again, without groups: those come back by CTXRSTR (R355). -/
def giveCtx (k part : Core) : Core :=
  { part with role := k.role, why := k.why, l1 := k.l1, stashLines := [], tlb1 := k.tlb1, tlb2 := k.tlb2, stlb := k.stlb, ptlb := k.ptlb, margin := k.margin, mcklim := k.mcklim
              fpend := k.fpend, fien := k.fien, fills := k.fills, phase := k.phase, claiming := k.claiming, groups := [] }

/-- Groups of an earlier save that have not come back stay with a core's part. -/
def withLeft (saved : List (Nat × Core)) (c : Nat) (part : Core) : Core :=
  match saved.find? (fun e => e.1 == c) with
  | none => part
  | some e => { part with groups := e.2.groups.foldl (fun m x => aset m x.1 x.2) part.groups }

/-- Every group of a stopped context on a die has been saved by CTXSAVE, and nothing for its cores there is in flight. -/
def ctxSaved (s : State) (p d : Nat) : Bool :=
  ((ctxCores s p).filter (fun c => decide (dieOf c = d))).all (fun c =>
    (coreAt s c).groups.all (fun e => e.2.saved) && s.net.all (fun m => !(m.dst == c)))

/-! ### The save area (R297, R385) -/

/-- The record that CTXSAVE writes of a stopped group (R176). -/
def groupRecord (g : Group) : List Byte :=
  frameBytes { g with irr := g.irr || g.reirr } 2 0 (maskOf (liveLanes g)) (fun l => sget 0 g.r.pc l)

/-- A number padded to a line. -/
def padLine (bs : List Byte) : List Byte := (bs ++ List.replicate (128 - bs.length) 0).take 128

/-- An operation line of a team record. -/
def opLine (o : EngOp) : List Byte :=
  padLine ([BitVec.ofNat 8 o.kind, BitVec.ofNat 8 o.gi, BitVec.ofNat 8 (o.arrived.foldl (fun n i => n ||| 2 ^ i) 0), BitVec.ofNat 8 o.next]
    ++ bytesOf 4 o.word.toNat ++ bytesOf 8 o.opA.toNat ++ bytesOf 8 o.opB.toNat ++ (o.bytes ++ List.replicate 32 0).take 32)

/-- The team record of a team (R297). -/
def teamBytes (k : Core) (team : Nat) (t : Team) : List Byte :=
  let ops := k.ops.filter (fun o => o.team == team)
  let seqs := (List.range 8).foldl (fun n i =>
    n + 2 ^ (4 * i) * (((aget k.groups (team + i)).map (fun g => g.r.seq.toNat)).getD 0)) 0
  let (code, kind, addr) := match t.efault with
    | some e => (e.code, e.kind, e.addr)
    | none => (0, 0, 0)
  padLine ([BitVec.ofNat 8 (t.tiles.foldl (fun n e => n + 2 ^ e.1) 0), BitVec.ofNat 8 ops.length] ++ bytesOf 4 seqs
      ++ [BitVec.ofNat 8 t.est, BitVec.ofNat 8 t.efault.isSome.toNat, BitVec.ofNat 8 code, BitVec.ofNat 8 kind] ++ bytesOf 6 0
      ++ bytesOf 8 addr)
    ++ (List.range 64).flatMap (fun i => bytesOf 2 (sget 0 t.cb i).toNat)
    ++ ops.flatMap opLine
    ++ t.tiles.flatMap (fun e => (List.range 96).flatMap (fun i => (List.range 128).flatMap (fun j =>
        bytesOf 4 (tileGet k e.2 i j).toNat)))

/-- The 16-byte image of a deque entry (R304). -/
def entryImage (e : DqEntry) : List Byte :=
  bytesOf 8 (e.cline.toNat + 2 ^ 50 * e.shape.toNat + 2 ^ 52 * e.kind.toNat + 2 ^ 54 * e.stg.toNat + 2 ^ 55 * e.clm.toNat)
    ++ (if e.kind = 1 then bytesOf 4 e.lo.toNat ++ bytesOf 4 e.hi.toNat else bytesOf 8 (e.result.toNat % 2 ^ 37))

/-- The 32-byte image of a future table entry whose first waiter record is `whead` (R383). -/
def futImage (f : Fut) (whead : Nat) : List Byte :=
  bytesOf 4 (f.st + 2 ^ 2 * f.gen.toNat + 2 ^ 10 * f.rng.toNat) ++ bytesOf 4 f.ctx.toNat ++ bytesOf 8 f.value.toNat
    ++ bytesOf 4 f.items.toNat ++ bytesOf 12 (if f.waiters.isEmpty then 0x1FFF else whead)

/-- The 16-byte images of an entry's waiter records, the first of which is record `n` (R383). -/
def waiterImages (n : Nat) : List (Bool × NodeRef) → List Byte
  | [] => []
  | w :: rest => bytesOf 16 (w.1.toNat + 2 * w.2.core + 2 ^ 9 * (w.2.idx % 4096) + 2 ^ 21 * (if rest.isEmpty then 0x1FFF else n + 1))
      ++ waiterImages (n + 1) rest

/-- The used entries of a future table, each after its index, and then the waiter records (R299, R383). -/
def futsImage (k : Core) : List Byte :=
  let used := k.futs.filter (fun e => decide (e.2.st ≠ 0))
  let step := fun (a : Nat × List Byte × List Byte) (e : Nat × Fut) =>
    (a.1 + e.2.waiters.length, a.2.1 ++ bytesOf 4 e.1 ++ futImage e.2 a.1, a.2.2 ++ waiterImages a.1 e.2.waiters)
  let (n, es, ws) := used.foldl step (0, [], [])
  bytesOf 4 used.length ++ es ++ bytesOf 4 n ++ ws

/-- A slot of a channel buffer: 132 bytes (R326). -/
def slotImage (x : ChanSlot) : List Byte := allLanes.flatMap (fun t => bytesOf 4 (x.vals.getD t 0).toNat) ++ bytesOf 4 x.valid.toNat

/-- The memory-side state of a core (R385): stash map, deque, pending pool, item queue, channel buffers and future table, each after the
number of its entries (log 101). -/
def memorySide (s : State) (c : Nat) (k : Core) : List Byte :=
  bytesOf 4 c ++ bytesOf 4 k.stash.length ++ k.stash.flatMap (fun e => stashImage e.2)
    ++ bytesOf 4 k.deque.length ++ k.deque.flatMap entryImage
    ++ bytesOf 4 k.pool.length ++ k.pool.flatMap (fun e => entryImage e.2.e ++ bytesOf 4 e.1 ++ bytesOf 4 e.2.count ++ e.2.deps.flatMap (fun h => bytesOf 8 h.toNat))
    ++ bytesOf 4 k.pieces.length ++ k.pieces.flatMap (fun e => bytesOf 8 e.2.ca.toNat ++ bytesOf 8 e.2.result.toNat
        ++ bytesOf 4 (cursorAt s c e.1).1.toNat ++ bytesOf 4 (cursorAt s c e.1).2.toNat)
    ++ bytesOf 4 k.chans.length ++ k.chans.flatMap (fun e => bytesOf 4 e.1 ++ bytesOf 4 e.2.buf.length ++ e.2.buf.flatMap slotImage)
    ++ futsImage k

/-- A stream binding with its position: slot and port, the descriptor's fields and the four indexes (R329, R385). -/
def streamImage (slot port : Nat) (x : Stream) : List Byte :=
  bytesOf 4 slot ++ bytesOf 4 port ++ bytesOf 8 x.base.toNat
    ++ bytesOf 8 (x.esz + 4 * x.sgn.toNat + 8 * x.scr.toNat + 16 * x.store.toNat + 32 * x.nd) ++ bytesOf 8 x.lstr.toNat
    ++ x.cnt.flatMap (fun w => bytesOf 4 w.toNat) ++ x.str.flatMap (fun w => bytesOf 4 w.toNat) ++ x.pos.flatMap (bytesOf 4)

/-- The copy and stream section: descriptors with their iteration vectors, and bindings with their positions (R385). -/
def copyStream (s : State) (p : Nat) (parts : List (Nat × Core)) : List Byte :=
  (s.copies.filter (fun e => e.2.pasid == p && e.2.pkt.isNone)).flatMap (fun e =>
      e.2.desc.flatMap (fun d => bytesOf 8 d.toNat) ++ (vecOf (copyCounts e.2.desc) e.2.pos).flatMap (bytesOf 4) ++ bytesOf 4 e.2.st)
    ++ parts.flatMap (fun k => k.2.groups.flatMap (fun g => g.2.r.streams.flatMap (fun x => streamImage (256 * k.1 + g.1) x.1 x.2)))

/-- A number for a barrier of the abandoned-line list. -/
def barCode : Option BarRef → Nat
  | none => 0
  | some (.named c t i) => 1 + 2 ^ 8 * c + 2 ^ 16 * t + 2 ^ 24 * i
  | some (.cluster c) => 2 + 2 ^ 8 * c
  | some (.gang g) => 3 + 2 ^ 8 * g

/-- The abandoned-line list: line addresses, with the barrier each is bound to (R385). -/
def abandonedList (parts : List (Nat × Core)) : List Byte :=
  parts.flatMap (fun k => k.2.abandoned.flatMap (fun e => bytesOf 8 (128 * e.1) ++ bytesOf 8 (barCode e.2)))

/-- Memory as the saved cores of a context left the lines of the reserved range that are theirs. -/
def withKeys (s : State) (x : Ctx) : State :=
  memPut { s with mem := s.mem.filter (fun b => !(x.saved.any (fun (e : Nat × Core) => isKeyByte e.1 b.1 && e.2.grid.isSome))) } x.keys

/-- The save area of a context, with what its cores `cs` hold and what was saved before (R353, R385): header, sections and their offsets (log
101). The engines save what is theirs (R176, R296), and the command firmware the group records; a program that stands for it writes those by
CTXSAVE. -/
def writeSave (s : State) (x : Ctx) (cs : List Nat) : State :=
  if x.save = 0 then s
  else
    let parts := x.saved.filter (fun e => decide (e.1 ∉ cs)) ++ cs.map (fun c => (c, coreAt s c))
    let gs := parts.flatMap (fun k => k.2.groups.map (·.2))
    let ts := parts.flatMap (fun k => k.2.teams.map (fun (e : Nat × Team) => teamBytes k.2 e.1 e.2))
    let recs := gs.flatMap groupRecord
    let secs := [ts.flatten, parts.flatMap (fun k => memorySide (withKeys s x) k.1 k.2), copyStream s x.pasid parts, abandonedList parts]
    let offs := ((recs :: secs).foldl (fun (a : Nat × List Byte) b => (a.1 + b.length, a.2 ++ bytesOf 4 a.1)) (0x1080, [])).2
    let head := padLine (bytesOf 4 1 ++ bytesOf 4 x.pasid ++ bytesOf 2 gs.length ++ bytesOf 2 ts.length
      ++ bytesOf 4 (memNat s (x.save + 12) 4) ++ offs)
    let s := performWrite s none (bytesAt x.save head)
    let s := if cs.all (fun c => firmwareIdle s (dieOf c)) then performWrite s none (bytesAt (x.save + 0x1080) recs) else s
    performWrite s none (bytesAt (x.save + 0x1080 + recs.length) secs.flatten)

/-- The cluster objects of a context's cores, and the lines of the reserved range that are those cores' own, go with its save (R415, R416). -/
def takeKeys (s : State) (i : Nat) (cs : List Nat) : State :=
  let mine := fun (b : Host.Cell) => cs.any (fun c => isKeyByte c b.1)
  let s := modCtx s i (fun x => { x with
    clus := x.clus.filter (fun e => decide (e.1 ∉ cs)) ++ s.clusters.filter (fun e => decide (e.1 ∈ cs))
    keys := x.keys.filter (fun b => !mine b) ++ s.mem.filter mine })
  { s with clusters := s.clusters.filter (fun e => decide (e.1 ∉ cs)), mem := s.mem.filter (fun b => !mine b) }

/-- They come back with the cores (R355). -/
def giveKeys (s : State) (i : Nat) (cs : List Nat) : State :=
  match aget s.ctxs i with
  | none => s
  | some x =>
    let mine := fun (b : Host.Cell) => cs.any (fun c => isKeyByte c b.1)
    let s := { s with clusters := (x.clus.filter (fun (e : Nat × Cluster) => decide (e.1 ∈ cs))).foldl (fun m (e : Nat × Cluster) => aset m e.1 e.2) s.clusters }
    let s := memPut { s with mem := s.mem.filter (fun b => !mine b) } (x.keys.filter mine)
    modCtx s i (fun x => { x with clus := x.clus.filter (fun e => decide (e.1 ∉ cs)), keys := x.keys.filter (fun b => !mine b) })

/-- A stopped context leaves its cores on each die where its groups are all saved: the rest of its state is saved with them. With the last
die the PREEMPT packet that asked for it completes (R342, R353). -/
def switchOut (s : State) (p : Nat) : State :=
  match ctxOf s p with
  | none => s
  | some (i, x) =>
    let ds := x.atQ.filter (ctxSaved s p)
    if ds.isEmpty then s
    else
      let cs := (ctxCores s p).filter (fun c => decide (dieOf c ∈ ds))
      let rest := x.atQ.filter (fun d => decide (d ∉ ds))
      let done := rest.isEmpty && x.stopping.isNone
      let parts := cs.map (fun c => (c, withLeft x.saved c (takeCtx (coreAt s c))))
      let s := takeKeys (modCtx (writeSave s x cs) i (fun x => { x with
        atQ := rest, savedAt := s.clk, saved := x.saved.filter (fun e => decide (e.1 ∉ cs)) ++ parts, pre := if done then none else x.pre })) i cs
      let s := bindMore (cs.foldl (fun s c => unbindCore s c) s)
      match (if done then x.pre else none) with
      | some (q, n) => completePacket s q n
      | none => dispatchAll s

/-- A die's collector has every acknowledgement: this is Q, and the overrun of the die's slice is charged there (R353, R356). `last` is the
last die of the stop. -/
def reachQ (s : State) (i d : Nat) (last : Bool) : State :=
  match aget s.ctxs i with
  | none => s
  | some x =>
    let o := s.clk - sget 0 x.ends d
    let left := sset 0 x.charge d (sget 0 x.charge d + o)
    let s := modCtx s i (fun x => { x with atQ := d :: x.atQ, charge := left })
    let s := ctrAdd (ctrAdd s (ctrKey 5 0 i) o) (ctrKey 5 1 i) last.toNat
    switchOut (ctrPut s (ctrKey 5 2 i) (BitVec.ofNat 64 (left.foldl (fun n e => n + e.2) 0))) x.pasid

/-- An acknowledgement reaches the collector of the core's die (R353). -/
def collectAck (s : State) (c cls : Nat) : State :=
  match (coreAt s c).grid.bind (gridAt s) with
  | none => s
  | some g =>
    match ctxOf s g.pasid with
    | none => s
    | some (i, x) =>
      match x.stopping with
      | none => s
      | some l =>
        let l' := l.filter (fun e => decide (e ≠ (c, cls)))
        let mine := fun (l : List (Nat × Nat)) => l.any (fun e => decide (dieOf e.1 = dieOf c))
        let s := modCtx s i (fun x => { x with stopping := if l'.isEmpty then none else some l' })
        if mine l' || !mine l then s else reachQ s i (dieOf c) l'.isEmpty

/-- The collectors of some dies send their stop requests (R353). -/
def stopDies (s : State) (p : Nat) (ds : List Nat) : State :=
  match ctxOf s p with
  | none => s
  | some (i, x) =>
    let busy := x.stopping.getD []
    let cs := (ctxCores s p).filter (fun c => decide (dieOf c ∈ ds) && decide (dieOf c ∉ x.atQ) && !busy.any (fun e => decide (dieOf e.1 = dieOf c)))
    let all := busy ++ cs.flatMap (fun c => (List.range 6).map (c, ·))
    if !all.isEmpty then cs.foldl stopCore (modCtx s i (fun x => { x with stopping := some all }))
    else if !x.atQ.isEmpty then s
    else match x.pre with
      | some (q, n) => completePacket (modCtx (writeSave s x []) i (fun x => { x with pre := none })) q n
      | none => s

/-- Every die of a context is stopped (R353). -/
def stopContext (s : State) (p : Nat) : State := stopDies s p (ctxDies s p)

/-- The queues of the device that are mapped or on a wait list. -/
def servedQueues (s : State) : List Nat :=
  (s.hslots.map (fun e => e.2.q) ++ s.dies.flatMap (fun (e : Nat × Die) => e.2.waits.flatMap (·.2))).dedup

/-- The next packet of a queue is a LAUNCH of a context other than `p` that asks for a partition of a die (R348). -/
def launchWaits (s : State) (p d q : Nat) : Bool :=
  let n := descAt s q
  decide (qPasid n ≠ p) && qEn n && decide (qRptr n ≠ qWptr n) && ((ctxOf s (qPasid n)).map (fun e => !e.2.preempted)).getD false
    && (match (fetchPacket s q).1 with
      | .ok pk => fieldOf pk 7 0 == 1 && (List.range 8).any (fun n => decide (n / 2 = d) && (bytesField pk 34 34).testBit n)
      | .error _ => false)

/-- Another context has a grid waiting for a slice on a die, or for its cores (R348). -/
def othersWait (s : State) (p d : Nat) : Bool :=
  s.ctxs.any (fun e => decide (e.2.pasid ≠ p) && !e.2.preempted && e.2.saved.any (fun x => x.2.grid.isSome && decide (dieOf x.1 = d)))
    || (servedQueues s).any (launchWaits s p d)

/-- With no group left to come back, the queue units of a context's cores go to work, and the faults of its stopped teams are handled (R355,
R357). -/
def startCores (s : State) (p : Nat) : State :=
  if restoring s p then s
  else (ctxCores s p).foldl (fun s c => (coreAt s c).teams.foldl (fun s t => settle s c t.1) (kick s c)) s

/-- Where a saved group was: its core and slot, from its stack's base (R153). -/
def originOf (s : State) (x : Grid) (base : Nat) : Option (Nat × Nat) :=
  match ctxOf s x.pasid with
  | none => none
  | some (_, k) =>
    let share := k.stksz / 256
    if base < k.stack ∨ share = 0 ∨ k.stack + k.stksz ≤ base then none
    else some ((base - k.stack) / share, (base - k.stack) % share / (x.rsl * 128))

/-- The core whose slot still holds what the record does not: the live one, or the context's saved state, of which the core has all but the
groups back where it has been restored. -/
def originCore (s : State) (x : Grid) (c : Nat) (slot : Nat) : Option Core :=
  match aget (coreAt s c).groups slot with
  | some g => if g.stop.isSome && g.pasid == x.pasid then some (coreAt s c) else none
  | none => (savedPart s x.pasid c).map (fun k => if k.grid.isNone then { coreAt s c with groups := k.groups } else k)

/-- The group has left where it was saved. -/
def leaveOrigin (s : State) (x : Grid) (c slot : Nat) : State :=
  let s := match aget (coreAt s c).groups slot with
    | some g =>
      if g.stop.isSome && g.pasid == x.pasid then
        let s := freeSlot s c slot
        if (coreAt s c).groups.any (fun e => e.2.team == g.team) then s
        else modCore s c (fun k => { k with teams := adel k.teams g.team, ops := k.ops.filter (fun o => !(o.team == g.team)) })
      else s
    | none => s
  match ctxOf s x.pasid with
  | none => s
  | some (i, _) =>
    modCtx s i (fun k =>
      let l := k.saved.map (fun (e : Nat × Core) =>
        if e.1 = c then (e.1, { e.2 with groups := adel e.2.groups slot }) else e)
      { k with saved := l.filter (fun e => e.2.grid.isSome || !e.2.groups.isEmpty) })

/-- The physical tiles of a team: those under its names, and those that its operations still use (R275, R296). -/
def teamPhys (k : Core) (team : Nat) (t : Team) : List Nat :=
  (t.tiles.map (·.2) ++ (k.ops.filter (fun o => o.team == team)).flatMap (·.phys)).dedup

/-- Where each physical tile of a migrated team goes on its new core (R296). -/
def tileMap (k0 k : Core) (team0 : Nat) (t0 : Team) : Sparse Nat := (teamPhys k0 team0 t0).zip (freeTiles k)

/-- A migrated team's tiles, under the same names, on another core (R296). -/
def moveTiles (s : State) (c team : Nat) (k0 : Core) (t0 : Team) (mp : Sparse Nat) : State :=
  let s := modTeam s c team (fun t => { t with tiles := t0.tiles.filterMap (fun e => (aget mp e.2).map (e.1, ·)) })
  mp.foldl (fun s e =>
    let cells := (k0.tiles.filter (fun x => x.1 / 12288 == e.1)).map (fun x => (12288 * e.2 + x.1 % 12288, x.2))
    modCore s c (fun k => { k with tilesUsed := k.tilesUsed ||| maskOfNames [e.2]
                                   tiles := ssetAll 0 (zeroTile k.tiles e.2) cells })) s

/-- A migrated team's operations, on the engine of another core and the tiles it has there (R297). -/
def moveOps (s : State) (c team : Nat) (k0 : Core) (team0 : Nat) (mp : Sparse Nat) : State :=
  let l := k0.ops.filter (fun o => o.team == team0)
  let n := (coreAt s c).opOrder
  let l := l.zipIdx.map (fun (e : EngOp × Nat) => { e.1 with core := c, team := team, order := n + e.2, phys := e.1.phys.filterMap (aget mp) })
  modCore s c (fun k => { k with ops := k.ops ++ l, opOrder := n + l.length })

/-- The pieces that a team's tasks run on a core. -/
def teamPieces (t : Team) : List Nat := t.tasks.filterMap (·.piece)

/-- A migrated team's pieces, in the item queue of another core; `cur` holds their cursors (R185, R311). -/
def movePieces (s : State) (c team : Nat) (k0 : Core) (t0 : Team) (cur : Nat → Word × Word) : State :=
  (teamPieces t0).foldl (fun s i =>
    match aget k0.pieces i, freshKey (coreAt s c).pieces 64 0 with
    | some p, some j =>
      let s := putCursor (modCore s c (fun k => { k with pieces := aset k.pieces j p })) c j (cur i).1 (cur i).2
      modTeam s c team (fun t => { t with tasks := (t.tasks.zip t0.tasks).map (fun e => if e.2.piece = some i then { e.1 with piece := some j } else e.1) })
    | _, _ => s) s

/-- A barrier of a team under its team's new name, for the prefetches that are bound to it (R414). -/
def moveBound (s : State) (a b : Nat × Nat) : State :=
  let f := fun (r : BarRef) => match r with
    | .named c t i => if (c, t) = a then .named b.1 b.2 i else r
    | r => r
  { s with
    net := s.net.map (fun m => match m.ev with
      | .pendingLinePresent r => { m with ev := .pendingLinePresent (f r) }
      | _ => m)
    cores := s.cores.map (fun (k : Nat × Core) => (k.1, { k.2 with boundFills := k.2.boundFills.map (fun e => (e.1, f e.2)) })) }

/-- A team has left a core for another, which goes on with its operations and pieces. -/
def dropTeam (k : Core) (team : Nat) (t : Team) : Core :=
  { k with teams := adel k.teams team, tilesUsed := k.tilesUsed &&& ~~~(maskOfNames (teamPhys k team t))
           ops := k.ops.filter (fun o => !(o.team == team)), pieces := (teamPieces t).foldl (fun m i => adel m i) k.pieces }

/-- A core that is bound to a grid of a context. -/
def holdsCtx (s : State) (p c : Nat) : Bool := ((coreAt s c).grid.bind (gridAt s)).map (·.pasid) == some p

/-- A migrated team's record in other slots or on another core: its tasks and pieces, codebooks, barriers, faults, tiles and operations (R185,
R296). Its own core, `o`, or what the context's save holds of that, has it no longer; on the same core its tiles stay where they are. -/
def moveTeam (s : State) (x : Grid) (c team : Nat) (k0 : Core) (o team0 gn : Nat) : State :=
  if (aget (coreAt s c).teams team).isSome then s
  else
    match aget k0.teams team0 with
    | none => setTeam s c team { size := x.team, grid := some gn }
    | some t0 =>
      if o = c && holdsCtx s x.pasid c then
        moveBound (modCore s c (fun k => { k with
          teams := aset (adel k.teams team0) team t0
          ops := k.ops.map (fun p => if p.team = team0 then { p with team := team } else p) })) (o, team0) (c, team)
      else
      let cur := cursorAt (((ctxOf s x.pasid).map (fun e => withKeys s e.2)).getD s) o
      let mp := tileMap k0 (coreAt s c) team0 t0
      let s := movePieces (moveOps (moveTiles (setTeam s c team t0) c team k0 t0 mp) c team k0 team0 mp) c team k0 t0 cur
      let s := if holdsCtx s x.pasid o then modCore s o (fun k => dropTeam k team0 t0) else s
      moveBound (modSaved s x.pasid o (fun k => if k.grid.isSome then dropTeam k team0 t0 else k)) (o, team0) (c, team)

/-- The group that CTXRSTR makes of a record: what the record holds, over what its origin held (R176, R355). `base` is the stack of the
slot; `faulted` says that its fault still waits for an answer, so that it stays stopped, and `halted` that its new core is being stopped
(R357). -/
def restoredGroup (rd : Nat → Nat → Nat) (old : Group) (gi team pasid gn rsl base : Nat) (faulted halted : Bool) : Group :=
  let (r, a) := frameRegs rd old.r
  let irr := (BitVec.ofNat 32 (rd 24 4) : Word).getLsbD 18
  let r := { r with rst := false, thr := ssetAll .run r.thr ((old.r.thr.filter (fun e => match e.2 with
    | .join _ _ => true
    | .sysc => true
    | _ => false)).map (fun e => (e.1, e.2))) }
  let r := match old.past with
    | none => r
    | some pc => setPcs r ((allLanes.filter (fun t => sget 0 r.pc t == pc)).map (·, pc + 4))
  { old with
    r := r, a := a, gi := gi, team := team, pasid := pasid, grid := some gn, rsbase := base, rsl := rsl
    open_ := {}, done := [], irr := false, pri := false, reirr := irr, sq := 0, atEnd := none, saved := false
    stop := if faulted then old.stop else if halted then some { kind := 1, skid := 0 } else none, past := none
    haltLeft := none, hold := false, watch := [] }

/-- Changes every fault entry that is still to be answered. -/
def mapFaults (s : State) (f : FaultEnt → FaultEnt) : State :=
  { s with
    dies := s.dies.map (fun (e : Nat × Die) => (e.1, { e.2 with faultQ := e.2.faultQ.map f, faultWait := e.2.faultWait.map f }))
    ring := s.ring.map (fun e => (e.1, f e.2)), pri := s.pri.map (fun e => (e.1, e.2.1, f e.2.2)) }

/-- Some fault entry is still to be answered. -/
def anyFault (s : State) (p : FaultEnt → Bool) : Bool :=
  s.dies.any (fun e => (e.2.faultQ ++ e.2.faultWait).any p) || s.ring.any (fun e => p e.2) || s.pri.any (fun e => p e.2.2)

/-- The fault entries of a group's stream, and of its team, follow the group to another slot (R357). -/
def moveFaults (s : State) (pasid team0 team : Nat) (fault : Option FaultRec) (o dst : Nat × Nat) : State :=
  mapFaults s (fun e =>
    if e.pasid = pasid ∧ e.agent = 2 ∧ (e.core, e.id) = o then { e with core := dst.1, id := dst.2 }
    else if e.pasid = pasid ∧ e.agent = 0 ∧ (e.core, e.id) = (o.1, team0) ∧ fault = some e.rec_ then { e with core := dst.1, id := team }
    else e)

/-- What moves with the team of a group whose stack began at `base`, to a slot of core `c`: its tiles and its pieces, which the core must have
room for (R185, R296); none where the team is there. -/
def teamNeeds (s : State) (x : Grid) (c slot base : Nat) : Nat × Nat :=
  if (aget (coreAt s c).teams (slot / x.team * x.team)).isSome then (0, 0)
  else
    match originOf s x base with
    | none => (0, 0)
    | some o =>
      match originCore s x o.1 o.2 with
      | none => (0, 0)
      | some k0 =>
        let b := o.2 / x.team * x.team
        match aget k0.teams b with
        | none => (0, 0)
        | some t0 => if o.1 = c && holdsCtx s x.pasid c then (0, 0) else ((teamPhys k0 b t0).length, (teamPieces t0).length)

/-- A group's arrivals at open barriers and its copies follow it to another slot. -/
def moveArrivals (s : State) (from_ dst : Nat × Nat) : State :=
  let f := fun (x : BarObj) => { x with arrived := x.arrived.map (fun a => if a = from_ then dst else a) }
  let s := { s with
    clusters := s.clusters.map (fun (e : Nat × Cluster) => (e.1, { e.2 with bar := f e.2.bar }))
    grids := s.grids.map (fun (e : Nat × Grid) => (e.1, { e.2 with gangBar := f e.2.gangBar }))
    copies := s.copies.map (fun (e : Nat × Copy) =>
      (e.1, if (e.2.core, e.2.slot) = from_ ∧ e.2.grid.isSome then { e.2 with core := dst.1, slot := dst.2 } else e.2)) }
  modCore s dst.1 (fun k => { k with teams := k.teams.map (fun (e : Nat × Team) =>
    (e.1, { e.2 with bars := e.2.bars.map (fun (b : Nat × BarObj) => (b.1, f b.2)) })) })

/-- Loads a record into a free slot (R176): the return stack is copied where its base differs, a parked joiner registers again. -/
def restoreGroup (s : State) (rd : Nat → Nat → Nat) (c slot gn : Nat) (x : Grid) : State :=
  let base0 := rd 84 8
  let base := stackBase s x c slot
  let rsp := rd 80 4
  let from_ := originOf s x base0
  let k0 := from_.bind (fun o => originCore s x o.1 o.2)
  let old := (k0.bind (fun k => from_.bind (fun o => aget k.groups o.2))).getD { uid := s.uids }
  let team := slot / x.team * x.team
  let s := { s with uids := s.uids + 1 }
  let s := if base = base0 then s else memPut s (bytesAt base (memBytes s base0 (128 * rsp)))
  let o := from_.getD (c, slot)
  let team0 := o.2 / x.team * x.team
  let was := restoring s x.pasid
  let s := moveTeam s x c team (k0.getD {}) o.1 team0 gn
  let s := match from_ with
    | some o => moveFaults (moveArrivals (leaveOrigin s x o.1 o.2) o (c, slot)) x.pasid team0 team (teamAt s c team).fault o (c, slot)
    | none => s
  let faulted := (teamAt s c team).fault.isSome || anyFault s (fun e => e.agent == 2 && e.core == c && e.id == slot)
  let g := restoredGroup rd old (slot - team) team x.pasid gn x.rsl base faulted (coreAt s c).stopReq
  let s := setGroup s c slot g
  let s := if was then startCores s x.pasid
    else if (coreAt s o.1).groups.any (fun e => decide ((o.1, e.1) ≠ (c, slot)) && e.2.team == team0 && e.2.pasid == x.pasid && decide ((o.1, team0) ≠ (c, team))) then s
    else settle s c team
  let s := if (coreAt s c).stopReq && coreStopped s c then send s c c (.stopAck c 0) else s
  (lanesWhere g.r (fun t => match t with | .join _ _ => true | _ => false)).foldl (fun s t =>
    match thrOf g t with
    | .join h _ => send s c (hHome h) (.fwait c slot h)
    | _ => s) s

/-- The firmware saves the groups of a context's cores on the dies that have reached Q (R353, R385): they count as saved, and the context leaves
those cores. -/
def firmwareSave (s : State) (p : Nat) : State :=
  match ctxOf s p with
  | none => s
  | some (_, x) =>
    let cs := (ctxCores s p).filter (fun c => decide (dieOf c ∈ x.atQ))
    if x.atQ.isEmpty ∨ cs.any (fun c => s.net.any (fun m => m.dst == c)) then s
    else
      switchOut (cs.foldl (fun s c => modCore s c (fun k =>
        { k with groups := k.groups.map (fun (e : Nat × Group) => (e.1, { e.2 with saved := true })) })) s) p

/-- A team whose groups go back as CTXRSTR restores them (R176), to slots from `b` of a core. -/
def putTeam (s : State) (gn : Nat) (x : Grid) (c b : Nat) (gs : List (Nat × Group)) : State :=
  let s := gs.foldl (fun s e =>
    let bs := (groupRecord e.2).toArray
    restoreGroup s (fun o m => natOfBytes ((List.range m).map (fun i => bs.getD (o + i) 0))) c (b + e.2.gi) gn x) s
  engineKick (kick s c) c

/-- The groups of a core's part, team by team. -/
def teamsOf (k : Core) : List (Nat × List (Nat × Group)) :=
  ((k.groups.map (fun e => e.2.team)).dedup).map (fun t => (t, k.groups.filter (fun e => e.2.team == t)))

/-- Where a team of a core's part `k` may go: the slots it had on its own core, or free slots of another core of its grid, with room for
its registers as they are now and its tiles (R94, R185, R296, R355). -/
def homeFor (s : State) (gn : Nat) (x : Grid) (c b : Nat) (k : Core) : Option (Nat × Nat) :=
  let open_ := fun (d : Nat) => isCompute s d && decide ((coreAt s d).grid = some gn)
  let gs := k.groups.filter (fun e => e.2.team == b)
  let regs := gs.foldl (fun n e => n + e.2.a) 0
  let tiles := ((aget k.teams b).map (fun t => (teamPhys k b t).length)).getD 0
  let ps := ((aget k.teams b).map (fun t => (teamPieces t).length)).getD 0
  let own := gs.all (fun e => (aget (coreAt s c).groups e.1).isNone) && decide (regsUsed (coreAt s c) + regs ≤ 4096)
    && ((aget (coreAt s c).teams b).isSome || decide (tiles ≤ (freeTiles (coreAt s c)).length))
  if open_ c && own then some (c, b)
  else ((boundCores s gn).filter (fun d => open_ d && decide (d ≠ c))).findSome? (fun d => if 64 < (coreAt s d).pieces.length + ps then none else (roomFor (coreAt s d) x regs tiles).map (d, ·))

/-- Step 6 of a restore (R355): the groups that a restored context still has in its save area go back. -/
def firmwareRestore (s : State) (p : Nat) : State :=
  match ctxOf s p with
  | none => s
  | some (_, x) =>
    let away := fun (c : Nat) => decide (dieOf c ∈ x.atQ) || (x.stopping.getD []).any (fun e => decide (dieOf e.1 = dieOf c))
    (x.saved.filter (fun e => e.2.grid.isNone && !away e.1)).foldl (fun s e =>
      (teamsOf e.2).foldl (fun s t =>
        match (t.2.head?).bind (fun h => h.2.grid) with
        | none => s
        | some gn =>
          match gridAt s gn with
          | none => s
          | some y =>
            match homeFor s gn y e.1 t.1 e.2 with
            | some (c, b) => putTeam s gn y c b t.2
            | none => s) s) s

/-- The number under which a core's queue unit queries a future for a node: past the group slots. -/
def pollSlot (node : NodeRef) : Nat := 64 + 2 * node.idx + node.isCopy.toNat

/-- A node of the dependence graph under another name, wherever a registration, a poll or an answer names it. -/
def renameNode (s : State) (a b : NodeRef) : State :=
  let f := fun (n : NodeRef) => if n = a then b else n
  let ev := fun (e : Instr) => match e with
    | .freg n h => .freg (f n) h
    | .fready n => .fready (f n)
    | .waitfull n h => .waitfull (f n) h
    | .fqueryPoll n h => .fqueryPoll (f n) h
    | .fquery c slot h => if a.core = c ∧ pollSlot a = slot then .fquery b.core (pollSlot b) h else e
    | .fstate c slot h st v => if a.core = c ∧ pollSlot a = slot then .fstate b.core (pollSlot b) h st v else e
    | e => e
  { s with
    net := s.net.map (fun m => { m with ev := ev m.ev }), timers := s.timers.map (fun t => (t.1, ev t.2))
    cores := s.cores.map (fun (k : Nat × Core) => (k.1, { k.2 with futs := k.2.futs.map (fun (e : Nat × Fut) =>
      (e.1, { e.2 with waiters := e.2.waiters.map (fun w => (w.1, if w.1 then w.2 else f w.2)) })) })) }

/-- A deque entry of a corked core goes to a compute core of its grid that has room; without one it stays (R185). -/
def moveEntry (gn c : Nat) (s : State) (e : DqEntry) : State :=
  match (boundCores s gn).find? (fun d => isCompute s d && dequeRoom (coreAt s d)) with
  | some d => pushHot s d e
  | none => modCore s c (fun k => { k with deque := k.deque ++ [e] })

/-- A pending node of a corked core goes to a compute core of its grid that has room (R185); a ready one waits there for a deque entry. -/
def moveNode (gn c : Nat) (s : State) (x : Nat × PNode) : State :=
  let room := fun (d : Nat) => isCompute s d && decide ((coreAt s d).pool.length + (coreAt s d).poolResv < 2048)
  match (boundCores s gn).find? room with
  | none => s
  | some d =>
    match freshKey (coreAt s d).pool 2048 0 with
    | none => s
    | some j =>
      let s := modCore s c (fun k => { k with pool := adel k.pool x.1, poolReady := k.poolReady.filter (fun i => !(i == x.1)) })
      let s := modCore s d (fun k => { k with pool := aset k.pool j x.2, poolReady := if x.2.count = 0 then k.poolReady ++ [j] else k.poolReady })
      let s := renameNode s { core := c, isCopy := false, idx := x.1 } { core := d, isCopy := false, idx := j }
      drainReady s d

/-- Step 2 of a cork (R185): the entries of a corked core's deque and the nodes of its pending pool, those that are ready first, go to
compute cores of its grid, and its stopped teams with them. -/
def migrateCore (s : State) (c : Nat) : State :=
  let k := coreAt s c
  match k.grid with
  | none => s
  | some gn =>
    let s := modCore (abandonFills s c) c (fun k => { k with deque := [], pushQ := [], staged := [], abandoned := [] })
    let s := (k.deque ++ k.pushQ ++ k.staged.map (·.e)).foldl (moveEntry gn c) s
    let ready := k.poolReady.filterMap (fun i => (aget k.pool i).map (i, ·))
    let s := (ready ++ k.pool.filter (fun e => decide (e.1 ∉ k.poolReady))).foldl (moveNode gn c) s
    let s := (teamsOf k).foldl (fun s t =>
      if !t.2.all (fun e => quiet e.2 && e.2.stop.isSome) then s
      else match gridAt s gn with
        | none => s
        | some y =>
          match homeFor s gn y c t.1 k with
          | some (d, b) => if d = c then s else putTeam s gn y d b t.2
          | none => s) s
    if (coreAt s c).stopReq && coreStopped s c then send s c c (.stopAck c 0) else s

/-- Restores what a context's save holds of a die whose cores are all free: steps 1 to 5 of R355. Its groups come back by CTXRSTR, and no task
starts before; what a core holds that has been corked meanwhile goes to others (R185). A new slice begins there (R348). -/
def restoreDie (s : State) (i d : Nat) : State :=
  match aget s.ctxs i with
  | none => s
  | some x =>
    let mine := x.saved.filter (fun e => e.2.grid.isSome && decide (dieOf e.1 = d))
    let cs := mine.map (·.1)
    if x.preempted || mine.isEmpty || decide (d ∈ x.atQ) || (x.stopping.getD []).any (fun e => decide (dieOf e.1 = d))
        || !(cs.all (fun c => coreFree s c || (coreAt s c).role == 3)) then s
    else
      let s := mine.foldl (fun s e => let s := fitL1 s e.1 e.2.psize; setCore s e.1 (giveCtx (coreAt s e.1) e.2)) s
      let s := modCtx (giveKeys s i cs) i (fun x => { x with saved := x.saved.filterMap (fun (e : Nat × Core) =>
        if e.1 ∉ cs then some e else if e.2.groups.isEmpty then none else some (e.1, { e.2 with grid := none })) })
      let s := sliceFrom (cs.foldl reissueFills s) i d s.clk
      let s := (cs.filter (fun c => (coreAt s c).role == 3)).foldl migrateCore s
      let s := startCores (cs.foldl engineKick s) x.pasid
      if ctxParked s x.pasid then s
      else (s.copies.filter (fun e => e.2.pasid == x.pasid && e.2.st == 1)).foldl (fun s e =>
        send s (engineAgent e.2.die) (engineAgent e.2.die) (.engineChunkStart e.1)) s

/-- Restores a context on each die where it can go (R348, R355). -/
def restoreCtx (s : State) (i : Nat) : State := (List.range 4).foldl (fun s d => restoreDie s i d) s

/-! ### System calls (R174) -/

/-- The writing group's SCGO completes the system call of the group that its CTXSEL names, for the threads whose record is posted, or sets
SCERR. -/
def scgoWrite (s : State) (c slot : Nat) : State :=
  match groupAt s c slot with
  | none => s
  | some g =>
    let tc := g.f.ctxsel.toNat % 256
    let ts := g.f.ctxsel.toNat / 256 % 64
    let waits := match groupAt s tc ts with
      | none => []
      | some t =>
        let early := (t.done ++ [t.open_]).flatMap (fun k => k.effects.flatMap (fun e => match e with
          | .sysc _ _ _ ls => ls
          | _ => []))
        (lanesWhere t.r (· == .sysc)).filter (fun l => decide (l ∉ early))
    if waits.isEmpty then modGroup s c slot (fun g => { g with f := { g.f with scerr := true } })
    else
      let v := g.f.scval
      let s := modDie s (dieOf tc) (fun d => { d with sysRecs := d.sysRecs.filter (fun r => !(r.core == tc && r.slot == ts)) })
      wakeThreads s tc ts (fun r =>
        let r := setPcs (setThr r waits .run) (waits.map (fun t => (t, sget 0 r.pc t + 4)))
        { r with k := sset 0 (sset 0 r.k 4 (loWord v)) 5 (hiWord v) })

end Sys2Proof.Machine
end

