-- ==== Sys2Proof/Machine/Control.lean ====
section
/-! DEFINITION. Sys2Proof/Machine/Control.lean: branches, calls and stops (R146 to R148), masks (R149 to R152), the return stack (R153 to
R157), chunk instructions (R162, R163) and the window and allocation (R165, R166). -/

namespace Sys2Proof.Machine

/-! ### Branches (R147) -/

/-- The address of the executing instruction word. -/
def thisPc : M PC := getS (·.cur.pc)

/-- The target of a relative branch. -/
def relTarget {n : Nat} (pc : PC) (i : BitVec n) : PC := pc + 4 * i.signExtend 57

/-- Moves the threads that a test picks to an address. -/
def branchIf (ex : List Nat) (take : Nat → Bool) (target : PC) : M Unit :=
  modR (fun r => setPcs r ((ex.filter take).map (·, target)))

/-- A conditional branch on a 32-bit source. -/
def branchOn (d : Code) (i : BitVec 14) (take : Word → Bool) : M Unit := do
  checkOps [.src d]
  let ex ← execLanes none
  let pc ← thisPc
  let x ← readSrc d ex
  branchIf ex (fun t => take (x t)) (relTarget pc i)

/-- Why a branch target is refused: MISALIGNED, or TRANSLATION for an address that is not canonical. -/
def targetFault (x : Dword) : Option Nat :=
  if bitsOf x 1 0 ≠ 0 then some fcMisaligned else if canonical x then none else some fcTranslation

/-- The targets of the executing threads, if every one is well formed; else the lowest failing thread's fault. -/
def targets (a : Code) (ex : List Nat) : M (Nat → Dword) := do
  let x ← readPair a
  match ex.find? (fun t => (targetFault (x t)).isSome) with
  | some t => faultM { code := (targetFault (x t)).getD 0, lane := t, addr := (x t).toNat }
  | none => pure x

/-- Moves every executing thread to its own target. -/
def jumpTo (ex : List Nat) (x : Nat → Dword) : M Unit := modR (fun r => setPcs r (ex.map (fun t => (t, (x t).extractLsb' 0 57))))

/-! ### The return stack (R154 to R157) -/

/-- Writes bytes of the group's return stack: buffered in the chunk, and counted towards its lines (R154). -/
def putStack (kvs : List (Nat × Byte)) : M Unit := do
  enterWrites (kvs.map (fun e => stkLineKey e.1)) []
  modK (fun k => { k with wk := ssetAll none k.wk (kvs.map (fun e => (e.1, some e.2))) })

/-- The bytes of a call entry (R155). -/
def callEntry (ret : PC) (mask : Word) : List Byte := bytesOf 8 ret.toNat ++ bytesOf 4 mask.toNat ++ bytesOf 116 0

/-- Pushes one entry for the executing threads (R156). -/
def pushCall (ex : List Nat) (ret : PC) : M Unit := do
  let g ← getG
  if g.rsl ≤ g.r.rsp then failM fcCallstackOverflow
  else do
    putStack (bytesAt (g.rsbase + 128 * g.r.rsp) (callEntry ret (maskOf ex)))
    modR (fun r => { r with rsp := r.rsp + 1 })

/-- A call entry as RET sees it: its line, return address and mask. -/
structure CallEntry where
  line : Nat
  ret : PC
  mask : Word
  deriving DecidableEq, Repr

/-- The call entries above the newest frame, newest first. -/
def callEntries (s : State) (g : Group) : List CallEntry :=
  let rd := fun (o n : Nat) => viewStackNat s g (g.rsbase + o) n
  (((stackEntries rd (g.r.rsp + 1) 0 g.r.rsp).reverse).takeWhile (fun e => e.2 == 0)).map (fun e =>
    { line := e.1, ret := BitVec.ofNat 57 (rd (128 * e.1) 8), mask := BitVec.ofNat 32 (rd (128 * e.1 + 8) 4) })

/-- The newest entry that holds a lane. -/
def entryFor (es : List CallEntry) (t : Nat) : Option CallEntry := es.find? (fun e => e.mask.getLsbD t)

/-- Takes returning lanes out of the entries that they return from. -/
def clearReturns (es : List CallEntry) (ex : List Nat) : List CallEntry :=
  es.map (fun e => { e with mask := e.mask &&& ~~~(maskOf (ex.filter (fun t => decide (entryFor es t = some e)))) })

/-- RSP once the empty entries on top are gone. -/
def popEmpty (rsp : Nat) : List CallEntry → Nat
  | [] => rsp
  | e :: t => if e.mask = 0 then popEmpty e.line t else rsp

/-- RET (R157). -/
def retM : M Unit := do
  let ex ← execLanes none
  let g ← getG
  let es ← getS (fun s => callEntries s (curGroup s))
  match ex.find? (fun t => (entryFor es t).isNone) with
  | some t => faultM { code := fcCallstackOverflow, under := true, lane := t }
  | none => do
    let es' := clearReturns es ex
    let changed := (es.zip es').filter (fun p => decide (p.1.mask ≠ p.2.mask))
    putStack (changed.flatMap (fun p => bytesAt (g.rsbase + 128 * p.2.line + 8) (bytesOf 4 p.2.mask.toNat)))
    modR (fun r => { setPcs r (ex.filterMap (fun t => (entryFor es t).map (fun e => (t, e.ret)))) with rsp := popEmpty r.rsp es' })

/-! ### Masks (R149 to R152) -/

/-- Mask register `mk`. -/
def maskReg (r : GRegs) (mk : Nat) : Word := sget 0 r.m mk

/-- Sets mask register `mk`. -/
def setMask (r : GRegs) (mk : Nat) (v : Word) : GRegs := { r with m := sset 0 r.m mk v }

/-- What a thread's wait on mask `mk` is: none, or whether it is an MSYNC. -/
def waitsOn (r : GRegs) (mk t : Nat) : Option Bool :=
  match sget .run r.thr t with
  | .mwait j sync => if j = mk then some sync else none
  | _ => none

/-- Releases mask `mk` if some thread waits on it and every member does (R152). -/
def releaseMask (r : GRegs) (mk : Nat) : GRegs :=
  let ws := allLanes.filter (fun t => (waitsOn r mk t).isSome)
  if ws.isEmpty || !((lanesOf (maskReg r mk)).all (fun t => decide (t ∈ ws))) then r
  else
    let sync := ws.any (fun t => waitsOn r mk t == some true)
    let r := setPcs (setThr r ws .run) (ws.map (fun t => (t, sget 0 r.pc t + 4)))
    if sync then setMask r mk 0 else r

/-- Releases whatever masks can be. -/
def releaseMasks (r : GRegs) : GRegs := (List.range 12).foldl releaseMask r

/-- A mask number is 0 to 11 (R150). -/
def checkMask (mk : Code) : M Unit := ensure (decide (mk.toNat < 12)) fcIllegalOperand

/-- MWAIT and MSYNC (R151): members of the mask wait at the instruction. -/
def maskWait (mk : Code) (sync : Bool) : M Unit := do
  checkMask mk
  let ex ← execLanes none
  let pc ← thisPc
  modR (fun r =>
    let ws := ex.filter (fun t => (maskReg r mk.toNat).getLsbD t)
    releaseMasks (setPcs (setThr r ws (.mwait mk.toNat sync)) (ws.map (·, pc))))

/-- Adds to the count of items that a chunk has done of a range task: one ITEMDONE a chunk (R314). -/
def addItems (h : Dword) (n : Nat) : List Effect → List Effect
  | [] => [.items h n]
  | .items h' m :: r => if h' = h then .items h (m + n) :: r else .items h' m :: addItems h n r
  | e :: r => e :: addItems h n r

/-- Threads leave the items that they hold: counted at the commit of the chunk (R314). -/
def leaveItems (ls : List Nat) : M Unit := do
  let g ← getG
  let t ← getTeam
  let n := (ls.filter (fun l => decide (sget 0xFFFFFFFF g.r.it l ≠ 0xFFFFFFFF))).length
  match t.tasks with
  | { piece := some _, own := h, .. } :: _ =>
    if n = 0 then pure () else modK (fun k => { k with effects := addItems h n k.effects })
  | _ => pure ()

/-- EXIT (R148). -/
def exitM : M Unit := do
  let ex ← execLanes none
  leaveItems ex
  let keep := ~~~(maskOf ex)
  modR (fun r => releaseMasks (setThr { r with m := ssetAll 0 r.m ((List.range 12).map (fun i => (i, maskReg r i &&& keep))) } ex .exited))
  let g ← getG
  if (liveLanes g).isEmpty then do
    deferM (.groupEnd none)
    modG (fun g => { g with irr := false })
    endAfter
  else pure ()

/-! ### Chunks (R162, R163) -/

/-- CKEND. -/
def ckendM : M Unit := do
  let g ← getG
  modG (fun g => { g with irr := false })
  if g.open_.slots = 0 then modK (fun k => { k with irr := k.irr && g.fmode }) else endAfter

/-- A CKIRR that cannot enter the mode yet ends its chunk and waits. -/
def ckirrWait : M Unit := do
  let g ← getG
  if g.open_.slots ≠ 0 then cutM else stallM

/-- The group enters irrevocable mode at a CKIRR. -/
def enterIrr (s : State) : State :=
  let c := s.cur.core
  let slot := s.cur.slot
  let cks := ckstatWord (curGroup s)
  let s := modCur s (fun g => { g with irr := true, hold := false, r := setPcs g.r (s.cur.lanes.map (·, s.cur.pc + 4)) })
  let s := tickYield (tickGroup (coreCtr s c 0 1) c slot s.cur.lanes) c slot
  let s := if ((groupAt s c slot).bind (·.replay)).isSome then endRepeat s c slot else spendSkid s c slot cks
  endIfBlocked s c slot false

/-! ### Window and allocation (R165, R166) -/

/-- WBASE. -/
def wbaseM (i : BitVec 14) : M Unit := do
  ensure (decide (i.toNat % 16 = 0) && decide (i.toNat ≤ 240)) fcIllegalOperand
  modR (fun r => { r with wb := i.toNat })

/-- WGROW. Whether the registers next above the allocation are free is a free choice where enough registers are (log 19). -/
def wgrowM (d a : Code) : M Unit := do
  checkOps [.dst d, .src a]
  let ex ← execLanes none
  let x ← readSrc a ex
  let n := (lowest ex x).toNat
  let g ← getG
  ensure (decide (n % 16 = 0) && decide (32 ≤ n) && decide (n ≤ 256)) fcIllegalOperand
  if n ≤ g.a then writeDst d ex [] (fun _ => BitVec.ofNat 32 g.a)
  else do
    let k ← getCore
    let (f, _) ← getS takeFree
    modS (fun s => (takeFree s).2)
    if regsUsed k + (n - g.a) ≤ 4096 ∧ f % 2 = 0 then do
      modG (fun g => { g with a := n, grownFrom := some (g.grownFrom.getD g.a) })
      writeDst d ex [] (fun _ => BitVec.ofNat 32 n)
    else writeDst d ex [] (fun _ => 0)

/-! ### Meanings -/

/-- BRA. -/
def execBra (i : BitVec 21) (s : State) : Host.Outcome State Fault Refusal :=
  issue 4 (do
    let ex ← execLanes none
    let pc ← thisPc
    branchIf ex (fun _ => true) (relTarget pc i)) s

/-- CALL. -/
def execCall (i : BitVec 21) (s : State) : Host.Outcome State Fault Refusal :=
  issue 4 (do
    let ex ← execLanes none
    let pc ← thisPc
    pushCall ex (pc + 4)
    branchIf ex (fun _ => true) (relTarget pc i)) s

/-- BZ. -/
def execBz (d : Code) (i : BitVec 14) (s : State) : Host.Outcome State Fault Refusal := issue 4 (branchOn d i (· == 0)) s

/-- BNZ. -/
def execBnz (d : Code) (i : BitVec 14) (s : State) : Host.Outcome State Fault Refusal := issue 4 (branchOn d i (· != 0)) s

/-- BEOD (R160). -/
def execBeod (q dim : BitVec 2) (i : BitVec 14) (s : State) : Host.Outcome State Fault Refusal :=
  issue 4 (do
    let ex ← execLanes none
    let pc ← thisPc
    let g ← getG
    branchIf ex (fun _ => g.r.eod.getLsbD (4 * q.toNat + dim.toNat)) (relTarget pc i)) s

/-- JMP. -/
def execJmp (a : Code) (s : State) : Host.Outcome State Fault Refusal :=
  issue 4 (do
    checkOps [.pair a]
    let ex ← execLanes none
    let x ← targets a ex
    jumpTo ex x) s

/-- CALLR. -/
def execCallr (a : Code) (s : State) : Host.Outcome State Fault Refusal :=
  issue 4 (do
    checkOps [.pair a]
    let ex ← execLanes none
    let x ← targets a ex
    let pc ← thisPc
    pushCall ex (pc + 4)
    jumpTo ex x) s

/-- RET. -/
def execRet (s : State) : Host.Outcome State Fault Refusal := issue 4 retM s

/-- EXIT. -/
def execExit (s : State) : Host.Outcome State Fault Refusal := issue 4 exitM s

/-- TRAP: recoverable outside F-mode (R180). -/
def execTrap (i : BitVec 14) (s : State) : Host.Outcome State Fault Refusal :=
  issue 4 (do
    let g ← getG
    faultM { code := fcTrapSw, imm := i, recov := !g.fmode }) s

/-- BRK. -/
def execBrk (s : State) : Host.Outcome State Fault Refusal :=
  issue 4 (do
    let g ← getG
    faultM { code := fcBreakpoint, recov := !g.fmode }) s

/-- NOP. -/
def execNop (s : State) : Host.Outcome State Fault Refusal := issue 4 (pure ()) s

/-- MJOIN. -/
def execMjoin (d : Code) (s : State) : Host.Outcome State Fault Refusal :=
  issue 4 (do
    checkMask d
    let ex ← execLanes none
    modR (fun r => setMask r d.toNat (maskReg r d.toNat ||| maskOf ex))) s

/-- MLEAVE. -/
def execMleave (d : Code) (s : State) : Host.Outcome State Fault Refusal :=
  issue 4 (do
    checkMask d
    let ex ← execLanes none
    modR (fun r => releaseMasks (setMask r d.toNat (maskReg r d.toNat &&& ~~~(maskOf ex))))) s

/-- MWAIT. -/
def execMwait (d : Code) (s : State) : Host.Outcome State Fault Refusal := issue 4 (maskWait d false) s

/-- MSYNC. -/
def execMsync (d : Code) (s : State) : Host.Outcome State Fault Refusal := issue 4 (maskWait d true) s

/-- MSET. -/
def execMset (d a : Code) (s : State) : Host.Outcome State Fault Refusal :=
  issue 4 (do
    checkMask d
    checkOps [.src a]
    let ex ← execLanes none
    let x ← readSrc a ex
    modR (fun r => releaseMasks (setMask r d.toNat (lowest ex x)))) s

/-- MGET. -/
def execMget (d a : Code) (s : State) : Host.Outcome State Fault Refusal :=
  issue 4 (do
    checkMask a
    checkOps [.dst d]
    let ex ← execLanes none
    let g ← getG
    writeDst d ex [] (fun _ => maskReg g.r a.toNat)) s

/-- MACT. -/
def execMact (d : Code) (s : State) : Host.Outcome State Fault Refusal :=
  issue 4 (do
    checkOps [.dst d]
    let ex ← execLanes none
    writeDst d ex [] (fun _ => maskOf ex)) s

/-- CKEND. -/
def execCkend (s : State) : Host.Outcome State Fault Refusal := issue 4 ckendM s

/-- CKIRR: once the chunk before it has committed and no other group of the core stands in the way, the mode is entered; the
instruction takes no slot of the chunk that follows it. -/
def execCkirr (s : State) : Host.Outcome State Fault Refusal :=
  match groupAt s s.cur.core s.cur.slot with
  | none => .fault .noGroup
  | some g =>
    if quiet g && !otherPri s s.cur.core s.cur.slot then .next (enterIrr s) else issue 4 ckirrWait s

/-- CKSTAT. -/
def execCkstat (d : Code) (s : State) : Host.Outcome State Fault Refusal :=
  issue 4 (do
    checkOps [.dst d]
    let ex ← execLanes none
    let g ← getG
    writeDst d ex [] (fun _ => ckstatWord g)) s

/-- WBASE. -/
def execWbase (i : BitVec 14) (s : State) : Host.Outcome State Fault Refusal := issue 4 (wbaseM i) s

/-- WGROW. -/
def execWgrow (d a : Code) (s : State) : Host.Outcome State Fault Refusal := issue 4 (wgrowM d a) s

end Sys2Proof.Machine
end

