-- ==== Sys2Proof/Machine/System.lean ====
section
/-! DEFINITION. Sys2Proof/Machine/System.lean: system registers (R168, R169, R172, R175, R183), ERET, SYSCALL, WFI and IPI (R173, R174),
CTXSAVE and CTXRSTR (R176), TLBINV (R375) and the slot and gang instructions (R349 to R352). -/

namespace Sys2Proof.Machine

/-! ### System registers (R169) -/

/-- The value of a system register of the issuing group; none where the number names none. WO registers read zero. -/
def srRead (s : State) (g : Group) (n : Nat) : Option Word :=
  let k := coreAt s s.cur.core
  let t := teamAt s s.cur.core g.team
  let sel := coreAt s g.f.msel.toNat
  if n = 0x000 then some 0x04800001
  else if n = 0x001 then some (ctxidOf s g)
  else if n = 0x002 then some (BitVec.ofNat 32 (s.cur.slot + 2 ^ 6 * Nat.log2 t.size + 2 ^ 8 * k.cidx))
  else if n = 0x003 then some (BitVec.ofNat 32 (g.r.rsp + 2 ^ 16 * (g.rsl - 1)))
  else if n = 0x004 then some (BitVec.ofNat 32 g.rsbase)
  else if n = 0x005 then some (BitVec.ofNat 32 (g.rsbase / 2 ^ 32))
  else if n = 0x006 then some (k.mcklim.setWidth 32)
  else if n = 0x008 then some g.f.cause
  else if n = 0x009 then some g.f.emask
  else if n = 0x00A then some (loWord g.f.epc)
  else if n = 0x00B then some (hiWord g.f.epc)
  else if n = 0x00C then some (loWord g.f.addr)
  else if n = 0x00D then some (hiWord g.f.addr)
  else if n = 0x00E then some (loWord g.f.vec)
  else if n = 0x00F then some (hiWord g.f.vec)
  else if n = 0x010 then some (fstatWord g)
  else if n = 0x011 then some k.fpend
  else if n = 0x012 then some k.fien
  else if n = 0x018 then some (g.f.msel.setWidth 32)
  else if n = 0x019 then some (mctlWord (sel.role == 1) sel.margin)
  else if n = 0x01A then some (mrepWord sel.margin)
  else if n = 0x01B then some (mstatWord sel.margin)
  else if n = 0x01C then some (sel.mcklim.setWidth 32)
  else if n = 0x020 then some g.f.ctxsel
  else if n = 0x021 then some (loWord g.f.scval)
  else if n = 0x022 then some (hiWord g.f.scval)
  else if n = 0x023 then some 0
  else none

/-- Changes the F-mode registers of the issuing group. -/
def modF (s : State) (f : FRegs → FRegs) : State := modCur s (fun g => { g with f := f g.f })

/-- Changes the margin of a core; a change of VOFF settles later, and restarts the count of clean windows (R183, R184). -/
def setMargin (s : State) (c : Nat) (m : Margin) : State :=
  let old := (coreAt s c).margin
  let s := modCore s c (fun k => { k with margin := if m.voff = old.voff then m else { m with cleanRun := 0 } })
  if m.voff = old.voff then s else after (cancel s (.marginSettle c)) 2200 (.marginSettle c)

/-- The margin registers after a write to MCTL. -/
def writeMctl (m : Margin) (v : Word) : Margin :=
  { m with voff := stepOf (v.extractLsb' 0 5).toNat, vfloor := stepOf (v.extractLsb' 5 5).toNat
           aup := v.getLsbD 10, adn := v.getLsbD 11, qthr := (v.extractLsb' 16 4).toNat }

/-- The margin registers after a write to MREP. -/
def writeMrep (m : Margin) (v : Word) : Margin :=
  { m with win := max 1 (v.extractLsb' 0 8).toNat, lim := (v.extractLsb' 8 16).toNat, clean := max 1 (v.extractLsb' 24 8).toNat }

/-- A write of a system register by the issuing group; read-only registers and fields ignore it. -/
def srWrite (s : State) (n : Nat) (v : Word) : State :=
  let c := s.cur.core
  let g := curGroup s
  let sel := g.f.msel.toNat
  if n = 0x00A then modF s (fun f => { f with epc := dwordOf v (hiWord f.epc) })
  else if n = 0x00B then modF s (fun f => { f with epc := dwordOf (loWord f.epc) v })
  else if n = 0x00E then modF s (fun f => { f with vec := dwordOf v (hiWord f.vec) })
  else if n = 0x00F then modF s (fun f => { f with vec := dwordOf (loWord f.vec) v })
  else if n = 0x010 then modF s (fun f => { f with inh := v.getLsbD 0, scerr := f.scerr && !v.getLsbD 2 })
  else if n = 0x011 then modCore s c (fun k => { k with fpend := k.fpend &&& ~~~(v &&& ~~~(freshPend k s.clk)) })
  else if n = 0x012 then modCore s c (fun k => { k with fien := v &&& 0x3FF })
  else if n = 0x018 then modF s (fun f => { f with msel := if v.toNat < 256 then v.setWidth 8 else BitVec.ofNat 8 c })
  else if n = 0x019 then setMargin s sel (writeMctl (coreAt s sel).margin v)
  else if n = 0x01A then modCore s sel (fun k => { k with margin := writeMrep k.margin v })
  else if n = 0x01B then modCore s sel (fun k => { k with margin :=
    { k.margin with raised := k.margin.raised && !v.getLsbD 5, tophit := k.margin.tophit && !v.getLsbD 7 } })
  else if n = 0x01C then modCore s sel (fun k => { k with mcklim := if v.extractLsb' 0 4 = 0 then 1 else v.extractLsb' 0 4 })
  else if n = 0x020 then modF s (fun f => { f with ctxsel := v &&& 0x3FFF })
  else if n = 0x021 then modF s (fun f => { f with scval := dwordOf v (hiWord f.scval) })
  else if n = 0x022 then modF s (fun f => { f with scval := dwordOf (loWord f.scval) v })
  else if n = 0x023 then scgoWrite s c s.cur.slot
  else s

/-- MFSR: the registers from 0x008 on are F-mode's. -/
def mfsrM (d : Code) (i : BitVec 14) : M Unit := do
  let g ← getG
  let v ← getS (fun s => srRead s (curGroup s) i.toNat)
  match v with
  | none => failM fcIllegalOperand
  | some v =>
    if decide (0x008 ≤ i.toNat) && !g.fmode then failM fcPrivileged
    else do
      checkOps [.dst d]
      let ex ← execLanes none
      writeDst d ex [] (fun _ => v)

/-- MTSR: it takes effect at its issue. -/
def mtsrM (d : Code) (i : BitVec 14) : M Unit := do
  privileged
  let v ← getS (fun s => srRead s (curGroup s) i.toNat)
  ensure v.isSome fcIllegalOperand
  checkOps [.src d]
  let ex ← execLanes none
  let x ← readSrc d ex
  modS (fun s => srWrite s i.toNat (lowest ex x))

/-! ### F-mode control (R173) -/

/-- A trap whose instruction is not issued again: ERET goes on past it. -/
def resumesPast (code : Nat) : Bool := code == fcTrapSw || code == fcBreakpoint || code == fcSyscall

/-- ERET. The low bits of FEPC stay in the PC (log 103). -/
def eretM : M Unit := do
  privileged
  let g ← getG
  ensure g.f.inh fcIllegalOperand
  let pc : PC := g.f.epc.extractLsb' 0 57 + (if resumesPast (g.f.cause.toNat % 256) then 4 else 0)
  modR (fun r => setPcs r ((lanesOf g.f.emask).map (·, pc)))
  modG (fun g => { g with f := { g.f with inh := false, held := 0 } })

/-- SYSCALL outside F-mode: the executing threads wait at it, and its record is posted at the commit (R174). -/
def syscallM (i : BitVec 14) : M Unit := do
  let g ← getG
  if g.fmode then faultM { code := fcSyscall, imm := i }
  else do
    let ex ← execLanes none
    let pc ← thisPc
    deferM (.sysc i pc ((List.range 4).map (fun j => sget 0 g.r.k (4 + j))) ex)
    modR (fun r => setThr (setPcs r (ex.map (·, pc))) ex .sysc)
    endAfter

/-- Ends the chunk before the instruction, and waits for every earlier chunk of the group. -/
def quietM : M Unit := do
  let g ← getG
  if g.open_.slots ≠ 0 then cutM else waitFor g.done.isEmpty

/-- WFI: the threads wait at it, at a chunk boundary, until an enabled source is pending. -/
def wfiM : M Unit := do
  privileged
  let k ← getCore
  if k.fpend &&& k.fien ≠ 0 then endAfter
  else do
    quietM
    stallM

/-- IPI. -/
def ipiM (a : Code) : M Unit := do
  privileged
  checkOps [.src a]
  let ex ← execLanes none
  let x ← readSrc a ex
  let t := (lowest ex x).toNat
  let k ← getS (fun s => coreAt s t)
  ensure (decide (t < 256) && k.role == 1) fcIllegalOperand
  modS (fun s => setFpend s t (BitVec.ofNat 32 (2 ^ dieOf s.cur.core)))

/-! ### CTXSAVE and CTXRSTR (R176) -/

/-- The core and slot that CTXSEL names. -/
def selected (g : Group) : Nat × Nat := (g.f.ctxsel.toNat % 256, g.f.ctxsel.toNat / 256 % 64)

/-- The address of a record: a 128-aligned pair. -/
def recordAddr (a : Code) : M Dword := do
  privileged
  checkOps [.pair a]
  let ex ← execLanes none
  let x ← readPair a
  let va := lowest ex x
  if va.toNat % 128 ≠ 0 then faultM { code := fcMisaligned, lane := ex.headD 0xFF, addr := va.toNat } else pure va

/-- The byte addresses of `n` lines from an address, each line checked. -/
def lineAddrs (wr : Bool) (lane : Nat) (va : Dword) (n : Nat) : M (List Nat) := do
  let ls ← (List.range n).mapM (fun i => checkAccess { n := 128, wr := wr } lane (addAddr va (128 * i)))
  pure (ls.flatMap (·.1))

/-- Waits while an engine chunk that writes these lines would be held (R223). -/
def admitWrite (kvs : List (Nat × Byte)) : M Unit := do
  let ok ← getS (fun s =>
    let w := sigOf (linesOf kvs)
    !heldByGrant s w && !heldByLive s w (some (s.cur.core, s.cur.slot)))
  waitFor ok

/-- CTXSAVE: the record's lines commit as engine chunks, after the group's earlier chunks (log 48). -/
def ctxsaveM (a : Code) : M Unit := do
  let va ← recordAddr a
  let g ← getG
  let (c, slot) := selected g
  let t ← getS (fun s => groupAt s c slot)
  match t with
  | none => failM fcIllegalOperand
  | some t => do
    ensure t.stop.isSome fcIllegalOperand
    waitFor (quiet t)
    quietM
    let ex ← execLanes none
    let pas ← lineAddrs true (ex.headD 0) va (t.a + 5)
    let kvs := pas.zip (groupRecord t)
    admitWrite kvs
    modS (fun s =>
      let s := performWrite s (some (s.cur.core, s.cur.slot)) kvs
      let s := modGroup s c slot (fun g => { g with saved := true })
      switchOut s t.pasid)
    endAfter

/-- CTXRSTR, after the group's earlier chunks (log 48). -/
def ctxrstrM (a : Code) : M Unit := do
  let va ← recordAddr a
  quietM
  let g ← getG
  let (c, slot) := selected g
  let ex ← execLanes none
  let head ← lineAddrs false (ex.headD 0) va 1
  let hd ← getS (fun s => natOfBytes (head.map (memByte s)))
  let kind := fieldOf hd 61 60
  let n := bytesField hd 19 16
  ensure (kind == 2 && decide (n % 16 = 0) && decide (32 ≤ n) && decide (n ≤ 256)) fcIllegalOperand
  let k ← getS (fun s => coreAt s c)
  let x ← getS (fun s => (coreAt s c).grid.bind (fun gn => (gridAt s gn).map (gn, ·)))
  match x with
  | none => failM fcIllegalOperand
  | some (gn, x) => do
    ensure ((aget k.groups slot).isNone && decide (regsUsed k + n ≤ 4096)) fcIllegalOperand
    let need ← getS (fun s => teamNeeds s x c slot (bytesField hd 91 84))
    waitFor (decide (need.1 ≤ (freeTiles k).length) && decide (k.pieces.length + need.2 ≤ 64))
    let pas ← lineAddrs false (ex.headD 0) va (n + 5)
    modS (fun s =>
      let bs := (pas.map (memByte s)).toArray
      let rd := fun (o m : Nat) => natOfBytes ((List.range m).map (fun i => bs.getD (o + i) 0))
      restoreGroup s rd c slot gn x)
    endAfter

/-! ### TLBINV (R375, R376) -/

/-- TLBINV. -/
def tlbinvM (a b : Code) : M Unit := do
  privileged
  checkOps [.pair a, .src b]
  let ex ← execLanes none
  let x ← readPair a
  let y ← readSrc b ex
  let va := lowest ex x
  let c := lowest ex y
  let kind := (c.extractLsb' 20 3).toNat
  let p := (c.extractLsb' 0 20).toNat
  ensure (decide (c.toNat / 2 ^ 23 = 0) && decide (kind < 3) && (kind != 0 || canonical va)) fcIllegalOperand
  quietM
  let i : Inval := { kind := kind, pasid := p, va := va.toNat % 2 ^ 57 }
  let g ← getG
  match g.inval with
  | none => fun _ => .error (.inval i.kind i.pasid i.va)
  | some w => do
    let ok ← getS (fun s => invOver s w)
    waitFor ok
    modG (fun g => { g with inval := none })
    endAfter

/-! ### Slots and gangs (R349 to R352) -/

/-- QMAP. -/
def qmapM (a b : Code) : M Unit := do
  privileged
  checkOps [.src a, .src b]
  let ex ← execLanes none
  let x ← readSrc a ex
  let y ← readSrc b ex
  let slot := (lowest ex x).toNat
  let q := (lowest ex y).toNat
  let ok ← getS (fun s =>
    let n := descAt s q
    let d := dieOf s.cur.core
    decide (slot / 256 = d) && (aget s.hslots slot).isNone && decide (q ≤ 16383) && qEn n && qDie n == d && (slotOf s q).isNone)
  ensure ok fcIllegalOperand
  modS (fun s => mapQueue s slot q)
  endAfter

/-- QUNMAP waits for a packet boundary. -/
def qunmapM (a : Code) : M Unit := do
  privileged
  checkOps [.src a]
  let ex ← execLanes none
  let x ← readSrc a ex
  let slot := (lowest ex x).toNat
  ensure (decide (slot < 1024)) fcIllegalOperand
  let h ← getS (fun s => aget s.hslots slot)
  match h with
  | none => endAfter
  | some h => do
    waitFor (!h.consuming)
    modS (fun s =>
      let s := { dropSlot s slot with pkts := s.pkts.filter (fun p => !(p.q == h.q && p.deadline.isSome)) }
      let s := cancel (cancel s (.waitRecheck slot)) (.waitTimeout slot)
      if qRptr (descAt s h.q) ≠ qWptr (descAt s h.q) then joinWait s h.q else s)
    endAfter

/-- The context of a LAUNCH image: that of the queue of the issuing die whose next packet it is; with none, the spec names no context,
and it is a free choice among those that live (log 24). -/
def imageContext (s : State) (img : Nat) : (Nat × Option (Nat × Nat)) × State :=
  let d := dieOf s.cur.core
  let hit := (s.hslots.filter (fun e => decide (e.1 / 256 = d))).find? (fun e => (fetchPacket s e.2.q).1.toOption == some img)
  match hit with
  | some (_, h) => ((qPasid (descAt s h.q), some (h.q, qRptr (descAt s h.q))), s)
  | none =>
    let (f, s) := takeFree s
    (((s.ctxs.getD (f % max 1 s.ctxs.length) (0, { pasid := 0 })).2.pasid, none), s)

/-- GANGRES's result word. -/
def gangWord (r : Reservation) : Word :=
  BitVec.ofNat 32 (r.index + 2 ^ 4 * r.gen.toNat + 2 ^ 16 * r.lstat + 2 ^ 30 * r.status)

/-- GANGRES. -/
def gangresM (d a : Code) : M Unit := do
  privileged
  checkOps [.dst d, .pair a]
  let ex ← execLanes none
  let x ← readPair a
  let va := lowest ex x
  if va.toNat % 64 ≠ 0 then faultM { code := fcMisaligned, lane := ex.headD 0xFF, addr := va.toNat }
  else do
    let img ← loadOne 64 (ex.headD 0) va
    ensure (fieldOf img 7 0 == 1) fcIllegalOperand
    let (p, _) ← getS (fun s => (imageContext s img).1)
    modS (fun s => (imageContext s img).2)
    let g := gridOfImage img p none
    let n := if badLaunch img g then 0 else g.nroot
    let roots ← getS (fun s => (rootLines s.cur.core g .group n s).1)
    modS (fun s => (rootLines s.cur.core g .group n s).2)
    let st ← getS (fun s => launchStatus s img g (roots.toOption.getD []))
    match (match roots with
      | .error e => if isFailure e.1 then (if st = 0 then some e else none) else (if earlyStatus st then none else some e)
      | .ok _ => none) with
    | some (.wait page, _) => fun _ => .error (.ask p page)
    | some (.held, _) => stallM
    | some (.fault code _, va) => faultM { code := code, lane := ex.headD 0xFF, addr := va }
    | none => do
      let rs := roots.toOption.getD []
      let r ← getS (fun s => if st ≠ 0 then ({ status := 2, lstat := st } : Reservation) else (reserve s (withRoots g rs)).1)
      modS (fun s => if st ≠ 0 then s else (reserve s (withRoots g rs)).2)
      writeDst d ex [] (fun _ => gangWord r)
      endAfter

/-- The live reservation that a handle names. -/
def gangOf (s : State) (h : Word) : Option (Nat × Nat) :=
  let i := h.toNat % 16
  match aget s.gangs i with
  | none => none
  | some r => if h.toNat / 2 ^ 4 % 256 = r.gen.toNat then r.grid.map (i, ·) else none

/-- GANGCMT and GANGABT: acts on the live reservation that a names. -/
def gangM (a : Code) (f : Nat → Nat → State → State) : M Unit := do
  privileged
  checkOps [.src a]
  let ex ← execLanes none
  let x ← readSrc a ex
  let r ← getS (fun s => gangOf s (lowest ex x))
  match r with
  | none => failM fcIllegalOperand
  | some (i, gn) => do
    modS (f i gn)
    endAfter

/-! ### Meanings -/

/-- MFSR. -/
def execMfsr (d : Code) (i : BitVec 14) (s : State) : Host.Outcome State Fault Refusal := issue 4 (mfsrM d i) s

/-- MTSR. -/
def execMtsr (d : Code) (i : BitVec 14) (s : State) : Host.Outcome State Fault Refusal := issueGuarded (mtsrM d i) s

/-- ERET. -/
def execEret (s : State) : Host.Outcome State Fault Refusal := issue 4 eretM s

/-- SYSCALL. -/
def execSyscall (i : BitVec 14) (s : State) : Host.Outcome State Fault Refusal := issue 4 (syscallM i) s

/-- WFI. -/
def execWfi (s : State) : Host.Outcome State Fault Refusal := issue 4 wfiM s

/-- IPI. -/
def execIpi (a : Code) (s : State) : Host.Outcome State Fault Refusal := issueGuarded (ipiM a) s

/-- CTXSAVE. -/
def execCtxsave (a : Code) (s : State) : Host.Outcome State Fault Refusal := issueGuarded (ctxsaveM a) s

/-- CTXRSTR. -/
def execCtxrstr (a : Code) (s : State) : Host.Outcome State Fault Refusal := issueGuarded (ctxrstrM a) s

/-- TLBINV. -/
def execTlbinv (a b : Code) (s : State) : Host.Outcome State Fault Refusal := issueGuarded (tlbinvM a b) s

/-- QMAP. -/
def execQmap (a b : Code) (s : State) : Host.Outcome State Fault Refusal := issueGuarded (qmapM a b) s

/-- QUNMAP. -/
def execQunmap (a : Code) (s : State) : Host.Outcome State Fault Refusal := issueGuarded (qunmapM a) s

/-- GANGRES. -/
def execGangres (d a : Code) (s : State) : Host.Outcome State Fault Refusal := issueGuarded (gangresM d a) s

/-- GANGCMT. -/
def execGangcmt (a : Code) (s : State) : Host.Outcome State Fault Refusal :=
  issueGuarded (gangM a (fun i gn s => commitGrid (dropReservation s i) gn)) s

/-- GANGABT. -/
def execGangabt (a : Code) (s : State) : Host.Outcome State Fault Refusal :=
  issueGuarded (gangM a (fun i gn s => abortReservation s i gn)) s

end Sys2Proof.Machine
end

