-- ==== Sys2Proof/Machine/Mmio.lean ====
section
/-! DEFINITION. Sys2Proof/Machine/Mmio.lean: counter numbers (R395, R397 to R402), and reads and writes of the device's registers (R190,
R210, R335, R363, R367, R379, R380, R386, R387, R397, R451, R465) under their access types (R11), with the answers to fault entries
(R359). -/

namespace Sys2Proof.Machine

/-! ### Counters (R395 to R402) -/

/-- Fields of a counter number. -/
def cnHalf (n : Word) : Bool := n.getLsbD 0
def cnClass (n : Word) : Nat := (n.extractLsb' 1 4).toNat
def cnUnit (n : Word) : Nat := (n.extractLsb' 5 8).toNat
def cnIndex (n : Word) : Nat := (n.extractLsb' 13 13).toNat

/-- A class, unit and index name a counter. -/
def ctrNamed (cls unit idx : Nat) : Bool :=
  if cls = 0 then decide (unit = 0) && decide (idx ≤ 19)
  else if cls = 1 then decide (unit < 256) && decide (idx ≤ 19)
  else if cls = 2 then decide (unit < 4) && decide (idx ≤ 14)
  else if cls = 3 then decide (unit < 16) && decide (idx ≤ 41)
  else if cls = 4 then decide (unit < 3) && decide (idx < 8192)
  else if cls = 5 then decide (unit < 3) && decide (idx < 4096)
  else if cls = 6 then decide (unit = 0) && decide (idx = 0)
  else if cls = 7 then decide (unit = 0) && decide (idx < 4)
  else false

/-- The LIMIT counters (R407): the only event or budget counters that CTRSET changes. -/
def ctrIsLimit (cls idx : Nat) : Bool :=
  (cls == 1 && (idx == 15 || idx == 18)) || (cls == 2 && (idx == 7 || idx == 10 || idx == 13))
    || (cls == 3 && (idx == 33 || idx == 36))

/-- The counter of an MMIO offset in the counter window: classes 1 to 5 and 7 (R397). -/
def mmioCounter (s : State) (i : Nat) : Nat :=
  let cls := i % 16
  let unit := i / 16 % 256
  let idx := i / 4096
  if cls = 0 ∨ cls = 6 ∨ 8192 ≤ idx ∨ !ctrNamed cls unit idx then 0 else (ctrNow s cls unit idx).toNat

/-! ### Reads -/

/-- RSVSTAT (R210). -/
def rsvstat (m : Mmio) : Nat :=
  m.lost0.toNat + 2 ^ 5 * m.lost1.toNat + 2 ^ 10 * m.degr.toNat + 2 ^ 11 * m.dual.toNat + 2 ^ 12 * m.unprot.toNat
    + 2 ^ 13 * m.more.toNat

/-- The remap entry of a frame (R379). -/
def remapWord (k : Stack) (f : Nat) : Nat :=
  let pf := (sget none k.remap f).getD f
  let moving := match k.moving with
    | none => false
    | some m => decide (m.f1 = f ∨ m.f2 = some f)
  pf + 2 ^ 16 * moving.toNat + 2 ^ 17 * (decide (32768 ≤ pf)).toNat

/-- A cork map byte (R387). -/
def corkByte (s : State) (c : Nat) : Nat := (coreAt s c).role % 4 + 4 * ((coreAt s c).why % 4)

/-- FWSTAT (R451). -/
def fwstat (f : Fw) : Nat :=
  f.bslot.toNat + 2 ^ 2 * f.bymark.toNat + 2 ^ 3 * f.safe.toNat + 2 ^ 4 * (f.stage % 16) + 2 ^ 8 * (f.stcause % 16)
    + 2 ^ 12 * (f.stdie % 4) + 2 ^ 14 * (f.stunit % 256) + 2 ^ 22 * f.liveupd.toNat

/-- Slots of held dies that consume a packet: QHSTAT (R451, R456). -/
def heldConsuming (s : State) : Nat :=
  (s.hslots.filter (fun e => e.2.consuming && s.fw.qhold.getLsbD (e.1 / 256))).length

/-- HBSTAT (R451). -/
def hbstat (f : Fw) : Nat := f.beat.toNat + 2 ^ 4 * f.armed.toNat + 2 ^ 5 * f.ok.toNat + 2 ^ 6 * f.roll.toNat

/-- MBXST (R451): BUSY while firmware has the message before it; when firmware's service ends, and with what status, is free. -/
def mbxst (s : State) : Nat :=
  let w := Config.freeWord s.free
  let told := ((vintnerOf s 0).map (fun c => (coreAt s c).fpend.getLsbD 8)).getD false
  if s.fw.mbxBusy then (if told then 1 else w.toNat % 2) + 2 ^ 8 * (w.toNat / 2 ^ 8 % 2 ^ 8)
  else 2 ^ 8 * s.fw.mbxStatus.toNat

/-- A doubleword of the firmware block; write-only registers read zero (R11, R451). -/
def fwDword (s : State) (o : Nat) : Nat :=
  if o = 0x00 then fwstat s.fw
  else if o = 0x18 then s.fw.imgBusy.isSome.toNat + 2 * s.fw.imgPass.toNat + 2 ^ 4 * (s.fw.imgErr % 16)
  else if o = 0x28 then s.fw.flOp.isSome.toNat + 2 ^ 4 * (s.fw.flErr % 16)
  else if o = 0x30 then s.fw.qhold.toNat
  else if o = 0x38 then heldConsuming s
  else if o = 0x40 then s.fw.resume.toNat
  else if o = 0x58 then hbstat s.fw
  else if 0x100 ≤ o ∧ o < 0x140 then (sget 0 s.fw.mbxIn ((o - 0x100) / 8)).toNat
  else if 0x180 ≤ o ∧ o < 0x1C0 then
    (if s.fw.mbxBusy then Config.freeDword (s.free + o) else sget 0 s.fw.mbxOut ((o - 0x180) / 8)).toNat
  else if o = 0x1C0 then mbxst s
  else 0

/-- CTXMAP's entry (R465). -/
def ctxmapDword (s : State) (i : Nat) : Nat :=
  match aget s.ctxs i with
  | none => 0
  | some c => c.pasid % 2 ^ 20 + 2 ^ 20 + 2 ^ 21 * c.dying.toNat

/-- The doubleword of the register space at an offset that is a multiple of 8; an offset that names no register reads zero (R190). -/
def regDword (s : State) (o : Nat) : Nat :=
  if o = 0x1000 then rsvstat s.mmio
  else if o = 0x2000 then s.mmio.qtbase
  else if o = 0x2008 then s.mmio.rtbase
  else if o = 0x2010 then s.mmio.mlbase
  else if o = 0x2018 then s.mmio.frbase
  else if o = 0x2028 then s.mmio.savesz
  else if o = 0x2030 then s.mmio.hostIdx.toNat
  else if o = 0x2038 then s.mmio.sirmelIdx.toNat
  else if o = 0x2040 then s.mmio.prodIdx.toNat
  else if o = 0x2048 then s.mmio.mlen.toNat
  else if o = 0x2050 then s.mmio.swapen.toNat + 2 * s.mmio.marchen.toNat + 2 ^ 8 * s.mmio.imb.toNat
  else if o = 0x2800 then s.mmio.ptbase
  else if o = 0x2808 then s.mmio.atsen.toNat
  else if o = 0x3000 then s.keys.idx.toNat
  else if o = 0x3038 then s.keys.busy.toNat + 2 * (aget s.keys.entries s.keys.idx.toNat).isSome.toNat
  else if 0x4000 ≤ o ∧ o < 0x4100 then natOfBytes ((List.range 8).map (fun i => BitVec.ofNat 8 (corkByte s (o - 0x4000 + i))))
  else if o = 0x4100 then liveCount s
  else if 0x5000 ≤ o ∧ o < 0x6000 then fwDword s (o - 0x5000)
  else if 0x6000 ≤ o ∧ o < 0xE000 then ctxmapDword s ((o - 0x6000) / 8)
  else if 0x100000 ≤ o ∧ o < 0x300000 then
    let k := stackAt s ((o - 0x100000) / 0x20000)
    let f := (o - 0x100000) % 0x20000 / 4
    remapWord k f + 2 ^ 32 * remapWord k (f + 1)
  else if 0x300000 ≤ o ∧ o < 0x320000 then
    let k := stackAt s ((o - 0x300000) / 0x2000)
    let b := (o - 0x300000) % 0x2000 / 4
    sget 0 k.bank b % 4 + 2 ^ 32 * (sget 0 k.bank (b + 1) % 4)
  else if 0x10000000 ≤ o then mmioCounter s ((o - 0x10000000) / 8)
  else 0

/-- An aligned read of 4 or 8 bytes of the register space. -/
def regRead (s : State) (o n : Nat) : Nat :=
  let v := regDword s (o / 8 * 8)
  if n = 8 then v else v / 2 ^ (8 * (o % 8)) % 2 ^ 32

/-! ### Answers to fault entries (R359) -/

/-- Every die's firmware looks at its fault queue. -/
def forwardFaults (s : State) : State :=
  (List.range 4).foldl (fun s d => send s (engineAgent d) (engineAgent d) (.faultQueuePost d)) s

/-- FRDONE: retry or abort of a driver fault ring entry; ignored for an entry that awaits no answer or a nonzero reserved bit. -/
def frdoneWrite (s : State) (v : Dword) : State :=
  let i := v.toNat % 1024
  if v.toNat / 2 ^ 11 ≠ 0 then s
  else match aget s.ring i with
  | none => s
  | some e =>
    let s := forwardFaults { s with ring := adel s.ring i }
    if v.getLsbD 10 then resumeAgent s e else refuseAgent s e

/-! ### Writes -/

/-- The value of a register after a write of `n` bytes at offset `o`: the other bytes keep what they hold. -/
def mergeWrite (old o n v : Nat) : Nat :=
  if n = 8 then v else setField old (8 * (o % 8) + 31) (8 * (o % 8)) v

/-- Bits of an address that a base register keeps. -/
def alignDown (v k : Nat) : Nat := v / 2 ^ k * 2 ^ k

/-- A landing ring descriptor has EN = 1 (R335). -/
def anyRingOn (s : State) : Bool :=
  (List.range 8192).any (fun r => (memByte s (s.mmio.rtbase + 64 * r + 10)).getLsbD 3)

/-- Registers that the writer's own step keeps apart: MLCTL, the key registers, RACKCTL, MARCHREQ. -/
def ctlWrite (s : State) (r v : Nat) : State :=
  if r = 0x2048 then setMlctl s (BitVec.ofNat 64 v)
  else if r = 0x2050 then { s with mmio := { s.mmio with
    swapen := v % 2 == 1, marchen := v / 2 % 2 == 1, imb := BitVec.ofNat 8 (v / 2 ^ 8) } }
  else if r = 0x2058 then
    let w := BitVec.ofNat 32 v
    let s' := marchRequest s w
    if (stackAt s' (v % 16)).march = (stackAt s (v % 16)).march then s else send s' (stackAgent (v % 16)) (stackAgent (v % 16)) (.swapStart (v % 16) 0 0)
  else if r = 0x3000 then { s with keys := { s.keys with idx := BitVec.ofNat 12 v } }
  else if r = 0x3028 then { s with keys := { s.keys with salt := BitVec.ofNat 32 v } }
  else if r = 0x3030 then keyCommand s (v % 4)
  else s

/-- The firmware block: its command registers are F-mode's alone (R451). IMGCHK, FLDESC and HBARM take effect at a commit and are not
here (R453). -/
def fwBlockWrite (s : State) (die : Nat) (fmode : Bool) (o n v : Nat) : State :=
  let r := o / 8 * 8
  if 0x100 ≤ r ∧ r < 0x140 then
    let i := (r - 0x100) / 8
    { s with fw := { s.fw with mbxIn := sset 0 s.fw.mbxIn i (BitVec.ofNat 64 (mergeWrite (sget 0 s.fw.mbxIn i).toNat o n v)) } }
  else if o = 0x140 then mailbox s (v % 256)
  else if o = 0x58 then { s with fw := { s.fw with roll := s.fw.roll && !(v / 64 % 2 == 1) } }
  else if !fmode then s
  else if o = 0x30 then dispatchAll (holdQueues s (BitVec.ofNat 32 v))
  else if r = 0x40 then { s with fw := { s.fw with resume := BitVec.ofNat 57 (mergeWrite s.fw.resume.toNat o n v) } }
  else if o = 0x50 then beatWatch s die (BitVec.ofNat 32 v)
  else s

/-- A write of 4 or 8 bytes to the register space, by an F-mode group of a die or by the host. Read-only registers and offsets that
name no register ignore it (R11, R190, R335, R367). That both may write Sirmel's log index at 0x2038 is the model's choice (log 12). -/
def regWrite (s : State) (die : Nat) (fmode : Bool) (o n v : Nat) : State :=
  let r := o / 8 * 8
  let new := mergeWrite (regDword s r) o n v
  let m := s.mmio
  if r = 0x1000 then (if o = 0x1000 ∧ v / 2 ^ 12 % 2 = 1 then { s with mmio := { m with unprot := false } } else s)
  else if r = 0x2000 then (if anyQueueOn s then s else { s with mmio := { m with qtbase := alignDown new 12 } })
  else if r = 0x2008 then (if anyRingOn s then s else { s with mmio := { m with rtbase := alignDown new 12 } })
  else if r = 0x2010 then (if m.mlen then s else { s with mmio := { m with mlbase := alignDown new 12 } })
  else if r = 0x2018 then forwardFaults { s with mmio := { m with frbase := alignDown new 12 } }
  else if o = 0x2020 then frdoneWrite s (BitVec.ofNat 64 v)
  else if r = 0x2030 then { s with mmio := { m with hostIdx := BitVec.ofNat 64 new } }
  else if r = 0x2038 then { s with mmio := { m with sirmelIdx := BitVec.ofNat 64 new } }
  else if o = 0x2048 ∨ o = 0x2050 ∨ o = 0x2058 ∨ o = 0x3000 ∨ o = 0x3028 ∨ o = 0x3030 then ctlWrite s o v
  else if r = 0x2800 then
    (if s.ctxs.any (fun e => decide (e.2.pasid ≠ 0)) then s else { s with mmio := { m with ptbase := alignDown (new % 2 ^ 52) 24 } })
  else if o = 0x2808 then { s with mmio := { m with atsen := v % 2 == 1 } }
  else if 0x3008 ≤ r ∧ r ≤ 0x3020 then
    let i := (r - 0x3008) / 8
    { s with keys := { s.keys with w := sset 0 s.keys.w i (BitVec.ofNat 64 (mergeWrite (sget 0 s.keys.w i).toNat o n v)) } }
  else if 0x5000 ≤ o ∧ o < 0x6000 then fwBlockWrite s die fmode (o - 0x5000) n v
  else s

/-- Offsets of the firmware block (R453). -/
def inFwBlock (pa : Nat) : Bool := decide (mmioBase + 0x5000 ≤ pa) && decide (pa < mmioBase + 0x6000)

/-- Offsets whose write takes effect at the commit of its chunk: IMGCHK, FLDESC, HBARM (R453). -/
def atCommit (pa : Nat) : Bool := pa == mmioBase + 0x5010 || pa == mmioBase + 0x5020 || pa == mmioBase + 0x5048

end Sys2Proof.Machine
end

