-- ==== Sys2Proof/Machine/MemAcc.lean ====
section
/-! DEFINITION. Sys2Proof/Machine/MemAcc.lean: the memory instructions that are no atomics: global and scratch loads and stores, LDK,
PFL, the stash map, pins and CACHEOP (R241 to R251), and the MMIO accesses among them (R238). -/

namespace Sys2Proof.Machine

/-! ### Addresses (R232, R233) -/

/-- The addresses of a plain global form. -/
def globalAddr (a b : Code) (ex : List Nat) : M (Nat → Dword) := do
  let base ← readPair a
  let off ← readSrc b ex
  pure (fun t => base t + (off t).signExtend 64)

/-- The addresses of a scratch form. -/
def scratchAddr (a b : Code) (ex : List Nat) : M (Nat → Word) := do
  let x ← readSrc a ex
  let y ← readSrc b ex
  pure (fun t => x t + y t)

/-! ### MMIO accesses (R238) -/

/-- Where an MMIO access begins. -/
def chkPa (c : Chk) : Nat := (globsOf c.locs).headD 0

/-- An access of the firmware block waits until the group's earlier chunks have committed (R453), and every MMIO access ends its chunk
after it and issues guarded. -/
def mmioFrame (cs : List Chk) : M Unit :=
  if cs.any (·.mmio) then do
    let g ← getG
    waitFor (g.done.isEmpty || !(cs.any (fun c => c.mmio && inFwBlock (chkPa c))))
    endAfter
    guardM
  else pure ()

/-- The value of an MMIO read: a register of the device, or the bytes of another target. -/
def mmioValue (s : State) (n : Nat) (c : Chk) : Nat :=
  if inMmio (chkPa c) then regRead s (chkPa c - mmioBase) n else natOfBytes ((globsOf c.locs).map (fun a => memByte s (homePa a)))

/-- MMIO reads of memory are served by its home slices, for which they wait (R188, R220). -/
def mmioFetch (cs : List Chk) : M Unit := fun s =>
  let pas := (cs.filter (fun c => c.mmio && !inMmio (chkPa c))).flatMap (fun c => (globsOf c.locs).map homePa)
  match unitRead s pas with
  | none => .error .stall
  | some s => .ok ((), s)

/-- An MMIO write of one thread. One that lands in memory waits as any write from outside a chunk does (R223). -/
def mmioPut (n : Nat) (c : Chk) (v : Nat) : M Unit :=
  if atCommit (chkPa c) then deferM (.fwWrite (chkPa c - mmioBase - 0x5000) n (BitVec.ofNat 64 v))
  else if inMmio (chkPa c) then modS (fun s => regWrite s (dieOf s.cur.core) (curGroup s).fmode (chkPa c - mmioBase) n v)
  else fun s =>
    let me := (s.cur.core, s.cur.slot)
    let pas := (globsOf c.locs).map homePa
    let w := sigOf (trackedLines pas)
    if heldByGrant s w || heldByLive s w (some me) then .error .stall
    else .ok ((), performWrite s (some me) (pas.zip (bytesOf n v)))

/-- The values of global loads of `n` bytes (R235). -/
def loadGlobal (n : Nat) (ex : List Nat) (ea : Nat → Dword) : M (Nat → Nat) := do
  let cs ← checkGlobal { n := n, mmioOk := n == 4 || n == 8 } ex ea
  mmioFrame cs
  mmioFetch cs
  let f ← performReads (cs.filter (fun c => !c.mmio)) true
  let g ← getS (fun s (t : Nat) => match cs.find? (fun c => c.mmio && c.lane == t) with
    | some c => mmioValue s n c
    | none => f t)
  pure g

/-- Global stores of `n` bytes. -/
def storeGlobal (n : Nat) (ex : List Nat) (ea : Nat → Dword) (v : Nat → Nat) : M Unit := do
  let cs ← checkGlobal { n := n, wr := true, mmioOk := n == 4 || n == 8 } ex ea
  mmioFrame cs
  performWrites (cs.filter (fun c => !c.mmio)) n v
  (cs.filter (·.mmio)).forM (fun c => mmioPut n c (v c.lane))

/-- The values of scratch loads. -/
def loadScratch (n : Nat) (ex : List Nat) (sa : Nat → Word) : M (Nat → Nat) := do
  let cs ← checkScratch false n ex sa
  performReads cs

/-- Scratch stores. -/
def storeScratch (n : Nat) (ex : List Nat) (sa : Nat → Word) (v : Nat → Nat) : M Unit := do
  let cs ← checkScratch true n ex sa
  performWrites cs n v

/-! ### The forms -/

/-- Sign- and zero-extension of an element of `n` bytes to 32 bits (R241). -/
def widenI (n v : Nat) : Word := (BitVec.ofNat (8 * n) v).signExtend 32
def widenN (n v : Nat) : Word := BitVec.ofNat 32 (v % 2 ^ (8 * n))

/-- LDG forms of at most 32 bits. -/
def ldgM (p : Option Pfx) (d a b : Code) (n : Nat) (f : Nat → Word) : M Unit := do
  checkOps [.dst d, .pair a, .src b]
  let ex ← execLanes p
  let zl ← zeroLanes p
  let ea ← globalAddr a b ex
  let v ← loadGlobal n ex ea
  writeDst d ex zl (fun t => f (v t))

/-- LDG.64. -/
def ldg64M (p : Option Pfx) (d a b : Code) : M Unit := do
  checkOps [.pair d, .pair a, .src b]
  let ex ← execLanes p
  let zl ← zeroLanes p
  let ea ← globalAddr a b ex
  let v ← loadGlobal 8 ex ea
  writePair d ex zl (fun t => BitVec.ofNat 64 (v t))

/-- LDG.128. -/
def ldg128M (p : Option Pfx) (d a b : Code) : M Unit := do
  checkOps [.quad d, .pair a, .src b]
  let ex ← execLanes p
  let zl ← zeroLanes p
  let ea ← globalAddr a b ex
  let v ← loadGlobal 16 ex ea
  writeQuad d ex zl v

/-- STG forms of at most 32 bits. -/
def stgM (p : Option Pfx) (d a b : Code) (n : Nat) : M Unit := do
  checkOps [.src d, .pair a, .src b]
  let ex ← execLanes p
  let ea ← globalAddr a b ex
  let v ← readSrc d ex
  storeGlobal n ex ea (fun t => (v t).toNat)

/-- STG.64. -/
def stg64M (p : Option Pfx) (d a b : Code) : M Unit := do
  checkOps [.pair d, .pair a, .src b]
  let ex ← execLanes p
  let ea ← globalAddr a b ex
  let v ← readPair d
  storeGlobal 8 ex ea (fun t => (v t).toNat)

/-- STG.128. -/
def stg128M (p : Option Pfx) (d a b : Code) : M Unit := do
  checkOps [.quad d, .pair a, .src b]
  let ex ← execLanes p
  let ea ← globalAddr a b ex
  let v ← readQuad d
  storeGlobal 16 ex ea v

/-- LDS forms of at most 32 bits. -/
def ldsM (p : Option Pfx) (d a b : Code) (n : Nat) (f : Nat → Word) : M Unit := do
  checkOps [.dst d, .src a, .src b]
  let ex ← execLanes p
  let zl ← zeroLanes p
  let sa ← scratchAddr a b ex
  let v ← loadScratch n ex sa
  writeDst d ex zl (fun t => f (v t))

/-- LDS.64. -/
def lds64M (p : Option Pfx) (d a b : Code) : M Unit := do
  checkOps [.pair d, .src a, .src b]
  let ex ← execLanes p
  let zl ← zeroLanes p
  let sa ← scratchAddr a b ex
  let v ← loadScratch 8 ex sa
  writePair d ex zl (fun t => BitVec.ofNat 64 (v t))

/-- LDS.128. -/
def lds128M (p : Option Pfx) (d a b : Code) : M Unit := do
  checkOps [.quad d, .src a, .src b]
  let ex ← execLanes p
  let zl ← zeroLanes p
  let sa ← scratchAddr a b ex
  let v ← loadScratch 16 ex sa
  writeQuad d ex zl v

/-- STS forms of at most 32 bits. -/
def stsM (p : Option Pfx) (d a b : Code) (n : Nat) : M Unit := do
  checkOps [.src d, .src a, .src b]
  let ex ← execLanes p
  let sa ← scratchAddr a b ex
  let v ← readSrc d ex
  storeScratch n ex sa (fun t => (v t).toNat)

/-- STS.64. -/
def sts64M (p : Option Pfx) (d a b : Code) : M Unit := do
  checkOps [.pair d, .src a, .src b]
  let ex ← execLanes p
  let sa ← scratchAddr a b ex
  let v ← readPair d
  storeScratch 8 ex sa (fun t => (v t).toNat)

/-- STS.128. -/
def sts128M (p : Option Pfx) (d a b : Code) : M Unit := do
  checkOps [.quad d, .src a, .src b]
  let ex ← execLanes p
  let sa ← scratchAddr a b ex
  let v ← readQuad d
  storeScratch 16 ex sa v

/-- LDK (R242): one read of a word at the lowest executing thread's address, written to every executing thread. -/
def ldkM (p : Option Pfx) (d a b : Code) : M Unit := do
  checkOps [.dst d, .pair a, .src b]
  let ex ← execLanes p
  let zl ← zeroLanes p
  let ea ← globalAddr a b ex
  match ex with
  | [] => writeDst d ex zl (fun _ => 0)
  | t :: _ => do
    let v ← loadOne 4 t (ea t) true
    writeDst d ex zl (fun _ => BitVec.ofNat 32 v)

/-! ### Prefetch (R243, R414) -/

/-- The barrier that PFB binds prefetches to (R398). -/
def boundBarrier (s : State) : Option BarRef :=
  let g := curGroup s
  if g.r.pfb = 0 then none else some (barOf s s.cur.core s.cur.slot (g.r.pfb.toNat - 1))

/-- One thread's prefetch: an address that would fail any check, or a poisoned one, is ignored (R243). A bound one takes effect at its chunk's commit, where an
ignored line counts as present. -/
def prefetchLane (va : Dword) (t : Nat) : M Unit := fun s =>
  let line : Option (Nat × State) := match checkAccess { n := 1, poisonOk := true } t va s with
    | .ok ((pas, mmio), s') =>
      if mmio || pas.any (fun a => !inHbm a || isPoisoned s (a / 128)) then none else some (pas.headD 0 / 128, s')
    | .error _ => none
  let c := s.cur.core
  match boundBarrier s with
  | some b => deferM (.pending b ((line.map (·.1)).getD (2 ^ 57))) ((line.map (·.2)).getD s)
  | none =>
    match line with
    | none => .ok ((), s)
    | some (l, s) =>
      let k := coreAt s c
      if !missing k l || decide (l ∈ k.fills) || decide (2048 ≤ k.fills.length) then .ok ((), s)
      else if stashMaps k (va.toNat % 2 ^ 57 / 128) then .ok ((), touchStash s c l)
      else .ok ((), send (modCore s c (fun k => { k with fills := k.fills ++ [l] })) (sliceAgent (homeSlice l)) c (.fillReturn c l))

/-- PFL. -/
def pflM (p : Option Pfx) (a b : Code) : M Unit := do
  checkOps [.pair a, .src b]
  let ex ← execLanes p
  let ea ← globalAddr a b ex
  ex.forM (fun t => prefetchLane (ea t) t)

/-! ### The stash map (R246 to R249) -/

/-- The scratch lines that a stash-map instruction names: first line and count, or its fault. A misaligned global base, where nothing else is
misaligned, is the address recorded (R391; log 49). -/
def stashArgs (sa len : Word) (base : Dword) (t : Nat) : M (Nat × Nat) := do
  let k ← getCore
  let off := sa.toNat % 2 ^ 28
  let i := sa.toNat / 2 ^ 28
  if off % 128 ≠ 0 ∨ len.toNat % 128 ≠ 0 ∨ len = 0 then faultM { code := fcMisaligned, lane := t, addr := sa.toNat }
  else if base.toNat % 128 ≠ 0 then faultM { code := fcMisaligned, lane := t, addr := base.toNat }
  else if (i ≠ 15 ∧ i ≠ k.cidx) ∨ k.psize * 32768 < off + len.toNat then
    faultM { code := fcScratchRange, lane := t, addr := sa.toNat }
  else pure (off / 128, len.toNat / 128)

/-- Valid entries that meet a range of scratch lines. -/
def entsIn (k : Core) (sline n : Nat) : List StashEnt :=
  (k.stash.map (·.2)).filter (fun e => e.valid && decide (e.sline < sline + n) && decide (sline < e.sline + e.nline))

/-- Marks the entries of a range as changing (PEND). -/
def pendEnts (sline n : Nat) : M Unit :=
  modC (fun k => { k with stash := k.stash.map (fun (e : Nat × StashEnt) =>
    if e.2.valid && decide (e.2.sline < sline + n) && decide (sline < e.2.sline + e.2.nline) then (e.1, { e.2 with pend := true }) else e) })

/-- SMAP of a range. -/
def smapRange (sline n gline : Nat) : M Unit := do
  let k ← getCore
  let g ← getG
  let e : StashEnt := { valid := false, sline := sline, nline := n, gline := gline, pend := true }
  let own := g.open_.effects.any (fun x => decide (x = .smap e)) || g.done.any (fun c => c.effects.any (fun x => decide (x = .smap e)))
  let same := fun (x : StashEnt) => x.sline == sline && x.nline == n && x.gline == gline
  if own || k.stash.any (fun x => x.2.valid && same x.2) then deferM (.mapSame sline n (some gline))
  else if k.stash.any (fun x => !same x.2 && entMeets x.2 e) then failM fcIllegalOperand
  else match freshKey k.stash 16 0 with
    | none => failM fcIllegalOperand
    | some i => do
      modC (fun k => { k with stash := aset k.stash i e })
      deferM (.smap e)

/-- SUNMAP of a range. -/
def sunmapRange (sline n : Nat) : M Unit := do
  let k ← getCore
  let es := entsIn k sline n
  if es.isEmpty then deferM (.mapSame sline n none)
  else if es.all (fun e => decide (sline ≤ e.sline) && decide (e.sline + e.nline ≤ sline + n))
      && decide ((es.map (·.nline)).sum = n) then do
    pendEnts sline n
    deferM (.sunmap sline n)
  else failM fcIllegalOperand

/-- SDROP of a range. -/
def sdropRange (sline n : Nat) : M Unit := do
  let k ← getCore
  if (entsIn k sline n).isEmpty then deferM (.mapSame sline n none)
  else do
    pendEnts sline n
    deferM (.sdrop sline n)

/-- SFLUSH of a range: committed dirty lines are written back. -/
def sflushRange (sline n : Nat) : M Unit :=
  modS (fun s =>
    let c := s.cur.core
    let k := coreAt s c
    let phys := ((List.range n).filterMap (fun i => stashGlobal k (sline + i))).filterMap (physLine s c (curGroup s).pasid)
    writeBack s c (phys.filter (fun l => !(decide (l ∈ uncommittedLines k)))))

/-- SUNMAP, SFLUSH and SDROP: operands of the lowest executing thread, once for the group (R247). -/
def stashM (p : Option Pfx) (d b : Code) (f : Nat → Nat → M Unit) : M Unit := do
  checkOps [.src d, .src b]
  let ex ← execLanes p
  let len ← readSrc b ex
  let sa ← readSrc d ex
  match ex with
  | [] => pure ()
  | t :: _ => do
    let (l, n) ← stashArgs (sa t) (len t) 0 t
    f l n

/-- SMAP. -/
def smapM (p : Option Pfx) (d a b : Code) : M Unit := do
  checkOps [.src d, .pair a, .src b]
  let ex ← execLanes p
  let base ← readPair a
  let len ← readSrc b ex
  let sa ← readSrc d ex
  match ex with
  | [] => pure ()
  | t :: _ => do
    let (l, n) ← stashArgs (sa t) (len t) (base t) t
    smapRange l n ((base t).toNat % 2 ^ 57 / 128)

/-! ### Pins (R197, R250, R382) -/

/-- The line is pinned in the core. -/
def isPinned (k : Core) (line : Nat) : Bool :=
  k.l1.any (fun x => x.line == line && x.pin) || k.stashLines.any (fun x => x.line == line && x.pin)

/-- Sets or clears the pin of a line. -/
def setPin (k : Core) (line : Nat) (b : Bool) : Core :=
  { k with
    l1 := k.l1.map (fun x => if x.line = line then { x with pin := b } else x)
    stashLines := k.stashLines.map (fun x => if x.line = line then { x with pin := b } else x)
    qused := if b then k.qused + 1 else k.qused - 1 }

/-- One thread's LLOCK: its status. -/
def lockLine (s : State) (c : Nat) (va : Dword) (pa : Nat) : Nat × State :=
  let k := coreAt s c
  let l := pa / 128
  let stash := stashMaps k (va.toNat % 2 ^ 57 / 128)
  let pins := (k.l1.filter (fun x => x.pin && x.line % 256 == l % 256)).length
  if !inHbm pa then (3, s)
  else if isPinned k l then (0, s)
  else if lockLimit k ≤ k.qused then (1, s)
  else if !stash && decide (l1Ways k ≤ pins + 1) then (2, s)
  else (0, modCore (if stash then touchStash s c l else touchLine s c l) c (fun k => setPin k l true))

/-- Performs LLOCK for threads in order. -/
def lockLines (c : Nat) (ea : Nat → Dword) : List (Nat × Nat) → State → List (Nat × Nat) × State
  | [], s => ([], s)
  | (t, pa) :: r, s =>
    let (v, s) := lockLine s c (ea t) pa
    let (vs, s) := lockLines c ea r s
    ((t, v) :: vs, s)

/-- The physical addresses that LLOCK and LUNLOCK name, checked, a pending change of the stash map among the checks (R248). -/
def lineTargets (ex : List Nat) (ea : Nat → Dword) : M (List (Nat × Nat)) := do
  let cs ← checkGlobal { n := 1, poisonOk := true } ex ea
  guardChange (cs.flatMap (·.vlines)).dedup
  pure (cs.map (fun c => (c.lane, chkPa c)))

/-- LLOCK: a line whose fill finds every way of its set taken by uncommitted or held lines waits for one, and for its home slice's packet (R195,
R202; log 46). -/
def llockM (p : Option Pfx) (d a b : Code) : M Unit := do
  checkOps [.dst d, .pair a, .src b]
  let ex ← execLanes p
  let zl ← zeroLanes p
  let ea ← globalAddr a b ex
  let ts ← lineTargets ex ea
  let vs ← (fun s =>
    let (vs, s') := lockLines s.cur.core ea ts s
    if ts.any (fun x => readStalls s s.cur.core (x.2 / 128) || decide (sget 0 vs x.1 = 0) && !isPinned (coreAt s' s.cur.core) (x.2 / 128)) then .error .stall
    else .ok (vs, s') : M (List (Nat × Nat)))
  writeDst d ex zl (fun t => BitVec.ofNat 32 (sget 0 vs t))

/-- LUNLOCK. -/
def lunlockM (p : Option Pfx) (a b : Code) : M Unit := do
  checkOps [.pair a, .src b]
  let ex ← execLanes p
  let ea ← globalAddr a b ex
  let ts ← lineTargets ex ea
  modC (fun k => ts.foldl (fun k x => if isPinned k (x.2 / 128) then setPin k (x.2 / 128) false else k) k)

/-! ### CACHEOP (R251) -/

/-- Every core writes its committed dirty copies of a line back. -/
def writeBackAll (s : State) (l : Nat) : State := s.cores.foldl (fun s e => writeBack s e.1 [l]) s

/-- The home slice writes the line back to HBM. -/
def writeL2 (s : State) (l : Nat) : State :=
  if s.l2.any (fun x => x.line == l && x.dirty) then
    sendPacket { s with l2 := s.l2.map (fun x => if x.line = l then { x with dirty := false } else x) } (sliceAgent (homeSlice l))
      (dataStack l) (.hbmWrite l [])
  else s

/-- Every copy of the line goes (INVL2). -/
def dropCopies (s : State) (l : Nat) : State :=
  let s := s.cores.foldl (fun s e => invalidate s e.1 [l]) (revoke s l)
  { s with l2 := s.l2.filter (fun x => !(x.line == l)) }

/-- A cache operation on one line. -/
def cacheLine (cop l : Nat) : M Unit :=
  if cop = 0 then modS (fun s => writeBackAll s l)
  else if cop = 1 then modS (fun s => writeL2 s l)
  else if cop = 2 then modS (fun s => dropCopies (writeL2 (writeBackAll s l) l) l)
  else if cop = 3 then modS (fun s => sendPacket s (sliceAgent (homeSlice l)) (dataStack l) (.hbmRead l []))
  else if cop = 4 then do
    enterWrites [l] [l]
    modK (fun k => { k with psn := aset k.psn l [] })
    deferM (.cachePoison l)
  else writeLocs ((List.range 128).map (fun i => (.glob (128 * l + i), 0)))

/-- CACHEOP. -/
def cacheopM (p : Option Pfx) (d a b : Code) : M Unit := do
  privileged
  ensure (decide (d.toNat ≤ 5)) fcIllegalOperand
  checkOps [.pair a, .src b]
  let ex ← execLanes p
  let ea ← globalAddr a b ex
  ex.forM (fun t =>
    if (ea t).toNat / 2 ^ 52 ≠ 0 then faultM { code := fcIllegalOperand, lane := t }
    else if !inHbm (ea t).toNat then faultM { code := fcPermission, lane := t, addr := (ea t).toNat }
    else pure ())
  ex.forM (fun t => cacheLine d.toNat ((ea t).toNat / 128))

/-! ### Meanings -/

/-- LDG.8i. -/
def execLdg8i (p : Option Pfx) (d a b : Code) (s : State) : Host.Outcome State Fault Refusal :=
  issueP p (ldgM p d a b 1 (widenI 1)) s

/-- LDG.8n. -/
def execLdg8n (p : Option Pfx) (d a b : Code) (s : State) : Host.Outcome State Fault Refusal :=
  issueP p (ldgM p d a b 1 (widenN 1)) s

/-- LDG.16i. -/
def execLdg16i (p : Option Pfx) (d a b : Code) (s : State) : Host.Outcome State Fault Refusal :=
  issueP p (ldgM p d a b 2 (widenI 2)) s

/-- LDG.16n. -/
def execLdg16n (p : Option Pfx) (d a b : Code) (s : State) : Host.Outcome State Fault Refusal :=
  issueP p (ldgM p d a b 2 (widenN 2)) s

/-- LDG.32. -/
def execLdg32 (p : Option Pfx) (d a b : Code) (s : State) : Host.Outcome State Fault Refusal :=
  issueP p (ldgM p d a b 4 (widenN 4)) s

/-- LDG.64. -/
def execLdg64 (p : Option Pfx) (d a b : Code) (s : State) : Host.Outcome State Fault Refusal :=
  issueP p (ldg64M p d a b) s

/-- LDG.128. -/
def execLdg128 (p : Option Pfx) (d a b : Code) (s : State) : Host.Outcome State Fault Refusal :=
  issueP p (ldg128M p d a b) s

/-- STG.8. -/
def execStg8 (p : Option Pfx) (d a b : Code) (s : State) : Host.Outcome State Fault Refusal :=
  issueP p (stgM p d a b 1) s

/-- STG.16. -/
def execStg16 (p : Option Pfx) (d a b : Code) (s : State) : Host.Outcome State Fault Refusal :=
  issueP p (stgM p d a b 2) s

/-- STG.32. -/
def execStg32 (p : Option Pfx) (d a b : Code) (s : State) : Host.Outcome State Fault Refusal :=
  issueP p (stgM p d a b 4) s

/-- STG.64. -/
def execStg64 (p : Option Pfx) (d a b : Code) (s : State) : Host.Outcome State Fault Refusal :=
  issueP p (stg64M p d a b) s

/-- STG.128. -/
def execStg128 (p : Option Pfx) (d a b : Code) (s : State) : Host.Outcome State Fault Refusal :=
  issueP p (stg128M p d a b) s

/-- LDS.8i. -/
def execLds8i (p : Option Pfx) (d a b : Code) (s : State) : Host.Outcome State Fault Refusal :=
  issueP p (ldsM p d a b 1 (widenI 1)) s

/-- LDS.8n. -/
def execLds8n (p : Option Pfx) (d a b : Code) (s : State) : Host.Outcome State Fault Refusal :=
  issueP p (ldsM p d a b 1 (widenN 1)) s

/-- LDS.16i. -/
def execLds16i (p : Option Pfx) (d a b : Code) (s : State) : Host.Outcome State Fault Refusal :=
  issueP p (ldsM p d a b 2 (widenI 2)) s

/-- LDS.16n. -/
def execLds16n (p : Option Pfx) (d a b : Code) (s : State) : Host.Outcome State Fault Refusal :=
  issueP p (ldsM p d a b 2 (widenN 2)) s

/-- LDS.32. -/
def execLds32 (p : Option Pfx) (d a b : Code) (s : State) : Host.Outcome State Fault Refusal :=
  issueP p (ldsM p d a b 4 (widenN 4)) s

/-- LDS.64. -/
def execLds64 (p : Option Pfx) (d a b : Code) (s : State) : Host.Outcome State Fault Refusal :=
  issueP p (lds64M p d a b) s

/-- LDS.128. -/
def execLds128 (p : Option Pfx) (d a b : Code) (s : State) : Host.Outcome State Fault Refusal :=
  issueP p (lds128M p d a b) s

/-- STS.8. -/
def execSts8 (p : Option Pfx) (d a b : Code) (s : State) : Host.Outcome State Fault Refusal :=
  issueP p (stsM p d a b 1) s

/-- STS.16. -/
def execSts16 (p : Option Pfx) (d a b : Code) (s : State) : Host.Outcome State Fault Refusal :=
  issueP p (stsM p d a b 2) s

/-- STS.32. -/
def execSts32 (p : Option Pfx) (d a b : Code) (s : State) : Host.Outcome State Fault Refusal :=
  issueP p (stsM p d a b 4) s

/-- STS.64. -/
def execSts64 (p : Option Pfx) (d a b : Code) (s : State) : Host.Outcome State Fault Refusal :=
  issueP p (sts64M p d a b) s

/-- STS.128. -/
def execSts128 (p : Option Pfx) (d a b : Code) (s : State) : Host.Outcome State Fault Refusal :=
  issueP p (sts128M p d a b) s

/-- LDK. -/
def execLdk (p : Option Pfx) (d a b : Code) (s : State) : Host.Outcome State Fault Refusal :=
  issueP p (ldkM p d a b) s

/-- PFL. -/
def execPfl (p : Option Pfx) (a b : Code) (s : State) : Host.Outcome State Fault Refusal :=
  issueP p (pflM p a b) s

/-- SMAP. -/
def execSmap (p : Option Pfx) (d a b : Code) (s : State) : Host.Outcome State Fault Refusal :=
  issueP p (smapM p d a b) s

/-- SUNMAP. -/
def execSunmap (p : Option Pfx) (d b : Code) (s : State) : Host.Outcome State Fault Refusal :=
  issueP p (stashM p d b sunmapRange) s

/-- SFLUSH. -/
def execSflush (p : Option Pfx) (d b : Code) (s : State) : Host.Outcome State Fault Refusal :=
  issueP p (stashM p d b sflushRange) s

/-- SDROP. -/
def execSdrop (p : Option Pfx) (d b : Code) (s : State) : Host.Outcome State Fault Refusal :=
  issueP p (stashM p d b sdropRange) s

/-- LLOCK. -/
def execLlock (p : Option Pfx) (d a b : Code) (s : State) : Host.Outcome State Fault Refusal :=
  issueP p (llockM p d a b) s

/-- LUNLOCK. -/
def execLunlock (p : Option Pfx) (a b : Code) (s : State) : Host.Outcome State Fault Refusal :=
  issueP p (lunlockM p a b) s

/-- CACHEOP. -/
def execCacheop (p : Option Pfx) (d a b : Code) (s : State) : Host.Outcome State Fault Refusal :=
  issueP p (cacheopM p d a b) s

end Sys2Proof.Machine
end

