-- ==== Sys2Proof/Machine/Atomic.lean ====
section
/-! DEFINITION. Sys2Proof/Machine/Atomic.lean: atomics, far reductions and the ordering instructions (R252 to R259). -/

namespace Sys2Proof.Machine

/-! ### ATOM and ATOM64 (R252, R253) -/

/-- The old values that the threads receive, in their order, over the bytes that lower lanes have written. `new` takes the old value,
b and the value compared. -/
def atomLanes (s : State) (n : Nat) (new : Nat → Nat → Nat → Nat) (b cmp : Nat → Nat) :
    List Chk → Sparse (Option Byte) → List (Nat × Nat) × Sparse (Option Byte)
  | [], ov => ([], ov)
  | c :: r, ov =>
    let pas := globsOf c.locs
    let old := natOfBytes (pas.map (fun a => (sget none ov a).getD (viewByte s (curGroup s) a)))
    let bytes := bytesOf n (new old (b c.lane) (cmp c.lane))
    let (vs, ov) := atomLanes s n new b cmp r (ssetAll none ov (pas.zip (bytes.map some)))
    ((c.lane, old) :: vs, ov)

/-- The group holds an uncommitted byte at one of some addresses. -/
def ownsBytes (g : Group) (pas : List Nat) : Bool := pas.any (fun a => (firstByte (·.wr) a (chunksOf g)).isSome)

/-- A store to one of some addresses is still on its way beyond the package. -/
def extAt (s : State) (pas : List Nat) : Bool := pas.any (fun a => (extByte s a).isSome)

/-- Performs an atomic by the executing threads: inside the chunk for package memory, at once at the target for memory beyond it, where
the group's earlier stores have left first and the chunk ends (R163, R231). -/
def atomPerform (n : Nat) (pcie : Bool) (ex : List Nat) (ea : Nat → Dword) (new : Nat → Nat → Nat → Nat) (b cmp : Nat → Nat) :
    M (Nat → Nat) := do
  let cs ← checkGlobal { n := n, wr := true, aligned := true, atomic := true, pcieOk := pcie } ex ea
  let out := (cs.flatMap (fun c => globsOf c.locs)).filter beyond
  let g ← getG
  if ownsBytes g out then quietM else pure ()
  let busy ← getS (fun s => extAt s out)
  waitFor (!busy)
  enterChkReads cs true
  let (vs, ov) ← getS (fun s => atomLanes s n new b cmp cs [])
  let kvs := bufferBytes ov
  let k ← getCore
  writeLocs ((kvs.filter (fun e => !beyond e.1)).map (fun e => (.glob e.1, e.2))) (cs.flatMap (stashOf k))
  if out.isEmpty then pure ()
  else do
    modS (fun s => performWrite s (some (s.cur.core, s.cur.slot)) ((kvs.filter (fun e => beyond e.1)).map (fun e => (homePa e.1, e.2))))
    endAfter
    guardM
  pure (fun t => sget 0 vs t)

/-- ATOM: the d of a cas form is read before any write. -/
def atomM (p : Option Pfx) (d a b : Code) (pcie cas : Bool) (new : Word → Word → Word → Word) : M Unit := do
  checkOps ([.dst d, .pair a, .src b] ++ (if cas then [.src d] else []))
  let ex ← execLanes p
  let zl ← zeroLanes p
  let ea ← readPair a
  let v ← readSrc b ex
  let c ← if cas then readSrc d ex else pure (fun _ => 0)
  let old ← atomPerform 4 pcie ex ea
    (fun o x y => (new (BitVec.ofNat 32 o) (BitVec.ofNat 32 x) (BitVec.ofNat 32 y)).toNat) (fun t => (v t).toNat) (fun t => (c t).toNat)
  writeDst d ex zl (fun t => BitVec.ofNat 32 (old t))

/-- ATOM64. -/
def atom64M (p : Option Pfx) (d a b : Code) (new : Dword → Dword → Dword → Dword) : M Unit := do
  checkOps [.pair d, .pair a, .pair b]
  let ex ← execLanes p
  let zl ← zeroLanes p
  let ea ← readPair a
  let v ← readPair b
  let c ← readPair d
  let old ← atomPerform 8 true ex ea
    (fun o x y => (new (BitVec.ofNat 64 o) (BitVec.ofNat 64 x) (BitVec.ofNat 64 y)).toNat) (fun t => (v t).toNat) (fun t => (c t).toNat)
  writePair d ex zl (fun t => BitVec.ofNat 64 (old t))

/-! ### RED (R254, R255) -/

/-- A scope code (R74): 0 to 9. -/
def scopeOk (c : Code) : Bool := decide (c.toNat ≤ 9)

/-- The effective scope of a reduction. -/
def redScope (sc pa : Nat) : Nat :=
  if inDomain pa then max sc 7 else if inHost pa || inCxlMem pa then max sc 8 else sc

/-- RED on values of `n` bytes: checked at issue, held until commit. -/
def redIssue (op : RedOp) (n sc : Nat) (pcie : Bool) (ex : List Nat) (ea : Nat → Dword) (v : Nat → Dword) : M Unit := do
  let cs ← checkGlobal { n := n, wr := true, aligned := true, pcieOk := pcie } ex ea
  guardChange (cs.flatMap (·.vlines)).dedup
  let cur ← getS (·.cur)
  cs.forM (fun c => deferM (.red { op := op, pa := chkPa c, v := v c.lane, scope := redScope sc (chkPa c), core := cur.core, slot := cur.slot }))

/-- RED of 4 bytes. -/
def redM (p : Option Pfx) (d a b : Code) (op : RedOp) (pcie : Bool) : M Unit := do
  ensure (scopeOk d) fcIllegalOperand
  checkOps [.pair a, .src b]
  let ex ← execLanes p
  let ea ← readPair a
  let v ← readSrc b ex
  redIssue op 4 d.toNat pcie ex ea (fun t => (v t).setWidth 64)

/-- RED of 8 bytes. -/
def red64M (p : Option Pfx) (d a b : Code) (op : RedOp) : M Unit := do
  ensure (scopeOk d) fcIllegalOperand
  checkOps [.pair a, .pair b]
  let ex ← execLanes p
  let ea ← readPair a
  let v ← readPair b
  redIssue op 8 d.toNat true ex ea v

/-! ### STREL, LDACQ, FENCE (R257, R258) -/

/-- At scopes 7–9 the chunk ends after the instruction (R215). -/
def scopeEnd (sc : Code) : M Unit := if 7 ≤ sc.toNat then endAfter else pure ()

/-- A chunk holds stores beyond the package or reductions. -/
def leavesLater (k : Chunk) : Bool :=
  k.effects.any (fun e => match e with
    | .ext _ _ => true
    | .red _ => true
    | _ => false)

/-- A STREL at scopes 7–9 to package memory shows with its chunk: that holds no earlier store beyond the package, and waits until every such store
before it in the order is acknowledged and every earlier reduction of the group performed (R230, R231, R257). One to memory beyond the
package leaves with its chunk and waits on its way (R231, R436). -/
def releaseWait (sc : Code) (cs : List Chk) : M Unit := do
  let g ← getG
  let busy ← getS (fun s => !extQuiet s s.cur.core s.cur.slot || !s.extPend.isEmpty)
  if sc.toNat < 7 || (cs.flatMap (fun c => globsOf c.locs)).all beyond then pure ()
  else if leavesLater g.open_ then cutM
  else waitFor (!(g.done.any leavesLater || busy))

/-- STREL of a word. -/
def strelM (p : Option Pfx) (d a b : Code) : M Unit := do
  ensure (scopeOk d) fcIllegalOperand
  checkOps [.pair a, .src b]
  let ex ← execLanes p
  let ea ← readPair a
  let v ← readSrc b ex
  let cs ← checkGlobal { n := 4, wr := true, aligned := true } ex ea
  releaseWait d cs
  performWrites cs 4 (fun t => (v t).toNat) (decide (7 ≤ d.toNat))
  scopeEnd d

/-- STREL of a pair. -/
def strel64M (p : Option Pfx) (d a b : Code) : M Unit := do
  ensure (scopeOk d) fcIllegalOperand
  checkOps [.pair a, .pair b]
  let ex ← execLanes p
  let ea ← readPair a
  let v ← readPair b
  let cs ← checkGlobal { n := 8, wr := true, aligned := true } ex ea
  releaseWait d cs
  performWrites cs 8 (fun t => (v t).toNat) (decide (7 ≤ d.toNat))
  scopeEnd d

/-- LDACQ of a word. -/
def ldacqM (p : Option Pfx) (d a b : Code) : M Unit := do
  ensure (scopeOk b) fcIllegalOperand
  checkOps [.dst d, .pair a]
  let ex ← execLanes p
  let zl ← zeroLanes p
  let ea ← readPair a
  let cs ← checkGlobal { n := 4, aligned := true } ex ea
  let v ← performReads cs true
  scopeEnd b
  writeDst d ex zl (fun t => BitVec.ofNat 32 (v t))

/-- LDACQ of a pair. -/
def ldacq64M (p : Option Pfx) (d a b : Code) : M Unit := do
  ensure (scopeOk b) fcIllegalOperand
  checkOps [.pair d, .pair a]
  let ex ← execLanes p
  let zl ← zeroLanes p
  let ea ← readPair a
  let cs ← checkGlobal { n := 8, aligned := true } ex ea
  let v ← performReads cs true
  scopeEnd b
  writePair d ex zl (fun t => BitVec.ofNat 64 (v t))

/-- FENCE: at scopes 7–9 the group goes on once all its earlier accesses beyond the package are performed. -/
def fenceM (d : Code) : M Unit := do
  ensure (scopeOk d) fcIllegalOperand
  if 7 ≤ d.toNat then do
    endAfter
    modG (fun g => { g with hold := true })
  else pure ()

/-! ### WAITADDR (R259) -/

/-- WAITADDR: the threads sleep; the watch is armed when the chunk commits. Its b names a k register (R84). -/
def waitaddrM (a b : Code) : M Unit := do
  ensure (decide (96 ≤ b.toNat) && decide (b.toNat ≤ 111)) fcIllegalOperand
  checkOps [.pair a, .src b]
  let ex ← execLanes none
  let ea ← readPair a
  let tm ← readSrc b ex
  match ex with
  | [] => pure ()
  | t :: _ => do
    let cs ← checkGlobal { n := 1, sleep := true } [t] ea
    let _ ← performReads cs
    let pa := chkPa (cs.headD { lane := t, locs := [], mmio := false, vlines := [] })
    deferM (.watch ex (pa / 128) (1100 * (tm t).toNat))
    modR (fun r => setThr r ex .addr)
    endAfter
    if inHost pa || inCxlMem pa then guardM else pure ()

/-! ### Meanings -/

/-- ATOM.add. -/
def execAtomAdd (p : Option Pfx) (d a b : Code) (s : State) : Host.Outcome State Fault Refusal :=
  issueP p (atomM p d a b true false (fun o x _ => o + x)) s

/-- ATOM.and. -/
def execAtomAnd (p : Option Pfx) (d a b : Code) (s : State) : Host.Outcome State Fault Refusal :=
  issueP p (atomM p d a b false false (fun o x _ => o &&& x)) s

/-- ATOM.or. -/
def execAtomOr (p : Option Pfx) (d a b : Code) (s : State) : Host.Outcome State Fault Refusal :=
  issueP p (atomM p d a b false false (fun o x _ => o ||| x)) s

/-- ATOM.xor. -/
def execAtomXor (p : Option Pfx) (d a b : Code) (s : State) : Host.Outcome State Fault Refusal :=
  issueP p (atomM p d a b false false (fun o x _ => o ^^^ x)) s

/-- ATOM.min.i. -/
def execAtomMinI (p : Option Pfx) (d a b : Code) (s : State) : Host.Outcome State Fault Refusal :=
  issueP p (atomM p d a b false false (fun o x _ => if x.slt o then x else o)) s

/-- ATOM.min.n. -/
def execAtomMinN (p : Option Pfx) (d a b : Code) (s : State) : Host.Outcome State Fault Refusal :=
  issueP p (atomM p d a b false false (fun o x _ => if x.ult o then x else o)) s

/-- ATOM.max.i. -/
def execAtomMaxI (p : Option Pfx) (d a b : Code) (s : State) : Host.Outcome State Fault Refusal :=
  issueP p (atomM p d a b false false (fun o x _ => if o.slt x then x else o)) s

/-- ATOM.max.n. -/
def execAtomMaxN (p : Option Pfx) (d a b : Code) (s : State) : Host.Outcome State Fault Refusal :=
  issueP p (atomM p d a b false false (fun o x _ => if o.ult x then x else o)) s

/-- ATOM.exch. -/
def execAtomExch (p : Option Pfx) (d a b : Code) (s : State) : Host.Outcome State Fault Refusal :=
  issueP p (atomM p d a b true false (fun _ x _ => x)) s

/-- ATOM.cas. -/
def execAtomCas (p : Option Pfx) (d a b : Code) (s : State) : Host.Outcome State Fault Refusal :=
  issueP p (atomM p d a b true true (fun o x y => if o = y then x else o)) s

/-- ATOM64.add. -/
def execAtom64Add (p : Option Pfx) (d a b : Code) (s : State) : Host.Outcome State Fault Refusal :=
  issueP p (atom64M p d a b (fun o x _ => o + x)) s

/-- ATOM64.cas. -/
def execAtom64Cas (p : Option Pfx) (d a b : Code) (s : State) : Host.Outcome State Fault Refusal :=
  issueP p (atom64M p d a b (fun o x y => if o = y then x else o)) s

/-- RED.add.i. -/
def execRedAddI (p : Option Pfx) (d a b : Code) (s : State) : Host.Outcome State Fault Refusal :=
  issueP p (redM p d a b .addI true) s

/-- RED.add.f. -/
def execRedAddF (p : Option Pfx) (d a b : Code) (s : State) : Host.Outcome State Fault Refusal :=
  issueP p (redM p d a b .addF false) s

/-- RED.and. -/
def execRedAnd (p : Option Pfx) (d a b : Code) (s : State) : Host.Outcome State Fault Refusal :=
  issueP p (redM p d a b .and false) s

/-- RED.or. -/
def execRedOr (p : Option Pfx) (d a b : Code) (s : State) : Host.Outcome State Fault Refusal :=
  issueP p (redM p d a b .or false) s

/-- RED.xor. -/
def execRedXor (p : Option Pfx) (d a b : Code) (s : State) : Host.Outcome State Fault Refusal :=
  issueP p (redM p d a b .xor false) s

/-- RED.min.i. -/
def execRedMinI (p : Option Pfx) (d a b : Code) (s : State) : Host.Outcome State Fault Refusal :=
  issueP p (redM p d a b .minI false) s

/-- RED.min.n. -/
def execRedMinN (p : Option Pfx) (d a b : Code) (s : State) : Host.Outcome State Fault Refusal :=
  issueP p (redM p d a b .minN false) s

/-- RED.max.i. -/
def execRedMaxI (p : Option Pfx) (d a b : Code) (s : State) : Host.Outcome State Fault Refusal :=
  issueP p (redM p d a b .maxI false) s

/-- RED.max.n. -/
def execRedMaxN (p : Option Pfx) (d a b : Code) (s : State) : Host.Outcome State Fault Refusal :=
  issueP p (redM p d a b .maxN false) s

/-- RED.add.i64. -/
def execRedAddI64 (p : Option Pfx) (d a b : Code) (s : State) : Host.Outcome State Fault Refusal :=
  issueP p (red64M p d a b .addI64) s

/-- WAITADDR. -/
def execWaitaddr (a b : Code) (s : State) : Host.Outcome State Fault Refusal := issue 4 (waitaddrM a b) s

/-- STREL.32. -/
def execStrel32 (p : Option Pfx) (d a b : Code) (s : State) : Host.Outcome State Fault Refusal :=
  issueP p (strelM p d a b) s

/-- STREL.64. -/
def execStrel64 (p : Option Pfx) (d a b : Code) (s : State) : Host.Outcome State Fault Refusal :=
  issueP p (strel64M p d a b) s

/-- LDACQ.32. -/
def execLdacq32 (p : Option Pfx) (d a b : Code) (s : State) : Host.Outcome State Fault Refusal :=
  issueP p (ldacqM p d a b) s

/-- LDACQ.64. -/
def execLdacq64 (p : Option Pfx) (d a b : Code) (s : State) : Host.Outcome State Fault Refusal :=
  issueP p (ldacq64M p d a b) s

/-- FENCE. -/
def execFence (d : Code) (s : State) : Host.Outcome State Fault Refusal := issue 4 (fenceM d) s

end Sys2Proof.Machine
end

