-- ==== Sys2Proof/Machine/Copy.lean ====
section
/-! DEFINITION. Sys2Proof/Machine/Copy.lean: the issue of copies: the reading of descriptors, the copy queue (R260, R261) and
copy batches (R267, R268); and the look-up of a handle operand at its future's home (R316, R318). -/

namespace Sys2Proof.Machine

/-! ### Handle operands (R262, R316, R318) -/

/-- The state and value of the future that a handle names: asked of its home by FQUERY where that is another core. -/
def futureState (h : Dword) : M (Nat × Dword) := do
  ensure (!hMalformed h) fcIllegalOperand
  let g ← getG
  let c ← getS (·.cur.core)
  if hHome h = c then getS (fun s => futState s (ctxidOf s g) h)
  else match g.query.find? (fun q => q.h == h) with
    | some { reply := some r, .. } => do
      modG (fun g => { g with query := g.query.map (fun q => if q.h = h then { q with used := true } else q) })
      pure r
    | _ => fun _ => .error (.query h)

/-- A handle that must name an entry: free or stale faults FUTURE_STALE. -/
def futureLive (h : Dword) : M (Nat × Dword) := do
  let r ← futureState h
  if r.1 = 2 then faultM { code := fcFutureStale, addr := h.toNat } else pure r

/-- The check of a handle field that may be 0. -/
def handleField (h : Dword) : M Unit :=
  if h = 0 then pure ()
  else do
    let _ ← futureLive h
    pure ()

/-! ### The queue and the batches -/

/-- Copies that the open and ended chunks of a core's groups still hold. -/
def heldCopies (k : Core) : List Copy :=
  k.groups.flatMap (fun e => (e.2.done ++ [e.2.open_]).flatMap (fun c =>
    c.effects.filterMap (fun x => match x with | .copy y => some y | _ => none)))

/-- Copies of a core's queue: issued by its groups and not ended. -/
def queuedCopies (s : State) (c : Nat) : List Copy :=
  heldCopies (coreAt s c) ++ ((s.copies.map (·.2)).filter (fun x => x.core == c && x.pkt.isNone && decide (x.st ≤ 2)))

/-- Copies of a thread that are not complete, by batch. -/
def openBatches (s : State) (uid lane : Nat) : List Nat :=
  (((queuedCopies s s.cur.core).filter (fun x => x.uid == uid && x.lane == lane)).map (·.batch)).dedup

/-- The number of the last batch that a thread has sealed. -/
def sealedOf (r : GRegs) (t : Nat) : Nat := sget 0 r.sealed t

/-- The copy that a thread's descriptor asks for. -/
def copyOf (s : State) (t : Nat) (ds : List Dword) : Copy :=
  let g := curGroup s
  { core := s.cur.core, slot := s.cur.slot, lane := t, batch := sealedOf g.r t + 1, uid := g.uid, desc := ds, st := 0
    count := if cpyDep ds = 0 then 0 else 1, pos := 0, die := dieOf s.cur.core, engine := 0, pasid := g.pasid, grid := g.grid
    pkt := none, fault := none, endOrder := 0, base := baseUid s s.cur.core g }

/-- A doubleword list from the 128 bytes read at a descriptor. -/
def readDescs (ex : List Nat) (ea : Nat → Dword) : M (List (Nat × List Dword)) := do
  let cs ← checkGlobal { n := 128, aligned := true } ex ea
  let v ← performReads cs
  pure (ex.map (fun t => (t, dwsOf (v t))))

/-- CPY, TCPY and CPYQ up to the queue: the descriptors, checked. `legal` is the check of a descriptor. -/
def copyDescs (p : Option Pfx) (a b : Code) (legal : List Dword → Bool) : M (List (Nat × List Dword)) := do
  let ex ← execLanes p
  let ea ← globalAddr a b ex
  let ds ← readDescs ex ea
  ds.forM (fun e => if legal e.2 then pure () else faultM { code := fcIllegalOperand, lane := e.1 })
  ds.forM (fun e => do
    handleField (cpyDone e.2)
    handleField (cpyDep e.2))
  pure ds

/-- The queue has room for `n` more copies. -/
def copyRoom (s : State) (n : Nat) : Bool := decide ((queuedCopies s s.cur.core).length + n ≤ 64)

/-- Queues the copies; they start when the chunk commits. -/
def queueCopies (ds : List (Nat × List Dword)) : M Unit :=
  ds.forM (fun e => do
    let x ← getS (fun s => copyOf s e.1 e.2)
    deferM (.copy x))

/-- CPY and TCPY. -/
def cpyM (p : Option Pfx) (a b : Code) (legal : List Dword → Bool) : M Unit := do
  checkOps [.pair a, .src b]
  let ds ← copyDescs p a b legal
  let room ← getS (fun s => copyRoom s ds.length)
  waitFor room
  queueCopies ds
  endAfter

/-- CPYQ: either kind; a full queue is answered, not waited for. -/
def cpyqM (p : Option Pfx) (d a b : Code) : M Unit := do
  checkOps [.dst d, .pair a, .src b]
  let ex ← execLanes p
  let zl ← zeroLanes p
  let ds ← copyDescs p a b (fun x => cpyLegal x || tcpyLegal x)
  let room ← getS (fun s => copyRoom s ds.length)
  if room then queueCopies ds else pure ()
  writeDst d ex zl (fun _ => if room then 0 else 1)
  endAfter

/-- CPSEAL: with sixteen sealed batches not complete, a thread waits for the oldest. -/
def cpsealM (d : Code) : M Unit := do
  checkOps [.dst d]
  let ex ← execLanes none
  let g ← getG
  let ok ← getS (fun s => ex.all (fun t =>
    decide (((openBatches s g.uid t).filter (fun n => decide (n ≤ sealedOf g.r t))).length < 16)))
  waitFor ok
  modR (fun r => { r with sealed := ssetAll 0 r.sealed (ex.map (fun t => (t, sealedOf r t + 1))) })
  writeDst d ex [] (fun t => BitVec.ofNat 32 (sealedOf g.r t + 1))

/-- The copy of a thread's batches up to `m` that ended with a fault first (R268). -/
def copyFault (s : State) (uid lane m : Nat) : Option (Nat × Copy) :=
  let fs := s.copies.filter (fun e => e.2.uid == uid && e.2.lane == lane && decide (e.2.batch ≤ m) && e.2.pkt.isNone && e.2.st == 4)
  fs.find? (fun e => fs.all (fun f => decide (e.2.endOrder ≤ f.2.endOrder)))

/-- Threads have waited for their batches up to a number: they see what those have landed in scratch (R228). -/
def seeFresh (s : State) (uid : Nat) (ls : List Nat) (m : Nat → Nat) : State :=
  let see := fun (f : Fresh) => if f.uid = uid ∧ f.lane ∈ ls ∧ f.batch ≤ m f.lane then { f with seen := true } else f
  let one := fun (e : Nat × List Fresh) => (e.1, e.2.map see)
  { s with cores := s.cores.map (fun (c : Nat × Core) => if c.2.fresh.isEmpty then c else (c.1, { c.2 with fresh := c.2.fresh.map one })) }

/-- CPWAIT: each executing thread waits for its own batches, and the active set goes on together once all are complete (R146); a fault among
them faults the instruction. -/
def cpwaitM (a : Code) : M Unit := do
  checkOps [.src a]
  let ex ← execLanes none
  let m ← readSrc a ex
  let g ← getG
  ex.forM (fun t => if sealedOf g.r t < (m t).toNat then faultM { code := fcIllegalOperand, lane := t } else pure ())
  let busy ← getS (fun s => ex.any (fun t => (openBatches s g.uid t).any (fun n => decide (n ≤ (m t).toNat))))
  waitFor (!busy)
  let bad ← getS (fun s => ex.findSome? (fun t => (copyFault s g.uid t (m t).toNat).map (fun x => (t, x.2))))
  match bad with
  | some (t, x) =>
    faultM { code := fcCopyFault, cause := (x.fault.map (·.cause)).getD 0, lane := t, addr := (x.fault.map (·.addr)).getD 0
             ivec := vecOf (copyCounts x.desc) x.pos }
  | none => modS (fun s => seeFresh s g.uid ex (fun t => (m t).toNat))

/-! ### Meanings -/

/-- CPSEAL. -/
def execCpseal (d : Code) (s : State) : Host.Outcome State Fault Refusal := issue 4 (cpsealM d) s

/-- CPWAIT. -/
def execCpwait (a : Code) (s : State) : Host.Outcome State Fault Refusal := issue 4 (cpwaitM a) s

/-- CPY. -/
def execCpy (p : Option Pfx) (a b : Code) (s : State) : Host.Outcome State Fault Refusal := issueP p (cpyM p a b cpyLegal) s

/-- TCPY. -/
def execTcpy (p : Option Pfx) (a b : Code) (s : State) : Host.Outcome State Fault Refusal := issueP p (cpyM p a b tcpyLegal) s

/-- CPYQ. -/
def execCpyq (p : Option Pfx) (d a b : Code) (s : State) : Host.Outcome State Fault Refusal := issueP p (cpyqM p d a b) s

end Sys2Proof.Machine
end

