-- ==== Sys2Proof/Machine/Streams.lean ====
section
/-! DEFINITION. Sys2Proof/Machine/Streams.lean: the binding of operand streams (R329 to R332) and of channels (R328). -/

namespace Sys2Proof.Machine

/-- A stream port q0–q3 named by a d field: its number. -/
def streamPort (d : Code) : M Nat := do
  ensure (decide (112 ≤ d.toNat) && decide (d.toNat ≤ 115)) fcIllegalOperand
  pure (d.toNat - 112)

/-- A channel port q4 or q5: its number. -/
def chanPort (d : Code) : M Nat := do
  ensure (decide (d.toNat = 116) || decide (d.toNat = 117)) fcIllegalOperand
  pure (d.toNat - 112)

/-- A stream descriptor keeps every rule of R329. -/
def streamLegal (ds : List Dword) : Bool :=
  let w := clDw ds 1
  let nd := bitsOf w 6 5
  decide (bitsOf w 63 7 = 0) && decide (bitsOf w 1 0 ≤ 2) && !(decide (bitsOf w 1 0 = 2) && w.getLsbD 2)
    && decide (bitsOf (clDw ds 2) 63 32 = 0)
    && (List.range 4).all (fun k => if k ≤ nd then decide (loWord (clDw ds (3 + k)) ≠ 0) else decide (clDw ds (3 + k) = 0))
    && (List.range 9).all (fun i => decide (clDw ds (7 + i) = 0))

/-- The stream of a descriptor, at position zero. -/
def streamOf (ds : List Dword) : Stream :=
  let w := clDw ds 1
  { base := clDw ds 0, esz := bitsOf w 1 0, sgn := w.getLsbD 2, scr := w.getLsbD 3, store := w.getLsbD 4, nd := bitsOf w 6 5
    lstr := loWord (clDw ds 2), cnt := (List.range 4).map (fun k => loWord (clDw ds (3 + k)))
    str := (List.range 4).map (fun k => hiWord (clDw ds (3 + k))), pos := [0, 0, 0, 0] }

/-- Stream contexts in use on a core: 128 exist (R299). -/
def streamsUsed (k : Core) : Nat := k.groups.foldl (fun n e => n + e.2.r.streams.length) 0

/-- STRBIND. -/
def strbindM (d a b : Code) : M Unit := do
  let port ← streamPort d
  checkOps [.pair a, .src b]
  let ex ← execLanes none
  let ea ← globalAddr a b ex
  match ex with
  | [] => pure ()
  | t :: _ => do
    let cs ← checkGlobal { n := 128, aligned := true } [t] ea
    let v ← performReads cs
    let ds := dwsOf (v t)
    ensure (streamLegal ds) fcIllegalOperand
    let k ← getCore
    let g ← getG
    waitFor ((aget g.r.streams port).isSome || decide (streamsUsed k < 128))
    modR (fun r => { r with streams := aset r.streams port (streamOf ds), eod := setEod r.eod port 0 })
    modS (fun s => send s s.cur.core s.cur.core (.streamRunahead s.cur.core s.cur.slot port))

/-- STRUNB. -/
def strunbM (d : Code) : M Unit := do
  let port ← streamPort d
  modR (fun r => if (aget r.streams port).isNone then r
    else { r with streams := adel r.streams port, eod := setEod r.eod port 0 })

/-- STRSKIP. -/
def strskipM (d a : Code) : M Unit := do
  let port ← streamPort d
  checkOps [.src a]
  let ex ← execLanes none
  let n ← readSrc a ex
  let g ← getG
  match aget g.r.streams port with
  | none => faultM { code := fcStreamUnbound, lane := ex.headD 0 }
  | some x => modR (fun r => advancePort r port (lowest ex n).toNat x)

/-- A channel id of the lowest executing thread, declared by the grid. -/
def chanId (a : Code) : M Nat := do
  let ex ← execLanes none
  let x ← readSrc a ex
  let ch := (lowest ex x).toNat
  let ok ← getS (fun s => (chanDecl s s.cur.core ch).isSome)
  ensure ok fcIllegalOperand
  pure ch

/-- CHBIND. -/
def chbindM (d a : Code) : M Unit := do
  let port ← chanPort d
  checkOps [.src a]
  let ch ← chanId a
  modR (fun r => { r with chans := aset r.chans port ch })

/-- CHUNB. -/
def chunbM (d : Code) : M Unit := do
  let port ← chanPort d
  modR (fun r => { r with chans := adel r.chans port })

/-- The status of a channel (R328). -/
def chanStatus (s : State) (ch : Nat) : Word :=
  let c := s.cur.core
  let r := (curGroup s).r
  let slots := ((chanDecl s c ch).map (·.slots)).getD 0
  let cred := match chanTarget s c ch with
    | none => 0
    | some t => slots - (chanAt s t ch).credits
  BitVec.ofNat 32 ((chanAt s c ch).buf.length + 2 ^ 7 * cred + 2 ^ 14 * (decide (aget r.chans 4 = some ch)).toNat
    + 2 ^ 15 * (decide (aget r.chans 5 = some ch)).toNat + 2 ^ 16 * slots)

/-- CHSTAT. -/
def chstatM (d a : Code) : M Unit := do
  checkOps [.dst d, .src a]
  let ch ← chanId a
  let ex ← execLanes none
  let v ← getS (fun s => chanStatus s ch)
  writeDst d ex [] (fun _ => v)

/-! ### Meanings -/

/-- STRBIND. -/
def execStrbind (d a b : Code) (s : State) : Host.Outcome State Fault Refusal := issue 4 (strbindM d a b) s

/-- STRUNB. -/
def execStrunb (d : Code) (s : State) : Host.Outcome State Fault Refusal := issue 4 (strunbM d) s

/-- STRSKIP. -/
def execStrskip (d a : Code) (s : State) : Host.Outcome State Fault Refusal := issue 4 (strskipM d a) s

/-- CHBIND. -/
def execChbind (d a : Code) (s : State) : Host.Outcome State Fault Refusal := issue 4 (chbindM d a) s

/-- CHUNB. -/
def execChunb (d : Code) (s : State) : Host.Outcome State Fault Refusal := issue 4 (chunbM d) s

/-- CHSTAT. -/
def execChstat (d a : Code) (s : State) : Host.Outcome State Fault Refusal := issue 4 (chstatM d a) s

end Sys2Proof.Machine
end

