-- ==== Sys2Proof/Machine/TaskOps.lean ====
section
/-! DEFINITION. Sys2Proof/Machine/TaskOps.lean: the task instructions (R316 to R324). -/

namespace Sys2Proof.Machine

/-- The threads' program counters return to the instruction, so that what follows the chunk decides where they go on. -/
def stayAt (ls : List Nat) : M Unit := do
  let pc ← getS (·.cur.pc)
  modR (fun r => setPcs r (ls.map (·, pc)))

/-- The pair operand of the lowest executing thread. -/
def lowPair (a : Code) : M Dword := do
  let ex ← execLanes none
  let x ← readPair a
  pure (lowest ex x)

/-- A handle operand: 0 and malformed ones are refused (R316). -/
def handleOp (a : Code) : M Dword := do
  let h ← lowPair a
  ensure (h != 0 && !hMalformed h) fcIllegalOperand
  pure h

/-- An inline call: the chunk ends at the instruction, whose threads wait there (R158, R317, R318). -/
def callInline (ca : Dword) (cl : List Dword) (d : Code) (joinH : Option Dword) (deps : List Dword) : M Unit := do
  let ex ← execLanes none
  let g ← getG
  let pc ← getS (·.cur.pc)
  let info : CallInfo := { gi := g.gi, pc := pc, lanes := ex, d := d, joinH := joinH }
  deferM (.inlineCall { info := info, ca := ca, cl := cl, deps := 2 ^ deps.dedup.length - 1, tag := 0 } deps)
  modR (fun r => setThr r ex .call)
  stayAt ex
  endAfter

/-- The shape of the grid of the core, as its base-2 logarithm. -/
def gridShape : M Nat := getS (fun s => ((coreGrid s s.cur.core).map (fun x => Nat.log2 x.2.team)).getD 0)

/-- A KIND 2 closure may be spawned now (R317). -/
def contOk (cl : List Dword) : M Bool := do
  let t ← getTeam
  let live ← getS (fun s => (teamSlots s s.cur.core (curGroup s).team).any (fun i => match groupAt s s.cur.core i with
    | none => false
    | some g => (g.done ++ [g.open_]).any (·.kind2)))
  pure (match t.tasks with
    | x :: _ => x.own != 0 && clDw cl 1 == x.own && !x.cont && !live
    | [] => false)

/-- Reads the closure line that SPAWN and SPAWNR name, and checks it. -/
def readSpawn (a : Code) (range : Bool) : M (Dword × List Dword) := do
  let ex ← execLanes none
  let ca ← lowPair a
  if ca.toNat % 128 ≠ 0 then faultM { code := fcMisaligned, lane := ex.headD 0, addr := ca.toNat }
  else do
    let v ← loadOne 128 (ex.headD 0) ca
    let cl := dwsOf v
    let shape ← gridShape
    ensure (!clMalformed cl shape range) fcIllegalOperand
    let ok ← contOk cl
    ensure (clKind cl != 2 || ok) fcIllegalOperand
    pure (ca, cl)

/-- The new task enters the pool, or the deque, or runs inline where they are full (R306, R308, R317). -/
def enterTask (ca : Dword) (cl : List Dword) (d : Code) : M Unit := do
  let k ← getCore
  let ex ← execLanes none
  let deps := clDeps cl
  if deps.isEmpty then
    if spawnRoom k then do
      modC (fun k => { k with dqResv := k.dqResv + 1 })
      deferM (.push (entryOf ca cl))
      writePair d ex [] (fun _ => clDw cl 1)
    else callInline ca cl d none []
  else if k.pool.length + k.poolResv < 2048 then do
    modC (fun k => { k with poolResv := k.poolResv + 1 })
    deferM (.node (entryOf ca cl) deps)
    writePair d ex [] (fun _ => clDw cl 1)
  else callInline ca cl d none deps

/-- SPAWN. -/
def spawnM (d a : Code) : M Unit := do
  checkOps [.pair d, .pair a]
  let (ca, cl) ← readSpawn a false
  if clKind cl = 2 then do
    modK (fun k => { k with kind2 := true })
    deferM .contFlag
  else pure ()
  enterTask ca cl d

/-- SPAWNR: an empty range resolves its future and nothing runs (R333). -/
def spawnrM (d a : Code) : M Unit := do
  checkOps [.pair d, .pair a]
  let ex ← execLanes none
  let (ca, cl) ← readSpawn a true
  let n := (clHi cl).toNat - (clLo cl).toNat
  deferM (.rangeInit (clDw cl 1) n)
  if n = 0 then writePair d ex [] (fun _ => clDw cl 1) else enterTask ca cl d

/-- The newest unclaimed entry of the own deque that a JOIN on `h` may claim, and its place (R318). -/
def claimable (k : Core) (h : Dword) : Option (DqEntry × Nat) :=
  (k.deque.zipIdx.reverse).find? (fun x => !x.1.clm && decide (x.1.kind ≠ 1) && decide (x.1.result = h))

/-- JOIN on a future that is open: the entry is claimed and runs inline, or the threads park (R318). -/
def joinOpen (d : Code) (h : Dword) : M Unit := do
  let ex ← execLanes none
  let k ← getCore
  match claimable k h with
  | some (e, i) => do
    let busy ← getS (fun s => dqBusy s s.cur.core 4)
    waitFor (!busy)
    let ca := caOf e.cline
    let v ← loadOne 128 (ex.headD 0) ca
    modS (fun s => dqDone s s.cur.core 4)
    modC (fun k => { k with deque := k.deque.set i { e with clm := true } })
    callInline ca (overrideCl e (dwsOf v)) d (some h) []
  | none => do
    deferM (.park h)
    modR (fun r => setThr r ex (.join h d))
    stayAt ex
    modG (fun g => { g with irr := false })
    endAfter

/-- JOIN: a WAKE that came while the threads were not parked answers it. -/
def joinM (d a : Code) : M Unit := do
  checkOps [.pair d, .pair a]
  let ex ← execLanes none
  let h ← handleOp a
  let g ← getG
  match g.wakes.find? (fun w => w.1 == h) with
  | some (_, stale, v) =>
    if stale then faultM { code := fcFutureStale, addr := h.toNat }
    else do
      deferM (.ffree h)
      writePair d ex [] (fun _ => v)
  | none => do
    let (st, v) ← futureLive h
    if st = 1 then do
      deferM (.ffree h)
      writePair d ex [] (fun _ => v)
    else joinOpen d h

/-- FNEW: the entry is the model's choice (log 115). -/
def fnewM (d : Code) : M Unit := do
  checkOps [.pair d]
  let ex ← execLanes none
  let k ← getCore
  match freeFutIdx k with
  | none => writePair d ex [] (fun _ => 0)
  | some i => do
    let g ← getG
    let ctx ← getS (fun s => ctxidOf s g)
    let c ← getS (·.cur.core)
    let f := futOf k i
    modC (fun k => { k with futs := aset k.futs i { f with st := 1, ctx := ctx, value := 0, rng := false, items := 0, total := 0, waiters := [] } })
    deferM (.fnew i)
    writePair d ex [] (fun _ => handleOf i c f.gen)

/-- FRES. -/
def fresM (a b : Code) : M Unit := do
  checkOps [.pair a, .pair b]
  let h ← handleOp a
  let v ← lowPair b
  deferM (.resolve h v)

/-- FPOLL. -/
def fpollM (d a : Code) : M Unit := do
  checkOps [.dst d, .pair a]
  let ex ← execLanes none
  let h ← handleOp a
  let (st, _) ← futureState h
  writeDst d ex [] (fun _ => BitVec.ofNat 32 st)

/-- TEND: every thread of the group ends. -/
def tendM (a : Code) : M Unit := do
  checkOps [.pair a]
  let v ← lowPair a
  let g ← getG
  leaveItems (liveLanes g)
  modR (fun r => setThr r allLanes .exited)
  deferM (.groupEnd (some v))
  modG (fun g => { g with irr := false })
  endAfter

/-- Takes items for threads in order: each its item, and what NEXT becomes. -/
def takeItems (hi : Nat) : List Nat → Nat → List (Nat × Nat) × Nat
  | [], next => ([], next)
  | t :: r, next =>
    if next < hi then
      let (l, n) := takeItems hi r (next + 1)
      ((t, next) :: l, n)
    else ([], next)

/-- ITEMNEXT within a piece: its cursor is a line of the chunk (R312). -/
def itemsFrom (i : BitVec 14) (piece : Nat) (ex : List Nat) : M Unit := do
  let c ← getS (·.cur)
  let base := 128 * cursorLine c.core piece
  let at_ := fun (o : Nat) => (List.range 4).map (base + o + ·)
  enterReads (at_ 0 ++ at_ 4)
  let (next, hi) ← getS (fun s => (natOfBytes (viewBytes s (curGroup s) (at_ 0)), natOfBytes (viewBytes s (curGroup s) (at_ 4))))
  let (got, next') := takeItems hi ex next
  writeLocs ((at_ 0).map .glob |>.zip (bytesOf 4 next'))
  let out := ex.filter (fun t => !(got.any (fun e => e.1 == t)))
  modR (fun r => setPcs { r with it := ssetAll 0xFFFFFFFF r.it (got.map (fun e => (e.1, BitVec.ofNat 32 e.2)) ++ out.map (·, 0xFFFFFFFF)) }
    (out.map (·, c.pc + 4 * i.signExtend 57)))

/-- ITEMNEXT (R323). -/
def itemnextM (i : BitVec 14) : M Unit := do
  let ex ← execLanes none
  let t ← getTeam
  leaveItems ex
  match (t.tasks.head?).bind (·.piece) with
  | some p => itemsFrom i p ex
  | none => do
    let pc ← getS (·.cur.pc)
    modR (fun r => setPcs { r with it := ssetAll 0xFFFFFFFF r.it (ex.map (·, 0xFFFFFFFF)) } (ex.map (·, pc + 4 * i.signExtend 57)))

/-- TYIELD: a window of its own issue clk and the 64 issue clk that follow (R29, R324). -/
def tyieldM : M Unit := modG (fun g => { g with yieldLeft := 65 })

/-! ### Meanings -/

/-- SPAWN. -/
def execSpawn (d a : Code) (s : State) : Host.Outcome State Fault Refusal := issue 4 (spawnM d a) s

/-- SPAWNR. -/
def execSpawnr (d a : Code) (s : State) : Host.Outcome State Fault Refusal := issue 4 (spawnrM d a) s

/-- JOIN. -/
def execJoin (d a : Code) (s : State) : Host.Outcome State Fault Refusal := issue 4 (joinM d a) s

/-- FNEW. -/
def execFnew (d : Code) (s : State) : Host.Outcome State Fault Refusal := issue 4 (fnewM d) s

/-- FRES. -/
def execFres (a b : Code) (s : State) : Host.Outcome State Fault Refusal := issue 4 (fresM a b) s

/-- FPOLL. -/
def execFpoll (d a : Code) (s : State) : Host.Outcome State Fault Refusal := issue 4 (fpollM d a) s

/-- TEND. -/
def execTend (a : Code) (s : State) : Host.Outcome State Fault Refusal := issue 4 (tendM a) s

/-- ITEMNEXT. -/
def execItemnext (i : BitVec 14) (s : State) : Host.Outcome State Fault Refusal := issue 4 (itemnextM i) s

/-- TYIELD. -/
def execTyield (s : State) : Host.Outcome State Fault Refusal := issue 4 tyieldM s

end Sys2Proof.Machine
end

