-- ==== Sys2Proof/Machine/Comm.lean ====
section
/-! DEFINITION. Sys2Proof/Machine/Comm.lean: barriers (R408 to R413), multicast and reduction groups (R416 to R419) and the counter
instructions (R396, R398, R403, R404). -/

namespace Sys2Proof.Machine

/-! ### Barriers (R409, R410, R413) -/

/-- The fields of a selector, and whether an instruction takes it: BAR and BARARV any named or cluster barrier, BARWT without an
operation. -/
def selId (b : Code) : Nat := b.toNat % 32
def selOp (b : Code) : BitVec 2 := b.extractLsb' 5 2

/-- The partial that the executing threads form (R410). -/
def partialOf (op : BitVec 2) (ex : List Nat) (x : Nat → Word) : Word :=
  if op = 0 then ex.foldl (fun m t => m &&& x t) 0xFFFFFFFF
  else if op = 1 then ex.foldl (fun m t => m ||| x t) 0
  else if op = 2 then ex.foldl (fun m t => m + x t) 0
  else BitVec.ofNat 32 ((ex.filter (fun t => decide (x t ≠ 0))).length)

/-- An arrival of the group at barrier `i` awaits its chunk's commit. -/
def arrivalHeld (g : Group) (i : Nat) : Bool :=
  (g.done ++ [g.open_]).any (fun k => k.effects.any (fun e => match e with
    | .arrive b _ => barId b == i
    | _ => false))

/-- The executing threads block on barrier `i`, at the instruction's address. -/
def blockOn (i : Nat) (d : Code) : M Unit := do
  let ex ← execLanes none
  modR (fun r => setThr r ex (.bar i d))
  stayAt ex
  let now ← getS (·.clk)
  modG (fun g => { g with barSince := some (g.barSince.getD now) })

/-- A barrier instruction is the last of its chunk and ends irrevocable mode (R163, R215). -/
def barEnd : M Unit := do
  modG (fun g => { g with irr := false })
  endAfter

/-- Sends an arrival at commit: refused at issue with a count of 0, and at the gang barrier of a grid that is no gang (R411). -/
def arriveAt (i : Nat) (op : BitVec 2) (a : Code) : M Unit := do
  let ex ← execLanes none
  let x ← readSrc a ex
  let c ← getS (·.cur)
  let n ← getS (fun s => acntOf s c.core c.slot i)
  let b ← getS (fun s => barOf s c.core c.slot i)
  let g ← getG
  let gang ← getS (fun s => ((g.grid.bind (gridAt s)).map (·.gang)).getD false)
  ensure (n != 0 && (i != 17 || gang)) fcIllegalOperand
  deferM (.arrive b { core := c.core, slot := c.slot, count := n.toNat, op := op, part := partialOf op ex x, addr := c.pc })

/-- A record of barrier `i` that BAR, GBAR or BARWT wait on: a released one whose result goes to a port is written there at once; else
the threads block and go on when their chunk has committed and the release has come. -/
def waitRecord (i : Nat) (d : Code) (rc : BarRec) : M Unit := do
  let ex ← execLanes none
  match rc.res with
  | some v =>
    if 112 ≤ d.toNat ∧ d.toNat ≤ 117 then do
      writeDst d ex [] (fun _ => v)
      deferM (.barUsed i)
    else do
      blockOn i d
      deferM (.barPoll i)
  | none => do
    blockOn i d
    deferM (.barPoll i)
  barEnd

/-- BAR and GBAR on barrier `i` (R413). -/
def barM (i : Nat) (op : BitVec 2) (d a : Code) : M Unit := do
  checkOps [.dst d, .src a]
  let g ← getG
  let pc ← getS (·.cur.pc)
  match aget g.recs i with
  | some rc =>
    if rc.addr = pc then waitRecord i d rc
    else if rc.acked then failM fcIllegalOperand
    else stallM
  | none => do
    waitFor (!arrivalHeld g i)
    arriveAt i op a
    blockOn i d
    barEnd

/-- BARARV: the threads wait for the answer, and continue after the instruction. -/
def bararvM (i : Nat) (op : BitVec 2) (a : Code) : M Unit := do
  checkOps [.src a]
  let g ← getG
  match aget g.recs i with
  | some rc => if rc.acked then failM fcIllegalOperand else stallM
  | none => do
    waitFor (!arrivalHeld g i)
    arriveAt i op a
    let ex ← execLanes none
    modR (fun r => setThr r ex (.barAck i))
    barEnd

/-- BARWT. -/
def barwtM (i : Nat) (d : Code) : M Unit := do
  checkOps [.dst d]
  let g ← getG
  match aget g.recs i with
  | some rc => waitRecord i d rc
  | none => if arrivalHeld g i then stallM else failM fcIllegalOperand

/-! ### Multicast and reduction groups (R417 to R419) -/

/-- The bytes of a group id's state. -/
def idBytes (s : State) (gid : Nat) : List Nat :=
  (List.range 4).map (128 * mcstLine (coreAt s s.cur.core).cluster gid + ·)

/-- Reads a group id's state in the chunk. -/
def readId (gid : Nat) : M Word := do
  let pas ← getS (fun s => idBytes s gid)
  enterReads pas
  getS (fun s => BitVec.ofNat 32 (natOfBytes (viewBytes s (curGroup s) pas)))

/-- Writes a group id's state in the chunk. -/
def writeId (gid : Nat) (w : Word) : M Unit := do
  let pas ← getS (fun s => idBytes s gid)
  writeLocs ((pas.map .glob).zip (bytesOf 4 w.toNat))

/-- The word operand of the lowest executing thread. -/
def lowWord (a : Code) : M Word := do
  let ex ← execLanes none
  let x ← readSrc a ex
  pure (lowest ex x)

/-- Members of the core's cluster. -/
def clusterSize : M Nat :=
  getS (fun s => ((aget s.clusters (coreAt s s.cur.core).cluster).map (·.members.length)).getD 0)

/-- GRPOPEN. -/
def grpopenM (a : Code) : M Unit := do
  checkOps [.src a]
  let w ← lowWord a
  let gid := (w.extractLsb' 0 4).toNat
  let kind := (w.extractLsb' 4 2).toNat
  let rop : BitVec 2 := w.extractLsb' 6 2
  let mem : BitVec 12 := w.extractLsb' 8 12
  let n ← clusterSize
  ensure (decide (w.toNat / 2 ^ 20 = 0) && decide (kind ≤ 1) && (kind == 1 || rop == 0) && mem != 0 && decide (mem.toNat < 2 ^ n)) fcIllegalOperand
  let old ← readId gid
  ensure (!mcstOpen old) fcIllegalOperand
  let out ← getS (fun s => ((aget s.clusters (coreAt s s.cur.core).cluster).map (fun k => sget 0 k.flight gid)).getD 0)
  if out ≠ 0 then fun _ => .error .grpOpen
  else do
    writeId gid (mcstWord kind rop mem)
    modG (fun g => { g with grpWait := none })

/-- GRPCLOSE. -/
def grpcloseM (a : Code) : M Unit := do
  checkOps [.src a]
  let x ← lowWord a
  ensure (decide (x.toNat < 16)) fcIllegalOperand
  let old ← readId x.toNat
  ensure (mcstOpen old) fcIllegalOperand
  writeId x.toNat 0

/-- MCST. -/
def mcstM (a b : Code) : M Unit := do
  checkOps [.src a, .src b]
  let ex ← execLanes none
  let x ← lowWord a
  let y ← lowWord b
  ensure (decide (x.toNat < 16)) fcIllegalOperand
  let w ← readId x.toNat
  let k ← getCore
  ensure (mcstOpen w && (mcstMem w).getLsbD k.cidx) fcIllegalOperand
  let off := y.toNat % 2 ^ 28
  let i := y.toNat / 2 ^ 28
  if off % 128 ≠ 0 then faultM { code := fcMisaligned, lane := ex.headD 0, addr := y.toNat }
  else if (i ≠ 15 ∧ i ≠ k.cidx) ∨ k.psize * 32768 < off + 128 ∨ (stashGlobal k (off / 128)).isSome then
    faultM { code := fcScratchRange, lane := ex.headD 0, addr := y.toNat }
  else do
    let c ← getS (·.cur.core)
    let g ← getG
    deferM (.mcst x.toNat off w ((List.range 128).map (fun i => sget none g.open_.ws (scrKey c (off + i)))))

/-! ### Counters (R396, R398, R403, R404) -/

/-- PEND: bit i is set while the group holds an arrival record for barrier i. -/
def pendWord (g : Group) : Nat := (g.recs.filter (·.2.acked)).foldl (fun n e => n + 2 ^ e.1) 0

/-- A group counter as the group's earlier instructions leave it. -/
def groupCtr (s : State) (idx : Nat) : Nat :=
  let g := curGroup s
  if idx ≤ 17 then (acntOf s s.cur.core s.cur.slot idx).toNat
  else if idx = 18 then g.r.pfb.toNat
  else pendWord g

/-- A counter's 64 bits. -/
def counterValue (s : State) (n : Word) : Nat :=
  let cls := cnClass n
  if cls = 0 then groupCtr s (cnIndex n)
  else if cls = 6 then (((curGroup s).grid.bind (gridAt s)).map (·.glive.toNat)).getD 0
  else (ctrNow s cls (cnUnit n) (cnIndex n)).toNat

/-- The number names a counter (R395). -/
def counterNamed (n : Word) : Bool := decide (n.toNat / 2 ^ 26 = 0) && ctrNamed (cnClass n) (cnUnit n) (cnIndex n)

/-- What R396 lets a group outside F-mode read, and write. -/
def counterReads (core : Nat) (n : Word) : Bool :=
  cnClass n == 0 || cnClass n == 6 || (cnClass n == 1 && cnUnit n == core)
def counterWrites (n : Word) : Bool := cnClass n == 0

/-- CTRRD. -/
def ctrrdM (d a : Code) : M Unit := do
  checkOps [.dst d, .src a]
  let ex ← execLanes none
  let n ← lowWord a
  let g ← getG
  let c ← getS (·.cur.core)
  ensure (counterNamed n) fcIllegalOperand
  ensure (g.fmode || counterReads c n) fcPrivileged
  let v ← getS (fun s => counterValue s n)
  writeDst d ex [] (fun _ => BitVec.ofNat 32 (if cnHalf n then v / 2 ^ 32 else v))

/-- The value is within the limits of a group counter (R398). -/
def groupCtrOk (s : State) (idx v : Nat) : Bool :=
  let g := curGroup s
  let n := (teamAt s s.cur.core g.team).size
  let wh := ((g.grid.bind (gridAt s)).map (fun x => x.w * x.h)).getD 1
  if idx ≤ 15 then decide (1 ≤ v) && decide (v ≤ n)
  else if idx = 16 then decide (1 ≤ v) && decide (v ≤ 64 * wh)
  else if idx = 17 then decide (v ≤ 16384)
  else if idx = 18 then decide (v ≤ 17)
  else true

/-- Sets a group counter; PEND is read-only. -/
def setGroupCtr (idx v : Nat) (r : GRegs) : GRegs :=
  if idx ≤ 17 then { r with acnt := aset r.acnt idx (BitVec.ofNat 15 v) }
  else if idx = 18 then { r with pfb := BitVec.ofNat 5 v } else r

/-- Writes a half of a LIMIT counter; RCKLIM holds at least 4,096 (R407). -/
def setLimit (s : State) (n : Word) (v : Word) : State :=
  let cls := cnClass n
  let idx := cnIndex n
  let k := ctrKey cls (cnUnit n) idx
  let new := setField (ctrGet s k).toNat (if cnHalf n then 63 else 31) (if cnHalf n then 32 else 0) v.toNat
  ctrPut s k (BitVec.ofNat 64 (if cls = 3 ∧ idx = 33 then max 4096 new else new))

/-- CTRSET. -/
def ctrsetM (a b : Code) : M Unit := do
  checkOps [.src a, .src b]
  let n ← lowWord a
  let v ← lowWord b
  let g ← getG
  ensure (counterNamed n) fcIllegalOperand
  ensure (g.fmode || counterWrites n) fcPrivileged
  if cnClass n = 0 then
    if cnHalf n then pure ()
    else do
      let ok ← getS (fun s => groupCtrOk s (cnIndex n) v.toNat)
      ensure ok fcIllegalOperand
      modR (setGroupCtr (cnIndex n) v.toNat)
  else do
    modS (fun s => if ctrIsLimit (cnClass n) (cnIndex n) then setLimit s n v else s)
    guardM
    endAfter

/-! ### Meanings -/

/-- BAR. -/
def execBar (d a b : Code) (s : State) : Host.Outcome State Fault Refusal :=
  issue 4 (do
    ensure (decide (selId b ≤ 16)) fcIllegalOperand
    barM (selId b) (selOp b) d a) s

/-- BARARV. -/
def execBararv (a b : Code) (s : State) : Host.Outcome State Fault Refusal :=
  issue 4 (do
    ensure (decide (selId b ≤ 16)) fcIllegalOperand
    bararvM (selId b) (selOp b) a) s

/-- BARWT. -/
def execBarwt (d b : Code) (s : State) : Host.Outcome State Fault Refusal :=
  issue 4 (do
    ensure (decide (selId b ≤ 16) && selOp b == 0) fcIllegalOperand
    barwtM (selId b) d) s

/-- GBAR. -/
def execGbar (d a b : Code) (s : State) : Host.Outcome State Fault Refusal :=
  issue 4 (do
    ensure (decide (selId b = 0)) fcIllegalOperand
    barM 17 (selOp b) d a) s

/-- GRPOPEN. -/
def execGrpopen (a : Code) (s : State) : Host.Outcome State Fault Refusal := issue 4 (grpopenM a) s

/-- GRPCLOSE. -/
def execGrpclose (a : Code) (s : State) : Host.Outcome State Fault Refusal := issue 4 (grpcloseM a) s

/-- MCST. -/
def execMcst (a b : Code) (s : State) : Host.Outcome State Fault Refusal := issue 4 (mcstM a b) s

/-- CTRRD. -/
def execCtrrd (d a : Code) (s : State) : Host.Outcome State Fault Refusal := issue 4 (ctrrdM d a) s

/-- CTRSET. -/
def execCtrset (a b : Code) (s : State) : Host.Outcome State Fault Refusal := issue 4 (ctrsetM a b) s

end Sys2Proof.Machine
end

