-- ==== Sys2Proof/Machine/Numbers.lean ====
section
/-! DEFINITION. Sys2Proof/Machine/Numbers.lean: floating-point formats, special values, rounding and conversions (R45 to R57), and the
correctly rounded functions (R58): exact dyadic arithmetic with one rounding; a transcendental function is enclosed in a fixed-point
interval whose two ends must round alike (log 11). -/

namespace Sys2Proof.Machine

/-! ### Formats (R45) -/

/-- A floating-point format: exponent and fraction widths, bias, and whether it is e4m3, which has no infinity. -/
structure Fmt where
  eb : Nat
  mb : Nat
  bias : Nat
  e4 : Bool
  deriving DecidableEq, Repr

def f32 : Fmt := { eb := 8, mb := 23, bias := 127, e4 := false }
def bf16 : Fmt := { eb := 8, mb := 7, bias := 127, e4 := false }
def f16 : Fmt := { eb := 5, mb := 10, bias := 15, e4 := false }
def e4m3 : Fmt := { eb := 4, mb := 3, bias := 7, e4 := true }
def e5m2 : Fmt := { eb := 5, mb := 2, bias := 15, e4 := false }

/-- The sign bit's weight. -/
def Fmt.sign (f : Fmt) : Nat := 2 ^ (f.eb + f.mb)

/-- The encoding of infinity, which e4m3 lacks. -/
def Fmt.inf (f : Fmt) : Nat := (2 ^ f.eb - 1) * 2 ^ f.mb

/-- The largest finite encoding. -/
def Fmt.maxFin (f : Fmt) : Nat := if f.e4 then 0x7E else f.inf - 1

/-- The canonical NaN. -/
def Fmt.nan (f : Fmt) : Nat := if f.e4 then 0x7F else f.inf + 2 ^ (f.mb - 1)

/-- The encoding of 1.0. -/
def Fmt.one (f : Fmt) : Nat := f.bias * 2 ^ f.mb

/-- A value: NaN, an infinity, or (−1)^neg × m × 2^e. -/
inductive FVal where
  | nan
  | inf (neg : Bool)
  | fin (neg : Bool) (m : Nat) (e : Int)
  deriving DecidableEq, Repr

/-- The value of an encoding. -/
def Fmt.val (f : Fmt) (bits : Nat) : FVal :=
  let b := bits % (2 * f.sign)
  let neg := decide (f.sign ≤ b)
  let mag := b % f.sign
  let e := mag / 2 ^ f.mb
  let m := mag % 2 ^ f.mb
  if f.e4 && mag == 0x7F then .nan
  else if !f.e4 && e == 2 ^ f.eb - 1 then (if m = 0 then .inf neg else .nan)
  else if e = 0 then .fin neg m (1 - (f.bias : Int) - f.mb)
  else .fin neg (2 ^ f.mb + m) ((e : Int) - f.bias - f.mb)

/-! ### Rounding (R49, R51 to R53) -/

/-- Whether a magnitude n + r / 2^s is rounded away from n; `half` compares r with one half: 0 below, 1 equal, 2 above. -/
def roundUp (mode : Nat) (neg inexact : Bool) (half : Nat) (odd : Bool) : Bool :=
  if mode = 0 then half == 2 || (half == 1 && odd)
  else if mode = 1 then false
  else if mode = 2 then neg && inexact
  else if mode = 3 then !neg && inexact
  else half != 0

/-- m × 2^e as a multiple of 2^q, rounded. -/
def quantize (mode : Nat) (neg : Bool) (m : Nat) (e q : Int) : Nat :=
  if q ≤ e then m * 2 ^ (e - q).toNat
  else
    let s := (q - e).toNat
    if Nat.log2 m + 2 ≤ s then (if roundUp mode neg (m != 0) 0 false then 1 else 0)
    else
      let n := m / 2 ^ s
      let r := m % 2 ^ s
      let half := if 2 * r < 2 ^ s then 0 else if 2 * r = 2 ^ s then 1 else 2
      if roundUp mode neg (r != 0) half (n % 2 == 1) then n + 1 else n

/-- The encoding of a signed magnitude. -/
def Fmt.enc (f : Fmt) (neg : Bool) (mag : Nat) : Nat := if neg then f.sign + mag else mag

/-- RoundFmt(x, mode): the encoding of a value, rounded once (R52, R53). -/
def Fmt.round (f : Fmt) (mode : Nat) (v : FVal) : Nat :=
  match v with
  | .nan => f.nan
  | .inf neg => f.enc neg (if f.e4 then 0x7E else f.inf)
  | .fin neg 0 _ => f.enc neg 0
  | .fin neg m e =>
    let top : Int := (Nat.log2 m : Int) + e
    let q : Int := max (top - f.mb) (1 - (f.bias : Int) - f.mb)
    let n := quantize mode neg m e q
    let mag := (((q + f.mb + f.bias - 1) * (2 ^ f.mb : Nat)) + n).toNat
    if mag ≤ f.maxFin then f.enc neg mag
    else if f.e4 then f.enc neg 0x7E
    else if mode = 1 ∨ (mode = 2 ∧ !neg) ∨ (mode = 3 ∧ neg) then f.enc neg f.maxFin
    else f.enc neg f.inf

/-- The clamp of the sat bit, after rounding (R54). -/
def Fmt.sat (f : Fmt) (on : Bool) (bits : Nat) : Nat :=
  if !on then bits
  else
    match f.val bits with
    | .nan => 0
    | _ => if f.sign ≤ bits then 0 else if f.one < bits then f.one else bits

/-! ### Exact arithmetic on values (R49, R128) -/

/-- The signed integer of a value over 2^e. -/
def scaled (neg : Bool) (m : Nat) (e lo : Int) : Int := (if neg then -1 else 1) * ((m * 2 ^ (e - lo).toNat : Nat) : Int)

/-- x + y; an exact zero sum takes its sign by R49. -/
def FVal.add (mode : Nat) : FVal → FVal → FVal
  | .nan, _ => .nan
  | _, .nan => .nan
  | .inf a, .inf b => if a = b then .inf a else .nan
  | .inf a, _ => .inf a
  | _, .inf b => .inf b
  | .fin a 0 e, .fin b 0 _ => .fin (if a = b then a else decide (mode = 2)) 0 e
  | .fin _ 0 _, y => y
  | x, .fin _ 0 _ => x
  | .fin a m e, .fin b n g =>
    let lo := min e g
    let t := scaled a m e lo + scaled b n g lo
    if t = 0 then .fin (decide (mode = 2)) 0 lo else .fin (decide (t < 0)) t.natAbs lo

/-- −x. -/
def FVal.neg : FVal → FVal
  | .nan => .nan
  | .inf a => .inf (!a)
  | .fin a m e => .fin (!a) m e

/-- x × y, exact. -/
def FVal.mul : FVal → FVal → FVal
  | .nan, _ => .nan
  | _, .nan => .nan
  | .inf a, .inf b => .inf (a != b)
  | .inf a, .fin b m _ => if m = 0 then .nan else .inf (a != b)
  | .fin a m _, .inf b => if m = 0 then .nan else .inf (a != b)
  | .fin a m e, .fin b n g => .fin (a != b) (m * n) (e + g)

/-- x / y with enough bits that one rounding of the answer rounds the quotient: an inexact quotient ends in a 1 (R58). An infinity divided by
a finite number is an infinity of the signs' exclusive or (log 105). -/
def FVal.div : FVal → FVal → FVal
  | .nan, _ => .nan
  | _, .nan => .nan
  | .inf _, .inf _ => .nan
  | .inf a, .fin b _ _ => .inf (a != b)
  | .fin a _ e, .inf b => .fin (a != b) 0 e
  | .fin a m e, .fin b n g =>
    if n = 0 then (if m = 0 then .nan else .inf (a != b))
    else
      let t := m * 2 ^ 80
      .fin (a != b) (2 * (t / n) + (if t % n = 0 then 0 else 1)) (e - g - 81)

/-- The integer square root, bit by bit. -/
def isqrtFrom : Nat → Nat → Nat → Nat
  | 0, _, r => r
  | k + 1, n, r => isqrtFrom k n (if (r + 2 ^ k) * (r + 2 ^ k) ≤ n then r + 2 ^ k else r)

def isqrt (n : Nat) : Nat := isqrtFrom (Nat.log2 n / 2 + 1) n 0

/-- √x (R58). -/
def FVal.sqrt : FVal → FVal
  | .nan => .nan
  | .inf a => if a then .nan else .inf false
  | .fin a m e =>
    if m = 0 then .fin a 0 e
    else if a then .nan
    else
      let (m, e) := if e % 2 = 0 then (m, e) else (2 * m, e - 1)
      let t := m * 2 ^ 160
      let r := isqrt t
      .fin false (2 * r + (if r * r = t then 0 else 1)) (e / 2 - 81)

/-- 1 / √x (R58). -/
def FVal.rsqrt : FVal → FVal
  | .nan => .nan
  | .inf a => if a then .nan else .fin false 0 0
  | .fin a m e =>
    if m = 0 then .inf a
    else if a then .nan
    else
      let (m, e) := if e % 2 = 0 then (m, e) else (2 * m, e - 1)
      let r := isqrt (2 ^ 240 / m)
      .fin false (2 * r + (if r * r * m = 2 ^ 240 then 0 else 1)) (-(e / 2) - 121)

/-! ### Transcendental functions (R58; log 11) -/

/-- The fixed-point scale, and the bound on the error of what follows. -/
def fxBits : Nat := 320
def fxPad : Int := 2 ^ 40

/-- The product of two fixed-point numbers. -/
def fxMul (a b : Int) : Int := a * b / 2 ^ fxBits

/-- 1 in fixed point. -/
def fxOne : Int := 2 ^ fxBits

/-- ln 2 in fixed point, and π / 2 with 480 fraction bits, both cut off below. -/
def fxLn2 : Int := 0xb17217f7d1cf79abc9e3b39803f2f6af40f343267298b62d8a0d175b8baafa2be7b876206debac98
def halfPi480 : Int := 0x1921fb54442d18469898cc51701b839a252049c1114cf98e804177d4c76273644a29410f31c6809bbdf2a33679a748636605614dbe4be286e9fc26ada

/-- m × 2^e in fixed point, cut off below. -/
def fxOf (neg : Bool) (m : Nat) (e : Int) : Int :=
  let s := e + fxBits
  let v : Int := if 0 ≤ s then ((m * 2 ^ s.toNat : Nat) : Int) else ((m / 2 ^ (-s).toNat : Nat) : Int)
  if neg then -v else v

/-- The Taylor series of e^t for 0 ≤ t < 1, from term k on. -/
def expSum (t : Int) : Nat → Int → Int → Int
  | 0, _, _ => 0
  | n + 1, k, term => term + expSum t n (k + 1) (fxMul term t / k)

/-- e^t for 0 ≤ t < 1. -/
def fxExp (t : Int) : Int := expSum t 90 1 fxOne

/-- The alternating Taylor series in r², from the term `term` and its index k on. -/
def altSum (r2 : Int) : Nat → Int → Int → Int
  | 0, _, _ => 0
  | n + 1, k, term => term + altSum r2 n (k + 2) (-(fxMul term r2 / (k * (k + 1))))

/-- sin r and cos r for 0 ≤ r < 2. -/
def fxSin (r : Int) : Int := altSum (fxMul r r) 60 2 r
def fxCos (r : Int) : Int := altSum (fxMul r r) 60 1 fxOne

/-- The series of atanh z, from the power `w` and its index k on. -/
def atanhSum (z2 : Int) : Nat → Int → Int → Int
  | 0, _, _ => 0
  | n + 1, k, w => w / k + atanhSum z2 n (k + 2) (fxMul w z2)

/-- ln y for 1 ≤ y < 2. -/
def fxLn (y : Int) : Int :=
  let z := (y - fxOne) * 2 ^ fxBits / (y + fxOne)
  2 * atanhSum (fxMul z z) 110 1 z

/-- A fixed-point number as a value. -/
def fxVal (a : Int) (shift : Int) : FVal := .fin (decide (a < 0)) a.natAbs (shift - fxBits)

/-- Rounds a fixed-point result whose error is below the pad: both ends must round alike; otherwise the model leaves the value open. -/
def fxRound (fn : Nat) (x : Word) (mode : Nat) (a : Int) (shift : Int) : Word :=
  let lo := f32.round mode (fxVal (a - fxPad) shift)
  let hi := f32.round mode (fxVal (a + fxPad) shift)
  if lo = hi then BitVec.ofNat 32 lo else Config.undecided fn x mode

/-- A value just above or just below an exact one: what a rounding needs of a result that differs from it by less than 2^−80 of it. -/
def nudge (up : Bool) (neg : Bool) (m : Nat) (e : Int) : FVal :=
  if up then .fin neg (m * 2 ^ 80 + 1) (e - 80) else .fin neg (m * 2 ^ 80 - 1) (e - 80)

/-- The magnitude is below 2^−40. -/
def tinyVal (m : Nat) (e : Int) : Bool := decide ((Nat.log2 m : Int) + e < -40)

/-- 2^x (R58). -/
def exp2W (mode : Nat) (x : Word) : Word :=
  match f32.val x.toNat with
  | .nan => BitVec.ofNat 32 f32.nan
  | .inf neg => if neg then 0 else 0x7F800000
  | .fin neg m e =>
    if m = 0 then 0x3F800000
    else if tinyVal m e then BitVec.ofNat 32 (f32.round mode (nudge (!neg) false 1 0))
    else if 8 < (Nat.log2 m : Int) + e then
      BitVec.ofNat 32 (f32.round mode (.fin false 1 (if neg then -400 else 400)))
    else
      let v := fxOf neg m e
      let n := v / fxOne
      let f := v % fxOne
      if f = 0 then BitVec.ofNat 32 (f32.round mode (.fin false 1 n))
      else fxRound 0 x mode (fxExp (fxMul f fxLn2)) n

/-- log2 x (R58). -/
def log2W (mode : Nat) (x : Word) : Word :=
  match f32.val x.toNat with
  | .nan => BitVec.ofNat 32 f32.nan
  | .inf neg => if neg then BitVec.ofNat 32 f32.nan else 0x7F800000
  | .fin neg m e =>
    if m = 0 then 0xFF800000
    else if neg then BitVec.ofNat 32 f32.nan
    else
      let k := Nat.log2 m
      let top : Int := (k : Int) + e
      if m = 2 ^ k then BitVec.ofNat 32 (f32.round mode (.fin (decide (top < 0)) top.natAbs 0))
      else
        let y := fxOf false m (-(k : Int))
        fxRound 1 x mode (fxLn y * 2 ^ fxBits / fxLn2 + top * fxOne) 0

/-- The quadrant and the remainder of |x| modulo π / 2, exactly reduced. -/
def reducePi (m : Nat) (e : Int) : Int × Int :=
  let big : Int := ((m * 2 ^ (e + 480).toNat : Nat) : Int)
  let k := big / halfPi480
  (k, (big - k * halfPi480) / 2 ^ (480 - fxBits))

/-- sin or cos of a finite nonzero x. `quarter` is 0 for sin and 1 for cos. -/
def trigW (fn quarter mode : Nat) (x : Word) (neg : Bool) (m : Nat) (e : Int) : Word :=
  let (k, r) := reducePi m e
  let q := (k + quarter) % 4
  let a := if q % 2 = 0 then fxSin r else fxCos r
  let a := if 2 ≤ q then -a else a
  fxRound fn x mode (if neg && quarter == 0 then -a else a) 0

/-- sin x (R58). -/
def sinW (mode : Nat) (x : Word) : Word :=
  match f32.val x.toNat with
  | .nan => BitVec.ofNat 32 f32.nan
  | .inf _ => BitVec.ofNat 32 f32.nan
  | .fin neg m e =>
    if m = 0 then x
    else if tinyVal m e then BitVec.ofNat 32 (f32.round mode (nudge false neg m e))
    else trigW 2 0 mode x neg m e

/-- cos x (R58). -/
def cosW (mode : Nat) (x : Word) : Word :=
  match f32.val x.toNat with
  | .nan => BitVec.ofNat 32 f32.nan
  | .inf _ => BitVec.ofNat 32 f32.nan
  | .fin neg m e =>
    if m = 0 then 0x3F800000
    else if tinyVal m e then BitVec.ofNat 32 (f32.round mode (nudge false false 1 0))
    else trigW 3 1 mode x neg m e

/-- e^−y in fixed point for 0 ≤ y: the mantissa in 1 to 2 and its power of two. -/
def fxExpNeg (y : Int) : Int × Int :=
  let n := (-y) / fxLn2
  (fxExp (-y - n * fxLn2), n)

/-- A fixed-point mantissa times a power of two, as a fixed-point number. -/
def fxShift (a : Int) (n : Int) : Int := if 0 ≤ n then a * 2 ^ n.toNat else a / 2 ^ (-n).toNat

/-- tanh x (R58). -/
def tanhW (mode : Nat) (x : Word) : Word :=
  match f32.val x.toNat with
  | .nan => BitVec.ofNat 32 f32.nan
  | .inf neg => if neg then 0xBF800000 else 0x3F800000
  | .fin neg m e =>
    if m = 0 then x
    else if tinyVal m e then BitVec.ofNat 32 (f32.round mode (nudge false neg m e))
    else if 6 ≤ (Nat.log2 m : Int) + e then BitVec.ofNat 32 (f32.round mode (nudge false neg 1 0))
    else
      let (a, n) := fxExpNeg (2 * fxOf false m e)
      let t := fxShift a n
      let r := (fxOne - t) * 2 ^ fxBits / (fxOne + t)
      fxRound 4 x mode (if neg then -r else r) 0

/-- 1 / (1 + e^−x) (R58). -/
def sigW (mode : Nat) (x : Word) : Word :=
  match f32.val x.toNat with
  | .nan => BitVec.ofNat 32 f32.nan
  | .inf neg => if neg then 0 else 0x3F800000
  | .fin neg m e =>
    if m = 0 then 0x3F000000
    else if tinyVal m e then BitVec.ofNat 32 (f32.round mode (FVal.add 0 (.fin false 1 (-1)) (.fin neg m (e - 2))))
    else if 7 ≤ (Nat.log2 m : Int) + e then
      BitVec.ofNat 32 (f32.round mode (if neg then .fin false 1 (-180) else nudge false false 1 0))
    else
      let (a, n) := fxExpNeg (fxOf false m e)
      let t := fxShift a n
      -- 1 / (1 + t) for x ≥ 0, and t / (1 + t) for x < 0, whose leading bits the mantissa keeps
      if neg then fxRound 5 x mode (a * 2 ^ fxBits / (fxOne + t)) n
      else fxRound 5 x mode (2 ^ (2 * fxBits) / (fxOne + t)) 0

/-! ### Comparisons (R48, R130) -/

/-- NaN. -/
def isNanW (x : Word) : Bool := decide (f32.val x.toNat = .nan)

/-- The order of non-NaN values; with `zeros`, −0 lies below +0. -/
def orderKey (zeros : Bool) (x : Word) : Int :=
  let mag : Int := ((x.toNat % 2 ^ 31 : Nat) : Int)
  if x.msb then (if zeros then -mag - 1 else -mag) else mag

/-- minimumNumber and maximumNumber (R48). -/
def fminW (x y : Word) : Word :=
  if isNanW x then (if isNanW y then BitVec.ofNat 32 f32.nan else y)
  else if isNanW y then x else if orderKey true x ≤ orderKey true y then x else y
def fmaxW (x y : Word) : Word :=
  if isNanW x then (if isNanW y then BitVec.ofNat 32 f32.nan else y)
  else if isNanW y then x else if orderKey true y ≤ orderKey true x then x else y

/-! ### Integer rounding and conversions (R55 to R57, R131) -/

/-- A finite value rounded to an integer in a mode. -/
def roundInt (mode : Nat) (neg : Bool) (m : Nat) (e : Int) : Int :=
  let n := quantize mode neg m e 0
  if neg then -(n : Int) else (n : Int)

/-- A value converted to an integer range (R55). -/
def toIntVal (mode : Nat) (lo hi : Int) (v : FVal) : Int :=
  match v with
  | .nan => 0
  | .inf neg => if neg then lo else hi
  | .fin neg m e => if 70 < (Nat.log2 m : Int) + e then (if neg then lo else hi) else clampInt lo hi (roundInt mode neg m e)

/-- An integer as a value. -/
def ofIntVal (v : Int) : FVal := .fin (decide (v < 0)) v.natAbs 0

/-- FRND (R131). -/
def frndW (mode : Nat) (x : Word) : Word :=
  match f32.val x.toNat with
  | .nan => BitVec.ofNat 32 f32.nan
  | .inf _ => x
  | .fin neg m e =>
    if m = 0 ∨ 0 ≤ e then x
    else
      let n := quantize mode neg m e 0
      BitVec.ofNat 32 (f32.round 1 (.fin neg n 0))

/-- f32 to E8M0 (R57). -/
def toE8m0 (mode : Nat) (v : FVal) : Nat :=
  match v with
  | .fin false m e =>
    if m = 0 then 0xFF
    else
      let k := Nat.log2 m
      let up := if mode = 3 then m != 2 ^ k else if mode = 1 ∨ mode = 2 then false else decide (3 * 2 ^ k ≤ 2 * m)
      (clampInt 0 0xFE ((k : Int) + e + (if up then 1 else 0) + 127)).toNat
  | _ => 0xFF

/-- An E8M0 scale as a value (R46). -/
def e8m0Val (b : Nat) : FVal := if b = 0xFF then .nan else .fin false 1 ((b : Int) - 127)

/-- A rounded floating-point result under the sat bit. -/
def fOut (f : Fmt) (sat : Bool) (mode : Nat) (v : FVal) : Nat := f.sat sat (f.round mode v)

/-- The classes of FCLASS (R133). -/
def fclassW (x : Word) : Word :=
  let neg := x.msb
  let e := (x.extractLsb' 23 8).toNat
  let m := (x.extractLsb' 0 23).toNat
  if e = 255 then (if m ≠ 0 then 0x100 else if neg then 0x001 else 0x080)
  else if e = 0 then (if m = 0 then (if neg then 0x008 else 0x010) else (if neg then 0x004 else 0x020))
  else if neg then 0x002 else 0x040

end Sys2Proof.Machine
end

