-- ==== Sys2Proof/Machine/Float.lean ====
section
/-! DEFINITION. Sys2Proof/Machine/Float.lean: f32 arithmetic and functions, packed arithmetic, conversions and packs (R124 to R138). -/

namespace Sys2Proof.Machine

/-! ### Results -/

/-- The f32 value of a word. -/
def fv (x : Word) : FVal := f32.val x.toNat

/-- An f32 result: rounded in the mode, then clamped under sat (R52, R54, R124). -/
def f32W (p : Option Pfx) (v : FVal) : Word := BitVec.ofNat 32 (fOut f32 (satBit p) (rndOf p) v)

/-- A word that a float form returns, clamped under sat. -/
def satW (p : Option Pfx) (w : Word) : Word := BitVec.ofNat 32 (f32.sat (satBit p) w.toNat)

/-- Half `i` of a word as a value of a 16-bit format. -/
def halfVal (f : Fmt) (x : Word) (i : Nat) : FVal := f.val (x.extractLsb' (16 * i) 16).toNat

/-- A packed result of two 16-bit elements (R135). -/
def packW (f : Fmt) (p : Option Pfx) (v : Nat → FVal) : Word :=
  BitVec.ofNat 32 (fOut f (satBit p) (rndOf p) (v 0) + 2 ^ 16 * fOut f (satBit p) (rndOf p) (v 1))

/-- x × 2^n (R134). -/
def fscaleVal (x : FVal) (n : Int) : FVal :=
  match x with
  | .fin neg m e => .fin neg m (e + n)
  | v => v

/-- CVT with a 32-bit source and a 32-bit result (R56). -/
def cvtW (code : Nat) (sat : Bool) (mode : Nat) (x : Word) : Word :=
  let fout := fun (f : Fmt) (v : FVal) => BitVec.ofNat 32 (fOut f sat mode v)
  if code = 0x00 then BitVec.ofInt 32 (toIntVal mode (-2147483648) 2147483647 (fv x))
  else if code = 0x01 then BitVec.ofInt 32 (toIntVal mode 0 4294967295 (fv x))
  else if code = 0x04 then fout f32 (ofIntVal x.toInt)
  else if code = 0x05 then fout f32 (ofIntVal x.toNat)
  else if code = 0x08 then fout bf16 (fv x)
  else if code = 0x09 then fout f32 (halfVal bf16 x 0)
  else if code = 0x0A then fout f16 (fv x)
  else if code = 0x0B then fout f32 (halfVal f16 x 0)
  else if code = 0x0C then fout e4m3 (fv x)
  else if code = 0x0D then fout f32 (e4m3.val (x.toNat % 256))
  else if code = 0x0E then fout e5m2 (fv x)
  else if code = 0x0F then fout f32 (e5m2.val (x.toNat % 256))
  else if code = 0x10 then BitVec.ofNat 32 (toE8m0 mode (fv x))
  else if code = 0x11 then fout f32 (e8m0Val (x.toNat % 256))
  else if code = 0x12 then BitVec.ofInt 32 (clampInt (-128) 127 x.toInt)
  else if code = 0x13 then BitVec.ofInt 32 (clampInt 0 255 x.toInt)
  else if code = 0x14 then BitVec.ofInt 32 (clampInt (-32768) 32767 x.toInt)
  else if code = 0x15 then BitVec.ofInt 32 (clampInt 0 65535 x.toInt)
  else if code = 0x18 then fout f16 (halfVal bf16 x 0)
  else fout bf16 (halfVal f16 x 0)

/-- CVT with a pair as source (R56). -/
def cvtFromPair (code : Nat) (sat : Bool) (mode : Nat) (x : Dword) : Word :=
  if code = 0x06 then BitVec.ofNat 32 (fOut f32 sat mode (ofIntVal x.toInt))
  else if code = 0x07 then BitVec.ofNat 32 (fOut f32 sat mode (ofIntVal x.toNat))
  else if code = 0x16 then BitVec.ofInt 32 (clampInt (-2147483648) 2147483647 x.toInt)
  else BitVec.ofInt 32 (clampInt 0 4294967295 x.toNat)

/-- CVT with a pair as result (R56). -/
def cvtToPair (code : Nat) (mode : Nat) (x : Word) : Dword :=
  if code = 0x02 then BitVec.ofInt 64 (toIntVal mode (-9223372036854775808) 9223372036854775807 (fv x))
  else BitVec.ofInt 64 (toIntVal mode 0 18446744073709551615 (fv x))

/-- The codes of CVT whose source, and whose result, is a pair (R136). -/
def cvtSrcPair (code : Nat) : Bool := code == 0x06 || code == 0x07 || code == 0x16 || code == 0x17
def cvtDstPair (code : Nat) : Bool := code == 0x02 || code == 0x03

/-- The 8-bit packs: two bytes below, the older half above (R137). -/
def pack8 (z : Word) (lo hi : Nat) : Word := BitVec.ofNat 32 (2 ^ 16 * (z.toNat % 65536) + 2 ^ 8 * (hi % 256) + lo % 256)

/-- A CVTPK form that keeps the older half of d. -/
def cvtpk8 (p : Option Pfx) (d a b : Code) (f : Word → Nat) : M Unit := do
  checkOps [.dst d, .src d, .src a, .src b]
  let ex ← execLanes p
  let zl ← zeroLanes p
  let x ← readSrc a ex
  let y ← readSrc b ex
  let z ← readSrc d ex
  writeDst d ex zl (fun t => pack8 (z t) (f (x t)) (f (y t)))

/-- CVTUN (R138). -/
def cvtunW (sel : Nat) (p : Option Pfx) (x : Word) : Word :=
  let byte := fun (i : Nat) => x.extractLsb' (8 * i) 8
  let half := fun (i : Nat) => x.extractLsb' (16 * i) 16
  if sel < 0x02 then f32W p (bf16.val (half sel).toNat)
  else if sel < 0x04 then f32W p (f16.val (half (sel - 0x02)).toNat)
  else if sel < 0x08 then f32W p (e4m3.val (byte (sel - 0x04)).toNat)
  else if sel < 0x0C then f32W p (e5m2.val (byte (sel - 0x08)).toNat)
  else if sel < 0x10 then (byte (sel - 0x0C)).signExtend 32
  else if sel < 0x14 then (byte (sel - 0x10)).setWidth 32
  else if sel < 0x16 then (half (sel - 0x14)).signExtend 32
  else (half (sel - 0x16)).setWidth 32

/-! ### Meanings -/


/-- FADD (R127). -/
def execFadd (p : Option Pfx) (d a b : Code) (s : State) : Host.Outcome State Fault Refusal :=
  issueP p (alu2 p d a b (fun x y => f32W p ((fv x).add (rndOf p) (fv y)))) s

/-- FSUB (R127). -/
def execFsub (p : Option Pfx) (d a b : Code) (s : State) : Host.Outcome State Fault Refusal :=
  issueP p (alu2 p d a b (fun x y => f32W p ((fv x).add (rndOf p) (fv y).neg))) s

/-- FMUL (R127). -/
def execFmul (p : Option Pfx) (d a b : Code) (s : State) : Host.Outcome State Fault Refusal :=
  issueP p (alu2 p d a b (fun x y => f32W p ((fv x).mul (fv y)))) s

/-- FFMA: the exact product plus the third source, rounded once (R127, R128). -/
def execFfma (p : Option Pfx) (d a b : Code) (s : State) : Host.Outcome State Fault Refusal :=
  issueP p (alu3 p d a b (fun x y z => f32W p (((fv x).mul (fv y)).add (rndOf p) (fv z)))) s

/-- FMIN: minimumNumber (R129). -/
def execFmin (p : Option Pfx) (d a b : Code) (s : State) : Host.Outcome State Fault Refusal :=
  issueP p (alu2 p d a b (fun x y => satW p (fminW x y))) s

/-- FMAX: maximumNumber (R129). -/
def execFmax (p : Option Pfx) (d a b : Code) (s : State) : Host.Outcome State Fault Refusal :=
  issueP p (alu2 p d a b (fun x y => satW p (fmaxW x y))) s

/-- FNEG: bit 31 flipped (R129). -/
def execFneg (p : Option Pfx) (d a : Code) (s : State) : Host.Outcome State Fault Refusal :=
  issueP p (alu1 p d a (fun x => x ^^^ 0x80000000)) s

/-- FABS: bit 31 cleared (R129). -/
def execFabs (p : Option Pfx) (d a : Code) (s : State) : Host.Outcome State Fault Refusal :=
  issueP p (alu1 p d a (fun x => x &&& 0x7FFFFFFF)) s

/-- FSET.eq (R130). -/
def execFsetEq (p : Option Pfx) (d a b : Code) (s : State) : Host.Outcome State Fault Refusal :=
  issueP p (alu2 p d a b (fun x y => if !isNanW x && !isNanW y && orderKey false x == orderKey false y then 1 else 0)) s

/-- FSET.ne (R130). -/
def execFsetNe (p : Option Pfx) (d a b : Code) (s : State) : Host.Outcome State Fault Refusal :=
  issueP p (alu2 p d a b (fun x y => if isNanW x || isNanW y || orderKey false x != orderKey false y then 1 else 0)) s

/-- FSET.lt (R130). -/
def execFsetLt (p : Option Pfx) (d a b : Code) (s : State) : Host.Outcome State Fault Refusal :=
  issueP p (alu2 p d a b (fun x y => if !isNanW x && !isNanW y && decide (orderKey false x < orderKey false y) then 1 else 0)) s

/-- FSET.le (R130). -/
def execFsetLe (p : Option Pfx) (d a b : Code) (s : State) : Host.Outcome State Fault Refusal :=
  issueP p (alu2 p d a b (fun x y => if !isNanW x && !isNanW y && decide (orderKey false x ≤ orderKey false y) then 1 else 0)) s

/-- FSET.un (R130). -/
def execFsetUn (p : Option Pfx) (d a b : Code) (s : State) : Host.Outcome State Fault Refusal :=
  issueP p (alu2 p d a b (fun x y => if isNanW x || isNanW y then 1 else 0)) s

/-- FRND: an integral value (R131). -/
def execFrnd (p : Option Pfx) (d a : Code) (s : State) : Host.Outcome State Fault Refusal :=
  issueP p (alu1 p d a (fun x => satW p (frndW (rndOf p) x))) s

/-- FDIV (R58, R132). -/
def execFdiv (p : Option Pfx) (d a b : Code) (s : State) : Host.Outcome State Fault Refusal :=
  issueP p (alu2 p d a b (fun x y => f32W p ((fv x).div (fv y)))) s

/-- FSQRT (R58, R132). -/
def execFsqrt (p : Option Pfx) (d a : Code) (s : State) : Host.Outcome State Fault Refusal :=
  issueP p (alu1 p d a (fun x => f32W p (fv x).sqrt)) s

/-- FRCP (R58, R132). -/
def execFrcp (p : Option Pfx) (d a : Code) (s : State) : Host.Outcome State Fault Refusal :=
  issueP p (alu1 p d a (fun x => f32W p ((FVal.fin false 1 0).div (fv x)))) s

/-- FRSQ (R58, R132). -/
def execFrsq (p : Option Pfx) (d a : Code) (s : State) : Host.Outcome State Fault Refusal :=
  issueP p (alu1 p d a (fun x => f32W p (fv x).rsqrt)) s

/-- FEXP2 (R58, R132). -/
def execFexp2 (p : Option Pfx) (d a : Code) (s : State) : Host.Outcome State Fault Refusal :=
  issueP p (alu1 p d a (fun x => satW p (exp2W (rndOf p) x))) s

/-- FLOG2 (R58, R132). -/
def execFlog2 (p : Option Pfx) (d a : Code) (s : State) : Host.Outcome State Fault Refusal :=
  issueP p (alu1 p d a (fun x => satW p (log2W (rndOf p) x))) s

/-- FSIN (R58, R132). -/
def execFsin (p : Option Pfx) (d a : Code) (s : State) : Host.Outcome State Fault Refusal :=
  issueP p (alu1 p d a (fun x => satW p (sinW (rndOf p) x))) s

/-- FCOS (R58, R132). -/
def execFcos (p : Option Pfx) (d a : Code) (s : State) : Host.Outcome State Fault Refusal :=
  issueP p (alu1 p d a (fun x => satW p (cosW (rndOf p) x))) s

/-- FTANH (R58, R132). -/
def execFtanh (p : Option Pfx) (d a : Code) (s : State) : Host.Outcome State Fault Refusal :=
  issueP p (alu1 p d a (fun x => satW p (tanhW (rndOf p) x))) s

/-- FSIG (R58, R132). -/
def execFsig (p : Option Pfx) (d a : Code) (s : State) : Host.Outcome State Fault Refusal :=
  issueP p (alu1 p d a (fun x => satW p (sigW (rndOf p) x))) s

/-- FCLASS (R133). -/
def execFclass (p : Option Pfx) (d a : Code) (s : State) : Host.Outcome State Fault Refusal :=
  issueP p (alu1 p d a fclassW) s

/-- FSCALE: a times 2 to the signed power b, rounded once (R134). -/
def execFscale (p : Option Pfx) (d a b : Code) (s : State) : Host.Outcome State Fault Refusal :=
  issueP p (alu2 p d a b (fun x y => f32W p (fscaleVal (fv x) y.toInt))) s

/-- PADD.bf (R135). -/
def execPaddBf (p : Option Pfx) (d a b : Code) (s : State) : Host.Outcome State Fault Refusal :=
  issueP p (alu2 p d a b (fun x y => packW bf16 p (fun i => (halfVal bf16 x i).add (rndOf p) (halfVal bf16 y i)))) s

/-- PMUL.bf (R135). -/
def execPmulBf (p : Option Pfx) (d a b : Code) (s : State) : Host.Outcome State Fault Refusal :=
  issueP p (alu2 p d a b (fun x y => packW bf16 p (fun i => (halfVal bf16 x i).mul (halfVal bf16 y i)))) s

/-- PFMA.bf (R135). -/
def execPfmaBf (p : Option Pfx) (d a b : Code) (s : State) : Host.Outcome State Fault Refusal :=
  issueP p (alu3 p d a b (fun x y z => packW bf16 p (fun i => ((halfVal bf16 x i).mul (halfVal bf16 y i)).add (rndOf p) (halfVal bf16 z i)))) s

/-- PADD.h (R135). -/
def execPaddH (p : Option Pfx) (d a b : Code) (s : State) : Host.Outcome State Fault Refusal :=
  issueP p (alu2 p d a b (fun x y => packW f16 p (fun i => (halfVal f16 x i).add (rndOf p) (halfVal f16 y i)))) s

/-- PMUL.h (R135). -/
def execPmulH (p : Option Pfx) (d a b : Code) (s : State) : Host.Outcome State Fault Refusal :=
  issueP p (alu2 p d a b (fun x y => packW f16 p (fun i => (halfVal f16 x i).mul (halfVal f16 y i)))) s

/-- PFMA.h (R135). -/
def execPfmaH (p : Option Pfx) (d a b : Code) (s : State) : Host.Outcome State Fault Refusal :=
  issueP p (alu3 p d a b (fun x y z => packW f16 p (fun i => ((halfVal f16 x i).mul (halfVal f16 y i)).add (rndOf p) (halfVal f16 z i)))) s

/-- The effect of CVT: the code in b decides the widths (R56, R136). -/
def cvtM (p : Option Pfx) (d a : Code) (code : Nat) : M Unit := do
  ensure (decide (code ≤ 0x19)) fcIllegalOperand
  checkOps [if cvtDstPair code then .pair d else .dst d, if cvtSrcPair code then .pair a else .src a]
  let ex ← execLanes p
  let zl ← zeroLanes p
  if cvtSrcPair code then do
    let x ← readPair a
    writeDst d ex zl (fun t => cvtFromPair code (satBit p) (rndOf p) (x t))
  else do
    let x ← readSrc a ex
    if cvtDstPair code then writePair d ex zl (fun t => cvtToPair code (rndOf p) (x t))
    else writeDst d ex zl (fun t => cvtW code (satBit p) (rndOf p) (x t))

/-- CVT (R136). -/
def execCvt (p : Option Pfx) (d a b : Code) (s : State) : Host.Outcome State Fault Refusal :=
  issueP p (cvtM p d a b.toNat) s

/-- CVTPK.bf (R137). -/
def execCvtpkBf (p : Option Pfx) (d a b : Code) (s : State) : Host.Outcome State Fault Refusal :=
  issueP p (alu2 p d a b (fun x y => packW bf16 p (fun i => if i = 0 then fv x else fv y))) s

/-- CVTPK.h (R137). -/
def execCvtpkH (p : Option Pfx) (d a b : Code) (s : State) : Host.Outcome State Fault Refusal :=
  issueP p (alu2 p d a b (fun x y => packW f16 p (fun i => if i = 0 then fv x else fv y))) s

/-- CVTPK.e4 (R137). -/
def execCvtpkE4 (p : Option Pfx) (d a b : Code) (s : State) : Host.Outcome State Fault Refusal :=
  issueP p (cvtpk8 p d a b (fun x => fOut e4m3 (satBit p) (rndOf p) (fv x))) s

/-- CVTPK.e5 (R137). -/
def execCvtpkE5 (p : Option Pfx) (d a b : Code) (s : State) : Host.Outcome State Fault Refusal :=
  issueP p (cvtpk8 p d a b (fun x => fOut e5m2 (satBit p) (rndOf p) (fv x))) s

/-- CVTPK.i8 (R137). -/
def execCvtpkI8 (p : Option Pfx) (d a b : Code) (s : State) : Host.Outcome State Fault Refusal :=
  issueP p (cvtpk8 p d a b (fun x => (toIntVal (rndOf p) (-128) 127 (fv x) % 256).toNat)) s

/-- CVTPK.n8 (R137). -/
def execCvtpkN8 (p : Option Pfx) (d a b : Code) (s : State) : Host.Outcome State Fault Refusal :=
  issueP p (cvtpk8 p d a b (fun x => (toIntVal (rndOf p) 0 255 (fv x)).toNat)) s

/-- CVTUN: one element widened; b holds the selector (R138). -/
def execCvtun (p : Option Pfx) (d a b : Code) (s : State) : Host.Outcome State Fault Refusal :=
  issueP p (do
    ensure (decide (b.toNat ≤ 0x17)) fcIllegalOperand
    alu1 p d a (cvtunW b.toNat p)) s

end Sys2Proof.Machine
end

