-- ==== Sys2Proof/Machine/Integer.lean ====
section
/-! DEFINITION. Sys2Proof/Machine/Integer.lean: the integer, logic and move instructions (R104 to R122). -/

namespace Sys2Proof.Machine

/-! ### Results (R104, R107 to R117) -/

/-- An exact integer as a 32-bit result: wrapped, or clamped to i32 under sat (R104). -/
def intI32 (sat : Bool) (v : Int) : Word := BitVec.ofInt 32 (if sat then clampInt (-2147483648) 2147483647 v else v)

/-- An exact integer as a 32-bit result: wrapped, or clamped to n32 under sat. -/
def intN32 (sat : Bool) (v : Int) : Word := BitVec.ofInt 32 (if sat then clampInt 0 4294967295 v else v)

/-- An exact integer as a 64-bit result: wrapped, or clamped to i64 under sat (R118). -/
def intI64 (sat : Bool) (v : Int) : Dword :=
  BitVec.ofInt 64 (if sat then clampInt (-9223372036854775808) 9223372036854775807 v else v)

/-- 1 if a condition holds, else 0 (R116). -/
def boolW (b : Bool) : Word := if b then 1 else 0

/-- The sum of absolute differences of the four bytes (R109). -/
def sadBytes (x y : Word) : Int :=
  ((List.range 4).map (fun i =>
    (((x.extractLsb' (8 * i) 8).toNat : Int) - ((y.extractLsb' (8 * i) 8).toNat : Int)).natAbs)).foldl (fun (s : Int) (d : Nat) => s + (d : Int)) 0

/-- Shifts by a count that may pass the width (R111). -/
def shlW (x : Word) (n : Nat) : Word := if n < 32 then x <<< n else 0
def shrNW (x : Word) (n : Nat) : Word := if n < 32 then x >>> n else 0
def shrIW (x : Word) (n : Nat) : Word := if n < 32 then x.sshiftRight n else if x.msb then 0xFFFFFFFF else 0

/-- The number of leading zero bits (R112). -/
def clzW (x : Word) : Nat := if x = 0 then 32 else 31 - Nat.log2 x.toNat

/-- Bit i of the result is bit w − 1 − i of x (R112, R115). -/
def brevBits : Nat → Nat → Nat
  | 0, _ => 0
  | n + 1, v => v % 2 * 2 ^ n + brevBits n (v / 2)

/-- A bit field of x at the position and length that y gives (R113). -/
def bfxW (sgn : Bool) (x y : Word) : Word :=
  let pos := (y.extractLsb' 0 8).toNat
  let len := (y.extractLsb' 8 8).toNat
  if len = 0 ∨ 32 ≤ pos then 0
  else
    let w := min len (32 - pos)
    let f := (x.toNat / 2 ^ pos) % 2 ^ w
    if sgn && decide (2 ^ (w - 1) ≤ f) then BitVec.ofInt 32 ((f : Int) - 2 ^ w) else BitVec.ofNat 32 f

/-- The insertion of the low bits of x into z at the field that y gives (R114). -/
def bfiW (x y z : Word) : Word :=
  let pos := (y.extractLsb' 0 8).toNat
  let len := (y.extractLsb' 8 8).toNat
  if len = 0 ∨ 32 ≤ pos then z
  else
    let w := min len (32 - pos)
    let mask := BitVec.ofNat 32 ((2 ^ w - 1) * 2 ^ pos)
    (z &&& ~~~mask) ||| ((x <<< pos) &&& mask)

/-- One byte of PRMT under a control byte (R115). -/
def prmtByte (src : Nat → Byte) (e : Byte) : Byte :=
  let s := src (e.extractLsb' 0 3).toNat
  let m := (e.extractLsb' 3 2).toNat
  let v : Byte := if m = 0 then s else if m = 1 then s ^^^ 0xFF else if m = 2 then (if s.msb then 0xFF else 0) else 0
  if e.getLsbD 5 then BitVec.ofNat 8 (brevBits 8 v.toNat) else v

/-- PRMT (R115). -/
def prmtW (x y z : Word) : Word :=
  let src := fun (i : Nat) => if i < 4 then x.extractLsb' (8 * i) 8 else z.extractLsb' (8 * (i - 4)) 8
  let b := fun (i : Nat) => prmtByte src (y.extractLsb' (8 * i) 8)
  b 3 ++ b 2 ++ b 1 ++ b 0

/-! ### Meanings -/


/-- IADD: the sum, wrapped, or clamped to i32 under sat (R107). -/
def execIadd (p : Option Pfx) (d a b : Code) (s : State) : Host.Outcome State Fault Refusal :=
  issueP p (alu2 p d a b (fun x y => intI32 (satBit p) (x.toInt + y.toInt))) s

/-- ISUB: the difference (R107). -/
def execIsub (p : Option Pfx) (d a b : Code) (s : State) : Host.Outcome State Fault Refusal :=
  issueP p (alu2 p d a b (fun x y => intI32 (satBit p) (x.toInt - y.toInt))) s

/-- IMUL: the low half of the product (R107). -/
def execImul (p : Option Pfx) (d a b : Code) (s : State) : Host.Outcome State Fault Refusal :=
  issueP p (alu2 p d a b (fun x y => intI32 (satBit p) (x.toInt * y.toInt))) s

/-- IMULHI.i: the high half of the signed product (R107). -/
def execImulhiI (p : Option Pfx) (d a b : Code) (s : State) : Host.Outcome State Fault Refusal :=
  issueP p (alu2 p d a b (fun x y => hiWord (BitVec.ofInt 64 (x.toInt * y.toInt)))) s

/-- IMULHI.n: the high half of the unsigned product (R107). -/
def execImulhiN (p : Option Pfx) (d a b : Code) (s : State) : Host.Outcome State Fault Refusal :=
  issueP p (alu2 p d a b (fun x y => hiWord (BitVec.ofNat 64 (x.toNat * y.toNat)))) s

/-- IMULW.i: the signed product in a pair (R107). -/
def execImulwI (p : Option Pfx) (d a b : Code) (s : State) : Host.Outcome State Fault Refusal :=
  issueP p (alu2w p d a b (fun x y => BitVec.ofInt 64 (x.toInt * y.toInt))) s

/-- IMULW.n: the unsigned product in a pair (R107). -/
def execImulwN (p : Option Pfx) (d a b : Code) (s : State) : Host.Outcome State Fault Refusal :=
  issueP p (alu2w p d a b (fun x y => BitVec.ofNat 64 (x.toNat * y.toNat))) s

/-- IMAD: product plus the third source (R107). -/
def execImad (p : Option Pfx) (d a b : Code) (s : State) : Host.Outcome State Fault Refusal :=
  issueP p (alu3 p d a b (fun x y z => intI32 (satBit p) (x.toInt * y.toInt + z.toInt))) s

/-- IADDSAT.i: the signed sum clamped (R108). -/
def execIaddsatI (p : Option Pfx) (d a b : Code) (s : State) : Host.Outcome State Fault Refusal :=
  issueP p (alu2 p d a b (fun x y => intI32 true (x.toInt + y.toInt))) s

/-- IADDSAT.n: the unsigned sum clamped (R108). -/
def execIaddsatN (p : Option Pfx) (d a b : Code) (s : State) : Host.Outcome State Fault Refusal :=
  issueP p (alu2 p d a b (fun x y => intN32 true ((x.toNat : Int) + y.toNat))) s

/-- ISUBSAT.i: the signed difference clamped (R108). -/
def execIsubsatI (p : Option Pfx) (d a b : Code) (s : State) : Host.Outcome State Fault Refusal :=
  issueP p (alu2 p d a b (fun x y => intI32 true (x.toInt - y.toInt))) s

/-- ISUBSAT.n: the unsigned difference clamped (R108). -/
def execIsubsatN (p : Option Pfx) (d a b : Code) (s : State) : Host.Outcome State Fault Refusal :=
  issueP p (alu2 p d a b (fun x y => intN32 true ((x.toNat : Int) - y.toNat))) s

/-- IMIN.i: the signed lesser (R108). -/
def execIminI (p : Option Pfx) (d a b : Code) (s : State) : Host.Outcome State Fault Refusal :=
  issueP p (alu2 p d a b (fun x y => if x.toInt ≤ y.toInt then x else y)) s

/-- IMIN.n: the unsigned lesser (R108). -/
def execIminN (p : Option Pfx) (d a b : Code) (s : State) : Host.Outcome State Fault Refusal :=
  issueP p (alu2 p d a b (fun x y => if x.toNat ≤ y.toNat then x else y)) s

/-- IMAX.i: the signed greater (R108). -/
def execImaxI (p : Option Pfx) (d a b : Code) (s : State) : Host.Outcome State Fault Refusal :=
  issueP p (alu2 p d a b (fun x y => if y.toInt ≤ x.toInt then x else y)) s

/-- IMAX.n: the unsigned greater (R108). -/
def execImaxN (p : Option Pfx) (d a b : Code) (s : State) : Host.Outcome State Fault Refusal :=
  issueP p (alu2 p d a b (fun x y => if y.toNat ≤ x.toNat then x else y)) s

/-- IABS: the absolute value (R109). -/
def execIabs (p : Option Pfx) (d a : Code) (s : State) : Host.Outcome State Fault Refusal :=
  issueP p (alu1 p d a (fun x => intI32 (satBit p) (x.toInt.natAbs : Int))) s

/-- ICSUB: the difference where it is not negative, else a (R109). -/
def execIcsub (p : Option Pfx) (d a b : Code) (s : State) : Host.Outcome State Fault Refusal :=
  issueP p (alu2 p d a b (fun x y => if y.toNat ≤ x.toNat then x - y else x)) s

/-- SAD: the third source plus the sum of absolute byte differences (R109). -/
def execSad (p : Option Pfx) (d a b : Code) (s : State) : Host.Outcome State Fault Refusal :=
  issueP p (alu3 p d a b (fun x y z => intN32 (satBit p) ((z.toNat : Int) + sadBytes x y))) s

/-- AND (R110). -/
def execAnd (p : Option Pfx) (d a b : Code) (s : State) : Host.Outcome State Fault Refusal :=
  issueP p (alu2 p d a b (fun x y => x &&& y)) s

/-- OR (R110). -/
def execOr (p : Option Pfx) (d a b : Code) (s : State) : Host.Outcome State Fault Refusal :=
  issueP p (alu2 p d a b (fun x y => x ||| y)) s

/-- XOR (R110). -/
def execXor (p : Option Pfx) (d a b : Code) (s : State) : Host.Outcome State Fault Refusal :=
  issueP p (alu2 p d a b (fun x y => x ^^^ y)) s

/-- ANDN: a AND NOT b (R110). -/
def execAndn (p : Option Pfx) (d a b : Code) (s : State) : Host.Outcome State Fault Refusal :=
  issueP p (alu2 p d a b (fun x y => x &&& ~~~y)) s

/-- SHL: left by the whole count in b (R111). -/
def execShl (p : Option Pfx) (d a b : Code) (s : State) : Host.Outcome State Fault Refusal :=
  issueP p (alu2 p d a b (fun x y => shlW x y.toNat)) s

/-- SHR.n: logically right (R111). -/
def execShrN (p : Option Pfx) (d a b : Code) (s : State) : Host.Outcome State Fault Refusal :=
  issueP p (alu2 p d a b (fun x y => shrNW x y.toNat)) s

/-- SHR.i: arithmetically right (R111). -/
def execShrI (p : Option Pfx) (d a b : Code) (s : State) : Host.Outcome State Fault Refusal :=
  issueP p (alu2 p d a b (fun x y => shrIW x y.toNat)) s

/-- ROTL: rotated left by b modulo 32 (R111). -/
def execRotl (p : Option Pfx) (d a b : Code) (s : State) : Host.Outcome State Fault Refusal :=
  issueP p (alu2 p d a b (fun x y => x.rotateLeft (y.toNat % 32))) s

/-- POPC: the number of 1 bits (R112). -/
def execPopc (p : Option Pfx) (d a : Code) (s : State) : Host.Outcome State Fault Refusal :=
  issueP p (alu1 p d a (fun x => BitVec.ofNat 32 (popBits x))) s

/-- CLZ: the number of leading zero bits (R112). -/
def execClz (p : Option Pfx) (d a : Code) (s : State) : Host.Outcome State Fault Refusal :=
  issueP p (alu1 p d a (fun x => BitVec.ofNat 32 (clzW x))) s

/-- BREV: the bit order reversed (R112). -/
def execBrev (p : Option Pfx) (d a : Code) (s : State) : Host.Outcome State Fault Refusal :=
  issueP p (alu1 p d a (fun x => BitVec.ofNat 32 (brevBits 32 x.toNat))) s

/-- BFX.i: a sign-extended bit field (R113). -/
def execBfxI (p : Option Pfx) (d a b : Code) (s : State) : Host.Outcome State Fault Refusal :=
  issueP p (alu2 p d a b (bfxW true)) s

/-- BFX.n: a zero-extended bit field (R113). -/
def execBfxN (p : Option Pfx) (d a b : Code) (s : State) : Host.Outcome State Fault Refusal :=
  issueP p (alu2 p d a b (bfxW false)) s

/-- BFI: the insertion of a bit field (R114). -/
def execBfi (p : Option Pfx) (d a b : Code) (s : State) : Host.Outcome State Fault Refusal :=
  issueP p (alu3 p d a b bfiW) s

/-- PRMT: a word built of eight source bytes (R115). -/
def execPrmt (p : Option Pfx) (d a b : Code) (s : State) : Host.Outcome State Fault Refusal :=
  issueP p (alu3 p d a b prmtW) s

/-- ISET.eq (R116). -/
def execIsetEq (p : Option Pfx) (d a b : Code) (s : State) : Host.Outcome State Fault Refusal :=
  issueP p (alu2 p d a b (fun x y => boolW (x == y))) s

/-- ISET.ne (R116). -/
def execIsetNe (p : Option Pfx) (d a b : Code) (s : State) : Host.Outcome State Fault Refusal :=
  issueP p (alu2 p d a b (fun x y => boolW (x != y))) s

/-- ISET.lt.i (R116). -/
def execIsetLtI (p : Option Pfx) (d a b : Code) (s : State) : Host.Outcome State Fault Refusal :=
  issueP p (alu2 p d a b (fun x y => boolW (decide (x.toInt < y.toInt)))) s

/-- ISET.lt.n (R116). -/
def execIsetLtN (p : Option Pfx) (d a b : Code) (s : State) : Host.Outcome State Fault Refusal :=
  issueP p (alu2 p d a b (fun x y => boolW (decide (x.toNat < y.toNat)))) s

/-- ISET.le.i (R116). -/
def execIsetLeI (p : Option Pfx) (d a b : Code) (s : State) : Host.Outcome State Fault Refusal :=
  issueP p (alu2 p d a b (fun x y => boolW (decide (x.toInt ≤ y.toInt)))) s

/-- ISET.le.n (R116). -/
def execIsetLeN (p : Option Pfx) (d a b : Code) (s : State) : Host.Outcome State Fault Refusal :=
  issueP p (alu2 p d a b (fun x y => boolW (decide (x.toNat ≤ y.toNat)))) s

/-- ISEL: a where the third source is nonzero, else b (R117). -/
def execIsel (p : Option Pfx) (d a b : Code) (s : State) : Host.Outcome State Fault Refusal :=
  issueP p (alu3 p d a b (fun x y z => if z ≠ 0 then x else y)) s

/-- IADD64: the 64-bit sum (R118). -/
def execIadd64 (p : Option Pfx) (d a b : Code) (s : State) : Host.Outcome State Fault Refusal :=
  issueP p (alu64 p d a b (fun x y => intI64 (satBit p) (x.toInt + y.toInt))) s

/-- ISUB64: the 64-bit difference (R118). -/
def execIsub64 (p : Option Pfx) (d a b : Code) (s : State) : Host.Outcome State Fault Refusal :=
  issueP p (alu64 p d a b (fun x y => intI64 (satBit p) (x.toInt - y.toInt))) s

/-- MOV: a copy of 32 bits (R119). -/
def execMov (p : Option Pfx) (d a : Code) (s : State) : Host.Outcome State Fault Refusal :=
  issueP p (alu1 p d a (fun x => x)) s

/-- IADDI: a plus the signed immediate (R120). -/
def execIaddi (p : Option Pfx) (d a : Code) (i : BitVec 7) (s : State) : Host.Outcome State Fault Refusal :=
  issueP p (alu1 p d a (fun x => intI32 (satBit p) (x.toInt + i.toInt))) s

/-- ANDI (R120). -/
def execAndi (p : Option Pfx) (d a : Code) (i : BitVec 7) (s : State) : Host.Outcome State Fault Refusal :=
  issueP p (alu1 p d a (fun x => x &&& i.setWidth 32)) s

/-- ORI (R120). -/
def execOri (p : Option Pfx) (d a : Code) (i : BitVec 7) (s : State) : Host.Outcome State Fault Refusal :=
  issueP p (alu1 p d a (fun x => x ||| i.setWidth 32)) s

/-- XORI (R120). -/
def execXori (p : Option Pfx) (d a : Code) (i : BitVec 7) (s : State) : Host.Outcome State Fault Refusal :=
  issueP p (alu1 p d a (fun x => x ^^^ i.setWidth 32)) s

/-- SHLI: left by 0 to 31 (R120). -/
def execShli (p : Option Pfx) (d a : Code) (i : BitVec 5) (s : State) : Host.Outcome State Fault Refusal :=
  issueP p (alu1 p d a (fun x => shlW x i.toNat)) s

/-- SHRI.n: logically right by 0 to 31 (R120). -/
def execShriN (p : Option Pfx) (d a : Code) (i : BitVec 5) (s : State) : Host.Outcome State Fault Refusal :=
  issueP p (alu1 p d a (fun x => shrNW x i.toNat)) s

/-- SHRI.i: arithmetically right by 0 to 31 (R120). -/
def execShriI (p : Option Pfx) (d a : Code) (i : BitVec 5) (s : State) : Host.Outcome State Fault Refusal :=
  issueP p (alu1 p d a (fun x => shrIW x i.toNat)) s

/-- ISETI.eq (R120). -/
def execIsetiEq (p : Option Pfx) (d a : Code) (i : BitVec 7) (s : State) : Host.Outcome State Fault Refusal :=
  issueP p (alu1 p d a (fun x => boolW (x == i.signExtend 32))) s

/-- ISETI.lt.i (R120). -/
def execIsetiLtI (p : Option Pfx) (d a : Code) (i : BitVec 7) (s : State) : Host.Outcome State Fault Refusal :=
  issueP p (alu1 p d a (fun x => boolW (decide (x.toInt < i.toInt)))) s

/-- ISETI.lt.n: the immediate sign-extended, then read unsigned (R120). -/
def execIsetiLtN (p : Option Pfx) (d a : Code) (i : BitVec 7) (s : State) : Host.Outcome State Fault Refusal :=
  issueP p (alu1 p d a (fun x => boolW (decide (x.toNat < (i.signExtend 32).toNat)))) s

/-- MOVI: the sign-extended immediate (R121). -/
def execMovi (p : Option Pfx) (d : Code) (i : BitVec 14) (s : State) : Host.Outcome State Fault Refusal :=
  issueP p (alu0 p d (i.signExtend 32)) s

/-- MOVL: the literal; the unit is one word longer (R80, R122). -/
def execMovl (p : Option Pfx) (d : Code) (lit : BitVec 32) (s : State) : Host.Outcome State Fault Refusal :=
  issue (unitLen p + 4) (alu0 p d lit) s

/-- IADDI14: d plus the signed immediate, in place; a port is read, then written (R121). -/
def execIaddi14 (p : Option Pfx) (d : Code) (i : BitVec 14) (s : State) : Host.Outcome State Fault Refusal :=
  issueP p (alu1 p d d (fun x => intI32 (satBit p) (x.toInt + i.toInt))) s

end Sys2Proof.Machine
end

