-- ==== Sys2Proof/Machine/CrossLane.lean ====
section
/-! DEFINITION. Sys2Proof/Machine/CrossLane.lean: the instructions that read other lanes, votes, reductions and scans (R139 to R142, R64,
R65), and the packed integer dot products (R143, R63). -/

namespace Sys2Proof.Machine

/-! ### Reading other lanes (R139, R140) -/

/-- The segment width of a segment code. -/
def segWidth (y : Word) : Nat := 2 ^ (5 - min ((y.extractLsb' 5 3).toNat) 5)

/-- The lane value. -/
def laneVal (y : Word) : Nat := (y.extractLsb' 0 5).toNat

/-- Source lanes of the five forms, for thread t. -/
def shflLane (y : Word) (t : Nat) : Nat := t - t % segWidth y + laneVal y % segWidth y
def bflyLane (y : Word) (t : Nat) : Nat := t ^^^ (laneVal y % segWidth y)
def upLane (y : Word) (t : Nat) : Nat :=
  t - t % segWidth y + (t % segWidth y + (segWidth y - laneVal y % segWidth y)) % segWidth y
def dnLane (y : Word) (t : Nat) : Nat := t - t % segWidth y + (t % segWidth y + laneVal y) % segWidth y

/-- A form that reads register a of a chosen lane; every read comes before any write (R139). -/
def crossRead (p : Option Pfx) (d a b : Code) (src : (Nat → Word) → List Nat → Nat → Nat) : M Unit := do
  ensure (decide (a.toNat ≤ 95)) fcIllegalOperand
  checkOps [.dst d, .src a, .src b]
  let ex ← execLanes p
  let zl ← zeroLanes p
  let g ← getG
  let y ← readSrc b ex
  writeDst d ex zl (fun t => readV g.r a (src y ex t))

/-! ### Combining lanes (R64, R65, R141, R142) -/

/-- A form whose result is one function of the contributors' values, or of them and the thread. With no executing thread, a zeroing prefix
still writes its zeros (log 106). -/
def laneFold (p : Option Pfx) (d a : Code) (f : List Nat → (Nat → Word) → Nat → Word) : M Unit := do
  checkOps [.dst d, .src a]
  let ex ← execLanes p
  let zl ← zeroLanes p
  let x ← readSrc a ex
  writeDst d ex zl (fun t => f ex x t)

/-- The exact signed sum. -/
def sumI (ls : List Nat) (x : Nat → Word) : Int := ls.foldl (fun s t => s + (x t).toInt) 0

/-- The contributor that a strict order puts first. -/
def bestOf (better : Word → Word → Bool) (ls : List Nat) (x : Nat → Word) : Word :=
  match ls with
  | [] => 0
  | t :: ts => ts.foldl (fun m u => if better (x u) m then x u else m) (x t)

/-- One node of the lane tree (R64). -/
def nodeF (mode : Nat) : Option Word → Option Word → Option Word
  | some l, some r => some (BitVec.ofNat 32 (f32.round mode ((fv l).add mode (fv r))))
  | some l, none => some l
  | none, r => r

/-- One level of the lane tree. -/
def levelF (mode : Nat) : List (Option Word) → List (Option Word)
  | l :: r :: t => nodeF mode l r :: levelF mode t
  | l => l

/-- The lane tree's root over 32 lanes. -/
def treeF (mode : Nat) (vs : List (Option Word)) : Option Word :=
  ((levelF mode (levelF mode (levelF mode (levelF mode (levelF mode vs))))).head?).join

/-- The lanes' values, absent where a lane does not contribute. -/
def present (ls : List Nat) (x : Nat → Word) : List (Option Word) :=
  allLanes.map (fun t => if t ∈ ls then some (x t) else none)

/-- A float result: a NaN is canonical, then sat (R142). -/
def outF (p : Option Pfx) (w : Word) : Word := satW p (if isNanW w then BitVec.ofNat 32 f32.nan else w)

/-- One step of the scan (R65). -/
def scanStep (mode s : Nat) (vs : List (Option Word)) : List (Option Word) :=
  allLanes.map (fun i => if s ≤ i then nodeF mode ((vs[i - s]?).join) ((vs[i]?).join) else (vs[i]?).join)

/-- The scan. -/
def scanF (mode : Nat) (vs : List (Option Word)) : List (Option Word) := [1, 2, 4, 8, 16].foldl (fun v s => scanStep mode s v) vs

/-- minimumNumber or maximumNumber over the contributors. -/
def foldF (f : Word → Word → Word) (ls : List Nat) (x : Nat → Word) : Word :=
  match ls with
  | [] => 0
  | t :: ts => ts.foldl (fun m u => f m (x u)) (x t)

/-! ### Dot products (R63, R143) -/

/-- The sum of products of the n elements of w bits, signed or not. -/
def dotI (n w : Nat) (x y : Word) : Int :=
  (List.range n).foldl (fun s i => s + (x.extractLsb' (w * i) w).toInt * (y.extractLsb' (w * i) w).toInt) 0
def dotN (n w : Nat) (x y : Word) : Int :=
  (List.range n).foldl (fun s i => s + ((x.extractLsb' (w * i) w).toNat * (y.extractLsb' (w * i) w).toNat : Nat)) 0

/-! ### Meanings -/


/-- XSHFL: position n of the segment (R140). -/
def execXshfl (p : Option Pfx) (d a b : Code) (s : State) : Host.Outcome State Fault Refusal :=
  issueP p (crossRead p d a b (fun y _ t => shflLane (y t) t)) s

/-- XBFLY: lane t XOR n (R140). -/
def execXbfly (p : Option Pfx) (d a b : Code) (s : State) : Host.Outcome State Fault Refusal :=
  issueP p (crossRead p d a b (fun y _ t => bflyLane (y t) t)) s

/-- XUP: the segment rotated up (R140). -/
def execXup (p : Option Pfx) (d a b : Code) (s : State) : Host.Outcome State Fault Refusal :=
  issueP p (crossRead p d a b (fun y _ t => upLane (y t) t)) s

/-- XDN: the segment rotated down (R140). -/
def execXdn (p : Option Pfx) (d a b : Code) (s : State) : Host.Outcome State Fault Refusal :=
  issueP p (crossRead p d a b (fun y _ t => dnLane (y t) t)) s

/-- XBCAST: the lane that the lowest executing thread chooses (R140). -/
def execXbcast (p : Option Pfx) (d a b : Code) (s : State) : Host.Outcome State Fault Refusal :=
  issueP p (crossRead p d a b (fun y ex t => shflLane (lowest ex y) t)) s

/-- VOTEANY (R141). -/
def execVoteany (p : Option Pfx) (d a : Code) (s : State) : Host.Outcome State Fault Refusal :=
  issueP p (laneFold p d a (fun ex x _ => if ex.any (fun t => x t != 0) then 1 else 0)) s

/-- VOTEALL (R141). -/
def execVoteall (p : Option Pfx) (d a : Code) (s : State) : Host.Outcome State Fault Refusal :=
  issueP p (laneFold p d a (fun ex x _ => if ex.all (fun t => x t != 0) then 1 else 0)) s

/-- BALLOT (R141). -/
def execBallot (p : Option Pfx) (d a : Code) (s : State) : Host.Outcome State Fault Refusal :=
  issueP p (laneFold p d a (fun ex x _ => maskOf (ex.filter (fun t => x t != 0)))) s

/-- XRED.add.i (R64, R142). -/
def execXredAddI (p : Option Pfx) (d a : Code) (s : State) : Host.Outcome State Fault Refusal :=
  issueP p (laneFold p d a (fun ex x _ => intI32 (satBit p) (sumI ex x))) s

/-- XRED.add.f: the fixed lane tree (R64, R142). -/
def execXredAddF (p : Option Pfx) (d a : Code) (s : State) : Host.Outcome State Fault Refusal :=
  issueP p (laneFold p d a (fun ex x _ => outF p ((treeF (rndOf p) (present ex x)).getD 0))) s

/-- XRED.min.i (R64, R142). -/
def execXredMinI (p : Option Pfx) (d a : Code) (s : State) : Host.Outcome State Fault Refusal :=
  issueP p (laneFold p d a (fun ex x _ => bestOf (fun u m => decide (u.toInt < m.toInt)) ex x)) s

/-- XRED.max.i (R64, R142). -/
def execXredMaxI (p : Option Pfx) (d a : Code) (s : State) : Host.Outcome State Fault Refusal :=
  issueP p (laneFold p d a (fun ex x _ => bestOf (fun u m => decide (m.toInt < u.toInt)) ex x)) s

/-- XRED.min.f (R48, R64, R142). -/
def execXredMinF (p : Option Pfx) (d a : Code) (s : State) : Host.Outcome State Fault Refusal :=
  issueP p (laneFold p d a (fun ex x _ => outF p (foldF fminW ex x))) s

/-- XRED.max.f (R48, R64, R142). -/
def execXredMaxF (p : Option Pfx) (d a : Code) (s : State) : Host.Outcome State Fault Refusal :=
  issueP p (laneFold p d a (fun ex x _ => outF p (foldF fmaxW ex x))) s

/-- XSCAN.add.i: the inclusive sum (R65, R142). -/
def execXscanAddI (p : Option Pfx) (d a : Code) (s : State) : Host.Outcome State Fault Refusal :=
  issueP p (laneFold p d a (fun ex x t => intI32 (satBit p) (sumI (ex.filter (fun u => decide (u ≤ t))) x))) s

/-- XSCAN.add.f: the five-step scan (R65, R142). -/
def execXscanAddF (p : Option Pfx) (d a : Code) (s : State) : Host.Outcome State Fault Refusal :=
  issueP p (laneFold p d a (fun ex x t => outF p (((scanF (rndOf p) (present ex x))[t]?).join.getD 0))) s

/-- IDP4.ii (R63, R143). -/
def execIdp4Ii (p : Option Pfx) (d a b : Code) (s : State) : Host.Outcome State Fault Refusal :=
  issueP p (alu3 p d a b (fun x y z => intI32 (satBit p) (z.toInt + dotI 4 8 x y))) s

/-- IDP4.nn (R63, R143). -/
def execIdp4Nn (p : Option Pfx) (d a b : Code) (s : State) : Host.Outcome State Fault Refusal :=
  issueP p (alu3 p d a b (fun x y z => intN32 (satBit p) ((z.toNat : Int) + dotN 4 8 x y))) s

/-- IDP4S.ii: one final clamp (R63, R143). -/
def execIdp4sIi (p : Option Pfx) (d a b : Code) (s : State) : Host.Outcome State Fault Refusal :=
  issueP p (alu3 p d a b (fun x y z => intI32 true (z.toInt + dotI 4 8 x y))) s

/-- IDP4S.nn: one final clamp (R63, R143). -/
def execIdp4sNn (p : Option Pfx) (d a b : Code) (s : State) : Host.Outcome State Fault Refusal :=
  issueP p (alu3 p d a b (fun x y z => intN32 true ((z.toNat : Int) + dotN 4 8 x y))) s

/-- IDP2.ii (R63, R143). -/
def execIdp2Ii (p : Option Pfx) (d a b : Code) (s : State) : Host.Outcome State Fault Refusal :=
  issueP p (alu3 p d a b (fun x y z => intI32 (satBit p) (z.toInt + dotI 2 16 x y))) s

/-- IDP2S.ii: one final clamp (R63, R143). -/
def execIdp2sIi (p : Option Pfx) (d a b : Code) (s : State) : Host.Outcome State Fault Refusal :=
  issueP p (alu3 p d a b (fun x y z => intI32 true (z.toInt + dotI 2 16 x y))) s

end Sys2Proof.Machine
end

