-- ==== Sys2Proof/Machine/EvTasks.lean ====
section
/-! DEFINITION. Sys2Proof/Machine/EvTasks.lean: the steps of the queue units: pops, staging and starts (R35, R97, R305, R307), stealing (R38,
R309, R310, R315), the dependence graph and futures (R303, R308, R314, R318), and the arrival of channel slots and run-ahead lines
(R324, R326, R330). A step about something that is gone changes nothing. -/

namespace Sys2Proof.Machine

/-! ### Pops and starts -/

/-- OWNER_POP (R305). -/
def execOwnerPop (c : Nat) (s : State) : Host.Outcome State Fault Refusal := .next (ownerPopCore s c)

/-- TASK_START (R97). -/
def execTaskStart (c : Nat) (s : State) : Host.Outcome State Fault Refusal := .next (startStaged s c)

/-- The staging lines of a deque entry, its closure line read in the grid's PASID; none where the line cannot be read now. -/
def entryLines (s : State) (c p : Nat) (e : DqEntry) : Option (List Nat) × State :=
  match engineAddrs s c p (caOf e.cline) 128 false .prefetch with
  | (.error _, s) => (none, s)
  | (.ok pas, s) =>
    let pas := pas.map homePa
    match unitRead s pas with
    | none => (none, s)
    | some s =>
      if (poisonAt s pas).isSome then (none, s)
      else
        let (ls, s) := stagingLines s c p (dwsOf (natOfBytes (pas.map (memByte s))))
        (some ls, s)

/-- An entry none of whose lines is absent is eagerly staged: its STG rises (R304). -/
def markStaged (c p : Nat) (s : State) (e : DqEntry) : State :=
  if e.stg then s
  else match entryLines s c p e with
  | (none, s) => s
  | (some ls, s) =>
    if ls.any (missing (coreAt s c)) then s
    else modCore s c (fun k => { k with deque := k.deque.map (fun x => if x = e then { x with stg := true } else x) })

/-- Eager staging of one entry near the hot end: absent lines are asked for, and with none absent the entry's STG rises (R35, R304). -/
def eagerEntry (c p : Nat) (s : State) (e : DqEntry) : State :=
  if e.stg then s
  else match entryLines s c p e with
  | (none, s) => s
  | (some ls, s) => markStaged c p (ls.foldl (stageLine c) s) e

/-- The prefetch engine stages the eight entries nearest the hot end (R35), unless the core's context is being stopped (R354). -/
def eagerStage (s : State) (c : Nat) : State :=
  match coreGrid s c with
  | none => s
  | some (_, g) => if (coreAt s c).stopReq then s else ((coreAt s c).deque.reverse.take 8).foldl (eagerEntry c g.pasid) s

/-- EAGER_STAGING (R35). -/
def execEagerStaging (c : Nat) (s : State) : Host.Outcome State Fault Refusal := .next (eagerStage s c)

/-- The hold on the lines of the task of a closure line ends (R307). -/
def endHold (s : State) (c cline : Nat) : State :=
  kick (modCore s c (fun k => { k with
    staged := k.staged.map (fun x => if x.e.cline.toNat = cline ∧ x.deadline ≠ 0 ∧ x.deadline ≤ s.clk then { x with held := [] } else x)
    teams := k.teams.map (fun (e : Nat × Team) =>
      if (e.2.tasks.head?).map (fun t => (clineOf t.ca).toNat) = some cline ∧ e.2.heldEnd ≤ s.clk then (e.1, { e.2 with held := [] }) else e) })) c

/-- STAGE_HOLD_EXPIRY (R307). -/
def execStageHoldExpiry (c cline : Nat) (s : State) : Host.Outcome State Fault Refusal := .next (endHold s c cline)

/-- The bound prefetches of a line are present (R414); others whose line is in no fill table are asked for again. -/
def boundPresent (s : State) (c line : Nat) : State :=
  let (now, rest) := (coreAt s c).boundFills.partition (fun e => e.1 == line)
  let s := now.foldl (fun s e => send s c (barHome s e.2) (.pendingLinePresent e.2)) (modCore s c (fun k => { k with boundFills := rest }))
  rest.foldl (fun s e => requestLine c s e.1) s

/-- A line arrives at a core: it leaves the fill table, and the staging that waits for it goes on (R195, R304, R307). -/
def fillArrives (s : State) (c line : Nat) : State :=
  let k := coreAt s c
  if line ∈ k.fills then
    let p := ((coreGrid s c).map (fun g => g.2.pasid)).getD 0
    let s := fillLine (modCore s c (fun k => { k with fills := k.fills.filter (fun l => !(l == line)) })) c p line
    let s := if line ∈ heldLines k then markAhead c s line else s
    let s := boundPresent (((coreAt s c).deque.reverse.take 8).foldl (markStaged c p) s) c line
    if k.staged.any (fun x => decide (line ∈ x.held)) then send s c c (.taskStart c) else s
  else s

/-- FILL_RETURN (R195). -/
def execFillReturn (c line : Nat) (s : State) : Host.Outcome State Fault Refusal := .next (fillArrives s c line)

/-! ### Stealing (R37 to R39) -/

/-- LTHRESH allows the thief to cross dies (R38). -/
def mayCross (s : State) (c : Nat) : Bool := decide (((coreGrid s c).map (fun g => g.2.lthresh)).getD 0 ≤ 4096)

/-- The place after the victim last tried in a ring. -/
def stealPtr (x : Steal) (r : Nat) : Nat := if r = 0 then x.ptr0 else if r = 1 then x.ptr1 else x.ptr2

/-- The next victim and its ring, `n` rings still to look at: a ring every victim of which has answered STEALNO is passed over. `far`: the thief
may cross dies. -/
def pickVictim (s : State) (c : Nat) (far : Bool) : Nat → Nat → Nat → Option (Nat × Nat × Nat)
  | 0, _, _ => none
  | n + 1, r, tries =>
    let ring := if r = 2 ∧ !far then [] else stealRing s c r
    if tries < ring.length then (nextVictim ring (stealPtr (coreAt s c).steal r)).map (fun v => (r, v, tries + 1))
    else pickVictim s c far n ((r + 1) % 3) 0

/-- A core is idle for its grid (R37). -/
def stealIdle (s : State) (c : Nat) : Bool :=
  let k := coreAt s c
  (freeTeam s c).isSome && k.deque.isEmpty && !k.steal.out

/-- Flits of the steal messages, charged where they are sent and received (R309, R407). -/
def stealFlits (s : State) (c n : Nat) : State := charge s (ctrKey 1 c 17) n

/-- An idle core sends a STEALREQ to its next victim; with no victim that it may try it looks again later (R38). A request to another die that
its steal budget does not admit is refused, and the next victim on its own die is tried (R405, R407). -/
def stealTry (s : State) (c : Nat) : State :=
  if !stealIdle s c then s
  else
    let x := (coreAt s c).steal
    let first := pickVictim s c (mayCross s c) 4 x.ring x.tries
    let short := decide (first.map (·.1) = some 2) && !admits s (ctrKey 1 c 17)
    let s := if short then refuseAdmission s (ctrKey 1 c 17) else s
    match if short then pickVictim s c false 4 x.ring x.tries else first with
    | none => if x.victims = 0 then s else after s 1100 (.stealTry c)
    | some (r, v, tries) =>
      let s := modCore s c (fun k => { k with steal := { k.steal with
        out := true, ring := r, tries := tries, num := k.steal.num + 1
        ptr0 := if r = 0 then v + 1 else k.steal.ptr0
        ptr1 := if r = 1 then v + 1 else k.steal.ptr1
        ptr2 := if r = 2 then v + 1 else k.steal.ptr2 } })
      send (stealFlits s c 1) c v (.stealreq c v ⟨r == 2, (coreAt s c).steal.num⟩)

/-- STEAL_TRY (R38). -/
def execStealTry (c : Nat) (s : State) : Host.Outcome State Fault Refusal := .next (stealTry s c)

/-- The items left in a piece, on committed values (R315). -/
def pieceLeft (s : State) (c i : Nat) : Nat :=
  let (next, hi) := cursorAt s c i
  hi.toNat - next.toNat

/-- The piece with the most remaining items, if it qualifies for a split (R310, R315). -/
def splitPiece (s : State) (c : Nat) : Option Nat :=
  let ps := (coreAt s c).pieces.map (fun e => (e.1, pieceLeft s c e.1))
  (ps.find? (fun e => decide (64 ≤ e.2) && ps.all (fun f => decide (f.2 ≤ e.2)))).map (·.1)

/-- The answer STEALNO. -/
def stealRefuse (s : State) (thief victim : Nat) : State :=
  send (stealFlits s victim 1) victim thief (.stealno thief victim (coreAt s victim).deque.length)

/-- A victim's answer, at the end of a clk in which no other thief has taken an entry (R305, R310): a thief of another grid is given
nothing (R24), and a corked core answers STEALNO (R388). -/
def stealAnswer (s : State) (thief victim : Nat) (cross : Bool) : State :=
  let k := coreAt s victim
  let thresh := ((coreGrid s victim).map (fun g => g.2.lthresh)).getD 0
  let i := k.deque.findIdx (fun e => !e.clm)
  if k.grid ≠ (coreAt s thief).grid ∨ k.role ≠ 0 then stealRefuse s thief victim
  else match k.deque[i]? with
  | some e =>
    if cross && decide (k.deque.length < thresh) then stealRefuse s thief victim
    else
      let s := dqDone (modCore s victim (fun k => { k with deque := k.deque.eraseIdx i })) victim 5
      let s := coreCtr (stealFlits (leftDeque s victim) victim 3) victim 8 1
      send s victim thief (.stealent thief victim { e with stg := false })
  | none =>
    match splitPiece s victim with
    | some i => if cross then stealRefuse s thief victim else send s victim victim (.splitCommit victim i thief)
    | none => stealRefuse s thief victim

/-- A request arrives at its victim, which serves it at the end of the clk, 4 clk after it came (log 90), one entry a clk (R305). -/
def stealServe (s : State) (thief victim : Nat) (q : StealReq) : State :=
  if (thief, q.num) ∉ (coreAt s victim).reqQ then
    after (stealFlits (modCore s victim (fun k => { k with reqQ := k.reqQ ++ [(thief, q.num)] })) victim 1) 4 (.stealreq thief victim q)
  else if dqBusy s victim 5 then after s 1 (.stealreq thief victim q)
  else stealAnswer (modCore s victim (fun k => { k with reqQ := k.reqQ.erase (thief, q.num) })) thief victim q.cross

/-- STEALREQ (R310). -/
def execStealreq (thief victim : Nat) (req : StealReq) (s : State) : Host.Outcome State Fault Refusal :=
  .next (stealServe s thief victim req)

/-- A thief takes what it has been given: the request is over, and the task is staged (R35, R309). A core that has left its grid since, with
the grid's abort, takes nothing. -/
def stealTake (s : State) (thief : Nat) (e : DqEntry) : State :=
  if !(coreAt s thief).steal.out then s
  else
  let s := modCore s thief (fun k => { k with steal := { k.steal with out := false, ring := 0, tries := 0 } })
  send (stageEntry (coreCtr (stealFlits s thief 3) thief 7 1) thief e) thief thief (.ownerPop thief)

/-- STEALENT (R309). -/
def execStealent (thief _victim : Nat) (e : DqEntry) (s : State) : Host.Outcome State Fault Refusal := .next (stealTake s thief e)

/-- STEALSPL: the range becomes an entry of the range task at the thief (R315). -/
def execStealspl (thief _victim cline : Nat) (lo hi : BitVec 32) (s : State) : Host.Outcome State Fault Refusal :=
  let shape := ((coreGrid s thief).map (fun g => Nat.log2 g.2.team)).getD 0
  .next (stealTake s thief { cline := BitVec.ofNat 50 cline, shape := BitVec.ofNat 2 shape, kind := 1, stg := false, clm := false
                             lo := lo, hi := hi, result := 0 })

/-- STEALNO: the thief goes on at once to the next victim (R38). -/
def execStealno (thief _victim _depth : Nat) (s : State) : Host.Outcome State Fault Refusal :=
  let s := modCore s thief (fun k => { k with steal := { k.steal with out := false } })
  .next (stealTry (coreCtr (stealFlits s thief 1) thief 9 1) thief)

/-- The split of a piece's cursor commits as a chunk of its own (R223, R315): it asks the Press of its line, waits for live chunks that its line
meets, squashes the open chunks that took from the piece, and the upper half goes to the thief. -/
def splitCommit (s : State) (c i thief : Nat) : State :=
  let me := splitRef c i thief
  match aget (coreAt s c).pieces i with
  | none => stealRefuse (askOver s me) thief c
  | some p =>
    let (next, hi) := cursorAt s c i
    let r := hi.toNat - next.toNat
    if r < 64 then stealRefuse (askOver s me) thief c
    else if (askOf s me).isNone then askPress s me [cursorLine c i] (.splitCommit c i thief)
    else if !askGranted s me then s
    else if heldByLive s (sigOf [cursorLine c i]) none then after s 4 (.splitCommit c i thief)
    else
      let mid := hi.toNat - r / 2
      let s := performWrite (askOver s me) none (bytesAt (128 * cursorLine c i) (bytesOf 8 (next.toNat + 2 ^ 32 * mid)))
      let s := gliveAdd (coreCtr (stealFlits s c 3) c 8 1) p.grid 1
      send s c thief (.stealspl thief c (clineOf p.ca).toNat (BitVec.ofNat 32 mid) hi)

/-- SPLIT_COMMIT (R315). -/
def execSplitCommit (c piece thief : Nat) (s : State) : Host.Outcome State Fault Refusal := .next (splitCommit s c piece thief)

/-! ### The dependence graph (R308) -/

/-- FREG: the home records a waiter, or answers (R308). -/
def execFreg (node : NodeRef) (h : BitVec 64) (s : State) : Host.Outcome State Fault Refusal :=
  .next (registerNode s (nodeCtx s node) node h)

/-- A dependency of an inline call is satisfied; with the last, its team may start it (R317, R319). -/
def callReady (s : State) (c idx : Nat) : State :=
  let slot := (idx - 4096) % 64
  let j := (idx - 4096) / 64 % 2
  let tag := (idx - 4096) / 128
  match groupAt s c slot with
  | none => s
  | some g =>
    match (teamAt s c g.team).call with
    | none => s
    | some p =>
      if p.tag ≠ tag then s
      else
        let deps := p.deps - p.deps / 2 ^ j % 2 * 2 ^ j
        let s := modTeam s c g.team (fun t => { t with call := some { p with deps := deps } })
        startCall ((teamSlots s c g.team).foldl (fun s i => endIfBlocked s c i false) s) c g.team

/-- A predecessor count falls (R308). -/
def nodeReady (s : State) (node : NodeRef) : State :=
  if node.isCopy then copyNodeReady s node.idx
  else if 4096 ≤ node.idx then callReady s node.core node.idx
  else poolNodeReady s node.core node.idx

/-- FREADY (R308). -/
def execFready (node : NodeRef) (s : State) : Host.Outcome State Fault Refusal := .next (nodeReady s node)

/-- WAITFULL: the node's core polls the future every 1 µs (R308). -/
def execWaitfull (node : NodeRef) (h : BitVec 64) (s : State) : Host.Outcome State Fault Refusal :=
  .next (after s 1100 (.fqueryPoll node h))

/-- The node of such a query. -/
def pollNode (core slot : Nat) : NodeRef := { core := core, isCopy := slot % 2 == 1, idx := (slot - 64) / 2 }

/-- FQUERY_POLL: the node's core queries the home (R308, R309). -/
def execFqueryPoll (node : NodeRef) (h : BitVec 64) (s : State) : Host.Outcome State Fault Refusal :=
  .next (send s node.core (hHome h) (.fquery node.core (pollSlot node) h))

/-! ### Futures (R303, R314, R318) -/

/-- FRESV (R303). -/
def execFresv (_core : Nat) (ctx : BitVec 32) (h v : BitVec 64) (s : State) : Host.Outcome State Fault Refusal :=
  .next (resolveAt s ctx h v)

/-- ITEMDONE (R314). -/
def execItemdone (core : Nat) (h : BitVec 64) (n : Nat) (s : State) : Host.Outcome State Fault Refusal :=
  .next (itemsDone s (nodeCtx s { core := core, isCopy := false, idx := 0 }) h n)

/-- The context of the group in a slot, or of the node that a queue unit polls for. -/
def slotCtx (s : State) (c slot : Nat) : Word :=
  if slot < 64 then ((groupAt s c slot).map (ctxidOf s)).getD 0 else nodeCtx s (pollNode c slot)

/-- FQUERY: the home answers with FSTATE (R309). -/
def execFquery (core slot : Nat) (h : BitVec 64) (s : State) : Host.Outcome State Fault Refusal :=
  let (st, v) := futState s (slotCtx s core slot) h
  .next (send s (hHome h) core (.fstate core slot h st v))

/-- The reply to a queue unit's poll: a future found resolved, free or stale counts as FREADY; an open one is polled again in 1 µs
(R308). -/
def pollReply (s : State) (node : NodeRef) (h : Dword) (st : Nat) : State :=
  if st = 0 then after s 1100 (.fqueryPoll node h) else nodeReady s node

/-- FSTATE: the reply that a stalled group, or a polling queue unit, waits for (R308, R318). -/
def execFstate (core slot : Nat) (h : BitVec 64) (st : Nat) (v : BitVec 64) (s : State) : Host.Outcome State Fault Refusal :=
  .next (if 64 ≤ slot then pollReply s (pollNode core slot) h st
    else modGroup s core slot (fun g => { g with
      query := g.query.map (fun q => if q.h = h ∧ q.reply.isNone then { q with reply := some (st, v) } else q) }))

/-- FWAIT: the home registers a parked joiner, or wakes it at once (R318). -/
def execFwait (core slot : Nat) (h : BitVec 64) (s : State) : Host.Outcome State Fault Refusal :=
  match groupAt s core slot with
  | none => .next s
  | some g => .next (registerJoiner s (ctxidOf s g) core slot h)

/-- The lanes of a group parked in a JOIN on a future, with their destinations. -/
def joiners (r : GRegs) (h : Dword) : List (Nat × Code) :=
  allLanes.filterMap (fun t => match sget .run r.thr t with
    | .join h' d => if h' = h then some (t, d) else none
    | _ => none)

/-- Parked threads resume with the value (R318). -/
def joinWake (h v : Dword) (r : GRegs) : GRegs :=
  let js := joiners r h
  let ls := js.map (·.1)
  let r := js.foldl (fun r j => writePairR r j.2 [j.1] [] (fun _ => v)) (setThr r ls .run)
  setPcs r (ls.map (fun t => (t, sget 0 r.pc t + 4)))

/-- A WAKE at the joiner's core: the parked threads go on with the value in a new chunk, or fault FUTURE_STALE at their JOIN. A value
that finds none parked is kept for the JOIN that issues again. -/
def wakeJoiners (s : State) (c slot : Nat) (h : Dword) (stale : Bool) (v : Dword) : State :=
  match groupAt s c slot with
  | none => s
  | some g =>
    let js := joiners g.r h
    match js with
    | [] => if stale then s else modGroup s c slot (fun g => { g with wakes := g.wakes ++ [(h, stale, v)] })
    | j :: _ =>
      if stale then
        let ls := js.map (·.1)
        faultGroup (wakeThreads s c slot (fun r => setThr r ls .run)) c slot ls (sget 0 g.r.pc j.1)
          { code := fcFutureStale, lane := j.1, addr := h.toNat }
      else wakeThreads s c slot (joinWake h v)

/-- WAKE (R318). -/
def execWake (core slot : Nat) (h : BitVec 64) (stale : Bool) (v : BitVec 64) (s : State) : Host.Outcome State Fault Refusal :=
  .next (wakeJoiners s core slot h stale v)

/-- FFREE (R303). -/
def execFfree (_core : Nat) (h : BitVec 64) (s : State) : Host.Outcome State Fault Refusal := .next (freeAt s h)

/-! ### Yield windows, channels and streams -/

/-- TYIELD_WINDOW_END (R324). -/
def execTyieldWindowEnd (core slot : Nat) (s : State) : Host.Outcome State Fault Refusal :=
  .next (modGroup s core slot (fun g => { g with yieldLeft := 0 }))

/-- CHANNEL_SLOT_ARRIVAL: the slot joins the receive end's buffer (R326). -/
def execChannelSlotArrival (core chan : Nat) (x : ChanSlot) (s : State) : Host.Outcome State Fault Refusal :=
  .next (modChan s core chan (fun k => { k with buf := k.buf ++ [x] }))

/-- The stream at the next `n` positions (R330). -/
def streamAhead (r : GRegs) (port : Nat) : Nat → List Stream
  | 0 => []
  | n + 1 =>
    match aget r.streams port with
    | none => []
    | some x => x :: streamAhead (advancePort r port 1 x) port n

/-- The run-ahead of a load stream: the lines of up to 16 positions come into L1, with no signature (R330). -/
def runAhead (s : State) (c slot port : Nat) : State :=
  match groupAt s c slot with
  | none => s
  | some g =>
    let t := ((streamAhead g.r port 16).filter (fun x => !x.store && !x.scr)).foldl (fun s x =>
      (liveLanes g).foldl (fun s t => match (engineAddrs s c g.pasid (streamAddr x t) (2 ^ x.esz) false .stream) with
        | (.ok pas, s) => ((pas.filter (fun a => inHbm a && !heldRead s none (a / 128) && !readStalls s c (a / 128))).map (· / 128)).dedup.foldl (fun s l =>
            if missing (coreAt s c) l then markAhead c (touchLine s c l) l else touchLine s c l) s
        | (.error _, s) => s) s) { s with cur := { s.cur with core := c, slot := slot } }
    { t with cur := s.cur }

/-- STREAM_RUNAHEAD (R330). -/
def execStreamRunahead (core slot port : Nat) (s : State) : Host.Outcome State Fault Refusal := .next (runAhead s core slot port)

end Sys2Proof.Machine
end

