-- ==== Sys2Proof/Machine/Matrix.lean ====
section
/-! DEFINITION. Sys2Proof/Machine/Matrix.lean: the matrix instructions (R273, R275, R279, R283 to R285, R288 to R292), and the arithmetic of a
matrix step (R59 to R62, R286). -/

namespace Sys2Proof.Machine

/-! ### The arithmetic of a step (R59 to R62, R286) -/

/-- An entry of a codebook is one that R47 allows. -/
def bookOk (e : Nat) : Bool :=
  let x := e / 2 ^ 7 % 2 ^ 8
  e % 2 ^ 15 == 0 || (decide (103 ≤ x) && decide (x ≤ 150))

/-- The value of an element of an image: its layout, tag and codebook, and the row's 64 data bytes. -/
def elemVal (lay tag : Nat) (book : Nat → Nat) (row : List Nat) (kk : Nat) : FVal :=
  if lay = 1 then bf16.val (row.getD (2 * kk) 0 + 256 * row.getD (2 * kk + 1) 0)
  else if lay = 2 then bf16.val (book (row.getD (kk / 2) 0 / 16 ^ (kk % 2) % 16))
  else
    let b := row.getD kk 0
    if tag = 0 then e4m3.val b else if tag = 1 then e5m2.val b else ofIntVal (BitVec.ofNat 8 b).toInt

/-- The 64 data bytes of image row `r` in a slab, `rd` reading a byte at an offset from its start. -/
def rowBytes (rd : Nat → Nat) (rowp rot r : Nat) : List Nat := (List.range 64).map (fun j => rd (imgByte rowp rot r j))

/-- The value v of a block sum (R59). -/
def blockVal (mode : Nat) (ps : List FVal) (sa sb : Nat) : Nat :=
  if sa = 0xFF ∨ sb = 0xFF ∨ ps.any (fun p => decide (p = .nan)) then f32.nan
  else if ps.any (fun p => decide (p = .inf false)) && ps.any (fun p => decide (p = .inf true)) then f32.nan
  else match ps.find? (fun p => match p with | .inf _ => true | _ => false) with
    | some p => f32.round mode p
    | none =>
      match ps.foldl (FVal.add 0) (.fin false 0 0) with
      | .fin neg m e => if m = 0 then 0 else f32.round mode (.fin neg m (e + (sa : Int) + (sb : Int) - 254))
      | p => f32.round mode p

/-- acc + v, rounded. -/
def accAdd (mode acc v : Nat) : Nat := f32.round mode (FVal.add mode (f32.val acc) (f32.val v))

/-- The integer of an exact integer value. -/
def intOf : FVal → Int
  | .fin neg m e => (if neg then -1 else 1) * ((m : Int) * 2 ^ e.toNat)
  | _ => 0

/-- One block of an element: float or integer accumulation (R59, R62). -/
def blockUpdate (ai : Bool) (mode : Nat) (ps : List FVal) (sa sb acc : Nat) : Nat :=
  if ai then
    let v := (BitVec.ofNat 32 acc).toInt + (ps.map intOf).sum
    (BitVec.ofInt 32 (clampInt (-2147483648) 2147483647 v)).toNat
  else accAdd mode acc (blockVal mode ps sa sb)

/-- A level of the fixed tree: adjacent pairs, the lower index on the left. -/
def treeLevel : List Nat → List Nat
  | a :: b :: r => accAdd 0 a b :: treeLevel r
  | r => r

/-- The sum of 32 rounded products by the tree of R61. -/
def treeSum (ps : List Nat) : Nat := (treeLevel (treeLevel (treeLevel (treeLevel (treeLevel ps))))).headD 0

/-- One slab's update of an element (R286). `va`, `vb` are the elements of its row and column, `sa`, `sb` their scale bytes by block. -/
def slabUpdate (w : Word) (va vb : List FVal) (sa sb : List Nat) (acc : Nat) : Nat :=
  let mode := (mmaAcm w).toNat
  let ps := (va.zip vb).map (fun p => FVal.mul p.1 p.2)
  if mmaLayA w = 1 then accAdd mode acc (treeSum (ps.map (f32.round 0)))
  else (List.range (imgScales (mmaLayA w))).foldl (fun acc bb =>
    blockUpdate (mmaAi w) mode ((ps.drop (32 * bb)).take 32) (sa.getD bb 0) (sb.getD bb 0) acc) acc

/-- The rows of an operand's slab: for each, its data bytes and its scale bytes. -/
def slabRows (s : State) (c : Nat) (x : Dword) (lay nr step : Nat) : List (List Nat × List Nat) :=
  let start := imgSlab x step
  let rd := fun (o : Nat) => (scrByte s c (start + BitVec.ofNat 32 o)).toNat
  (List.range nr).map (fun r => (rowBytes rd (imgRowp x) (imgRot x) r,
    (List.range (imgScales lay)).map (fun bb => rd (imgScaleByte lay nr (imgRowp x) r bb))))

/-- A codebook slot of a team. -/
def bookOf (t : Team) (slot e : Nat) : Nat := (sget 0 t.cb (16 * slot + e)).toNat

/-- The tile after one step of an MMA, as its elements (i, j). -/
def stepTile (s : State) (o : EngOp) : List (List Word) :=
  let w := o.word
  let t := teamAt s o.core o.team
  let k := coreAt s o.core
  let ra := slabRows s o.core o.opA (mmaLayA w) 96 o.next
  let rb := slabRows s o.core o.opB (mmaLayB w) 128 o.next
  let vals := fun (lay tag slot : Nat) (r : List Nat × List Nat) =>
    ((List.range (imgKs lay)).map (elemVal lay tag (bookOf t slot) r.1), r.2)
  let ea := ra.map (vals (mmaLayA w) (mmaTagA w) (mmaCba w))
  let eb := rb.map (vals (mmaLayB w) (mmaTagB w) (mmaCbb w))
  let clr := mmaClr w && decide (o.next = 0)
  let phys := o.phys.headD 0
  ea.zipIdx.map (fun a => eb.zipIdx.map (fun b =>
    BitVec.ofNat 32 (slabUpdate w a.1.1 b.1.1 a.1.2 b.1.2 (if clr then 0 else (tileGet k phys a.2 b.2).toNat))))

/-- The charge of a step (R293): 32 and one for each 4,096 data bits that are 1. -/
def stepCharge (s : State) (o : EngOp) : Nat :=
  let ones := fun (rs : List (List Nat × List Nat)) => ((rs.flatMap (·.1)).map (onesBelow 8)).sum
  32 + (ones (slabRows s o.core o.opA (mmaLayA o.word) 96 o.next) + ones (slabRows s o.core o.opB (mmaLayB o.word) 128 o.next) + 4095) / 4096

/-- Rows of a tile set from words, row by row. -/
def putRows (m : Sparse Word) (phys first : Nat) (rows : List (List Word)) : Sparse Word :=
  let lo := tileKey phys first 0
  let hi := tileKey phys (first + rows.length) 0
  let new := (rows.flatten.zipIdx.map (fun e => (lo + e.2, e.1))).filter (fun e => decide (e.2 ≠ 0))
  m.filter (fun e => e.1 < lo) ++ new ++ m.filter (fun e => decide (hi ≤ e.1))

/-! ### Issue of engine operations (R280, R282) -/

/-- The group has room for one more engine operation, at most 16, of which at most 8 are MMAs. -/
def opRoom (s : State) (mma : Bool) : Bool :=
  let os := groupOps s s.cur.core s.cur.slot
  decide (os.length < 16) && (!mma || decide ((os.filter (fun o => o.kind == 3)).length < 8))

/-- An engine operation of the group, held until commit. -/
def engineOp (kind : Nat) (w : Word) (a b : Dword) (bytes : List Byte) : M Unit := do
  let room ← getS (fun s => opRoom s (kind == 3))
  waitFor room
  let g ← getG
  let c ← getS (·.cur.core)
  deferM (.engine { core := c, team := g.team, gi := g.gi, kind := kind, word := w, opA := a, opB := b, bytes := bytes
                    arrived := [], next := 0, order := 0, waitSince := 0, differ := false, phys := [] })

/-- Names held as the group sees them. -/
def heldM : M (BitVec 8) := getS (fun s => heldNames s s.cur.core s.cur.slot)

/-- A mask operand of names: bits above 7 are refused, and names not held. -/
def nameMask (a : Code) : M (BitVec 8) := do
  let x ← (do
    let ex ← execLanes none
    let v ← readSrc a ex
    pure (lowest ex v) : M Word)
  ensure (decide (x.toNat < 256)) fcIllegalOperand
  let held ← heldM
  ensure (decide (x.setWidth 8 &&& ~~~held = 0)) fcAccRange
  pure (x.setWidth 8)

/-- The lowest executing thread's value of an operand. -/
def lowOf (a : Code) : M Word := do
  let ex ← execLanes none
  let v ← readSrc a ex
  pure (lowest ex v)

/-- The report of a recorded engine fault (R292). -/
def reportFault : M Unit := do
  let t ← getTeam
  match t.efault with
  | none => pure ()
  | some f => faultM { code := f.code, engine := true, opkind := f.kind, opword := f.word, addr := f.addr }

/-! ### ACCALLOC, ACCFREE, ACCZERO (R273, R275, R288) -/

/-- ACCALLOC: waits in the allocation queue, and at its grant takes the new names, or the status VICTIM. -/
def accallocM (d a : Code) : M Unit := do
  checkOps [.dst d, .src a]
  let ex ← execLanes none
  let n := (← lowOf a).toNat
  let c ← getS (·.cur)
  let k ← getCore
  match k.accQ.find? (fun r => r.slot == c.slot && r.pc == c.pc) with
  | some { granted := some w, .. } => do
    modC (fun k => { k with accQ := k.accQ.filter (fun r => !(r.slot == c.slot && r.pc == c.pc)) })
    if w.getLsbD 8 then pure ()
    else do
      modR (fun r => { r with accOwn := r.accOwn ||| w.setWidth 8 })
      deferM (.accNames (w.setWidth 8))
    writeDst d ex [] (fun _ => w)
  | some _ => stallM
  | none => do
    let held ← heldM
    ensure (decide (n ≠ 0) && decide (n + popBits held ≤ 8)) fcIllegalOperand
    fun _ => .error (.accAlloc n)

/-- ACCFREE. -/
def accfreeM (a : Code) : M Unit := do
  checkOps [.src a]
  let mask ← nameMask a
  engineOp 5 (mask.setWidth 32) 0 0 []
  modR (fun r => { r with accGone := r.accGone ||| mask })

/-- ACCZERO. -/
def acczeroM (a : Code) : M Unit := do
  checkOps [.src a]
  let mask ← nameMask a
  engineOp 0 (mask.setWidth 32) 0 0 []

/-! ### ACCLD and ACCST (R288) -/

/-- ACCLD and ACCST. -/
def accRowsM (kind : Nat) (d a b : Code) : M Unit := do
  checkOps [.src d, .src a, .src b]
  let sa ← lowOf a
  let rc ← lowOf b
  let name ← lowOf d
  let x := dwordOf sa rc
  ensure (decide (name.toNat < 8) && decide (rc.toNat < 2 ^ 16)) fcIllegalOperand
  if sa.toNat % 128 ≠ 0 then faultM { code := fcMisaligned, addr := sa.toNat }
  else do
    let held ← heldM
    ensure (held.getLsbD name.toNat && decide (rowCount x ≠ 0) && decide (rowFirst x + rowCount x ≤ 96)) fcAccRange
    let c ← getS (·.cur.core)
    let bad ← getS (fun s => scrBadLine s c sa (512 * rowCount x))
    match bad with
    | some a => faultM { code := fcScratchRange, wr := kind == 2, addr := a.toNat }
    | none => engineOp kind name x 0 []

/-! ### CBLOAD (R279) -/

/-- CBLOAD. -/
def cbloadM (a b : Code) : M Unit := do
  checkOps [.src a, .src b]
  let ex ← execLanes none
  let slot ← lowOf a
  let addr ← lowOf b
  ensure (decide (slot.toNat < 4)) fcIllegalOperand
  let cs ← checkScratch false 32 [ex.headD 0] (fun _ => addr)
  let v ← performReads cs
  let bytes := bytesOf 32 (v (ex.headD 0))
  let es := (List.range 16).map (fun e => v (ex.headD 0) / 2 ^ (16 * e) % 2 ^ 16)
  if !(es.all bookOk) then faultM { code := fcCodebookRange, addr := addr.toNat } else pure ()
  engineOp 4 slot 0 0 bytes

/-! ### MMA (R283, R284) -/

/-- Check 1 of R284. -/
def mmaWordOk (w : Word) : Bool :=
  let la := mmaLayA w
  let lb := mmaLayB w
  decide (w.toNat / 2 ^ 27 = 0) && la != 3 && lb != 3 && mmaTagA w != 3 && mmaTagB w != 3
    && (la == 0 || mmaTagA w == 0) && (lb == 0 || mmaTagB w == 0)
    && (la == lb || (la == 0 && lb == 0))
    && (!mmaAi w || (la == 0 && lb == 0 && mmaTagA w == 2 && mmaTagB w == 2))
    && !(mmaAcm w && mmaAi w)
    && (la == 2 || (mmaCba w == 0 && mmaCbb w == 0))

/-- Check 3 of R284 on an operand pair. -/
def imgOk (x : Dword) (lay nr : Nat) : Bool :=
  imgZero x && decide (4 ≤ imgRowp x) && decide (imgRowp x ≤ 16) && decide (slabLines lay nr (imgRowp x) ≤ imgSlabp x)

/-- A k register, even for a pair. -/
def isK (c : Code) : Bool := decide (96 ≤ c.toNat) && decide (c.toNat ≤ 111)

/-- MMA. -/
def mmaM (d a b : Code) : M Unit := do
  ensure (isK d && isK a && isK b && a.toNat % 2 == 0 && b.toNat % 2 == 0) fcIllegalOperand
  let w ← lowOf d
  let x ← lowPair a
  let y ← lowPair b
  let g ← getG
  ensure (mmaWordOk w && mmaSeq w == g.r.seq) fcIllegalOperand
  ensure (imgOk x (mmaLayA w) 96 && imgOk y (mmaLayB w) 128) fcIllegalOperand
  if (imgBase x).toNat % 128 ≠ 0 then faultM { code := fcMisaligned, addr := (imgBase x).toNat }
  else if (imgBase y).toNat % 128 ≠ 0 then faultM { code := fcMisaligned, addr := (imgBase y).toNat }
  else do
    let held ← heldM
    ensure (held.getLsbD (mmaAcc w)) fcAccRange
    let c ← getS (·.cur.core)
    let bad ← getS (fun s => (slabsBad s c (mmaLayA w) 96 x (mmaNstep w)).or (slabsBad s c (mmaLayB w) 128 y (mmaNstep w)))
    match bad with
    | some a => faultM { code := fcScratchRange, addr := a.toNat }
    | none => do
      engineOp 3 w x y []
      modR (fun r => { r with seq := r.seq + 1 })

/-! ### ACCEPI (R289) -/

/-- Conversion codes that ACCEPI takes. -/
def epiCodes : List Nat := [0x00, 0x01, 0x04, 0x05, 0x08, 0x0A, 0x0C, 0x0E, 0x10, 0x12, 0x13, 0x14, 0x15]

/-- The control word is legal. -/
def epiOk (w : Word) : Bool :=
  let code := (w.extractLsb' 4 8).toNat
  let rnd := (w.extractLsb' 12 3).toNat
  !w.getLsbD 3 && decide (w.toNat / 2 ^ 17 = 0) && decide (code ∈ epiCodes) && decide (rnd ≤ 4)
    && (!w.getLsbD 16 || (code == 0 && rnd == 0 && !w.getLsbD 15))

/-- Engine operations of some chunks that name a tile. -/
def chunksName (ks : List Chunk) (name : Nat) : Bool :=
  ks.any (fun k => (chunkOps k).any (fun o => decide (name ∈ opNames o.kind o.word)))

/-- The operations on a tile that an ACCEPI at `pc` waits for: those of its group's ended chunks, and those released before its issue (R289). -/
def epiBusy (s : State) (g : Group) (pc : PC) (name phys : Nat) : Bool :=
  let k := coreAt s s.cur.core
  let mark := ((g.epi.find? (fun x => x.1 == pc && x.2.1 == phys)).map (·.2.2)).getD k.opOrder
  chunksName g.done name || k.ops.any (fun o => decide (phys ∈ o.phys) && (decide (o.order < mark) || opOf g.team g.gi o))

/-- The tile that an ACCEPI which waits at its address is to read, where its name has been released since its issue (R275, R289). -/
def epiKept (g : Group) (t : Team) (pc : PC) (name : Nat) : Option Nat :=
  if (aget t.tiles name).isSome then none
  else (g.epi.find? (fun x => x.1 == pc && t.tiles.all (fun e => !(e.2 == x.2.1)))).map (·.2.1)

/-- ACCEPI. -/
def accepiM (d a b : Code) : M Unit := do
  checkOps [.dst d, .src a, .src b]
  let ex ← execLanes none
  let w ← lowOf a
  let x ← readSrc b ex
  let name := w.toNat % 8
  let g ← getG
  ensure (epiOk w && !chunksName [g.open_] name) fcIllegalOperand
  let held ← heldM
  let t ← getTeam
  let pc ← getS (·.cur.pc)
  let kept := epiKept g t pc name
  let row := fun (t : Nat) => (x t).toNat % 256
  let col := fun (t : Nat) => (x t).toNat / 256 % 256
  if !held.getLsbD name && kept.isNone then faultM { code := fcAccRange, lane := ex.headD 0 }
  else match ex.find? (fun t => decide (96 ≤ row t) || decide (128 ≤ col t)) with
    | some t => faultM { code := fcAccRange, lane := t }
    | none => do
      reportFault
      let phys := ((aget t.tiles name).or kept).getD 0
      let k ← getCore
      let busy ← getS (fun s => epiBusy s g pc name phys)
      if busy then (fun _ => .error (.accEpi phys)) else pure ()
      modG (fun g => { g with epi := g.epi.filter (fun x => !(x.1 == pc)) })
      modS (fun s => if g.epi.isEmpty then s else engineKick s s.cur.core)
      let code := (w.extractLsb' 4 8).toNat
      let rnd := (w.extractLsb' 12 3).toNat
      writeDst d ex [] (fun t =>
        let v := tileGet k phys (row t) (col t)
        if w.getLsbD 16 then v else cvtW code (w.getLsbD 15) rnd v)

/-! ### MMAWAIT and MMASTAT (R290, R291) -/

/-- MMAWAIT. -/
def mmawaitM (a : Code) : M Unit := do
  checkOps [.src a]
  let m ← lowOf a
  let g ← getG
  ensure (decide (m.toNat ≤ 15) && decide ((chunkOps g.open_).length ≤ m.toNat)) fcIllegalOperand
  reportFault
  let n ← getS (fun s => (groupOps s s.cur.core s.cur.slot).length)
  waitFor (decide (n ≤ m.toNat))

/-- MMASTAT. -/
def mmastatM (d : Code) : M Unit := do
  checkOps [.dst d]
  let ex ← execLanes none
  let g ← getG
  let t ← getTeam
  let n ← getS (fun s => (groupOps s s.cur.core s.cur.slot).length)
  let held ← heldM
  let v := n + 2 ^ 5 * g.r.seq.toNat + 2 ^ 9 * held.toNat + 2 ^ 17 * t.efault.isSome.toNat + 2 ^ 18 * ((t.efault.map (·.code)).getD 0)
  writeDst d ex [] (fun _ => BitVec.ofNat 32 v)

/-! ### Meanings -/

/-- ACCALLOC. -/
def execAccalloc (d a : Code) (s : State) : Host.Outcome State Fault Refusal := issue 4 (accallocM d a) s

/-- ACCFREE. -/
def execAccfree (a : Code) (s : State) : Host.Outcome State Fault Refusal := issue 4 (accfreeM a) s

/-- ACCZERO. -/
def execAcczero (a : Code) (s : State) : Host.Outcome State Fault Refusal := issue 4 (acczeroM a) s

/-- ACCLD. -/
def execAccld (d a b : Code) (s : State) : Host.Outcome State Fault Refusal := issue 4 (accRowsM 1 d a b) s

/-- ACCST. -/
def execAccst (d a b : Code) (s : State) : Host.Outcome State Fault Refusal := issue 4 (accRowsM 2 d a b) s

/-- MMA. -/
def execMma (d a b : Code) (s : State) : Host.Outcome State Fault Refusal := issue 4 (mmaM d a b) s

/-- MMAWAIT. -/
def execMmawait (a : Code) (s : State) : Host.Outcome State Fault Refusal := issue 4 (mmawaitM a) s

/-- CBLOAD. -/
def execCbload (a b : Code) (s : State) : Host.Outcome State Fault Refusal := issue 4 (cbloadM a b) s

/-- ACCEPI. -/
def execAccepi (d a b : Code) (s : State) : Host.Outcome State Fault Refusal := issue 4 (accepiM d a b) s

/-- MMASTAT. -/
def execMmastat (d : Code) (s : State) : Host.Outcome State Fault Refusal := issue 4 (mmastatM d) s

end Sys2Proof.Machine
end

