-- ==== Sys2Proof/Machine/EvCommit.lean ====
section
/-! DEFINITION. Sys2Proof/Machine/EvCommit.lean: the steps of the commit protocol (R219 to R223), of reductions (R227, R254 to R256), of halts
and the margin (R177, R182 to R186), of WAITADDR (R259), of barriers and multicast groups (R411 to R419), and of accesses from and
to the outside (R223, R231, R259). A step about a chunk or record that is gone changes nothing. -/

namespace Sys2Proof.Machine

/-! ### The Press (R219) -/

/-- A request arrives at a Press, of a chunk or of a writer that is none: granted at once, or held. -/
def pressAsk (s : State) (d : Nat) (k : ChunkRef) : State :=
  match doneChunk s k with
  | none => match askOf s k with
    | none => s
    | some a => enterPress s d { k := k, w := sigOf a.lines, pri := false }
  | some x => enterPress s d { k := k, w := x.wsig, pri := x.pri || x.irr }

/-- PRESS_REQUEST (R219). -/
def execPressRequest (d : Nat) (k : ChunkRef) (s : State) : Host.Outcome State Fault Refusal := .next (pressAsk s d k)

/-- A grant reaches the core: the next Press is asked; with all grants held W goes out, unless a priority or irrevocable chunk, or a
chunk that already held its grants, has taken precedence, which squashes the chunk (R219, R220, R222; log 107). -/
def pressGot (s : State) (d : Nat) (k : ChunkRef) : State :=
  match doneChunk s k with
  | none => askGot s d k
  | some x =>
    if x.phase ≠ 1 ∨ x.toGrant.head? ≠ some d then s
    else
      let s := modDone s k (fun x => { x with toGrant := x.toGrant.drop 1, granted := x.granted ++ [d] })
      match x.toGrant.drop 1 with
      | e :: _ => send s k.core (pressAgent e) (.pressRequest e k)
      | [] =>
        if heldByLive s x.wsig (some (k.core, k.slot)) || metByGranted s k x then squashFrom s k.core k.slot k.num
        else sendSignature s k x

/-- PRESS_GRANT (R219). -/
def execPressGrant (d : Nat) (k : ChunkRef) (s : State) : Host.Outcome State Fault Refusal := .next (pressGot s d k)

/-- PRESS_RELEASE (R221). -/
def execPressRelease (d : Nat) (k : ChunkRef) (s : State) : Host.Outcome State Fault Refusal :=
  .next (reconsider (modDie s d (fun x => { x with granted := x.granted.filter (fun g => decide (g.k ≠ k)) })) d)

/-! ### Signatures, claims and reports (R220, R221) -/

/-- A write signature arrives (R220): a core squashes what conflicts and drops its copies of the written lines; both kinds of receiver
acknowledge. The committing chunk's own copies stay. -/
def signatureArrives (s : State) (dest : Receiver) (k : ChunkRef) : State :=
  match doneChunk s k with
  | none => s
  | some x =>
    match dest with
    | .core c =>
      let s := squashCore s c (if c = k.core then some k.slot else none) (conflicts x.wsig)
      let s := if c = k.core then s else invalidate s c x.glines
      send s c k.core (.commitAck k)
    | .die d => send s (pressAgent d) k.core (.commitAck k)

/-- COMMIT_SIGNATURE (R220). -/
def execCommitSignature (dest : Receiver) (k : ChunkRef) (s : State) : Host.Outcome State Fault Refusal :=
  .next (signatureArrives s dest k)

/-- COMMIT_ACK: with the last acknowledgement the claims leave (R221). -/
def execCommitAck (k : ChunkRef) (s : State) : Host.Outcome State Fault Refusal :=
  .next (commitGroup 1 k.core k.slot (modDone s k (fun x => { x with acks := x.acks - 1 })))

/-- The key of a slice's count for a core and phase. -/
def phaseKey (slice : Nat) (k : ChunkRef) (phase : Nat) : Nat := 4096 * slice + 4 * k.core + phase

/-- A slice whose count equals the announced number makes the lines visible and reports (R221). -/
def sliceCount (s : State) (slice phase : Nat) (k : ChunkRef) (f : Nat × Option Nat → Nat × Option Nat) : State :=
  let d := slice / 64
  let key := phaseKey slice k phase
  let x := f ((aget (dieAt s d).phases key).getD (0, none))
  if x.2 = some x.1 then
    let s := modDie s d (fun y => { y with phases := adel y.phases key })
    match doneChunk s k with
    | none => s
    | some c =>
      let s := (c.glines.filter (fun l => homeSlice l == slice)).foldl (fun s l => showLine s (bufferBytes c.wr) l) s
      send s (sliceAgent slice) k.core (.sliceDone slice k)
  else modDie s d (fun y => { y with phases := aset y.phases key x })

/-- OWNERSHIP_CLAIM (R221). -/
def execOwnershipClaim (line phase : Nat) (k : ChunkRef) (s : State) : Host.Outcome State Fault Refusal :=
  .next (sliceCount s (homeSlice line) phase k (fun x => (x.1 + 1, x.2)))

/-- CLAIM_ANNOUNCE (R221). -/
def execClaimAnnounce (slice phase n : Nat) (k : ChunkRef) (s : State) : Host.Outcome State Fault Refusal :=
  .next (sliceCount s slice phase k (fun x => (x.1, some n)))

/-- A slice has reported; with the last report the commit is complete (R221). -/
def sliceReports (s : State) (k : ChunkRef) : State :=
  let s := modDone s k (fun x => { x with dones := x.dones - 1 })
  match doneChunk s k with
  | none => s
  | some x => if x.phase = 3 ∧ x.dones = 0 then completeCommit s k x else s

/-- SLICE_DONE (R221). -/
def execSliceDone (_slice : Nat) (k : ChunkRef) (s : State) : Host.Outcome State Fault Refusal := .next (sliceReports s k)

/-! ### Accesses from outside (R223) -/

/-- A store on its way waits for an earlier one: the two write a byte in common, or the later one is a release, which everything before it in the
order precedes (R229, R230). -/
def extBehind (s : State) (w : ExtWrite) : Bool :=
  s.extPend.any (fun v => decide (v.id < w.id) && (w.rel || v.bytes.any (fun e => w.bytes.any (fun x => x.1 == e.1))))
    || (w.rel && s.reds.any (fun r => r.core == w.core && r.slot == w.slot))

/-- The stores of a group that have left and wait for no earlier store, each with its place: which of them arrives first is free (R229, R231;
log 34). -/
def extFirsts (s : State) (core slot : Nat) : List (Nat × ExtWrite) :=
  (s.extPend.zipIdx.filter (fun w => w.1.core == core && w.1.slot == slot && w.1.out && !extBehind s w.1)).map (fun w => (w.2, w.1))

/-- A store of a group beyond the package arrives at its target, which performs and acknowledges it (R229, R231); one that comes back to this
device waits as any inbound write (R190, R223). -/
def targetAck (s : State) (core slot : Nat) : State :=
  let i := 64 * core + slot
  let done := fun (s : State) => { s with extOut := sset 0 s.extOut i (sget 0 s.extOut i - 1) }
  let ws := extFirsts s core slot
  match ws[Config.freeNat s.free % ws.length]? with
  | none => if s.extPend.any (fun w => w.core == core && w.slot == slot && w.out) then after s 4 (.targetAcknowledgement core slot) else done s
  | some (n, w) =>
    let kvs := w.bytes.map (fun e => (homePa e.1, e.2))
    if writeHeld s ((linesOf kvs).filter (fun l => tracked (128 * l))) then after s 4 (.targetAcknowledgement core slot)
    else done (performWrite { s with free := s.free + 1, extPend := s.extPend.eraseIdx n } none kvs)

/-- TARGET_ACKNOWLEDGEMENT: one access beyond the package is acknowledged (R231). -/
def execTargetAcknowledgement (core slot : Nat) (s : State) : Host.Outcome State Fault Refusal := .next (targetAck s core slot)

/-- CXL_CACHE_SNOOP: the line is the host's again, which wakes those that watch it (R259). -/
def execCxlCacheSnoop (line : Nat) (s : State) : Host.Outcome State Fault Refusal :=
  .next (if line ∈ s.cxl then wakeWatchers { s with cxl := s.cxl.filter (fun l => !(l == line)) } line else s)

/-! ### Reductions (R227, R254 to R256) -/

/-- The combine of a reduction (R254). -/
def redCombine (op : RedOp) (old v : Nat) : Nat :=
  let x : Word := BitVec.ofNat 32 old
  let y : Word := BitVec.ofNat 32 v
  match op with
  | .addI => (x + y).toNat
  | .addF => accAdd 0 x.toNat y.toNat
  | .and => (x &&& y).toNat
  | .or => (x ||| y).toNat
  | .xor => (x ^^^ y).toNat
  | .minI => (if y.slt x then y else x).toNat
  | .minN => (if y.ult x then y else x).toNat
  | .maxI => (if x.slt y then y else x).toNat
  | .maxN => (if x.ult y then y else x).toNat
  | .addI64 => (old + v) % 2 ^ 64

/-- The bytes of a reduction's location. -/
def redSize (op : RedOp) : Nat := if op = .addI64 then 8 else 4

/-- A reduction released before this one, by its group and on its location, is still to be performed (R254). -/
def redBehind (s : State) (r : Red) : Bool :=
  s.reds.any (fun q => q.core == r.core && q.slot == r.slot && q.pa == r.pa && decide (q.id < r.id))

/-- A place other than the home slice takes the line of a reduction: the core's array as a commit would, or the cluster unit (R255). What
another place had combined is at its home by then. -/
def redTake (s : State) (r : Red) : State :=
  let place := redPlace s r
  let line := r.pa / 128
  if beyond r.pa ∨ 5 ≤ r.scope then s
  else
    let s := if r.scope ≤ 3 then touchLine s r.core line else s
    { s with redAt := aset s.redAt line place }

/-- A released reduction is performed at its place (R255): it waits for chunks that its line meets, and one that meets poison is only recorded
(R256). -/
def redPerform (s : State) (r : Red) : State :=
  let pa := homePa r.pa
  let line := pa / 128
  if r ∉ s.reds then s
  else if redBehind s r || (tracked pa && writeHeld s [line]) then after s 4 (.redPerform r)
  else
    let s := { s with reds := s.reds.erase r }
    let s := if isPoisoned s line then s else readLine s line
    if isPoisoned s line then postLog (ctrAdd s (ctrKey 7 0 0) 1) 0x0006 (dieOf r.core) r.core r.pa
    else
      let n := redSize r.op
      redTake (performWrite s none (bytesAt pa (bytesOf n (redCombine r.op (memNat s pa n) r.v.toNat)))) r

/-- RED_PERFORM (R255). -/
def execRedPerform (r : Red) (s : State) : Host.Outcome State Fault Refusal := .next (redPerform s r)

/-! ### Halts and the margin (R177, R182 to R186) -/

/-- A halt reaches a sibling: one that is not ready stops at once, any other after a free number of its issue slots, at most 32
(R177). A flagged instruction repeats first (R187). A team without a fault is told to end the open chunk of a group that waits at its next
boundary (R152, R164). -/
def haltSibling (s : State) (c slot : Nat) : State :=
  match groupAt s c slot with
  | none => s
  | some g =>
    if g.stop.isSome then settle s c g.team
    else if (teamAt s c g.team).fault.isNone then endIfBlocked s c slot false
    else if g.haltLeft.isSome then (if groupReady s c slot g || g.replay.isSome then s else stopHalted s c slot)
    else
      let (f, s) := takeFree s
      let n := if groupReady s c slot g then f % 33 else 0
      let s := modGroup s c slot (fun g => { g with haltLeft := some (n, 0) })
      if n = 0 && g.replay.isNone then stopHalted s c slot else s

/-- TEAM_HALT (R177). -/
def execTeamHalt (core slot : Nat) (s : State) : Host.Outcome State Fault Refusal := .next (haltSibling s core slot)

/-- A shadow latch flags the instruction that a group is about to complete (R182): it is repeated in guarded issue, which holds the pipe and
changes nothing but the counts; a flag in guarded issue is TIMING_HARD, which stops the team and corks the core, and any flag on a vintner
core is fatal (R21, R186). -/
def latchFlag (s : State) (c : Nat) (i : FlaggedIssue) (twice : Bool) : State :=
  match groupAt s c i.slot with
  | none => s
  | some g =>
    let ls := (freeLanes s g).filter (fun t => sget 0 g.r.pc t == i.pc)
    if ls.isEmpty || !groupReady s c i.slot g || (g.replay.map (·.2)).getD i.pc != i.pc then s
    else
      let s := coreCtr (coreCtr s c 5 1) c 6 1
      let s := modCore s c (fun k => { k with margin := { k.margin with repwin := min 65535 (k.margin.repwin + 1) } })
      if (coreAt s c).role = 1 then fatalError (endChunk s c i.slot) c 1
      else if twice || g.replay.isSome then cork (faultGroup s c i.slot ls i.pc { code := fcTimingHard }) c 2
      else modGroup s c i.slot (fun g => { g with replay := some (ls, i.pc) })

/-- SHADOW_LATCH_FLAG (R182). -/
def execShadowLatchFlag (core : Nat) (i : FlaggedIssue) (twice : Bool) (s : State) : Host.Outcome State Fault Refusal :=
  .next (latchFlag s core i twice)

/-- An automatic raise of the margin (R184). -/
def marginRaise (s : State) (c : Nat) (m : Margin) : State :=
  let low := if (coreAt s c).role = 1 then max 0 m.voff else m.voff
  let s := setMargin s c { m with voff := low + 1, raised := true }
  postLog (pendDie s (dieOf c) 0x40) 0x0001 (dieOf c) c (Config.logData 0x0001 c (BitVec.ofInt 5 (low + 1)).toNat)

/-- The end of a replay window (R184). -/
def marginWindow (s : State) (c : Nat) : State :=
  let m := (coreAt s c).margin
  let put := fun (s : State) (m : Margin) => modCore s c (fun k => { k with margin := m })
  let busy := decide (m.lim < m.repwin) && m.aup
  let top := decide (8 ≤ m.voff)
  let clean := if m.repwin = 0 then m.cleanRun + 1 else 0
  let s := put s { m with repwin := 0, cleanRun := clean }
  let m' := (coreAt s c).margin
  let s := if busy && !top then marginRaise s c m'
    else if busy && top then
      let n := min 15 (m.topcnt + 1)
      let s := put s { m' with tophit := true, topcnt := n }
      if m.qthr ≠ 0 ∧ m.qthr ≤ n then cork s c 1 else s
    else if decide (m.clean ≤ clean) && m.adn && decide (m.vfloor < m.voff) && (coreAt s c).role != 1 then
      setMargin s c { m' with voff := m.voff - 1, cleanRun := 0 }
    else s
  after s (11264 * m.win - s.clk % 11264) (.marginWindowEnd c)

/-- MARGIN_WINDOW_END (R184). -/
def execMarginWindowEnd (core : Nat) (s : State) : Host.Outcome State Fault Refusal :=
  .next (if timerSet s (.marginWindowEnd core) then s else marginWindow s core)

/-- MARGIN_SETTLE: VNOW takes the offset (R183); a vintner core never runs below 0 (R21). -/
def execMarginSettle (core : Nat) (s : State) : Host.Outcome State Fault Refusal :=
  .next (if timerSet s (.marginSettle core) then s
    else modCore s core (fun k => { k with margin := { k.margin with
      vnow := if k.role = 1 then max 0 k.margin.voff else k.margin.voff } }))

/-! ### WAITADDR (R259) -/

/-- WAITADDR_WAKE. -/
def execWaitaddrWake (core slot : Nat) (s : State) : Host.Outcome State Fault Refusal := .next (wakeAddr s core slot)

/-- WAITADDR_POLL: the poll goes on while a polled line is watched. -/
def execWaitaddrPoll (core slot : Nat) (s : State) : Host.Outcome State Fault Refusal :=
  let s := wakeAddr s core slot
  let more := ((groupAt s core slot).map (fun g => g.watch.any (fun w => polled s w.line))).getD false
  .next (if more then after s 1100 (.waitaddrPoll core slot) else s)

/-- WAITADDR_TIMEOUT. -/
def execWaitaddrTimeout (core slot : Nat) (s : State) : Host.Outcome State Fault Refusal := .next (wakeAddr s core slot)

/-! ### Barriers (R411 to R414) -/

/-- A barrier's release publishes what the copies of its arrived groups have landed in scratch, and what lay below it (R228). -/
def publishFresh (s : State) (i : Nat) (x : BarObj) : State :=
  let us := x.arrived.filterMap (fun a => (groupAt s a.1 a.2).map (baseUid s a.1))
  let keep := fun (fs : List Fresh) => fs.takeWhile (fun f => !(decide (f.base ∈ us) && decide (i ∈ f.bars)))
  { s with cores := s.cores.map (fun (c : Nat × Core) => if c.2.fresh.isEmpty then c else
      (c.1, { c.2 with fresh := (c.2.fresh.map (fun e => (e.1, keep e.2))).filter (fun e => !e.2.isEmpty) })) }

/-- A generation that is full releases when nothing holds it back (R411, R412): its result goes to every arriving group's record, the
generation advances, and waiting threads go on. -/
def barRelease (s : State) (b : BarRef) : State :=
  let x := barObj s b
  if !barFull x then s
  else if barBusy s b x then (if s.timers.any (fun t => decide (t.2 = .barrierRelease b)) then s else after s 8 (.barrierRelease b))
  else
    let i := barId b
    let s := x.arrived.foldl (deliverRelease i x) (publishFresh s i x)
    let s := putBar s b { gen := x.gen + 1 }
    x.arrived.foldl (fun s a => barWake s a.1 a.2 i (fun s f => wakeThreads s a.1 a.2 f)) s

/-- BARRIER_RELEASE (R411). -/
def execBarrierRelease (b : BarRef) (s : State) : Host.Outcome State Fault Refusal := .next (barRelease s b)

/-- The team of a named barrier may start the inline call that waited for the barrier's messages (R319). -/
def afterBar (s : State) (b : BarRef) : State :=
  match b with
  | .named c t _ => startCall s c t
  | _ => s

/-- An arrival is refused: the record goes, and the group faults BARRIER_MISMATCH at the instruction (R411). -/
def barRefuse (s : State) (b : BarRef) (v : Arrival) : State :=
  let i := barId b
  let waits := fun (t : Thr) => match t with
    | .barAck j => j == i
    | .bar j _ => j == i
    | _ => false
  match groupAt s v.core v.slot with
  | none => s
  | some g =>
    let ls := lanesWhere g.r waits
    let s := modGroup s v.core v.slot (fun g => { g with recs := adel g.recs i })
    let s := wakeThreads s v.core v.slot (fun r => setPcs (setThr r ls .run) (ls.map (·, v.addr)))
    faultGroup s v.core v.slot ls v.addr { code := fcBarrierMismatch, lane := ls.headD 0xFF }

/-- The object takes an arrival (R411). -/
def barTake (x : BarObj) (v : Arrival) : BarObj :=
  if x.open_ && x.fixed then
    { x with arrived := x.arrived ++ [(v.core, v.slot)], waits := x.waits ++ [(v.core, v.slot, v.upto)], part := barCombine x.op x.part v.part }
  else { x with open_ := true, fixed := true, n := v.count, op := v.op, arrived := [(v.core, v.slot)], waits := [(v.core, v.slot, v.upto)]
                part := v.part }

/-- An accepted arrival: its record takes the generation, and the threads of a BARARV go on (R411, R413). -/
def barAccept (s : State) (b : BarRef) (v : Arrival) : State :=
  let i := barId b
  let x := barObj s b
  let s := putBar s b (barTake x v)
  let s := modGroup s v.core v.slot (fun g => { g with recs := amod g.recs i (fun r => { r with gen := x.gen, acked := true }) })
  let acked := ((groupAt s v.core v.slot).map (fun g => lanesWhere g.r (· == .barAck i))).getD []
  if acked.isEmpty then s else wakeThreads s v.core v.slot (fun r => setThr r acked .run)

/-- A committed arrival reaches the object (R411). -/
def barArrives (s : State) (b : BarRef) (v : Arrival) : State :=
  let x := barObj s b
  if ((groupAt s v.core v.slot).bind (fun g => aget g.recs (barId b))).isNone then s
  else if x.open_ && x.fixed && (decide (v.count ≠ x.n) || v.op != x.op) then afterBar (barRefuse s b v) b
  else afterBar (barRelease (barAccept s b v) b) b

/-- BARRIER_ARRIVAL (R411). -/
def execBarrierArrival (b : BarRef) (v : Arrival) (s : State) : Host.Outcome State Fault Refusal := .next (barArrives s b v)

/-- PENDING_LINE_PRESENT (R414). -/
def execPendingLinePresent (b : BarRef) (s : State) : Host.Outcome State Fault Refusal :=
  let x := barObj s b
  .next (afterBar (barRelease (putBar s b { x with pending := x.pending - 1 }) b) b)

/-! ### Multicast and reduction groups (R416 to R419) -/

/-- A reduction's operation on one word (R417). -/
def ropWord (rop : BitVec 2) (x y : Word) : Word :=
  if rop = 0 then x + y else if rop = 1 then x ||| y
  else if rop = 2 then (if y.slt x then y else x) else (if x.slt y then y else x)

/-- The 32 words of a line of bytes. -/
def lineWords (bs : List Byte) : List Word := (List.range 32).map (fun i => BitVec.ofNat 32 (natOfBytes ((bs.drop (4 * i)).take 4)))

/-- A delivery is performed at its member (R419): a multicast writes the line, a reduction combines it word by word; the id's packets
in flight fall. -/
def mcstPerform (s : State) (m : McstPacket) : State :=
  match aget s.clusters m.cl with
  | none => s
  | some _ =>
    let old := (List.range 128).map (fun i => sget 0 (coreAt s m.target).scratch (m.off + i))
    let new := match m.rop with
      | none => m.bytes
      | some r => ((lineWords old).zip (lineWords m.bytes)).flatMap (fun e => bytesOf 4 (ropWord r e.1 e.2).toNat)
    let s := modCore s m.target (fun k => (bytesAt m.off new).foldl putScratch k)
    modCluster s m.cl (fun k => { k with flight := sset 0 k.flight m.gid (sget 0 k.flight m.gid - 1) })

/-- MCST_DELIVERY (R419). -/
def execMcstDelivery (m : McstPacket) (s : State) : Host.Outcome State Fault Refusal := .next (mcstPerform s m)

/-- A GRPOPEN that has stalled for 64 µs faults (R417). -/
def grpTimeout (s : State) (c slot : Nat) : State :=
  match (groupAt s c slot).bind (·.grpWait) with
  | none => s
  | some (t, pc, ls) =>
    if s.clk < t then s
    else faultGroup (ctrAdd s (ctrKey 7 0 2) 1) c slot ls pc { code := fcGroupTimeout, lane := ls.headD 0xFF }

/-- GROUP_TIMEOUT (R417). -/
def execGroupTimeout (core slot : Nat) (s : State) : Host.Outcome State Fault Refusal := .next (grpTimeout s core slot)

/-! ### System calls (R174) -/

/-- SCGO: the group's system call completes, or SCERR rises (R174). -/
def execScgo (core slot : Nat) (s : State) : Host.Outcome State Fault Refusal := .next (scgoWrite s core slot)

end Sys2Proof.Machine
end

