-- ==== Sys2Proof/Machine/EvCopy.lean ====
section
/-! DEFINITION. Sys2Proof/Machine/EvCopy.lean: the run of copies (R223, R260 to R268, R405): the elements of CPY and TCPY, their engine
chunks, and their ends. -/

namespace Sys2Proof.Machine

/-- Why an element stops a copy: it waits for an ATS answer, or faults with a cause and address. -/
inductive CopyErr where
  | wait
  | fault (cause addr : Nat) (recov wr : Bool)
  deriving DecidableEq, Repr

/-! ### Bytes of an element -/

/-- The failure of a copy's translation. -/
def copyXerr (wr : Bool) (e : XErr × Nat) : CopyErr :=
  match e.1 with
  | .wait _ => .wait
  | .held => .wait
  | .fault code recov => .fault code e.2 recov wr

/-- Where a scratch byte of a copy lies (R191, R244, R263): the issuing core's stash-mapped lines are global lines. -/
def scrCopyByte (s : State) (x : Copy) (wr : Bool) (sa : Word) : Except CopyErr Loc × State :=
  match scrTarget s x.core sa with
  | none => (.error (.fault fcScratchRange sa.toNat false wr), s)
  | some (tc, off) =>
    match stashGlobal (coreAt s tc) (off / 128) with
    | none => (.ok (.scr tc off), s)
    | some v =>
      if tc ≠ x.core then (.error (.fault fcScratchRange sa.toNat false wr), s)
      else
        let va := addAddr (caOf (BitVec.ofNat 50 v)) (off % 128)
        match engineAddrs s x.core x.pasid va 1 wr (.copy x.engine) with
        | (.ok pas, s) =>
          let pa := pas.headD 0
          if inHbm pa then (.ok (.glob pa), touchStash s tc (pa / 128) (!wr)) else (.error (.fault fcPermission va.toNat false wr), s)
        | (.error e, s) => (.error (copyXerr wr e), s)

/-- Where several scratch bytes of a copy lie. -/
def scrCopyBytes (x : Copy) (wr : Bool) : List Word → State → Except CopyErr (List Loc) × State
  | [], s => (.ok [], s)
  | a :: r, s =>
    match scrCopyByte s x wr a with
    | (.error e, s) => (.error e, s)
    | (.ok l, s) =>
      match scrCopyBytes x wr r s with
      | (.error e, s) => (.error e, s)
      | (.ok ls, s) => (.ok (l :: ls), s)

/-- Where the `n` bytes at an address of a copy lie. -/
def copyLocs (s : State) (x : Copy) (scr wr : Bool) (va : Dword) (n : Nat) : Except CopyErr (List Loc) × State :=
  if scr then scrCopyBytes x wr ((List.range n).map (fun i => loWord va + BitVec.ofNat 32 i)) s
  else
    match engineAddrs s x.core x.pasid va n wr (.copy x.engine) with
    | (.error e, s) => (.error (copyXerr wr e), s)
    | (.ok pas, s) => (.ok (pas.map .glob), s)

/-- A committed byte; beyond the package, that of the device's latest store on its way (R229). -/
def locNow (s : State) : Loc → Byte
  | .scr c o => sget 0 (coreAt s c).scratch o
  | .glob a => nowByte s a

/-- Reads source bytes of a copy at their home slices (R188, R190): poison ends it with MEM_UNCORRECTABLE (R268). -/
def copyRead (s : State) (x : Copy) (scr : Bool) (va : Dword) (n : Nat) : Except CopyErr (List Byte) × State :=
  match copyLocs s x scr false va n with
  | (.error e, s) => (.error e, s)
  | (.ok ls, s) =>
    match unitRead s ((globsOf ls).map homePa) with
    | none => (.error .wait, s)
    | some s =>
      match (globsOf ls).find? (fun a => isPoisoned s (homePa a / 128)) with
      | some a => (.error (.fault fcMemUncorrectable (a / 128 * 128) false false), s)
      | none => (.ok (ls.map (locNow s)), s)

/-! ### CPY (R263) -/

/-- The sum of indices times strides. -/
def strideSum : List Nat → List Int → Int
  | i :: is, k :: ks => (i : Int) * k + strideSum is ks
  | _, _ => 0

/-- An element of a CPY: what is written where. -/
def cpyElem (s : State) (x : Copy) (vec : List Nat) : Except CopyErr (List (Loc × Byte)) × State :=
  let ds := x.desc
  let n := 2 ^ cpyEsz ds
  let src := clDw ds 0 + BitVec.ofInt 64 (strideSum vec ((List.range 5).map (cpySst ds)))
  let dst := clDw ds 1 + BitVec.ofInt 64 (strideSum vec ((List.range 5).map (cpyDst ds)))
  let (r, s) := if cpyOp ds = 0 then copyRead s x (cpySscr ds) src n
    else (.ok ((List.range n).map (fun j => (clDw ds 14).extractLsb' (8 * (j % 8)) 8)), s)
  match r with
  | .error e => (.error e, s)
  | .ok bs =>
    match copyLocs s x (cpyDscr ds) true dst n with
    | (.error e, s) => (.error e, s)
    | (.ok ls, s) => (.ok (ls.zip bs), s)

/-! ### TCPY (R264, R265, R277, R278) -/

/-- The conversion of an element (R265). -/
def tcpConv (ds : List Dword) (sc bits : Nat) : Nat :=
  let rnd := tcpRnd ds
  let sat := tcpSat ds
  if tcpLay ds = 1 then
    (if tcpSfmt ds = 4 then fOut bf16 sat rnd (f16.val bits)
     else if tcpSfmt ds = 5 then fOut bf16 sat rnd (f32.val bits) else bits)
  else if tcpSfmt ds ≠ 5 then bits
  else if tcpTag ds = 2 then (BitVec.ofInt 8 (toIntVal rnd (-128) 127 (f32.val bits))).toNat
  else
    let f := if tcpTag ds = 0 then e4m3 else e5m2
    if sc = 0xFF then fOut f sat rnd .nan else fOut f sat rnd (fscaleVal (f32.val bits) (127 - (sc : Int)))

/-- Bytes of a source element; 4-bit codes lie two to a byte. -/
def tcpSize (ds : List Dword) : Nat := if tcpSfmt ds ≤ 2 ∨ tcpSfmt ds = 6 then 1 else if tcpSfmt ds = 5 then 4 else 2

/-- Index arithmetic of an element (kk, r, i2, i3, i4). -/
def tcpOuter (vec : List Nat) (f : Nat → Int) : Int := strideSum (vec.drop 2) ((List.range 3).map f)

/-- Source address of an element. -/
def tcpSrc (ds : List Dword) (vec : List Nat) : Dword :=
  let kk := vec.getD 0 0
  let r := vec.getD 1 0
  let pitch := (clDw ds 5).toInt
  let step := fun (i : Nat) => if tcpSfmt ds = 6 then (i : Int) / 2 else (i : Int) * tcpSize ds
  let inner := if tcpTrn ds then (kk : Int) * pitch + step r else (r : Int) * pitch + step kk
  clDw ds 0 + BitVec.ofInt 64 (inner + tcpOuter vec (tcpOsrc ds))

/-- The scratch address of the slab that holds position kk of the tile. -/
def tcpSlab (ds : List Dword) (vec : List Nat) (slab : Nat) : Word :=
  loWord (clDw ds 1) + BitVec.ofInt 32 (128 * tcpOuter vec (fun j => tcpOdst ds j))
    + BitVec.ofNat 32 (128 * slab * slabLines (tcpLay ds) (tcpRows ds) 4)

/-- The scratch address of the scale byte of a row's block. -/
def tcpScaleAt (ds : List Dword) (vec : List Nat) (r block : Nat) : Word :=
  let per := imgKs (tcpLay ds) / 32
  tcpSlab ds vec (block / per) + BitVec.ofNat 32 (imgScaleByte (tcpLay ds) (tcpRows ds) 4 r (block % per))

/-- A scratch byte that a TCPY writes, with the bits of it that it keeps. -/
abbrev TcpByte := Word × Byte × Byte

/-- The bytes of element kk of a row: a 4-bit code changes half a byte. -/
def tcpPut (x : Copy) (vec : List Nat) (kk r v : Nat) : List TcpByte :=
  let ds := x.desc
  let ks := imgKs (tcpLay ds)
  let at_ := fun (j : Nat) => tcpSlab ds vec (kk / ks) + BitVec.ofNat 32 (imgByte 4 1 r j)
  let p := kk % ks
  if tcpLay ds = 0 then [(at_ p, BitVec.ofNat 8 v, 0)]
  else if tcpLay ds = 1 then [(at_ (2 * p), BitVec.ofNat 8 v, 0), (at_ (2 * p + 1), BitVec.ofNat 8 (v / 256), 0)]
  else [(at_ (p / 2), BitVec.ofNat 8 (v % 16 * (if p % 2 = 0 then 1 else 16)), if p % 2 = 0 then 0xF0 else 0x0F)]

/-- The codebook lines of a tile, entered with its first element: an entry that breaks R47 ends the copy (R265, R278). -/
def tcpBook (s : State) (x : Copy) (vec : List Nat) : Except CopyErr (List TcpByte) × State :=
  let ds := x.desc
  if tcpLay ds ≠ 2 ∨ vec.getD 0 0 ≠ 0 ∨ vec.getD 1 0 ≠ 0 then (.ok [], s)
  else
    match copyRead s x false (clDw ds 8) 32 with
    | (.error e, s) => (.error e, s)
    | (.ok bs, s) =>
      if !((List.range 16).all (fun e => bookOk (natOfBytes ((bs.drop (2 * e)).take 2)))) then
        (.error (.fault fcCodebookRange (clDw ds 8).toNat false false), s)
      else
        let slabs := (tcpTk ds + 127) / 128
        (.ok ((List.range slabs).flatMap (fun i => (bs ++ List.replicate 96 0).zipIdx.map (fun (b : Byte × Nat) =>
          (tcpSlab ds vec i + BitVec.ofNat 32 (imgBookOff (tcpRows ds) 4 + b.2), b.1, 0)))), s)

/-- The scale byte of an element's block, and what is written for it: it is read and entered with the block's first element. -/
def tcpScale (s : State) (x : Copy) (vec : List Nat) : Except CopyErr (Nat × List TcpByte) × State :=
  let ds := x.desc
  let kk := vec.getD 0 0
  let r := vec.getD 1 0
  let at_ := tcpScaleAt ds vec r (kk / 32)
  if tcpLay ds = 1 then (.ok (0x7F, []), s)
  else if kk % 32 ≠ 0 then (.ok (x.scale, []), s)
  else if tcpVrow ds ≤ r ∨ tcpVk ds ≤ kk ∨ clDw ds 6 = 0 then (.ok (0x7F, [(at_, 0x7F, 0)]), s)
  else
    let va := clDw ds 6 + BitVec.ofInt 64 ((r : Int) * (clDw ds 7).toInt + (kk / 32 : Nat) + tcpOuter vec (tcpOscl ds))
    match copyRead s x false va 1 with
    | (.error e, s) => (.error e, s)
    | (.ok bs, s) => (.ok ((bs.headD 0).toNat, [(at_, bs.headD 0, 0)]), s)

/-- The source bits of an element inside the valid rows and k; zero outside. -/
def tcpBits (s : State) (x : Copy) (vec : List Nat) (sc : Nat) : Except CopyErr Nat × State :=
  let ds := x.desc
  let kk := vec.getD 0 0
  let r := vec.getD 1 0
  if tcpVrow ds ≤ r ∨ tcpVk ds ≤ kk then (.ok 0, s)
  else
    match copyRead s x false (tcpSrc ds vec) (tcpSize ds) with
    | (.error e, s) => (.error e, s)
    | (.ok bs, s) =>
      let v := natOfBytes bs
      let i := if tcpTrn ds then r else kk
      (.ok (if tcpSfmt ds = 6 then v / 16 ^ (i % 2) % 16 else tcpConv ds sc v), s)

/-- Positions of the last slab at or beyond TK hold zero, and their blocks scale 0x7F: entered with a row's last element (R278). -/
def tcpPad (x : Copy) (vec : List Nat) : List TcpByte :=
  let ds := x.desc
  let r := vec.getD 1 0
  let ks := imgKs (tcpLay ds)
  let tk := tcpTk ds
  let stop := (tk + ks - 1) / ks * ks
  if vec.getD 0 0 + 1 ≠ tk then []
  else
    ((List.range (stop - tk)).flatMap (fun i => if tcpLay ds = 2 ∧ i % 2 = 1 then [] else
        (tcpPut x vec (tk + i) r 0).map (fun e => (e.1, 0, 0))))
      ++ (if tcpLay ds = 1 then [] else (List.range ((stop - tk) / 32)).map (fun b => (tcpScaleAt ds vec r (tk / 32 + b), 0x7F, 0)))

/-- The byte that a location holds once the writes of a copy's engine chunk, `out`, are counted in. -/
def locOver (s : State) (out : List (Nat × Byte)) (l : Loc) : Byte :=
  match l with
  | .scr _ _ => locNow s l
  | .glob a => ((out.reverse.find? (fun e => e.1 == a)).map (·.2)).getD (locNow s l)

/-- An element of a TCPY: what is written where, over the engine chunk's writes `out`, and the scale byte of its block. -/
def tcpElem (s : State) (x : Copy) (out : List (Nat × Byte)) (vec : List Nat) : Except CopyErr (List (Loc × Byte) × Nat) × State :=
  match tcpBook s x vec with
  | (.error e, s) => (.error e, s)
  | (.ok book, s) =>
    match tcpScale s x vec with
    | (.error e, s) => (.error e, s)
    | (.ok (sc, scale), s) =>
      match tcpBits s x vec sc with
      | (.error e, s) => (.error e, s)
      | (.ok v, s) =>
        let bs := book ++ scale ++ tcpPut x vec (vec.getD 0 0) (vec.getD 1 0) v ++ tcpPad x vec
        match scrCopyBytes x true (bs.map (·.1)) s with
        | (.error e, s) => (.error e, s)
        | (.ok ls, s) => (.ok ((ls.zip bs).map (fun e => (e.1, (locOver s out e.1 &&& e.2.2.2) ||| e.2.2.1)), sc), s)

/-- An element of a copy, over the engine chunk's writes `out`; of a TCPY, with the scale byte of its block. -/
def copyElem (s : State) (x : Copy) (out : List (Nat × Byte)) (pos : Nat) : Except CopyErr (List (Loc × Byte) × Nat) × State :=
  let vec := vecOf (copyCounts x.desc) pos
  if cpyKind x.desc = 0 then
    let (r, s) := cpyElem s x vec
    (r.map (·, x.scale), s)
  else tcpElem s x out vec

/-! ### Engine chunks (R223, R263, R407) -/

/-- The elements of a copy. -/
def copyTotal (x : Copy) : Nat := (copyCounts x.desc).foldl (fun n k => n * max 1 k) 1

/-- A part of a copy's iteration: the state with its scratch writes landed, the next position, the destination lines, the global
writes that commit together, and what stopped it. -/
structure CopyRun where
  s : State
  pos : Nat
  scale : Nat
  lines : List Nat
  out : List (Nat × Byte)
  err : Option CopyErr

/-- A landing at a byte over the earlier ones: one of the same batch that no thread has waited for yet is the same landing (R228). -/
def pushFresh (x : Copy) (old : Byte) (fs : List Fresh) : List Fresh :=
  match fs with
  | f :: _ => if f.uid = x.uid ∧ f.lane = x.lane ∧ f.batch = x.batch ∧ !f.seen then fs
      else { old := old, base := x.base, uid := x.uid, lane := x.lane, batch := x.batch } :: fs
  | [] => [{ old := old, base := x.base, uid := x.uid, lane := x.lane, batch := x.batch }]

/-- Lands scratch bytes of a copy: until a barrier publishes them, only the thread that waits for the batch is sure to see them (R228). -/
def landScratch (x : Copy) (s : State) (ws : List (Loc × Byte)) : State :=
  ws.foldl (fun s e => match e.1 with
    | .scr c o => modCore s c (fun k =>
        { k with scratch := sset 0 k.scratch o e.2
                 fresh := aset k.fresh o (pushFresh x (sget 0 k.scratch o) ((aget k.fresh o).getD [])) })
    | .glob _ => s) s

/-- Runs elements until the 48th distinct destination line is passed, the copy ends or an element stops it. -/
def copyRun (x : Copy) : Nat → CopyRun → CopyRun
  | 0, r => r
  | n + 1, r =>
    if copyTotal x ≤ r.pos then r
    else
      match copyElem r.s { x with scale := r.scale } r.out r.pos with
      | (.error e, s) => { r with s := s, err := some e }
      | (.ok (ws, sc), s) =>
        let ls := ((ws.map (fun e => locLine e.1)).filter (fun l => !(decide (l ∈ r.lines)))).dedup
        if !r.lines.isEmpty && decide (48 < r.lines.length + ls.length) then r
        else
          let gs := ws.filterMap (fun e => match e.1 with | .glob a => some (a, e.2) | .scr _ _ => none)
          copyRun x n { s := landScratch x s ws, pos := r.pos + 1, scale := sc, lines := r.lines ++ ls, out := r.out ++ gs, err := none }

/-- Changes a copy. -/
def modCopy (s : State) (id : Nat) (f : Copy → Copy) : State := { s with copies := amod s.copies id f }

/-- The fault record of a copy that meets a fault (R268, R389). -/
def copyRecord (s : State) (x : Copy) (cause addr : Nat) (recov wr : Bool) : FaultRec :=
  { code := fcCopyFault, cause := cause, wr := wr, fetch := false, under := false, recov := recov, src := 1
    engine := false, core := x.core, slot := x.engine, shape := 0, gi := 0, lane := x.lane, pc := 0, addr := addr
    imm := 0, ctx := (x.grid.map (gridCtx s)).getD (BitVec.ofNat 32 x.pasid), time := cycles s x.die
    ivec := vecOf (copyCounts x.desc) x.pos, opkind := 0, opword := 0 }

/-- A copy is over: DONE resolves, GLIVE falls, and a packet's copy completes its packet (R266, R268, R341, R394). -/
def copyOver (s : State) (x : Copy) (v : Nat) : State :=
  let s := resolveFrom s x.core ((x.grid.map (gridCtx s)).getD (BitVec.ofNat 32 x.pasid)) (cpyDone x.desc) (BitVec.ofNat 64 v)
  (x.grid.map (gliveDone s)).getD s

/-- A copy ends with a fault, whose record it keeps (R268, R389); a COPY packet's sets queue error COPY (R341). -/
def copyEndFault (s : State) (id : Nat) (r : FaultRec) : State :=
  match aget s.copies id with
  | none => s
  | some x =>
    match x.pkt with
    | some (q, n) =>
      endPacketCopy s id q n
    | none =>
      let s := modCopy { s with uids := s.uids + 1 } id (fun x => { x with st := 4, fault := some r, endOrder := s.uids })
      copyOver s x (r.cause * 256 + fcCopyFault)

/-- The state in which an engine chunk that has not run waits: what its translations have entered and asked of the host stays. -/
def copyWaits (s0 s : State) : State := { s0 with ats := s.ats, timers := s.timers, free := s.free, dies := s.dies }

/-- The lines of package memory that a run of a copy writes. -/
def runLines (r : CopyRun) : List Nat := ((linesOf r.out).map (fun l => homePa (128 * l) / 128)).filter (fun l => tracked (128 * l))

/-- What an engine chunk or group of a copy has run becomes visible, and the copy goes on, stops on a fault, or is complete (R263, R268). -/
def landRun (s0 : State) (id : Nat) (x : Copy) (r : CopyRun) : State :=
  let s := askOver r.s (copyRef id)
  let s := modCopy (performWrite s none (r.out.map (fun e => (homePa e.1, e.2)))) id (fun y => { y with pos := r.pos, scale := r.scale })
  let x := { x with pos := r.pos }
  match r.err with
  | some .wait => after s 64 (.engineChunkStart id)
  | some (.fault cause addr recov wr) =>
    let f := copyRecord s0 x cause addr recov wr
    if recov then postFault (modCopy s id (fun y => { y with st := 2, fault := some f })) { rec_ := f, agent := 1, core := x.core, id := id, pasid := x.pasid }
    else copyEndFault s id f
  | none =>
    if copyTotal x ≤ r.pos then send s (engineAgent x.die) (engineAgent x.die) (.copyComplete id)
    else after s 48 (.engineChunkStart id)

/-- One engine chunk or group of a copy, unless its context or a fatal error has stopped it (R354, R463). At its start it is admitted by the copy
budget and charged for its lines (R406, R407), and asks the Presses of the lines that it writes; with their grants, once no live
chunk meets its writes, it reads its source bytes and commits its writes in one step (log 98; R223, R263). -/
def engineChunk (s0 : State) (id : Nat) : State :=
  let me := copyRef id
  match aget s0.copies id with
  | none => askOver s0 me
  | some x =>
    if x.st ≠ 1 ∨ (x.pkt.isNone ∧ (ctxParked s0 x.pasid ∨ s0.fw.dumping.isSome)) then askOver s0 me
    else
      let run := fun (s : State) => copyRun x (copyTotal x - x.pos) { s := s, pos := x.pos, scale := x.scale, lines := [], out := [], err := none }
      match askOf s0 me with
      | none =>
        if !admits s0 (ctrKey 2 x.die 6) then after (refuseAdmission s0 (ctrKey 2 x.die 6)) 64 (.engineChunkStart id)
        else
          let r := run s0
          if r.err = some .wait ∧ !r.out.isEmpty then after (copyWaits s0 r.s) 64 (.engineChunkStart id)
          else
            let n := r.lines.length
            if (runLines r).isEmpty then landRun s0 id x { r with s := charge r.s (ctrKey 2 x.die 6) n }
            else askPress (charge (copyWaits s0 r.s) (ctrKey 2 x.die 6) n) me (runLines r) (.engineChunkStart id)
      | some a =>
        if !a.toGrant.isEmpty then s0
        else
          let r := run s0
          if !((runLines r).all (fun l => decide (l ∈ a.lines))) then askPress (askOver (copyWaits s0 r.s) me) me (runLines r) (.engineChunkStart id)
          else if heldByLive s0 (sigOf a.lines) none || r.out.any (fun e => beyond e.1 && (extByte s0 e.1).isSome) then
            after s0 4 (.engineChunkStart id)
          else landRun s0 id x r

/-- ENGINE_CHUNK_START (R223). -/
def execEngineChunkStart (id : Nat) (s : State) : Host.Outcome State Fault Refusal := .next (engineChunk s id)

/-- A copy engine of a die that runs no copy. -/
def freeEngine (s : State) (d : Nat) : Option Nat :=
  (List.range 6).find? (fun e => s.copies.all (fun c =>
    !(c.2.die == d && c.2.engine == e && (c.2.st == 1 || c.2.st == 2) && !ctxParked s c.2.pasid)))

/-- A copy whose dependency is resolved starts on a free engine of its die (R260, R266). -/
def copyStart (s : State) (id : Nat) : State :=
  match aget s.copies id with
  | none => s
  | some x =>
    if x.st ≠ 0 ∨ x.count ≠ 0 then s
    else if x.pkt.isNone && ctxParked s x.pasid then after s 1100 (.copyStart id)
    else match freeEngine s x.die with
      | none => after s 16 (.copyStart id)
      | some e =>
        send (modCopy s id (fun y => { y with st := 1, engine := e })) (engineAgent x.die) (engineAgent x.die) (.engineChunkStart id)

/-- COPY_START (R266). -/
def execCopyStart (id : Nat) (s : State) : Host.Outcome State Fault Refusal := .next (copyStart s id)

/-- A copy is complete: its last writes have landed (R266). -/
def copyComplete (s : State) (id : Nat) : State :=
  match aget s.copies id with
  | none => s
  | some x =>
    if x.st ≠ 1 ∨ x.pos < copyTotal x then s
    else
      let s := { s with copies := adel s.copies id }
      match x.pkt with
      | some (q, n) => completePacket s q n
      | none => copyOver s x 0

/-- COPY_COMPLETE (R266). -/
def execCopyComplete (id : Nat) (s : State) : Host.Outcome State Fault Refusal := .next (copyComplete s id)

end Sys2Proof.Machine
end

