-- ==== Sys2Proof/Machine/EvHbm.lean ====
section
/-! DEFINITION. Sys2Proof/Machine/EvHbm.lean: the steps of decanting and redirects (R200, R201, R381), of the stack controllers and the
Reserve (R202 to R210), of racking and bank parking (R211 to R214, R380), and the start of a budget period (R405). -/

namespace Sys2Proof.Machine

/-! ### Decanting (R200, R201, R381) -/

/-- A helper that R200 allows for a line: a slice of another die, or on the home die one outside the home tile's quadrant. -/
def helperOk (line h : Nat) : Bool :=
  decide (h < 256) && (decide (dieOf h ≠ homeDie line) || decide (quadrantOf h ≠ quadrantOf (homeSlice line)))

/-- The line has been read often enough in this window (R200). -/
def hotLine (s : State) (line : Nat) : Bool :=
  let rs := (aget s.readWin line).getD []
  decide (64 ≤ rs.length) && decide (4 ≤ rs.dedup.length)

/-- DECANT: the line is pushed to up to four helpers, at most one a die, while the decant budget of the home die lasts (R200, R405). -/
def decantLine (s : State) (line : Nat) (helpers : List Nat) : State :=
  let d := homeDie line
  if !inHbm (128 * line) || helpers.isEmpty || decide (4 < helpers.length) || !(helpers.all (helperOk line))
      || decide ((helpers.map dieOf).dedup.length ≠ helpers.length) || !hotLine s line || decide (line ∈ s.wroteWin)
      || s.replicas.any (fun e => e.1 == line) || s.net.any (decantMsg line) then s
  else if !admits s (ctrKey 2 d 9) then refuseAdmission s (ctrKey 2 d 9)
  else
    let s := dieCtr { s with readWin := adel s.readWin line } d 3 1
    helpers.foldl (fun s h =>
      if admits s (ctrKey 2 d 9) then
        send (charge s (ctrKey 2 d 9) 1) (sliceAgent (homeSlice line)) (sliceAgent h) (.decantPushDone line h)
      else refuseAdmission s (ctrKey 2 d 9)) s

/-- DECANT (R200). -/
def execDecant (line : Nat) (helpers : List Nat) (s : State) : Host.Outcome State Fault Refusal :=
  .next (decantLine s line helpers)

/-- The network interfaces that redirect to a helper: its die's, or on the home die its quadrant's (R200). -/
def redirectNis (line h : Nat) : List Nat :=
  ((List.range 64).map (64 * dieOf h + ·)).filter (fun n => decide (dieOf h ≠ homeDie line) || decide (quadrantOf n = quadrantOf h))

/-- A helper takes a replica; one that holds 1,024 evicts its oldest (R200). -/
def addReplica (s : State) (line h : Nat) : State :=
  let mine := s.replicas.filter (fun e => e.2 == h)
  let rs := if 1024 ≤ mine.length then
      match mine with
      | [] => s.replicas
      | old :: _ => s.replicas.filter (fun e => decide (e ≠ old))
    else s.replicas
  { s with replicas := rs ++ [(line, h)] }

/-- DECANT_PUSH_DONE: the replica is there, and redirect entries are sent out (R200). -/
def execDecantPushDone (line helper : Nat) (s : State) : Host.Outcome State Fault Refusal :=
  .next ((redirectNis line helper).foldl (fun s n => send s (sliceAgent (homeSlice line)) (6000 + n) (.redirectInstall n line helper))
    (addReplica s line helper))

/-- REDIRECT_INSTALL: an entry of a set of four; a full set loses its oldest (R381). An install for a line whose revocation has begun
finds its replica gone and is dropped. -/
def installRedirect (s : State) (ni line helper : Nat) : State :=
  if (line, helper) ∉ s.replicas then s
  else
    let rs := s.redirects.filter (fun e => !(e.1 == ni && e.2.1 == line))
    let mates := rs.filter (fun e => e.1 == ni && e.2.1 % 32 == line % 32)
    let rs := if 4 ≤ mates.length then
        match mates with
        | [] => rs
        | old :: _ => rs.filter (fun e => decide (e ≠ old))
      else rs
    { s with redirects := rs ++ [(ni, line, helper)] }

/-- REDIRECT_INSTALL (R381). -/
def execRedirectInstall (ni line helper : Nat) (s : State) : Host.Outcome State Fault Refusal :=
  .next (installRedirect s ni line helper)

/-- REVOCATION (R201). -/
def execRevocation (line : Nat) (s : State) : Host.Outcome State Fault Refusal := .next (revoke s line)

/-! ### The stack controllers (R202, R205, R206) -/

/-- A reconstruction runs on a row at its parity controller. -/
def reconOn (s : State) (row : Nat) : Bool := (stackAt s (row % 16)).recons.any (fun r => r.row == row)

/-- Holds a packet at a stack. -/
def holdPacket (s : State) (x row : Nat) (e : Instr) : State := modStack s x (fun k => { k with held := k.held ++ [(row, e)] })

/-- The stacks whose data lines a reconstruction of a row asks for. -/
def survivors (s : State) (row : Nat) : List Nat :=
  (List.range 16).filter (fun x => decide (x ≠ row % 16) && !(stackAt s x).lost)

/-- The stripe has no protection any more (R207, R209): UNPROT and event 0x0005. -/
def unprotected (s : State) (line : Nat) : State :=
  let x := dataStack line
  postLog { s with mmio := { s.mmio with unprot := true } } 0x0005 (x / 4) x (128 * line)

/-- A reconstruction starts at controller P (R206): FREEZE to every surviving data controller; the write of a degraded line, or a full
write-back of a poisoned one, replaces the parity (R207, R209). -/
def startRecon (s : State) (line : Nat) (wr : Option (List Byte)) : State :=
  let row := stripeOf line
  let p := parityStack line
  let s := if wr.isNone then ctrAdd s (ctrKey 3 p 40) 1 else s
  let s := modStack s p (fun k => { k with recons := k.recons ++ [{ row := row, line := line, vals := [], failed := false, wr := wr }] })
  (survivors s row).foldl (fun s x => send s (stackAgent p) (stackAgent x) (.freeze x row (decide (lineOf row x ∈ s.ecc)))) s

/-- The outcome of a reconstruction whose answers are in (R206, R207, R209); the reply to its packet frees the tag (R202). -/
def endRecon (s : State) (r : Recon) : State :=
  let line := r.line
  let s := freeTag s (dataStack line)
  let others := (stripeLines r.row).filter (fun m => m != line)
  let bad := others.filter (fun m => unusable s m && !lineLost s m)
  let vals := r.vals.filter (fun e => decide (lineOf r.row e.1 ≠ line))
  let ok := !r.failed && vals.length == 14 && !(stackAt s (parityStack line)).lost
  match r.wr with
  | none =>
    if ok then enterRebuilt s line ((vals.map (·.2)).foldl xorBytes (parityLine s r.row)) else markPoison s line
  | some new =>
    let zero := List.replicate 128 (0 : Byte)
    if ok then
      let s := parityPut s r.row (xorBytes ((vals.map (·.2)).foldl xorBytes zero) new)
      { s with hpoison := s.hpoison.filter (fun l => !(l == line)), ecc := s.ecc.filter (fun l => !(l == line)) }
    else if lineLost s line then
      unprotected ((line :: bad).foldl markPoison s) line
    else if (stackAt s (parityStack line)).lost then
      { s with hpoison := s.hpoison.filter (fun l => !(l == line)), ecc := s.ecc.filter (fun l => !(l == line)) }
    else
      unprotected (bad.foldl markPoison
        { s with hpoison := s.hpoison.filter (fun l => !(l == line)), ecc := s.ecc.filter (fun l => !(l == line)) }) line

/-- A reconstruction ends when every surviving controller asked has answered: UNFREEZE goes out (R206). -/
def settleRecon (s : State) (p : Nat) (r : Recon) : State :=
  if (survivors s r.row).all (fun x => (aget r.vals x).isSome || r.failed) || r.failed then
    let s := modStack s p (fun k => { k with recons := k.recons.filter (fun q => !(q.row == r.row)) })
    let s := endRecon s r
    (survivors s r.row).foldl (fun s x => send s (stackAgent p) (stackAgent x) (.unfreeze x r.row)) s
  else s

/-- A line is written at its stack (R205, R207 to R209): data and a delta, or the degraded forms. -/
def storeLine (s : State) (line : Nat) : State :=
  let x := dataStack line
  let row := stripeOf line
  let new := homeBytes s line
  let s := countPacket s x row
  let s := { s with l2 := s.l2.map (fun y => if y.line = line then { y with dirty := false } else y) }
  if s.mmio.dual && lineLost s line then
    postLog s 0x000A (x / 4) x (128 * line)
  else if lineLost s line then startRecon s line (some new)
  else
    let s := if line ∈ s.ecc ∧ line ∉ s.hpoison ∧ reconOk s line then
        { (dramPut s line (reconValue s line)) with ecc := s.ecc.filter (fun l => !(l == line)) } else s
    let old := dramLine s line
    let s := dramPut s line new
    let p := parityStack line
    if (line ∈ s.hpoison ∧ line ∉ s.poison) ∨ line ∈ s.ecc then
      if (stackAt s p).lost then
        { s with hpoison := s.hpoison.filter (fun l => !(l == line)), ecc := s.ecc.filter (fun l => !(l == line)) }
      else startRecon s line (some new)
    else if (stackAt s p).lost then s
    else
      let s := modStack s x (fun k => { k with cnt := sset 0 k.cnt row (sget 0 k.cnt row + 1) })
      sendPacket s (stackAgent x) p (.delta p row x (xorBytes old new))

/-- A packet that writes waits: its row is frozen, its frame is moving, or it needs a reconstruction at P while one runs there (R206, R207,
R212). -/
def writeWaits (s : State) (line : Nat) : Bool :=
  let k := stackAt s (dataStack line)
  let row := stripeOf line
  decide (row ∈ k.frozen) || moveHolds k row || behindHeld s line
    || (reconOn s row && (lineLost s line || decide (line ∈ s.hpoison) || decide (line ∈ s.ecc)))

/-- A packet has been performed: its reply frees the tag, unless a reconstruction that it began has still to end (R202, R206). -/
def replied (before s : State) (line : Nat) : State :=
  if reconOn s (stripeOf line) && !reconOn before (stripeOf line) then s else freeTag s (dataStack line)

/-- Holds a packet at a stack and tries it again in 4 clk. -/
def deferPacket (s : State) (x row : Nat) (e : Instr) : State :=
  let s := holdPacket s x row e
  if timerSet s e then s else after s 4 e

/-- A slice's packet reaches the controller of its line; with its reply its tag is free (R202). -/
def slicePacket (s : State) (e : Instr) : State :=
  match e with
  | .hbmRead line bad =>
    let x := dataStack line
    let row := stripeOf line
    if !inHbm (128 * line) then s
    else if moveHolds (stackAt s x) row || behindHeld s line then holdPacket s x row e
    else
      let s := { s with ecc := (bad.filter (fun l => !(decide (l ∈ s.ecc)) && inHbm (128 * l))) ++ s.ecc }
      let bad := s.mmio.dual && lineLost s line
      if !bad && (unusable s line || decide (line ∈ s.poison)) then
        if reconOn s row then holdPacket s x row (.hbmRead line [])
        else if (stackAt s (parityStack line)).lost then freeTag (markPoison (countPacket s x row) line) x
        else startRecon (countPacket s x row) line none
      else freeTag (l2Fill (countPacket s x row) line) x
  | .hbmWrite line bad =>
    if !inHbm (128 * line) then s
    else if writeWaits s line then holdPacket s (dataStack line) (stripeOf line) e
    else replied s (storeLine { s with ecc := (bad.filter (fun l => !(decide (l ∈ s.ecc)) && inHbm (128 * l))) ++ s.ecc } line) line
  | .hbmAtomic line r =>
    if !inHbm (128 * line) || decide (r.pa / 128 ≠ line) || decide (r ∉ s.reds) || decide (r.scope < 5) then s
    else if writeWaits s line then holdPacket s (dataStack line) (stripeOf line) e
    else if writeHeld s [line] || redBehind s r then deferPacket s (dataStack line) (stripeOf line) e
    else
      let t := redPerform s r
      replied t (if isPoisoned t line then t else storeLine t line) line
  | _ => s

/-- Held packets are tried again, in their order of arrival (R206, R212). -/
def retryHeld (s : State) (x : Nat) : State :=
  let hs := (stackAt s x).held
  hs.foldl (fun s e => slicePacket s e.2) (modStack s x (fun k => { k with held := [] }))

/-- Held packets of every stack whose row is in question are tried again. -/
def retryRow (s : State) (row : Nat) : State :=
  (List.range 16).foldl (fun s x => if (stackAt s x).held.any (fun e => e.1 == row) then retryHeld s x else s) s

/-- HBM_READ (R202, R209). -/
def execHbmRead (line : Nat) (bad : List Nat) (s : State) : Host.Outcome State Fault Refusal := .next (slicePacket s (.hbmRead line bad))

/-- HBM_WRITE (R205). -/
def execHbmWrite (line : Nat) (bad : List Nat) (s : State) : Host.Outcome State Fault Refusal := .next (slicePacket s (.hbmWrite line bad))

/-- HBM_ATOMIC: a released reduction performed by the stack controller, its line then written as any other (R202); one that waits at its
controller is tried again there, with the packets behind it. -/
def execHbmAtomic (line : Nat) (r : Red) (s : State) : Host.Outcome State Fault Refusal :=
  .next (if (stackAt s (dataStack line)).held.any (fun e => decide (e.2 = .hbmAtomic line r)) then retryHeld s (dataStack line)
    else slicePacket s (.hbmAtomic line r))

/-- DELTA: the parity line takes the delta, and DACK goes back (R205). A delta to a lost stack is dropped (R208). -/
def execDelta (stack row sender : Nat) (bytes : List (BitVec 8)) (s : State) : Host.Outcome State Fault Refusal :=
  let s := if (stackAt s stack).lost then s else countPacket (parityPut s row (xorBytes (parityLine s row) bytes)) stack row
  .next (send (freeTag s stack) (stackAgent stack) (stackAgent sender) (.dack sender row))

/-- A frozen controller whose count is zero returns its line's value (R206). -/
def answerFreeze (s : State) (x row : Nat) (bad : Bool) : State :=
  let line := lineOf row x
  let v := if bad || unusable s line then none else some (dramLine s line)
  send s (stackAgent x) (stackAgent (row % 16)) (.freezeValue (row % 16) row x v)

/-- DACK: the count falls; at zero a FREEZE that waits is answered (R205, R206). -/
def execDack (stack row : Nat) (s : State) : Host.Outcome State Fault Refusal :=
  let n := sget 0 (stackAt s stack).cnt row - 1
  let s := modStack s stack (fun k => { k with cnt := sset 0 k.cnt row n })
  .next (if decide (n = 0) && decide (row ∈ (stackAt s stack).frozen)
      && (stackAt s (row % 16)).recons.any (fun r => r.row == row && (aget r.vals stack).isNone) then
    answerFreeze s stack row false else s)

/-- FREEZE (R206); a lost stack takes none (R207). -/
def execFreeze (stack row : Nat) (bad : Bool) (s : State) : Host.Outcome State Fault Refusal :=
  if (stackAt s stack).lost then .next s
  else
  let s := modStack s stack (fun k => { k with frozen := if row ∈ k.frozen then k.frozen else row :: k.frozen })
  .next (if sget 0 (stackAt s stack).cnt row = 0 then answerFreeze s stack row bad else s)

/-- FREEZE_VALUE: the parity controller gathers; a survivor that could not be read fails the reconstruction, but for the very line that
is wanted (R206, R209). -/
def execFreezeValue (stack row sender : Nat) (v : Option (List (BitVec 8))) (s : State) : Host.Outcome State Fault Refusal :=
  .next (match (stackAt s stack).recons.find? (fun r => r.row == row) with
    | none => s
    | some r =>
      let own := lineOf row sender == r.line
      let r' := { r with vals := aset r.vals sender (v.getD []), failed := r.failed || (v.isNone && !own) }
      let s := modStack s stack (fun k => { k with recons := k.recons.map (fun q => if q.row = row then r' else q) })
      if (survivors s row).all (fun x => (aget r'.vals x).isSome) then retryRow (settleRecon s stack r') row else s)

/-- UNFREEZE: held writes of the row are performed, in arrival order (R206). -/
def execUnfreeze (stack row : Nat) (s : State) : Host.Outcome State Fault Refusal :=
  .next (retryHeld (modStack s stack (fun k => { k with frozen := k.frozen.filter (fun r => !(r == row)) })) stack)

/-! ### The loss of a stack (R207, R208) -/

/-- The data lines of a stack: 2^29 rows, but the sixteenth of them that hold parity. -/
def dataLines : Nat := 503316480

/-- The lines of a stack not yet counted as poisoned become so (R208, R401). -/
def poisonStack (s : State) (x : Nat) : State :=
  ctrAdd s (ctrKey 3 x 41) (dataLines - ((s.hpoison.filter (fun l => dataStack l == x)).length))

/-- A lost stack answers nothing: its move ends and its held packets proceed, the reconstructions that it ran or that wait for it end,
and rows that it had frozen thaw (R207). -/
def dropStack (s : State) (x : Nat) : State :=
  let mine := (stackAt s x).recons
  let s := modStack s x (fun k => { k with moving := none, march := none, parkQ := [], parkGone := [], marching := false, recons := [],
                                           frozen := [], cnt := [] })
  let s := mine.foldl (fun s r =>
    let s := endRecon s { r with failed := true }
    (survivors s r.row).foldl (fun s y => send s (stackAgent x) (stackAgent y) (.unfreeze y r.row)) s) s
  let s := (List.range 16).foldl (fun s p =>
    ((stackAt s p).recons).foldl (fun s r =>
      settleRecon s p { r with failed := r.failed || (decide (lineOf r.row x ≠ r.line) && (aget r.vals x).isNone) }) s) s
  (List.range 16).foldl retryHeld s

/-- STACK_LOSS: degraded mode, then poison (R207, R208, R210, R363). -/
def loseStack (s : State) (x : Nat) : State :=
  if 16 ≤ x ∨ (stackAt s x).lost then s
  else
    let s := modStack s x (fun k => { k with lost := true })
    let m := s.mmio
    let s :=
      if m.lost0 = 0x1F then
        postLog { s with mmio := { m with lost0 := BitVec.ofNat 5 x, degr := true } } 0x0003 (x / 4) x 0
      else if m.lost1 = 0x1F then
        postLog (poisonStack (poisonStack { s with mmio := { m with lost1 := BitVec.ofNat 5 x, dual := true } } m.lost0.toNat) x)
          0x0004 (x / 4) x 0
      else postLog (poisonStack { s with mmio := { m with more := true } } x) 0x0004 (x / 4) x 0
    dropStack s x

/-- STACK_LOSS (R207). -/
def execStackLoss (stack : Nat) (s : State) : Host.Outcome State Fault Refusal := .next (loseStack s stack)

/-! ### Racking and parking (R211 to R214) -/

/-- A new step of racking or parking may start at a stack (R207, R212). -/
def rackFree (s : State) (x : Nat) : Bool := !s.mmio.degr && (stackAt s x).moving.isNone

/-- A channel's traffic is above the stack's mean by IMB percent (R212, R380). -/
def imbalanced (s : State) (x c : Nat) : Bool :=
  let t := fun (i : Nat) => (ctrGet s (ctrKey 3 x i)).toNat
  let sum := (List.range 32).foldl (fun a i => a + t i) 0
  decide (sum * (100 + s.mmio.imb.toNat) < t c * 3200)

/-- The logical frame that lies in a physical frame. -/
def logFrame (k : Stack) (pf : Nat) : Nat :=
  match k.remap.find? (fun e => e.2 == some pf) with
  | some e => e.1
  | none => pf

/-- A move starts: its traffic is held from now on (R212). -/
def beginMove (s : State) (x : Nat) (m : Move) : State :=
  send (modStack s x (fun k => { k with moving := some m })) (stackAgent x) (stackAgent x) (.swapDrainDone x)

/-- The next step of a parking that is under way: the next frame out, the march, the next frame back, or its end (R214). -/
def parkNext (s : State) (x : Nat) : State :=
  let k := stackAt s x
  match k.march with
  | none => s
  | some (c, b) =>
    if !rackFree s x ∨ k.marching then s
    else
      match k.parkQ with
      | f :: rest =>
        let s := modStack s x (fun k => { k with parkQ := rest })
        beginMove s x { f1 := f, f2 := none, parkFrame := 32768 + 16 * c + physFrame k f / 32 % 16, row := 0, copying := false }
      | [] =>
        let s' := modStack s x (fun k => { k with march := none, bank := sset 0 k.bank (64 * c + b) 0 })
        match k.parkGone with
        | [] => s'
        | f :: _ => beginMove s x { f1 := f, f2 := none, parkFrame := sget 0 k.parked f, row := 0, copying := false }

/-- A parking starts: the bank leaves service, if its channel still has its park bank (R214, R379). -/
def parkStart (s : State) (x : Nat) : State :=
  let k := stackAt s x
  match k.march with
  | none => s
  | some (c, b) =>
    if !k.parkQ.isEmpty ∨ !k.parkGone.isEmpty ∨ k.marching ∨ sget 0 k.bank (64 * c + b) ≠ 0 then s
    else if (List.range 64).any (fun i => sget 0 k.bank (64 * c + i) == 3) then modStack s x (fun k => { k with march := none })
    else if !rackFree s x then after s 11264 (.swapStart x 0 0)
    else
      let fs := (List.range 16).map (fun j => logFrame k (32 * (16 * b + j) + c))
      parkNext (modStack s x (fun k => { k with parkQ := fs, bank := sset 0 k.bank (64 * c + b) 1 })) x

/-- A remap swap starts (R212): of two frames in different channels, one of them above the threshold, with the racking budget to go on. -/
def swapBegin (s : State) (x f1 f2 : Nat) : State :=
  let k := stackAt s x
  let c1 := frameChan (physFrame k f1)
  let c2 := frameChan (physFrame k f2)
  if 16 ≤ x ∨ 32768 ≤ f1 ∨ 32768 ≤ f2 ∨ c1 = c2 ∨ !s.mmio.swapen ∨ !rackFree s x ∨ k.lost then s
  else if 32768 ≤ physFrame k f1 ∨ 32768 ≤ physFrame k f2 ∨ f1 ∈ k.parkQ ∨ f2 ∈ k.parkQ then s
  else if !imbalanced s x c1 ∧ !imbalanced s x c2 then s
  else if !admits s (ctrKey 3 x 32) then refuseAdmission s (ctrKey 3 x 32)
  else beginMove s x { f1 := f1, f2 := some f2, parkFrame := 0, row := 0, copying := false }

/-- SWAP_START: a swap of two frames, or, with both numbers 0, the start of the queued parking (R212, R214). -/
def execSwapStart (stack f1 f2 : Nat) (s : State) : Host.Outcome State Fault Refusal :=
  .next (if f1 = f2 then parkStart s stack else swapBegin s stack f1 f2)

/-- Packets accepted for the frames of a move are still incomplete (R212). -/
def moveBusy (s : State) (x : Nat) (m : Move) : Bool :=
  let inMove := fun (row : Nat) => decide (frameOf row = m.f1) || decide (some (frameOf row) = m.f2)
  let k := stackAt s x
  k.cnt.any (fun e => inMove e.1) || k.frozen.any inMove
    || (List.range 16).any (fun p => (stackAt s p).recons.any (fun r => inMove r.row && r.line == lineOf r.row x))

/-- SWAP_DRAIN_DONE: copying begins when the frames are quiet (R212). -/
def execSwapDrainDone (stack : Nat) (s : State) : Host.Outcome State Fault Refusal :=
  .next (match (stackAt s stack).moving with
    | none => s
    | some m =>
      if m.copying then s
      else if moveBusy s stack m then after s 16 (.swapDrainDone stack)
      else send (modStack s stack (fun k => { k with moving := some { m with copying := true } })) (stackAgent stack) (stackAgent stack)
        (.swapRowCopy stack))

/-- The switch at the end of a move, the release of held packets, and what follows (R212, R214, R401). -/
def endMove (s : State) (x : Nat) (m : Move) : State :=
  let k := stackAt s x
  let put := fun (r : Sparse (Option Nat)) (f pf : Nat) => sset none r f (if pf = f then none else some pf)
  let s := match m.f2 with
    | some f2 =>
      ctrAdd (modStack s x (fun k' => { k' with
        moving := none, remap := put (put k'.remap m.f1 (physFrame k f2)) f2 (physFrame k m.f1) })) (ctrKey 3 x 38) 1
    | none =>
      ctrAdd (modStack s x (fun k' =>
        if 32768 ≤ m.parkFrame then
          { k' with moving := none, remap := put k'.remap m.f1 m.parkFrame, parkGone := k'.parkGone ++ [m.f1]
                    parked := sset 0 k'.parked m.f1 (physFrame k m.f1) }
        else
          { k' with moving := none, remap := put k'.remap m.f1 m.parkFrame
                    parkGone := k'.parkGone.filter (fun f => !(f == m.f1)), parked := sset 0 k'.parked m.f1 0 })) (ctrKey 3 x 39) 1
  let s := retryHeld s x
  let k := stackAt s x
  match k.march, m.f2 with
  | some (c, b), none =>
    if 32768 ≤ m.parkFrame ∧ k.parkQ.isEmpty then
      if s.mmio.degr then s else modStack s x (fun k => { k with marching := true, bank := sset 0 k.bank (64 * c + b) 2 })
    else parkNext s x
  | _, _ => parkNext s x

/-- SWAP_ROW_COPY: one row is exchanged or moved, charged to the racking budget (R212, R213, R407). -/
def execSwapRowCopy (stack : Nat) (s : State) : Host.Outcome State Fault Refusal :=
  .next (match (stackAt s stack).moving with
    | none => s
    | some m =>
      if !m.copying then s
      else if !admits s (ctrKey 3 stack 32) then
        after (refuseAdmission s (ctrKey 3 stack 32)) (11264 - (cycles s (stack / 4)).toNat % 11264) (.swapRowCopy stack)
      else
        let s := charge s (ctrKey 3 stack 32) 1
        let m := { m with row := m.row + 1 }
        if m.row < 16384 then
          send (modStack s stack (fun k => { k with moving := some m })) (stackAgent stack) (stackAgent stack) (.swapRowCopy stack)
        else endMove s stack m)

/-- MARCHREQ: a write to the register queues a parking (R380); in the safe state the register is inert (R450). -/
def execMarchreq (v : BitVec 32) (s : State) : Host.Outcome State Fault Refusal :=
  .next (if s.fw.safe then s else ctlWrite s 0x2058 v.toNat)

/-- BANK_MARCH_END: after a pass the frames move back one at a time; after a failure they stay and the bank is retired (R214). -/
def endMarch (s : State) (x : Nat) (pass : Bool) : State :=
  let k := stackAt s x
  match k.march with
  | none => s
  | some (c, b) =>
    if !k.marching then s
    else if pass then
      parkNext (modStack s x (fun k => { k with marching := false, bank := sset 0 k.bank (64 * c + b) 1 })) x
    else
      postLog (modStack s x (fun k => { k with
        marching := false, march := none, parkGone := [], parked := [], bank := sset 0 k.bank (64 * c + b) 3 }))
        0x0007 (x / 4) x (Config.logData 0x0007 c b)

/-- BANK_MARCH_END (R214). -/
def execBankMarchEnd (stack : Nat) (pass : Bool) (s : State) : Host.Outcome State Fault Refusal := .next (endMarch s stack pass)

/-! ### Budgets (R405) -/

/-- The USED counters of a die, its cores and its stacks. -/
def usedKeys (d : Nat) : List Nat :=
  [ctrKey 2 d 6, ctrKey 2 d 9, ctrKey 2 d 12]
    ++ (List.range 64).flatMap (fun t => [ctrKey 1 (64 * d + t) 14, ctrKey 1 (64 * d + t) 17])
    ++ (List.range 4).flatMap (fun i => [ctrKey 3 (4 * d + i) 32, ctrKey 3 (4 * d + i) 35])

/-- A budget period of a die starts (R405): every USED counter is 0, and what waited for budget goes on. -/
def startPeriod (s : State) (d : Nat) : State :=
  let ks := usedKeys d
  let s := ks.foldl (fun s k => ctrPut s k 0) { s with shorted := s.shorted.filter (fun k => !(decide (k ∈ ks))) }
  let s := drainLog (if d = 0 then ctrAdd s (ctrKey 7 0 3) 1 else s)
  let s := ((List.range 64).map (64 * d + ·)).foldl (fun s c =>
    if (coreAt s c).ops.isEmpty then s else engineKick s c) s
  after s (11264 - (cycles s d).toNat % 11264) (.budgetPeriod d)

/-- BUDGET_PERIOD (R405). -/
def execBudgetPeriod (die : Nat) (s : State) : Host.Outcome State Fault Refusal := 
  .next (if timerSet s (.budgetPeriod die) then s else startPeriod s die)

end Sys2Proof.Machine
end

