-- ==== Sys2Proof/Machine/EvMatrix.lean ====
section
/-! DEFINITION. Sys2Proof/Machine/EvMatrix.lean: the steps of the allocation queue (R273, R274) and of the matrix engine (R280, R286, R287,
R288, R293, R294). -/

namespace Sys2Proof.Machine

/-! ### The allocation queue (R273, R274) -/

/-- Answers requests of the queue. -/
def answerAcc (s : State) (c : Nat) (which : AccReq → Bool) (w : Word) : State :=
  modCore s c (fun k => { k with accQ := k.accQ.map (fun r => if which r && r.granted.isNone then { r with granted := some w } else r) })

/-- The team that receives VICTIM: every team that holds tiles is blocked, and its oldest request is the youngest such (R274). -/
def accVictim (k : Core) : Option Nat :=
  let waiting := k.accQ.filter (fun r => r.granted.isNone)
  let holders := (k.teams.filter (fun e => !e.2.tiles.isEmpty)).map (·.1)
  if holders.isEmpty || !(holders.all (fun t => waiting.any (fun r => r.team == t))) then none
  else
    let ages := holders.map (fun t => (waiting.findIdx (fun r => r.team == t), t))
    (ages.find? (fun e => ages.all (fun f => decide (f.1 ≤ e.1)))).map (·.2)

/-- The allocator: the oldest request is granted when its tiles are free, else a victim may leave; then it looks again. -/
def accStep (s : State) (c : Nat) : State :=
  let k := coreAt s c
  match k.accQ.find? (fun r => r.granted.isNone) with
  | none => s
  | some r =>
    if r.n ≤ (freeTiles k).length ∧ r.n + (teamAt s c r.team).tiles.length ≤ 8 then
      let (ns, s) := grantTiles s c r.team r.n
      kickAcc (answerAcc s c (fun q => decide (q = r)) ((maskOfNames ns).setWidth 32)) c
    else
      match accVictim k with
      | none => s
      | some t => kickAcc (answerAcc s c (fun q => q.team == t) 0x100) c

/-- ACCALLOC_GRANT (R273). -/
def execAccallocGrant (core : Nat) (s : State) : Host.Outcome State Fault Refusal := .next (accStep s core)

/-! ### Matrix steps (R286, R287, R293, R294) -/

/-- The end of a step, unflagged: its results enter the tile, it is charged, and the engine picks the next (R286, R293). Its operand bytes are
the committed ones of this instant (R281; log 108). A stop request takes effect here (R296). -/
def stepDone (s : State) (c : Nat) (o : EngOp) : State :=
  let n := stepCharge s o
  let rows := stepTile s o
  let s := charge (coreCtr s c 13 1) (ctrKey 1 c 14) n
  let s := modTeam s c o.team (fun t => { t with est := n })
  let s := modCore s c (fun k => { k with
    engineStep := none
    tiles := putRows k.tiles (o.phys.headD 0) 0 rows
    ops := k.ops.map (fun p => if p.order = o.order then { p with next := o.next + 1, waitSince := s.clk, ready := true } else p) })
  let s := if mmaNstep o.word ≤ o.next then finishOp s o else engineKick s c
  if (coreAt s c).stopReq then send s c c (.stopAck c 1) else s

/-- A flag during the guarded repeat of a step: TIMING_HARD. The results are discarded, the owning team stops and the core is corked
(R186, R287). -/
def stepHard (s : State) (c : Nat) (o : EngOp) : State :=
  let s := modCore s c (fun k => { k with engineStep := none, engineHalt := true })
  let t := teamAt s c o.team
  let live := (teamSlots s c o.team).filterMap (fun i => (groupAt s c i).bind (fun g => if g.stop.isNone && !g.ended then some (i, g) else none))
  let s := match live.find? (fun e => e.2.gi == o.gi) |>.or live.head? with
    | none => (match t.grid with | some n => abortGrid s n fcTimingHard | none => s)
    | some (slot, g) => faultGroup s c slot [] (sget 0 g.r.pc ((liveLanes g).headD 0))
        { code := fcTimingHard, engine := true, opkind := 3, opword := o.word }
  let s := if (coreAt s c).stopReq then send s c c (.stopAck c 1) else s
  cork s c 2

/-- A step's end. `flag` 0 is the end of its first run and 3 that of its repeat, without a flag; 1 is a shadow latch's flag. -/
def stepEnd (s : State) (c flag : Nat) : State :=
  match (coreAt s c).engineStep.bind (fun i => (coreAt s c).ops.find? (fun o => o.order == i)) with
  | none =>
    let s := modCore s c (fun k => { k with engineStep := none })
    if (coreAt s c).stopReq then send s c c (.stopAck c 1) else s
  | some o =>
    let again := s.timers.any (fun t => decide (t.2 = .mmaStepEnd c 3))
    let s := cancel (cancel s (.mmaStepEnd c 0)) (.mmaStepEnd c 3)
    if flag ≠ 1 then stepDone s c o
    else if (coreAt s c).role = 1 then fatalError s c 1
    else if again then stepHard s c o
    else
      let s := coreCtr (coreCtr s c 5 1) c 6 1
      let s := modCore s c (fun k => { k with margin := { k.margin with repwin := min 65535 (k.margin.repwin + 1) } })
      after s 48 (.mmaStepEnd c 3)

/-- MMA_STEP_END (R294). -/
def execMmaStepEnd (core : Nat) (flag : Nat) (s : State) : Host.Outcome State Fault Refusal := .next (stepEnd s core flag)

/-! ### The other operations (R275, R279, R280, R288) -/

/-- The words of a tile's rows in scratch, row by row (R288). -/
def scratchRows (s : State) (c : Nat) (x : Dword) : List (List Word) :=
  (List.range (rowCount x)).map (fun i => (List.range 128).map (fun j =>
    BitVec.ofNat 32 (natOfBytes ((List.range 4).map (fun b => scrByte s c (imgBase x + BitVec.ofNat 32 (512 * i + 4 * j + b)))))))

/-- ACCST's scratch writes, which every group sees from now on (R288; log 109). -/
def storeRows (s : State) (o : EngOp) (phys : Nat) : State :=
  match scrTarget s o.core (imgBase o.opA) with
  | none => s
  | some (tc, off) =>
    let k := coreAt s o.core
    let bytes := (List.range (rowCount o.opA)).flatMap (fun i => (List.range 128).flatMap (fun j =>
      bytesOf 4 (tileGet k phys (rowFirst o.opA + i) j).toNat))
    modCore s tc (fun k => (bytesAt off bytes).foldl putScratch k)

/-- What an operation other than an MMA does. -/
def performOp (s : State) (o : EngOp) : State :=
  let ph := o.phys.headD 0
  if o.kind = 0 then modCore s o.core (fun k => { k with tiles := o.phys.foldl zeroTile k.tiles })
  else if o.kind = 1 then
    let rows := scratchRows s o.core o.opA
    modCore s o.core (fun k => { k with tiles := putRows k.tiles ph (rowFirst o.opA) rows })
  else if o.kind = 2 then storeRows s o ph
  else if o.kind = 4 then
    let v := natOfBytes o.bytes
    modTeam s o.core o.team (fun t => { t with
      cb := ssetAll 0 t.cb ((List.range 16).map (fun e => (16 * o.word.toNat + e, BitVec.ofNat 16 (v / 2 ^ (16 * e))))) })
  else s

/-- An ACCFREE frees the tiles that it can, and is complete with its last (R275). -/
def freeOp (s : State) (o : EngOp) : State :=
  let ph := freeableTiles s o
  let s := modCore s o.core (fun k => { k with tilesUsed := k.tilesUsed &&& ~~~(maskOfNames ph) })
  let o' := { o with phys := o.phys.filter (fun i => !(decide (i ∈ ph))) }
  if o'.phys.isEmpty then finishOp s o else kickAcc (modOp s o.core o.order (fun _ => o')) o.core

/-- ENGINE_OP_COMPLETE (R280). -/
def execEngineOpComplete (core id : Nat) (s : State) : Host.Outcome State Fault Refusal :=
  .next (match (coreAt s core).ops.find? (fun o => o.order == id && o.kind != 3) with
    | none => s
    | some o =>
      if (coreAt s core).engineHalt || !opReady s o then s
      else if o.kind = 5 then freeOp s o else finishOp (performOp s o) o)

end Sys2Proof.Machine
end

