-- ==== Sys2Proof/Machine/EvHost.lean ====
section
/-! DEFINITION. Sys2Proof/Machine/EvHost.lean: the host's steps: doorbells, descriptors and packets (R336 to R343), contexts and slices (R342,
R348, R353), grids (R340, R352), the fault queue (R358, R359), ATS, PRI and teardown (R369 to R378), landing rings (R360 to R362) and
writes of registers (R335, R363, R367, R386). -/

namespace Sys2Proof.Machine

/-- In the safe state queues, doorbells, rings and registers other than the mailbox's are inert (R450). -/
def inert (s t : State) : State := if s.fw.safe then s else t

/-! ### Doorbells and descriptors (R336, R337) -/

/-- A doorbell (R337): WPTR is set; on an enabled queue too great a difference is OVERRUN, and any other doorbell wakes the queue's die, an
unmapped queue joining its wait list. -/
def ringDoorbell (s : State) (q : Nat) (v : Word) : State :=
  if 16384 ≤ q then s
  else
    let n := descAt s q
    let s := putDesc s q (setField n 159 128 v.toNat)
    let diff := (v - BitVec.ofNat 32 (qRptr n)).toNat
    if !qEn n then s
    else if 2 ^ qLsize n < diff then dispatchAll (queueError s q 4)
    else
      let s := pendDie s (qDie n) 0x10
      if (slotOf s q).isSome then dispatchAll s
      else
        let s := joinWait s q
        dispatchAll (if firmwareIdle s (qDie n) then serveQueues s (qDie n) else s)

/-- DOORBELL (R337). -/
def execDoorbell (q : Nat) (v : BitVec 32) (s : State) : Host.Outcome State Fault Refusal :=
  .next (inert s (ringDoorbell s q v))

/-- The RW bits of each doubleword of a queue descriptor, EN aside (R336). -/
def descMask (w : Nat) : Nat :=
  if w = 0 then 2 ^ 64 - 1 else if w = 1 then 0x1FFFFEFF else if w = 2 then 0x30000000000 else if w = 3 then 0x7FF else 0

/-- A doubleword of a record. -/
def recDw (n w : Nat) : Nat := fieldOf n (64 * w + 63) (64 * w)

/-- Replaces the bits of a mask in a doubleword of a record. -/
def maskWrite (n w mask v : Nat) : Nat :=
  let old := BitVec.ofNat 64 (recDw n w)
  let m := BitVec.ofNat 64 mask
  setField n (64 * w + 63) (64 * w) (((old &&& ~~~m) ||| (BitVec.ofNat 64 v &&& m)).toNat)

/-- The ring of a descriptor is legal (R336). -/
def ringLegal (n : Nat) : Bool :=
  decide (4 ≤ qLsize n) && decide (qLsize n ≤ 20) && decide (fieldOf n 63 0 % (64 * 2 ^ qLsize n) = 0)

/-- A write of a doubleword of a queue descriptor (R336): while EN = 1 only EN ← 0 counts, and unmaps the queue at its next packet
boundary. -/
def writeDesc (s : State) (q off : Nat) (v : Nat) : State :=
  let n := descAt s q
  let w := off / 8
  let en := w == 1 && fieldOf v 8 8 == 1
  if 16384 ≤ q ∨ off % 8 ≠ 0 ∨ 8 ≤ w then s
  else if qEn n then
    if w ≠ 1 ∨ en then s
    else
      let s := leaveWait (putDesc s q (setField n 72 72 0)) q
      match slotOf s q with
      | none => s
      | some i => if ((aget s.hslots i).map (·.consuming)).getD false then s else dispatchAll (dropSlot s i)
  else
    let n := maskWrite n w (descMask w) v
    let n := if en && ringLegal n then setField (setField n 167 160 0) 72 72 1 else n
    putDesc s q n

/-- QUEUE_DESC_WRITE (R336). -/
def execQueueDescWrite (q off : Nat) (v : BitVec 64) (s : State) : Host.Outcome State Fault Refusal :=
  .next (inert s (writeDesc s q off v.toNat))

/-! ### Packets (R338, R341, R343) -/

/-- Bytes [hi:lo] of a packet are zero. -/
def zeroBytes (pk hi lo : Nat) : Bool := bytesField pk hi lo == 0

/-- The fields of a packet other than LAUNCH are legal (R341). Fields that a CTXOP's OP does not use are ignored (log 113). -/
def bodyLegal (pk : Nat) : Bool :=
  let ty := fieldOf pk 7 0
  let addr := bytesField pk 15 8
  if ty = 2 then
    let d := bytesField pk 16 16
    decide (addr % 128 = 0) && (decide (d ≤ 3) || d == 0xFF) && zeroBytes pk 63 17
  else if ty = 3 then decide (addr % 8 = 0) && decide (bytesField pk 24 24 ≤ 1) && zeroBytes pk 63 25
  else if ty = 4 then
    decide (addr % 8 = 0) && decide (bytesField pk 32 32 ≤ 2) && zeroBytes pk 35 33 && zeroBytes pk 63 40
  else if ty = 5 then decide (addr % 8 = 0) && zeroBytes pk 63 16
  else if ty = 6 then
    decide (bytesField pk 8 8 ≤ 4) && zeroBytes pk 15 9 && zeroBytes pk 39 34 && zeroBytes pk 63 56
      && decide (bytesField pk 33 30 < 2 ^ 20)
  else true

/-- The queue error of a packet's header and fields, if any (R338, R343): an unprivileged CTXOP, SEQ, then reserved bits and codes. -/
def packetErr (n pk : Nat) : Option Nat :=
  if fieldOf pk 7 0 = 6 ∧ !qPriv n then some 1
  else if fieldOf pk 63 32 ≠ qRptr n then some 2
  else if fieldOf pk 15 10 ≠ 0 ∨ fieldOf pk 31 16 ≠ 0 ∨ !bodyLegal pk then some 3
  else none

/-- A packet being started: its slot, queue, number, descriptor, PASID, vintner core and bytes. -/
structure Start where
  slot : Nat
  q : Nat
  n : Nat
  desc : Nat
  pasid : Nat
  core : Nat
  pk : Nat
  deriving DecidableEq, Repr

/-- Stops the queue of a packet. -/
def failPacket (s : State) (x : Start) (err : Nat) : State := dispatchAll (queueError s x.q err)

/-- Consumes the packet. -/
def takePacket (s : State) (x : Start) : State := consume s x.slot x.q (fieldOf x.pk 9 9 == 1)

/-- Consumes the packet, which is complete with that. -/
def finishPacket (s : State) (x : Start) : State := completePacket (takePacket s x) x.q x.n

/-- An access that a packet names and that fails: it waits for the host, or is queue error FETCH. -/
def fetchFail (s : State) (x : Start) (e : XErr × Nat) : State :=
  match e.1 with
  | .wait _ => retryPacket s x.slot
  | .held => retryPacket s x.slot
  | .fault _ _ => failPacket s x 5

/-- The step of a packet that a slot's dispatch has begun. A packet that has changed since is looked at again. -/
def startPacket (s : State) (slot : Nat) (me : Instr) (f : State → Start → State) : State :=
  match aget s.hslots slot with
  | none => s
  | some h =>
    if !h.consuming then s
    else
      let n := descAt s h.q
      let (pk, s') := fetchPacket s h.q
      if !ctxLive s (qPasid n) || ((ctxOf s (qPasid n)).map (·.2.dying)).getD true then dispatchAll (queueError s h.q 6)
      else
      let s := s'
      match pk with
      | .error e => if isFailure e.1 then dispatchAll (queueError s h.q 5) else retryPacket s slot
      | .ok pk =>
        if packetStep slot pk ≠ some me then retryPacket s slot
        else
          let x : Start := { slot := slot, q := h.q, n := qRptr n, desc := n, pasid := qPasid n
                             core := (vintnerOf s (qDie n)).getD (64 * qDie n), pk := pk }
          match packetErr n pk with
          | some e => failPacket s x e
          | none => f s x

/-! ### LAUNCH (R339, R340) -/

/-- A LAUNCH whose DONE address is good: refused with its status, or started when cores can be reserved. -/
def launchGrid (s : State) (x : Start) : State :=
  let g := gridOfImage x.pk x.pasid (some (x.q, x.n))
  let (roots, s) := rootLines x.core g .unit (if badLaunch x.pk g then 0 else g.nroot) s
  let ls := match roots with
    | .ok ls => ls
    | .error _ => []
  let err := match roots with
    | .ok _ => none
    | .error e => some e.1
  let st := launchStatus s x.pk g ls
  if (err.map isFailure) = some false && !earlyStatus st then retryPacket s x.slot
  else if st ≠ 0 then
    match writeDone s g st with
    | (true, s) => finishPacket s x
    | (false, s) => retryPacket s x.slot
  else if err.isSome then failPacket s x 5
  else if ctxParked s x.pasid then retryPacket s x.slot
  else
    match reserve s (withRoots g ls) with
    | ({ status := 0, index := i, .. }, s) =>
      match (aget s.gangs i).bind (·.grid) with
      | none => retryPacket s x.slot
      | some gn => commitGrid (dropReservation (takePacket s x) i) gn
    | (_, s) => retryPacket s x.slot

/-- LAUNCH: DONE is checked first (R340). -/
def launchPacket (s : State) (x : Start) : State :=
  let done : Dword := BitVec.ofNat 64 (bytesField x.pk 63 56)
  if done = 0 then launchGrid s x
  else if done.toNat % 8 ≠ 0 then failPacket s x 3
  else
    match engineAddrs s x.core x.pasid done 8 true with
    | (.error e, s) => fetchFail s x e
    | (.ok _, s) => launchGrid s x

/-- LAUNCH (R340). -/
def execLaunch (slot : Nat) (s : State) : Host.Outcome State Fault Refusal := .next (startPacket s slot (.launch slot) launchPacket)

/-! ### COPY, SIGNAL, WAIT, MARKER (R341) -/

/-- Reads bytes that a packet names; poison is a failure. -/
def packetRead (s : State) (x : Start) (va : Dword) (n : Nat) : Except (XErr × Nat) (List Byte) × State := queueRead s x.core x.pasid va n

/-- COPY: a copy on a die's engine, issued by that die's vintner core (R341). An illegal descriptor is BADFIELD (log 112). -/
def copyPacketDo (s : State) (x : Start) : State :=
  match packetRead s x (BitVec.ofNat 64 (bytesField x.pk 15 8)) 128 with
  | (.error e, s) => fetchFail s x e
  | (.ok bs, s) =>
    let ds := dwsOf (natOfBytes bs)
    if !(cpyLegal ds || tcpyLegal ds) || cpyDone ds != 0 || cpyDep ds != 0 then failPacket s x 3
    else
      let b := bytesField x.pk 16 16
      let d := if b = 0xFF then qDie x.desc else b
      let y : Copy := { core := (vintnerOf s d).getD (64 * d), slot := 0, lane := 0xFF, batch := 0, uid := 0, desc := ds, st := 0, count := 0
                        pos := 0, die := d, engine := 0, pasid := x.pasid, grid := none, pkt := some (x.q, x.n), fault := none, endOrder := 0 }
      dispatchAll (enterCopy (takePacket s x) y)

/-- COPY_PACKET (R341). -/
def execCopyPacket (slot : Nat) (s : State) : Host.Outcome State Fault Refusal :=
  .next (startPacket s slot (.copyPacket slot) copyPacketDo)

/-- Stores 8 bytes that a packet names, at system scope, once no chunk in the way holds it. -/
def packetStore (s : State) (x : Start) (va : Dword) (f : Nat → Nat) (reads : Bool) (again : Instr) : State :=
  match engineAddrs s x.core x.pasid va 8 true with
  | (.error e, s) => fetchFail s x e
  | (.ok pas, s) =>
    let pas := pas.map homePa
    if unitWriteWaits s pas then after s 4 again
    else match (if reads then unitRead s pas else some s) with
      | none => after s 4 again
      | some s =>
        if reads && (poisonAt s pas).isSome then failPacket s x 5
        else finishPacket (performWrite s none (pas.zip (bytesOf 8 (f (natOfBytes (pas.map (nowByte s))))))) x

/-- SIGNAL (R341). -/
def signalDo (slot : Nat) (s : State) (x : Start) : State :=
  let v := bytesField x.pk 23 16
  let add := bytesField x.pk 24 24 == 1
  packetStore s x (BitVec.ofNat 64 (bytesField x.pk 15 8)) (fun old => if add then (old + v) % 2 ^ 64 else v) add (.signal slot)

/-- SIGNAL (R341). -/
def execSignal (slot : Nat) (s : State) : Host.Outcome State Fault Refusal := .next (startPacket s slot (.signal slot) (signalDo slot))

/-- MARKER: the die's cycle counter, or nothing for address 0 (R341). -/
def markerDo (slot : Nat) (s : State) (x : Start) : State :=
  let va : Dword := BitVec.ofNat 64 (bytesField x.pk 15 8)
  if va = 0 then finishPacket s x
  else packetStore s x va (fun _ => (cycles s (qDie x.desc)).toNat) false (.marker slot)

/-- MARKER (R341). -/
def execMarker (slot : Nat) (s : State) : Host.Outcome State Fault Refusal := .next (startPacket s slot (.marker slot) (markerDo slot))

/-- The condition of a WAIT on the value it reads (R341). -/
def waitHolds (pk m : Nat) : Bool :=
  let v := bytesField pk 23 16
  let masked := (BitVec.ofNat 64 m &&& BitVec.ofNat 64 (bytesField pk 31 24)).toNat
  let c := bytesField pk 32 32
  if c = 0 then masked == v else if c = 1 then masked != v else decide (v ≤ masked)

/-- The device-physical line of a WAIT's location. -/
def waitLine (s : State) (x : Start) : Nat :=
  match (engineAddrs s x.core x.pasid (BitVec.ofNat 64 (bytesField x.pk 15 8)) 8 false).1 with
  | .ok (a :: _) => homePa a / 128
  | _ => 0

/-- The WAIT at a slot's boundary. -/
def waitAt (s : State) (slot : Nat) : Option Pkt :=
  (aget s.hslots slot).bind (fun h => s.pkts.find? (fun p => p.q == h.q && p.deadline.isSome))

/-- WAIT: complete when its condition holds, or has held since it was read first; else it stays at its boundary and is read again (R341). -/
def waitDo (slot : Nat) (s : State) (x : Start) : State :=
  if ((waitAt s slot).map (·.pass)).getD false then finishPacket s x
  else match packetRead s x (BitVec.ofNat 64 (bytesField x.pk 15 8)) 8 with
  | (.error e, s) => fetchFail s x e
  | (.ok bs, s) =>
    if waitHolds x.pk (natOfBytes bs) then finishPacket s x
    else
      let tmo := 1100 * bytesField x.pk 39 36
      let p : Pkt := { q := x.q, n := x.n, irq := false, deadline := some (if tmo = 0 then 0 else s.clk + tmo), line := waitLine s x }
      let s := after (atPacketBoundary { s with pkts := s.pkts ++ [p] } slot) 1100 (.waitRecheck slot)
      dispatchAll (giveShare (if tmo = 0 then s else after s tmo (.waitTimeout slot)) slot)

/-- WAIT (R341). -/
def execWait (slot : Nat) (s : State) : Host.Outcome State Fault Refusal := .next (startPacket s slot (.wait slot) (waitDo slot))

/-- A WAIT that could not be read is read again: soon where a commit or a packet holds its line, else in 1 µs; a failure is queue error FETCH. -/
def rereadWait (s : State) (slot q : Nat) (e : XErr × Nat) : State :=
  match e.1 with
  | .fault _ _ => dispatchAll (queueError s q 5)
  | .held => after s 4 (.waitRecheck slot)
  | .wait _ => after s 1100 (.waitRecheck slot)

/-- A WAIT is read again: it waits on, or its boundary can be passed, and a decision consumes it (R341, R347). Other packets at a boundary are
tried again. -/
def recheckWait (s : State) (slot : Nat) : State :=
  let s := cancel s (.waitRecheck slot)
  match waitAt s slot with
  | none => dispatchAll s
  | some p =>
    if p.pass then dispatchAll s
    else
      let n := descAt s p.q
      match fetchPacket s p.q with
      | (.error e, s) => rereadWait s slot p.q e
      | (.ok pk, s) =>
        match queueRead s ((vintnerOf s (qDie n)).getD (64 * qDie n)) (qPasid n) (BitVec.ofNat 64 (bytesField pk 15 8)) 8 with
        | (.error e, s) => rereadWait s slot p.q e
        | (.ok bs, s) =>
          if waitHolds pk (natOfBytes bs) then dispatchAll { s with pkts := s.pkts.map (fun x => if x = p then { x with pass := true } else x) }
          else after s 1100 (.waitRecheck slot)

/-- WAIT_RECHECK (R341). -/
def execWaitRecheck (slot : Nat) (s : State) : Host.Outcome State Fault Refusal := .next (inert s (recheckWait s slot))

/-- WAIT_TIMEOUT: queue error WAITTMO, if the WAIT still stands and its time is up (R341). -/
def execWaitTimeout (slot : Nat) (s : State) : Host.Outcome State Fault Refusal :=
  .next (match waitAt s slot with
    | none => s
    | some p =>
      let d := p.deadline.getD 0
      if p.pass ∨ d = 0 ∨ s.clk < d then s else dispatchAll (queueError s p.q 7))

/-! ### CTXOP (R342) -/

/-- The target of a CTXOP. -/
def ctxTarget (x : Start) : Nat := bytesField x.pk 33 30

/-- A slice length is legal (R341). -/
def sliceLegal (n : Nat) : Bool := n == 0 || (decide (100 ≤ n) && decide (n ≤ 1000000))

/-- CREATE (R342): BADFIELD for each breach, else the lowest free entry. -/
def createCtx (s : State) (x : Start) : State :=
  let p := ctxTarget x
  let save := bytesField x.pk 23 16
  let slice := bytesField x.pk 27 24
  let drain := bytesField x.pk 29 28
  let stack := bytesField x.pk 47 40
  let stksz := bytesField x.pk 55 48
  let bad := ctxLive s p || decide (save % 4096 ≠ 0) || decide (hbmEnd < save + s.mmio.savesz) || decide (stack % 4096 ≠ 0)
    || decide (hbmEnd < stack + stksz) || decide (stksz = 0) || decide (stksz % 32768 ≠ 0) || !sliceLegal slice || decide (drain = 0)
  match freshKey s.ctxs 4096 0 with
  | none => failPacket s x 3
  | some i =>
    if bad then failPacket s x 3
    else
      let c : Ctx := { pasid := p, save := save, slice := if slice = 0 then 2000 else slice, drain := drain, stack := stack, stksz := stksz }
      finishPacket { s with ctxs := aset s.ctxs i c } x

/-- CTXOP_CREATE (R342). -/
def execCtxopCreate (slot : Nat) (s : State) : Host.Outcome State Fault Refusal :=
  .next (startPacket s slot (.ctxopCreate slot) createCtx)

/-- An operation on a created context that is not being torn down; any other target is CTXDEAD (R343). -/
def onCtx (s : State) (x : Start) (f : Nat → Ctx → State) : State :=
  match ctxOf s (ctxTarget x) with
  | none => failPacket s x 6
  | some (i, c) => if c.ending ∨ c.dying then failPacket s x 6 else f i c

/-- The reservation that holds a grid which has not started. -/
def reservationOf (s : State) (gn : Nat) : Option Nat := (s.gangs.find? (fun e => e.2.grid == some gn)).map (·.1)

/-- DESTROY: the context's grids are aborted with FCODE 0; its teardown follows (R342). A PREEMPT in progress is waited for: its packet
completes only once the context is stopped and saved. -/
def destroyCtx (s : State) (x : Start) : State :=
  onCtx s x (fun i c =>
    if c.pre.isSome then dispatchAll (retryPacket s x.slot)
    else
    let s := takePacket s x
    let s := modCtx s i (fun c => { c with ending := true, saved := [], pre := some (x.q, x.n), stopping := none, atQ := [] })
    let s := (s.grids.filter (fun e => e.2.pasid == c.pasid)).foldl (fun s e =>
      if e.2.started then abortGrid s e.1 0
      else match reservationOf s e.1 with
        | some r => abortReservation s r e.1
        | none => s) s
    dispatchAll (send s (engineAgent 0) (engineAgent 0) (.teardownFinish c.pasid)))

/-- CTXOP_DESTROY (R342). -/
def execCtxopDestroy (slot : Nat) (s : State) : Host.Outcome State Fault Refusal :=
  .next (startPacket s slot (.ctxopDestroy slot) destroyCtx)

/-- SLICE (R342). -/
def setSlice (s : State) (x : Start) : State :=
  let n := bytesField x.pk 27 24
  if !sliceLegal n then failPacket s x 3
  else onCtx s x (fun i _ => finishPacket (modCtx s i (fun c => { c with slice := if n = 0 then 2000 else n })) x)

/-- CTXOP_SLICE (R342). -/
def execCtxopSlice (slot : Nat) (s : State) : Host.Outcome State Fault Refusal := .next (startPacket s slot (.ctxopSlice slot) setSlice)

/-- PREEMPT: the context's slices end now; the packet completes when it is stopped and saved (R342, R357). A PREEMPT in progress is
waited for. -/
def preemptCtx (s : State) (x : Start) : State :=
  onCtx s x (fun i c =>
    if c.pre.isSome then dispatchAll (retryPacket s x.slot)
    else
      let s := takePacket s x
      let out := (ctxCores s c.pasid).isEmpty && c.stopping.isNone && c.atQ.isEmpty
      let now := (ctxDies s c.pasid).filter (fun d => decide (d ∉ c.atQ))
      let s := modCtx s i (fun c => { c with preempted := true, ends := now.foldl (fun m d => aset m d (min s.clk (sget s.clk c.ends d))) c.ends
                                             pre := if out then none else some (x.q, x.n) })
      if out then completePacket (writeSave s c []) x.q x.n else dispatchAll (stopContext (cancel s (.sliceEnd c.pasid)) c.pasid))

/-- CTXOP_PREEMPT (R342). -/
def execCtxopPreempt (slot : Nat) (s : State) : Host.Outcome State Fault Refusal :=
  .next (startPacket s slot (.ctxopPreempt slot) preemptCtx)

/-- RESUME: the context is eligible for slices again (R342). -/
def resumeCtx (s : State) (x : Start) : State :=
  onCtx s x (fun i _ => finishPacket (modCtx s i (fun c => { c with preempted := false })) x)

/-- CTXOP_RESUME (R342). -/
def execCtxopResume (slot : Nat) (s : State) : Host.Outcome State Fault Refusal :=
  .next (startPacket s slot (.ctxopResume slot) resumeCtx)

/-! ### Grids (R340, R352) -/

/-- GRID_COMPLETION: with GLIVE zero, or aborted and quiet (R340, R359). -/
def execGridCompletion (grid : Nat) (s : State) : Host.Outcome State Fault Refusal :=
  .next (match gridAt s grid with
    | none => s
    | some x =>
      if x.started && x.glive == 0 && (x.aborted.isNone || gridQuiet s grid) then completeGrid s grid else s)

/-- GANG_ROOT_PUSH: each die pushes once, when its cycle counter reaches TS (R352). -/
def rootPush (s : State) (gn d : Nat) : State :=
  match gridAt s gn with
  | none => s
  | some x =>
    if d ∈ x.pushed ∨ x.aborted.isSome then s
    else if (cycles s d).toNat < x.ts then after s 1 (.gangRootPush gn d)
    else pushRoots (modGrid s gn (fun x => { x with pushed := d :: x.pushed })) gn d

/-- GANG_ROOT_PUSH (R352). -/
def execGangRootPush (grid die : Nat) (s : State) : Host.Outcome State Fault Refusal := .next (rootPush s grid die)

/-! ### Slices and stops (R348, R353) -/

/-- The class of a context: the highest of its queues (R348). -/
def ctxClass (s : State) (p : Nat) : Nat :=
  ((s.hslots.filter (fun e => qPasid (descAt s e.2.q) == p)).map (fun e => e.2.cls)).foldl min 3

/-- The slice scheduler: saved contexts come back where their cores are free, higher classes first, and in a class the one that was saved
longest ago; what has just been saved leaves the cores to the next in line (R348, R355). -/
def sliceScheduler (s : State) : State :=
  (List.range 4).foldl (fun s k =>
    let line := (s.ctxs.filter (fun e => ctxClass s e.2.pasid == k && decide (e.2.savedAt + 11000 ≤ s.clk))).mergeSort
      (fun a b => decide (a.2.savedAt ≤ b.2.savedAt))
    line.foldl (fun s e => restoreCtx s e.1) s) s

/-- TIMER's service: stopped contexts are saved, the slice scheduler runs, and restored contexts get their groups back (R348, R353,
R355). -/
def serveTimer (s : State) : State :=
  let ps := s.ctxs.map (fun e => e.2.pasid)
  ps.foldl firmwareRestore (sliceScheduler (ps.foldl firmwareSave s))

/-- MARGIN's service: corked cores of the die are emptied (R185). -/
def serveMargin (s : State) (d : Nat) : State :=
  ((List.range 64).map (64 * d + ·)).foldl (fun s c => if (coreAt s c).role = 3 then migrateCore s c else s) s

/-- FQ's service: entries of the die's fault queue are forwarded, oldest first (R359). -/
def serveFaults (s : State) (d : Nat) : State := send s (engineAgent d) (engineAgent d) (.faultQueuePost d)

/-- The sources that the command firmware serves, in its order: bits of FPEND, and what it does (R348). SYSC, IPI and MGMT ask for software
of its own, of which the spec gives none. -/
def firmwareSources (d : Nat) : List (Word × (State → State)) :=
  [(0x40, fun s => serveMargin s d), (0x20, fun s => serveFaults s d), (0x200, id), (0x80, serveTimer), (0x10, fun s => serveQueues s d),
   (0xF, id), (0x100, id)]

/-- The command firmware of a die wakes and serves its sources in order; each is served until it is empty, which takes no time here
(R348; log 1). -/
def commandFirmware (s : State) (d : Nat) : State :=
  (firmwareSources d).foldl (fun s x =>
    match vintnerOf s d with
    | none => x.2 s
    | some c => x.2 (modCore s c (fun k => { k with fpend := k.fpend &&& ~~~x.1 }))) s

/-- The firmware of a die runs its scheduler: not where a program stands for it that holds the die's queues, as a live update does (R456; log 117). -/
def schedulerRuns (s : State) (d : Nat) : Bool := firmwareIdle s d || !s.fw.qhold.getLsbD d

/-- FIRMWARE_TIMER: FPEND.TIMER every 10 µs; the slice scheduler runs (R175, R348), and the command firmware where no program of
the die's vintner core stands for it. -/
def execFirmwareTimer (die : Nat) (s : State) : Host.Outcome State Fault Refusal :=
  .next (inert s (if timerSet s (.firmwareTimer die) then s
    else
      let s := pendDie s die 0x80
      after (if firmwareIdle s die then commandFirmware s die else if schedulerRuns s die then sliceScheduler s else s) 11000
        (.firmwareTimer die)))

/-- A slice of a context on a die goes on, since no firmware runs its scheduler: its end moves on, and that is no overrun (R456). -/
def postponeSlice (s : State) (i d : Nat) (c : Ctx) : State :=
  after (modCtx s i (fun c => { c with ends := aset c.ends d (s.clk + 1100 + 1100 * c.drain) })) 1100 (.sliceEnd c.pasid)

/-- SLICE_END: at E − drain the context is stopped if another waits, else a new slice begins at E (R348, R353). -/
def endSlice (s : State) (p : Nat) : State :=
  match ctxOf s p with
  | none => s
  | some (i, c) =>
    let due := (ctxDies s p).filter (fun d => decide (sget 0 c.ends d ≤ s.clk + 1100 * c.drain) && decide (d ∉ c.atQ)
      && !(c.stopping.getD []).any (fun e => decide (dieOf e.1 = d)))
    if c.preempted then s
    else due.foldl (fun s d =>
      if !schedulerRuns s d then postponeSlice s i d c
      else if othersWait s p d then stopDies s p [d] else sliceFrom s i d (sget 0 c.ends d)) s

/-- SLICE_END (R353). -/
def execSliceEnd (pasid : Nat) (s : State) : Host.Outcome State Fault Refusal := .next (endSlice s pasid)

/-- STOP_ACK: an acknowledgement counts once its class has stopped (R353, R354). -/
def stopAck (s : State) (c cls : Nat) : State :=
  if cls = 0 ∧ !coreStopped s c then s
  else if cls = 1 ∧ (coreAt s c).engineStep.isSome then s
  else if cls = 5 ∧ collectivesOut s c then after s 16 (.stopAck c 5)
  else collectAck s c cls

/-- STOP_ACK (R353). -/
def execStopAck (core cls : Nat) (s : State) : Host.Outcome State Fault Refusal := .next (stopAck s core cls)

/-! ### The fault queue and its answers (R358, R359) -/

/-- The fault concerns a page that the host translates by ATS (R359, R371). -/
def atsFault (s : State) (e : FaultEnt) : Bool :=
  let code := if e.rec_.code = fcCopyFault then e.rec_.cause else e.rec_.code
  (code == fcTranslation || code == fcPermission) && s.mmio.atsen &&
    (match (pasidRoot s e.pasid).map (walkFrom s (e.rec_.addr % 2 ^ 57) 5 4) with
      | some (.ok (l, _, _)) => pteMt l == 2
      | _ => false)

/-- One entry is taken from a die's fault queue: a page request, or an entry of the driver fault ring while FRBASE lies in the host
window; else it stays. -/
def forwardOne (s : State) (d : Nat) : Option State :=
  match (dieAt s d).faultQ with
  | [] => none
  | e :: rest =>
    let s' := modDie s d (fun x => { x with faultQ := rest })
    if atsFault s e then
      match freshKey s.pri 512 0 with
      | none => none
      | some i => some (after { s' with pri := aset s.pri i (1, e) } 110000 (.atsTagTimeout (1024 + i)))
    else
      let i := s.ringNext % 1024
      if !inHost s.mmio.frbase ∨ (aget s.ring i).isSome then none
      else some (performWrite { s' with ring := aset s.ring i e, ringNext := s.ringNext + 1 } none
        (bytesAt (s.mmio.frbase + 64 * i) (entryBytes e)))

/-- FAULT_QUEUE_POST: entries that wait for room enter the queue, and the firmware forwards what it can, oldest first. -/
def postWaiting (s : State) (d : Nat) : State :=
  let x := dieAt s d
  let room := 512 - x.faultQ.length
  let s := if x.faultWait.isEmpty ∨ room = 0 then s
    else pendDie (modDie s d (fun x => { x with faultQ := x.faultQ ++ x.faultWait.take room, faultWait := x.faultWait.drop room })) d 0x20
  match forwardOne s d with
  | none => s
  | some s => send s (engineAgent d) (engineAgent d) (.faultQueuePost d)

/-- FAULT_QUEUE_POST (R358). -/
def execFaultQueuePost (die : Nat) (s : State) : Host.Outcome State Fault Refusal := .next (postWaiting s die)

/-- FRDONE (R359). -/
def execFrdone (v : BitVec 64) (s : State) : Host.Outcome State Fault Refusal :=
  .next (inert s (frdoneWrite s v))

/-- A context that completions still apply to (R377). -/
def ctxServed (s : State) (p : Nat) : Bool := ((ctxOf s p).map (fun e => !e.2.dying)).getD false

/-- PRI_RESPONSE: the agent resumes or is aborted; an answer to a request no longer outstanding, or of a dying context, is discarded
(R359, R377, R378). -/
def priAnswer (s : State) (id : Nat) (ok : Bool) : State :=
  match aget s.pri id with
  | none => s
  | some (out, e) =>
    let s := cancel { s with pri := adel s.pri id } (.atsTagTimeout (1024 + id))
    if out ≠ 1 ∨ !ctxServed s e.pasid then s
    else forwardFaults (if ok then resumeAgent s e else refuseAgent s e)

/-- PRI_RESPONSE (R359). -/
def execPriResponse (id : Nat) (ok : Bool) (s : State) : Host.Outcome State Fault Refusal := .next (priAnswer s id ok)

/-! ### ATS, walks and teardown (R369, R371, R373, R374, R377, R378) -/

/-- The last `n` entries of a list. -/
def lastOf {α : Type} (n : Nat) (l : List α) : List α := l.drop (l.length - n)

/-- ATS_COMPLETION: a present page fills the asking die's ATC; one not present is kept for the accesses that asked, for 100 µs at most (R371, R373,
R377; log 102). -/
def atsAnswer (s : State) (tag : Nat) (bus : Option (Nat × Bool)) (w x : Bool) : State :=
  match aget s.ats tag with
  | none => s
  | some r =>
    let s := cancel { s with ats := adel s.ats tag } (.atsTagTimeout tag)
    if !r.out ∨ !ctxServed s r.pasid then s
    else match bus with
      | some b =>
        let t : TlbEnt := { pasid := r.pasid, va := r.page, lvl := 0, leaf := 0, ats := some { page := b.1, r := b.2, w := w, x := x } }
        modDie s (dieOf r.core) (fun d => { d with
          atc := lastOf 8192 (d.atc.filter (fun u => !(u.pasid == r.pasid && u.va == r.page)) ++ [t]) })
      | none =>
        if r.who.isEmpty then s
        else after { s with ats := aset s.ats tag { r with out := false, absent := true } } 110000 (.atsTagTimeout tag)

/-- ATS_COMPLETION (R371). -/
def execAtsCompletion (tag : Nat) (busPage : Option (Nat × Bool)) (w x : Bool) (s : State) : Host.Outcome State Fault Refusal :=
  .next (atsAnswer s tag busPage w x)

/-- ATS_TAG_TIMEOUT: a tag, or from 1,024 on a page request, stops being outstanding; it is not used again until its completion comes
or the completion timeout of the PCI Express function, a second such step, frees it (R377). The agent of a page request goes back to
the fault queue. -/
def tagTimeout (s : State) (tag : Nat) : State :=
  if timerSet s (.atsTagTimeout tag) then s
  else if tag < 1024 then
    match aget s.ats tag with
    | none => s
    | some r => { s with ats := if r.out then aset s.ats tag { r with out := false } else adel s.ats tag }
  else
    match aget s.pri (tag - 1024) with
    | none => s
    | some (out, e) =>
      if out = 1 then postFault { s with pri := aset s.pri (tag - 1024) (0, e) } e else { s with pri := adel s.pri (tag - 1024) }

/-- ATS_TAG_TIMEOUT (R377). -/
def execAtsTagTimeout (tag : Nat) (s : State) : Host.Outcome State Fault Refusal := .next (tagTimeout s tag)

/-- An Invalidate Request in progress is looked at: where what it waits for is over, its Invalidate Completion is sent (R374). -/
def pollInval (s : State) (r : Nat × Nat × Nat) : State :=
  let fin := s.atsInv.filter (fun e => e.1 == r && invOver s e.2)
  let s := { s with atsInv := s.atsInv.filter (fun e => !(e.1 == r && invOver s e.2)), invSent := fin.map (·.1) ++ s.invSent }
  let ev := Instr.atsInvalidate r.1 r.2.1 r.2.2
  if s.atsInv.any (fun e => e.1 == r) && !timerSet s ev then after s 64 ev else s

/-- ATS_INVALIDATE: a request of the host, which is a TLBINV of kind PAGE for every page of the range; or the next look at one in
progress (R374). -/
def atsInval (s : State) (p va pages : Nat) : State :=
  let r := (p, va, pages)
  if s.atsInv.any (fun e => e.1 == r) && !timerSet s (.atsInvalidate p va pages) then pollInval s r
  else
    let (s, w) := invalidateRange s p va pages
    pollInval { s with atsInv := s.atsInv ++ [(r, w)] } r

/-- ATS_INVALIDATE (R374). -/
def execAtsInvalidate (pasid va pages : Nat) (s : State) : Host.Outcome State Fault Refusal := .next (atsInval s pasid va pages)

/-- The non-leaf entries that a walk passes, with their levels (R369, R373). -/
def walkPath (s : State) (va : Nat) : Nat → Nat → Nat → List (Nat × Dword)
  | 0, _, _ => []
  | fuel + 1, lvl, t =>
    let i := (va / 2 ^ (12 + 9 * lvl)) % 512
    let e := readEntry s (t + 8 * i)
    if !pteV e || pteMalformed e lvl (i % 16) || pteLeaf e then [] else (lvl, e) :: walkPath s va fuel (lvl - 1) (pteAddr e)

/-- PAGE_WALK: a walk's leaf enters the core's TLBs, and its non-leaf entries the die's walk cache (R369, R373). -/
def pageWalk (s : State) (c p : Nat) (va : Dword) : State :=
  let v := va.toNat % 2 ^ 57
  match (if canonical va && !(p == 0 && (inFwRegion va.toNat || inMmio va.toNat)) then pasidRoot s p else none) with
  | none => s
  | some root =>
    let new : List TlbEnt := (walkPath s v 5 4 root).map (fun e =>
      { pasid := p, va := v / 2 ^ (12 + 9 * e.1), lvl := e.1, leaf := e.2, ats := none })
    let s := modDie s (dieOf c) (fun d => { d with
      wcache := lastOf 1024 (d.wcache.filter (fun t => !(new.any (fun u => u.pasid == t.pasid && u.lvl == t.lvl && u.va == t.va))) ++ new) })
    match walkFrom s v 5 4 root with
    | .ok (e, lvl, _) => fillTlb s c .group { pasid := p, va := v / 4096, lvl := lvl, leaf := e, ats := none }
    | .error _ => s

/-- PAGE_WALK (R369). -/
def execPageWalk (core pasid : Nat) (va : BitVec 64) (s : State) : Host.Outcome State Fault Refusal := .next (pageWalk s core pasid va)

/-- Teardown begins (R378): the context is dying, its queues stop, its fault entries are discarded, and its translations go. -/
def startTeardown (s : State) (i p : Nat) : State :=
  let s := modCtx s i (fun c => { c with dying := true })
  let s := s.hslots.foldl (fun s h =>
    if qPasid (descAt s h.2.q) = p ∧ !h.2.consuming then queueError s h.2.q 6 else s) s
  let keep := fun (e : FaultEnt) => !(e.pasid == p)
  let s := { s with
    dies := s.dies.map (fun (d : Nat × Die) => (d.1, { d.2 with faultQ := d.2.faultQ.filter keep, faultWait := d.2.faultWait.filter keep }))
    ring := s.ring.filter (fun e => keep e.2) }
  let (s, w) := invalidateTlb { s with priStops := p :: s.priStops } (256, 0) { kind := 1, pasid := p, va := 0 }
  modCtx s i (fun c => { c with inval := some w })

/-- No ATS tag and no page request of the context is outstanding. -/
def tagsDone (s : State) (p : Nat) : Bool :=
  s.ats.all (fun e => !(e.2.out && e.2.pasid == p)) && s.pri.all (fun e => !(e.2.1 == 1 && e.2.2.pasid == p))

/-- TEARDOWN_FINISH: with the grids gone the teardown begins, and with no tag outstanding the entry is freed and DESTROY completes
(R342, R378, R465). -/
def teardownStep (s : State) (p : Nat) : State :=
  match ctxOf s p with
  | none => s
  | some (i, c) =>
    let again := fun (s : State) => after (cancel s (.teardownFinish p)) 64 (.teardownFinish p)
    if !c.ending then s
    else if !c.dying then (if s.grids.any (fun e => e.2.pasid == p) then again s else again (startTeardown s i p))
    else if !(c.inval.map (invOver s)).getD true || !tagsDone s p || s.copies.any (fun e => e.2.pasid == p && e.2.st == 1) then again s
    else
      let s := { s with ctxs := adel s.ctxs i, copies := s.copies.filter (fun e => !(e.2.pasid == p))
                        ats := s.ats.filter (fun e => !(e.2.pasid == p && e.2.absent)) }
      match c.pre with
      | some (q, n) => completePacket s q n
      | none => s

/-- TEARDOWN_FINISH (R378). -/
def execTeardownFinish (pasid : Nat) (s : State) : Host.Outcome State Fault Refusal := .next (teardownStep s pasid)

/-! ### Landing rings (R360 to R362) -/

def ringDesc (s : State) (r : Nat) : Nat := memNat s (s.mmio.rtbase + 64 * r) 64
def putRing (s : State) (r n : Nat) : State := performWrite s none (bytesAt (s.mmio.rtbase + 64 * r) (bytesOf 64 n))

/-- The write of doubleword `w` of a ring's descriptor by its port. -/
def portWrite (s : State) (r w v : Nat) : Nat × List Byte := (s.mmio.rtbase + 64 * r + 8 * w, bytesOf 8 v)

def lrBase (n : Nat) : Nat := fieldOf n 51 0
def lrLslot (n : Nat) : Nat := fieldOf n 56 52
def lrSlotl (n : Nat) : Nat := fieldOf n 63 57
def lrPolicy (n : Nat) : Nat := fieldOf n 65 64
def lrOnchip (n : Nat) : Bool := fieldOf n 66 66 == 1
def lrKeyen (n : Nat) : Bool := fieldOf n 67 67 == 1
def lrKey (n : Nat) : Nat := fieldOf n 79 68
def lrPort (n : Nat) : Nat := fieldOf n 82 80
def lrEn (n : Nat) : Bool := fieldOf n 83 83 == 1
def lrPidx (n : Nat) : Nat := fieldOf n 191 128
def lrOld (n : Nat) : Nat := fieldOf n 255 192

/-- A ring's header line and slots, in lines. -/
def ringLines (n : Nat) : Nat := 1 + 2 ^ lrLslot n * lrSlotl n

/-- Lines of a ring homed on a die. -/
def ringOnDie (n d : Nat) : Nat := ((List.range (ringLines n)).filter (fun i => homeDie (lrBase n / 128 + i) == d)).length

/-- The other enabled rings whose lines are held on chip. -/
def onchipRings (s : State) (r : Nat) : List Nat :=
  ((List.range 8192).filter (fun i => decide (i ≠ r) && lrEn (ringDesc s i) && lrOnchip (ringDesc s i))).map (ringDesc s)

/-- The on-chip lines fit, 16 MiB on each die (R360). -/
def onchipFits (s : State) (r n : Nat) : Bool :=
  let rs := n :: onchipRings s r
  if 4 * 131072 < (rs.map ringLines).sum then false
  else (List.range 4).all (fun d => decide ((rs.map (fun x => ringOnDie x d)).sum ≤ 131072))

/-- The fields of a landing ring descriptor are legal (R360). -/
def ringOk (s : State) (r n : Nat) : Bool :=
  decide (4 ≤ lrLslot n) && decide (lrLslot n ≤ 20) && decide (1 ≤ lrSlotl n) && decide (lrSlotl n ≤ 72) && decide (lrPolicy n ≤ 2)
    && decide (lrBase n % 128 = 0) && decide (lrBase n + 128 * ringLines n ≤ hbmEnd) && (!lrOnchip n || onchipFits s r n)

/-- A write of a doubleword of a landing ring descriptor (R360). -/
def writeRing (s : State) (r off v : Nat) : State :=
  let n := ringDesc s r
  let w := off / 8
  let en := w == 1 && fieldOf v 19 19 == 1
  if 8192 ≤ r ∨ off % 8 ≠ 0 ∨ 2 ≤ w then s
  else if lrEn n then (if w = 1 ∧ !en then putRing s r (setField n 83 83 0) else s)
  else
    let n := maskWrite n w (if w = 0 then 2 ^ 64 - 1 else 0x7FFFF) v
    putRing s r (if en && ringOk s r n then setField n 83 83 1 else n)

/-- LANDING_DESC_WRITE (R360). -/
def execLandingDescWrite (ring off : Nat) (v : BitVec 64) (s : State) : Host.Outcome State Fault Refusal :=
  .next (inert s (writeRing s ring off v.toNat))

/-! ### Inbound accesses (R223) -/

/-- Inbound bytes in a table of 64-byte descriptors act as writes of the entry at `t`, doubleword by doubleword, the one that holds EN last (R11,
R336, R360). -/
def writeTable (t : Nat) (put : State → Nat → Nat → State) (f : Nat → Option Byte) (s : State) : State :=
  ([0, 2, 3, 4, 5, 6, 7, 1] : List Nat).foldl (fun s w =>
    let a := t + 8 * w
    if (List.range 8).all (fun i => (f (a + i)).isNone) then s
    else put s (8 * w) (natOfBytes ((List.range 8).map (fun i => (f (a + i)).getD (memByte s (a + i)))))) s

/-- The bytes of an inbound write to one line take effect; in the safe state the dump window is read-only, and nothing else of the package's
memory is written (R450, R464). -/
def inboundLine (s : State) (pa : Nat) (bs : List Byte) : State :=
  let f := fun a => if a < pa then none else bs[a - pa]?
  let inTable := fun (t n : Nat) => t != 0 && decide (t ≤ pa) && decide (pa + bs.length ≤ t + 64 * n)
  let table := fun (t : Nat) (put : State → Nat → Nat → Nat → State) =>
    let q := (pa - t) / 64
    [q, q + 1].foldl (fun s q => writeTable (t + 64 * q) (fun s => put s q) f s) s
  if inHbm pa && s.fw.safe then s
  else if inTable s.mmio.qtbase 16384 then table s.mmio.qtbase writeDesc
  else if inTable s.mmio.rtbase 8192 then table s.mmio.rtbase writeRing
  else performWrite s none (bytesAt pa bs)

/-- An inbound read: line by line, the home slice answers with the committed bytes once no commit or packet holds the line, and holds the line then
(R188, R220, R223). -/
def inboundRead (s : State) (pa n : Nat) : State :=
  let m := 128 - pa % 128
  let s := if n ≤ m then s else send s 9001 (sliceAgent (homeSlice ((pa + m) / 128))) (.inboundAccess (pa + m) none (n - m))
  if !inHbm pa then s
  else match unitRead s [pa] with
    | none => after s 4 (.inboundAccess pa none (min n m))
    | some s => s

/-- An inbound write: an aligned access of up to 8 bytes is one chunk, a larger one a chunk for each line; it waits at its home slice
while a live or granted chunk meets its line. Memory beyond the package changes as its own owner writes it. -/
def inbound (s : State) (pa : Nat) (bytes : List Byte) : State :=
  let n := 128 - pa % 128
  let now := bytes.take n
  let later := bytes.drop n
  let s := if later.isEmpty then s else send s 9001 (sliceAgent (homeSlice ((pa + n) / 128))) (.inboundAccess (pa + n) (some later) later.length)
  if now.isEmpty ∨ !(inHbm pa || beyond pa) then s
  else if inHbm pa && writeHeld s [pa / 128] then after s 4 (.inboundAccess pa (some now) now.length)
  else inboundLine s pa now

/-- INBOUND_ACCESS (R223). -/
def execInboundAccess (pa : Nat) (wr : Option (List (BitVec 8))) (n : Nat) (s : State) : Host.Outcome State Fault Refusal :=
  .next (match wr with
    | none => inboundRead s pa n
    | some bytes => inbound s pa bytes)

/-! ### The landing of packets (R361, R362) -/

/-- A packet of a ring's flow is dropped or lost: both loss counters count it (R362, R402). -/
def losePacket (s : State) (r len : Nat) : State := ctrAdd (ctrAdd s (ctrKey 4 0 r) 1) (ctrKey 4 1 r) len

/-- The ingress buffer of a ring's port, 2 MiB, has room for a payload (R362). -/
def ingressRoom (s : State) (n len : Nat) : Bool :=
  decide (((s.ingress.filter (fun e => lrPort (ringDesc s e.1) == lrPort n)).map (fun e => e.2.length)).sum + len ≤ 2097152)

/-- The plain payload of a packet, if its key is loaded and its tag passes (R362, R386): the key's words and the salt, then the IV, are
little-endian (log 10). -/
def openPacket (s : State) (n : Nat) (p : LandPacket) (seq : Dword) : Option (List Byte) :=
  if !lrKeyen n then some p.payload
  else (aget s.keys.entries (lrKey n)).bind (fun ks =>
    gcmDecrypt ((ks.take 4).flatMap (fun w => bytesOf 8 w.toNat)) (bytesOf 4 (ks.getD 4 0).toNat ++ bytesOf 8 seq.toNat)
      p.header p.payload (bytesOf 16 p.tag.toNat))

/-- The committed CIDX of a ring, as the port reads it. -/
def ringCidx (s : State) (n : Nat) : Nat := memNat s (lrBase n + 8) 8

/-- The ring is full (R362). -/
def ringFull (s : State) (n : Nat) : Bool := decide (2 ^ lrLslot n ≤ lrPidx n - max (ringCidx s n) (lrOld n))

/-- The writes that land a packet, each one inbound chunk (R361): the first line marked as being written, the other payload lines, the
first line, the header's PIDX. Bytes 10 to 15 of a first line are written as zero (log 78). -/
def landWrites (n : Nat) (bs : List Byte) : List (Nat × List Byte) :=
  let p := lrPidx n
  let a := lrBase n + 128 * (1 + p % 2 ^ lrLslot n * lrSlotl n)
  let rest := bs.drop 112
  let head := fun (seq : Nat) => bytesOf 8 seq ++ bytesOf 2 bs.length ++ List.replicate 6 0 ++ bs.take 112
  [(a, head (2 ^ 63 + p))]
    ++ (List.range ((rest.length + 127) / 128)).map (fun i => (a + 128 * (i + 1), (rest.drop (128 * i)).take 128))
    ++ [(a, head p), (lrBase n, bytesOf 8 (p + 1))]

/-- A packet begins to land, or meets the ring's policy (R361, R362): its writes, and those of the descriptor's PIDX and OLD, follow one by one.
It waits while a commit holds the header line, from which CIDX is read (R220). -/
def meetRing (s : State) (r : Nat) (bs : List Byte) : State :=
  let n := ringDesc s r
  let begin_ := fun (s : State) (before : List (Nat × List Byte)) =>
    send { s with landing := aset s.landing r (before ++ landWrites n bs ++ [portWrite s r 2 (lrPidx n + 1)]) } 9001 (engineAgent 4) (.landingRetry r)
  if !lrEn n ∨ lrSlotl n * 128 - 16 < bs.length then losePacket s r bs.length
  else match unitRead s [lrBase n] with
  | none => after { s with ingress := (r, bs) :: s.ingress } 4 (.landingRetry r)
  | some s =>
  if !ringFull s n then begin_ s []
  else if lrPolicy n = 0 then losePacket s r bs.length
  else if lrPolicy n = 1 then
    let old := lrPidx n - 2 ^ lrLslot n
    let a := lrBase n + 128 * (1 + lrPidx n % 2 ^ lrLslot n * lrSlotl n)
    let s := if ringCidx s n ≤ old then losePacket s r (memNat s (a + 8) 2) else s
    begin_ s [portWrite s r 3 (old + 1)]
  else if !ingressRoom s n bs.length then losePacket s r bs.length
  else after { s with ingress := (r, bs) :: s.ingress } 1100 (.landingRetry r)

/-- LANDING_PACKET: a packet of an enabled ring is decrypted with its key as it stands (R386); it waits behind one of its ring that is landing or
held, and the port's ingress buffer holds 2 MiB (R362). -/
def arrivePacket (s : State) (r : Nat) (p : LandPacket) (seq : Dword) : State :=
  if 8192 ≤ r then s
  else
    let n := ringDesc s r
    match (if lrEn n then openPacket s n p seq else none) with
    | none => losePacket s r p.payload.length
    | some bs =>
      if (aget s.landing r).isSome || s.ingress.any (fun e => e.1 == r) then
        if !ingressRoom s n bs.length then losePacket s r bs.length
        else { s with ingress := s.ingress ++ [(r, bs)] }
      else meetRing s r bs

/-- LANDING_PACKET (R361). -/
def execLandingPacket (ring : Nat) (packet : LandPacket) (seq : BitVec 64) (s : State) : Host.Outcome State Fault Refusal :=
  .next (inert s (arrivePacket s ring packet seq))

/-- The next held packet of a ring is tried. -/
def nextHeld (s : State) (r : Nat) : State :=
  match s.ingress.find? (fun e => e.1 == r) with
  | none => s
  | some e => meetRing { s with ingress := s.ingress.erase e } r e.2

/-- LANDING_RETRY: the next write of the packet that is landing, or a packet held by backpressure once there is room (R361, R362). -/
def landStep (s : State) (r : Nat) : State :=
  match aget s.landing r with
  | none => nextHeld (cancel s (.landingRetry r)) r
  | some [] => nextHeld (ctrAdd { s with landing := adel s.landing r } (ctrKey 4 2 r) 1) r
  | some ((a, bs) :: rest) =>
    if writeHeld s [a / 128] then after (cancel s (.landingRetry r)) 4 (.landingRetry r)
    else
      let s := performWrite s none (bytesAt a bs)
      if !rest.isEmpty then send { s with landing := aset s.landing r rest } 9001 (engineAgent 4) (.landingRetry r)
      else nextHeld (ctrAdd { s with landing := adel s.landing r } (ctrKey 4 2 r) 1) r

/-- LANDING_RETRY (R362). -/
def execLandingRetry (ring : Nat) (s : State) : Host.Outcome State Fault Refusal := .next (inert s (landStep s ring))

/-! ### Register writes (R11, R335, R363, R386) -/

/-- MLCTL_WRITE (R363). -/
def execMlctlWrite (v : BitVec 64) (s : State) : Host.Outcome State Fault Refusal :=
  .next (inert s (setMlctl s v))

/-- KEYCMD_LOAD (R386). -/
def execKeycmdLoad (s : State) : Host.Outcome State Fault Refusal :=
  .next (inert s (keyCommand s 1))

/-- KEYCMD_CLEAR (R386). -/
def execKeycmdClear (s : State) : Host.Outcome State Fault Refusal :=
  .next (inert s (keyCommand s 2))

/-- KEYCMD_DONE (R386). -/
def execKeycmdDone (s : State) : Host.Outcome State Fault Refusal :=
  .next { (cancel s .keycmdDone) with keys := { s.keys with busy := false } }

/-- REGISTER_WRITE: by the host, or in F-mode, of 4 or 8 aligned bytes (R11, R335). -/
def execRegisterWrite (off size : Nat) (v : BitVec 64) (fmode : Bool) (s : State) : Host.Outcome State Fault Refusal :=
  .next (if (size = 4 ∨ size = 8) ∧ off % size = 0 ∧ off < 0x100000000 ∧ (s.fw.safe → 0x5100 ≤ off ∧ off < 0x5148) then
    regWrite s 0 fmode off size (v.toNat % 2 ^ (8 * size)) else s)

end Sys2Proof.Machine
end

