-- ==== Sys2Proof/Machine/EvFirmware.lean ====
section
/-! DEFINITION. Sys2Proof/Machine/EvFirmware.lean: the steps of resets, boot, the firmware block, flash, the heartbeat, the mailbox, fatal
errors and the dump (R444 to R464), over the operations of Machine/Firmware.lean. -/

namespace Sys2Proof.Machine

/-! ### Resets and power (R447 to R450) -/

/-- POWER_ON_RESET: the package resets and boots (R448). -/
def execPowerOnReset (s : State) : Host.Outcome State Fault Refusal := .next (boot (cutFlash s))

/-- HOT_RESET: in the safe state the device boots again (R450); elsewhere QHOLD is cleared (R456). -/
def execHotReset (s : State) : Host.Outcome State Fault Refusal :=
  .next (if s.fw.safe then reboot s else dispatchAll (holdQueues s 0))

/-- The package without power: what is volatile is lost, and a flash operation is cut short (R447). -/
def losePower (s : State) : State := { afterReset (cutFlash s) with power := false }

/-- POWER_OFF (R447). -/
def execPowerOff (s : State) : Host.Outcome State Fault Refusal := .next (losePower s)

/-! ### The image check and the flash (R453 to R455) -/

/-- IMGCHK (R454). -/
def execImgchk (v : BitVec 64) (s : State) : Host.Outcome State Fault Refusal := .next (inert s (imgChk s v))

/-- IMAGE_CHECK_DONE (R454). -/
def execImageCheckDone (s : State) : Host.Outcome State Fault Refusal := .next (imgDone (cancel s .imageCheckDone))

/-- A write of FLDESC with a descriptor whose OP is not another operation's. -/
def flashOp (s : State) (op : Nat) (v : Dword) : State :=
  let x := (flashDesc s v.toNat).1
  if 1 ≤ x ∧ x ≤ 3 ∧ x ≠ op then s else flashStart s v

/-- FLASH_READ (R455). -/
def execFlashRead (v : BitVec 64) (s : State) : Host.Outcome State Fault Refusal := .next (inert s (flashOp s 1 v))

/-- FLASH_PROGRAM (R455). -/
def execFlashProgram (v : BitVec 64) (s : State) : Host.Outcome State Fault Refusal := .next (inert s (flashOp s 2 v))

/-- FLASH_ERASE (R455). -/
def execFlashErase (v : BitVec 64) (s : State) : Host.Outcome State Fault Refusal := .next (inert s (flashOp s 3 v))

/-- FLASH_OP_DONE (R455). -/
def execFlashOpDone (s : State) : Host.Outcome State Fault Refusal := .next (flashDone (cancel s .flashOpDone))

/-! ### Holds and the heartbeat (R456 to R458) -/

/-- QHOLD (R456). -/
def execQhold (v : BitVec 32) (s : State) : Host.Outcome State Fault Refusal := .next (inert s (dispatchAll (holdQueues s v)))

/-- HBARM (R457). -/
def execHbarm (v : BitVec 64) (s : State) : Host.Outcome State Fault Refusal := .next (inert s (armWatch s v))

/-- HBEAT: from the vintner core of a die (R457). -/
def execHbeat (die : Nat) (v : BitVec 32) (s : State) : Host.Outcome State Fault Refusal := .next (inert s (beatWatch s die v))

/-- HEARTBEAT_TIMEOUT (R457, R458). -/
def execHeartbeatTimeout (s : State) : Host.Outcome State Fault Refusal :=
  .next (if timerSet s .heartbeatTimeout then s else heartbeatExpire s)

/-! ### The mailbox and measurements (R451, R454) -/

/-- MBX_STATUS (R451). -/
def execMbxStatus (s : State) : Host.Outcome State Fault Refusal := .next (mailbox s 0x01)

/-- MBX_RESET (R451). -/
def execMbxReset (s : State) : Host.Outcome State Fault Refusal := .next (mailbox s 0x03)

/-- MBX_UPDATE: firmware is told, and finds the image by MBXIN0 and MBXIN1 (R451). -/
def execMbxUpdate (s : State) : Host.Outcome State Fault Refusal := .next (mailbox s 0x10)

/-- The measurement of an SPDM index, where the spec gives it one (R448, R454). -/
def measurement (s : State) (index : Nat) : Option Nat :=
  if index = 1 then some s.fw.digest1 else if index = 2 then some s.fw.digest2 else none

/-- SPDM_REQUEST: Sirmel reports a measurement (R454). -/
def execSpdmRequest (index : Nat) (s : State) : Host.Outcome State Fault Refusal :=
  .next (match measurement s index with
    | none => s
    | some d => { s with fw := { s.fw with spdmOut := (index, d) :: s.fw.spdmOut } })

/-! ### Fatal errors (R463) -/

/-- FATAL_ERROR: raised by a vintner core, or by a rollback with FWRESUME 0 (R463). -/
def execFatalError (core cause : Nat) (s : State) : Host.Outcome State Fault Refusal :=
  .next (if s.fw.safe ∨ (coreAt s core).role ≠ 1 ∨ cause < 1 ∨ 3 < cause then s else fatalError s core cause)

/-- DUMP_TIMEOUT: 500 ms without DONE (R463). -/
def execDumpTimeout (s : State) : Host.Outcome State Fault Refusal :=
  .next (if timerSet s .dumpTimeout ∨ s.fw.dumping.isNone then s else enterSafe s 8)

end Sys2Proof.Machine
end

