-- ==== Sys2Proof/Machine/Dispatch.lean ====
section
/-! DEFINITION. Sys2Proof/Machine/Dispatch.lean: one arm for each constructor of Instr, each a direct call of its meaning. -/

namespace Sys2Proof.Machine

def exec (i : Instr) (s : State) : Host.Outcome State Fault Refusal :=
  match i with
  | .ownerPop core => Sys2Proof.Machine.execOwnerPop core s
  | .taskStart core => Sys2Proof.Machine.execTaskStart core s
  | .eagerStaging core => Sys2Proof.Machine.execEagerStaging core s
  | .stageHoldExpiry core cline => Sys2Proof.Machine.execStageHoldExpiry core cline s
  | .stealTry core => Sys2Proof.Machine.execStealTry core s
  | .stealreq thief victim req => Sys2Proof.Machine.execStealreq thief victim req s
  | .stealent thief victim e => Sys2Proof.Machine.execStealent thief victim e s
  | .stealspl thief victim cline lo hi => Sys2Proof.Machine.execStealspl thief victim cline lo hi s
  | .stealno thief victim depth => Sys2Proof.Machine.execStealno thief victim depth s
  | .splitCommit core piece thief => Sys2Proof.Machine.execSplitCommit core piece thief s
  | .freg node h => Sys2Proof.Machine.execFreg node h s
  | .fready node => Sys2Proof.Machine.execFready node s
  | .waitfull node h => Sys2Proof.Machine.execWaitfull node h s
  | .fqueryPoll node h => Sys2Proof.Machine.execFqueryPoll node h s
  | .fresv core ctx h v => Sys2Proof.Machine.execFresv core ctx h v s
  | .itemdone core h n => Sys2Proof.Machine.execItemdone core h n s
  | .fquery core slot h => Sys2Proof.Machine.execFquery core slot h s
  | .fstate core slot h st v => Sys2Proof.Machine.execFstate core slot h st v s
  | .fwait core slot h => Sys2Proof.Machine.execFwait core slot h s
  | .wake core slot h stale v => Sys2Proof.Machine.execWake core slot h stale v s
  | .ffree core h => Sys2Proof.Machine.execFfree core h s
  | .tyieldWindowEnd core slot => Sys2Proof.Machine.execTyieldWindowEnd core slot s
  | .channelSlotArrival core chan x => Sys2Proof.Machine.execChannelSlotArrival core chan x s
  | .streamRunahead core slot port => Sys2Proof.Machine.execStreamRunahead core slot port s
  | .pressRequest die k => Sys2Proof.Machine.execPressRequest die k s
  | .pressGrant die k => Sys2Proof.Machine.execPressGrant die k s
  | .commitSignature dest k => Sys2Proof.Machine.execCommitSignature dest k s
  | .commitAck k => Sys2Proof.Machine.execCommitAck k s
  | .ownershipClaim line phase k => Sys2Proof.Machine.execOwnershipClaim line phase k s
  | .claimAnnounce slice phase n k => Sys2Proof.Machine.execClaimAnnounce slice phase n k s
  | .sliceDone slice k => Sys2Proof.Machine.execSliceDone slice k s
  | .pressRelease die k => Sys2Proof.Machine.execPressRelease die k s
  | .inboundAccess pa wr n => Sys2Proof.Machine.execInboundAccess pa wr n s
  | .copyStart id => Sys2Proof.Machine.execCopyStart id s
  | .engineChunkStart id => Sys2Proof.Machine.execEngineChunkStart id s
  | .copyComplete id => Sys2Proof.Machine.execCopyComplete id s
  | .redPerform r => Sys2Proof.Machine.execRedPerform r s
  | .teamHalt core slot => Sys2Proof.Machine.execTeamHalt core slot s
  | .shadowLatchFlag core imm twice => Sys2Proof.Machine.execShadowLatchFlag core imm twice s
  | .marginWindowEnd core => Sys2Proof.Machine.execMarginWindowEnd core s
  | .marginSettle core => Sys2Proof.Machine.execMarginSettle core s
  | .waitaddrWake core slot => Sys2Proof.Machine.execWaitaddrWake core slot s
  | .waitaddrPoll core slot => Sys2Proof.Machine.execWaitaddrPoll core slot s
  | .waitaddrTimeout core slot => Sys2Proof.Machine.execWaitaddrTimeout core slot s
  | .decant line helpers => Sys2Proof.Machine.execDecant line helpers s
  | .decantPushDone line helper => Sys2Proof.Machine.execDecantPushDone line helper s
  | .redirectInstall ni line helper => Sys2Proof.Machine.execRedirectInstall ni line helper s
  | .revocation line => Sys2Proof.Machine.execRevocation line s
  | .hbmRead line bad => Sys2Proof.Machine.execHbmRead line bad s
  | .hbmWrite line bad => Sys2Proof.Machine.execHbmWrite line bad s
  | .hbmAtomic line r => Sys2Proof.Machine.execHbmAtomic line r s
  | .delta stack row sender bytes => Sys2Proof.Machine.execDelta stack row sender bytes s
  | .dack stack row => Sys2Proof.Machine.execDack stack row s
  | .freeze stack row bad => Sys2Proof.Machine.execFreeze stack row bad s
  | .freezeValue stack row sender v => Sys2Proof.Machine.execFreezeValue stack row sender v s
  | .unfreeze stack row => Sys2Proof.Machine.execUnfreeze stack row s
  | .stackLoss stack => Sys2Proof.Machine.execStackLoss stack s
  | .swapStart stack f1 f2 => Sys2Proof.Machine.execSwapStart stack f1 f2 s
  | .swapDrainDone stack => Sys2Proof.Machine.execSwapDrainDone stack s
  | .swapRowCopy stack => Sys2Proof.Machine.execSwapRowCopy stack s
  | .marchreq v => Sys2Proof.Machine.execMarchreq v s
  | .bankMarchEnd stack pass => Sys2Proof.Machine.execBankMarchEnd stack pass s
  | .budgetPeriod die => Sys2Proof.Machine.execBudgetPeriod die s
  | .accallocGrant core => Sys2Proof.Machine.execAccallocGrant core s
  | .mmaStepEnd core flag => Sys2Proof.Machine.execMmaStepEnd core flag s
  | .engineOpComplete core id => Sys2Proof.Machine.execEngineOpComplete core id s
  | .doorbell q v => Sys2Proof.Machine.execDoorbell q v s
  | .queueDescWrite q off v => Sys2Proof.Machine.execQueueDescWrite q off v s
  | .launch slot => Sys2Proof.Machine.execLaunch slot s
  | .copyPacket slot => Sys2Proof.Machine.execCopyPacket slot s
  | .signal slot => Sys2Proof.Machine.execSignal slot s
  | .wait slot => Sys2Proof.Machine.execWait slot s
  | .waitRecheck slot => Sys2Proof.Machine.execWaitRecheck slot s
  | .waitTimeout slot => Sys2Proof.Machine.execWaitTimeout slot s
  | .marker slot => Sys2Proof.Machine.execMarker slot s
  | .ctxopCreate slot => Sys2Proof.Machine.execCtxopCreate slot s
  | .ctxopDestroy slot => Sys2Proof.Machine.execCtxopDestroy slot s
  | .ctxopSlice slot => Sys2Proof.Machine.execCtxopSlice slot s
  | .ctxopPreempt slot => Sys2Proof.Machine.execCtxopPreempt slot s
  | .ctxopResume slot => Sys2Proof.Machine.execCtxopResume slot s
  | .gridCompletion grid => Sys2Proof.Machine.execGridCompletion grid s
  | .gangRootPush grid die => Sys2Proof.Machine.execGangRootPush grid die s
  | .firmwareTimer die => Sys2Proof.Machine.execFirmwareTimer die s
  | .sliceEnd pasid => Sys2Proof.Machine.execSliceEnd pasid s
  | .stopAck core cls => Sys2Proof.Machine.execStopAck core cls s
  | .faultQueuePost die => Sys2Proof.Machine.execFaultQueuePost die s
  | .frdone v => Sys2Proof.Machine.execFrdone v s
  | .priResponse id ok => Sys2Proof.Machine.execPriResponse id ok s
  | .atsCompletion tag busPage w x => Sys2Proof.Machine.execAtsCompletion tag busPage w x s
  | .atsTagTimeout tag => Sys2Proof.Machine.execAtsTagTimeout tag s
  | .atsInvalidate pasid va pages => Sys2Proof.Machine.execAtsInvalidate pasid va pages s
  | .pageWalk core pasid va => Sys2Proof.Machine.execPageWalk core pasid va s
  | .teardownFinish pasid => Sys2Proof.Machine.execTeardownFinish pasid s
  | .landingPacket ring packet seq => Sys2Proof.Machine.execLandingPacket ring packet seq s
  | .landingRetry ring => Sys2Proof.Machine.execLandingRetry ring s
  | .landingDescWrite ring off v => Sys2Proof.Machine.execLandingDescWrite ring off v s
  | .mlctlWrite v => Sys2Proof.Machine.execMlctlWrite v s
  | .keycmdLoad => Sys2Proof.Machine.execKeycmdLoad s
  | .keycmdClear => Sys2Proof.Machine.execKeycmdClear s
  | .keycmdDone => Sys2Proof.Machine.execKeycmdDone s
  | .barrierArrival b v => Sys2Proof.Machine.execBarrierArrival b v s
  | .barrierRelease b => Sys2Proof.Machine.execBarrierRelease b s
  | .pendingLinePresent b => Sys2Proof.Machine.execPendingLinePresent b s
  | .mcstDelivery m => Sys2Proof.Machine.execMcstDelivery m s
  | .groupTimeout core slot => Sys2Proof.Machine.execGroupTimeout core slot s
  | .scgo core slot => Sys2Proof.Machine.execScgo core slot s
  | .registerWrite off size v fmode => Sys2Proof.Machine.execRegisterWrite off size v fmode s
  | .powerOnReset => Sys2Proof.Machine.execPowerOnReset s
  | .hotReset => Sys2Proof.Machine.execHotReset s
  | .imgchk v => Sys2Proof.Machine.execImgchk v s
  | .imageCheckDone => Sys2Proof.Machine.execImageCheckDone s
  | .flashRead v => Sys2Proof.Machine.execFlashRead v s
  | .flashProgram v => Sys2Proof.Machine.execFlashProgram v s
  | .flashErase v => Sys2Proof.Machine.execFlashErase v s
  | .flashOpDone => Sys2Proof.Machine.execFlashOpDone s
  | .qhold v => Sys2Proof.Machine.execQhold v s
  | .hbarm v => Sys2Proof.Machine.execHbarm v s
  | .hbeat die v => Sys2Proof.Machine.execHbeat die v s
  | .heartbeatTimeout => Sys2Proof.Machine.execHeartbeatTimeout s
  | .mbxStatus => Sys2Proof.Machine.execMbxStatus s
  | .mbxReset => Sys2Proof.Machine.execMbxReset s
  | .mbxUpdate => Sys2Proof.Machine.execMbxUpdate s
  | .fatalError core cause => Sys2Proof.Machine.execFatalError core cause s
  | .dumpTimeout => Sys2Proof.Machine.execDumpTimeout s
  | .spdmRequest index => Sys2Proof.Machine.execSpdmRequest index s
  | .powerOff => Sys2Proof.Machine.execPowerOff s
  | .fillReturn core line => Sys2Proof.Machine.execFillReturn core line s
  | .targetAcknowledgement core slot => Sys2Proof.Machine.execTargetAcknowledgement core slot s
  | .cxlCacheSnoop line => Sys2Proof.Machine.execCxlCacheSnoop line s
  | .iadd p d a b => Sys2Proof.Machine.execIadd p d a b s
  | .isub p d a b => Sys2Proof.Machine.execIsub p d a b s
  | .imul p d a b => Sys2Proof.Machine.execImul p d a b s
  | .imulhiI p d a b => Sys2Proof.Machine.execImulhiI p d a b s
  | .imulhiN p d a b => Sys2Proof.Machine.execImulhiN p d a b s
  | .imulwI p d a b => Sys2Proof.Machine.execImulwI p d a b s
  | .imulwN p d a b => Sys2Proof.Machine.execImulwN p d a b s
  | .imad p d a b => Sys2Proof.Machine.execImad p d a b s
  | .iaddsatI p d a b => Sys2Proof.Machine.execIaddsatI p d a b s
  | .iaddsatN p d a b => Sys2Proof.Machine.execIaddsatN p d a b s
  | .isubsatI p d a b => Sys2Proof.Machine.execIsubsatI p d a b s
  | .isubsatN p d a b => Sys2Proof.Machine.execIsubsatN p d a b s
  | .iminI p d a b => Sys2Proof.Machine.execIminI p d a b s
  | .iminN p d a b => Sys2Proof.Machine.execIminN p d a b s
  | .imaxI p d a b => Sys2Proof.Machine.execImaxI p d a b s
  | .imaxN p d a b => Sys2Proof.Machine.execImaxN p d a b s
  | .iabs p d a => Sys2Proof.Machine.execIabs p d a s
  | .icsub p d a b => Sys2Proof.Machine.execIcsub p d a b s
  | .sad p d a b => Sys2Proof.Machine.execSad p d a b s
  | .and p d a b => Sys2Proof.Machine.execAnd p d a b s
  | .or p d a b => Sys2Proof.Machine.execOr p d a b s
  | .xor p d a b => Sys2Proof.Machine.execXor p d a b s
  | .andn p d a b => Sys2Proof.Machine.execAndn p d a b s
  | .shl p d a b => Sys2Proof.Machine.execShl p d a b s
  | .shrN p d a b => Sys2Proof.Machine.execShrN p d a b s
  | .shrI p d a b => Sys2Proof.Machine.execShrI p d a b s
  | .rotl p d a b => Sys2Proof.Machine.execRotl p d a b s
  | .popc p d a => Sys2Proof.Machine.execPopc p d a s
  | .clz p d a => Sys2Proof.Machine.execClz p d a s
  | .brev p d a => Sys2Proof.Machine.execBrev p d a s
  | .bfxI p d a b => Sys2Proof.Machine.execBfxI p d a b s
  | .bfxN p d a b => Sys2Proof.Machine.execBfxN p d a b s
  | .bfi p d a b => Sys2Proof.Machine.execBfi p d a b s
  | .prmt p d a b => Sys2Proof.Machine.execPrmt p d a b s
  | .isetEq p d a b => Sys2Proof.Machine.execIsetEq p d a b s
  | .isetNe p d a b => Sys2Proof.Machine.execIsetNe p d a b s
  | .isetLtI p d a b => Sys2Proof.Machine.execIsetLtI p d a b s
  | .isetLtN p d a b => Sys2Proof.Machine.execIsetLtN p d a b s
  | .isetLeI p d a b => Sys2Proof.Machine.execIsetLeI p d a b s
  | .isetLeN p d a b => Sys2Proof.Machine.execIsetLeN p d a b s
  | .isel p d a b => Sys2Proof.Machine.execIsel p d a b s
  | .iadd64 p d a b => Sys2Proof.Machine.execIadd64 p d a b s
  | .isub64 p d a b => Sys2Proof.Machine.execIsub64 p d a b s
  | .mov p d a => Sys2Proof.Machine.execMov p d a s
  | .iaddi p d a imm => Sys2Proof.Machine.execIaddi p d a imm s
  | .andi p d a imm => Sys2Proof.Machine.execAndi p d a imm s
  | .ori p d a imm => Sys2Proof.Machine.execOri p d a imm s
  | .xori p d a imm => Sys2Proof.Machine.execXori p d a imm s
  | .shli p d a imm => Sys2Proof.Machine.execShli p d a imm s
  | .shriN p d a imm => Sys2Proof.Machine.execShriN p d a imm s
  | .shriI p d a imm => Sys2Proof.Machine.execShriI p d a imm s
  | .isetiEq p d a imm => Sys2Proof.Machine.execIsetiEq p d a imm s
  | .isetiLtI p d a imm => Sys2Proof.Machine.execIsetiLtI p d a imm s
  | .isetiLtN p d a imm => Sys2Proof.Machine.execIsetiLtN p d a imm s
  | .movi p d imm => Sys2Proof.Machine.execMovi p d imm s
  | .movl p d lit => Sys2Proof.Machine.execMovl p d lit s
  | .iaddi14 p d imm => Sys2Proof.Machine.execIaddi14 p d imm s
  | .fadd p d a b => Sys2Proof.Machine.execFadd p d a b s
  | .fsub p d a b => Sys2Proof.Machine.execFsub p d a b s
  | .fmul p d a b => Sys2Proof.Machine.execFmul p d a b s
  | .ffma p d a b => Sys2Proof.Machine.execFfma p d a b s
  | .fmin p d a b => Sys2Proof.Machine.execFmin p d a b s
  | .fmax p d a b => Sys2Proof.Machine.execFmax p d a b s
  | .fneg p d a => Sys2Proof.Machine.execFneg p d a s
  | .fabs p d a => Sys2Proof.Machine.execFabs p d a s
  | .fsetEq p d a b => Sys2Proof.Machine.execFsetEq p d a b s
  | .fsetNe p d a b => Sys2Proof.Machine.execFsetNe p d a b s
  | .fsetLt p d a b => Sys2Proof.Machine.execFsetLt p d a b s
  | .fsetLe p d a b => Sys2Proof.Machine.execFsetLe p d a b s
  | .fsetUn p d a b => Sys2Proof.Machine.execFsetUn p d a b s
  | .frnd p d a => Sys2Proof.Machine.execFrnd p d a s
  | .fdiv p d a b => Sys2Proof.Machine.execFdiv p d a b s
  | .fsqrt p d a => Sys2Proof.Machine.execFsqrt p d a s
  | .frcp p d a => Sys2Proof.Machine.execFrcp p d a s
  | .frsq p d a => Sys2Proof.Machine.execFrsq p d a s
  | .fexp2 p d a => Sys2Proof.Machine.execFexp2 p d a s
  | .flog2 p d a => Sys2Proof.Machine.execFlog2 p d a s
  | .fsin p d a => Sys2Proof.Machine.execFsin p d a s
  | .fcos p d a => Sys2Proof.Machine.execFcos p d a s
  | .ftanh p d a => Sys2Proof.Machine.execFtanh p d a s
  | .fsig p d a => Sys2Proof.Machine.execFsig p d a s
  | .fclass p d a => Sys2Proof.Machine.execFclass p d a s
  | .fscale p d a b => Sys2Proof.Machine.execFscale p d a b s
  | .paddBf p d a b => Sys2Proof.Machine.execPaddBf p d a b s
  | .pmulBf p d a b => Sys2Proof.Machine.execPmulBf p d a b s
  | .pfmaBf p d a b => Sys2Proof.Machine.execPfmaBf p d a b s
  | .paddH p d a b => Sys2Proof.Machine.execPaddH p d a b s
  | .pmulH p d a b => Sys2Proof.Machine.execPmulH p d a b s
  | .pfmaH p d a b => Sys2Proof.Machine.execPfmaH p d a b s
  | .cvt p d a b => Sys2Proof.Machine.execCvt p d a b s
  | .cvtpkBf p d a b => Sys2Proof.Machine.execCvtpkBf p d a b s
  | .cvtpkH p d a b => Sys2Proof.Machine.execCvtpkH p d a b s
  | .cvtpkE4 p d a b => Sys2Proof.Machine.execCvtpkE4 p d a b s
  | .cvtpkE5 p d a b => Sys2Proof.Machine.execCvtpkE5 p d a b s
  | .cvtpkI8 p d a b => Sys2Proof.Machine.execCvtpkI8 p d a b s
  | .cvtpkN8 p d a b => Sys2Proof.Machine.execCvtpkN8 p d a b s
  | .cvtun p d a b => Sys2Proof.Machine.execCvtun p d a b s
  | .xshfl p d a b => Sys2Proof.Machine.execXshfl p d a b s
  | .xbfly p d a b => Sys2Proof.Machine.execXbfly p d a b s
  | .xup p d a b => Sys2Proof.Machine.execXup p d a b s
  | .xdn p d a b => Sys2Proof.Machine.execXdn p d a b s
  | .xbcast p d a b => Sys2Proof.Machine.execXbcast p d a b s
  | .voteany p d a => Sys2Proof.Machine.execVoteany p d a s
  | .voteall p d a => Sys2Proof.Machine.execVoteall p d a s
  | .ballot p d a => Sys2Proof.Machine.execBallot p d a s
  | .xredAddI p d a => Sys2Proof.Machine.execXredAddI p d a s
  | .xredAddF p d a => Sys2Proof.Machine.execXredAddF p d a s
  | .xredMinI p d a => Sys2Proof.Machine.execXredMinI p d a s
  | .xredMaxI p d a => Sys2Proof.Machine.execXredMaxI p d a s
  | .xredMinF p d a => Sys2Proof.Machine.execXredMinF p d a s
  | .xredMaxF p d a => Sys2Proof.Machine.execXredMaxF p d a s
  | .xscanAddI p d a => Sys2Proof.Machine.execXscanAddI p d a s
  | .xscanAddF p d a => Sys2Proof.Machine.execXscanAddF p d a s
  | .idp4Ii p d a b => Sys2Proof.Machine.execIdp4Ii p d a b s
  | .idp4Nn p d a b => Sys2Proof.Machine.execIdp4Nn p d a b s
  | .idp4sIi p d a b => Sys2Proof.Machine.execIdp4sIi p d a b s
  | .idp4sNn p d a b => Sys2Proof.Machine.execIdp4sNn p d a b s
  | .idp2Ii p d a b => Sys2Proof.Machine.execIdp2Ii p d a b s
  | .idp2sIi p d a b => Sys2Proof.Machine.execIdp2sIi p d a b s
  | .bra imm => Sys2Proof.Machine.execBra imm s
  | .call imm => Sys2Proof.Machine.execCall imm s
  | .bz d imm => Sys2Proof.Machine.execBz d imm s
  | .bnz d imm => Sys2Proof.Machine.execBnz d imm s
  | .beod q dim imm => Sys2Proof.Machine.execBeod q dim imm s
  | .jmp a => Sys2Proof.Machine.execJmp a s
  | .callr a => Sys2Proof.Machine.execCallr a s
  | .ret => Sys2Proof.Machine.execRet s
  | .exit => Sys2Proof.Machine.execExit s
  | .trap imm => Sys2Proof.Machine.execTrap imm s
  | .brk => Sys2Proof.Machine.execBrk s
  | .nop => Sys2Proof.Machine.execNop s
  | .mjoin d => Sys2Proof.Machine.execMjoin d s
  | .mleave d => Sys2Proof.Machine.execMleave d s
  | .mwait d => Sys2Proof.Machine.execMwait d s
  | .msync d => Sys2Proof.Machine.execMsync d s
  | .mset d a => Sys2Proof.Machine.execMset d a s
  | .mget d a => Sys2Proof.Machine.execMget d a s
  | .mact d => Sys2Proof.Machine.execMact d s
  | .ckend => Sys2Proof.Machine.execCkend s
  | .ckirr => Sys2Proof.Machine.execCkirr s
  | .ckstat d => Sys2Proof.Machine.execCkstat d s
  | .wbase imm => Sys2Proof.Machine.execWbase imm s
  | .wgrow d a => Sys2Proof.Machine.execWgrow d a s
  | .mfsr d imm => Sys2Proof.Machine.execMfsr d imm s
  | .mtsr d imm => Sys2Proof.Machine.execMtsr d imm s
  | .eret => Sys2Proof.Machine.execEret s
  | .syscall imm => Sys2Proof.Machine.execSyscall imm s
  | .tlbinv a b => Sys2Proof.Machine.execTlbinv a b s
  | .ctxsave a => Sys2Proof.Machine.execCtxsave a s
  | .ctxrstr a => Sys2Proof.Machine.execCtxrstr a s
  | .wfi => Sys2Proof.Machine.execWfi s
  | .ipi a => Sys2Proof.Machine.execIpi a s
  | .qmap a b => Sys2Proof.Machine.execQmap a b s
  | .qunmap a => Sys2Proof.Machine.execQunmap a s
  | .gangres d a => Sys2Proof.Machine.execGangres d a s
  | .gangcmt a => Sys2Proof.Machine.execGangcmt a s
  | .gangabt a => Sys2Proof.Machine.execGangabt a s
  | .ldg8i p d a b => Sys2Proof.Machine.execLdg8i p d a b s
  | .ldg8n p d a b => Sys2Proof.Machine.execLdg8n p d a b s
  | .ldg16i p d a b => Sys2Proof.Machine.execLdg16i p d a b s
  | .ldg16n p d a b => Sys2Proof.Machine.execLdg16n p d a b s
  | .ldg32 p d a b => Sys2Proof.Machine.execLdg32 p d a b s
  | .ldg64 p d a b => Sys2Proof.Machine.execLdg64 p d a b s
  | .ldg128 p d a b => Sys2Proof.Machine.execLdg128 p d a b s
  | .stg8 p d a b => Sys2Proof.Machine.execStg8 p d a b s
  | .stg16 p d a b => Sys2Proof.Machine.execStg16 p d a b s
  | .stg32 p d a b => Sys2Proof.Machine.execStg32 p d a b s
  | .stg64 p d a b => Sys2Proof.Machine.execStg64 p d a b s
  | .stg128 p d a b => Sys2Proof.Machine.execStg128 p d a b s
  | .lds8i p d a b => Sys2Proof.Machine.execLds8i p d a b s
  | .lds8n p d a b => Sys2Proof.Machine.execLds8n p d a b s
  | .lds16i p d a b => Sys2Proof.Machine.execLds16i p d a b s
  | .lds16n p d a b => Sys2Proof.Machine.execLds16n p d a b s
  | .lds32 p d a b => Sys2Proof.Machine.execLds32 p d a b s
  | .lds64 p d a b => Sys2Proof.Machine.execLds64 p d a b s
  | .lds128 p d a b => Sys2Proof.Machine.execLds128 p d a b s
  | .sts8 p d a b => Sys2Proof.Machine.execSts8 p d a b s
  | .sts16 p d a b => Sys2Proof.Machine.execSts16 p d a b s
  | .sts32 p d a b => Sys2Proof.Machine.execSts32 p d a b s
  | .sts64 p d a b => Sys2Proof.Machine.execSts64 p d a b s
  | .sts128 p d a b => Sys2Proof.Machine.execSts128 p d a b s
  | .ldk p d a b => Sys2Proof.Machine.execLdk p d a b s
  | .pfl p a b => Sys2Proof.Machine.execPfl p a b s
  | .smap p d a b => Sys2Proof.Machine.execSmap p d a b s
  | .sunmap p d b => Sys2Proof.Machine.execSunmap p d b s
  | .sflush p d b => Sys2Proof.Machine.execSflush p d b s
  | .sdrop p d b => Sys2Proof.Machine.execSdrop p d b s
  | .llock p d a b => Sys2Proof.Machine.execLlock p d a b s
  | .lunlock p a b => Sys2Proof.Machine.execLunlock p a b s
  | .cacheop p d a b => Sys2Proof.Machine.execCacheop p d a b s
  | .atomAdd p d a b => Sys2Proof.Machine.execAtomAdd p d a b s
  | .atomAnd p d a b => Sys2Proof.Machine.execAtomAnd p d a b s
  | .atomOr p d a b => Sys2Proof.Machine.execAtomOr p d a b s
  | .atomXor p d a b => Sys2Proof.Machine.execAtomXor p d a b s
  | .atomMinI p d a b => Sys2Proof.Machine.execAtomMinI p d a b s
  | .atomMinN p d a b => Sys2Proof.Machine.execAtomMinN p d a b s
  | .atomMaxI p d a b => Sys2Proof.Machine.execAtomMaxI p d a b s
  | .atomMaxN p d a b => Sys2Proof.Machine.execAtomMaxN p d a b s
  | .atomExch p d a b => Sys2Proof.Machine.execAtomExch p d a b s
  | .atomCas p d a b => Sys2Proof.Machine.execAtomCas p d a b s
  | .atom64Add p d a b => Sys2Proof.Machine.execAtom64Add p d a b s
  | .atom64Cas p d a b => Sys2Proof.Machine.execAtom64Cas p d a b s
  | .redAddI p d a b => Sys2Proof.Machine.execRedAddI p d a b s
  | .redAddF p d a b => Sys2Proof.Machine.execRedAddF p d a b s
  | .redAnd p d a b => Sys2Proof.Machine.execRedAnd p d a b s
  | .redOr p d a b => Sys2Proof.Machine.execRedOr p d a b s
  | .redXor p d a b => Sys2Proof.Machine.execRedXor p d a b s
  | .redMinI p d a b => Sys2Proof.Machine.execRedMinI p d a b s
  | .redMinN p d a b => Sys2Proof.Machine.execRedMinN p d a b s
  | .redMaxI p d a b => Sys2Proof.Machine.execRedMaxI p d a b s
  | .redMaxN p d a b => Sys2Proof.Machine.execRedMaxN p d a b s
  | .redAddI64 p d a b => Sys2Proof.Machine.execRedAddI64 p d a b s
  | .waitaddr a b => Sys2Proof.Machine.execWaitaddr a b s
  | .strel32 p d a b => Sys2Proof.Machine.execStrel32 p d a b s
  | .strel64 p d a b => Sys2Proof.Machine.execStrel64 p d a b s
  | .ldacq32 p d a b => Sys2Proof.Machine.execLdacq32 p d a b s
  | .ldacq64 p d a b => Sys2Proof.Machine.execLdacq64 p d a b s
  | .fence d => Sys2Proof.Machine.execFence d s
  | .cpseal d => Sys2Proof.Machine.execCpseal d s
  | .cpwait a => Sys2Proof.Machine.execCpwait a s
  | .cpy p a b => Sys2Proof.Machine.execCpy p a b s
  | .tcpy p a b => Sys2Proof.Machine.execTcpy p a b s
  | .cpyq p d a b => Sys2Proof.Machine.execCpyq p d a b s
  | .strbind d a b => Sys2Proof.Machine.execStrbind d a b s
  | .strunb d => Sys2Proof.Machine.execStrunb d s
  | .strskip d a => Sys2Proof.Machine.execStrskip d a s
  | .accalloc d a => Sys2Proof.Machine.execAccalloc d a s
  | .accfree a => Sys2Proof.Machine.execAccfree a s
  | .acczero a => Sys2Proof.Machine.execAcczero a s
  | .accld d a b => Sys2Proof.Machine.execAccld d a b s
  | .accst d a b => Sys2Proof.Machine.execAccst d a b s
  | .mma d a b => Sys2Proof.Machine.execMma d a b s
  | .mmawait a => Sys2Proof.Machine.execMmawait a s
  | .cbload a b => Sys2Proof.Machine.execCbload a b s
  | .accepi d a b => Sys2Proof.Machine.execAccepi d a b s
  | .mmastat d => Sys2Proof.Machine.execMmastat d s
  | .spawn d a => Sys2Proof.Machine.execSpawn d a s
  | .spawnr d a => Sys2Proof.Machine.execSpawnr d a s
  | .join d a => Sys2Proof.Machine.execJoin d a s
  | .fnew d => Sys2Proof.Machine.execFnew d s
  | .fres a b => Sys2Proof.Machine.execFres a b s
  | .fpoll d a => Sys2Proof.Machine.execFpoll d a s
  | .tend a => Sys2Proof.Machine.execTend a s
  | .itemnext imm => Sys2Proof.Machine.execItemnext imm s
  | .tyield => Sys2Proof.Machine.execTyield s
  | .chbind d a => Sys2Proof.Machine.execChbind d a s
  | .chunb d => Sys2Proof.Machine.execChunb d s
  | .chstat d a => Sys2Proof.Machine.execChstat d a s
  | .bar d a b => Sys2Proof.Machine.execBar d a b s
  | .bararv a b => Sys2Proof.Machine.execBararv a b s
  | .barwt d b => Sys2Proof.Machine.execBarwt d b s
  | .gbar d a b => Sys2Proof.Machine.execGbar d a b s
  | .grpopen a => Sys2Proof.Machine.execGrpopen a s
  | .grpclose a => Sys2Proof.Machine.execGrpclose a s
  | .mcst a b => Sys2Proof.Machine.execMcst a b s
  | .ctrrd d a => Sys2Proof.Machine.execCtrrd d a s
  | .ctrset a b => Sys2Proof.Machine.execCtrset a b s

end Sys2Proof.Machine
end

