-- ==== Sys2Proof/Decode.lean ====
section
/-! DEFINITION. Sys2Proof/Decode.lean: from words to instructions (steps 1 to 3 of R79, formats of R66 to R69, the opcode map of R81
to R85), total on any bytes, and after it the encoder written from the same tables. The definitions are marked noncomputable only because
Lean's compiler cannot build a constructor numbered above 244; the kernel evaluates them. -/

noncomputable section

namespace Sys2Proof

/-- Why a pattern is no instruction: ILLEGAL_OPCODE or ILLEGAL_PREFIX (R79), or words that are not there. -/
inductive Reject where
  | illegalOpcode | illegalPrefix | truncated
  deriving DecidableEq, Repr

/-- The word is a prefix word (R67). -/
def isPrefixWord (w : Word) : Bool := w.extractLsb' 25 7 == 0b1111111#7

/-- The fields of a prefix word (R67). -/
def pfxOf (w : Word) : Pfx :=
  { c := w.extractLsb' 18 7, msel := w.extractLsb' 14 4, zm := w.getLsbD 13, rnd := w.extractLsb' 10 3, sat := w.getLsbD 9 }

/-- The word is MOVL, whose literal is the next word (R122). -/
def isMovl (w : Word) : Bool := w.extractLsb' 21 11 == 0x08B#11

/-- An instruction whose fields marked zero are zero (R69), or none. -/
def zeroOr (z : Bool) (i : Instr) : Option Instr := if z then some i else none

/-- The integer, logic and move instructions, register forms (R81). -/
def decodeInt (p : Option Pfx) (op : BitVec 11) (d a b : Code) (_lit : Word) : Option Instr :=
  match op with
  | 0x000#11 => some (.iadd p d a b)
  | 0x001#11 => some (.isub p d a b)
  | 0x002#11 => some (.imul p d a b)
  | 0x003#11 => some (.imulhiI p d a b)
  | 0x004#11 => some (.imulhiN p d a b)
  | 0x005#11 => some (.imulwI p d a b)
  | 0x006#11 => some (.imulwN p d a b)
  | 0x007#11 => some (.imad p d a b)
  | 0x008#11 => some (.iaddsatI p d a b)
  | 0x009#11 => some (.iaddsatN p d a b)
  | 0x00A#11 => some (.isubsatI p d a b)
  | 0x00B#11 => some (.isubsatN p d a b)
  | 0x00C#11 => some (.iminI p d a b)
  | 0x00D#11 => some (.iminN p d a b)
  | 0x00E#11 => some (.imaxI p d a b)
  | 0x00F#11 => some (.imaxN p d a b)
  | 0x010#11 => zeroOr (decide (b = 0)) (.iabs p d a)
  | 0x011#11 => some (.icsub p d a b)
  | 0x012#11 => some (.sad p d a b)
  | 0x013#11 => some (.and p d a b)
  | 0x014#11 => some (.or p d a b)
  | 0x015#11 => some (.xor p d a b)
  | 0x016#11 => some (.andn p d a b)
  | 0x017#11 => some (.shl p d a b)
  | 0x018#11 => some (.shrN p d a b)
  | 0x019#11 => some (.shrI p d a b)
  | 0x01A#11 => some (.rotl p d a b)
  | 0x01B#11 => zeroOr (decide (b = 0)) (.popc p d a)
  | 0x01C#11 => zeroOr (decide (b = 0)) (.clz p d a)
  | 0x01D#11 => zeroOr (decide (b = 0)) (.brev p d a)
  | 0x01E#11 => some (.bfxI p d a b)
  | 0x01F#11 => some (.bfxN p d a b)
  | 0x020#11 => some (.bfi p d a b)
  | 0x021#11 => some (.prmt p d a b)
  | 0x022#11 => some (.isetEq p d a b)
  | 0x023#11 => some (.isetNe p d a b)
  | 0x024#11 => some (.isetLtI p d a b)
  | 0x025#11 => some (.isetLtN p d a b)
  | 0x026#11 => some (.isetLeI p d a b)
  | 0x027#11 => some (.isetLeN p d a b)
  | 0x028#11 => some (.isel p d a b)
  | 0x029#11 => some (.iadd64 p d a b)
  | 0x02A#11 => some (.isub64 p d a b)
  | 0x02B#11 => zeroOr (decide (b = 0)) (.mov p d a)
  | _ => none

/-- The immediate forms (R81). -/
def decodeImm (p : Option Pfx) (op : BitVec 11) (d a b : Code) (lit : Word) : Option Instr :=
  match op with
  | 0x080#11 => some (.iaddi p d a b)
  | 0x081#11 => some (.andi p d a b)
  | 0x082#11 => some (.ori p d a b)
  | 0x083#11 => some (.xori p d a b)
  | 0x084#11 => zeroOr (decide (b.extractLsb' 5 2 = 0)) (.shli p d a (b.extractLsb' 0 5))
  | 0x085#11 => zeroOr (decide (b.extractLsb' 5 2 = 0)) (.shriN p d a (b.extractLsb' 0 5))
  | 0x086#11 => zeroOr (decide (b.extractLsb' 5 2 = 0)) (.shriI p d a (b.extractLsb' 0 5))
  | 0x087#11 => some (.isetiEq p d a b)
  | 0x088#11 => some (.isetiLtI p d a b)
  | 0x089#11 => some (.isetiLtN p d a b)
  | 0x08A#11 => some (.movi p d (a ++ b))
  | 0x08B#11 => zeroOr (decide (a = 0 ∧ b = 0)) (.movl p d lit)
  | 0x08C#11 => some (.iaddi14 p d (a ++ b))
  | _ => none

/-- The f32 instructions (R82). -/
def decodeFloat (p : Option Pfx) (op : BitVec 11) (d a b : Code) (_lit : Word) : Option Instr :=
  match op with
  | 0x100#11 => some (.fadd p d a b)
  | 0x101#11 => some (.fsub p d a b)
  | 0x102#11 => some (.fmul p d a b)
  | 0x103#11 => some (.ffma p d a b)
  | 0x104#11 => some (.fmin p d a b)
  | 0x105#11 => some (.fmax p d a b)
  | 0x106#11 => zeroOr (decide (b = 0)) (.fneg p d a)
  | 0x107#11 => zeroOr (decide (b = 0)) (.fabs p d a)
  | 0x108#11 => some (.fsetEq p d a b)
  | 0x109#11 => some (.fsetNe p d a b)
  | 0x10A#11 => some (.fsetLt p d a b)
  | 0x10B#11 => some (.fsetLe p d a b)
  | 0x10C#11 => some (.fsetUn p d a b)
  | 0x10D#11 => zeroOr (decide (b = 0)) (.frnd p d a)
  | 0x10E#11 => some (.fdiv p d a b)
  | 0x10F#11 => zeroOr (decide (b = 0)) (.fsqrt p d a)
  | 0x110#11 => zeroOr (decide (b = 0)) (.frcp p d a)
  | 0x111#11 => zeroOr (decide (b = 0)) (.frsq p d a)
  | 0x112#11 => zeroOr (decide (b = 0)) (.fexp2 p d a)
  | 0x113#11 => zeroOr (decide (b = 0)) (.flog2 p d a)
  | 0x114#11 => zeroOr (decide (b = 0)) (.fsin p d a)
  | 0x115#11 => zeroOr (decide (b = 0)) (.fcos p d a)
  | 0x116#11 => zeroOr (decide (b = 0)) (.ftanh p d a)
  | 0x117#11 => zeroOr (decide (b = 0)) (.fsig p d a)
  | 0x118#11 => zeroOr (decide (b = 0)) (.fclass p d a)
  | 0x119#11 => some (.fscale p d a b)
  | _ => none

/-- The packed and conversion instructions (R82). -/
def decodePack (p : Option Pfx) (op : BitVec 11) (d a b : Code) (_lit : Word) : Option Instr :=
  match op with
  | 0x180#11 => some (.paddBf p d a b)
  | 0x181#11 => some (.pmulBf p d a b)
  | 0x182#11 => some (.pfmaBf p d a b)
  | 0x183#11 => some (.paddH p d a b)
  | 0x184#11 => some (.pmulH p d a b)
  | 0x185#11 => some (.pfmaH p d a b)
  | 0x186#11 => some (.cvt p d a b)
  | 0x187#11 => some (.cvtpkBf p d a b)
  | 0x188#11 => some (.cvtpkH p d a b)
  | 0x189#11 => some (.cvtpkE4 p d a b)
  | 0x18A#11 => some (.cvtpkE5 p d a b)
  | 0x18B#11 => some (.cvtpkI8 p d a b)
  | 0x18C#11 => some (.cvtpkN8 p d a b)
  | 0x18D#11 => some (.cvtun p d a b)
  | _ => none

/-- The cross-lane and dot-product instructions (R82). -/
def decodeCross (p : Option Pfx) (op : BitVec 11) (d a b : Code) (_lit : Word) : Option Instr :=
  match op with
  | 0x200#11 => some (.xshfl p d a b)
  | 0x201#11 => some (.xbfly p d a b)
  | 0x202#11 => some (.xup p d a b)
  | 0x203#11 => some (.xdn p d a b)
  | 0x204#11 => some (.xbcast p d a b)
  | 0x205#11 => zeroOr (decide (b = 0)) (.voteany p d a)
  | 0x206#11 => zeroOr (decide (b = 0)) (.voteall p d a)
  | 0x207#11 => zeroOr (decide (b = 0)) (.ballot p d a)
  | 0x208#11 => zeroOr (decide (b = 0)) (.xredAddI p d a)
  | 0x209#11 => zeroOr (decide (b = 0)) (.xredAddF p d a)
  | 0x20A#11 => zeroOr (decide (b = 0)) (.xredMinI p d a)
  | 0x20B#11 => zeroOr (decide (b = 0)) (.xredMaxI p d a)
  | 0x20C#11 => zeroOr (decide (b = 0)) (.xredMinF p d a)
  | 0x20D#11 => zeroOr (decide (b = 0)) (.xredMaxF p d a)
  | 0x20E#11 => zeroOr (decide (b = 0)) (.xscanAddI p d a)
  | 0x20F#11 => zeroOr (decide (b = 0)) (.xscanAddF p d a)
  | 0x210#11 => some (.idp4Ii p d a b)
  | 0x211#11 => some (.idp4Nn p d a b)
  | 0x212#11 => some (.idp4sIi p d a b)
  | 0x213#11 => some (.idp4sNn p d a b)
  | 0x214#11 => some (.idp2Ii p d a b)
  | 0x215#11 => some (.idp2sIi p d a b)
  | _ => none

/-- The branches and stops (R83). -/
def decodeCtl (_p : Option Pfx) (op : BitVec 11) (d a b : Code) (_lit : Word) : Option Instr :=
  match op with
  | 0x280#11 => some (.bra (d ++ a ++ b))
  | 0x281#11 => some (.call (d ++ a ++ b))
  | 0x282#11 => some (.bz d (a ++ b))
  | 0x283#11 => some (.bnz d (a ++ b))
  | 0x284#11 => zeroOr (decide (d.extractLsb' 4 3 = 0)) (.beod (d.extractLsb' 2 2) (d.extractLsb' 0 2) (a ++ b))
  | 0x285#11 => zeroOr (decide (d = 0 ∧ b = 0)) (.jmp a)
  | 0x286#11 => zeroOr (decide (d = 0 ∧ b = 0)) (.callr a)
  | 0x287#11 => zeroOr (decide (d = 0 ∧ a = 0 ∧ b = 0)) .ret
  | 0x288#11 => zeroOr (decide (d = 0 ∧ a = 0 ∧ b = 0)) .exit
  | 0x289#11 => zeroOr (decide (d = 0)) (.trap (a ++ b))
  | 0x28A#11 => zeroOr (decide (d = 0 ∧ a = 0 ∧ b = 0)) .brk
  | 0x28B#11 => zeroOr (decide (d = 0 ∧ a = 0 ∧ b = 0)) .nop
  | _ => none

/-- The mask, chunk and window instructions (R83). -/
def decodeMask (_p : Option Pfx) (op : BitVec 11) (d a b : Code) (_lit : Word) : Option Instr :=
  match op with
  | 0x300#11 => zeroOr (decide (a = 0 ∧ b = 0)) (.mjoin d)
  | 0x301#11 => zeroOr (decide (a = 0 ∧ b = 0)) (.mleave d)
  | 0x302#11 => zeroOr (decide (a = 0 ∧ b = 0)) (.mwait d)
  | 0x303#11 => zeroOr (decide (a = 0 ∧ b = 0)) (.msync d)
  | 0x304#11 => zeroOr (decide (b = 0)) (.mset d a)
  | 0x305#11 => zeroOr (decide (b = 0)) (.mget d a)
  | 0x306#11 => zeroOr (decide (a = 0 ∧ b = 0)) (.mact d)
  | 0x307#11 => zeroOr (decide (d = 0 ∧ a = 0 ∧ b = 0)) .ckend
  | 0x308#11 => zeroOr (decide (d = 0 ∧ a = 0 ∧ b = 0)) .ckirr
  | 0x309#11 => zeroOr (decide (a = 0 ∧ b = 0)) (.ckstat d)
  | 0x30A#11 => zeroOr (decide (d = 0)) (.wbase (a ++ b))
  | 0x30B#11 => zeroOr (decide (b = 0)) (.wgrow d a)
  | _ => none

/-- The loads, stores and cache instructions (R84). -/
def decodeMem (p : Option Pfx) (op : BitVec 11) (d a b : Code) (_lit : Word) : Option Instr :=
  match op with
  | 0x380#11 => some (.ldg8i p d a b)
  | 0x381#11 => some (.ldg8n p d a b)
  | 0x382#11 => some (.ldg16i p d a b)
  | 0x383#11 => some (.ldg16n p d a b)
  | 0x384#11 => some (.ldg32 p d a b)
  | 0x385#11 => some (.ldg64 p d a b)
  | 0x386#11 => some (.ldg128 p d a b)
  | 0x387#11 => some (.stg8 p d a b)
  | 0x388#11 => some (.stg16 p d a b)
  | 0x389#11 => some (.stg32 p d a b)
  | 0x38A#11 => some (.stg64 p d a b)
  | 0x38B#11 => some (.stg128 p d a b)
  | 0x38C#11 => some (.lds8i p d a b)
  | 0x38D#11 => some (.lds8n p d a b)
  | 0x38E#11 => some (.lds16i p d a b)
  | 0x38F#11 => some (.lds16n p d a b)
  | 0x390#11 => some (.lds32 p d a b)
  | 0x391#11 => some (.lds64 p d a b)
  | 0x392#11 => some (.lds128 p d a b)
  | 0x393#11 => some (.sts8 p d a b)
  | 0x394#11 => some (.sts16 p d a b)
  | 0x395#11 => some (.sts32 p d a b)
  | 0x396#11 => some (.sts64 p d a b)
  | 0x397#11 => some (.sts128 p d a b)
  | 0x398#11 => some (.ldk p d a b)
  | 0x399#11 => zeroOr (decide (d = 0)) (.pfl p a b)
  | 0x39A#11 => some (.smap p d a b)
  | 0x39B#11 => zeroOr (decide (a = 0)) (.sunmap p d b)
  | 0x39C#11 => zeroOr (decide (a = 0)) (.sflush p d b)
  | 0x39D#11 => zeroOr (decide (a = 0)) (.sdrop p d b)
  | 0x39E#11 => some (.llock p d a b)
  | 0x39F#11 => zeroOr (decide (d = 0)) (.lunlock p a b)
  | 0x3A0#11 => some (.cacheop p d a b)
  | _ => none

/-- The atomics, ordering and batch instructions (R84). -/
def decodeAtom (p : Option Pfx) (op : BitVec 11) (d a b : Code) (_lit : Word) : Option Instr :=
  match op with
  | 0x400#11 => some (.atomAdd p d a b)
  | 0x401#11 => some (.atomAnd p d a b)
  | 0x402#11 => some (.atomOr p d a b)
  | 0x403#11 => some (.atomXor p d a b)
  | 0x404#11 => some (.atomMinI p d a b)
  | 0x405#11 => some (.atomMinN p d a b)
  | 0x406#11 => some (.atomMaxI p d a b)
  | 0x407#11 => some (.atomMaxN p d a b)
  | 0x408#11 => some (.atomExch p d a b)
  | 0x409#11 => some (.atomCas p d a b)
  | 0x40A#11 => some (.atom64Add p d a b)
  | 0x40B#11 => some (.atom64Cas p d a b)
  | 0x410#11 => some (.redAddI p d a b)
  | 0x411#11 => some (.redAddF p d a b)
  | 0x412#11 => some (.redAnd p d a b)
  | 0x413#11 => some (.redOr p d a b)
  | 0x414#11 => some (.redXor p d a b)
  | 0x415#11 => some (.redMinI p d a b)
  | 0x416#11 => some (.redMinN p d a b)
  | 0x417#11 => some (.redMaxI p d a b)
  | 0x418#11 => some (.redMaxN p d a b)
  | 0x419#11 => some (.redAddI64 p d a b)
  | 0x420#11 => zeroOr (decide (d = 0)) (.waitaddr a b)
  | 0x421#11 => some (.strel32 p d a b)
  | 0x422#11 => some (.strel64 p d a b)
  | 0x423#11 => some (.ldacq32 p d a b)
  | 0x424#11 => some (.ldacq64 p d a b)
  | 0x425#11 => zeroOr (decide (a = 0 ∧ b = 0)) (.fence d)
  | 0x426#11 => zeroOr (decide (a = 0 ∧ b = 0)) (.cpseal d)
  | 0x427#11 => zeroOr (decide (d = 0 ∧ b = 0)) (.cpwait a)
  | _ => none

/-- The copies and stream bindings (R84, R85). -/
def decodeCopy (p : Option Pfx) (op : BitVec 11) (d a b : Code) (_lit : Word) : Option Instr :=
  match op with
  | 0x480#11 => zeroOr (decide (d = 0)) (.cpy p a b)
  | 0x481#11 => zeroOr (decide (d = 0)) (.tcpy p a b)
  | 0x482#11 => some (.cpyq p d a b)
  | 0x483#11 => some (.strbind d a b)
  | 0x484#11 => zeroOr (decide (a = 0 ∧ b = 0)) (.strunb d)
  | 0x485#11 => zeroOr (decide (b = 0)) (.strskip d a)
  | _ => none

/-- The matrix instructions (R85). -/
def decodeMat (_p : Option Pfx) (op : BitVec 11) (d a b : Code) (_lit : Word) : Option Instr :=
  match op with
  | 0x500#11 => zeroOr (decide (b = 0)) (.accalloc d a)
  | 0x501#11 => zeroOr (decide (d = 0 ∧ b = 0)) (.accfree a)
  | 0x502#11 => zeroOr (decide (d = 0 ∧ b = 0)) (.acczero a)
  | 0x503#11 => some (.accld d a b)
  | 0x504#11 => some (.accst d a b)
  | 0x505#11 => some (.mma d a b)
  | 0x506#11 => zeroOr (decide (d = 0 ∧ b = 0)) (.mmawait a)
  | 0x507#11 => zeroOr (decide (d = 0)) (.cbload a b)
  | 0x508#11 => some (.accepi d a b)
  | 0x509#11 => zeroOr (decide (a = 0 ∧ b = 0)) (.mmastat d)
  | _ => none

/-- The task and channel instructions (R85). -/
def decodeTask (_p : Option Pfx) (op : BitVec 11) (d a b : Code) (_lit : Word) : Option Instr :=
  match op with
  | 0x580#11 => zeroOr (decide (b = 0)) (.spawn d a)
  | 0x581#11 => zeroOr (decide (b = 0)) (.spawnr d a)
  | 0x582#11 => zeroOr (decide (b = 0)) (.join d a)
  | 0x583#11 => zeroOr (decide (a = 0 ∧ b = 0)) (.fnew d)
  | 0x584#11 => zeroOr (decide (d = 0)) (.fres a b)
  | 0x585#11 => zeroOr (decide (b = 0)) (.fpoll d a)
  | 0x586#11 => zeroOr (decide (d = 0 ∧ b = 0)) (.tend a)
  | 0x587#11 => zeroOr (decide (d = 0)) (.itemnext (a ++ b))
  | 0x588#11 => zeroOr (decide (d = 0 ∧ a = 0 ∧ b = 0)) .tyield
  | 0x589#11 => zeroOr (decide (b = 0)) (.chbind d a)
  | 0x58A#11 => zeroOr (decide (a = 0 ∧ b = 0)) (.chunb d)
  | 0x58B#11 => zeroOr (decide (b = 0)) (.chstat d a)
  | _ => none

/-- The barrier and counter instructions (R85). -/
def decodeBar (_p : Option Pfx) (op : BitVec 11) (d a b : Code) (_lit : Word) : Option Instr :=
  match op with
  | 0x600#11 => some (.bar d a b)
  | 0x601#11 => zeroOr (decide (d = 0)) (.bararv a b)
  | 0x602#11 => zeroOr (decide (a = 0)) (.barwt d b)
  | 0x603#11 => some (.gbar d a b)
  | 0x604#11 => zeroOr (decide (d = 0 ∧ b = 0)) (.grpopen a)
  | 0x605#11 => zeroOr (decide (d = 0 ∧ b = 0)) (.grpclose a)
  | 0x606#11 => zeroOr (decide (d = 0)) (.mcst a b)
  | 0x607#11 => zeroOr (decide (b = 0)) (.ctrrd d a)
  | 0x608#11 => zeroOr (decide (d = 0)) (.ctrset a b)
  | _ => none

/-- The system instructions (R83). -/
def decodeSys (_p : Option Pfx) (op : BitVec 11) (d a b : Code) (_lit : Word) : Option Instr :=
  match op with
  | 0x680#11 => some (.mfsr d (a ++ b))
  | 0x681#11 => some (.mtsr d (a ++ b))
  | 0x682#11 => zeroOr (decide (d = 0 ∧ a = 0 ∧ b = 0)) .eret
  | 0x683#11 => zeroOr (decide (d = 0)) (.syscall (a ++ b))
  | 0x684#11 => zeroOr (decide (d = 0)) (.tlbinv a b)
  | 0x685#11 => zeroOr (decide (d = 0 ∧ b = 0)) (.ctxsave a)
  | 0x686#11 => zeroOr (decide (d = 0 ∧ b = 0)) (.ctxrstr a)
  | 0x687#11 => zeroOr (decide (d = 0 ∧ a = 0 ∧ b = 0)) .wfi
  | 0x688#11 => zeroOr (decide (d = 0 ∧ b = 0)) (.ipi a)
  | 0x689#11 => zeroOr (decide (d = 0)) (.qmap a b)
  | 0x68A#11 => zeroOr (decide (d = 0 ∧ b = 0)) (.qunmap a)
  | 0x68B#11 => zeroOr (decide (b = 0)) (.gangres d a)
  | 0x68C#11 => zeroOr (decide (d = 0 ∧ b = 0)) (.gangcmt a)
  | 0x68D#11 => zeroOr (decide (d = 0 ∧ b = 0)) (.gangabt a)
  | _ => none

/-- The instruction of a word that is no prefix, with the prefix before it and the literal after it: steps 1 and 2 of R79. The family
is chosen by the opcode's high bits. -/
def decodeWord (p : Option Pfx) (w lit : Word) : Option Instr :=
  let op := w.extractLsb' 21 11
  let d : Code := w.extractLsb' 14 7
  let a : Code := w.extractLsb' 7 7
  let b : Code := w.extractLsb' 0 7
  match w.extractLsb' 28 4 with
  | 0x0#4 => decodeInt p op d a b lit
  | 0x1#4 => decodeImm p op d a b lit
  | 0x2#4 => decodeFloat p op d a b lit
  | 0x3#4 => decodePack p op d a b lit
  | 0x4#4 => decodeCross p op d a b lit
  | 0x5#4 => decodeCtl p op d a b lit
  | 0x6#4 => decodeMask p op d a b lit
  | 0x7#4 => decodeMem p op d a b lit
  | 0x8#4 => decodeAtom p op d a b lit
  | 0x9#4 => decodeCopy p op d a b lit
  | 0xA#4 => decodeMat p op d a b lit
  | 0xB#4 => decodeTask p op d a b lit
  | 0xC#4 => decodeBar p op d a b lit
  | 0xD#4 => decodeSys p op d a b lit
  | _ => none

/-- The instruction of a unit of one to three words, and how many words it takes (R75, R79, R122). A missing later word comes before the checks
of the words that are there, and a prefix before a prefix is an illegal prefix whatever the second's low bits (log 31). -/
def decodeUnit : List Word → Except Reject (Instr × Nat)
  | [] => .error .truncated
  | w :: t =>
    if isPrefixWord w then
      match t with
      | [] => .error .truncated
      | v :: u =>
        if w.extractLsb' 0 9 ≠ 0 then .error .illegalOpcode
        else if isPrefixWord v then .error .illegalPrefix
        else if isMovl v && u.isEmpty then .error .truncated
        else
          match decodeWord (some (pfxOf w)) v (u.headD 0) with
          | none => .error .illegalOpcode
          | some i =>
            if (pfxOf w).legal i.cls i.hasC then .ok (i, if isMovl v then 3 else 2) else .error .illegalPrefix
    else if isMovl w && t.isEmpty then .error .truncated
    else
      match decodeWord none w (t.headD 0) with
      | none => .error .illegalOpcode
      | some i => .ok (i, if isMovl w then 2 else 1)

/-- The little-endian word of four bytes (R9, R66). -/
def wordOfBytes (b0 b1 b2 b3 : Byte) : Word := b3 ++ b2 ++ b1 ++ b0

/-- The whole words of a list of bytes. -/
def wordsOfBytes : List Byte → List Word
  | b0 :: b1 :: b2 :: b3 :: t => wordOfBytes b0 b1 b2 b3 :: wordsOfBytes t
  | _ => []

/-- Decodes any list of bytes: the instruction and the bytes after it, or why there is none. -/
def decodeBytes (bs : List Byte) : Except Reject (Instr × List Byte) :=
  match decodeUnit (wordsOfBytes bs) with
  | .ok (i, n) => .ok (i, bs.drop (4 * n))
  | .error r => .error r

/-- The bytes of a number, lowest first (R9). -/
def bytesOfNat : Nat → Nat → List Byte
  | 0, _ => []
  | n + 1, w => BitVec.ofNat 8 w :: bytesOfNat n (w / 256)

/-- What the decoder reads from an instruction whose bits are `w`, numbered as spec/opcode_table.json numbers them; bits above
`nbits` are zero. The longest unit is a prefix, MOVL and its literal: twelve bytes. -/
def decodeTableWord (nbits w : Nat) : Option Instr :=
  match decodeBytes (bytesOfNat 12 (w % 2 ^ nbits)) with
  | .ok (i, _) => some i
  | .error _ => none

/-- An R-format word (R66). -/
def wordR (op : BitVec 11) (d a b : Code) : Word := op ++ d ++ a ++ b

/-- An I14-format word (R66). -/
def wordI14 (op : BitVec 11) (d : Code) (i : BitVec 14) : Word := op ++ d ++ i

/-- The prefix word of a prefix (R67). -/
def wordPfx (p : Pfx) : Word :=
  (0b1111111#7) ++ p.c ++ p.msel ++ BitVec.ofBool p.zm ++ p.rnd ++ BitVec.ofBool p.sat ++ (0#9)

/-- The words of an instruction without its prefix (R66, R69, R81 to R85); a step that is no instruction has none. -/
def encodeBody : Instr → List Word
  | .iadd _ d a b => [wordR 0x000#11 d a b]
  | .isub _ d a b => [wordR 0x001#11 d a b]
  | .imul _ d a b => [wordR 0x002#11 d a b]
  | .imulhiI _ d a b => [wordR 0x003#11 d a b]
  | .imulhiN _ d a b => [wordR 0x004#11 d a b]
  | .imulwI _ d a b => [wordR 0x005#11 d a b]
  | .imulwN _ d a b => [wordR 0x006#11 d a b]
  | .imad _ d a b => [wordR 0x007#11 d a b]
  | .iaddsatI _ d a b => [wordR 0x008#11 d a b]
  | .iaddsatN _ d a b => [wordR 0x009#11 d a b]
  | .isubsatI _ d a b => [wordR 0x00A#11 d a b]
  | .isubsatN _ d a b => [wordR 0x00B#11 d a b]
  | .iminI _ d a b => [wordR 0x00C#11 d a b]
  | .iminN _ d a b => [wordR 0x00D#11 d a b]
  | .imaxI _ d a b => [wordR 0x00E#11 d a b]
  | .imaxN _ d a b => [wordR 0x00F#11 d a b]
  | .iabs _ d a => [wordR 0x010#11 d a 0]
  | .icsub _ d a b => [wordR 0x011#11 d a b]
  | .sad _ d a b => [wordR 0x012#11 d a b]
  | .and _ d a b => [wordR 0x013#11 d a b]
  | .or _ d a b => [wordR 0x014#11 d a b]
  | .xor _ d a b => [wordR 0x015#11 d a b]
  | .andn _ d a b => [wordR 0x016#11 d a b]
  | .shl _ d a b => [wordR 0x017#11 d a b]
  | .shrN _ d a b => [wordR 0x018#11 d a b]
  | .shrI _ d a b => [wordR 0x019#11 d a b]
  | .rotl _ d a b => [wordR 0x01A#11 d a b]
  | .popc _ d a => [wordR 0x01B#11 d a 0]
  | .clz _ d a => [wordR 0x01C#11 d a 0]
  | .brev _ d a => [wordR 0x01D#11 d a 0]
  | .bfxI _ d a b => [wordR 0x01E#11 d a b]
  | .bfxN _ d a b => [wordR 0x01F#11 d a b]
  | .bfi _ d a b => [wordR 0x020#11 d a b]
  | .prmt _ d a b => [wordR 0x021#11 d a b]
  | .isetEq _ d a b => [wordR 0x022#11 d a b]
  | .isetNe _ d a b => [wordR 0x023#11 d a b]
  | .isetLtI _ d a b => [wordR 0x024#11 d a b]
  | .isetLtN _ d a b => [wordR 0x025#11 d a b]
  | .isetLeI _ d a b => [wordR 0x026#11 d a b]
  | .isetLeN _ d a b => [wordR 0x027#11 d a b]
  | .isel _ d a b => [wordR 0x028#11 d a b]
  | .iadd64 _ d a b => [wordR 0x029#11 d a b]
  | .isub64 _ d a b => [wordR 0x02A#11 d a b]
  | .mov _ d a => [wordR 0x02B#11 d a 0]
  | .iaddi _ d a i => [wordR 0x080#11 d a i]
  | .andi _ d a i => [wordR 0x081#11 d a i]
  | .ori _ d a i => [wordR 0x082#11 d a i]
  | .xori _ d a i => [wordR 0x083#11 d a i]
  | .shli _ d a i => [wordR 0x084#11 d a (0#2 ++ i)]
  | .shriN _ d a i => [wordR 0x085#11 d a (0#2 ++ i)]
  | .shriI _ d a i => [wordR 0x086#11 d a (0#2 ++ i)]
  | .isetiEq _ d a i => [wordR 0x087#11 d a i]
  | .isetiLtI _ d a i => [wordR 0x088#11 d a i]
  | .isetiLtN _ d a i => [wordR 0x089#11 d a i]
  | .movi _ d i => [wordI14 0x08A#11 d i]
  | .movl _ d lit => [wordR 0x08B#11 d 0 0, lit]
  | .iaddi14 _ d i => [wordI14 0x08C#11 d i]
  | .fadd _ d a b => [wordR 0x100#11 d a b]
  | .fsub _ d a b => [wordR 0x101#11 d a b]
  | .fmul _ d a b => [wordR 0x102#11 d a b]
  | .ffma _ d a b => [wordR 0x103#11 d a b]
  | .fmin _ d a b => [wordR 0x104#11 d a b]
  | .fmax _ d a b => [wordR 0x105#11 d a b]
  | .fneg _ d a => [wordR 0x106#11 d a 0]
  | .fabs _ d a => [wordR 0x107#11 d a 0]
  | .fsetEq _ d a b => [wordR 0x108#11 d a b]
  | .fsetNe _ d a b => [wordR 0x109#11 d a b]
  | .fsetLt _ d a b => [wordR 0x10A#11 d a b]
  | .fsetLe _ d a b => [wordR 0x10B#11 d a b]
  | .fsetUn _ d a b => [wordR 0x10C#11 d a b]
  | .frnd _ d a => [wordR 0x10D#11 d a 0]
  | .fdiv _ d a b => [wordR 0x10E#11 d a b]
  | .fsqrt _ d a => [wordR 0x10F#11 d a 0]
  | .frcp _ d a => [wordR 0x110#11 d a 0]
  | .frsq _ d a => [wordR 0x111#11 d a 0]
  | .fexp2 _ d a => [wordR 0x112#11 d a 0]
  | .flog2 _ d a => [wordR 0x113#11 d a 0]
  | .fsin _ d a => [wordR 0x114#11 d a 0]
  | .fcos _ d a => [wordR 0x115#11 d a 0]
  | .ftanh _ d a => [wordR 0x116#11 d a 0]
  | .fsig _ d a => [wordR 0x117#11 d a 0]
  | .fclass _ d a => [wordR 0x118#11 d a 0]
  | .fscale _ d a b => [wordR 0x119#11 d a b]
  | .paddBf _ d a b => [wordR 0x180#11 d a b]
  | .pmulBf _ d a b => [wordR 0x181#11 d a b]
  | .pfmaBf _ d a b => [wordR 0x182#11 d a b]
  | .paddH _ d a b => [wordR 0x183#11 d a b]
  | .pmulH _ d a b => [wordR 0x184#11 d a b]
  | .pfmaH _ d a b => [wordR 0x185#11 d a b]
  | .cvt _ d a b => [wordR 0x186#11 d a b]
  | .cvtpkBf _ d a b => [wordR 0x187#11 d a b]
  | .cvtpkH _ d a b => [wordR 0x188#11 d a b]
  | .cvtpkE4 _ d a b => [wordR 0x189#11 d a b]
  | .cvtpkE5 _ d a b => [wordR 0x18A#11 d a b]
  | .cvtpkI8 _ d a b => [wordR 0x18B#11 d a b]
  | .cvtpkN8 _ d a b => [wordR 0x18C#11 d a b]
  | .cvtun _ d a b => [wordR 0x18D#11 d a b]
  | .xshfl _ d a b => [wordR 0x200#11 d a b]
  | .xbfly _ d a b => [wordR 0x201#11 d a b]
  | .xup _ d a b => [wordR 0x202#11 d a b]
  | .xdn _ d a b => [wordR 0x203#11 d a b]
  | .xbcast _ d a b => [wordR 0x204#11 d a b]
  | .voteany _ d a => [wordR 0x205#11 d a 0]
  | .voteall _ d a => [wordR 0x206#11 d a 0]
  | .ballot _ d a => [wordR 0x207#11 d a 0]
  | .xredAddI _ d a => [wordR 0x208#11 d a 0]
  | .xredAddF _ d a => [wordR 0x209#11 d a 0]
  | .xredMinI _ d a => [wordR 0x20A#11 d a 0]
  | .xredMaxI _ d a => [wordR 0x20B#11 d a 0]
  | .xredMinF _ d a => [wordR 0x20C#11 d a 0]
  | .xredMaxF _ d a => [wordR 0x20D#11 d a 0]
  | .xscanAddI _ d a => [wordR 0x20E#11 d a 0]
  | .xscanAddF _ d a => [wordR 0x20F#11 d a 0]
  | .idp4Ii _ d a b => [wordR 0x210#11 d a b]
  | .idp4Nn _ d a b => [wordR 0x211#11 d a b]
  | .idp4sIi _ d a b => [wordR 0x212#11 d a b]
  | .idp4sNn _ d a b => [wordR 0x213#11 d a b]
  | .idp2Ii _ d a b => [wordR 0x214#11 d a b]
  | .idp2sIi _ d a b => [wordR 0x215#11 d a b]
  | .bra i => [(0x280#11 ++ i)]
  | .call i => [(0x281#11 ++ i)]
  | .bz d i => [wordI14 0x282#11 d i]
  | .bnz d i => [wordI14 0x283#11 d i]
  | .beod q dim i => [wordI14 0x284#11 (0#3 ++ q ++ dim) i]
  | .jmp a => [wordR 0x285#11 0 a 0]
  | .callr a => [wordR 0x286#11 0 a 0]
  | .ret => [wordR 0x287#11 0 0 0]
  | .exit => [wordR 0x288#11 0 0 0]
  | .trap i => [wordI14 0x289#11 0 i]
  | .brk => [wordR 0x28A#11 0 0 0]
  | .nop => [wordR 0x28B#11 0 0 0]
  | .mjoin d => [wordR 0x300#11 d 0 0]
  | .mleave d => [wordR 0x301#11 d 0 0]
  | .mwait d => [wordR 0x302#11 d 0 0]
  | .msync d => [wordR 0x303#11 d 0 0]
  | .mset d a => [wordR 0x304#11 d a 0]
  | .mget d a => [wordR 0x305#11 d a 0]
  | .mact d => [wordR 0x306#11 d 0 0]
  | .ckend => [wordR 0x307#11 0 0 0]
  | .ckirr => [wordR 0x308#11 0 0 0]
  | .ckstat d => [wordR 0x309#11 d 0 0]
  | .wbase i => [wordI14 0x30A#11 0 i]
  | .wgrow d a => [wordR 0x30B#11 d a 0]
  | .mfsr d i => [wordI14 0x680#11 d i]
  | .mtsr d i => [wordI14 0x681#11 d i]
  | .eret => [wordR 0x682#11 0 0 0]
  | .syscall i => [wordI14 0x683#11 0 i]
  | .tlbinv a b => [wordR 0x684#11 0 a b]
  | .ctxsave a => [wordR 0x685#11 0 a 0]
  | .ctxrstr a => [wordR 0x686#11 0 a 0]
  | .wfi => [wordR 0x687#11 0 0 0]
  | .ipi a => [wordR 0x688#11 0 a 0]
  | .qmap a b => [wordR 0x689#11 0 a b]
  | .qunmap a => [wordR 0x68A#11 0 a 0]
  | .gangres d a => [wordR 0x68B#11 d a 0]
  | .gangcmt a => [wordR 0x68C#11 0 a 0]
  | .gangabt a => [wordR 0x68D#11 0 a 0]
  | .ldg8i _ d a b => [wordR 0x380#11 d a b]
  | .ldg8n _ d a b => [wordR 0x381#11 d a b]
  | .ldg16i _ d a b => [wordR 0x382#11 d a b]
  | .ldg16n _ d a b => [wordR 0x383#11 d a b]
  | .ldg32 _ d a b => [wordR 0x384#11 d a b]
  | .ldg64 _ d a b => [wordR 0x385#11 d a b]
  | .ldg128 _ d a b => [wordR 0x386#11 d a b]
  | .stg8 _ d a b => [wordR 0x387#11 d a b]
  | .stg16 _ d a b => [wordR 0x388#11 d a b]
  | .stg32 _ d a b => [wordR 0x389#11 d a b]
  | .stg64 _ d a b => [wordR 0x38A#11 d a b]
  | .stg128 _ d a b => [wordR 0x38B#11 d a b]
  | .lds8i _ d a b => [wordR 0x38C#11 d a b]
  | .lds8n _ d a b => [wordR 0x38D#11 d a b]
  | .lds16i _ d a b => [wordR 0x38E#11 d a b]
  | .lds16n _ d a b => [wordR 0x38F#11 d a b]
  | .lds32 _ d a b => [wordR 0x390#11 d a b]
  | .lds64 _ d a b => [wordR 0x391#11 d a b]
  | .lds128 _ d a b => [wordR 0x392#11 d a b]
  | .sts8 _ d a b => [wordR 0x393#11 d a b]
  | .sts16 _ d a b => [wordR 0x394#11 d a b]
  | .sts32 _ d a b => [wordR 0x395#11 d a b]
  | .sts64 _ d a b => [wordR 0x396#11 d a b]
  | .sts128 _ d a b => [wordR 0x397#11 d a b]
  | .ldk _ d a b => [wordR 0x398#11 d a b]
  | .pfl _ a b => [wordR 0x399#11 0 a b]
  | .smap _ d a b => [wordR 0x39A#11 d a b]
  | .sunmap _ d b => [wordR 0x39B#11 d 0 b]
  | .sflush _ d b => [wordR 0x39C#11 d 0 b]
  | .sdrop _ d b => [wordR 0x39D#11 d 0 b]
  | .llock _ d a b => [wordR 0x39E#11 d a b]
  | .lunlock _ a b => [wordR 0x39F#11 0 a b]
  | .cacheop _ d a b => [wordR 0x3A0#11 d a b]
  | .atomAdd _ d a b => [wordR 0x400#11 d a b]
  | .atomAnd _ d a b => [wordR 0x401#11 d a b]
  | .atomOr _ d a b => [wordR 0x402#11 d a b]
  | .atomXor _ d a b => [wordR 0x403#11 d a b]
  | .atomMinI _ d a b => [wordR 0x404#11 d a b]
  | .atomMinN _ d a b => [wordR 0x405#11 d a b]
  | .atomMaxI _ d a b => [wordR 0x406#11 d a b]
  | .atomMaxN _ d a b => [wordR 0x407#11 d a b]
  | .atomExch _ d a b => [wordR 0x408#11 d a b]
  | .atomCas _ d a b => [wordR 0x409#11 d a b]
  | .atom64Add _ d a b => [wordR 0x40A#11 d a b]
  | .atom64Cas _ d a b => [wordR 0x40B#11 d a b]
  | .redAddI _ d a b => [wordR 0x410#11 d a b]
  | .redAddF _ d a b => [wordR 0x411#11 d a b]
  | .redAnd _ d a b => [wordR 0x412#11 d a b]
  | .redOr _ d a b => [wordR 0x413#11 d a b]
  | .redXor _ d a b => [wordR 0x414#11 d a b]
  | .redMinI _ d a b => [wordR 0x415#11 d a b]
  | .redMinN _ d a b => [wordR 0x416#11 d a b]
  | .redMaxI _ d a b => [wordR 0x417#11 d a b]
  | .redMaxN _ d a b => [wordR 0x418#11 d a b]
  | .redAddI64 _ d a b => [wordR 0x419#11 d a b]
  | .waitaddr a b => [wordR 0x420#11 0 a b]
  | .strel32 _ d a b => [wordR 0x421#11 d a b]
  | .strel64 _ d a b => [wordR 0x422#11 d a b]
  | .ldacq32 _ d a b => [wordR 0x423#11 d a b]
  | .ldacq64 _ d a b => [wordR 0x424#11 d a b]
  | .fence d => [wordR 0x425#11 d 0 0]
  | .cpseal d => [wordR 0x426#11 d 0 0]
  | .cpwait a => [wordR 0x427#11 0 a 0]
  | .cpy _ a b => [wordR 0x480#11 0 a b]
  | .tcpy _ a b => [wordR 0x481#11 0 a b]
  | .cpyq _ d a b => [wordR 0x482#11 d a b]
  | .strbind d a b => [wordR 0x483#11 d a b]
  | .strunb d => [wordR 0x484#11 d 0 0]
  | .strskip d a => [wordR 0x485#11 d a 0]
  | .accalloc d a => [wordR 0x500#11 d a 0]
  | .accfree a => [wordR 0x501#11 0 a 0]
  | .acczero a => [wordR 0x502#11 0 a 0]
  | .accld d a b => [wordR 0x503#11 d a b]
  | .accst d a b => [wordR 0x504#11 d a b]
  | .mma d a b => [wordR 0x505#11 d a b]
  | .mmawait a => [wordR 0x506#11 0 a 0]
  | .cbload a b => [wordR 0x507#11 0 a b]
  | .accepi d a b => [wordR 0x508#11 d a b]
  | .mmastat d => [wordR 0x509#11 d 0 0]
  | .spawn d a => [wordR 0x580#11 d a 0]
  | .spawnr d a => [wordR 0x581#11 d a 0]
  | .join d a => [wordR 0x582#11 d a 0]
  | .fnew d => [wordR 0x583#11 d 0 0]
  | .fres a b => [wordR 0x584#11 0 a b]
  | .fpoll d a => [wordR 0x585#11 d a 0]
  | .tend a => [wordR 0x586#11 0 a 0]
  | .itemnext i => [wordI14 0x587#11 0 i]
  | .tyield => [wordR 0x588#11 0 0 0]
  | .chbind d a => [wordR 0x589#11 d a 0]
  | .chunb d => [wordR 0x58A#11 d 0 0]
  | .chstat d a => [wordR 0x58B#11 d a 0]
  | .bar d a b => [wordR 0x600#11 d a b]
  | .bararv a b => [wordR 0x601#11 0 a b]
  | .barwt d b => [wordR 0x602#11 d 0 b]
  | .gbar d a b => [wordR 0x603#11 d a b]
  | .grpopen a => [wordR 0x604#11 0 a 0]
  | .grpclose a => [wordR 0x605#11 0 a 0]
  | .mcst a b => [wordR 0x606#11 0 a b]
  | .ctrrd d a => [wordR 0x607#11 d a 0]
  | .ctrset a b => [wordR 0x608#11 0 a b]
  | _ => []

/-- The words of an instruction: the prefix word if it carries a prefix, then its own. -/
def encode (i : Instr) : List Word :=
  match i.pfx with
  | none => encodeBody i
  | some p => wordPfx p :: encodeBody i

end Sys2Proof

end
end

