-- ==== Sys2Proof/Machine/Fetch.lean ====
section
/-! DEFINITION. Sys2Proof/Machine/Fetch.lean: the issuing context of a group and the fetch and decoding of its next unit (R30, R79, R80).
Marked noncomputable only because the decoder is. -/

noncomputable section

namespace Sys2Proof.Machine

/-- The unit at the PC of the issuing group is fetched word by word and decoded; a word that cannot be fetched or is no instruction
faults at the unit's address (R79, R80, R171). -/
def fetchUnit (s : State) : Nat → List Word → Except Stop Instr × State
  | 0, _ => (.error .stall, s)
  | n + 1, ws =>
    match fetchWord s ws.length with
    | (.error x, s) => (.error x, s)
    | (.ok w, s) =>
      match decodeUnit (ws ++ [w]) with
      | .ok (i, _) => (.ok i, s)
      | .error .truncated => fetchUnit s n (ws ++ [w])
      | .error .illegalOpcode => (.error (.fault { code := fcIllegalOpcode, lane := s.cur.lanes.headD 0xFF }), s)
      | .error .illegalPrefix => (.error (.fault { code := fcIllegalPrefix, lane := s.cur.lanes.headD 0xFF }), s)

/-- The issuing context of a group: its active set and their PC (R30), or the threads and the address of a flagged instruction (R182). -/
def aim (s : State) (c slot : Nat) (g : Group) : State :=
  let ls := activeSet s g
  let (ls, pc) := g.replay.getD (ls, sget 0 g.r.pc (ls.headD 0))
  { s with cur := { core := c, slot := slot, lanes := ls, pc := pc } }

end Sys2Proof.Machine

end
end

