-- ==== Sys2Proof/Machine/Step.lean ====
section
/-! DEFINITION. Sys2Proof/Machine/Step.lean: one step of the device: what a schedule says moves next, else the oldest message in flight
arrives, else a due timer runs, else a ready group issues, else time passes. Marked noncomputable only because the decoder is. -/

noncomputable section

namespace Sys2Proof.Machine

/-- A group issues: its unit is fetched and executed. -/
def issueGroup (s : State) (c slot : Nat) : Host.Outcome State Fault Refusal :=
  match groupAt s c slot with
  | none => .next (passTime s 1)
  | some g =>
    if !groupReady s c slot g then .next (passTime s 1)
    else
      let s := aim s c slot g
      match fetchUnit s 3 [] with
      | (.ok i, s) => exec i s
      | (.error x, s) => .next (stopped s x)

/-- The device moves: instructions that could not complete are tried again (R27). -/
def moved (s : State) : State := { s with moves := s.moves + 1 }

/-- A message arrives. -/
def deliver (s : State) (k : Nat) : Host.Outcome State Fault Refusal :=
  match s.net[nextOfPair s.net k]? with
  | none => .next (passTime s 1)
  | some m => exec m.ev (moved { s with net := s.net.eraseIdx (nextOfPair s.net k) })

/-- A schedule names a group to issue: it does if it is the one that its pipe picks (R28), else the pipe idles. -/
def issueTurn (s : State) (c slot : Nat) : Host.Outcome State Fault Refusal :=
  if (pipePick s c (slot % 4)).map (·.1) = some slot then issueGroup s c slot else .next (passTime s 1)

/-- What the environment or a schedule has said to move next. -/
def turn (s : State) : Turn → Host.Outcome State Fault Refusal
  | .deliver k => deliver s k
  | .issue c slot => issueTurn s c slot
  | .event e => if s.power || decide (e = .powerOnReset) then exec e (moved s) else .next s
  | .tick n => .next (passTime s n)

/-- The step. -/
def step (s : State) : Host.Outcome State Fault Refusal :=
  match s.sched with
  | t :: rest => turn { s with sched := rest } t
  | [] =>
    if !s.power then .next (passTime s 1)
    else if !s.net.isEmpty then deliver s 0
    else
      match dueTimer s with
      | some (i, e) => exec e (moved { s with timers := s.timers.eraseIdx i })
      | none =>
        match nextIssue s with
        | some (c, slot) => issueGroup s c slot
        | none => .next (passTime s (max 1 (nextDeadline s - s.clk)))

/-- `s` with the instruction whose bits are `w` where the next step fetches: in the firmware region, as the first instruction of an
F-mode group in slot 0 of core 0, the state that boot leaves a vintner core's group in (R170, R452; log 3). -/
def State.withFetchWord (s : State) (nbits w : Nat) : State :=
  let s := { s with cores := aset s.cores 0 { (coreAt s 0) with role := 1, groups := [], teams := [] } }
  let s := startFmode s 0 (BitVec.ofNat 57 fwRegion)
  let s := memPut s (bytesAt fwRegion (bytesOfNat 12 (w % 2 ^ nbits)))
  { s with sched := [.issue 0 0] }

end Sys2Proof.Machine

end
end

