-- ==== Sys2Proof/Safety.lean ====
section
/-! DEFINITION. Sys2Proof/Safety.lean: what a safe run is, and the terms in which the statements speak: the invariant of the memory's
canonical form, the state in which an instruction's effect is made, the values of its operands there, and what a write leaves. -/

namespace Sys2Proof.Machine

/-! ### Safe runs -/

/-- The canonical form of the committed memory: addresses strictly rise, and no entry equals what an unlisted address reads as. -/
def Memory.wf (m : List Host.Cell) : Bool := swf 0 m

/-- The state's memory is in canonical form. -/
def State.memWf (s : State) : Bool := Memory.wf s.mem

/-- A step answers a next state: the machine neither faults nor refuses. -/
def Steps (s : State) : Prop := ∃ t, step s = .next t

/-! ### The effect of an instruction -/

/-- A group stands at the issuing context. -/
def issuing (s : State) : Bool := (groupAt s s.cur.core s.cur.slot).isSome

/-- The state in which the effect of a unit of `len` bytes is made: the group's wait is over, a chunk is open (R161), and the program
counters of the active set stand past the unit (R146). -/
def entered (len : Nat) (s : State) : State :=
  modCur (begun s) (fun g => { g with r := setPcs g.r (s.cur.lanes.map (·, s.cur.pc + BitVec.ofNat 57 len)) })

/-- The chunk of the issuing group goes on after an instruction that has left state `x`: it has room, nothing ends it, no stop or event
waits for the boundary (R164, R177, R215, R319), and the instruction is not the repeat of a flagged one (R187). -/
def goesOn (x : State) : Prop :=
  let g := curGroup x
  issuing x = true ∧ g.open_.slots + 1 < 2048 ∧ g.open_.lines.length ≤ 48 ∧ g.open_.ending = false ∧ g.haltLeft = none
    ∧ g.replay = none ∧ g.awaited = false ∧ mustStop x x.cur.core g = false

/-- Changes the checkpointed registers of the issuing group. -/
def withRegs (s : State) (f : GRegs → GRegs) : State := modCur s (fun g => { g with r := f g.r })

/-- Changes the open chunk of the issuing group. -/
def withChunk (s : State) (f : Chunk → Chunk) : State := modCur s (fun g => { g with open_ := f g.open_ })

/-- Appends a deferred effect to the open chunk (R41). -/
def deferring (s : State) (e : Effect) : State := withChunk s (fun k => { k with effects := k.effects ++ [e] })

/-! ### Operands -/

/-- A source that is no port (R70). -/
def plainSrc (c : Code) : Bool := decide (c.toNat ≤ 111) || decide (120 ≤ c.toNat)

/-- A 32-bit destination that is no port (R70). -/
def plainDst (c : Code) : Bool := decide (c.toNat ≤ 111) || c == 120

/-- A 64-bit operand code: an even v or k register, or zr (R72). -/
def pairCode (c : Code) : Bool := (decide (c.toNat < 112) && c.toNat % 2 == 0) || c == 120

/-- A 128-bit operand code: a v or k register that is a multiple of 4, or zr (R72). -/
def quadCode (c : Code) : Bool := (decide (c.toNat < 112) && c.toNat % 4 == 0) || c == 120

/-- The `n` registers from code `c` on lie in the issuing group's allocation, if they are v registers (R95). -/
def inAlloc (s : State) (c : Code) (n : Nat) : Bool :=
  decide (95 < c.toNat) || decide ((curGroup s).r.wb + c.toNat + n ≤ (curGroup s).a)

/-- The operand as a legal 32-bit source, 32-bit destination, pair or quad of this group. -/
def okSrc (s : State) (c : Code) : Bool := plainSrc c && inAlloc s c 1
def okDst (s : State) (c : Code) : Bool := plainDst c && inAlloc s c 1
def okPair (s : State) (c : Code) : Bool := pairCode c && inAlloc s c 2
def okQuad (s : State) (c : Code) : Bool := quadCode c && inAlloc s c 4

/-- The executing threads, ascending: the active set narrowed by the prefix's mask (R71). -/
def execs (s : State) (p : Option Pfx) : List Nat := s.cur.lanes.filter (inMask (curGroup s) p)

/-- The threads that receive zero: those of the active set that a zeroing prefix's mask leaves out (R71). -/
def zeroed (s : State) (p : Option Pfx) : List Nat :=
  if (p.map (·.zm)).getD false then s.cur.lanes.filter (fun t => !inMask (curGroup s) p t) else []

/-- The value of a source that is no port, as lane `t` of the issuing group reads it (R70, R102). -/
def srcVal (s : State) (c : Code) (t : Nat) : Word :=
  let g := curGroup s
  let n := c.toNat
  if n ≤ 95 then sget 0 g.r.v (32 * (g.r.wb + n) + t)
  else if n ≤ 111 then sget 0 g.r.k (n - 96)
  else if n = 121 then BitVec.ofNat 32 t
  else if n = 122 then BitVec.ofNat 32 g.gi
  else if n = 123 then BitVec.ofNat 32 s.cur.core
  else if n = 124 then sget 0xFFFFFFFF g.r.it t
  else if n = 125 then loWord (cycles s (dieOf s.cur.core))
  else if n = 126 then g.r.cys
  else if n = 127 then sfWord g
  else 0

/-- A 64-bit source as lane `t` reads it: the even register is the low half (R72). -/
def pairVal (s : State) (c : Code) (t : Nat) : Dword := if c = 120 then 0 else srcVal s (c + 1) t ++ srcVal s c t

/-- Reading `cy` copies the counter's high half into CYS, if a thread executes (R102). -/
def srcStep (s : State) (ex : List Nat) (c : Code) : State :=
  if c = 125 ∧ ex ≠ [] then withRegs s (fun r => { r with cys := hiWord (cycles s (dieOf s.cur.core)) }) else s

/-- The state after a write of a 32-bit destination that is no port; zr discards it (R70). -/
def putWord (s : State) (c : Code) (ex zl : List Nat) (f : Nat → Word) : State :=
  if c = 120 then s else withRegs s (fun r => writeVK r c ex zl f)

/-- The state after a write of a pair. -/
def putPair (s : State) (c : Code) (ex zl : List Nat) (f : Nat → Dword) : State := withRegs s (fun r => writePairR r c ex zl f)

/-- The state after a write of a quad, given as a number. -/
def putQuad (s : State) (c : Code) (ex zl : List Nat) (f : Nat → Nat) : State := withRegs s (fun r => writeQuadR r c ex zl f)

/-! ### What the register forms leave -/

/-- After a unit with one source. -/
def did1 (s : State) (p : Option Pfx) (d a : Code) (f : Word → Word) : State :=
  let s0 := entered (unitLen p) s
  let ex := execs s p
  putWord (srcStep s0 ex a) d ex (zeroed s p) (fun t => f (srcVal s0 a t))

/-- After a unit with two sources, read in order. -/
def did2 (s : State) (p : Option Pfx) (d a b : Code) (f : Word → Word → Word) : State :=
  let s0 := entered (unitLen p) s
  let ex := execs s p
  let s1 := srcStep s0 ex a
  putWord (srcStep s1 ex b) d ex (zeroed s p) (fun t => f (srcVal s0 a t) (srcVal s1 b t))

/-- After a unit with three sources, the third being the prefix's c or, without one, d (R78). -/
def did3 (s : State) (p : Option Pfx) (d a b : Code) (f : Word → Word → Word → Word) : State :=
  let s0 := entered (unitLen p) s
  let ex := execs s p
  let s1 := srcStep s0 ex a
  let s2 := srcStep s1 ex b
  putWord (srcStep s2 ex (third p d)) d ex (zeroed s p) (fun t => f (srcVal s0 a t) (srcVal s1 b t) (srcVal s2 (third p d) t))

/-- After a unit with two sources and a pair destination. -/
def did2w (s : State) (p : Option Pfx) (d a b : Code) (f : Word → Word → Dword) : State :=
  let s0 := entered (unitLen p) s
  let ex := execs s p
  let s1 := srcStep s0 ex a
  putPair (srcStep s1 ex b) d ex (zeroed s p) (fun t => f (srcVal s0 a t) (srcVal s1 b t))

/-- After a unit with two pair sources and a pair destination. -/
def did64 (s : State) (p : Option Pfx) (d a b : Code) (f : Dword → Dword → Dword) : State :=
  let s0 := entered (unitLen p) s
  putPair s0 d (execs s p) (zeroed s p) (fun t => f (pairVal s0 a t) (pairVal s0 b t))

end Sys2Proof.Machine
end

