-- ==== Sys2Proof/Certificates/Slice0/Obligations.lean ====
section
/-! DEFINITION. Sys2Proof/Certificates/Slice0/Obligations.lean: the statements for the provers, and the results of the spec's tables that
they speak of. Where a statement gives an instruction's effect it gives the state from which `finish` goes on: what every completed
instruction does (`retire`: it counts, its clk passes, and its chunk ends after it where it must). -/

noncomputable section

namespace Sys2Proof.Claims

open Sys2Proof.Machine

/-! ### Results of the integer and logic forms (R104 to R121) -/

/-- v mod 2^32 as a word (R104). -/
def wrap32 (v : Int) : Word := BitVec.ofInt 32 v

/-- The nearest value of a range (R104). -/
def nearest (lo hi v : Int) : Int := max lo (min hi v)

/-- The exact result clamped to i32 under sat, else wrapped. -/
def clampI (sat : Bool) (v : Int) : Word := if sat then wrap32 (nearest (-2 ^ 31) (2 ^ 31 - 1) v) else wrap32 v

/-- The exact result clamped to n32 under sat, else wrapped. -/
def clampN (sat : Bool) (v : Int) : Word := if sat then wrap32 (nearest 0 (2 ^ 32 - 1) v) else wrap32 v

/-- The exact result clamped to i64 under sat, else wrapped. -/
def clampI64 (sat : Bool) (v : Int) : Dword :=
  if sat then BitVec.ofInt 64 (nearest (-2 ^ 63) (2 ^ 63 - 1) v) else BitVec.ofInt 64 v

/-- 1 if the condition holds and 0 otherwise (R116). -/
def flag (b : Prop) [Decidable b] : Word := if b then 1 else 0

/-- Byte i of a word, and its element i of w bits. -/
def byteOf (x : Word) (i : Nat) : Byte := x.extractLsb' (8 * i) 8

/-- The field of R113: nothing, or its position and its width after the cut at bit 31. -/
def bitField (y : Word) : Option (Nat × Nat) :=
  let pos := y.toNat % 256
  let len := y.toNat / 256 % 256
  if len = 0 ∨ 32 ≤ pos then none else some (pos, min len (32 - pos))

/-- BFX (R113). -/
def bfxOf (signed : Bool) (x y : Word) : Word :=
  match bitField y with
  | none => 0
  | some (pos, w) =>
    let f : BitVec w := BitVec.ofNat w (x.toNat / 2 ^ pos)
    if signed then f.signExtend 32 else f.setWidth 32

/-- The word with the given bits. -/
def wordOf (bit : Nat → Bool) : Word := (List.range 32).foldr (fun i w => w ||| (if bit i then BitVec.twoPow 32 i else 0)) 0

/-- BFI (R114): bits of x replace those of z in the field. -/
def bfiOf (x y z : Word) : Word :=
  match bitField y with
  | none => z
  | some (pos, w) => wordOf (fun i => if pos ≤ i ∧ i < pos + w then x.getLsbD (i - pos) else z.getLsbD i)

/-- The forms d, a, b with a 32-bit result, and their results on the values of a and b (R107 to R117). -/
def intTwo (sat : Bool) : List ((Option Pfx → Code → Code → Code → Instr) × (Word → Word → Word)) :=
  [(.iadd, fun x y => clampI sat (x.toInt + y.toInt)),
   (.isub, fun x y => clampI sat (x.toInt - y.toInt)),
   (.imul, fun x y => clampI sat (x.toInt * y.toInt)),
   (.imulhiI, fun x y => wrap32 (x.toInt * y.toInt / 2 ^ 32)),
   (.imulhiN, fun x y => BitVec.ofNat 32 (x.toNat * y.toNat / 2 ^ 32)),
   (.iaddsatI, fun x y => clampI true (x.toInt + y.toInt)),
   (.iaddsatN, fun x y => clampN true (x.toNat + y.toNat)),
   (.isubsatI, fun x y => clampI true (x.toInt - y.toInt)),
   (.isubsatN, fun x y => if y.toNat ≤ x.toNat then x - y else 0)]
  ++ [(.iminI, fun x y => wrap32 (min x.toInt y.toInt)),
   (.iminN, fun x y => BitVec.ofNat 32 (min x.toNat y.toNat)),
   (.imaxI, fun x y => wrap32 (max x.toInt y.toInt)),
   (.imaxN, fun x y => BitVec.ofNat 32 (max x.toNat y.toNat)),
   (.icsub, fun x y => if y.toNat ≤ x.toNat then x - y else x),
   (.and, fun x y => x &&& y),
   (.or, fun x y => x ||| y),
   (.xor, fun x y => x ^^^ y),
   (.andn, fun x y => x &&& ~~~y)]
  ++ [(.shl, fun x y => x <<< y.toNat),
   (.shrN, fun x y => x >>> y.toNat),
   (.shrI, fun x y => wrap32 (x.toInt / 2 ^ y.toNat)),
   (.rotl, fun x y => x.rotateLeft y.toNat),
   (.bfxI, bfxOf true),
   (.bfxN, bfxOf false),
   (.isetEq, fun x y => flag (x = y)),
   (.isetNe, fun x y => flag (x ≠ y)),
   (.isetLtI, fun x y => flag (x.toInt < y.toInt)),
   (.isetLtN, fun x y => flag (x.toNat < y.toNat)),
   (.isetLeI, fun x y => flag (x.toInt ≤ y.toInt)),
   (.isetLeN, fun x y => flag (x.toNat ≤ y.toNat))]

/-- The forms d, a (R109, R112, R119). -/
def intOne (sat : Bool) : List ((Option Pfx → Code → Code → Instr) × (Word → Word)) :=
  [(.iabs, fun x => clampI sat |x.toInt|),
   (.popc, fun x => BitVec.ofNat 32 ((List.range 32).filter (fun i => x.getLsbD i)).length),
   (.clz, fun x => BitVec.ofNat 32 ((List.range 32).filter (fun i => x.toNat < 2 ^ i)).length),
   (.brev, fun x => wordOf (fun i => x.getLsbD (31 - i))),
   (.mov, fun x => x)]

/-- The forms d, a, imm7 (R120). -/
def intImm7 (sat : Bool) : List ((Option Pfx → Code → Code → BitVec 7 → Instr) × (BitVec 7 → Word → Word)) :=
  [(.iaddi, fun i x => clampI sat (x.toInt + i.toInt)),
   (.andi, fun i x => x &&& BitVec.ofNat 32 i.toNat),
   (.ori, fun i x => x ||| BitVec.ofNat 32 i.toNat),
   (.xori, fun i x => x ^^^ BitVec.ofNat 32 i.toNat),
   (.isetiEq, fun i x => flag (x = wrap32 i.toInt)),
   (.isetiLtI, fun i x => flag (x.toInt < i.toInt)),
   (.isetiLtN, fun i x => flag (x.toNat < (wrap32 i.toInt).toNat))]

/-- The forms d, a, imm5 (R120). -/
def intImm5 : List ((Option Pfx → Code → Code → BitVec 5 → Instr) × (BitVec 5 → Word → Word)) :=
  [(.shli, fun i x => wrap32 (x.toInt * 2 ^ i.toNat)),
   (.shriN, fun i x => BitVec.ofNat 32 (x.toNat / 2 ^ i.toNat)),
   (.shriI, fun i x => wrap32 (x.toInt / 2 ^ i.toNat))]

/-- The sum over n elements of a word. -/
def sumOver (n : Nat) (f : Nat → Int) : Int := ((List.range n).map f).sum

/-- The forms with a third source (R107, R109, R114, R115, R117, R143). -/
def intThree (sat : Bool) : List ((Option Pfx → Code → Code → Code → Instr) × (Word → Word → Word → Word)) :=
  [(.imad, fun x y z => clampI sat (x.toInt * y.toInt + z.toInt)),
   (.sad, fun x y z => clampN sat (z.toNat + sumOver 4 (fun i => |((byteOf x i).toNat : Int) - (byteOf y i).toNat|))),
   (.bfi, bfiOf),
   (.prmt, prmtW),
   (.isel, fun x y z => if z = 0 then y else x),
   (.idp4Ii, fun x y z => clampI sat (z.toInt + sumOver 4 (fun i => (byteOf x i).toInt * (byteOf y i).toInt))),
   (.idp4Nn, fun x y z => clampN sat (z.toNat + sumOver 4 (fun i => (byteOf x i).toNat * (byteOf y i).toNat))),
   (.idp4sIi, fun x y z => clampI true (z.toInt + sumOver 4 (fun i => (byteOf x i).toInt * (byteOf y i).toInt))),
   (.idp4sNn, fun x y z => clampN true (z.toNat + sumOver 4 (fun i => (byteOf x i).toNat * (byteOf y i).toNat))),
   (.idp2Ii, fun x y z => clampI sat (z.toInt + sumOver 2 (fun i => (x.extractLsb' (16 * i) 16).toInt * (y.extractLsb' (16 * i) 16).toInt))),
   (.idp2sIi, fun x y z => clampI true (z.toInt + sumOver 2 (fun i => (x.extractLsb' (16 * i) 16).toInt * (y.extractLsb' (16 * i) 16).toInt)))]

/-! ### Results of the float forms (R124 to R138) -/

/-- A packed result: each half rounded in the mode, then clamped under sat (R135). -/
def halves (f : Fmt) (p : Option Pfx) (v : Nat → FVal) : Word :=
  BitVec.ofNat 16 (fOut f (satBit p) (rndOf p) (v 1)) ++ BitVec.ofNat 16 (fOut f (satBit p) (rndOf p) (v 0))

/-- The float forms d, a, b (R127, R129, R130, R132, R134, R135, R137). -/
def floatTwo (p : Option Pfx) : List ((Option Pfx → Code → Code → Code → Instr) × (Word → Word → Word)) :=
  [(.fadd, fun x y => f32W p ((fv x).add (rndOf p) (fv y))),
   (.fsub, fun x y => f32W p ((fv x).add (rndOf p) (fv y).neg)),
   (.fmul, fun x y => f32W p ((fv x).mul (fv y))),
   (.fmin, fun x y => satW p (fminW x y)),
   (.fmax, fun x y => satW p (fmaxW x y)),
   (.fdiv, fun x y => f32W p ((fv x).div (fv y))),
   (.fscale, fun x y => f32W p (fscaleVal (fv x) y.toInt))]
  ++ [(.fsetEq, fun x y => flag (isNanW x = false ∧ isNanW y = false ∧ orderKey false x = orderKey false y)),
   (.fsetNe, fun x y => flag (isNanW x ∨ isNanW y ∨ orderKey false x ≠ orderKey false y)),
   (.fsetLt, fun x y => flag (isNanW x = false ∧ isNanW y = false ∧ orderKey false x < orderKey false y)),
   (.fsetLe, fun x y => flag (isNanW x = false ∧ isNanW y = false ∧ orderKey false x ≤ orderKey false y)),
   (.fsetUn, fun x y => flag (isNanW x ∨ isNanW y))]
  ++ [(.paddBf, fun x y => halves bf16 p (fun i => (halfVal bf16 x i).add (rndOf p) (halfVal bf16 y i))),
   (.pmulBf, fun x y => halves bf16 p (fun i => (halfVal bf16 x i).mul (halfVal bf16 y i))),
   (.paddH, fun x y => halves f16 p (fun i => (halfVal f16 x i).add (rndOf p) (halfVal f16 y i))),
   (.pmulH, fun x y => halves f16 p (fun i => (halfVal f16 x i).mul (halfVal f16 y i))),
   (.cvtpkBf, fun x y => halves bf16 p (fun i => fv (if i = 0 then x else y))),
   (.cvtpkH, fun x y => halves f16 p (fun i => fv (if i = 0 then x else y)))]

/-- The float forms d, a (R129, R131, R132, R133). -/
def floatOne (p : Option Pfx) : List ((Option Pfx → Code → Code → Instr) × (Word → Word)) :=
  [(.fneg, fun x => x ^^^ 0x80000000),
   (.fabs, fun x => x &&& 0x7FFFFFFF),
   (.frnd, fun x => satW p (frndW (rndOf p) x)),
   (.fsqrt, fun x => f32W p (fv x).sqrt),
   (.frcp, fun x => f32W p ((FVal.fin false 1 0).div (fv x))),
   (.frsq, fun x => f32W p (fv x).rsqrt),
   (.fexp2, fun x => satW p (exp2W (rndOf p) x)),
   (.flog2, fun x => satW p (log2W (rndOf p) x)),
   (.fsin, fun x => satW p (sinW (rndOf p) x)),
   (.fcos, fun x => satW p (cosW (rndOf p) x)),
   (.ftanh, fun x => satW p (tanhW (rndOf p) x)),
   (.fsig, fun x => satW p (sigW (rndOf p) x)),
   (.fclass, fclassW)]

/-- The float forms with a third source (R127, R128, R135). -/
def floatThree (p : Option Pfx) : List ((Option Pfx → Code → Code → Code → Instr) × (Word → Word → Word → Word)) :=
  [(.ffma, fun x y z => f32W p (((fv x).mul (fv y)).add (rndOf p) (fv z))),
   (.pfmaBf, fun x y z => halves bf16 p (fun i => ((halfVal bf16 x i).mul (halfVal bf16 y i)).add (rndOf p) (halfVal bf16 z i))),
   (.pfmaH, fun x y z => halves f16 p (fun i => ((halfVal f16 x i).mul (halfVal f16 y i)).add (rndOf p) (halfVal f16 z i)))]

/-- The 8-bit packs: the code that each half of the pair of sources becomes (R137). -/
def pack8Of (p : Option Pfx) : List ((Option Pfx → Code → Code → Code → Instr) × (Word → Nat)) :=
  [(.cvtpkE4, fun x => fOut e4m3 (satBit p) (rndOf p) (fv x)),
   (.cvtpkE5, fun x => fOut e5m2 (satBit p) (rndOf p) (fv x)),
   (.cvtpkI8, fun x => (toIntVal (rndOf p) (-128) 127 (fv x) % 256).toNat),
   (.cvtpkN8, fun x => (toIntVal (rndOf p) 0 255 (fv x)).toNat)]

/-! ### Results of the forms that read other lanes (R64, R65, R139 to R142) -/

/-- The segment width of a b value (R140). -/
def segOf (y : Word) : Nat := 2 ^ (5 - min (y.toNat / 32 % 8) 5)

/-- The lane value of a b value (R140). -/
def laneNum (y : Word) : Nat := y.toNat % 32

/-- The source lane of thread t, from the executing threads and their b values (R140). -/
def crossForms : List ((Option Pfx → Code → Code → Code → Instr) × (List Nat → (Nat → Word) → Nat → Nat)) :=
  [(.xshfl, fun _ y t => t - t % segOf (y t) + laneNum (y t) % segOf (y t)),
   (.xbfly, fun _ y t => t ^^^ (laneNum (y t) % segOf (y t))),
   (.xup, fun _ y t => t - t % segOf (y t) + ((((t % segOf (y t) : Nat) : Int) - laneNum (y t)) % (segOf (y t) : Int)).toNat),
   (.xdn, fun _ y t => t - t % segOf (y t) + (t % segOf (y t) + laneNum (y t)) % segOf (y t)),
   (.xbcast, fun ex y t => let y0 := y (ex.headD 0); t - t % segOf y0 + laneNum y0 % segOf y0)]

/-- The least and the greatest of the contributors' signed values. -/
def leastI (ex : List Nat) (x : Nat → Word) : Int := (ex.map (fun t => (x t).toInt)).min?.getD 0
def greatestI (ex : List Nat) (x : Nat → Word) : Int := (ex.map (fun t => (x t).toInt)).max?.getD 0

/-- The exact signed sum of some threads' values. -/
def sumOf (ls : List Nat) (x : Nat → Word) : Int := (ls.map (fun t => (x t).toInt)).sum

/-- A float result of a reduction or scan: a NaN is the canonical NaN, then sat (R142). -/
def canonF (p : Option Pfx) (w : Word) : Word := satW p (if isNanW w then 0x7FC00000 else w)

/-- The votes, reductions and scans: the result in thread t, from the contributors and their values (R141, R142). -/
def foldForms (p : Option Pfx) : List ((Option Pfx → Code → Code → Instr) × (List Nat → (Nat → Word) → Nat → Word)) :=
  [(.voteany, fun ex x _ => flag (∃ t ∈ ex, x t ≠ 0)),
   (.voteall, fun ex x _ => flag (∀ t ∈ ex, x t ≠ 0)),
   (.ballot, fun ex x _ => wordOf (fun i => decide (i ∈ ex) && x i != 0)),
   (.xredAddI, fun ex x _ => clampI (satBit p) (sumOf ex x)),
   (.xredMinI, fun ex x _ => wrap32 (leastI ex x)),
   (.xredMaxI, fun ex x _ => wrap32 (greatestI ex x)),
   (.xscanAddI, fun ex x t => clampI (satBit p) (sumOf (ex.filter (· ≤ t)) x)),
   (.xredAddF, fun ex x _ => canonF p ((treeF (rndOf p) (present ex x)).getD 0)),
   (.xredMinF, fun ex x _ => canonF p (foldF fminW ex x)),
   (.xredMaxF, fun ex x _ => canonF p (foldF fmaxW ex x)),
   (.xscanAddF, fun ex x t => canonF p (((scanF (rndOf p) (present ex x))[t]?).join.getD 0))]

/-! ### Terms for effects and frames -/

/-- The address `imm` words from the unit's own (R68). -/
def relativeTo (s : State) {n : Nat} (imm : BitVec n) : PC := s.cur.pc + BitVec.ofInt 57 (4 * imm.toInt)

/-- The threads stand at the addresses that `f` gives. -/
def goTo (s : State) (lanes : List Nat) (f : Nat → PC) : State := withRegs s (fun r => setPcs r (lanes.map (fun t => (t, f t))))

/-- What completing an instruction may change: the count of the core's issues, time and what counts it, and the group's record of its
turn. Everything else is as in `x`. -/
def onlyTurn (x t : State) : Prop :=
  let c := x.cur.core
  let slot := x.cur.slot
  { t with cores := x.cores, clk := x.clk, moves := x.moves, readWin := x.readWin, wroteWin := x.wroteWin, ctr := x.ctr
           shorted := x.shorted } = x
  ∧ t.clk = x.clk + 1
  ∧ (∀ k, k % 16 ≠ 3 → k ≠ ctrKey 1 c 0 → ctrGet t k = ctrGet x k)
  ∧ (∀ d, d ≠ c → coreAt t d = coreAt x d)
  ∧ { coreAt t c with groups := (coreAt x c).groups } = coreAt x c
  ∧ (∀ h, h ≠ slot → (groupAt t c h).map (fun g => { g with yieldLeft := 0 }) = (groupAt x c h).map (fun g => { g with yieldLeft := 0 }))
  ∧ (∃ g, groupAt t c slot = some g ∧ g.open_.slots = (curGroup x).open_.slots + 1
      ∧ { g with open_ := (curGroup x).open_, query := (curGroup x).query, stamp := (curGroup x).stamp, tstamp := (curGroup x).tstamp,
                    yieldLeft := (curGroup x).yieldLeft }
          = curGroup x
      ∧ { g.open_ with slots := (curGroup x).open_.slots } = (curGroup x).open_)

/-- The program counter of lane `t` of the issuing group. -/
def pcOf (s : State) (t : Nat) : PC := sget 0 (curGroup s).r.pc t

/-- What lane `t` of the issuing group is doing. -/
def doing (s : State) (t : Nat) : Thr := sget .run (curGroup s).r.thr t

/-- A byte of global memory as the issuing group sees it (R217). -/
def seen (s : State) (a : Nat) : Byte := viewByte s (curGroup s) a

/-- The little-endian value of bytes as the issuing group sees them (R241). -/
def seenNat (s : State) (pas : List Nat) : Nat := natOfBytes (pas.map (seen s))

/-- The registers of the issuing group that a write of some vector registers and k registers leaves: all but these, the program
counters, CYS and RST. -/
def regsExcept (r r' : GRegs) (vs : Nat → Bool) (ks : Nat → Bool) : Prop :=
  { r' with v := r.v, k := r.k, pc := r.pc, cys := r.cys, rst := r.rst } = r
  ∧ (∀ i, vs i = false → sget 0 r'.v i = sget 0 r.v i) ∧ (∀ i, ks i = false → sget 0 r'.k i = sget 0 r.k i)

/-! ### System registers (R169, R172) -/

/-- The chunk of the issuing group ends after the instruction (R215). -/
def ending (x : State) : State := withChunk x (fun k => { k with ending := true })

/-- The issue counts as guarded (R186, R399), and its chunk ends after it (R163). -/
def guarded (x : State) : State := ending (ctrAdd x (ctrKey 1 x.cur.core 6) 1)

/-- A fault of the issuing group at an address takes the host's answer that it has asked for there (R373). -/
def answered (s : State) (addr : Nat) : State :=
  dropAsker (spendFree s) (s.cur.core, s.cur.slot) (fun e => e.page == addr % 2 ^ 57 / 4096)

/-- The state in which a fault of the issuing group is taken: its chunk has ended and committed what came before, and nothing of the
group waits any more (R3, R171, R177). -/
def atFault (s : State) (addr : Nat) : State :=
  modGroup (endChunk (answered s addr) s.cur.core s.cur.slot) s.cur.core s.cur.slot
    (fun g => { g with irr := false, query := [], grpWait := none, inval := none, epi := [] })

/-- The instruction's clk passes. -/
def clkPasses (s x : State) : State := tickGroup x s.cur.core s.cur.slot s.cur.lanes

/-- The device-wide, group and core registers that any group may read, with their values (R169). -/
def openRegs (s : State) : List (Nat × Word) :=
  let g := curGroup s
  let k := coreAt s s.cur.core
  [(0x000, 0x04800001),
   (0x001, BitVec.ofNat 32 (g.pasid + 2 ^ 20 * ((g.grid.bind (gridAt s)).map (·.gnum)).getD 0)),
   (0x002, BitVec.ofNat 32 (s.cur.slot + 2 ^ 6 * Nat.log2 (teamAt s s.cur.core g.team).size + 2 ^ 8 * k.cidx)),
   (0x003, BitVec.ofNat 32 (g.r.rsp + 2 ^ 16 * (g.rsl - 1))),
   (0x004, BitVec.ofNat 32 g.rsbase),
   (0x005, BitVec.ofNat 32 (g.rsbase / 2 ^ 32)),
   (0x006, BitVec.ofNat 32 k.mcklim.toNat)]

/-- The registers that only F-mode reads, with their values (R169, R172, R175, R183). -/
def fmodeRegs (s : State) : List (Nat × Word) :=
  let g := curGroup s
  let k := coreAt s s.cur.core
  let sel := coreAt s g.f.msel.toNat
  [(0x008, g.f.cause), (0x009, g.f.emask),
   (0x00A, g.f.epc.extractLsb' 0 32), (0x00B, g.f.epc.extractLsb' 32 32),
   (0x00C, g.f.addr.extractLsb' 0 32), (0x00D, g.f.addr.extractLsb' 32 32),
   (0x00E, g.f.vec.extractLsb' 0 32), (0x00F, g.f.vec.extractLsb' 32 32),
   (0x010, BitVec.ofNat 32 (g.f.inh.toNat + 2 * g.fmode.toNat + 4 * g.f.scerr.toNat))]
  ++ [(0x011, k.fpend), (0x012, k.fien), (0x018, BitVec.ofNat 32 g.f.msel.toNat),
   (0x019, mctlWord (sel.role == 1) sel.margin), (0x01A, mrepWord sel.margin), (0x01B, mstatWord sel.margin),
   (0x01C, BitVec.ofNat 32 sel.mcklim.toNat), (0x020, g.f.ctxsel),
   (0x021, g.f.scval.extractLsb' 0 32), (0x022, g.f.scval.extractLsb' 32 32), (0x023, 0)]

/-- The privileged instructions (R83), on a prefix, the operands d, a, b and an immediate. -/
def privilegedForms (p : Option Pfx) (d a b : Code) (i : BitVec 14) : List Instr :=
  [.mtsr d i, .eret, .tlbinv a b, .ctxsave a, .ctxrstr a, .wfi, .ipi a, .qmap a b, .qunmap a, .gangres d a, .gangcmt a, .gangabt a,
   .cacheop p d a b]

/-! ### Memory forms (R232 to R259) -/

/-- The address of a global form in lane t: the pair a plus the sign-extended b (R232). -/
def globalAt (s s1 : State) (a b : Code) (t : Nat) : Dword := pairVal s a t + (srcVal s1 b t).signExtend 64

/-- The address of a scratch form in lane t (R233). -/
def scratchAt (s s1 : State) (a b : Code) (t : Nat) : Word := srcVal s a t + srcVal s1 b t

/-- A 128-bit source as lane t reads it (R72). -/
def quadVal (s : State) (c : Code) (t : Nat) : Nat :=
  if c = 120 then 0 else (srcVal s c t).toNat + 2 ^ 32 * (srcVal s (c + 1) t).toNat + 2 ^ 64 * (srcVal s (c + 2) t).toNat
    + 2 ^ 96 * (srcVal s (c + 3) t).toNat

/-- The 32-bit global loads: bytes and extension to 32 bits (R241). -/
def loads32 : List ((Option Pfx → Code → Code → Code → Instr) × Nat × (Nat → Word)) :=
  [(.ldg8i, 1, fun v => (BitVec.ofNat 8 v).signExtend 32), (.ldg8n, 1, fun v => (BitVec.ofNat 8 v).setWidth 32),
   (.ldg16i, 2, fun v => (BitVec.ofNat 16 v).signExtend 32), (.ldg16n, 2, fun v => (BitVec.ofNat 16 v).setWidth 32),
   (.ldg32, 4, fun v => BitVec.ofNat 32 v)]

/-- The 32-bit scratch loads. -/
def scratchLoads32 : List ((Option Pfx → Code → Code → Code → Instr) × Nat × (Nat → Word)) :=
  [(.lds8i, 1, fun v => (BitVec.ofNat 8 v).signExtend 32), (.lds8n, 1, fun v => (BitVec.ofNat 8 v).setWidth 32),
   (.lds16i, 2, fun v => (BitVec.ofNat 16 v).signExtend 32), (.lds16n, 2, fun v => (BitVec.ofNat 16 v).setWidth 32),
   (.lds32, 4, fun v => BitVec.ofNat 32 v)]

/-- The 32-bit stores and their bytes. -/
def stores32 : List ((Option Pfx → Code → Code → Code → Instr) × Nat) := [(.stg8, 1), (.stg16, 2), (.stg32, 4)]
def scratchStores32 : List ((Option Pfx → Code → Code → Code → Instr) × Nat) := [(.sts8, 1), (.sts16, 2), (.sts32, 4)]

/-- The byte that a list of stores, in order, leaves at a place. -/
def latest {α : Type} [DecidableEq α] (kvs : List (α × Byte)) (x : α) : Option Byte := (kvs.reverse.find? (fun e => e.1 == x)).map (·.2)

/-- The bytes that checked stores of `n` bytes put, in ascending lane order (R235). -/
def storedBytes (cs : List Chk) (n : Nat) (v : Nat → Nat) : List (Nat × Byte) :=
  cs.flatMap (fun c => (globsOf c.locs).zip (bytesOf n (v c.lane)))

/-- The atomics of 4 bytes: whether PCI Express carries the form, and its new value from the old one, b and d (R252). -/
def atoms32 : List ((Option Pfx → Code → Code → Code → Instr) × Bool × (Word → Word → Word → Word)) :=
  [(.atomAdd, true, fun o x _ => o + x), (.atomAnd, false, fun o x _ => o &&& x), (.atomOr, false, fun o x _ => o ||| x),
   (.atomXor, false, fun o x _ => o ^^^ x), (.atomMinI, false, fun o x _ => wrap32 (min o.toInt x.toInt)),
   (.atomMinN, false, fun o x _ => BitVec.ofNat 32 (min o.toNat x.toNat)), (.atomMaxI, false, fun o x _ => wrap32 (max o.toInt x.toInt)),
   (.atomMaxN, false, fun o x _ => BitVec.ofNat 32 (max o.toNat x.toNat)), (.atomExch, true, fun _ x _ => x)]

/-- The far reductions of 4 bytes: the operation, and whether PCI Express carries the form (R254). -/
def reds32 : List ((Option Pfx → Code → Code → Code → Instr) × RedOp × Bool) :=
  [(.redAddI, .addI, true), (.redAddF, .addF, false), (.redAnd, .and, false), (.redOr, .or, false), (.redXor, .xor, false),
   (.redMinI, .minI, false), (.redMinN, .minN, false), (.redMaxI, .maxI, false), (.redMaxN, .maxN, false)]

/-- The reductions of checked accesses, deferred to the commit (R254). -/
def redsOf (x : State) (op : RedOp) (sc : Nat) (v : Nat → Dword) (cs : List Chk) : State :=
  cs.foldl (fun y c => deferring y (.red { op := op, pa := chkPa c, v := v c.lane, scope := redScope sc (chkPa c)
                                           core := x.cur.core, slot := x.cur.slot })) x

/-! ### Stash, pins and copies (R246 to R268) -/

/-- The scratch range of a stash-map instruction lies in the core's own partition, in whole lines (R247). -/
def stashRangeOk (s : State) (sa len : Word) (base : Dword) : Bool :=
  let k := coreAt s s.cur.core
  let i := sa.toNat / 2 ^ 28
  decide (sa.toNat % 2 ^ 28 % 128 = 0) && decide (len.toNat % 128 = 0) && decide (base.toNat % 128 = 0) && decide (len ≠ 0)
    && (decide (i = 15) || decide (i = k.cidx)) && decide (sa.toNat % 2 ^ 28 + len.toNat ≤ k.psize * 32768)

/-- The entries that meet a range are changing. -/
def pended (s : State) (sline n : Nat) : State :=
  modCore s s.cur.core (fun k => { k with stash := k.stash.map (fun (e : Nat × StashEnt) =>
    if e.2.valid && decide (e.2.sline < sline + n) && decide (sline < e.2.sline + e.2.nline) then (e.1, { e.2 with pend := true }) else e) })

/-- The entry that SMAP enters, which counts from its chunk's commit. -/
def newStash (l n g : Nat) : StashEnt := { valid := false, sline := l, nline := n, gline := g, pend := true }

/-- The cache operations that act at once (R251). -/
def cacheOps : List (Code × (State → Nat → State)) :=
  [(0, writeBackAll), (1, writeL2), (2, fun s l => dropCopies (writeL2 (writeBackAll s l) l) l),
   (3, fun s l => sendPacket s (sliceAgent (homeSlice l)) (dataStack l) (.hbmRead l []))]

/-- The copies of some descriptors, deferred to the commit. -/
def copiesQueued (x : State) (ds : List (Nat × List Dword)) : State := ds.foldl (fun x e => deferring x (.copy (copyOf x e.1 e.2))) x

/-! ### Tasks and calls (R316 to R324) -/

/-- An inline call by all threads of the unit: it starts after the chunk, and they wait at the instruction. -/
def inlineCalled (x : State) (ca : Dword) (cl : List Dword) (d : Code) (joinH : Option Dword) (deps : List Dword) : State :=
  let all := x.cur.lanes
  let info : CallInfo := { gi := (curGroup x).gi, pc := x.cur.pc, lanes := all, d := d, joinH := joinH }
  ending (withRegs (deferring x (.inlineCall { info := info, ca := ca, cl := cl, deps := 2 ^ deps.dedup.length - 1, tag := 0 } deps))
    (fun r => setPcs (setThr r all .call) (all.map (·, x.cur.pc))))

/-- A closure enters the deque, or with dependencies the pool, or runs inline where these are full (R306, R308, R317). -/
def taskEntered (x : State) (ca : Dword) (cl : List Dword) (d : Code) : State :=
  let k := coreAt x x.cur.core
  let answer := fun (y : State) => putPair y d x.cur.lanes [] (fun _ => clDw cl 1)
  if clDeps cl = [] then
    if spawnRoom k then
      answer (deferring (modCore x x.cur.core (fun k => { k with dqResv := k.dqResv + 1 })) (.push (entryOf ca cl)))
    else inlineCalled x ca cl d none []
  else if k.pool.length + k.poolResv < 2048 then
    answer (deferring (modCore x x.cur.core (fun k => { k with poolResv := k.poolResv + 1 })) (.node (entryOf ca cl) (clDeps cl)))
  else inlineCalled x ca cl d none (clDeps cl)

/-! ### Engine operations and barriers (R280, R408 to R413) -/

/-- An engine operation of the group, released at the commit. -/
def engineQueued (x : State) (kind : Nat) (w : Word) (a b : Dword) (bytes : List Byte) : State :=
  deferring x (.engine { core := x.cur.core, team := (curGroup x).team, gi := (curGroup x).gi, kind := kind, word := w, opA := a, opB := b
                         bytes := bytes, arrived := [], next := 0, order := 0, waitSince := 0, differ := false, phys := [] })

/-- Threads blocked on a barrier at the instruction. -/
def blockedOn (x : State) (i : Nat) (d : Code) : State :=
  let all := x.cur.lanes
  modCur x (fun g => { g with
    r := setPcs (setThr g.r all (.bar i d)) (all.map (·, x.cur.pc)), barSince := some (g.barSince.getD x.clk) })

/-- The chunk ends after the instruction, and with it irrevocable mode. -/
def sealing (x : State) : State := ending (modCur x (fun g => { g with irr := false }))

/-- The arrival that the group sends. -/
def arriving (x : State) (i : Nat) (op : BitVec 2) (v : Nat → Word) : State :=
  deferring x (.arrive (barOf x x.cur.core x.cur.slot i)
    { core := x.cur.core, slot := x.cur.slot, count := (acntOf x x.cur.core x.cur.slot i).toNat, op := op
      part := partialOf op x.cur.lanes v, addr := x.cur.pc })

/-- An arrival at barrier i may be sent: none of the group's is on its way, it has a count, and the gang's is a gang's. -/
def mayArrive (s : State) (i : Nat) : Bool :=
  !arrivalHeld (curGroup s) i && (aget (curGroup s).recs i).isNone && acntOf s s.cur.core s.cur.slot i != 0
    && (i != 17 || (((curGroup s).grid.bind (gridAt s)).map (·.gang)).getD false)

/-- Bytes that lie in no table of `n` descriptors of 64 bytes at an address; a table at 0 is none. -/
def outsideTable (t n pa len : Nat) : Prop := t = 0 ∨ pa < t ∨ t + 64 * n < pa + len

/-! ### Packets (R338 to R343) -/

/-- The steps that a packet in a slot can be. -/
def packetSteps (slot : Nat) : List Instr :=
  [.launch slot, .copyPacket slot, .signal slot, .wait slot, .marker slot, .ctxopCreate slot, .ctxopDestroy slot, .ctxopSlice slot,
   .ctxopPreempt slot, .ctxopResume slot]

/-- Dispatch has begun the packet of a slot, its context lives, and the packet fetched, in the state `f`, is the step `me`. -/
def packetReady (s : State) (slot : Nat) (me : Instr) (x : Start) (f : State) : Prop :=
  (∃ h, aget s.hslots slot = some h ∧ h.consuming = true ∧ h.q = x.q) ∧ fetchPacket s x.q = (.ok x.pk, f)
    ∧ (∃ i c, ctxOf s x.pasid = some (i, c) ∧ c.dying = false) ∧ packetStep slot x.pk = some me
    ∧ x.slot = slot ∧ x.desc = descAt s x.q ∧ x.n = qRptr x.desc ∧ x.pasid = qPasid x.desc
    ∧ x.core = (vintnerOf f (qDie x.desc)).getD (64 * qDie x.desc)

/-- The packet is legal as well. -/
def packetRuns (s : State) (slot : Nat) (me : Instr) (x : Start) (f : State) : Prop :=
  packetReady s slot me x f ∧ packetErr x.desc x.pk = none

/-- The lowest thread's value. -/
def lowVal (s : State) (c : Code) : Word := srcVal s c (s.cur.lanes.headD 0)
/-! ### Encoding and the step -/

/-- The ranges of opcodes that the opcode map assigns (R81 to R85). -/
def opRanges : List (Nat × Nat) :=
  [(0x000, 0x02B), (0x080, 0x08C), (0x100, 0x119), (0x180, 0x18D), (0x200, 0x215), (0x280, 0x28B), (0x300, 0x30B), (0x380, 0x3A0),
   (0x400, 0x40B), (0x410, 0x419), (0x420, 0x427), (0x480, 0x485), (0x500, 0x509), (0x580, 0x58B), (0x600, 0x608), (0x680, 0x68D)]

/-- The opcode of a word is assigned (R66, R81 to R85). -/
def assigned (w : Word) : Bool := opRanges.any (fun r => decide (r.1 ≤ (w >>> 21).toNat) && decide ((w >>> 21).toNat ≤ r.2))

/-- The prefix class of the opcode map (R76): A, M or N. -/
def inClass (i : Instr) (k : PfxClass) : Bool := i.cls == k

/-- The prefix rules that R77 names for a prefix before an instruction: its class takes it, every field that the class requires to be
zero is zero, and msel and rnd hold a code. -/
def prefixKept (w : Word) (i : Instr) : Prop :=
  let c := (w >>> 18).toNat % 128
  let msel := (w >>> 14).toNat % 16
  let zm := (w >>> 13).toNat % 2
  let rnd := (w >>> 10).toNat % 8
  let sat := (w >>> 9).toNat % 2
  msel < 13 ∧ rnd < 5 ∧ inClass i .n = false ∧ (inClass i .m = true → c = 0 ∧ zm = 0 ∧ rnd = 0 ∧ sat = 0)
    ∧ (inClass i .a = true → i.hasC = false → c = 0)

/-- The words from place `k` of the unit on are fetched one by one, and this state follows. -/
def fetches (s : State) (k : Nat) : List Word → Option State
  | [] => some s
  | w :: t =>
    match fetchWord s k with
    | (.ok v, s') => if v = w then fetches s' (k + 1) t else none
    | (.error _, _) => none

end Sys2Proof.Claims

open Sys2Proof Sys2Proof.Machine Sys2Proof.Claims

/-! ### Integer work -/

/-- R107 to R117: every integer form of two sources completes with its table's result, in every operand form that is no port.
R109, R112, R119, R120: the forms of one source and an immediate or none. R121, R122: MOVI writes its sign-extended immediate, MOVL its
literal, and IADDI14 adds to its destination.
R107, R109, R114, R115, R117, R143: the forms with a third source, which is d without a prefix and c with one (R78). R107, R118: the
forms with a pair destination. -/
def Obligations.IntegerRegisterResults : Prop :=
  ((∀ (s : State) (p : Option Pfx) (d a b : Code), issuing s = true → okDst s d = true → okSrc s a = true → okSrc s b = true →
      ∀ e ∈ intTwo (satBit p), exec (e.1 p d a b) s = .next (finish s (did2 s p d a b e.2)))
   ∧ ((∀ (s : State) (p : Option Pfx) (d a : Code), issuing s = true → okDst s d = true → okSrc s a = true →
          (∀ e ∈ intOne (satBit p), exec (e.1 p d a) s = .next (finish s (did1 s p d a e.2)))
          ∧ (∀ i : BitVec 7, ∀ e ∈ intImm7 (satBit p), exec (e.1 p d a i) s = .next (finish s (did1 s p d a (e.2 i))))
          ∧ (∀ i : BitVec 5, ∀ e ∈ intImm5, exec (e.1 p d a i) s = .next (finish s (did1 s p d a (e.2 i)))))
      ∧ (∀ (s : State) (p : Option Pfx) (d : Code), issuing s = true → okDst s d = true →
          (∀ i : BitVec 14, exec (.movi p d i) s
              = .next (finish s (putWord (entered (unitLen p) s) d (execs s p) (zeroed s p) (fun _ => wrap32 i.toInt)))
            ∧ exec (.iaddi14 p d i) s = .next (finish s (did1 s p d d (fun x => clampI (satBit p) (x.toInt + i.toInt)))))
          ∧ (∀ w : Word, exec (.movl p d w) s
              = .next (finish s (putWord (entered (unitLen p + 4) s) d (execs s p) (zeroed s p) (fun _ => w)))))))
  ∧ ((∀ (s : State) (p : Option Pfx) (d a b : Code), issuing s = true → okDst s d = true → okSrc s a = true → okSrc s b = true →
         okSrc s (third p d) = true →
         ∀ e ∈ intThree (satBit p), exec (e.1 p d a b) s = .next (finish s (did3 s p d a b e.2)))
     ∧ (∀ (s : State) (p : Option Pfx) (d a b : Code), issuing s = true → okPair s d = true →
         (okSrc s a = true → okSrc s b = true →
           exec (.imulwI p d a b) s = .next (finish s (did2w s p d a b (fun x y => BitVec.ofInt 64 (x.toInt * y.toInt))))
           ∧ exec (.imulwN p d a b) s = .next (finish s (did2w s p d a b (fun x y => BitVec.ofNat 64 (x.toNat * y.toNat)))))
         ∧ (okPair s a = true → okPair s b = true →
           exec (.iadd64 p d a b) s = .next (finish s (did64 s p d a b (fun x y => clampI64 (satBit p) (x.toInt + y.toInt))))
           ∧ exec (.isub64 p d a b) s = .next (finish s (did64 s p d a b (fun x y => clampI64 (satBit p) (x.toInt - y.toInt)))))))

/-! ### Floating-point work -/

/-- R127 to R135, R137: every float form of one, two and three sources completes with its table's result.
Readings and choices of the model in it: logs 11, 105. -/
def Obligations.FloatResults : Prop :=
  (∀ (s : State) (p : Option Pfx) (d a b : Code), issuing s = true → okDst s d = true → okSrc s a = true → okSrc s b = true →
      ∀ e ∈ floatTwo p, exec (e.1 p d a b) s = .next (finish s (did2 s p d a b e.2)))
  ∧ (∀ (s : State) (p : Option Pfx) (d a b : Code), issuing s = true → okDst s d = true → okSrc s a = true →
      (∀ e ∈ floatOne p, exec (e.1 p d a) s = .next (finish s (did1 s p d a e.2)))
      ∧ (okSrc s b = true → okSrc s (third p d) = true →
          ∀ e ∈ floatThree p, exec (e.1 p d a b) s = .next (finish s (did3 s p d a b e.2))))

/-- R56, R136 to R138: CVT, whose code in b decides which side is a pair; the 8-bit packs, which keep the older half of d; and CVTUN, which
extracts one element of its source and widens it exactly, its selectors from 0x18 on faulting ILLEGAL_OPERAND. -/
def Obligations.ConversionResults : Prop :=
  ∀ (s : State) (p : Option Pfx) (d a b : Code), issuing s = true →
    let s0 := entered (unitLen p) s
    let ex := execs s p
    let zl := zeroed s p
    let s1 := srcStep s0 ex a
    let s2 := srcStep s1 ex b
    (b.toNat ≤ 0x19 → cvtSrcPair b.toNat = true → okDst s d = true → okPair s a = true →
      exec (.cvt p d a b) s
        = .next (finish s (putWord s0 d ex zl (fun t => cvtFromPair b.toNat (satBit p) (rndOf p) (pairVal s0 a t)))))
    ∧ (b.toNat ≤ 0x19 → cvtDstPair b.toNat = true → okPair s d = true → okSrc s a = true →
      exec (.cvt p d a b) s = .next (finish s (putPair s1 d ex zl (fun t => cvtToPair b.toNat (rndOf p) (srcVal s0 a t)))))
    ∧ (b.toNat ≤ 0x19 → cvtSrcPair b.toNat = false → cvtDstPair b.toNat = false → okDst s d = true → okSrc s a = true →
      exec (.cvt p d a b) s = .next (finish s (did1 s p d a (cvtW b.toNat (satBit p) (rndOf p)))))
    ∧ (b.toNat ≤ 0x17 → okDst s d = true → okSrc s a = true →
      exec (.cvtun p d a b) s = .next (finish s (did1 s p d a (cvtunW b.toNat p))))
    ∧ (0x18 ≤ b.toNat → exec (.cvtun p d a b) s = .next (stopped s (.fault { code := 0x02 })))
    ∧ (∀ (x : Word) (i : Nat),
      (i < 2 → cvtunW i p x = f32W p (bf16.val (x.toNat / 2 ^ (16 * i) % 2 ^ 16)) ∧ cvtunW (0x02 + i) p x = f32W p (f16.val (x.toNat / 2 ^ (16 * i) % 2 ^ 16))
        ∧ cvtunW (0x14 + i) p x = (BitVec.ofNat 16 (x.toNat / 2 ^ (16 * i))).signExtend 32
        ∧ cvtunW (0x16 + i) p x = BitVec.ofNat 32 (x.toNat / 2 ^ (16 * i) % 2 ^ 16))
      ∧ (i < 4 → cvtunW (0x04 + i) p x = f32W p (e4m3.val (x.toNat / 2 ^ (8 * i) % 2 ^ 8))
        ∧ cvtunW (0x08 + i) p x = f32W p (e5m2.val (x.toNat / 2 ^ (8 * i) % 2 ^ 8))
        ∧ cvtunW (0x0C + i) p x = (BitVec.ofNat 8 (x.toNat / 2 ^ (8 * i))).signExtend 32
        ∧ cvtunW (0x10 + i) p x = BitVec.ofNat 32 (x.toNat / 2 ^ (8 * i) % 2 ^ 8)))
    ∧ (okDst s d = true → okSrc s a = true → okSrc s b = true → ∀ e ∈ pack8Of p,
      exec (e.1 p d a b) s = .next (finish s (putWord s2 d ex zl (fun t =>
        BitVec.ofNat 32 ((srcVal s2 d t).toNat % 2 ^ 16 * 2 ^ 16 + e.2 (srcVal s1 b t) % 2 ^ 8 * 2 ^ 8 + e.2 (srcVal s0 a t) % 2 ^ 8)))))

/-! ### Other lanes -/

/-- R139, R140: the five forms that read register a of a chosen lane of the thread's own segment, every read before any write. R64, R65,
R141, R142: the votes, reductions and scans over the executing threads.
Readings and choices of the model in it: log 106. -/
def Obligations.CrossLaneResults : Prop :=
  (∀ (s : State) (p : Option Pfx) (d a b : Code), issuing s = true → okDst s d = true → a.toNat ≤ 95 → okSrc s a = true →
      okSrc s b = true →
      let s0 := entered (unitLen p) s
      let ex := execs s p
      ∀ e ∈ crossForms, exec (e.1 p d a b) s
        = .next (finish s (putWord (srcStep s0 ex b) d ex (zeroed s p) (fun t => srcVal s0 a (e.2 ex (srcVal s0 b) t)))))
  ∧ (∀ (s : State) (p : Option Pfx) (d a : Code), issuing s = true → okDst s d = true → okSrc s a = true →
      let s0 := entered (unitLen p) s
      let ex := execs s p
      ∀ e ∈ foldForms p, exec (e.1 p d a) s
        = .next (finish s (putWord (srcStep s0 ex a) d ex (zeroed s p) (fun t => e.2 ex (srcVal s0 a) t))))

/-! ### Registers -/

/-- R70, R71, R100: a write reaches the executing threads, zeroes those that zeroing leaves out, and leaves every other lane and every other
register; a k register takes the lowest executing thread's value.
R70: zr reads as zero in every state and discards what is written to it: MOV to it only moves past, and MOV from it writes zero. -/
def Obligations.RegisterWrites : Prop :=
  (∀ (s : State) (c : Code) (ex zl : List Nat) (f : Nat → Word), issuing s = true → c.toNat ≤ 111 → (∀ t ∈ ex, t < 32) →
     (∀ t ∈ zl, t < 32 ∧ t ∉ ex) →
     (∀ t, t < 32 → srcVal (putWord s c ex zl f) c t =
       if c.toNat ≤ 95 then (if t ∈ ex then f t else if t ∈ zl then 0 else srcVal s c t)
       else match ex with
         | [] => srcVal s c t
         | u :: _ => f u)
     ∧ (∀ c' : Code, c' ≠ c → c'.toNat ≤ 111 → ∀ t, t < 32 → srcVal (putWord s c ex zl f) c' t = srcVal s c' t))
  ∧ (∀ (s : State) (p : Option Pfx) (d a : Code), issuing s = true → okSrc s a = true → okDst s d = true →
       (∀ t, srcVal s 120 t = 0)
       ∧ exec (.mov p 120 a) s = .next (finish s (srcStep (entered (unitLen p) s) (execs s p) a))
       ∧ exec (.mov p d 120) s = .next (finish s (putWord (entered (unitLen p) s) d (execs s p) (zeroed s p) (fun _ => 0))))

/-- R146, R161: where an effect is made the active set stands past the unit, every other thread where it was, and the group's registers are
its own but for RST, which may fall.
R146, R215: completing an instruction whose chunk goes on changes nothing but the counts of its turn. -/
def Obligations.EffectAndCompletion : Prop :=
  (∀ (s : State) (n t : Nat), issuing s = true →
     pcOf (entered n s) t = (if t ∈ s.cur.lanes then s.cur.pc + BitVec.ofNat 57 n else pcOf s t)
     ∧ { (curGroup (entered n s)).r with pc := (curGroup s).r.pc, rst := (curGroup s).r.rst } = (curGroup s).r
     ∧ ((curGroup (entered n s)).r.rst = true → (curGroup s).r.rst = true)
     ∧ (entered n s).mem = s.mem ∧ (∀ c, c ≠ s.cur.core → coreAt (entered n s) c = coreAt s c))
  ∧ ((∀ x : State, goesOn x → onlyTurn x (retire x))
     ∧ (∀ s x : State, (curGroup s).replay = none ∨ ctrGet x (ctrKey 1 s.cur.core 6) = ctrGet s (ctrKey 1 s.cur.core 6) → finish s x = retire x)
     ∧ (∀ s x : State, (curGroup s).replay.isSome = true → ctrGet x (ctrKey 1 s.cur.core 6) ≠ ctrGet s (ctrKey 1 s.cur.core 6) →
         finish s x = cork (takeFault s { code := fcTimingHard }) s.cur.core 2))

/-- The frame of the register forms, one- to three-source, integer and float: where the chunk goes on, no byte of memory, no other group,
core, special register or accumulator changes, and of the group's registers only the destination, the program counters, CYS (where
cy is read) and RST. -/
def Obligations.RegisterFormFrame : Prop :=
  ∀ (s t : State) (p : Option Pfx) (d a b : Code) (i : Instr), issuing s = true → okDst s d = true → okSrc s a = true →
    (∀ u ∈ s.cur.lanes, u < 32) →
    ((okSrc s b = true ∧ i ∈ (intTwo (satBit p) ++ floatTwo p).map (fun e => e.1 p d a b))
      ∨ i ∈ (intOne (satBit p) ++ floatOne p).map (fun e => e.1 p d a)
      ∨ (okSrc s b = true ∧ okSrc s (third p d) = true ∧ i ∈ (intThree (satBit p) ++ floatThree p).map (fun e => e.1 p d a b))) →
    goesOn (entered (unitLen p) s) → exec i s = .next t →
    (∀ x, memByte t x = memByte s x)
    ∧ (∀ x, viewByte t (curGroup t) x = seen (begun s) x)
    ∧ (∀ c, c ≠ s.cur.core → coreAt t c = coreAt s c)
    ∧ { coreAt t s.cur.core with groups := (coreAt s s.cur.core).groups } = coreAt s s.cur.core
    ∧ (∀ h, h ≠ s.cur.slot → (groupAt t s.cur.core h).map (·.r) = (groupAt s s.cur.core h).map (·.r))
    ∧ regsExcept (curGroup s).r (curGroup t).r
        (fun j => decide (d.toNat ≤ 95) && decide (j / 32 = (curGroup s).r.wb + d.toNat)) (fun j => decide (j + 96 = d.toNat))
    ∧ (a ≠ 125 → b ≠ 125 → third p d ≠ 125 → (curGroup t).r.cys = (curGroup s).r.cys)
    ∧ (∀ u, u ∉ s.cur.lanes → pcOf t u = pcOf s u)
    ∧ { t with cores := s.cores, clk := s.clk, moves := s.moves, readWin := s.readWin, wroteWin := s.wroteWin, ctr := s.ctr
               shorted := s.shorted } = s

/-! ### Branches, calls and stops -/

/-- R68, R146, R147: the relative branches take the threads that their condition picks to the target, and the others past the word.
R148: EXIT ends its threads and takes them out of every mask; the last one ends the group's part of its task, and its chunk. -/
def Obligations.BranchesAndExits : Prop :=
  (∀ (s : State), issuing s = true →
     let s0 := entered 4 s
     let all := s.cur.lanes
     (∀ i : BitVec 21, exec (.bra i) s = .next (finish s (goTo s0 all (fun _ => relativeTo s i))))
     ∧ (∀ (d : Code) (i : BitVec 14), okSrc s d = true →
         exec (.bz d i) s = .next (finish s (goTo (srcStep s0 all d) (all.filter (fun t => srcVal s0 d t == 0)) (fun _ => relativeTo s i)))
         ∧ exec (.bnz d i) s
             = .next (finish s (goTo (srcStep s0 all d) (all.filter (fun t => srcVal s0 d t != 0)) (fun _ => relativeTo s i))))
     ∧ (∀ (q dim : BitVec 2) (i : BitVec 14), exec (.beod q dim i) s
         = .next (finish s (goTo s0 (all.filter (fun _ => (curGroup s).r.eod.getLsbD (4 * q.toNat + dim.toNat))) (fun _ => relativeTo s i))))
     ∧ exec .nop s = .next (finish s s0)
     ∧ (∀ a : Code, okPair s a = true → (∀ t ∈ all, (pairVal s0 a t).toNat % 4 = 0 ∧ canonical (pairVal s0 a t) = true) →
         exec (.jmp a) s = .next (finish s (goTo s0 all (fun t => (pairVal s0 a t).setWidth 57)))))
  ∧ (∀ (s : State), issuing s = true → (∀ t ∈ s.cur.lanes, t < 32) →
       ∃ x, exec .exit s = .next (finish s x) ∧ (∀ t ∈ s.cur.lanes, doing x t = .exited)
         ∧ (∀ t ∈ s.cur.lanes, ∀ mk, mk < 12 → (maskReg (curGroup x).r mk).getLsbD t = false)
         ∧ (∀ t, t < 32 → t ∉ s.cur.lanes → doing s t = .exited → doing x t = .exited)
         ∧ ((∀ t, t < 32 → doing x t = .exited) → (curGroup x).open_.ending = true ∧ Effect.groupEnd none ∈ (curGroup x).open_.effects)
         ∧ x.mem = s.mem)

/-- R147, R154 to R156: a call with room on the return stack and in its chunk writes one entry, the address after the call and the mask of
the threads that make it, and goes to its target.
R157: where every executing thread has an entry, RET takes each to the address of its newest one. -/
def Obligations.CallsAndReturns : Prop :=
  (∀ (s : State), issuing s = true → (∀ t ∈ s.cur.lanes, t < 32) →
     let s0 := entered 4 s
     let g := curGroup s
     g.r.rsp < g.rsl → ((curGroup s0).open_.slots = 0 ∨ (curGroup s0).open_.lines.length + 2 ≤ 48) →
     (∀ (i : Instr) (target : Nat → PC),
       ((∃ imm : BitVec 21, i = .call imm ∧ target = fun _ => relativeTo s imm)
         ∨ (∃ a : Code, i = .callr a ∧ okPair s a = true
             ∧ (∀ t ∈ s.cur.lanes, (pairVal s0 a t).toNat % 4 = 0 ∧ canonical (pairVal s0 a t) = true)
             ∧ target = fun t => (pairVal s0 a t).setWidth 57)) →
       ∃ x, exec i s = .next (finish s x) ∧ (curGroup x).r.rsp = g.r.rsp + 1 ∧ (∀ t ∈ s.cur.lanes, pcOf x t = target t)
         ∧ viewStackNat x (curGroup x) (g.rsbase + 128 * g.r.rsp) 8 = (s.cur.pc + 4).toNat
         ∧ viewStackNat x (curGroup x) (g.rsbase + 128 * g.r.rsp + 8) 4 = (maskOf s.cur.lanes).toNat
         ∧ (∀ a, a < g.rsbase + 128 * g.r.rsp ∨ g.rsbase + 128 * (g.r.rsp + 1) ≤ a →
             viewStack x (curGroup x) a = viewStack s0 (curGroup s0) a)
         ∧ (∀ a, seen x a = seen s0 a) ∧ x.mem = s.mem))
  ∧ (∀ (s : State), issuing s = true →
       let s0 := entered 4 s
       let es := callEntries s0 (curGroup s0)
       (∀ t ∈ s.cur.lanes, (entryFor es t).isSome = true) →
       ((curGroup s0).open_.slots = 0 ∨ (curGroup s0).open_.lines.length + 2 * es.length ≤ 48) →
       ∃ x, exec .ret s = .next (finish s x) ∧ (∀ t ∈ s.cur.lanes, some (pcOf x t) = (entryFor es t).map (·.ret))
         ∧ (curGroup x).r.rsp = popEmpty (curGroup s).r.rsp (clearReturns es s.cur.lanes) ∧ x.mem = s.mem)

/-! ### Masks and chunks -/

/-- R150 to R152: the mask instructions read and write m0 to m11 and leave every other mask; a change may release a wait.
R152: a mask releases exactly when some thread waits on it and every member does: the waiters run past their wait, and one MSYNC among
them clears the mask; otherwise nothing changes. -/
def Obligations.MaskInstructionsAndRelease : Prop :=
  (∀ (s : State) (d a : Code), issuing s = true →
     let s0 := entered 4 s
     let all := s.cur.lanes
     (d.toNat < 12 →
       exec (.mjoin d) s = .next (finish s (withRegs s0 (fun r => { r with m := sset 0 r.m d.toNat (maskReg r d.toNat ||| maskOf all) })))
       ∧ exec (.mleave d) s
           = .next (finish s (withRegs s0 (fun r => releaseMasks { r with m := sset 0 r.m d.toNat (maskReg r d.toNat &&& ~~~maskOf all) })))
       ∧ (okSrc s a = true → exec (.mset d a) s = .next (finish s (withRegs (srcStep s0 all a) (fun r =>
           releaseMasks { r with m := sset 0 r.m d.toNat (match all with
             | [] => 0
             | t :: _ => srcVal s0 a t) })))))
     ∧ (a.toNat < 12 → okDst s d = true →
         exec (.mget d a) s = .next (finish s (putWord s0 d all [] (fun _ => maskReg (curGroup s).r a.toNat))))
     ∧ (okDst s d = true → exec (.mact d) s = .next (finish s (putWord s0 d all [] (fun _ => maskOf all))))
     ∧ (d.toNat < 12 → ∀ sync : Bool, exec (if sync then .msync d else .mwait d) s = .next (finish s (withRegs s0 (fun r =>
         let ws := all.filter (fun t => (maskReg r d.toNat).getLsbD t)
         releaseMasks (setPcs (setThr r ws (.mwait d.toNat sync)) (ws.map (·, s.cur.pc))))))))
  ∧ (∀ (r : GRegs) (mk : Nat), mk < 12 →
       let waits := fun t => waitsOn r mk t ≠ none
       (((∀ t, t < 32 → ¬ waits t) ∨ (∃ t, t < 32 ∧ (maskReg r mk).getLsbD t = true ∧ ¬ waits t)) → releaseMask r mk = r)
       ∧ ((∃ t, t < 32 ∧ waits t) → (∀ t, t < 32 → (maskReg r mk).getLsbD t = true → waits t) →
           (∀ t, t < 32 → sget .run (releaseMask r mk).thr t = if waitsOn r mk t = none then sget .run r.thr t else .run)
           ∧ (∀ t, t < 32 → sget 0 (releaseMask r mk).pc t = if waitsOn r mk t = none then sget 0 r.pc t else sget 0 r.pc t + 4)
           ∧ maskReg (releaseMask r mk) mk = if allLanes.any (fun t => waitsOn r mk t == some true) then 0 else maskReg r mk))

/-- R162, R163, R165, R166: CKEND ends the chunk and irrevocable mode; CKIRR enters the mode when the group is quiet and no other group of the core
stands in the way; CKSTAT and WBASE; WGROW that asks for no more than the group has; and WGROW that asks for more, which grows the
allocation or answers 0 (a free choice: log 19). -/
def Obligations.ChunkAndWindowInstructions : Prop :=
  ∀ (s : State) (d a : Code) (i : BitVec 14), issuing s = true →
    let s0 := entered 4 s
    let all := s.cur.lanes
    (∃ x, exec .ckend s = .next (finish s x) ∧ (curGroup x).irr = false ∧ (curGroup x).r = (curGroup s0).r
      ∧ (curGroup x).open_.effects = (curGroup s0).open_.effects
      ∧ ((curGroup s).open_.slots ≠ 0 → (curGroup x).open_.ending = true))
    ∧ (quiet (curGroup s) = true → otherPri s s.cur.core s.cur.slot = false → (curGroup s).haltLeft = none →
        mustStop s s.cur.core (curGroup s) = false →
        ∃ t, exec .ckirr s = .next t ∧ (curGroup t).irr = true ∧ (∀ u ∈ all, pcOf t u = s.cur.pc + 4) ∧ t.mem = s.mem)
    ∧ (okDst s d = true → exec (.ckstat d) s = .next (finish s (putWord s0 d all [] (fun _ => ckstatWord (curGroup s0)))))
    ∧ (i.toNat % 16 = 0 → i.toNat ≤ 240 → exec (.wbase i) s = .next (finish s (withRegs s0 (fun r => { r with wb := i.toNat }))))
    ∧ (okDst s d = true → okSrc s a = true → all ≠ [] →
        let n := (srcVal s0 a (all.headD 0)).toNat
        n % 16 = 0 → 32 ≤ n → n ≤ 256 →
        (n ≤ (curGroup s).a →
          exec (.wgrow d a) s = .next (finish s (putWord (srcStep s0 all a) d all [] (fun _ => BitVec.ofNat 32 (curGroup s).a))))
        ∧ ((curGroup s).a < n → ∃ x, exec (.wgrow d a) s = .next (finish s x) ∧ x.mem = s.mem
            ∧ (((curGroup x).a = n ∧ ∀ t ∈ all, d.toNat ≤ 111 → srcVal x d t = BitVec.ofNat 32 n)
              ∨ ((curGroup x).a = (curGroup s).a ∧ ∀ t ∈ all, d.toNat ≤ 111 → srcVal x d t = 0))))

/-! ### Exceptions -/

/-- R171, R172: taking a trap within an F-mode group saves the faulting threads, the address and the cause, sets INH, takes those threads to
FVEC, and holds the others until ERET; nothing else of the group, no other group and no byte of memory changes.
R171, R173, R180: TRAP, BRK and, in F-mode, SYSCALL trap within an F-mode group, with their codes and immediates. R177, R180: outside
F-mode TRAP and BRK stop the group, recoverably, and the record holds their code, immediate and address. R171: a trap in a trap
handler is a fatal error of the device. -/
def Obligations.TrapEntryAndSoftwareTraps : Prop :=
  (∀ (s : State) (c slot : Nat) (lanes : List Nat) (pc : PC) (code : Nat) (imm : BitVec 14) (under : Bool) (addr : Nat) (g : Group),
     groupAt s c slot = some g → code < 256 → addr < 2 ^ 64 →
     let t := trapEnter s c slot lanes pc code imm under addr
     ∃ h, groupAt t c slot = some h ∧ h.f.emask = maskOf lanes ∧ h.f.epc = pc.signExtend 64
       ∧ h.f.cause.toNat % 2 ^ 8 = code ∧ h.f.cause.toNat / 2 ^ 8 % 2 ^ 14 = imm.toNat ∧ h.f.cause.getLsbD 22 = under
       ∧ h.f.cause.toNat < 2 ^ 23 ∧ h.f.addr.toNat = addr ∧ h.f.inh = true
       ∧ h.f.held = ~~~(maskOf lanes) ∧ { h.f with cause := g.f.cause, emask := g.f.emask, epc := g.f.epc, addr := g.f.addr, inh := g.f.inh
                                                   held := g.f.held } = g.f
       ∧ (∀ u ∈ lanes, sget 0 h.r.pc u = (g.f.vec &&& ~~~3#64).setWidth 57)
       ∧ (∀ u, u ∉ lanes → sget 0 h.r.pc u = sget 0 g.r.pc u)
       ∧ (g.fmode = true → ∀ u, u < 32 → laneReady h u = true → u ∈ lanes)
       ∧ { h with r := { h.r with pc := g.r.pc }, f := g.f, replay := g.replay } = g
       ∧ t.mem = s.mem ∧ (∀ d e, (d, e) ≠ (c, slot) → groupAt t d e = groupAt s d e))
  ∧ ((∀ (s : State) (i : BitVec 14), issuing s = true → (curGroup s).fmode = true → (curGroup s).f.inh = false → s.fw.dumping = none →
         let c := s.cur.core
         let slot := s.cur.slot
         let x := atFault s 0
         sameGroup x c slot (curGroup s) = true →
         ∀ e ∈ [(Instr.trap i, 0x12, i), (.brk, 0x13, 0), (.syscall i, 0x80, i)],
           exec e.1 s = .next (clkPasses s (trapEnter x c slot s.cur.lanes s.cur.pc e.2.1 e.2.2 false 0)))
     ∧ (∀ (s : State) (i : BitVec 14), issuing s = true → (curGroup s).fmode = false →
         let c := s.cur.core
         let slot := s.cur.slot
         let x := atFault s 0
         sameGroup x c slot (curGroup s) = true →
         ∀ e ∈ [(Instr.trap i, 0x12, i), (.brk, 0x13, 0)],
           ∃ fi : FaultInfo, exec e.1 s = .next (clkPasses s (stopGroup x c slot s.cur.pc fi (ckstatWord (curGroup s))))
             ∧ (teamRecord x c slot s.cur.pc fi).code = e.2.1 ∧ (teamRecord x c slot s.cur.pc fi).imm = e.2.2
             ∧ (teamRecord x c slot s.cur.pc fi).pc = s.cur.pc ∧ (teamRecord x c slot s.cur.pc fi).recov = true
             ∧ (teamRecord x c slot s.cur.pc fi).core = c)
     ∧ (∀ (s : State) (i : BitVec 14), issuing s = true → (curGroup s).fmode = true → (curGroup s).f.inh = true →
         exec (.trap i) s = .next (clkPasses s
           (fatalError (endChunk (answered s 0) s.cur.core s.cur.slot) s.cur.core 2))))

/-- R79, R83, R168: outside F-mode every privileged instruction, MTSR, and MFSR of a register that F-mode alone may read, fault PRIVILEGED,
whatever their operands.
R79: a decode fault has no effect but the fault itself: an operand that no instruction may name, and a register beyond the allocation,
fault the unit whichever threads execute. -/
def Obligations.PrivilegeAndOperandFaults : Prop :=
  (∀ (s : State) (p : Option Pfx) (d a b : Code) (i : BitVec 14), issuing s = true → (curGroup s).fmode = false →
     (∀ e ∈ privilegedForms p d a b i, exec e s = .next (stopped s (.fault { code := 0x05 })))
     ∧ ((∃ e ∈ fmodeRegs s, e.1 = i.toNat) → exec (.mfsr d i) s = .next (stopped s (.fault { code := 0x05 }))))
  ∧ (∀ (s : State) (p : Option Pfx) (d a b : Code), issuing s = true →
       ((d.toNat = 118 ∨ d.toNat = 119 ∨ 121 ≤ d.toNat ∨ a.toNat = 118 ∨ a.toNat = 119 ∨ b.toNat = 118 ∨ b.toNat = 119) →
         ∀ e ∈ intTwo (satBit p) ++ floatTwo p, exec (e.1 p d a b) s = .next (stopped s (.fault { code := 0x02 })))
       ∧ (okDst s d = true → okSrc s a = true → b.toNat ≤ 95 → (curGroup s).a ≤ (curGroup s).r.wb + b.toNat →
         ∀ e ∈ intTwo (satBit p) ++ floatTwo p, exec (e.1 p d a b) s = .next (stopped s (.fault { code := 0x04 }))))

/-- R171, R173: ERET takes each thread of FEMASK to FEPC, past the instruction where the trap was TRAP's, BRK's or SYSCALL's, clears INH and
lets the threads that the trap holds go on; its other threads go on past it.
Readings and choices of the model in it: log 103. -/
def Obligations.ReturnFromTrap : Prop :=
  ∀ (s : State), issuing s = true → (curGroup s).fmode = true → (curGroup s).f.inh = true →
    let f := (curGroup s).f
    let past : Bool := decide (f.cause.toNat % 256 ∈ [0x12, 0x13, 0x80])
    ∃ x, exec .eret s = .next (finish s x) ∧ (curGroup x).f = { f with inh := false, held := 0 }
      ∧ (∀ t, t < 32 → f.emask.getLsbD t = true → pcOf x t = f.epc.setWidth 57 + (if past then 4 else 0))
      ∧ (∀ t ∈ s.cur.lanes, t < 32 → f.emask.getLsbD t = false → pcOf x t = s.cur.pc + 4)
      ∧ (∀ t, t < 32 → t ∉ s.cur.lanes → f.emask.getLsbD t = false → pcOf x t = pcOf s t)
      ∧ (∀ a, seen x a = seen (begun s) a) ∧ x.mem = s.mem

/-! ### System instructions -/

/-- R168, R169: MFSR writes the value that the table gives the register to every executing thread: any group reads the open ones, F-mode
reads all; a number of no register faults ILLEGAL_OPERAND.
R168, R169, R172, R175: MTSR in F-mode writes at its issue, guarded, and this is what each register takes: 32 bits where it is read-write,
its own bits where it has fewer, cleared bits where a write of one clears but for a source that fires in the same clk, the own core where MSEL is
written with no core's number, nothing where it is read-only. -/
def Obligations.SystemRegisters : Prop :=
  (∀ (s : State) (d : Code) (i : BitVec 14), issuing s = true → okDst s d = true →
     let s0 := entered 4 s
     (∀ e ∈ openRegs s0, e.1 = i.toNat → exec (.mfsr d i) s = .next (finish s (putWord s0 d s.cur.lanes [] (fun _ => e.2))))
     ∧ ((curGroup s).fmode = true →
         ∀ e ∈ fmodeRegs s0, e.1 = i.toNat → exec (.mfsr d i) s = .next (finish s (putWord s0 d s.cur.lanes [] (fun _ => e.2))))
     ∧ ((∀ e ∈ openRegs s0 ++ fmodeRegs s0, e.1 ≠ i.toNat) → exec (.mfsr d i) s = .next (stopped s (.fault { code := 0x02 }))))
  ∧ (∀ (s : State) (d : Code) (i : BitVec 14), issuing s = true → (curGroup s).fmode = true → okSrc s d = true → s.cur.lanes ≠ [] →
       let s1 := srcStep (entered 4 s) s.cur.lanes d
       let v := srcVal (entered 4 s) d (s.cur.lanes.headD 0)
       let c := s.cur.core
       let n := i.toNat
       (∃ e ∈ openRegs s1 ++ fmodeRegs s1, e.1 = n) →
       let t := srWrite s1 n v
       exec (.mtsr d i) s = .next (finish s (guarded t))
       ∧ (n ∈ [0x00A, 0x00B, 0x00E, 0x00F, 0x021, 0x022] → srRead t (curGroup t) n = some v)
       ∧ (n = 0x011 → (coreAt t c).fpend = (coreAt s c).fpend &&& ~~~(v &&& ~~~(freshPend (coreAt s c) s.clk)))
       ∧ (n = 0x012 → (coreAt t c).fien = v &&& 0x3FF)
       ∧ (n = 0x010 → (curGroup t).f.inh = v.getLsbD 0 ∧ (curGroup t).f.scerr = ((curGroup s).f.scerr && !v.getLsbD 2))
       ∧ (n = 0x018 → (curGroup t).f.msel = if v.toNat < 256 then v.setWidth 8 else BitVec.ofNat 8 c)
       ∧ (n = 0x01C → ((coreAt t (curGroup s).f.msel.toNat).mcklim.toNat = if v.toNat % 16 = 0 then 1 else v.toNat % 16))
       ∧ (n = 0x020 → (curGroup t).f.ctxsel.toNat = v.toNat % 2 ^ 14)
       ∧ (n ∈ [0x000, 0x001, 0x002, 0x003, 0x004, 0x005, 0x006, 0x008, 0x009, 0x00C, 0x00D] → t = s1))

/-- R173 to R175: SYSCALL of a compute group ends the chunk, holds its threads and posts its record at the commit; WFI goes on at once when an
enabled source is pending; IPI sets the sender's bit at a vintner core. -/
def Obligations.SystemCallsAndInterrupts : Prop :=
  ∀ (s : State) (i : BitVec 14) (a : Code), issuing s = true →
    let s0 := entered 4 s
    let all := s.cur.lanes
    ((curGroup s).fmode = false →
      ∃ x, exec (.syscall i) s = .next (finish s x) ∧ (curGroup x).open_.ending = true ∧ (∀ t ∈ all, doing x t = .sysc ∧ pcOf x t = s.cur.pc)
        ∧ (curGroup x).open_.effects = (curGroup s0).open_.effects
            ++ [.sysc i s.cur.pc ((List.range 4).map (fun j => sget 0 (curGroup s).r.k (4 + j))) all])
    ∧ ((curGroup s).fmode = true → (coreAt s s.cur.core).fpend &&& (coreAt s s.cur.core).fien ≠ 0 →
        exec .wfi s = .next (finish s (ending s0)))
    ∧ ((curGroup s).fmode = true → (coreAt s s.cur.core).fpend &&& (coreAt s s.cur.core).fien = 0 → (curGroup s).open_.slots = 0 →
        (curGroup s).done = [] → exec .wfi s = .next (stopped s .stall))
    ∧ ((curGroup s).fmode = true → okSrc s a = true → all ≠ [] →
        let n := (srcVal s0 a (all.headD 0)).toNat
        n < 256 → (coreAt s n).role = 1 →
        ∃ x, exec (.ipi a) s = .next (finish s (guarded x))
          ∧ (coreAt x n).fpend = (coreAt s n).fpend ||| BitVec.ofNat 32 (2 ^ dieOf s.cur.core))

/-- R176: CTXSAVE of a stopped, quiet group writes the group's record at the address, marks the group saved, and ends its chunk; where every group
of a stopped context on a die is saved so, the context leaves its cores there (the model's reading: log 39). CTXRSTR loads a record of kind 2
into a free slot of a bound core that has the tiles and pieces free which its team brings (log 48).
Readings and choices of the model in it: logs 38, 39, 48. -/
def Obligations.GroupRecords : Prop :=
  ∀ (s s1 : State) (a : Code) (pas : List Nat), issuing s = true → (curGroup s).fmode = true → okPair s a = true → s.cur.lanes ≠ [] →
    let s0 := entered 4 s
    let va := pairVal s0 a (s.cur.lanes.headD 0)
    let c := (curGroup s).f.ctxsel.toNat % 256
    let slot := (curGroup s).f.ctxsel.toNat / 256 % 64
    va.toNat % 128 = 0 → (curGroup s).open_.slots = 0 → (curGroup s).done = [] →
    (∀ t, groupAt s0 c slot = some t → t.stop.isSome = true → quiet t = true →
      lineAddrs true (s.cur.lanes.headD 0) va (t.a + 5) s0 = .ok (pas, s1) →
      let kvs := pas.zip (groupRecord t)
      heldByGrant s1 (sigOf (linesOf kvs)) = false → heldByLive s1 (sigOf (linesOf kvs)) (some (s1.cur.core, s1.cur.slot)) = false →
      exec (.ctxsave a) s = .next (finish s (guarded (ending (switchOut
        (modGroup (performWrite s1 (some (s1.cur.core, s1.cur.slot)) kvs) c slot (fun g => { g with saved := true })) t.pasid)))))
    ∧ (∀ head hd s2 gn x, lineAddrs false (s.cur.lanes.headD 0) va 1 s0 = .ok (head, s1) →
      hd = natOfBytes (head.map (memByte s1)) → hd / 2 ^ 60 % 4 = 2 →
      let n := hd / 2 ^ 128 % 2 ^ 32
      n % 16 = 0 → 32 ≤ n → n ≤ 256 →
      (coreAt s1 c).grid = some gn → gridAt s1 gn = some x → groupAt s1 c slot = none → regsUsed (coreAt s1 c) + n ≤ 4096 →
      let need := teamNeeds s1 x c slot (bytesField hd 91 84)
      need.1 ≤ (freeTiles (coreAt s1 c)).length → (coreAt s1 c).pieces.length + need.2 ≤ 64 →
      lineAddrs false (s.cur.lanes.headD 0) va (n + 5) s1 = .ok (pas, s2) →
      exec (.ctxrstr a) s = .next (finish s (guarded (ending (restoreGroup s2
        (fun o m => natOfBytes ((List.range m).map (fun i => (pas.map (memByte s2)).toArray.getD (o + i) 0))) c slot gn x)))))

/-- R375, R376, R349 to R352: TLBINV, once what it waits for is over; QMAP of an unmapped, enabled queue of its die onto a free slot of its
die; QUNMAP at a packet boundary; the gang instructions on their reservation; and GANGRES of a LAUNCH image whose roots can be read,
which answers STATUS 2 with the LAUNCH's own status where that is not 0, else what the reservation gives.
Readings and choices of the model in it: logs 22, 24, 40. -/
def Obligations.FirmwareInstructions : Prop :=
  (∀ (s : State) (a b : Code), issuing s = true → (curGroup s).fmode = true → s.cur.lanes ≠ [] →
      let s0 := entered 4 s
      let all := s.cur.lanes
      let t0 := all.headD 0
      let die := dieOf s.cur.core
      (okPair s a = true → okSrc s b = true →
        let va := pairVal s0 a t0
        let c := (srcVal s0 b t0).toNat
        let i : Inval := { kind := c / 2 ^ 20, pasid := c % 2 ^ 20, va := va.toNat % 2 ^ 57 }
        let s1 := srcStep s0 all b
        c / 2 ^ 20 < 3 → (c / 2 ^ 20 = 0 → canonical va = true) → (curGroup s).open_.slots = 0 → (curGroup s).done = [] →
        ((curGroup s).inval = none → exec (.tlbinv a b) s = .next (stopped s (.inval i.kind i.pasid i.va)))
        ∧ (∀ w, (curGroup s).inval = some w → invOver s1 w = true →
            exec (.tlbinv a b) s = .next (finish s (guarded (ending (modCur s1 (fun g => { g with inval := none })))))))
      ∧ (okSrc s a = true → okSrc s b = true →
        let s1 := srcStep (srcStep s0 all a) all b
        let slot := (srcVal s0 a t0).toNat
        let q := (srcVal (srcStep s0 all a) b t0).toNat
        slot / 256 = die → aget s1.hslots slot = none → q ≤ 16383 → qEn (descAt s1 q) = true → qDie (descAt s1 q) = die → slotOf s1 q = none →
        exec (.qmap a b) s = .next (finish s (guarded (ending (mapQueue s1 slot q)))))
      ∧ (okSrc s a = true →
        let s1 := srcStep s0 all a
        let slot := (srcVal s0 a t0).toNat
        slot < 1024 →
        (aget s1.hslots slot = none → exec (.qunmap a) s = .next (finish s (guarded (ending s1))))
        ∧ (∀ h, aget s1.hslots slot = some h → h.consuming = false →
            ∃ x, exec (.qunmap a) s = .next (finish s (guarded (ending x))) ∧ aget x.hslots slot = none ∧ (∀ p ∈ x.pkts, ¬ (p.q = h.q ∧ p.deadline.isSome = true))))
      ∧ (okSrc s a = true → ∀ i gn, gangOf (srcStep s0 all a) (srcVal s0 a t0) = some (i, gn) →
        let s1 := srcStep s0 all a
        exec (.gangcmt a) s = .next (finish s (guarded (ending (commitGrid (dropReservation s1 i) gn))))
        ∧ exec (.gangabt a) s = .next (finish s (guarded (ending (abortReservation s1 i gn))))))
  ∧ (∀ (s s1 s3 : State) (d a : Code) (img : Nat) (rs : List (List Dword)), issuing s = true → (curGroup s).fmode = true → s.cur.lanes ≠ [] →
      okDst s d = true → okPair s a = true →
      let s0 := entered 4 s
      let t0 := s.cur.lanes.headD 0
      let va := pairVal s0 a t0
      va.toNat % 64 = 0 → loadOne 64 t0 va false s0 = .ok (img, s1) → img % 256 = 1 →
      let s2 := (imageContext s1 img).2
      let g := gridOfImage img (imageContext s1 img).1.1 none
      rootLines s2.cur.core g .group (if badLaunch img g then 0 else g.nroot) s2 = (.ok rs, s3) →
      let st := launchStatus s3 img g rs
      exec (.gangres d a) s = .next (finish s (guarded (ending
        (if st ≠ 0 then putWord s3 d s.cur.lanes [] (fun _ => gangWord { status := 2, lstat := st })
         else putWord (reserve s3 (withRoots g rs)).2 d s.cur.lanes [] (fun _ => gangWord (reserve s3 (withRoots g rs)).1))))))

/-! ### Memory -/

/-- R232, R235, R241, R242: a global load whose checks pass writes each executing thread the bytes at its address, extended to its
destination. R235, R244: a global store whose checks pass leaves what its performing pass leaves.
R217, R235, R241: what a load of ordinary memory gives: each thread the little-endian value of its bytes as the group sees them, its own
uncommitted stores before committed memory.
Readings and choices of the model in it: logs 25, 34. -/
def Obligations.GlobalAccessesAndValues : Prop :=
  ((∀ (s s2 : State) (p : Option Pfx) (d a b : Code) (v : Nat → Nat), issuing s = true → okPair s a = true → okSrc s b = true →
       let s0 := entered (unitLen p) s
       let ex := execs s p
       let zl := zeroed s p
       let s1 := srcStep s0 ex b
       let ea := globalAt s0 s0 a b
       (okDst s d = true → ∀ e ∈ loads32, loadGlobal e.2.1 ex ea s1 = .ok (v, s2) →
         exec (e.1 p d a b) s = .next (finish s (putWord s2 d ex zl (fun t => e.2.2 (v t)))))
       ∧ (okPair s d = true → loadGlobal 8 ex ea s1 = .ok (v, s2) →
         exec (.ldg64 p d a b) s = .next (finish s (putPair s2 d ex zl (fun t => BitVec.ofNat 64 (v t)))))
       ∧ (okQuad s d = true → loadGlobal 16 ex ea s1 = .ok (v, s2) →
         exec (.ldg128 p d a b) s = .next (finish s (putQuad s2 d ex zl v)))
       ∧ (okDst s d = true → (ex = [] → exec (.ldk p d a b) s = .next (finish s (putWord s1 d [] zl (fun _ => 0))))
           ∧ (∀ t n, ex.head? = some t → loadOne 4 t (ea t) true s1 = .ok (n, s2) →
               exec (.ldk p d a b) s = .next (finish s (putWord s2 d ex zl (fun _ => BitVec.ofNat 32 n))))))
   ∧ (∀ (s s3 : State) (p : Option Pfx) (d a b : Code), issuing s = true → okPair s a = true → okSrc s b = true →
       let s0 := entered (unitLen p) s
       let ex := execs s p
       let s1 := srcStep s0 ex b
       let ea := globalAt s0 s0 a b
       (okSrc s d = true → ∀ e ∈ stores32, storeGlobal e.2 ex ea (fun t => (srcVal s1 d t).toNat) (srcStep s1 ex d) = .ok ((), s3) →
         exec (e.1 p d a b) s = .next (finish s s3))
       ∧ (okPair s d = true → storeGlobal 8 ex ea (fun t => (pairVal s1 d t).toNat) s1 = .ok ((), s3) →
         exec (.stg64 p d a b) s = .next (finish s s3))
       ∧ (okQuad s d = true → storeGlobal 16 ex ea (quadVal s1 d) s1 = .ok ((), s3) →
         exec (.stg128 p d a b) s = .next (finish s s3))))
  ∧ (∀ (n : Nat) (ex : List Nat) (ea : Nat → Dword) (s s1 t : State) (v : Nat → Nat) (cs : List Chk),
       checkGlobal { n := n, mmioOk := n == 4 || n == 8 } ex ea s = .ok (cs, s1) → (∀ c ∈ cs, c.mmio = false) → ex.Nodup →
       loadGlobal n ex ea s = .ok (v, t) →
       cs.map (·.lane) = ex ∧ (∀ c ∈ cs, v c.lane = seenNat t (globsOf c.locs)) ∧ (∀ a, seen t a = seen s1 a) ∧ t.mem = s1.mem)

/-- The frame of the global stores: as the group sees memory, every byte that no executing thread stores reads as before, and each that some
do is the highest lane's; committed memory, the registers but program counters, CYS and RST, and every other core stay. -/
def Obligations.GlobalStoreFrame : Prop :=
  ∀ (s t s2 s3 : State) (p : Option Pfx) (d a b : Code) (cs : List Chk), issuing s = true → okPair s a = true → okSrc s b = true →
    okSrc s d = true →
    let s0 := entered (unitLen p) s
    let ex := execs s p
    let s1 := srcStep s0 ex b
    let ea := globalAt s0 s0 a b
    ∀ e ∈ stores32,
      checkGlobal { n := e.2, wr := true, mmioOk := e.2 == 4 || e.2 == 8 } ex ea (srcStep s1 ex d) = .ok (cs, s2) →
      (∀ c ∈ cs, c.mmio = false) →
      storeGlobal e.2 ex ea (fun t => (srcVal s1 d t).toNat) (srcStep s1 ex d) = .ok ((), s3) → goesOn s3 →
      exec (e.1 p d a b) s = .next t →
      (∀ x, viewByte t (curGroup t) x = (latest (storedBytes cs e.2 (fun t => (srcVal s1 d t).toNat)) x).getD (seen s0 x))
      ∧ (∀ x, memByte t x = memByte s x)
      ∧ regsExcept (curGroup s).r (curGroup t).r (fun _ => false) (fun _ => false)
      ∧ (∀ c, c ≠ s.cur.core → coreAt t c = coreAt s c)
      ∧ (∀ h, h ≠ s.cur.slot → (groupAt t s.cur.core h).map (·.r) = (groupAt s s.cur.core h).map (·.r))
      ∧ (coreAt t s.cur.core).fpend = (coreAt s s.cur.core).fpend ∧ (coreAt t s.cur.core).tiles = (coreAt s s.cur.core).tiles

/-- R234: an access that needs alignment and has none, and an address that is not canonical, fault the first failing thread before anything
is performed.
R190, R232, R235, R452: a load that completes on concrete conditions: LDG.32 of an F-mode group of PASID 0, at aligned addresses of the firmware
region whose lines need no reconstruction, wait for no packet (R202) and meet no priority or irrevocable chunk (log 95), reads the bytes that the group sees there.
Readings and choices of the model in it: log 43. -/
def Obligations.FirmwareAccessesAndAddressFaults : Prop :=
  (∀ (s : State) (f : Form) (t : Nat) (va : Dword),
     (f.aligned = true → va.toNat % f.n ≠ 0 →
       checkAccess f t va s = .error (.fault { code := 0x06, wr := f.wr, lane := t, addr := va.toNat }))
     ∧ (f.aligned = false → 0 < f.n → f.n ≤ 4096 - va.toNat % 4096 → canonical va = false →
       checkAccess f t va s = .error (.fault { code := 0x07, wr := f.wr, lane := t, addr := va.toNat })))
  ∧ (∀ (s : State) (p : Option Pfx) (d a b : Code), issuing s = true → (curGroup s).fmode = true → (curGroup s).pasid = 0 →
       okDst s d = true → okPair s a = true → okSrc s b = true → (execs s p).Nodup →
       let s0 := entered (unitLen p) s
       let ea := globalAt s0 s0 a b
       (∀ t ∈ execs s p, t < 32 ∧ 0x00EFF0000000 ≤ (ea t).toNat ∧ (ea t).toNat < 0x00F000000000 ∧ (ea t).toNat % 4 = 0
         ∧ needsRebuild s0 ((ea t).toNat / 128) = false ∧ isPoisoned s0 ((ea t).toNat / 128) = false
         ∧ heldRead s0 (s.cur.core, s.cur.slot) ((ea t).toNat / 128) = false ∧ readWaits s0 ((ea t).toNat / 128) = false
         ∧ gateLive s0 false [(ea t).toNat / 128] = none) →
       (curGroup s0).open_.effects = [] → (curGroup s).done = [] → (curGroup s).open_.slots = 0 → (coreAt s s.cur.core).fills.length < 2048 →
       ∃ x, exec (.ldg32 p d a b) s = .next (finish s x)
         ∧ (d.toNat ≤ 95 → ∀ t ∈ execs s p,
             srcVal x d t = BitVec.ofNat 32 (seenNat s0 ((List.range 4).map ((ea t).toNat + ·))))
         ∧ (∀ c, seen x c = seen s0 c) ∧ x.mem = s.mem)

/-- R191, R226, R228, R233: scratch: a load or store whose checks pass completes; and on concrete conditions, in the core's own partition with
no stash mapping, LDS.32 reads the bytes that the group sees, those that a copy has landed for a thread that has waited for it among them,
and a byte past the partition faults SCRATCH_RANGE.
Readings and choices of the model in it: log 97. -/
def Obligations.ScratchAccesses : Prop :=
  ∀ (s s3 : State) (p : Option Pfx) (d a b : Code) (v : Nat → Nat), issuing s = true → okSrc s a = true → okSrc s b = true →
    let s0 := entered (unitLen p) s
    let ex := execs s p
    let zl := zeroed s p
    let sa := srcStep s0 ex a
    let s1 := srcStep sa ex b
    let ea := scratchAt s0 sa a b
    (okDst s d = true → ∀ e ∈ scratchLoads32, loadScratch e.2.1 ex ea s1 = .ok (v, s3) →
      exec (e.1 p d a b) s = .next (finish s (putWord s3 d ex zl (fun t => e.2.2 (v t)))))
    ∧ (okPair s d = true → loadScratch 8 ex ea s1 = .ok (v, s3) →
      exec (.lds64 p d a b) s = .next (finish s (putPair s3 d ex zl (fun t => BitVec.ofNat 64 (v t)))))
    ∧ (okQuad s d = true → loadScratch 16 ex ea s1 = .ok (v, s3) → exec (.lds128 p d a b) s = .next (finish s (putQuad s3 d ex zl v)))
    ∧ (okSrc s d = true → ∀ e ∈ scratchStores32,
      storeScratch e.2 ex ea (fun t => (srcVal s1 d t).toNat) (srcStep s1 ex d) = .ok ((), s3) →
      exec (e.1 p d a b) s = .next (finish s s3))
    ∧ (okPair s d = true → storeScratch 8 ex ea (fun t => (pairVal s1 d t).toNat) s1 = .ok ((), s3) →
      exec (.sts64 p d a b) s = .next (finish s s3))
    ∧ (okQuad s d = true → storeScratch 16 ex ea (quadVal s1 d) s1 = .ok ((), s3) → exec (.sts128 p d a b) s = .next (finish s s3))
    ∧ (okDst s d = true → (curGroup s).open_.slots = 0 → (curGroup s).done = [] → (coreAt s s.cur.core).stash = [] → ex.Nodup →
      (∀ t ∈ ex, t < 32 ∧ (ea t).toNat / 2 ^ 28 = 15 ∧ (ea t).toNat % 2 ^ 28 + 4 ≤ (coreAt s s.cur.core).psize * 32768
        ∧ ∀ i < 4, ∀ f older, aget (coreAt s s.cur.core).fresh ((ea t).toNat % 2 ^ 28 + i) = some (f :: older) →
            f.base = baseUid s s.cur.core (curGroup s) ∧ f.lane = t ∧ f.seen = true) →
      ∃ x, exec (.lds32 p d a b) s = .next (finish s x) ∧ (d.toNat ≤ 95 → ∀ t ∈ ex, srcVal x d t
        = BitVec.ofNat 32 (natOfBytes ((List.range 4).map (fun i =>
            viewScratch s0 (curGroup s0) s.cur.core ((ea t).toNat % 2 ^ 28 + i))))))
    ∧ (∀ t rest, ex = t :: rest → okDst s d = true → (ea t).toNat / 2 ^ 28 = 15 →
      (coreAt s s.cur.core).psize * 32768 ≤ (ea t).toNat % 2 ^ 28 →
      exec (.lds32 p d a b) s = .next (stopped s (.fault { code := 0x09, lane := t, addr := (ea t).toNat })))

/-- R252, R253: an atomic whose checks pass gives each thread the old value, in ascending lane order; and what one of a single thread on
package memory does: the thread receives the value that the group saw, the bytes take the new value, and every other byte stays.
R254, R255: RED defers one reduction for each executing thread to its chunk's commit, at the scope d or, beyond the package, a wider one. -/
def Obligations.AtomicsAndFarReductions : Prop :=
  ((∀ (s s3 : State) (p : Option Pfx) (d a b : Code) (old : Nat → Nat), issuing s = true → okPair s a = true →
       let s0 := entered (unitLen p) s
       let ex := execs s p
       let zl := zeroed s p
       let s1 := srcStep s0 ex b
       let ea := pairVal s0 a
       (okDst s d = true → okSrc s b = true → ∀ e ∈ atoms32,
         atomPerform 4 e.2.1 ex ea (fun o x y => (e.2.2 (BitVec.ofNat 32 o) (BitVec.ofNat 32 x) (BitVec.ofNat 32 y)).toNat)
           (fun t => (srcVal s0 b t).toNat) (fun _ => 0) s1 = .ok (old, s3) →
         exec (e.1 p d a b) s = .next (finish s (putWord s3 d ex zl (fun t => BitVec.ofNat 32 (old t)))))
       ∧ (okDst s d = true → okSrc s b = true →
         atomPerform 4 true ex ea (fun o x y => (if BitVec.ofNat 32 o = BitVec.ofNat 32 y then BitVec.ofNat 32 x else BitVec.ofNat 32 o).toNat)
           (fun t => (srcVal s0 b t).toNat) (fun t => (srcVal s1 d t).toNat) s1 = .ok (old, s3) →
         exec (.atomCas p d a b) s = .next (finish s (putWord s3 d ex zl (fun t => BitVec.ofNat 32 (old t)))))
       ∧ (okPair s d = true → okPair s b = true →
         (atomPerform 8 true ex ea (fun o x _ => (BitVec.ofNat 64 o + BitVec.ofNat 64 x).toNat) (fun t => (pairVal s0 b t).toNat)
             (fun t => (pairVal s0 d t).toNat) s0 = .ok (old, s3) →
           exec (.atom64Add p d a b) s = .next (finish s (putPair s3 d ex zl (fun t => BitVec.ofNat 64 (old t)))))
         ∧ (atomPerform 8 true ex ea
               (fun o x y => (if BitVec.ofNat 64 o = BitVec.ofNat 64 y then BitVec.ofNat 64 x else BitVec.ofNat 64 o).toNat)
               (fun t => (pairVal s0 b t).toNat) (fun t => (pairVal s0 d t).toNat) s0 = .ok (old, s3) →
           exec (.atom64Cas p d a b) s = .next (finish s (putPair s3 d ex zl (fun t => BitVec.ofNat 64 (old t)))))))
   ∧ (∀ (n : Nat) (pcie : Bool) (t : Nat) (ea : Nat → Dword) (new : Nat → Nat → Nat → Nat) (b cmp old : Nat → Nat) (s s1 x : State) (c : Chk),
       issuing s = true →
       checkGlobal { n := n, wr := true, aligned := true, atomic := true, pcieOk := pcie } [t] ea s = .ok ([c], s1) →
       (globsOf c.locs).length = n → (globsOf c.locs).Nodup → (∀ a ∈ globsOf c.locs, beyond a = false) →
       atomPerform n pcie [t] ea new b cmp s = .ok (old, x) →
       old t = seenNat s1 (globsOf c.locs) ∧ seenNat x (globsOf c.locs) = new (old t) (b t) (cmp t) % 2 ^ (8 * n)
       ∧ (∀ a, a ∉ globsOf c.locs → seen x a = seen s1 a) ∧ x.mem = s1.mem))
  ∧ (∀ (s s2 : State) (p : Option Pfx) (d a b : Code) (cs : List Chk), issuing s = true → okPair s a = true → d.toNat ≤ 9 →
       let s0 := entered (unitLen p) s
       let ex := execs s p
       let s1 := srcStep s0 ex b
       let free := fun (x : State) => guardChange (cs.flatMap (·.vlines)).dedup x = .ok ((), x)
       (okSrc s b = true → ∀ e ∈ reds32,
         checkGlobal { n := 4, wr := true, aligned := true, pcieOk := e.2.2 } ex (pairVal s0 a) s1 = .ok (cs, s2) → free s2 →
         (∀ c ∈ cs, c.lane ∈ ex) →
         exec (e.1 p d a b) s = .next (finish s (redsOf s2 e.2.1 d.toNat (fun t => (srcVal s0 b t).setWidth 64) cs)))
       ∧ (okPair s b = true →
         checkGlobal { n := 8, wr := true, aligned := true, pcieOk := true } ex (pairVal s0 a) s0 = .ok (cs, s2) → free s2 →
         exec (.redAddI64 p d a b) s = .next (finish s (redsOf s2 .addI64 d.toNat (pairVal s0 b) cs))))

/-- R215, R230, R231, R257 to R259: releasing stores, acquiring loads, FENCE and WAITADDR: at scopes 7 to 9 the chunk ends after the
instruction, and STREL to package memory waits until the group's earlier reductions, and the device's earlier stores beyond the package, are
acknowledged; FENCE then holds the group; WAITADDR puts its threads to sleep and arms its watch at the commit.
Readings and choices of the model in it: log 36. -/
def Obligations.OrderingInstructions : Prop :=
  ∀ (s s2 s3 : State) (p : Option Pfx) (d a b : Code) (cs : List Chk) (v : Nat → Nat), issuing s = true → okPair s a = true →
    let s0 := entered (unitLen p) s
    let ex := execs s p
    let zl := zeroed s p
    let close := fun (sc : Code) (x : State) => if 7 ≤ sc.toNat then ending x else x
    let out := (cs.flatMap (fun c => globsOf c.locs)).all beyond = true
    let left := fun (x : State) => (curGroup x).done.any leavesLater = false ∧ extQuiet x s.cur.core s.cur.slot = true ∧ x.extPend = []
    (d.toNat ≤ 9 → okSrc s b = true →
      checkGlobal { n := 4, wr := true, aligned := true } ex (pairVal s0 a) (srcStep s0 ex b) = .ok (cs, s2) → (∀ c ∈ cs, c.lane ∈ ex) →
      (d.toNat < 7 ∨ out ∨ (leavesLater (curGroup s2).open_ = false ∧ left s2) →
        performWrites cs 4 (fun t => (srcVal s0 b t).toNat) (decide (7 ≤ d.toNat)) s2 = .ok ((), s3) →
        exec (.strel32 p d a b) s = .next (finish s (close d s3)))
      ∧ (7 ≤ d.toNat → ¬ out → leavesLater (curGroup s2).open_ = false → ¬ left s2 → exec (.strel32 p d a b) s = .next (stopped s .stall)))
    ∧ (d.toNat ≤ 9 → okPair s b = true →
      checkGlobal { n := 8, wr := true, aligned := true } ex (pairVal s0 a) s0 = .ok (cs, s2) →
      (d.toNat < 7 ∨ out ∨ (leavesLater (curGroup s2).open_ = false ∧ left s2) →
        performWrites cs 8 (fun t => (pairVal s0 b t).toNat) (decide (7 ≤ d.toNat)) s2 = .ok ((), s3) →
        exec (.strel64 p d a b) s = .next (finish s (close d s3)))
      ∧ (7 ≤ d.toNat → ¬ out → leavesLater (curGroup s2).open_ = false → ¬ left s2 → exec (.strel64 p d a b) s = .next (stopped s .stall)))
    ∧ (b.toNat ≤ 9 → okDst s d = true → checkGlobal { n := 4, aligned := true } ex (pairVal s0 a) s0 = .ok (cs, s2) →
      performReads cs true s2 = .ok (v, s3) →
      exec (.ldacq32 p d a b) s = .next (finish s (putWord (close b s3) d ex zl (fun t => BitVec.ofNat 32 (v t)))))
    ∧ (b.toNat ≤ 9 → okPair s d = true → checkGlobal { n := 8, aligned := true } ex (pairVal s0 a) s0 = .ok (cs, s2) →
      performReads cs true s2 = .ok (v, s3) →
      exec (.ldacq64 p d a b) s = .next (finish s (putPair (close b s3) d ex zl (fun t => BitVec.ofNat 64 (v t)))))
    ∧ (d.toNat ≤ 9 → exec (.fence d) s
        = .next (finish s (if 7 ≤ d.toNat then modCur (ending (entered 4 s)) (fun g => { g with hold := true }) else entered 4 s)))
    ∧ (∀ t rest, s.cur.lanes = t :: rest → 96 ≤ b.toNat → b.toNat ≤ 111 →
      checkGlobal { n := 1, sleep := true } [t] (pairVal (entered 4 s) a) (entered 4 s) = .ok (cs, s2) → performReads cs false s2 = .ok (v, s3) →
      ∃ x c, cs = [c] ∧ exec (.waitaddr a b) s = .next (finish s x) ∧ (∀ u ∈ s.cur.lanes, doing x u = .addr) ∧ (curGroup x).open_.ending = true
        ∧ (curGroup x).open_.effects = (curGroup s3).open_.effects
            ++ [.watch s.cur.lanes (chkPa c / 128) (1100 * (srcVal (entered 4 s) b t).toNat)])

/-- R246 to R248: the stash-map instructions take the lowest executing thread's operands once for the group: what each leaves, when its
range is one of the core's own scratch, and their faults: an entry that differs, no free entry, a range that no entries make up, a line of no
core but the own, a range past the partition, and what is misaligned or empty.
Readings and choices of the model in it: log 49. -/
def Obligations.StashMapInstructions : Prop :=
  ∀ (s : State) (p : Option Pfx) (d a b : Code) (t : Nat) (rest : List Nat), issuing s = true → okSrc s d = true → okPair s a = true →
    okSrc s b = true → execs s p = t :: rest →
    let s0 := entered (unitLen p) s
    let s1 := srcStep s0 (execs s p) b
    let s2 := srcStep s1 (execs s p) d
    let sa := srcVal s1 d t
    let len := srcVal s0 b t
    let base := pairVal s0 a t
    let c := s.cur.core
    let k := coreAt s2 c
    let l := sa.toNat % 2 ^ 28 / 128
    let n := len.toNat / 128
    (stashRangeOk s sa len base = true →
      let e := newStash l n (base.toNat % 2 ^ 57 / 128)
      let mine := ∀ x ∈ (curGroup s2).open_ :: (curGroup s2).done, Effect.smap e ∉ x.effects
      (mine → (∀ x ∈ k.stash, entMeets x.2 e = true → x.2.valid = false ∧ x.2.sline = l ∧ x.2.nline = n ∧ x.2.gline = e.gline) → ∀ i, freshKey k.stash 16 0 = some i →
        exec (.smap p d a b) s = .next (finish s (deferring (modCore s2 c (fun k => { k with stash := aset k.stash i e })) (.smap e))))
      ∧ ((∃ x ∈ k.stash, x.2.valid = true ∧ x.2.sline = l ∧ x.2.nline = n ∧ x.2.gline = e.gline) →
        exec (.smap p d a b) s = .next (finish s (deferring s2 (.mapSame l n (some e.gline)))))
      ∧ (mine → (∀ x ∈ k.stash, ¬ (x.2.valid = true ∧ x.2.sline = l ∧ x.2.nline = n ∧ x.2.gline = e.gline)) →
        (∃ x ∈ k.stash, ¬ (x.2.sline = l ∧ x.2.nline = n ∧ x.2.gline = e.gline) ∧ entMeets x.2 e = true) →
        exec (.smap p d a b) s = .next (stopped s (.fault { code := 0x02 })))
      ∧ (mine → (∀ x ∈ k.stash, ¬ (x.2.valid = true ∧ x.2.sline = l ∧ x.2.nline = n ∧ x.2.gline = e.gline)) → freshKey k.stash 16 0 = none →
        exec (.smap p d a b) s = .next (stopped s (.fault { code := 0x02 }))))
    ∧ (stashRangeOk s sa len 0 = true →
      (entsIn k l n = [] → ∀ i ∈ [Instr.sunmap p d b, .sdrop p d b], exec i s = .next (finish s (deferring s2 (.mapSame l n none))))
      ∧ (entsIn k l n ≠ [] → exec (.sdrop p d b) s = .next (finish s (deferring (pended s2 l n) (.sdrop l n))))
      ∧ (entsIn k l n ≠ [] → (∀ e ∈ entsIn k l n, l ≤ e.sline ∧ e.sline + e.nline ≤ l + n) → ((entsIn k l n).map (·.nline)).sum = n →
          exec (.sunmap p d b) s = .next (finish s (deferring (pended s2 l n) (.sunmap l n))))
      ∧ ((∃ e ∈ entsIn k l n, ¬ (l ≤ e.sline ∧ e.sline + e.nline ≤ l + n)) →
          exec (.sunmap p d b) s = .next (stopped s (.fault { code := 0x02 })))
      ∧ exec (.sflush p d b) s = .next (finish s (writeBack s2 c
          ((((List.range n).filterMap (fun i => stashGlobal k (l + i))).filterMap (physLine s2 c (curGroup s2).pasid)).filter
            (fun x => !(decide (x ∈ uncommittedLines k)))))))
    ∧ (sa.toNat % 128 ≠ 0 ∨ len.toNat % 128 ≠ 0 ∨ len = 0 → ∀ i ∈ [Instr.smap p d a b, .sunmap p d b, .sflush p d b, .sdrop p d b],
        exec i s = .next (stopped s (.fault { code := 0x06, lane := t, addr := sa.toNat })))
    ∧ (sa.toNat % 128 = 0 → len.toNat % 128 = 0 → len ≠ 0 →
        (base.toNat % 128 ≠ 0 → exec (.smap p d a b) s = .next (stopped s (.fault { code := 0x06, lane := t, addr := base.toNat })))
        ∧ ((sa.toNat / 2 ^ 28 ≠ 15 ∧ sa.toNat / 2 ^ 28 ≠ k.cidx) ∨ k.psize * 32768 < sa.toNat % 2 ^ 28 + len.toNat →
          ∀ i ∈ (if base.toNat % 128 = 0 then [Instr.smap p d a b] else []) ++ [.sunmap p d b, .sflush p d b, .sdrop p d b],
            exec i s = .next (stopped s (.fault { code := 0x09, lane := t, addr := sa.toNat }))))

/-- R197, R243, R250, R251: LLOCK answers a status to each thread, 3 for a line outside HBM, 0 for one that is pinned already, 1 at the
limit, 2 where its set would keep no unpinned way, and else it pins the line, where its L1 or stash can take it (the order is the model's reading:
log 46); LUNLOCK takes the pins of its lines; CACHEOP in F-mode acts on the lines at its physical addresses; and a prefetch changes no register, and
nothing at all where its address would fault or is poisoned or no thread executes.
Readings and choices of the model in it: log 46. -/
def Obligations.PinAndCacheInstructions : Prop :=
  ∀ (s s2 s3 : State) (p : Option Pfx) (d a b : Code) (cs : List Chk), issuing s = true → okPair s a = true → okSrc s b = true →
    let s0 := entered (unitLen p) s
    let ex := execs s p
    let s1 := srcStep s0 ex b
    let ea := globalAt s0 s0 a b
    let c := s.cur.core
    (checkGlobal { n := 1, poisonOk := true } ex ea s1 = .ok (cs, s2) → guardChange (cs.flatMap (·.vlines)).dedup s2 = .ok ((), s2) →
      (okDst s d = true →
        let r := lockLines c ea (cs.map (fun x => (x.lane, chkPa x))) s2
        (∀ x ∈ cs, readStalls s2 c (chkPa x / 128) = false) → (∀ x ∈ cs, sget 0 r.1 x.lane = 0 → isPinned (coreAt r.2 c) (chkPa x / 128) = true) →
        exec (.llock p d a b) s = .next (finish s (putWord r.2 d ex (zeroed s p) (fun t => BitVec.ofNat 32 (sget 0 r.1 t)))))
      ∧ exec (.lunlock p a b) s = .next (finish s (modCore s2 c (fun k =>
          (cs.map (fun x => chkPa x / 128)).foldl (fun k l => if isPinned k l then setPin k l false else k) k))))
    ∧ (∀ (x : State) (va : Dword) (pa : Nat),
        (inHbm pa = false → lockLine x c va pa = (3, x))
        ∧ (inHbm pa = true → isPinned (coreAt x c) (pa / 128) = true → lockLine x c va pa = (0, x))
        ∧ (inHbm pa = true → isPinned (coreAt x c) (pa / 128) = false → lockLimit (coreAt x c) ≤ (coreAt x c).qused →
            lockLine x c va pa = (1, x))
        ∧ (inHbm pa = true → isPinned (coreAt x c) (pa / 128) = false → (coreAt x c).qused < lockLimit (coreAt x c) →
            let inStash := stashMaps (coreAt x c) (va.toNat % 2 ^ 57 / 128)
            let pins := ((coreAt x c).l1.filter (fun y => y.pin && y.line % 256 == pa / 128 % 256)).length
            (inStash = false → l1Ways (coreAt x c) ≤ pins + 1 → lockLine x c va pa = (2, x))
            ∧ (inStash = true ∨ pins + 1 < l1Ways (coreAt x c) → (lockLine x c va pa).1 = 0
              ∧ ((inStash = true ∨ ¬ missing (coreAt x c) (pa / 128) = true) → isPinned (coreAt (lockLine x c va pa).2 c) (pa / 128) = true))))
    ∧ ((curGroup s).fmode = true → (∀ t ∈ ex, inHbm (ea t).toNat = true) →
        (∀ e ∈ cacheOps, exec (.cacheop p e.1 a b) s
          = .next (finish s (ex.foldl (fun x t => e.2 x ((ea t).toNat / 128)) s1)))
        ∧ (∀ t, ex = [t] → enterWrites [(ea t).toNat / 128] [(ea t).toNat / 128] [] s1 = .ok ((), s3) →
            exec (.cacheop p 4 a b) s = .next (finish s (deferring (withChunk s3 (fun k => { k with psn := aset k.psn ((ea t).toNat / 128) [] }))
              (.cachePoison ((ea t).toNat / 128)))))
        ∧ (∀ t, ex = [t] → writeLocs ((List.range 128).map (fun i => (.glob (128 * ((ea t).toNat / 128) + i), 0))) [] s1 = .ok ((), s3) →
            exec (.cacheop p 5 a b) s = .next (finish s s3)))
    ∧ (∃ x, exec (.pfl p a b) s = .next (finish s x) ∧ (curGroup x).r = (curGroup s1).r
        ∧ (ex = [] → x = s1)
        ∧ (∀ t e, ex = [t] → boundBarrier s1 = none → checkAccess { n := 1, poisonOk := true } t (ea t) s1 = .error e → x = s1)
        ∧ (∀ t pas y, ex = [t] → boundBarrier s1 = none → checkAccess { n := 1, poisonOk := true } t (ea t) s1 = .ok ((pas, false), y) →
            (∃ a ∈ pas, isPoisoned s1 (a / 128) = true) → x = s1))

/-! ### Copies -/

/-- R260 to R268: CPY and TCPY queue one copy for each thread's descriptor, to start at the commit, and end the chunk; CPYQ answers 0 for that and 1
for a full queue, which the others wait for; CPSEAL numbers the batch; CPWAIT waits until the batches of all its threads are complete, and these
then see what those have landed in scratch (R228). -/
def Obligations.CopyInstructions : Prop :=
  ∀ (s s2 : State) (p : Option Pfx) (d a b : Code) (ds : List (Nat × List Dword)), issuing s = true →
    let s0 := entered (unitLen p) s
    let ex := execs s p
    let e0 := entered 4 s
    let all := s.cur.lanes
    let uid := (curGroup s).uid
    let e1 := srcStep e0 all a
    let busy := fun (t m : Nat) => (openBatches e1 uid t).any (fun n => decide (n ≤ m))
    (okPair s a = true → okSrc s b = true →
      ∀ e ∈ [(Instr.cpy p a b, cpyLegal), (.tcpy p a b, tcpyLegal)], copyDescs p a b e.2 s0 = .ok (ds, s2) →
        exec e.1 s = (if copyRoom s2 ds.length then .next (finish s (ending (copiesQueued s2 ds))) else .next (stopped s .stall)))
    ∧ (okDst s d = true → okPair s a = true → okSrc s b = true → copyDescs p a b (fun x => cpyLegal x || tcpyLegal x) s0 = .ok (ds, s2) →
        exec (.cpyq p d a b) s = .next (finish s (ending (putWord (if copyRoom s2 ds.length then copiesQueued s2 ds else s2) d ex (zeroed s p)
          (fun _ => if copyRoom s2 ds.length then 0 else 1)))))
    ∧ (okDst s d = true →
        (∀ t ∈ all, ((openBatches e0 uid t).filter (fun n => decide (n ≤ sealedOf (curGroup s).r t))).length < 16) →
        exec (.cpseal d) s = .next (finish s (putWord
          (withRegs e0 (fun r => { r with sealed := ssetAll 0 r.sealed (all.map (fun t => (t, sealedOf r t + 1))) })) d all []
          (fun t => BitVec.ofNat 32 (sealedOf (curGroup s).r t + 1)))))
    ∧ (okSrc s a = true →
        let m := fun t => (srcVal e0 a t).toNat
        ((∀ t ∈ all, m t ≤ sealedOf (curGroup s).r t) →
          (∀ t ∈ all, busy t (m t) = false) → (∀ t ∈ all, copyFault e1 uid t (m t) = none) →
          exec (.cpwait a) s = .next (finish s (seeFresh e1 uid all m)))
        ∧ ((∀ t ∈ all, m t ≤ sealedOf (curGroup s).r t) → (∃ t ∈ all, busy t (m t) = true) →
          exec (.cpwait a) s = .next (stopped s .stall))
        ∧ (∀ t rest, all = t :: rest → sealedOf (curGroup s).r t < m t →
          exec (.cpwait a) s = .next (stopped s (.fault { code := 0x02, lane := t }))))

/-! ### Streams and channels -/

/-- R328 to R332: STRBIND binds the stream of a legal descriptor at position 0 and starts its run-ahead; STRUNB unbinds; STRSKIP moves a bound
stream on by n positions and faults STREAM_UNBOUND without one; CHBIND, CHUNB and CHSTAT on a declared channel; and each faults on a port that is
not its own kind.
Readings and choices of the model in it: logs 50, 60. -/
def Obligations.StreamAndChannelInstructions : Prop :=
  ∀ (s s2 s3 : State) (d a b : Code) (cs : List Chk) (v : Nat → Nat), issuing s = true →
    let s0 := entered 4 s
    let all := s.cur.lanes
    let c := s.cur.core
    let port := d.toNat - 112
    let illegal := fun (i : Instr) => exec i s = .next (stopped s (.fault { code := 0x02 }))
    (112 ≤ d.toNat → d.toNat ≤ 115 →
      (okPair s a = true → okSrc s b = true → ∀ t rest, all = t :: rest →
        checkGlobal { n := 128, aligned := true } [t] (globalAt s0 s0 a b) (srcStep s0 all b) = .ok (cs, s2) → performReads cs false s2 = .ok (v, s3) →
        (streamLegal (dwsOf (v t)) = false → illegal (.strbind d a b))
        ∧ (streamLegal (dwsOf (v t)) = true → ((aget (curGroup s3).r.streams port).isSome = true ∨ streamsUsed (coreAt s3 c) < 128) →
          exec (.strbind d a b) s = .next (finish s (send (withRegs s3 (fun r =>
            { r with streams := aset r.streams port (streamOf (dwsOf (v t))), eod := setEod r.eod port 0 })) c c
            (.streamRunahead c s.cur.slot port)))))
      ∧ exec (.strunb d) s = .next (finish s (withRegs s0 (fun r => if (aget r.streams port).isNone then r
          else { r with streams := adel r.streams port, eod := setEod r.eod port 0 })))
      ∧ (okSrc s a = true → all ≠ [] →
          (∀ x, aget (curGroup s).r.streams port = some x →
            exec (.strskip d a) s = .next (finish s (withRegs (srcStep s0 all a) (fun r => advancePort r port (lowVal s0 a).toNat x))))
          ∧ (aget (curGroup s).r.streams port = none →
            exec (.strskip d a) s = .next (stopped s (.fault { code := 0x0E, lane := all.headD 0 })))))
    ∧ (d.toNat < 112 ∨ 115 < d.toNat → illegal (.strbind d a b) ∧ illegal (.strunb d) ∧ illegal (.strskip d a))
    ∧ (d.toNat = 116 ∨ d.toNat = 117 →
      exec (.chunb d) s = .next (finish s (withRegs s0 (fun r => { r with chans := adel r.chans port })))
      ∧ (okSrc s a = true → all ≠ [] →
          let ch := (lowVal s0 a).toNat
          ((chanDecl s c ch).isSome = true → exec (.chbind d a) s = .next (finish s (withRegs (srcStep s0 all a) (fun r =>
            { r with chans := aset r.chans port ch }))))
          ∧ (chanDecl s c ch = none → illegal (.chbind d a))))
    ∧ (d.toNat ≠ 116 → d.toNat ≠ 117 → illegal (.chbind d a) ∧ illegal (.chunb d))
    ∧ (okDst s d = true → okSrc s a = true → all ≠ [] → (chanDecl s c (lowVal s0 a).toNat).isSome = true →
        exec (.chstat d a) s = .next (finish s (putWord (srcStep s0 all a) d all []
          (fun _ => chanStatus (srcStep s0 all a) (lowVal s0 a).toNat))))

/-- R70, R71, R326, R330: an operand that is a port: a pop reads each executing thread's element and moves the stream on by one position; a push stores
there; a receive takes the oldest slot, or waits; a send takes a credit, or waits, and leaves at the commit; an unbound port faults; and where no
thread executes nothing moves.
Readings and choices of the model in it: log 29. -/
def Obligations.PortOperands : Prop :=
  ∀ (s s2 s3 : State) (p : Option Pfx) (d a : Code) (t0 : Nat) (rest : List Nat), issuing s = true → execs s p = t0 :: rest →
    let s0 := entered (unitLen p) s
    let ex := execs s p
    let zl := zeroed s p
    let c := s.cur.core
    (okDst s d = true → ∀ q : Code, 112 ≤ q.toNat → q.toNat ≤ 115 → let port := q.toNat - 112
      (∀ x cs v, aget (curGroup s).r.streams port = some x → x.store = false → streamChecks x ex s0 = .ok (cs, s2) →
        performReads cs false s2 = .ok (v, s3) →
        exec (.mov p d q) s = .next (finish s (putWord (withRegs s3 (fun r => advancePort r port 1 x)) d ex zl
          (fun t => widenElem x.esz x.sgn (v t)))))
      ∧ ((aget (curGroup s).r.streams port = none ∨ ∃ x, aget (curGroup s).r.streams port = some x ∧ x.store = true) →
        exec (.mov p d q) s = .next (stopped s (.fault { code := 0x0E, lane := t0 }))))
    ∧ (okSrc s a = true → ∀ q : Code, 112 ≤ q.toNat → q.toNat ≤ 115 → let port := q.toNat - 112
      let s1 := srcStep s0 ex a
      (∀ x cs, aget (curGroup s).r.streams port = some x → x.store = true → streamChecks x ex s1 = .ok (cs, s2) →
        performWrites cs (2 ^ x.esz) (fun t => (srcVal s0 a t).toNat) false s2 = .ok ((), s3) →
        exec (.mov p q a) s = .next (finish s (withRegs s3 (fun r => advancePort r port 1 x))))
      ∧ ((aget (curGroup s).r.streams port = none ∨ ∃ x, aget (curGroup s).r.streams port = some x ∧ x.store = false) →
        exec (.mov p q a) s = .next (stopped s (.fault { code := 0x0E, lane := t0 }))))
    ∧ (okDst s d = true → ∀ q : Code, q.toNat = 116 ∨ q.toNat = 117 → let port := q.toNat - 112
      (aget (curGroup s).r.chans port = none → exec (.mov p d q) s = .next (stopped s (.fault { code := 0x0F, lane := t0 })))
      ∧ (∀ ch, aget (curGroup s).r.chans port = some ch → (chanSource s c ch).isSome = true →
        ((chanAt s c ch).buf = [] → exec (.mov p d q) s = .next (stopped s .port))
        ∧ (∀ x more, (chanAt s c ch).buf = x :: more →
          exec (.mov p d q) s = .next (finish s (putWord (deferring
            (modChan s0 c ch (fun k => { k with buf := more, taken := k.taken ++ [(s.cur.slot, x)] })) (.recvDone ch)) d ex zl
            (fun t => if x.valid.getLsbD t then x.vals.getD t 0 else 0))))))
    ∧ (okSrc s a = true → ∀ q : Code, q.toNat = 116 ∨ q.toNat = 117 → let port := q.toNat - 112
      let s1 := srcStep s0 ex a
      (aget (curGroup s).r.chans port = none → exec (.mov p q a) s = .next (stopped s (.fault { code := 0x0F, lane := t0 })))
      ∧ (∀ ch tc, aget (curGroup s).r.chans port = some ch → chanTarget s c ch = some tc →
        let slots := ((chanDecl s c ch).map (·.slots)).getD 0
        (slots ≤ (chanAt s tc ch).credits → exec (.mov p q a) s = .next (stopped s .port))
        ∧ ((chanAt s tc ch).credits < slots →
          exec (.mov p q a) s = .next (finish s (deferring (modChan s1 tc ch (fun k => { k with credits := k.credits + 1 }))
            (.send tc ch { vals := allLanes.map (fun t => if t ∈ ex then srcVal s0 a t else 0), valid := maskOf ex }))))))
    ∧ (∀ (s' : State) (q : Code), issuing s' = true → execs s' p = [] → okDst s' d = true → 112 ≤ q.toNat → q.toNat ≤ 117 →
        exec (.mov p d q) s' = .next (finish s' (putWord (entered (unitLen p) s') d [] (zeroed s' p) (fun _ => 0))))

/-! ### Tasks and futures -/

/-- R306, R308, R317, R333: SPAWN of a closure that passes its checks enters the task and answers its RESULT, a continuation after the flag that marks
its parent; SPAWNR sets the count of its range, and an empty one resolves and enters nothing. -/
def Obligations.SpawnInstructions : Prop :=
  ∀ (s s1 : State) (d a : Code) (ca : Dword) (cl : List Dword), issuing s = true → okPair s d = true → okPair s a = true →
    let s0 := entered 4 s
    (readSpawn a false s0 = .ok ((ca, cl), s1) →
      (clKind cl ≠ 2 → exec (.spawn d a) s = .next (finish s (taskEntered s1 ca cl d)))
      ∧ (clKind cl = 2 → exec (.spawn d a) s
          = .next (finish s (taskEntered (deferring (withChunk s1 (fun k => { k with kind2 := true })) .contFlag) ca cl d))))
    ∧ (readSpawn a true s0 = .ok ((ca, cl), s1) →
      let n := (clHi cl).toNat - (clLo cl).toNat
      let s2 := deferring s1 (.rangeInit (clDw cl 1) n)
      exec (.spawnr d a) s = .next (finish s (if n = 0 then putPair s2 d s.cur.lanes [] (fun _ => clDw cl 1) else taskEntered s2 ca cl d)))
    ∧ (s.cur.lanes ≠ [] → (pairVal s0 a (s.cur.lanes.headD 0)).toNat % 128 ≠ 0 →
      ∀ i ∈ [Instr.spawn d a, .spawnr d a], exec i s
        = .next (stopped s (.fault { code := 0x06, lane := s.cur.lanes.headD 0, addr := (pairVal s0 a (s.cur.lanes.headD 0)).toNat })))

/-- R316, R318, R320: JOIN on a future of its own core that is resolved answers its value and frees it; on a free or stale one it faults
FUTURE_STALE; on an open one it claims the task if the own deque still holds it, which runs inline (one such operation a clk, R305), and else parks the threads and ends the chunk. A
malformed or zero handle faults. FNEW takes a free entry (which one is the model's choice: log 115), or answers 0; FRES resolves at the commit; FPOLL reads a state.
Readings and choices of the model in it: log 57. -/
def Obligations.FutureInstructions : Prop :=
  ∀ (s s1 : State) (d a b : Code) (n : Nat), issuing s = true → s.cur.lanes ≠ [] → okPair s a = true →
    let s0 := entered 4 s
    let all := s.cur.lanes
    let t0 := all.headD 0
    let c := s.cur.core
    let h := pairVal s0 a t0
    let good := h ≠ 0 ∧ hMalformed h = false
    let st := futState s (ctxidOf s (curGroup s)) h
    let k := coreAt s0 c
    (okPair s d = true → good → hHome h = c → (∀ w ∈ (curGroup s).wakes, w.1 ≠ h) →
      (st.1 = 1 → exec (.join d a) s = .next (finish s (putPair (deferring s0 (.ffree h)) d all [] (fun _ => st.2))))
      ∧ (st.1 = 2 → exec (.join d a) s = .next (stopped s (.fault { code := 0x10, addr := h.toNat })))
      ∧ (st.1 = 0 → claimable k h = none →
          exec (.join d a) s = .next (finish s (ending (modCur (deferring s0 (.park h)) (fun g =>
            { g with r := setPcs (setThr g.r all (.join h d)) (all.map (·, s.cur.pc)), irr := false })))))
      ∧ (st.1 = 0 → ∀ e i, claimable k h = some (e, i) →
          (dqBusy s0 c 4 = true → exec (.join d a) s = .next (stopped s .stall))
          ∧ (dqBusy s0 c 4 = false → loadOne 128 t0 (caOf e.cline) false s0 = .ok (n, s1) →
          exec (.join d a) s = .next (finish s (inlineCalled
            (modCore (dqDone s1 c 4) c (fun k => { k with deque := k.deque.set i { e with clm := true } }))
            (caOf e.cline) (overrideCl e (dwsOf n)) d (some h) [])))))
    ∧ (¬ good → okPair s d = true → exec (.join d a) s = .next (stopped s (.fault { code := 0x02 })))
    ∧ (good → okPair s b = true → exec (.fres a b) s = .next (finish s (deferring s0 (.resolve h (pairVal s0 b t0)))))
    ∧ (good → okDst s d = true →
        (hHome h = c → exec (.fpoll d a) s = .next (finish s (putWord s0 d all [] (fun _ => BitVec.ofNat 32 st.1))))
        ∧ (hHome h ≠ c → (∀ q ∈ (curGroup s).query, q.h ≠ h) → exec (.fpoll d a) s = .next (stopped s (.query h))))
    ∧ (okPair s d = true →
        (freeFutIdx k = none → exec (.fnew d) s = .next (finish s (putPair s0 d all [] (fun _ => 0))))
        ∧ (∀ i, freeFutIdx k = some i →
          exec (.fnew d) s = .next (finish s (putPair (deferring
            (modCore s0 c (fun k => { k with futs := aset k.futs i { (futOf k i) with
              st := 1, ctx := ctxidOf s (curGroup s), value := 0, rng := false, items := 0, total := 0, waiters := [] } })) (.fnew i))
            d all [] (fun _ => handleOf i c (futOf k i).gen)))))

/-- R314, R321, R323, R324: TEND ends every thread of the group, its value waiting for the commit; ITEMNEXT gives each thread the next item of its
piece, and those that find none, as all do outside a range task, go to the target with no item; TYIELD opens a yield window of its own issue
clk and 64 more. -/
def Obligations.TaskEndAndItems : Prop :=
  ∀ (s : State) (a : Code) (i : BitVec 14), issuing s = true →
    let s0 := entered 4 s
    let all := s.cur.lanes
    let tasks := (teamAt s s.cur.core (curGroup s).team).tasks
    (okPair s a = true → all ≠ [] →
      ∃ x, exec (.tend a) s = .next (finish s x) ∧ (∀ t, t < 32 → doing x t = .exited) ∧ (curGroup x).open_.ending = true
        ∧ (curGroup x).open_.effects.getLast? = some (.groupEnd (some (pairVal s0 a (all.headD 0)))) ∧ (curGroup x).irr = false
        ∧ x.mem = s.mem)
    ∧ ((tasks.head?).bind (·.piece) = none →
      exec (.itemnext i) s = .next (finish s (withRegs s0 (fun r =>
        setPcs { r with it := ssetAll 0xFFFFFFFF r.it (all.map (·, 0xFFFFFFFF)) } (all.map (·, relativeTo s i))))))
    ∧ (∀ piece next hi, (tasks.head?).bind (·.piece) = some piece → (∀ t ∈ all, t < 32) → all.Nodup →
      let base := 128 * cursorLine s.cur.core piece
      let at4 := fun (x : State) (o : Nat) => seenNat x ((List.range 4).map (base + o + ·))
      at4 s0 0 = next → at4 s0 4 = hi → hi < 2 ^ 32 →
      (curGroup s).open_.slots = 0 → heldRead s0 (s.cur.core, s.cur.slot) (cursorLine s.cur.core piece) = false →
      (coreAt s0 s.cur.core).fills.length < 2048 → setFull (coreAt s0 s.cur.core) [cursorLine s.cur.core piece] [] (cursorLine s.cur.core piece % 256) = false →
      gateLive s0 true [cursorLine s.cur.core piece] = none →
      ∃ x, exec (.itemnext i) s = .next (finish s x)
        ∧ (∀ j, (hj : j < all.length) → next + j < hi →
            sget 0xFFFFFFFF (curGroup x).r.it (all[j]) = BitVec.ofNat 32 (next + j) ∧ pcOf x all[j] = s.cur.pc + 4)
        ∧ (∀ j, (hj : j < all.length) → hi ≤ next + j →
            sget 0xFFFFFFFF (curGroup x).r.it (all[j]) = 0xFFFFFFFF ∧ pcOf x all[j] = relativeTo s i)
        ∧ at4 x 0 = min (next + all.length) (max next hi) ∧ at4 x 4 = hi)
    ∧ exec .tyield s = .next (finish s (modCur s0 (fun g => { g with yieldLeft := 65 })))

/-! ### The matrix engine -/

/-- R273, R275, R279 to R284, R288 to R292: ACCALLOC asks for tiles, waits, and takes what it was granted, VICTIM being the answer of none; the
operations of the engine enter the chunk, in the group's limits, and are released at its commit; a name not held faults ACC_RANGE; MMAWAIT waits for the
group's operations, MMASTAT counts them, ACCEPI waits for the operations on its tile released before it,
whose name may be given up meanwhile, and for its group's, then reads and converts elements.
Readings and choices of the model in it: logs 51, 52. -/
def Obligations.MatrixInstructions : Prop :=
  ∀ (s s2 s3 : State) (d a b : Code) (cs : List Chk) (v : Nat → Nat), issuing s = true → s.cur.lanes ≠ [] →
    let s0 := entered 4 s
    let all := s.cur.lanes
    let c := s.cur.core
    let slot := s.cur.slot
    let g := curGroup s
    let x := lowVal s0 a
    let s1 := srcStep s0 all a
    let y := lowVal s1 b
    let sb := srcStep s1 all b
    let held := fun (z : State) => heldNames z c slot
    let asks := fun (r : AccReq) => r.slot == slot && r.pc == s.cur.pc
    let fault := fun (i : Instr) (f : FaultInfo) => exec i s = .next (stopped s (.fault f))
    (okDst s d = true → okSrc s a = true →
      ((∀ r ∈ (coreAt s c).accQ, asks r = false) → x ≠ 0 → x.toNat + popBits (held s1) ≤ 8 → exec (.accalloc d a) s = .next (stopped s (.accAlloc x.toNat)))
      ∧ ((∀ r ∈ (coreAt s c).accQ, asks r = false) → x = 0 ∨ 8 < x.toNat + popBits (held s1) → fault (.accalloc d a) { code := 0x02 })
      ∧ (∀ r, (coreAt s c).accQ.find? asks = some r → r.granted = none → exec (.accalloc d a) s = .next (stopped s .stall))
      ∧ (∀ r w, (coreAt s c).accQ.find? asks = some r → r.granted = some w →
        let s4 := modCore s1 c (fun k => { k with accQ := k.accQ.filter (fun r => !(asks r)) })
        (w.getLsbD 8 = true → exec (.accalloc d a) s = .next (finish s (putWord s4 d all [] (fun _ => w))))
        ∧ (w.getLsbD 8 = false → exec (.accalloc d a) s = .next (finish s (putWord (deferring
            (withRegs s4 (fun r => { r with accOwn := r.accOwn ||| w.setWidth 8 })) (.accNames (w.setWidth 8))) d all [] (fun _ => w))))))
    ∧ (okSrc s a = true →
      (256 ≤ x.toNat → fault (.accfree a) { code := 0x02 } ∧ fault (.acczero a) { code := 0x02 })
      ∧ (x.toNat < 256 → x.setWidth 8 &&& ~~~(held s1) ≠ 0 → fault (.accfree a) { code := 0x0C } ∧ fault (.acczero a) { code := 0x0C })
      ∧ (x.toNat < 256 → x.setWidth 8 &&& ~~~(held s1) = 0 → opRoom s1 false = true →
        exec (.accfree a) s = .next (finish s (withRegs (engineQueued s1 5 x 0 0 []) (fun r => { r with accGone := r.accGone ||| x.setWidth 8 })))
        ∧ exec (.acczero a) s = .next (finish s (engineQueued s1 0 x 0 0 []))))
    ∧ (okSrc s d = true → okSrc s a = true → okSrc s b = true →
      let n := lowVal sb d
      let sd := srcStep sb all d
      let rows : Dword := y ++ x
      (∀ e ∈ [(Instr.accld d a b, 1), (.accst d a b, 2)],
        (8 ≤ n.toNat ∨ 2 ^ 16 ≤ y.toNat → fault e.1 { code := 0x02 })
        ∧ (n.toNat < 8 → y.toNat < 2 ^ 16 → x.toNat % 128 = 0 → (held sd).getLsbD n.toNat = true → rowCount rows ≠ 0 →
          rowFirst rows + rowCount rows ≤ 96 →
          (∀ q, scrBadLine sd c x (512 * rowCount rows) = some q → fault e.1 { code := 0x09, wr := e.2 == 2, addr := q.toNat })
          ∧ (scrBadLine sd c x (512 * rowCount rows) = none → opRoom sd false = true →
            exec e.1 s = .next (finish s (engineQueued sd e.2 n rows 0 []))))))
    ∧ (okSrc s a = true → okSrc s b = true → x.toNat < 4 → checkScratch false 32 [all.headD 0] (fun _ => y) sb = .ok (cs, s2) →
      performReads cs false s2 = .ok (v, s3) →
      let m := v (all.headD 0)
      ((∃ e, e < 16 ∧ bookOk (m / 2 ^ (16 * e) % 2 ^ 16) = false) → fault (.cbload a b) { code := 0x0D, addr := y.toNat })
      ∧ ((∀ e, e < 16 → bookOk (m / 2 ^ (16 * e) % 2 ^ 16) = true) → opRoom s3 false = true →
        exec (.cbload a b) s = .next (finish s (engineQueued s3 4 x 0 0 (bytesOf 32 m)))))
    ∧ (isK d = true → isK a = true → isK b = true → a.toNat % 2 = 0 → b.toNat % 2 = 0 →
      let w := lowVal s0 d
      let oa := pairVal s0 a (all.headD 0)
      let ob := pairVal s0 b (all.headD 0)
      (mmaWordOk w = false ∨ mmaSeq w ≠ g.r.seq → fault (.mma d a b) { code := 0x02 })
      ∧ (mmaWordOk w = true → mmaSeq w = g.r.seq → imgOk oa (mmaLayA w) 96 = true → imgOk ob (mmaLayB w) 128 = true →
        (imgBase oa).toNat % 128 = 0 → (imgBase ob).toNat % 128 = 0 →
        ((held s0).getLsbD (mmaAcc w) = false → fault (.mma d a b) { code := 0x0C })
        ∧ ((held s0).getLsbD (mmaAcc w) = true → slabsBad s0 c (mmaLayA w) 96 oa (mmaNstep w) = none →
          slabsBad s0 c (mmaLayB w) 128 ob (mmaNstep w) = none → opRoom s0 true = true →
          exec (.mma d a b) s = .next (finish s (withRegs (engineQueued s0 3 w oa ob []) (fun r => { r with seq := r.seq + 1 }))))))
    ∧ (okSrc s a = true → x.toNat ≤ 15 → (chunkOps (curGroup s0).open_).length ≤ x.toNat → (teamAt s c g.team).efault = none →
      exec (.mmawait a) s = (if (groupOps s1 c slot).length ≤ x.toNat then .next (finish s s1) else .next (stopped s .stall)))
    ∧ (okDst s d = true → exec (.mmastat d) s = .next (finish s (putWord s0 d all [] (fun _ => BitVec.ofNat 32
        ((groupOps s0 c slot).length + 2 ^ 5 * g.r.seq.toNat + 2 ^ 9 * (held s0).toNat + 2 ^ 17 * (teamAt s c g.team).efault.isSome.toNat
          + 2 ^ 18 * (((teamAt s c g.team).efault.map (·.code)).getD 0))))))
    ∧ (okDst s d = true → okSrc s a = true → okSrc s b = true → epiOk x = true →
      let name := x.toNat % 8
      let row := fun t => (srcVal s1 b t).toNat % 256
      let col := fun t => (srcVal s1 b t).toNat / 256 % 256
      let kept := epiKept (curGroup sb) (teamAt s c g.team) s.cur.pc name
      let phys := ((aget (teamAt s c g.team).tiles name).or kept).getD 0
      chunksName [(curGroup s0).open_] name = false → (held sb).getLsbD name = true ∨ kept.isSome = true → (teamAt s c g.team).efault = none →
      let read := modCur sb (fun g => { g with epi := g.epi.filter (fun e => !(e.1 == s.cur.pc)) })
      ((∀ t ∈ all, row t < 96 ∧ col t < 128) →
        (epiBusy sb (curGroup sb) s.cur.pc name phys = true → exec (.accepi d a b) s = .next (stopped s (.accEpi phys)))
        ∧ (epiBusy sb (curGroup sb) s.cur.pc name phys = false →
          exec (.accepi d a b) s = .next (finish s (putWord (if (curGroup s).epi.isEmpty then read else engineKick read c) d all [] (fun t =>
            let e := tileGet (coreAt s c) phys (row t) (col t)
            if x.getLsbD 16 then e else cvtW (x.extractLsb' 4 8).toNat (x.getLsbD 15) (x.extractLsb' 12 3).toNat e)))))
      ∧ ((∀ o ∈ (coreAt s c).ops, phys ∉ o.phys) → chunksName g.done name = false → epiBusy sb (curGroup sb) s.cur.pc name phys = false)
      ∧ (∀ t rest, all = t :: rest → 96 ≤ row t ∨ 128 ≤ col t → fault (.accepi d a b) { code := 0x0C, lane := t }))

/-! ### Barriers, multicast groups and counters -/

/-- R163, R215, R409 to R413: BAR, GBAR and BARARV with no record send one arrival at the commit, with the count, the operation and the partial of the
executing threads, and end the chunk; BAR and GBAR block the threads at the instruction, BARARV until it is accepted. BARWT blocks on a
record, writes a released result to a port at once, and faults without one. A selector that names no barrier faults.
Readings and choices of the model in it: log 35. -/
def Obligations.BarrierInstructions : Prop :=
  ∀ (s : State) (d a b : Code), issuing s = true →
    let s0 := entered 4 s
    let all := s.cur.lanes
    let s1 := srcStep s0 all a
    let v := srcVal s0 a
    let i := selId b
    let illegal := fun (x : Instr) => exec x s = .next (stopped s (.fault { code := 0x02 }))
    (okSrc s a = true → i ≤ 16 → mayArrive s0 i = true →
      (okDst s d = true → exec (.bar d a b) s = .next (finish s (sealing (blockedOn (arriving s1 i (selOp b) v) i d))))
      ∧ exec (.bararv a b) s = .next (finish s (sealing (withRegs (arriving s1 i (selOp b) v) (fun r => setThr r all (.barAck i))))))
    ∧ (okDst s d = true → okSrc s a = true → i = 0 → mayArrive s0 17 = true →
      exec (.gbar d a b) s = .next (finish s (sealing (blockedOn (arriving s1 17 (selOp b) v) 17 d))))
    ∧ (i ≤ 16 → selOp b = 0 →
      (okDst s d = true → (aget (curGroup s).recs i).isSome = true →
        exec (.barwt d b) s = .next (finish s (sealing (deferring (blockedOn s0 i d) (.barPoll i)))))
      ∧ (okDst s d = true → aget (curGroup s).recs i = none →
        exec (.barwt d b) s = (if arrivalHeld (curGroup s0) i then .next (stopped s .stall) else .next (stopped s (.fault { code := 0x02 }))))
      ∧ (∀ rc w ch tc, d.toNat = 116 ∨ d.toNat = 117 → aget (curGroup s).recs i = some rc → rc.res = some w → all ≠ [] →
        aget (curGroup s).r.chans (d.toNat - 112) = some ch → chanTarget s s.cur.core ch = some tc →
        (chanAt s tc ch).credits < ((chanDecl s s.cur.core ch).map (·.slots)).getD 0 →
        exec (.barwt d b) s = .next (finish s (sealing (deferring (deferring
          (modChan s0 tc ch (fun k => { k with credits := k.credits + 1 }))
          (.send tc ch { vals := allLanes.map (fun t => if t ∈ all then w else 0), valid := maskOf all })) (.barUsed i))))))
    ∧ (16 < i → illegal (.bar d a b) ∧ illegal (.bararv a b) ∧ illegal (.barwt d b))
    ∧ (i ≠ 0 → illegal (.gbar d a b))
    ∧ (i ≤ 16 → selOp b ≠ 0 → illegal (.barwt d b))

/-- R396, R398, R403, R404, R416 to R419: GRPOPEN of a closed id writes its state and waits for packets still in flight; GRPCLOSE zeroes it; MCST of
a member sends its line at the commit; CTRRD answers either half of a counter, outside F-mode of those that R396 allows; CTRSET sets a group
counter within its limits, and in F-mode the LIMIT counters. -/
def Obligations.MulticastAndCounters : Prop :=
  ∀ (s s2 s3 : State) (d a b : Code) (w : Word), issuing s = true → s.cur.lanes ≠ [] → okSrc s a = true →
    let s0 := entered 4 s
    let all := s.cur.lanes
    let c := s.cur.core
    let x := lowVal s0 a
    let s1 := srcStep s0 all a
    let y := lowVal s1 b
    let sb := srcStep s1 all b
    let fault := fun (i : Instr) (code : Nat) => exec i s = .next (stopped s (.fault { code := code }))
    let size := ((aget s.clusters (coreAt s c).cluster).map (·.members.length)).getD 0
    let gid := x.toNat % 16
    let kind := x.toNat / 16 % 4
    let mem := x.toNat / 2 ^ 8 % 2 ^ 12
    let fits := x.toNat < 2 ^ 20 ∧ kind ≤ 1 ∧ (kind = 1 ∨ x.toNat / 2 ^ 6 % 4 = 0) ∧ mem ≠ 0 ∧ mem < 2 ^ size
    (¬ fits → fault (.grpopen a) 0x02)
    ∧ (fits → readId gid s1 = .ok (w, s2) →
      (mcstOpen w = true → fault (.grpopen a) 0x02)
      ∧ (mcstOpen w = false →
        let out := ((aget s.clusters (coreAt s c).cluster).map (fun k => sget 0 k.flight gid)).getD 0
        (out ≠ 0 → exec (.grpopen a) s = .next (stopped s .grpOpen))
        ∧ (out = 0 → writeId gid (mcstWord kind (BitVec.ofNat 2 (x.toNat / 2 ^ 6)) (BitVec.ofNat 12 (x.toNat / 2 ^ 8))) s2 = .ok ((), s3) →
          exec (.grpopen a) s = .next (finish s (modCur s3 (fun g => { g with grpWait := none }))))))
    ∧ (x.toNat < 16 → readId x.toNat s1 = .ok (w, s2) →
      (mcstOpen w = false → fault (.grpclose a) 0x02)
      ∧ (mcstOpen w = true → writeId x.toNat 0 s2 = .ok ((), s3) → exec (.grpclose a) s = .next (finish s s3)))
    ∧ (16 ≤ x.toNat → fault (.grpclose a) 0x02 ∧ (okSrc s b = true → fault (.mcst a b) 0x02))
    ∧ (okSrc s b = true → x.toNat < 16 → readId x.toNat sb = .ok (w, s2) →
      let k := coreAt s2 c
      let off := y.toNat % 2 ^ 28
      (¬ (mcstOpen w = true ∧ (mcstMem w).getLsbD k.cidx = true) → fault (.mcst a b) 0x02)
      ∧ (mcstOpen w = true → (mcstMem w).getLsbD k.cidx = true → off % 128 = 0 → y.toNat / 2 ^ 28 = 15 ∨ y.toNat / 2 ^ 28 = k.cidx →
        off + 128 ≤ k.psize * 32768 → stashGlobal k (off / 128) = none →
        exec (.mcst a b) s = .next (finish s (deferring s2 (.mcst x.toNat off w
          ((List.range 128).map (fun i => sget none (curGroup s2).open_.ws (scrKey c (off + i)))))))))
    ∧ (okDst s d = true →
      (counterNamed x = false → fault (.ctrrd d a) 0x02)
      ∧ (counterNamed x = true → (curGroup s).fmode = false → counterReads c x = false → fault (.ctrrd d a) 0x05)
      ∧ (counterNamed x = true → (curGroup s).fmode = true ∨ counterReads c x = true →
        exec (.ctrrd d a) s = .next (finish s (putWord s1 d all []
          (fun _ => BitVec.ofNat 32 (if cnHalf x then counterValue s1 x / 2 ^ 32 else counterValue s1 x))))))
    ∧ (okSrc s b = true →
      (counterNamed x = false → fault (.ctrset a b) 0x02)
      ∧ (counterNamed x = true → (curGroup s).fmode = false → cnClass x ≠ 0 → fault (.ctrset a b) 0x05)
      ∧ (counterNamed x = true → cnClass x = 0 → cnHalf x = false →
        exec (.ctrset a b) s = (if groupCtrOk sb (cnIndex x) y.toNat then .next (finish s (withRegs sb (setGroupCtr (cnIndex x) y.toNat)))
          else .next (stopped s (.fault { code := 0x02 }))))
      ∧ (counterNamed x = true → (curGroup s).fmode = true → cnClass x ≠ 0 →
        exec (.ctrset a b) s = .next (finish s (guarded (if ctrIsLimit (cnClass x) (cnIndex x) then setLimit sb x y else sb)))))

/-! ### The queue units (R35 to R39, R97, R305 to R318) -/

/-- R35, R37, R97, R100, R195, R305, R307: a core with a free slot set and no taken task that waits pops the newest entry, one in a clk, and
stages its task; with nothing to pop it looks for a victim 4 clk later; the first staged task starts with fresh registers, k0 to k15 from its
closure line and every thread at its entry; eager staging asks for the lines of an entry that lack, and raises STG where none lacks; the hold on a
task's lines ends; an arriving line leaves the fill table and is present where its set has a way for it. OWNER_POP, TASK_START, EAGER_STAGING,
STAGE_HOLD_EXPIRY and FILL_RETURN complete. In every state the steps of stealing, of the future graph, of yield windows, of channels and of
streams complete too (R38, R303, R308, R309, R314, R315, R318, R324, R326, R330).
Readings and choices of the model in it: logs 61, 90.
The forms that it says answer a next state: ownerPop, taskStart, eagerStaging, stageHoldExpiry, stealTry, stealreq, stealent, stealspl,
stealno, splitCommit, freg, fready, waitfull, fqueryPoll, fresv, itemdone, fquery, fstate, fwait, wake, ffree, tyieldWindowEnd,
channelSlotArrival, streamRunahead, fillReturn. -/
def Obligations.PopsStagingAndStarts : Prop :=
  (∀ (s f : State) (c line cl b gn : Nat) (e : DqEntry) (rest : List DqEntry) (x : Staged) (xs : List Staged) (g : Grid) (ls : List Nat),
     let k := coreAt s c
     (k.pushQ = [] → k.poolReady = [] → (freeTeam s c).isSome = true →
       (k.deque = rest ++ [e] → e.clm = false → k.staged.any (fun y => !y.bad) = false → k.pieces.any (fun p => p.2.kept) = false →
         (dqBusy s c 3 = false → exec (.ownerPop c) s
           = .next (drainRemoval (stageEntry (leftDeque (dqDone (modCore s c (fun k => { k with deque := rest })) c 3) c) c e) c))
         ∧ (dqBusy s c 3 = true → exec (.ownerPop c) s = .next (drainRemoval (after s 1 (.ownerPop c)) c)))
       ∧ (k.deque = [] → k.steal.out = false → timerSet s (.stealTry c) = false →
         exec (.ownerPop c) s = .next (drainRemoval { s with timers := s.timers ++ [(s.clk + 4, .stealTry c)] } c)))
     ∧ (k.pushQ = [] → k.poolReady = [] → freeTeam s c = none → exec (.ownerPop c) s = .next (drainRemoval s c))
     ∧ (startKept s c = none → k.staged = x :: xs → x.bad = false → x.deadline ≠ 0 → (∀ y ∈ xs, y.bad = true ∨ y.deadline ≠ 0) →
       coreGrid s c = some (gn, g) → freeTeam s c = some b → x.e.kind ≠ 1 →
       ∃ t, exec (.taskStart c) s = .next t ∧ (coreAt t c).staged = xs
         ∧ ∀ i < g.team, ∃ h, groupAt t c (b + i) = some h ∧ h.gi = i ∧ h.team = b ∧ h.a = g.regs ∧ h.pasid = g.pasid ∧ h.fmode = false
             ∧ (∀ l < 32, sget 0 h.r.pc l = clEntry x.cl) ∧ (∀ j, sget 0 h.r.v j = 0)
             ∧ sget 0 h.r.k 0 = loWord (caOf x.e.cline) ∧ sget 0 h.r.k 1 = hiWord (caOf x.e.cline)
             ∧ sget 0 h.r.k 2 = loWord (clDw x.cl 1) ∧ sget 0 h.r.k 3 = hiWord (clDw x.cl 1)
             ∧ ∀ j < 6, sget 0 h.r.k (4 + 2 * j) = loWord (clDw x.cl (10 + j)) ∧ sget 0 h.r.k (5 + 2 * j) = hiWord (clDw x.cl (10 + j)))
     ∧ (coreGrid s c = some (gn, g) → k.deque = [e] → e.stg = false → k.stopReq = false →
       (entryLines s c g.pasid e = (none, f) → exec (.eagerStaging c) s = .next f)
       ∧ (entryLines s c g.pasid e = (some ls, f) →
         exec (.eagerStaging c) s = .next (markStaged c g.pasid (ls.foldl (stageLine c) f) e)))
     ∧ (e.stg = false → entryLines s c gn e = (some ls, f) → markStaged c gn s e
         = if ls.any (missing (coreAt f c)) then f
           else modCore f c (fun k => { k with deque := k.deque.map (fun x => if x = e then { x with stg := true } else x) }))
     ∧ (∃ t, exec (.stageHoldExpiry c cl) s = .next t ∧ (coreAt t c).deque = k.deque
         ∧ ∀ y ∈ (coreAt t c).staged, y.e.cline.toNat = cl → y.deadline ≠ 0 → y.deadline ≤ s.clk → y.held = [])
     ∧ (line ∉ k.fills → exec (.fillReturn c line) s = .next s)
     ∧ (line ∈ k.fills →
       missing k line = false ∨ (List.range (l1Ways k)).any (fun w => k.l1.all (fun y => y.line % 256 != line % 256 || y.way != w)) = true →
       ∃ t, exec (.fillReturn c line) s = .next t
         ∧ line ∉ (coreAt t c).fills ∧ missing (coreAt t c) line = false))
  ∧ (∀ (s : State) (c slot n st ch vic cl : Nat) (ctx lo hi : BitVec 32) (h v : BitVec 64) (node : NodeRef) (stale : Bool) (x : ChanSlot)
      (q : StealReq) (d : DqEntry),
      ∀ e ∈ [Instr.freg node h, .fready node, .waitfull node h, .fqueryPoll node h, .fresv c ctx h v, .itemdone c h n, .fquery c slot h,
          .fstate c slot h st v, .fwait c slot h, .wake c slot h stale v, .ffree c h, .tyieldWindowEnd c slot, .channelSlotArrival c ch x,
          .streamRunahead c slot ch, .stealTry c, .stealreq c vic q, .stealent c vic d, .stealspl c vic cl lo hi, .stealno c vic n,
          .splitCommit vic n c],
        ∃ t, exec e s = .next t)

/-- R24, R37, R38, R305, R309, R310, R315, R388: an idle core asks its next victim, and one that is not does nothing; a request waits for the end
of its clk, and for one in which the victim gives no other entry; the victim then gives its oldest unclaimed entry to a thief of its own grid,
offers a split of its largest piece to one of its die, or refuses, as a corked core does, below LTHRESH also across dies; the thief stages what it
gets, and after a refusal asks its next victim at once; a split asks the Press of the cursor's line, waits for live chunks that meet it, and moves
the upper half of the piece's range. STEAL_TRY, STEALREQ, STEALENT, STEALSPL, STEALNO and SPLIT_COMMIT complete. That a request is served 4 clk
after it has come is the model's choice.
Readings and choices of the model in it: log 90.
The forms that it says answer a next state: ownerPop, stealTry, stealreq, stealent, stealspl, stealno, splitCommit. -/
def Obligations.StealingSteps : Prop :=
  ∀ (s : State) (c v i r n cl depth num : Nat) (cross : Bool) (e : DqEntry) (rest : List DqEntry) (lo hi : BitVec 32) (p : Piece),
    let k := coreAt s c
    let vk := coreAt s v
    let thresh := ((coreGrid s v).map (fun g => g.2.lthresh)).getD 0
    let z := modCore s v (fun k => { k with reqQ := k.reqQ.erase (c, num) })
    let refuses := ∃ t, exec (.stealreq c v ⟨cross, num⟩) s = .next t ∧ coreAt t v = { vk with reqQ := vk.reqQ.erase (c, num) }
      ∧ t.net = s.net ++ [{ src := v, dst := c, ev := .stealno c v vk.deque.length }]
    let idle := modCore s c (fun k => { k with steal := { k.steal with out := false, ring := 0, tries := 0 } })
    let taken := fun (e : DqEntry) => send (stageEntry (coreCtr (stealFlits idle c 3) c 7 1) c e) c c (.ownerPop c)
    let open_ := modCore s c (fun k => { k with steal := { k.steal with out := false } })
    (stealIdle s c = false → exec (.stealTry c) s = .next s)
    ∧ (stealIdle s c = true → pickVictim s c (mayCross s c) 4 k.steal.ring k.steal.tries = some (r, v, n) →
      (r = 2 → admits s (ctrKey 1 c 17) = true) →
      ∃ t, exec (.stealTry c) s = .next t ∧ (coreAt t c).steal.out = true ∧ (coreAt t c).steal.tries = n
        ∧ t.net = s.net ++ [{ src := c, dst := v, ev := .stealreq c v ⟨r == 2, k.steal.num + 1⟩ }])
    ∧ ((c, num) ∉ vk.reqQ → exec (.stealreq c v ⟨cross, num⟩) s
        = .next (after (stealFlits (modCore s v (fun k => { k with reqQ := k.reqQ ++ [(c, num)] })) v 1) 4 (.stealreq c v ⟨cross, num⟩)))
    ∧ ((c, num) ∈ vk.reqQ →
      (dqBusy s v 5 = true → exec (.stealreq c v ⟨cross, num⟩) s = .next (after s 1 (.stealreq c v ⟨cross, num⟩)))
      ∧ (dqBusy s v 5 = false → vk.grid ≠ k.grid ∨ vk.role ≠ 0 → refuses)
      ∧ (dqBusy s v 5 = false → vk.grid = k.grid → vk.role = 0 → vk.poolReady = [] → vk.deque = e :: rest → e.clm = false →
        (cross = true → vk.deque.length < thresh → refuses)
        ∧ (cross = false ∨ thresh ≤ vk.deque.length →
          ∃ t, exec (.stealreq c v ⟨cross, num⟩) s = .next t ∧ (coreAt t v).deque = rest
            ∧ t.net = s.net ++ (if rest = [] then [] else [{ src := v, dst := v, ev := .eagerStaging v }])
                ++ [{ src := v, dst := c, ev := .stealent c v { e with stg := false } }]))
      ∧ (dqBusy s v 5 = false → vk.grid = k.grid → vk.deque = [] → splitPiece z v = none ∨ cross = true → refuses)
      ∧ (dqBusy s v 5 = false → vk.grid = k.grid → vk.role = 0 → vk.deque = [] → splitPiece z v = some i → cross = false →
        exec (.stealreq c v ⟨cross, num⟩) s = .next (send z v v (.splitCommit v i c))))
    ∧ (k.steal.out = true →
      exec (.stealent c v e) s = .next (taken e)
      ∧ exec (.stealspl c v cl lo hi) s
        = .next (taken ⟨BitVec.ofNat 50 cl, BitVec.ofNat 2 (((coreGrid s c).map (fun g => Nat.log2 g.2.team)).getD 0), 1, false, false, lo, hi, 0⟩))
    ∧ (k.steal.out = false → exec (.stealent c v e) s = .next s ∧ exec (.stealspl c v cl lo hi) s = .next s)
    ∧ (∃ t, exec (.stealno c v depth) s = .next t ∧ (stealIdle open_ c = false → (coreAt t c).steal.out = false))
    ∧ (stealIdle open_ c = true → pickVictim open_ c (mayCross open_ c) 4 k.steal.ring k.steal.tries = some (r, i, n) →
      (r = 2 → admits (coreCtr (stealFlits open_ c 1) c 9 1) (ctrKey 1 c 17) = true) →
      ∃ t, exec (.stealno c v depth) s = .next t ∧ (coreAt t c).steal.out = true ∧ (coreAt t c).steal.tries = n
        ∧ t.net = s.net ++ [{ src := c, dst := i, ev := .stealreq c i ⟨r == 2, k.steal.num + 1⟩ }])
    ∧ (aget vk.pieces i = none → exec (.splitCommit v i c) s = .next (stealRefuse (askOver s (splitRef v i c)) c v))
    ∧ (aget vk.pieces i = some p →
      let next := (cursorAt s v i).1
      let end_ := (cursorAt s v i).2
      let mid := end_.toNat - (end_.toNat - next.toNat) / 2
      let me := splitRef v i c
      (64 ≤ end_.toNat - next.toNat → askOf s me = none →
        exec (.splitCommit v i c) s = .next (askPress s me [cursorLine v i] (.splitCommit v i c)))
      ∧ (64 ≤ end_.toNat - next.toNat → (askOf s me).isSome = true → askGranted s me = false → exec (.splitCommit v i c) s = .next s)
      ∧ (64 ≤ end_.toNat - next.toNat → askGranted s me = true → heldByLive s (sigOf [cursorLine v i]) none = true →
        exec (.splitCommit v i c) s = .next { s with timers := s.timers ++ [(s.clk + 4, .splitCommit v i c)] })
      ∧ (64 ≤ end_.toNat - next.toNat → askGranted s me = true → heldByLive s (sigOf [cursorLine v i]) none = false →
        exec (.splitCommit v i c) s = .next (send (gliveAdd (coreCtr (stealFlits
          (performWrite (askOver s me) none (bytesAt (128 * cursorLine v i) (bytesOf 8 (next.toNat + 2 ^ 32 * mid)))) v 3) v 8 1) p.grid 1)
          v c (.stealspl c v (clineOf p.ca).toNat (BitVec.ofNat 32 mid) end_)))
      ∧ (end_.toNat - next.toNat < 64 → exec (.splitCommit v i c) s = .next (stealRefuse (askOver s me) c v)))

/-- R303, R308, R309, R314, R318, R324, R326: a future's first resolution stores its value and serves each waiter, any other is discarded and
counted; a node waits at an open future, is told at once of any other, and polls every 1 µs where the waiter store is full; a node's count
falls; queries are answered with the future's state; a joiner registers and is woken with the value at its next instruction, and one that finds the
waiter store full asks again 1,100 clk later (the model's choice); a freed entry takes the next generation; items are counted down, and with the
last the range's result resolves, on an entry already resolved as a stray; a yield window ends; a channel slot joins its buffer; and run-ahead
leaves memory as it is. Each of FRESV, FREG, WAITFULL, FQUERY_POLL, FREADY, FQUERY, FSTATE, FWAIT, WAKE, FFREE, ITEMDONE, TYIELD_WINDOW_END,
CHANNEL_SLOT_ARRIVAL and STREAM_RUNAHEAD completes.
Readings and choices of the model in it: logs 60, 90.
The forms that it says answer a next state: freg, fready, waitfull, fqueryPoll, fresv, itemdone, fquery, fstate, fwait, wake, ffree,
tyieldWindowEnd, channelSlotArrival, streamRunahead. -/
def Obligations.FutureGraphAndChannelSteps : Prop :=
  ∀ (s : State) (c slot i n st : Nat) (ctx : BitVec 32) (h v : BitVec 64) (node : NodeRef) (ch : Nat) (x : ChanSlot) (y : Chan) (pn : PNode)
    (g : Group) (d : Code),
    let home := hHome h
    let f := futAt s home (hIndex h)
    (futLive f ctx h = true → f.st = 1 →
      (f.waiters = [] → ∃ t, exec (.fresv c ctx h v) s = .next t ∧ (futAt t home (hIndex h)).st = 2 ∧ (futAt t home (hIndex h)).value = v)
      ∧ (f.waiters = [(false, node)] → ∃ t, exec (.fresv c ctx h v) s = .next t ∧ (futAt t home (hIndex h)).st = 2
          ∧ t.net = s.net ++ [{ src := home, dst := node.core, ev := .fready node }])
      ∧ (f.waiters = [(true, node)] → ∃ t, exec (.fresv c ctx h v) s = .next t ∧ (futAt t home (hIndex h)).st = 0
          ∧ t.net = s.net ++ [{ src := home, dst := node.core, ev := .wake node.core node.idx h false v }]))
    ∧ (futLive f ctx h = false ∨ f.st ≠ 1 → exec (.fresv c ctx h v) s = .next (dieCtr s (dieOf home) 2 1))
    ∧ ((futState s (nodeCtx s node) h).1 = 0 → node.idx < 4096 → waitersUsed (coreAt s home) < 4096 →
        exec (.freg node h) s = .next (modFut s home (hIndex h) (fun f => { f with waiters := f.waiters ++ [(false, node)] })))
    ∧ ((futState s (nodeCtx s node) h).1 = 0 → node.idx < 4096 → 4096 ≤ waitersUsed (coreAt s home) →
        exec (.freg node h) s = .next (send s home node.core (.waitfull node h)))
    ∧ ((futState s (nodeCtx s node) h).1 ≠ 0 → exec (.freg node h) s = .next (send s home node.core (.fready node)))
    ∧ exec (.waitfull node h) s = .next (after s 1100 (.fqueryPoll node h))
    ∧ exec (.fqueryPoll node h) s = .next (send s node.core home (.fquery node.core (pollSlot node) h))
    ∧ (aget (coreAt s c).pool i = some pn → i < 4096 → pn.count ≠ 1 →
        exec (.fready { core := c, isCopy := false, idx := i }) s
          = .next (modCore s c (fun k => { k with pool := aset k.pool i { pn with count := pn.count - 1 } })))
    ∧ (aget (coreAt s c).pool i = some pn → i < 4096 → pn.count = 1 → (coreAt s c).poolReady = [] → dequeRoom (coreAt s c) = true →
        dqBusy s c 2 = false →
        ∃ t, exec (.fready { core := c, isCopy := false, idx := i }) s = .next t ∧ (coreAt t c).deque = (coreAt s c).deque ++ [pn.e]
          ∧ aget (coreAt t c).pool i = none)
    ∧ exec (.fquery c slot h) s
        = .next (send s home c (.fstate c slot h (futState s (slotCtx s c slot) h).1 (futState s (slotCtx s c slot) h).2))
    ∧ (groupAt s c slot = some g → slot < 64 → exec (.fstate c slot h st v) s
        = .next (setGroup s c slot { g with
            query := g.query.map (fun q => if q.h = h ∧ q.reply.isNone then { q with reply := some (st, v) } else q) }))
    ∧ (64 ≤ slot → exec (.fstate c slot h 0 v) s = .next (after s 1100 (.fqueryPoll (pollNode c slot) h)))
    ∧ (64 ≤ slot → st ≠ 0 → exec (.fstate c slot h st v) s = .next (nodeReady s (pollNode c slot)))
    ∧ pollNode node.core (pollSlot node) = node
    ∧ (groupAt s c slot = some g → (futState s (ctxidOf s g) h).1 = 0 → (true, { core := c, isCopy := false, idx := slot }) ∉ f.waiters →
        waitersUsed (coreAt s home) < 4096 → exec (.fwait c slot h) s
          = .next (modFut s home (hIndex h) (fun f => { f with waiters := f.waiters ++ [(true, { core := c, isCopy := false, idx := slot })] })))
    ∧ (groupAt s c slot = some g → (futState s (ctxidOf s g) h).1 = 0 → (true, { core := c, isCopy := false, idx := slot }) ∉ f.waiters →
        4096 ≤ waitersUsed (coreAt s home) → exec (.fwait c slot h) s = .next (after s 1100 (.fwait c slot h)))
    ∧ (groupAt s c slot = some g → (futState s (ctxidOf s g) h).1 = 1 → exec (.fwait c slot h) s
          = .next (freeFut (send s home c (.wake c slot h false (futState s (ctxidOf s g) h).2)) home (hIndex h)))
    ∧ (groupAt s c slot = some g → (futState s (ctxidOf s g) h).1 = 2 → exec (.fwait c slot h) s
          = .next (send s home c (.wake c slot h true 0)))
    ∧ (groupAt s c slot = some g → joiners g.r h = [(n, d)] →
        exec (.wake c slot h false v) s = .next (wakeThreads s c slot (joinWake h v))
        ∧ joinWake h v g.r = setPcs (writePairR (setThr g.r [n] .run) d [n] [] (fun _ => v)) [(n, sget 0 g.r.pc n + 4)]
        ∧ exec (.wake c slot h true v) s = .next (faultGroup (wakeThreads s c slot (fun r => setThr r [n] .run)) c slot [n] (sget 0 g.r.pc n)
            { code := 0x10, lane := n, addr := h.toNat }))
    ∧ (f.gen = hGen h → f.st = 2 → ∃ t, exec (.ffree c h) s = .next t ∧ (futAt t home (hIndex h)).st = 0
        ∧ (futAt t home (hIndex h)).gen = (if f.gen = 255 then 1 else f.gen + 1))
    ∧ (futLive f (nodeCtx s { core := c, isCopy := false, idx := 0 }) h = true → f.rng = true → n < f.items.toNat →
        ∃ t, exec (.itemdone c h n) s = .next t ∧ (futAt t home (hIndex h)).items.toNat = f.items.toNat - n
          ∧ (futAt t home (hIndex h)).st = f.st)
    ∧ (futLive f (nodeCtx s { core := c, isCopy := false, idx := 0 }) h = true → f.rng = true → f.items.toNat ≤ n →
        exec (.itemdone c h n) s = .next (resolveAt (modFut s home (hIndex h) (fun f => { f with rng := false, items := 0 }))
          (nodeCtx s { core := c, isCopy := false, idx := 0 }) h (f.total.setWidth 64)))
    ∧ (futLive f (nodeCtx s { core := c, isCopy := false, idx := 0 }) h = false ∨ f.rng = false → exec (.itemdone c h n) s = .next s)
    ∧ (groupAt s c slot = some g → exec (.tyieldWindowEnd c slot) s = .next (setGroup s c slot { g with yieldLeft := 0 }))
    ∧ (aget (coreAt s c).chans ch = some y → exec (.channelSlotArrival c ch x) s
        = .next (modCore s c (fun k => { k with chans := aset k.chans ch { y with buf := y.buf ++ [x] } })))
    ∧ (∃ t, exec (.streamRunahead c slot ch) s = .next t ∧ t.mem = s.mem)

/-! ### The commit protocol and outside accesses (R219 to R227, R254 to R256) -/

/-- R219 to R223, R231, R259: a Press grants a request that meets no grant and no live priority or irrevocable chunk, else holds it, of a chunk or of another writer; with its last grant a
chunk sends its write signature or is squashed; a signature invalidates and squashes at a core, and is acknowledged; with its last
acknowledgement the claims leave; a slice whose count is met makes the lines visible and reports; with the last report the commit completes;
a release lets a held request go; an outside access waits for what it meets, or is performed, a write not in the safe state (R450); a store beyond the package is performed and
acknowledged by its target.
Readings and choices of the model in it: logs 34, 89, 90, 95, 107.
The forms that it says answer a next state: pressRequest, pressGrant, commitSignature, commitAck, ownershipClaim, claimAnnounce,
sliceDone, pressRelease, inboundAccess, targetAcknowledgement, cxlCacheSnoop. -/
def Obligations.CommitProtocolSteps : Prop :=
  ∀ (s : State) (k : ChunkRef) (d e line sl n pa core slot : Nat) (es : List Nat) (x : Chunk) (g : Group) (ks : List Chunk)
    (bytes : List (BitVec 8)) (w : ExtWrite) (a : PressAsk),
    let r : GrantRec := { k := k, w := x.wsig, pri := x.pri || x.irr }
    let freed := modDie s d (fun y => { y with granted := y.granted.filter (fun q => decide (q.k ≠ k)) })
    let got := modDone s k (fun y => { y with toGrant := y.toGrant.drop 1, granted := y.granted ++ [d] })
    let key := fun (sl phase : Nat) => 4096 * sl + 4 * k.core + phase
    let count := fun (sl phase : Nat) => (aget (dieAt s (sl / 64)).phases (key sl phase)).getD (0, none)
    let counted := fun (sl phase : Nat) (v : Nat × Option Nat) =>
      modDie s (sl / 64) (fun y => { y with phases := aset y.phases (key sl phase) v })
    let shown := fun (sl phase : Nat) =>
      let y := modDie s (sl / 64) (fun y => { y with phases := adel y.phases (key sl phase) })
      send ((x.glines.filter (fun l => homeSlice l == sl)).foldl (fun z l => showLine z (bufferBytes x.wr) l) y)
        (sliceAgent sl) k.core (.sliceDone sl k)
    let acked := fun (z : State) => { z with extOut := sset 0 z.extOut (64 * core + slot) (sget 0 z.extOut (64 * core + slot) - 1) }
    let later := fun (n : Nat) (ev : Instr) => { s with timers := s.timers ++ [(s.clk + n, ev)] }
    (doneChunk s k = none → exec (.commitSignature (.die d) k) s = .next s
      ∧ (askOf s k = none → exec (.pressRequest d k) s = .next s ∧ exec (.pressGrant d k) s = .next s)
      ∧ (askOf s k = some a → exec (.pressRequest d k) s = .next (enterPress s d { k := k, w := sigOf a.lines, pri := false })
        ∧ exec (.pressGrant d k) s = .next (askGot s d k)))
    ∧ (doneChunk s k = some x →
      (mayGrant s d r = true → ∃ t, exec (.pressRequest d k) s = .next t ∧ (dieAt t d).granted = (dieAt s d).granted ++ [r]
        ∧ t.net = s.net ++ [{ src := pressAgent d, dst := k.core, ev := .pressGrant d k }])
      ∧ (mayGrant s d r = false → ∃ t, exec (.pressRequest d k) s = .next t ∧ (dieAt t d).granted = (dieAt s d).granted
        ∧ (dieAt t d).waiting = (dieAt s d).waiting ++ [r] ∧ t.net = s.net)
      ∧ (x.phase = 1 → x.toGrant = d :: e :: es → exec (.pressGrant d k) s = .next (send got k.core (pressAgent e) (.pressRequest e k)))
      ∧ (x.phase = 1 → x.toGrant = [d] → exec (.pressGrant d k) s = .next
          (if heldByLive got x.wsig (some (k.core, k.slot)) || metByGranted got k x then squashFrom got k.core k.slot k.num
           else sendSignature got k x))
      ∧ (∀ c, c ≠ k.core → exec (.commitSignature (.core c) k) s
          = .next (send (invalidate (squashCore s c none (conflicts x.wsig)) c x.glines) c k.core (.commitAck k)))
      ∧ exec (.commitSignature (.core k.core) k) s
          = .next (send (squashCore s k.core (some k.slot) (conflicts x.wsig)) k.core k.core (.commitAck k))
      ∧ exec (.commitSignature (.die d) k) s = .next (send s (pressAgent d) k.core (.commitAck k))
      ∧ ((count (homeSlice line) n).2 = some ((count (homeSlice line) n).1 + 1) → exec (.ownershipClaim line n k) s = .next (shown (homeSlice line) n))
      ∧ (∀ m, (count sl n).1 = m → exec (.claimAnnounce sl n m k) s = .next (shown sl n)))
    ∧ ((count (homeSlice line) n).2 ≠ some ((count (homeSlice line) n).1 + 1) → exec (.ownershipClaim line n k) s
        = .next (counted (homeSlice line) n ((count (homeSlice line) n).1 + 1, (count (homeSlice line) n).2)))
    ∧ (∀ m, (count sl n).1 ≠ m → exec (.claimAnnounce sl n m k) s = .next (counted sl n ((count sl n).1, some m)))
    ∧ (groupAt s k.core k.slot = some g → g.done = x :: ks → x.num = k.num → x.phase = 2 →
      let y := modDone s k (fun z => { z with acks := z.acks - 1 })
      exec (.commitAck k) s = .next (if x.acks ≤ 1 then claimStage y k { x with acks := 0 } else y))
    ∧ (let y := modDone s k (fun z => { z with dones := z.dones - 1 })
       exec (.sliceDone sl k) s = .next (match doneChunk y k with
         | some z => if z.phase = 3 ∧ z.dones = 0 then completeCommit y k z else y
         | none => y))
    ∧ ((dieAt s d).waiting = [] → exec (.pressRelease d k) s = .next freed)
    ∧ ((dieAt s d).waiting = [r] → exec (.pressRelease d k) s = .next (if mayGrant freed d r then grantPress freed d r else freed))
    ∧ (n ≤ 128 - pa % 128 → exec (.inboundAccess pa none n) s
        = .next (if inHbm pa then (unitRead s [pa]).getD (later 4 (.inboundAccess pa none n)) else s))
    ∧ (inHbm pa = true → outsideTable s.mmio.qtbase 16384 pa bytes.length → outsideTable s.mmio.rtbase 8192 pa bytes.length → bytes ≠ [] →
      pa % 128 + bytes.length ≤ 128 → exec (.inboundAccess pa (some bytes) n) s
        = .next (if writeHeld s [pa / 128] then later 4 (.inboundAccess pa (some bytes) bytes.length)
                 else if s.fw.safe then s else performWrite s none (bytesAt pa bytes)))
    ∧ (extFirsts s core slot = [] → exec (.targetAcknowledgement core slot) s
        = .next (if s.extPend.any (fun q => q.core == core && q.slot == slot && q.out) then later 4 (.targetAcknowledgement core slot)
                 else acked s))
    ∧ (extFirsts s core slot = [(n, w)] →
      let kvs := w.bytes.map (fun q => (homePa q.1, q.2))
      exec (.targetAcknowledgement core slot) s
        = .next (if writeHeld s ((linesOf kvs).filter (fun l => tracked (128 * l))) then later 4 (.targetAcknowledgement core slot)
                 else acked (performWrite { s with free := s.free + 1, extPend := s.extPend.eraseIdx n } none kvs)))
    ∧ exec (.cxlCacheSnoop line) s
        = .next (if line ∈ s.cxl then wakeWatchers { s with cxl := s.cxl.filter (fun l => !(l == line)) } line else s)

/-- R190, R227, R254 to R256: a released reduction waits for the earlier ones of its group on its location and for the chunks that its line meets,
then combines its value with the committed one, once, and its place takes the line; on a poisoned line it is only recorded, and one already
performed does nothing. In every state the steps of the commit protocol and of outside accesses complete (R219 to R223, R231, R259).
Readings and choices of the model in it: logs 64, 90.
The forms that it says answer a next state: pressRequest, pressGrant, commitSignature, commitAck, ownershipClaim, claimAnnounce,
sliceDone, pressRelease, inboundAccess, redPerform, targetAcknowledgement, cxlCacheSnoop. -/
def Obligations.ReductionSteps : Prop :=
  (∀ (s : State) (r : Red),
    let x := { s with reds := s.reds.erase r }
    let pa := homePa r.pa
    (r ∉ s.reds → exec (.redPerform r) s = .next s)
    ∧ (r ∈ s.reds → redBehind s r = true ∨ (tracked pa = true ∧ writeHeld s [pa / 128] = true) → exec (.redPerform r) s = .next { s with timers := s.timers ++ [(s.clk + 4, .redPerform r)] })
    ∧ (r ∈ s.reds → redBehind s r = false → tracked pa = false ∨ writeHeld s [pa / 128] = false →
      let y := if isPoisoned x (pa / 128) then x else readLine x (pa / 128)
      let n := if r.op = .addI64 then 8 else 4
      (isPoisoned y (pa / 128) = false →
        exec (.redPerform r) s = .next (redTake (performWrite y none (bytesAt pa (bytesOf n (redCombine r.op (memNat y pa n) r.v.toNat)))) r))
      ∧ (isPoisoned y (pa / 128) = true →
        exec (.redPerform r) s = .next (postLog (ctrAdd y (ctrKey 7 0 0) 1) 0x0006 (dieOf r.core) r.core r.pa)))
    ∧ (beyond r.pa = true ∨ 5 ≤ r.scope → redTake s r = s)
    ∧ (beyond r.pa = false → r.scope = 4 → redTake s r = { s with redAt := aset s.redAt (r.pa / 128) (256 + (coreAt s r.core).cluster) }))
  ∧ (∀ (a b : Word), redCombine .addI a.toNat b.toNat = (a + b).toNat ∧ redCombine .and a.toNat b.toNat = (a &&& b).toNat
      ∧ redCombine .or a.toNat b.toNat = (a ||| b).toNat ∧ redCombine .xor a.toNat b.toNat = (a ^^^ b).toNat
      ∧ redCombine .minN a.toNat b.toNat = min a.toNat b.toNat ∧ redCombine .maxN a.toNat b.toNat = max a.toNat b.toNat
      ∧ (BitVec.ofNat 32 (redCombine .minI a.toNat b.toNat)).toInt = min a.toInt b.toInt
      ∧ (BitVec.ofNat 32 (redCombine .maxI a.toNat b.toNat)).toInt = max a.toInt b.toInt
      ∧ redCombine .addF a.toNat b.toNat = f32.round 0 (FVal.add 0 (f32.val a.toNat) (f32.val b.toNat)))
  ∧ (∀ (a b : Dword), redCombine .addI64 a.toNat b.toNat = (a + b).toNat)
  ∧ (∀ (s : State) (k : ChunkRef) (r : Receiver) (d line sl n m pa core slot : Nat) (wr : Option (List (BitVec 8))),
      ∀ e ∈ [Instr.pressRequest d k, .pressGrant d k, .pressRelease d k, .commitSignature r k, .commitAck k, .ownershipClaim line n k,
          .claimAnnounce sl n m k, .sliceDone sl k, .inboundAccess pa wr n, .targetAcknowledgement core slot, .cxlCacheSnoop line],
        ∃ t, exec e s = .next t)

/-! ### Halts, margins, sleeps, barriers and the matrix engine (R177 to R186, R259, R273 to R296, R408 to R419) -/

/-- R21, R177, R182 to R187, R259, R417: a halted sibling stops within 32 of its issue slots, and only after the repeat of a flagged instruction,
one that is not ready stops at once, one that has stopped hands the team's fault on where it was the last, and one of a team without a fault ends
its open chunk where it waits at a boundary that it must stop at; a
shadow latch's flag is counted and has the instruction repeated, or is TIMING_HARD and corks the core where the instruction is repeated already,
or is fatal on a vintner core; a replay window's end raises or lowers the margin by one step within its bounds and the next window begins; a
settled margin is in force, on a vintner core never below 0; a WAITADDR sleep that is over ends; a stalled GRPOPEN faults.
Readings and choices of the model in it: logs 21, 58, 62.
The forms that it says answer a next state: teamHalt, shadowLatchFlag, marginWindowEnd, marginSettle, waitaddrWake, waitaddrPoll,
waitaddrTimeout, groupTimeout. -/
def Obligations.HaltMarginAndSleepSteps : Prop :=
  ∀ (s : State) (c slot tm : Nat) (i : FlaggedIssue) (twice : Bool) (g : Group) (w : Watch) (ls : List Nat) (at_ : PC),
    let n := if groupReady { s with free := s.free + 1 } c slot g then Config.freeNat s.free % 33 else 0
    let faulty := (teamAt s c g.team).fault.isSome = true
    (groupAt s c slot = some g → g.stop.isSome = true → exec (.teamHalt c slot) s = .next (settle s c g.team))
    ∧ (groupAt s c slot = some g → g.stop = none → (teamAt s c g.team).fault = none → exec (.teamHalt c slot) s = .next (endIfBlocked s c slot false))
    ∧ (groupAt s c slot = some g → g.stop = none → faulty → g.haltLeft.isSome = true → exec (.teamHalt c slot) s
        = .next (if groupReady s c slot g = true ∨ g.replay.isSome = true then s else stopHalted s c slot))
    ∧ (groupAt s c slot = some g → g.stop = none → faulty → g.haltLeft = none → n ≠ 0 →
      ∃ t, exec (.teamHalt c slot) s = .next t ∧ n ≤ 32 ∧ groupAt t c slot = some { g with haltLeft := some (n, 0) })
    ∧ (groupAt s c slot = some g → g.stop = none → faulty → g.haltLeft = none → n = 0 → g.replay.isSome = true →
      exec (.teamHalt c slot) s = .next (setGroup { s with free := s.free + 1 } c slot { g with haltLeft := some (0, 0) }))
    ∧ (groupAt s c slot = some g → g.stop = none → faulty → g.haltLeft = none → n = 0 → g.replay = none →
      exec (.teamHalt c slot) s = .next (stopHalted (modGroup { s with free := s.free + 1 } c slot (fun g => { g with haltLeft := some (0, 0) })) c slot))
    ∧ (groupAt s c i.slot = some g →
      let hit := (freeLanes s g).filter (fun t => sget 0 g.r.pc t == i.pc)
      let here := (g.replay.map (·.2)).getD i.pc = i.pc
      let y := modCore (coreCtr (coreCtr s c 5 1) c 6 1) c
        (fun k => { k with margin := { k.margin with repwin := min 65535 (k.margin.repwin + 1) } })
      (hit = [] ∨ groupReady s c i.slot g = false ∨ ¬here → exec (.shadowLatchFlag c i twice) s = .next s)
      ∧ (hit ≠ [] → groupReady s c i.slot g = true → here → exec (.shadowLatchFlag c i twice) s = .next
          (if (coreAt s c).role = 1 then fatalError (endChunk y c i.slot) c 1
           else if twice = true ∨ g.replay.isSome = true then cork (faultGroup y c i.slot hit i.pc { code := 0x15 }) c 2
           else modGroup y c i.slot (fun g => { g with replay := some (hit, i.pc) }))))
    ∧ (timerSet s (.marginWindowEnd c) = true → exec (.marginWindowEnd c) s = .next s)
    ∧ (timerSet s (.marginWindowEnd c) = false → (coreAt s c).role = 0 →
      let m := (coreAt s c).margin
      let clean := if m.repwin = 0 then m.cleanRun + 1 else 0
      let next := fun (t : State) => (s.clk + (11264 * m.win - s.clk % 11264), .marginWindowEnd c) ∈ t.timers
      (m.lim < m.repwin → m.aup = true → m.voff < 8 → ∃ t, exec (.marginWindowEnd c) s = .next t ∧ next t
        ∧ (coreAt t c).margin.voff = m.voff + 1 ∧ (coreAt t c).margin.raised = true ∧ (coreAt t c).margin.repwin = 0
        ∧ (coreAt t c).margin.vnow = m.vnow)
      ∧ (m.lim < m.repwin → m.aup = true → 8 ≤ m.voff → m.qthr = 0 ∨ min 15 (m.topcnt + 1) < m.qthr →
        ∃ t, exec (.marginWindowEnd c) s = .next t ∧ next t ∧ (coreAt t c).margin.voff = m.voff ∧ (coreAt t c).margin.tophit = true
          ∧ (coreAt t c).margin.topcnt = min 15 (m.topcnt + 1) ∧ (coreAt t c).margin.repwin = 0)
      ∧ (m.repwin ≤ m.lim ∨ m.aup = false → m.clean ≤ clean → m.adn = true → m.vfloor < m.voff →
        ∃ t, exec (.marginWindowEnd c) s = .next t ∧ next t ∧ (coreAt t c).margin.voff = m.voff - 1 ∧ (coreAt t c).margin.cleanRun = 0
          ∧ (coreAt t c).margin.repwin = 0)
      ∧ (m.repwin ≤ m.lim ∨ m.aup = false → clean < m.clean ∨ m.adn = false ∨ m.voff ≤ m.vfloor →
        ∃ t, exec (.marginWindowEnd c) s = .next t ∧ next t ∧ (coreAt t c).margin = { m with repwin := 0, cleanRun := clean }))
    ∧ (timerSet s (.marginSettle c) = false → ∃ t, exec (.marginSettle c) s = .next t
      ∧ (coreAt t c).margin = { (coreAt s c).margin with
        vnow := if (coreAt s c).role = 1 then max 0 (coreAt s c).margin.voff else (coreAt s c).margin.voff })
    ∧ (groupAt s c slot = some g → g.watch = [w] →
      (watchOver s w = false → exec (.waitaddrWake c slot) s = .next s ∧ exec (.waitaddrTimeout c slot) s = .next s
        ∧ (polled s w.line = true → exec (.waitaddrPoll c slot) s = .next { s with timers := s.timers ++ [(s.clk + 1100, .waitaddrPoll c slot)] }))
      ∧ (watchOver s w = true → w.lanes ≠ [] →
        let t := wakeThreads (modGroup s c slot (fun g => { g with watch := [] })) c slot
          (fun r => setThr r (w.lanes.filter (fun t => decide (sget .run r.thr t = .addr))) .run)
        exec (.waitaddrWake c slot) s = .next t ∧ exec (.waitaddrTimeout c slot) s = .next t
        ∧ ((∀ h, groupAt t c slot = some h → h.watch = []) → exec (.waitaddrPoll c slot) s = .next t)))
    ∧ (groupAt s c slot = some g → g.grpWait = some (tm, at_, ls) →
      exec (.groupTimeout c slot) s = .next (if s.clk < tm then s
        else faultGroup (ctrAdd s (ctrKey 7 0 2) 1) c slot ls at_ { code := 0x14, lane := ls.headD 0xFF }))

/-- R174, R227, R228, R408 to R414, R417 to R419: an arrival opens an idle generation, joins an open one of its count and operation, or is refused; a full
generation with nothing outstanding publishes what its arrivers' copies have landed, gives its result to every arriver, and the next begins idle; a pending line is taken off; a
multicast line is stored, and a reduction combines the member's 32 words; SCGO gives the named group's k4 and k5 its value and lets those of its
threads go on whose record is posted, or raises SCERR.
Readings and choices of the model in it: log 90.
The forms that it says answer a next state: barrierArrival, barrierRelease, pendingLinePresent, mcstDelivery, scgo. -/
def Obligations.BarrierMulticastAndCallSteps : Prop :=
  ∀ (s : State) (b : BarRef) (v : Arrival) (m : McstPacket) (cl : Cluster) (c slot : Nat) (g h : Group),
    let x := barObj s b
    let i := barId b
    let record := (groupAt s v.core v.slot).bind (fun g => aget g.recs i)
    (record = none → exec (.barrierArrival b v) s = .next s)
    ∧ (record.isSome = true → x.open_ = true → x.fixed = true → v.count ≠ x.n ∨ v.op ≠ x.op →
      exec (.barrierArrival b v) s = .next (afterBar (barRefuse s b v) b))
    ∧ (record.isSome = true → (x.open_ = true → x.fixed = true → v.count = x.n ∧ v.op = x.op) →
      exec (.barrierArrival b v) s = .next (afterBar (barRelease (barAccept s b v) b) b)
      ∧ ((x.open_ = false ∨ x.fixed = false) → barTake x v
          = { x with open_ := true, fixed := true, n := v.count, op := v.op, arrived := [(v.core, v.slot)],
                     waits := [(v.core, v.slot, v.upto)], part := v.part })
      ∧ (x.open_ = true → x.fixed = true → (barTake x v).arrived = x.arrived ++ [(v.core, v.slot)]
        ∧ (barTake x v).waits = x.waits ++ [(v.core, v.slot, v.upto)] ∧ (barTake x v).gen = x.gen
        ∧ (barTake x v).part = (if x.op = 0 then x.part &&& v.part else if x.op = 1 then x.part ||| v.part else x.part + v.part)))
    ∧ (barFull x = false → exec (.barrierRelease b) s = .next s
      ∧ exec (.pendingLinePresent b) s = .next (afterBar (putBar s b { x with pending := x.pending - 1 }) b))
    ∧ (barFull x = true → barBusy s b x = true → s.timers.any (fun t => decide (t.2 = .barrierRelease b)) = false →
      exec (.barrierRelease b) s = .next { s with timers := s.timers ++ [(s.clk + 8, .barrierRelease b)] })
    ∧ (barFull x = true → barBusy s b x = false → exec (.barrierRelease b) s = .next
        (x.arrived.foldl (fun s a => barWake s a.1 a.2 i (fun s f => wakeThreads s a.1 a.2 f))
          (putBar (x.arrived.foldl (deliverRelease i x) (publishFresh s i x)) b { gen := x.gen + 1 })))
    ∧ (aget s.clusters m.cl = some cl → m.bytes.length = 128 →
      let at_ := fun (z : State) (o : Nat) => sget 0 (coreAt z m.target).scratch o
      let word := fun (z : State) (j : Nat) => BitVec.ofNat 32 (natOfBytes ((List.range 4).map (fun i => at_ z (m.off + 4 * j + i))))
      ∃ t, exec (.mcstDelivery m) s = .next t
        ∧ (aget t.clusters m.cl).map (fun k => sget 0 k.flight m.gid) = some (sget 0 cl.flight m.gid - 1)
        ∧ (∀ o, o < m.off ∨ m.off + 128 ≤ o → at_ t o = at_ s o)
        ∧ (m.rop = none → ∀ j < 128, at_ t (m.off + j) = m.bytes.getD j 0)
        ∧ ∀ r, m.rop = some r → ∀ j < 32,
          let y := BitVec.ofNat 32 (natOfBytes ((m.bytes.drop (4 * j)).take 4))
          word t j = (if r = 0 then word s j + y else if r = 1 then word s j ||| y
            else if r = 2 then (if y.slt (word s j) then y else word s j) else (if (word s j).slt y then y else word s j)))
    ∧ (groupAt s c slot = some g →
      let tc := g.f.ctxsel.toNat % 256
      let ts := g.f.ctxsel.toNat / 256 % 64
      (groupAt s tc ts = none → exec (.scgo c slot) s = .next (modGroup s c slot (fun g => { g with f := { g.f with scerr := true } })))
      ∧ (groupAt s tc ts = some h →
        let early : List Nat := (h.done ++ [h.open_]).flatMap (fun k => k.effects.flatMap (fun e => match e with
          | .sysc _ _ _ ls => ls
          | _ => []))
        let ls := (lanesWhere h.r (· == .sysc)).filter (fun l => decide (l ∉ early))
        (ls = [] → exec (.scgo c slot) s = .next (modGroup s c slot (fun g => { g with f := { g.f with scerr := true } })))
        ∧ (ls ≠ [] → exec (.scgo c slot) s = .next (wakeThreads
            (modDie s (dieOf tc) (fun d => { d with sysRecs := d.sysRecs.filter (fun r => !(r.core == tc && r.slot == ts)) })) tc ts
            (fun r =>
              let r := setPcs (setThr r ls .run) (ls.map (fun t => (t, sget 0 r.pc t + 4)))
              { r with k := sset 0 (sset 0 r.k 4 (loWord g.f.scval)) 5 (hiWord g.f.scval) })))))

/-- R273, R274, R275, R279, R280, R286 to R288, R293, R294: the oldest request is granted its tiles, each zero, when they are free; an operation that is ready
does what it says to tile, scratch or codebook, an ACCFREE to those of its tiles that no earlier one names; the end of a step gives every element of the tile the R286 update of the step's slabs; a flag repeats the step after 48 clk.
Readings and choices of the model in it: logs 52, 90, 108, 109.
The forms that it says answer a next state: accallocGrant, mmaStepEnd, engineOpComplete. -/
def Obligations.MatrixEngineSteps : Prop :=
  ∀ (s : State) (c n ph tc off : Nat) (r : AccReq) (o : EngOp),
    let k := coreAt s c
    (k.accQ.find? (fun r => r.granted.isNone) = none → exec (.accallocGrant c) s = .next s)
    ∧ (k.accQ.find? (fun r => r.granted.isNone) = some r → r.n ≤ (freeTiles k).length → r.n + (teamAt s c r.team).tiles.length ≤ 8 →
      ∃ t, exec (.accallocGrant c) s = .next t ∧ (∃ q ∈ (coreAt t c).accQ, q.slot = r.slot ∧ q.granted.isSome = true)
        ∧ (∀ p ∈ (freeTiles k).take r.n, (coreAt t c).tilesUsed.getLsbD p = true ∧ ∀ a b, a < 96 → b < 128 → tileGet (coreAt t c) p a b = 0))
    ∧ (k.accQ.find? (fun r => r.granted.isNone) = some r → (freeTiles k).length < r.n → accVictim k = none →
      exec (.accallocGrant c) s = .next s)
    ∧ (k.ops.find? (fun o => o.order == n && o.kind != 3) = none → exec (.engineOpComplete c n) s = .next s)
    ∧ (k.ops.find? (fun o => o.order == n && o.kind != 3) = some o → o.core = c → o.phys.headD 0 = ph → k.engineHalt = false →
      opReady s o = true → ∃ t, exec (.engineOpComplete c n) s = .next t
        ∧ (o.kind ≠ 5 → ∀ p ∈ (coreAt t c).ops, p.order ≠ n)
        ∧ (o.kind = 0 → ∀ p ∈ o.phys, ∀ a b, a < 96 → b < 128 → tileGet (coreAt t c) p a b = 0)
        ∧ (o.kind = 1 → ∀ a b, a < rowCount o.opA → b < 128 → tileGet (coreAt t c) ph (rowFirst o.opA + a) b
            = BitVec.ofNat 32 (natOfBytes ((List.range 4).map (fun j => scrByte s c (imgBase o.opA + BitVec.ofNat 32 (512 * a + 4 * b + j))))))
        ∧ (o.kind = 2 → scrTarget s c (imgBase o.opA) = some (tc, off) → ∀ a b, a < rowCount o.opA → b < 128 →
            BitVec.ofNat 32 (natOfBytes ((List.range 4).map (fun j => sget 0 (coreAt t tc).scratch (off + 512 * a + 4 * b + j))))
              = tileGet k ph (rowFirst o.opA + a) b)
        ∧ (o.kind = 4 → (teamAt s c o.team).tasks ≠ [] → ∀ e < 16,
            sget 0 (teamAt t c o.team).cb (16 * o.word.toNat + e) = BitVec.ofNat 16 (natOfBytes o.bytes / 2 ^ (16 * e)))
        ∧ (o.kind = 5 →
          let free := freeableTiles s o
          (∀ p ∈ free, p < 8 → (coreAt t c).tilesUsed.getLsbD p = false)
          ∧ ((∀ p ∈ o.phys, p ∈ free) → ∀ q ∈ (coreAt t c).ops, q.order ≠ n)
          ∧ ((∃ p ∈ o.phys, p ∉ free) → ∃ q ∈ (coreAt t c).ops, q.order = n ∧ q.phys = o.phys.filter (fun i => !(decide (i ∈ free))))))
    ∧ (k.engineStep.bind (fun i => k.ops.find? (fun o => o.order == i)) = some o → o.core = c → o.phys = [ph] →
      let w := o.word
      let elems := fun (rows : List (List Nat × List Nat)) (lay tag slot a : Nat) =>
        (List.range (imgKs lay)).map (elemVal lay tag (bookOf (teamAt s c o.team) slot) (rows.getD a ([], [])).1)
      let ra := slabRows s c o.opA (mmaLayA w) 96 o.next
      let rb := slabRows s c o.opB (mmaLayB w) 128 o.next
      (n ≠ 1 → ∃ t, exec (.mmaStepEnd c n) s = .next t
        ∧ ∀ a b, a < 96 → b < 128 → tileGet (coreAt t c) ph a b = BitVec.ofNat 32 (slabUpdate w (elems ra (mmaLayA w) (mmaTagA w) (mmaCba w) a)
            (elems rb (mmaLayB w) (mmaTagB w) (mmaCbb w) b) (ra.getD a ([], [])).2 (rb.getD b ([], [])).2
            (if mmaClr w = true ∧ o.next = 0 then 0 else (tileGet k ph a b).toNat)))
      ∧ (k.role ≠ 1 → timerSet s (.mmaStepEnd c 3) = false → ∃ t, exec (.mmaStepEnd c 1) s = .next t ∧ (coreAt t c).tiles = k.tiles
        ∧ (s.clk + 48, .mmaStepEnd c 3) ∈ t.timers ∧ (coreAt t c).engineStep = k.engineStep))

/-! ### Copies, decanting, the Reserve and racking (R198 to R214, R223, R260 to R268, R380, R381, R405) -/

/-- R200, R201, R223, R260, R263, R266, R381, R405: a copy with no dependency left starts on a free engine; an engine chunk waits for budget, is
charged, asks the Presses of what it writes, waits for live chunks that meet it, commits, and goes on, completes or ends with its fault; a complete copy resolves DONE with 0; a CPY element writes
the bytes it read; a hot line that no commit has written in its window is pushed to its helpers, which redirect to it; a revocation leaves no trace of it; a budget period begins at 0.
Readings and choices of the model in it: logs 68, 90, 98.
The forms that it says answer a next state: copyStart, engineChunkStart, copyComplete, decant, decantPushDone, redirectInstall,
revocation, budgetPeriod. -/
def Obligations.CopyDecantAndBudgetSteps : Prop :=
  ∀ (s : State) (id e d line h ni : Nat) (x : Copy),
    let later := fun (n : Nat) (ev : Instr) => { s with timers := s.timers ++ [(s.clk + n, ev)] }
    let me := engineAgent x.die
    (aget s.copies id = some x →
      (x.st = 0 → x.count = 0 → x.pkt.isSome = true ∨ ctxParked s x.pasid = false →
        (freeEngine s x.die = none → exec (.copyStart id) s = .next (later 16 (.copyStart id)))
        ∧ (freeEngine s x.die = some e → exec (.copyStart id) s
            = .next (send (modCopy s id (fun y => { y with st := 1, engine := e })) me me (.engineChunkStart id))))
      ∧ (x.st ≠ 0 ∨ x.count ≠ 0 → exec (.copyStart id) s = .next s)
      ∧ (x.st = 1 → x.pkt.isSome = true ∨ (ctxParked s x.pasid = false ∧ s.fw.dumping = none) →
        let ref := copyRef id
        let again := Instr.engineChunkStart id
        let r := copyRun x (copyTotal x - x.pos) { s := s, pos := x.pos, scale := x.scale, lines := [], out := [], err := none }
        let paid := fun (y : State) => charge y (ctrKey 2 x.die 6) r.lines.length
        let partial_ := r.err = some .wait ∧ r.out ≠ []
        (askOf s ref = none → admits s (ctrKey 2 x.die 6) = false →
          exec again s = .next (after (refuseAdmission s (ctrKey 2 x.die 6)) 64 again))
        ∧ (askOf s ref = none → admits s (ctrKey 2 x.die 6) = true →
          (partial_ → exec again s = .next (after (copyWaits s r.s) 64 again))
          ∧ (¬partial_ → runLines r = [] → exec again s = .next (landRun s id x { r with s := paid r.s }))
          ∧ (¬partial_ → runLines r ≠ [] → exec again s = .next (askPress (paid (copyWaits s r.s)) ref (runLines r) again)))
        ∧ (∀ a, askOf s ref = some a →
          (a.toGrant ≠ [] → exec again s = .next s)
          ∧ (a.toGrant = [] → (∀ l ∈ runLines r, l ∈ a.lines) →
            let met := heldByLive s (sigOf a.lines) none || r.out.any (fun e => beyond e.1 && (extByte s e.1).isSome)
            (met = true → exec again s = .next (later 4 again)) ∧ (met = false → exec again s = .next (landRun s id x r)))
          ∧ (a.toGrant = [] → (∃ l ∈ runLines r, l ∉ a.lines) →
            exec again s = .next (askPress (askOver (copyWaits s r.s) ref) ref (runLines r) again))))
      ∧ (∀ r : CopyRun,
        let t := modCopy (performWrite (askOver r.s (copyRef id)) none (r.out.map (fun e => (homePa e.1, e.2)))) id
          (fun y => { y with pos := r.pos, scale := r.scale })
        (r.err = none → landRun s id x r = if copyTotal x ≤ r.pos then send t me me (.copyComplete id) else after t 48 (.engineChunkStart id))
        ∧ (∀ cause addr wr, r.err = some (.fault cause addr false wr) →
            landRun s id x r = copyEndFault t id (copyRecord s { x with pos := r.pos } cause addr false wr)))
      ∧ (x.st ≠ 1 ∨ (x.pkt = none ∧ (ctxParked s x.pasid = true ∨ s.fw.dumping.isSome = true)) →
        exec (.engineChunkStart id) s = .next (askOver s (copyRef id)))
      ∧ (x.st = 1 → copyTotal x ≤ x.pos → x.pkt = none → exec (.copyComplete id) s = .next (copyOver { s with copies := adel s.copies id } x 0))
      ∧ (∀ q n, x.st = 1 → copyTotal x ≤ x.pos → x.pkt = some (q, n) →
        exec (.copyComplete id) s = .next (completePacket { s with copies := adel s.copies id } q n)))
    ∧ (∀ vec bs ls s1 s2 out, cpyKind x.desc = 0 → cpyOp x.desc = 0 → vecOf (copyCounts x.desc) id = vec →
        copyRead s x (cpySscr x.desc) (clDw x.desc 0 + BitVec.ofInt 64 (strideSum vec ((List.range 5).map (cpySst x.desc)))) (2 ^ cpyEsz x.desc)
          = (.ok bs, s1) →
        copyLocs s1 x (cpyDscr x.desc) true (clDw x.desc 1 + BitVec.ofInt 64 (strideSum vec ((List.range 5).map (cpyDst x.desc)))) (2 ^ cpyEsz x.desc)
          = (.ok ls, s2) →
        copyElem s x out id = (.ok (ls.zip bs, x.scale), s2))
    ∧ (inHbm (128 * line) = true → helperOk line h = true → (∀ r ∈ s.replicas, r.1 ≠ line) → s.net.any (decantMsg line) = false →
      (hotLine s line = false ∨ line ∈ s.wroteWin → exec (.decant line [h]) s = .next s)
      ∧ (hotLine s line = true → line ∉ s.wroteWin → admits s (ctrKey 2 (homeDie line) 9) = true →
        ∃ t, exec (.decant line [h]) s = .next t ∧ t.readWin = adel s.readWin line
          ∧ t.net = s.net ++ [{ src := sliceAgent (homeSlice line), dst := sliceAgent h, ev := .decantPushDone line h }]))
    ∧ (∃ t, exec (.decantPushDone line h) s = .next t ∧ (line, h) ∈ t.replicas
      ∧ t.net = s.net ++ (redirectNis line h).map (fun n =>
          ({ src := sliceAgent (homeSlice line), dst := 6000 + n, ev := .redirectInstall n line h } : Msg)))
    ∧ ((line, h) ∉ s.replicas → exec (.redirectInstall ni line h) s = .next s)
    ∧ ((line, h) ∈ s.replicas → ∃ t, exec (.redirectInstall ni line h) s = .next t ∧ (ni, line, h) ∈ t.redirects
      ∧ (t.redirects.filter (fun e => e.1 == ni && e.2.1 == line)).length = 1)
    ∧ (∃ t, exec (.revocation line) s = .next t ∧ (∀ r ∈ t.replicas, r.1 ≠ line) ∧ (∀ r ∈ t.redirects, r.2.1 ≠ line)
      ∧ t.net.any (decantMsg line) = false ∧ t.mem = s.mem)
    ∧ (timerSet s (.budgetPeriod d) = false → s.mmio.logWait = [] → ∃ t, exec (.budgetPeriod d) s = .next t ∧ (∀ k ∈ usedKeys d, ctrGet t k = 0)
      ∧ (s.clk + (11264 - (cycles s d).toNat % 11264), .budgetPeriod d) ∈ t.timers)

/-- R198, R202, R205 to R210: what a stack controller does with a read, a write and an atomic; a plain write stores the line, raises the row's count and
sends the change to the row's parity controller, which applies it and answers; FREEZE holds the row, but at a lost stack, and is answered when its
count is 0; the values
gathered end a reconstruction; UNFREEZE performs what was held; the first loss of a stack is degraded mode, a second one dual.
Readings and choices of the model in it: logs 63, 65, 66, 67, 71, 94.
The forms that it says answer a next state: hbmRead, hbmWrite, hbmAtomic, delta, dack, freeze, freezeValue, unfreeze, stackLoss. -/
def Obligations.StackAndParitySteps : Prop :=
  ∀ (s : State) (x line row sender : Nat) (r : Red) (rc : Recon) (bytes : List (BitVec 8)) (bad : Bool) (v : Option (List (BitVec 8))),
    let ds := dataStack line
    let rw_ := stripeOf line
    let p := parityStack line
    let hold := fun (e : Instr) => modStack s ds (fun k => { k with held := k.held ++ [(rw_, e)] })
    let older := behindHeld s line
    (inHbm (128 * line) = true →
      (moveHolds (stackAt s ds) rw_ = true ∨ older = true → exec (.hbmRead line []) s = .next (hold (.hbmRead line [])))
      ∧ (moveHolds (stackAt s ds) rw_ = false → older = false → line ∉ s.poison → unusable s line = false →
          exec (.hbmRead line []) s = .next (freeTag (l2Fill (countPacket s ds rw_) line) ds))
      ∧ (moveHolds (stackAt s ds) rw_ = false → older = false → s.mmio.dual = false → line ∈ s.poison ∨ unusable s line = true → reconOn s rw_ = false →
          exec (.hbmRead line []) s = .next (if (stackAt s p).lost then freeTag (markPoison (countPacket s ds rw_) line) ds
            else startRecon (countPacket s ds rw_) line none))
      ∧ (writeWaits s line = true → exec (.hbmWrite line []) s = .next (hold (.hbmWrite line [])))
      ∧ (writeWaits s line = false → exec (.hbmWrite line []) s = .next (replied s (storeLine s line) line))
      ∧ (writeWaits s line = false → lineLost s line = false → line ∉ s.ecc → line ∉ s.hpoison → (stackAt s p).lost = false →
          stashDirty s line = false → (stackAt s ds).tagQ = [] → (stackAt s p).tags < 32768 →
          ∃ t, exec (.hbmWrite line []) s = .next t ∧ dramLine t line = memBytes s (128 * line) 128 ∧ t.mem = s.mem
            ∧ sget 0 (stackAt t ds).cnt rw_ = sget 0 (stackAt s ds).cnt rw_ + 1
            ∧ t.net = s.net ++ [⟨stackAgent ds, stackAgent p,
                .delta p rw_ ds (xorBytes (dramLine s line) (memBytes s (128 * line) 128))⟩])
      ∧ (writeWaits s line = false → r ∈ s.reds → r.pa / 128 = line → 5 ≤ r.scope → writeHeld s [line] = true ∨ redBehind s r = true →
          exec (.hbmAtomic line r) s = .next (deferPacket s ds rw_ (.hbmAtomic line r)))
      ∧ (writeWaits s line = false → r ∈ s.reds → r.pa / 128 = line → 5 ≤ r.scope → writeHeld s [line] = false → redBehind s r = false →
          let y := redPerform s r
          exec (.hbmAtomic line r) s = .next (replied y (if isPoisoned y line then y else storeLine y line) line)))
    ∧ (∃ t, exec (.delta x row sender bytes) s = .next t ∧ t.mem = s.mem
      ∧ ((stackAt s x).tagQ = [] → t.net = s.net ++ [{ src := stackAgent x, dst := stackAgent sender, ev := .dack sender row }])
      ∧ ((stackAt s x).lost = false → bytes.length = 128 → parityLine t row = xorBytes (parityLine s row) bytes)
      ∧ ((stackAt s x).lost = true → t.parity = s.parity))
    ∧ (∃ t, exec (.dack x row) s = .next t ∧ sget 0 (stackAt t x).cnt row = sget 0 (stackAt s x).cnt row - 1
      ∧ (sget 0 (stackAt s x).cnt row ≠ 1 → 0 < sget 0 (stackAt s x).cnt row → t.net = s.net))
    ∧ ((stackAt s x).lost = true → exec (.freeze x row bad) s = .next s)
    ∧ ((stackAt s x).lost = false → ∃ t, exec (.freeze x row bad) s = .next t ∧ row ∈ (stackAt t x).frozen
      ∧ (0 < sget 0 (stackAt s x).cnt row → t.net = s.net)
      ∧ (sget 0 (stackAt s x).cnt row = 0 → t.net = s.net ++ [⟨stackAgent x, stackAgent (row % 16),
          .freezeValue (row % 16) row x (if bad || unusable s (lineOf row x) then none else some (dramLine s (lineOf row x)))⟩]))
    ∧ ((stackAt s x).recons.find? (fun r => r.row == row) = none → exec (.freezeValue x row sender v) s = .next s)
    ∧ ((stackAt s x).recons.find? (fun r => r.row == row) = some rc →
      let rc' := { rc with vals := aset rc.vals sender (v.getD []), failed := rc.failed || (v.isNone && !(lineOf row sender == rc.line)) }
      let y := modStack s x (fun k => { k with recons := k.recons.map (fun q => if q.row = row then rc' else q) })
      exec (.freezeValue x row sender v) s
        = .next (if (survivors s row).all (fun z => (aget rc'.vals z).isSome) then retryRow (settleRecon y x rc') row else y))
    ∧ ((stackAt s x).held = [] → ∃ t, exec (.unfreeze x row) s = .next t ∧ row ∉ (stackAt t x).frozen ∧ t.mem = s.mem ∧ t.dram = s.dram)
    ∧ (∀ n e, (stackAt s x).held = [(n, e)] → exec (.unfreeze x row) s
        = .next (slicePacket (modStack s x (fun k => { k with frozen := k.frozen.filter (fun r => !(r == row)), held := [] })) e))
    ∧ (16 ≤ x ∨ (stackAt s x).lost = true → exec (.stackLoss x) s = .next s)
    ∧ (x < 16 → (stackAt s x).lost = false →
      let y := modStack s x (fun k => { k with lost := true })
      let m := s.mmio
      (m.lost0 = 0x1F → exec (.stackLoss x) s
        = .next (dropStack (postLog { y with mmio := { m with lost0 := BitVec.ofNat 5 x, degr := true } } 0x0003 (x / 4) x 0) x))
      ∧ (m.lost0 ≠ 0x1F → m.lost1 = 0x1F → exec (.stackLoss x) s
        = .next (dropStack (postLog (poisonStack (poisonStack { y with mmio := { m with lost1 := BitVec.ofNat 5 x, dual := true } } m.lost0.toNat) x)
            0x0004 (x / 4) x 0) x))
      ∧ (m.lost0 ≠ 0x1F → m.lost1 ≠ 0x1F → exec (.stackLoss x) s
        = .next (dropStack (postLog (poisonStack { y with mmio := { m with more := true } } x) 0x0004 (x / 4) x 0) x)))

/-- R211 to R214, R380: a swap of two frames of different channels starts above the imbalance threshold and within the racking budget, waits
until their packets are complete, copies a row at a time against the budget, and exchanges the frames at its last row; a march request is queued
for a bank in service; a bank that passes its march goes back in service frame by frame, one that fails is retired.
Readings and choices of the model in it: logs 69, 70, 90.
The forms that it says answer a next state: swapStart, swapDrainDone, swapRowCopy, marchreq, bankMarchEnd. -/
def Obligations.RackingSteps : Prop :=
  ∀ (s : State) (x f1 f2 c b : Nat) (m : Move) (v : BitVec 32),
    let k := stackAt s x
    let me := stackAgent x
    let c1 := frameChan (physFrame k f1)
    let c2 := frameChan (physFrame k f2)
    (f1 ≠ f2 → c1 = c2 ∨ s.mmio.swapen = false ∨ rackFree s x = false ∨ k.lost = true → exec (.swapStart x f1 f2) s = .next s)
    ∧ (f1 ≠ f2 → x < 16 → f1 < 32768 → f2 < 32768 → c1 ≠ c2 → s.mmio.swapen = true → rackFree s x = true → k.lost = false →
      physFrame k f1 < 32768 → physFrame k f2 < 32768 → f1 ∉ k.parkQ → f2 ∉ k.parkQ → imbalanced s x c1 = true ∨ imbalanced s x c2 = true →
      exec (.swapStart x f1 f2) s = .next (if admits s (ctrKey 3 x 32)
        then send (modStack s x (fun k => { k with moving := some { f1 := f1, f2 := some f2, parkFrame := 0, row := 0, copying := false } })) me me (.swapDrainDone x)
        else refuseAdmission s (ctrKey 3 x 32)))
    ∧ (k.march = none → exec (.swapStart x 0 0) s = .next s)
    ∧ (k.march = some (c, b) → k.parkQ = [] → k.parkGone = [] → k.marching = false → sget 0 k.bank (64 * c + b) = 0 →
      (∀ i < 64, sget 0 k.bank (64 * c + i) ≠ 3) → rackFree s x = true →
      exec (.swapStart x 0 0) s = .next (parkNext (modStack s x (fun k => { k with
        parkQ := (List.range 16).map (fun j => logFrame k (32 * (16 * b + j) + c)), bank := sset 0 k.bank (64 * c + b) 1 })) x))
    ∧ (k.moving = none → exec (.swapDrainDone x) s = .next s ∧ exec (.swapRowCopy x) s = .next s)
    ∧ (k.moving = some m → m.copying = false → exec (.swapDrainDone x) s
        = .next (if moveBusy s x m then { s with timers := s.timers ++ [(s.clk + 16, .swapDrainDone x)] }
          else send (modStack s x (fun k => { k with moving := some { m with copying := true } })) me me (.swapRowCopy x)))
    ∧ (k.moving = some m → m.copying = true → admits s (ctrKey 3 x 32) = false → exec (.swapRowCopy x) s
        = .next (after (refuseAdmission s (ctrKey 3 x 32)) (11264 - (cycles s (x / 4)).toNat % 11264) (.swapRowCopy x)))
    ∧ (k.moving = some m → m.copying = true → admits s (ctrKey 3 x 32) = true → m.row + 1 < 16384 → exec (.swapRowCopy x) s
        = .next (send (modStack (charge s (ctrKey 3 x 32) 1) x (fun k => { k with moving := some { m with row := m.row + 1 } })) me me (.swapRowCopy x)))
    ∧ (k.moving = some m → m.copying = true → admits s (ctrKey 3 x 32) = true → m.row + 1 = 16384 → m.f2 = some f2 → m.f1 ≠ f2 →
      k.held = [] → k.march = none →
      ∃ t, exec (.swapRowCopy x) s = .next t ∧ (stackAt t x).moving = none ∧ physFrame (stackAt t x) m.f1 = physFrame k f2
        ∧ physFrame (stackAt t x) f2 = physFrame k m.f1 ∧ ∀ f, f ≠ m.f1 → f ≠ f2 → physFrame (stackAt t x) f = physFrame k f)
    ∧ (let bank := 64 * (v.toNat / 16 % 32) + v.toNat / 512 % 64
       let y := stackAt s (v.toNat % 16)
       (s.mmio.marchen = false ∨ y.march.isSome = true ∨ sget 0 y.bank bank ≠ 0 → exec (.marchreq v) s = .next s)
       ∧ (s.fw.safe = false → s.mmio.marchen = true → y.march = none → sget 0 y.bank bank = 0 →
        exec (.marchreq v) s = .next (send (modStack s (v.toNat % 16) (fun k => { k with march := some (bank / 64, bank % 64) }))
          (stackAgent (v.toNat % 16)) (stackAgent (v.toNat % 16)) (.swapStart (v.toNat % 16) 0 0))))
    ∧ (k.march = none ∨ k.marching = false → exec (.bankMarchEnd x true) s = .next s ∧ exec (.bankMarchEnd x false) s = .next s)
    ∧ (k.march = some (c, b) → k.marching = true →
      exec (.bankMarchEnd x true) s
        = .next (parkNext (modStack s x (fun k => { k with marching := false, bank := sset 0 k.bank (64 * c + b) 1 })) x)
      ∧ ∃ t, exec (.bankMarchEnd x false) s = .next t ∧ (stackAt t x).marching = false ∧ (stackAt t x).march = none
        ∧ sget 0 (stackAt t x).bank (64 * c + b) = 3 ∧ (stackAt t x).remap = k.remap)

/-! ### Queues and packets (R336 to R343) -/

/-- R336, R337, R345: a doorbell sets WPTR, and OVERRUN stops an enabled queue rung past its ring; any other doorbell of an enabled queue sets
FPEND.DOOR of its die, a queue that holds no slot joins its wait list, and where no firmware of its own runs the model's serves it at once; a
descriptor's fields change while it is disabled, EN is set where the ring is legal, and EN ← 0 stops the queue, at once or at its packet's end. In
the safe state both are inert (R450), a doorbell and a descriptor write by the model's reading.
Readings and choices of the model in it: logs 26, 85.
The forms that it says answer a next state: doorbell, queueDescWrite. -/
def Obligations.DoorbellsAndDescriptors : Prop :=
  ∀ (s : State) (q off i : Nat) (v : BitVec 32) (w : BitVec 64) (h : HSlot),
    let n := descAt s q
    let rung := putDesc s q (setField n 159 128 v.toNat)
    let told := pendDie rung (qDie n) 0x10
    let joined := joinWait told q
    let ahead := (v - BitVec.ofNat 32 (qRptr n)).toNat
    let off_ := leaveWait (putDesc s q (setField n 72 72 0)) q
    (s.fw.safe = true ∨ 16384 ≤ q → exec (.doorbell q v) s = .next s ∧ exec (.queueDescWrite q off w) s = .next s)
    ∧ (off % 8 ≠ 0 ∨ 64 ≤ off → exec (.queueDescWrite q off w) s = .next s)
    ∧ (s.fw.safe = false → q < 16384 →
      (qEn n = false → exec (.doorbell q v) s = .next rung)
      ∧ (qEn n = true → 2 ^ qLsize n < ahead → exec (.doorbell q v) s = .next (dispatchAll (queueError rung q 4)))
      ∧ (qEn n = true → ahead ≤ 2 ^ qLsize n → (slotOf told q).isSome = true → exec (.doorbell q v) s = .next (dispatchAll told))
      ∧ (qEn n = true → ahead ≤ 2 ^ qLsize n → slotOf told q = none → exec (.doorbell q v) s
          = .next (dispatchAll (if firmwareIdle joined (qDie n) then serveQueues joined (qDie n) else joined)))
      ∧ (qEn n = true → off ≠ 8 ∨ w.getLsbD 8 = true → exec (.queueDescWrite q off w) s = .next s)
      ∧ (qEn n = true → w.getLsbD 8 = false → slotOf off_ q = none → exec (.queueDescWrite q 8 w) s = .next off_)
      ∧ (qEn n = true → w.getLsbD 8 = false → slotOf off_ q = some i → aget off_.hslots i = some h →
          exec (.queueDescWrite q 8 w) s = .next (if h.consuming then off_ else dispatchAll (dropSlot off_ i)))
      ∧ (qEn n = false → off % 8 = 0 → off < 64 → off ≠ 8 → exec (.queueDescWrite q off w) s
          = .next (putDesc s q (maskWrite n (off / 8) (descMask (off / 8)) w.toNat)))
      ∧ (qEn n = false → let m := maskWrite n 1 (descMask 1) w.toNat
          exec (.queueDescWrite q 8 w) s
            = .next (putDesc s q (if w.getLsbD 8 && ringLegal m then setField (setField m 167 160 0) 72 72 1 else m))))

/-- R338 to R341, R343: a packet is checked in order, each breach being its queue error; LAUNCH refuses with a status or starts its grid; COPY
starts a copy; SIGNAL and MARKER wait for what holds their location, store and complete; WAIT completes when its condition holds, or has held when
it was read again, else gives its share back, is read again, and times out. That an illegal COPY descriptor is BADFIELD is the model's choice.
Readings and choices of the model in it: logs 72, 75, 90, 112.
The forms that it says answer a next state: launch, copyPacket, signal, wait, waitRecheck, waitTimeout, marker. -/
def Obligations.PacketSteps : Prop :=
  ∀ (s f s2 s3 : State) (slot e pk : Nat) (x : Start) (bs : List Byte) (raw : List Nat) (err : XErr × Nat)
    (rs : List (List Dword)) (res : Reservation) (gn : Nat) (p : Pkt),
    let fails := fun (z : State) (err : Nat) => dispatchAll (queueError z x.q err)
    let done := fun (z : State) => completePacket (takePacket z x) x.q x.n
    let va : Dword := BitVec.ofNat 64 (bytesField x.pk 15 8)
    let word := bytesField x.pk 23 16
    let pas := raw.map homePa
    let now := fun (z : State) => natOfBytes (raw.map (fun a => nowByte z (homePa a)))
    let z := cancel s (.waitRecheck slot)
    (∀ me ∈ packetSteps slot, aget s.hslots slot = none → exec me s = .next s)
    ∧ (∀ me ∈ packetSteps slot, packetReady s slot me x f → packetErr x.desc x.pk = some e → exec me s = .next (fails f e))
    ∧ (packetRuns s slot (.launch slot) x f → BitVec.ofNat 64 (bytesField x.pk 63 56) = (0 : Dword) →
      let g := gridOfImage x.pk x.pasid (some (x.q, x.n))
      let n := if badLaunch x.pk g then 0 else g.nroot
      (rootLines x.core g .unit n f = (.ok rs, s2) →
        (launchStatus s2 x.pk g rs ≠ 0 → exec (.launch slot) s = .next (done s2))
        ∧ (launchStatus s2 x.pk g rs = 0 → ctxParked s2 x.pasid = false → reserve s2 (withRoots g rs) = (res, s3) → res.status = 0 →
          (aget s3.gangs res.index).bind (·.grid) = some gn →
          exec (.launch slot) s = .next (commitGrid (dropReservation (takePacket s3 x) res.index) gn)))
      ∧ (rootLines x.core g .unit n f = (.error err, s2) →
        (earlyStatus (launchStatus s2 x.pk g []) = true → exec (.launch slot) s = .next (done s2))
        ∧ (earlyStatus (launchStatus s2 x.pk g []) = false → isFailure err.1 = false → exec (.launch slot) s = .next (retryPacket s2 slot))
        ∧ (launchStatus s2 x.pk g [] = 0 → isFailure err.1 = true → exec (.launch slot) s = .next (fails s2 5))))
    ∧ (packetRuns s slot (.launch slot) x f → bytesField x.pk 63 56 % 8 ≠ 0 → exec (.launch slot) s = .next (fails f 3))
    ∧ (packetRuns s slot (.copyPacket slot) x f → packetRead f x va 128 = (.ok bs, s2) →
      let ds := dwsOf (natOfBytes bs)
      let b := bytesField x.pk 16 16
      let d := if b = 0xFF then qDie x.desc else b
      let copy : Copy := {
        core := (vintnerOf s2 d).getD (64 * d), slot := 0, lane := 0xFF, batch := 0, uid := 0, desc := ds, st := 0, count := 0, pos := 0
        die := d, engine := 0, pasid := x.pasid, grid := none, pkt := some (x.q, x.n), fault := none, endOrder := 0 }
      ((cpyLegal ds || tcpyLegal ds) = false ∨ cpyDone ds ≠ 0 ∨ cpyDep ds ≠ 0 → exec (.copyPacket slot) s = .next (fails s2 3))
      ∧ ((cpyLegal ds || tcpyLegal ds) = true → cpyDone ds = 0 → cpyDep ds = 0 → exec (.copyPacket slot) s
          = .next (dispatchAll (enterCopy (takePacket s2 x) copy))))
    ∧ (packetRuns s slot (.signal slot) x f → engineAddrs f x.core x.pasid va 8 true = (.ok raw, s2) →
      (unitWriteWaits s2 pas = true → exec (.signal slot) s = .next (after s2 4 (.signal slot)))
      ∧ (unitWriteWaits s2 pas = false → bytesField x.pk 24 24 = 0 →
        exec (.signal slot) s = .next (done (performWrite s2 none (pas.zip (bytesOf 8 word)))))
      ∧ (unitWriteWaits s2 pas = false → bytesField x.pk 24 24 = 1 → unitRead s2 pas = none → exec (.signal slot) s = .next (after s2 4 (.signal slot)))
      ∧ (unitWriteWaits s2 pas = false → bytesField x.pk 24 24 = 1 → unitRead s2 pas = some s3 → poisonAt s3 pas = none →
        exec (.signal slot) s = .next (done (performWrite s3 none (pas.zip (bytesOf 8 ((now s3 + word) % 2 ^ 64)))))))
    ∧ (packetRuns s slot (.marker slot) x f → va = 0 → exec (.marker slot) s = .next (done f))
    ∧ (packetRuns s slot (.marker slot) x f → va ≠ 0 → engineAddrs f x.core x.pasid va 8 true = (.ok raw, s2) →
      exec (.marker slot) s = .next (if unitWriteWaits s2 pas then after s2 4 (.marker slot)
        else done (performWrite s2 none (pas.zip (bytesOf 8 (cycles f (qDie x.desc)).toNat)))))
    ∧ (packetRuns s slot (.wait slot) x f → ((waitAt f slot).map (·.pass)).getD false = true → exec (.wait slot) s = .next (done f))
    ∧ (packetRuns s slot (.wait slot) x f → ((waitAt f slot).map (·.pass)).getD false = false → packetRead f x va 8 = (.ok bs, s2) →
      (waitHolds x.pk (natOfBytes bs) = true → exec (.wait slot) s = .next (done s2))
      ∧ (waitHolds x.pk (natOfBytes bs) = false → bytesField x.pk 39 36 = 0 →
        exec (.wait slot) s = .next (dispatchAll (giveShare (after (atPacketBoundary { s2 with pkts := s2.pkts ++
          [{ q := x.q, n := x.n, irq := false, deadline := some 0, line := waitLine s2 x }] } slot) 1100 (.waitRecheck slot)) slot))))
    ∧ (∀ m, waitHolds x.pk m = (let y := (BitVec.ofNat 64 m &&& BitVec.ofNat 64 (bytesField x.pk 31 24)).toNat
        if bytesField x.pk 32 32 = 0 then y == word else if bytesField x.pk 32 32 = 1 then y != word else decide (word ≤ y)))
    ∧ (s.fw.safe = true → exec (.waitRecheck slot) s = .next s)
    ∧ (s.fw.safe = false → waitAt z slot = none → exec (.waitRecheck slot) s = .next (dispatchAll z))
    ∧ (s.fw.safe = false → waitAt z slot = some p → p.pass = true → exec (.waitRecheck slot) s = .next (dispatchAll z))
    ∧ (s.fw.safe = false → waitAt z slot = some p → p.pass = false → fetchPacket z p.q = (.ok pk, f) →
      let n := descAt z p.q
      queueRead f ((vintnerOf f (qDie n)).getD (64 * qDie n)) (qPasid n) (BitVec.ofNat 64 (bytesField pk 15 8)) 8 = (.ok bs, s2) →
      exec (.waitRecheck slot) s = .next (if waitHolds pk (natOfBytes bs) = true
        then dispatchAll { s2 with pkts := s2.pkts.map (fun x => if x = p then { x with pass := true } else x) }
        else after s2 1100 (.waitRecheck slot)))
    ∧ (waitAt s slot = some p →
      (p.pass = true ∨ p.deadline = some 0 → exec (.waitTimeout slot) s = .next s)
      ∧ (∀ d, p.pass = false → p.deadline = some d → d ≠ 0 → exec (.waitTimeout slot) s
          = .next (if s.clk < d then s else dispatchAll (queueError s p.q 7))))

/-- R342, R348, R352, R355: CTXOP creates a context in a free entry of the table, sets its slice, pre-empts, resumes and destroys it; a target that is
not created or is ending is the queue error CTXDEAD, a field of CREATE out of range BADFIELD; a pre-emption under way is waited for (the
model's reading), and one of a context that is on no core writes its save area's header at once.
Readings and choices of the model in it: logs 73, 74, 101, 113.
The forms that it says answer a next state: ctxopCreate, ctxopDestroy, ctxopSlice, ctxopPreempt, ctxopResume. -/
def Obligations.ContextPacketSteps : Prop :=
  ∀ (s f : State) (slot : Nat) (x : Start) (i : Nat) (c : Ctx),
    let fails := fun (z : State) (err : Nat) => dispatchAll (queueError z x.q err)
    let done := fun (z : State) => completePacket (takePacket z x) x.q x.n
    let target := bytesField x.pk 33 30
    (packetRuns s slot (.ctxopCreate slot) x f →
      let save := bytesField x.pk 23 16
      let slice := bytesField x.pk 27 24
      let drain := bytesField x.pk 29 28
      let stack := bytesField x.pk 47 40
      let size := bytesField x.pk 55 48
      let legal := ctxLive f target = false ∧ save % 4096 = 0 ∧ save + f.mmio.savesz ≤ hbmEnd ∧ stack % 4096 = 0 ∧ stack + size ≤ hbmEnd
        ∧ size ≠ 0 ∧ size % 32768 = 0 ∧ (slice = 0 ∨ 100 ≤ slice ∧ slice ≤ 1000000) ∧ drain ≠ 0
      let made : Ctx := { pasid := target, save := save, slice := if slice = 0 then 2000 else slice, drain := drain, stack := stack, stksz := size }
      (legal → freshKey f.ctxs 4096 0 = some i → exec (.ctxopCreate slot) s = .next (done { f with ctxs := aset f.ctxs i made }))
      ∧ (¬ legal ∨ freshKey f.ctxs 4096 0 = none → exec (.ctxopCreate slot) s = .next (fails f 3)))
    ∧ (∀ me ∈ [Instr.ctxopDestroy slot, .ctxopPreempt slot, .ctxopResume slot], packetRuns s slot me x f →
        ctxOf f target = none ∨ (ctxOf f target = some (i, c) ∧ (c.ending = true ∨ c.dying = true)) → exec me s = .next (fails f 6))
    ∧ (ctxOf f target = some (i, c) → c.ending = false → c.dying = false →
      (packetRuns s slot (.ctxopSlice slot) x f → bytesField x.pk 27 24 = 0 ∨ 100 ≤ bytesField x.pk 27 24 ∧ bytesField x.pk 27 24 ≤ 1000000 →
        exec (.ctxopSlice slot) s = .next (done (modCtx f i (fun c => { c with slice := if bytesField x.pk 27 24 = 0 then 2000 else bytesField x.pk 27 24 }))))
      ∧ (packetRuns s slot (.ctxopResume slot) x f → exec (.ctxopResume slot) s = .next (done (modCtx f i (fun c => { c with preempted := false }))))
      ∧ (packetRuns s slot (.ctxopPreempt slot) x f → c.pre = none →
        let y := takePacket f x
        let now := (ctxDies y c.pasid).filter (fun d => decide (d ∉ c.atQ))
        let leaves := fun (pre : Option (Nat × Nat)) => modCtx y i (fun c => { c with
          preempted := true, ends := now.foldl (fun m d => aset m d (min y.clk (sget y.clk c.ends d))) c.ends, pre := pre })
        ((ctxCores y c.pasid).isEmpty = false ∨ c.stopping.isSome = true ∨ c.atQ ≠ [] →
          exec (.ctxopPreempt slot) s = .next (dispatchAll (stopContext (cancel (leaves (some (x.q, x.n))) (.sliceEnd c.pasid)) c.pasid)))
        ∧ ((ctxCores y c.pasid).isEmpty = true → c.stopping = none → c.atQ = [] →
          exec (.ctxopPreempt slot) s = .next (completePacket (writeSave (leaves none) c []) x.q x.n)))
      ∧ (∀ me ∈ [Instr.ctxopDestroy slot, .ctxopPreempt slot], packetRuns s slot me x f → c.pre.isSome = true →
        exec me s = .next (dispatchAll (retryPacket f x.slot)))
      ∧ (packetRuns s slot (.ctxopDestroy slot) x f → c.pre = none → (takePacket f x).grids = [] →
        exec (.ctxopDestroy slot) s = .next (dispatchAll (send (modCtx (takePacket f x) i (fun c => { c with
          ending := true, saved := [], pre := some (x.q, x.n), stopping := none, atQ := [] }))
          (engineAgent 0) (engineAgent 0) (.teardownFinish c.pasid)))))

/-! ### Grids, slices, faults and translations (R340, R348, R352 to R359, R369 to R378) -/

/-- R340, R348, R352, R353, R358, R359: a started grid whose live counter is 0 completes, its stash lines written back, with its word, 0 or 7 with the
fault code, once that can be written; each die pushes its roots once at TS; the firmware timer sets FPEND.TIMER each 10 µs and the slice scheduler
runs; a slice that ends on a die stops its context there if another waits, else the next begins at its end, and goes on where a program holds
the die's queues (R456); an acknowledgement counts when its class has stopped; faults enter the queue when there is room; an answer resumes the agent or aborts it.
Readings and choices of the model in it: logs 26, 85, 90, 117.
The forms that it says answer a next state: gridCompletion, gangRootPush, firmwareTimer, sliceEnd, stopAck, faultQueuePost, frdone,
priResponse. -/
def Obligations.GridSliceAndFaultSteps : Prop :=
  ∀ (s : State) (gn d p c cls id : Nat) (x : Grid) (i : Nat) (k : Ctx) (v : BitVec 64) (ok : Bool) (e : FaultEnt),
    (gridAt s gn = none → exec (.gridCompletion gn) s = .next s ∧ exec (.gangRootPush gn d) s = .next s)
    ∧ (gridAt s gn = some x →
      (x.started = false ∨ x.glive ≠ 0 ∨ (x.aborted.isSome = true ∧ gridQuiet s gn = false) → exec (.gridCompletion gn) s = .next s)
      ∧ (x.started = true → x.glive = 0 → x.aborted = none ∨ gridQuiet s gn = true →
        (gridBusy s x = true → exec (.gridCompletion gn) s = .next { s with timers := s.timers ++ [(s.clk + 16, .gridCompletion gn)] })
        ∧ (gridBusy s x = false →
          ∀ w written, writeDone ((boundCores s gn).foldl (fun s c => writeBack s c ((coreAt s c).stashLines.map (·.line))) s) x
              (match x.aborted with | none => 0 | some f => 7 + 2 ^ 16 * f) = (written, w) →
          let z := (boundCores (forgetSaved w gn) gn).foldl unbindCore (forgetSaved w gn)
          let gone : State := { z with
            grids := adel z.grids gn, copies := z.copies.filter (fun e => !(e.2.grid == some gn))
            clusters := z.clusters.filter (fun e => !(e.2.grid == gn)) }
          let y := bindMore gone
          exec (.gridCompletion gn) s = .next (if written = false then after w 1100 (.gridCompletion gn)
            else match x.pkt with | none => dispatchAll y | some (q, n) => completePacket (dispatchAll y) q n)))
      ∧ (d ∈ x.pushed ∨ x.aborted.isSome = true → exec (.gangRootPush gn d) s = .next s)
      ∧ (d ∉ x.pushed → x.aborted = none → exec (.gangRootPush gn d) s
          = .next (if (cycles s d).toNat < x.ts then { s with timers := s.timers ++ [(s.clk + 1, .gangRootPush gn d)] }
            else pushRoots (modGrid s gn (fun x => { x with pushed := d :: x.pushed })) gn d)))
    ∧ (s.fw.safe = true ∨ timerSet s (.firmwareTimer d) = true → exec (.firmwareTimer d) s = .next s)
    ∧ (s.fw.safe = false → timerSet s (.firmwareTimer d) = false →
      let y := pendDie s d 0x80
      exec (.firmwareTimer d) s = .next (after (if firmwareIdle y d then commandFirmware y d else if schedulerRuns y d then sliceScheduler y else y)
        11000 (.firmwareTimer d)))
    ∧ (ctxOf s p = none → exec (.sliceEnd p) s = .next s)
    ∧ (ctxOf s p = some (i, k) →
      let due := (ctxDies s p).filter (fun d => decide (sget 0 k.ends d ≤ s.clk + 1100 * k.drain) && decide (d ∉ k.atQ)
        && !(k.stopping.getD []).any (fun e => decide (dieOf e.1 = d)))
      (k.preempted = true ∨ due = [] → exec (.sliceEnd p) s = .next s)
      ∧ (k.preempted = false → due = [d] →
        exec (.sliceEnd p) s = .next (if schedulerRuns s d = false then postponeSlice s i d k
          else if othersWait s p d then stopDies s p [d] else sliceFrom s i d (sget 0 k.ends d))))
    ∧ (cls = 0 → coreStopped s c = false → exec (.stopAck c cls) s = .next s)
    ∧ (cls = 1 → (coreAt s c).engineStep.isSome = true → exec (.stopAck c cls) s = .next s)
    ∧ (cls = 5 → collectivesOut s c = true → exec (.stopAck c cls) s = .next { s with timers := s.timers ++ [(s.clk + 16, .stopAck c cls)] })
    ∧ ((cls = 0 → coreStopped s c = true) → (cls = 1 → (coreAt s c).engineStep = none) → (cls = 5 → collectivesOut s c = false) →
      exec (.stopAck c cls) s = .next (collectAck s c cls))
    ∧ ((dieAt s d).faultWait = [] → (dieAt s d).faultQ = [] → exec (.faultQueuePost d) s = .next s)
    ∧ ((dieAt s d).faultWait = [e] → (dieAt s d).faultQ = [] → atsFault s e = false → inHost s.mmio.frbase = false →
      ∃ t, exec (.faultQueuePost d) s = .next t ∧ (dieAt t d).faultQ = [e] ∧ (dieAt t d).faultWait = []
        ∧ ∀ y, vintnerOf s d = some y → (coreAt t y).fpend.getLsbD 5 = true)
    ∧ ((dieAt s d).faultWait = [] → (dieAt s d).faultQ = [e] → atsFault s e = false → inHost s.mmio.frbase = true → aget s.ring (s.ringNext % 1024) = none →
      let y := modDie s d (fun x => { x with faultQ := [] })
      exec (.faultQueuePost d) s = .next (send (performWrite { y with ring := aset s.ring (s.ringNext % 1024) e, ringNext := s.ringNext + 1 } none
        (bytesAt (s.mmio.frbase + 64 * (s.ringNext % 1024)) (entryBytes e))) (engineAgent d) (engineAgent d) (.faultQueuePost d)))
    ∧ (s.fw.safe = true ∨ v.toNat / 2 ^ 11 ≠ 0 ∨ aget s.ring (v.toNat % 1024) = none → exec (.frdone v) s = .next s)
    ∧ (s.fw.safe = false → v.toNat / 2 ^ 11 = 0 → aget s.ring (v.toNat % 1024) = some e →
      let y := forwardFaults { s with ring := adel s.ring (v.toNat % 1024) }
      exec (.frdone v) s = .next (if v.getLsbD 10 then resumeAgent y e else refuseAgent y e))
    ∧ (aget s.pri id = none → exec (.priResponse id ok) s = .next s)
    ∧ (aget s.pri id = some (1, e) →
      let y := cancel { s with pri := adel s.pri id } (.atsTagTimeout (1024 + id))
      (ctxServed y e.pasid = false → exec (.priResponse id ok) s = .next y)
      ∧ (ctxServed y e.pasid = true → exec (.priResponse id ok) s = .next (forwardFaults (if ok then resumeAgent y e else refuseAgent y e))))

/-- R369, R371, R373, R374, R377, R378: an ATS answer for a present page fills the asking die's ATC, one for a page that is not present is
kept for the accesses that asked, for 100 µs at most; a tag that times out no longer counts, and an answer to it is discarded; the host's
invalidation of one page removes its translations, and completes once the chunks and the stores beyond the package that used them are over; a walk
fills the TLB with its leaf; a context's teardown waits for its grids, for its invalidation and for its tags, then frees its entry.
Readings and choices of the model in it: logs 7, 76, 90, 102.
The forms that it says answer a next state: atsCompletion, atsTagTimeout, atsInvalidate, pageWalk, teardownFinish. -/
def Obligations.TranslationAndTeardownSteps : Prop :=
  ∀ (s : State) (tag page c p va lvl : Nat) (rd w x : Bool) (bus : Option (Nat × Bool)) (r : AtsReq) (a : Dword) (root : Nat) (leaf : Dword)
    (at_ : Nat) (i : Nat) (k : Ctx),
    let answered := cancel { s with ats := adel s.ats tag } (.atsTagTimeout tag)
    (aget s.ats tag = none → exec (.atsCompletion tag bus w x) s = .next s)
    ∧ (aget s.ats tag = some r → r.out = false ∨ ctxServed answered r.pasid = false → exec (.atsCompletion tag bus w x) s = .next answered)
    ∧ (aget s.ats tag = some r → r.out = true → ctxServed answered r.pasid = true →
      (∃ t, exec (.atsCompletion tag (some (page, rd)) w x) s = .next t ∧ aget t.ats tag = none ∧ (dieAt t (dieOf r.core)).atc.length ≤ 8192
        ∧ (dieAt t (dieOf r.core)).atc.getLast?
          = some { pasid := r.pasid, va := r.page, lvl := 0, leaf := 0, ats := some { page := page, r := rd, w := w, x := x } })
      ∧ (r.who = [] → exec (.atsCompletion tag none w x) s = .next answered)
      ∧ (r.who ≠ [] → exec (.atsCompletion tag none w x) s
          = .next (after { answered with ats := aset answered.ats tag { r with out := false, absent := true } } 110000 (.atsTagTimeout tag))))
    ∧ (timerSet s (.atsTagTimeout tag) = false → tag < 1024 → aget s.ats tag = some r →
      exec (.atsTagTimeout tag) s = .next { s with ats := if r.out then aset s.ats tag { r with out := false } else adel s.ats tag })
    ∧ (timerSet s (.atsTagTimeout tag) = true → exec (.atsTagTimeout tag) s = .next s)
    ∧ ((∀ e ∈ s.atsInv, e.1 ≠ (p, va, 0)) → exec (.atsInvalidate p va 0) s = .next { s with invSent := (p, va, 0) :: s.invSent })
    ∧ (let y := invalidateTlb s (256, 0) { kind := 0, pasid := p, va := va }
      (∀ e ∈ s.atsInv, e.1 ≠ (p, va, 1)) → (∀ e ∈ y.1.atsInv, e.1 ≠ (p, va, 1)) → timerSet y.1 (.atsInvalidate p va 1) = false →
      (invOver y.1 y.2 = true → exec (.atsInvalidate p va 1) s = .next { y.1 with invSent := (p, va, 1) :: y.1.invSent })
      ∧ (invOver y.1 y.2 = false → exec (.atsInvalidate p va 1) s
          = .next { y.1 with atsInv := y.1.atsInv ++ [((p, va, 1), y.2)]
                             timers := y.1.timers ++ [(y.1.clk + 64, .atsInvalidate p va 1)] }))
    ∧ (∀ z, s.atsInv = [((p, va, 1), z)] → timerSet s (.atsInvalidate p va 1) = false → invOver s z = true →
      exec (.atsInvalidate p va 1) s = .next { s with atsInv := [], invSent := (p, va, 1) :: s.invSent })
    ∧ (canonical a = true → p ≠ 0 → pasidRoot s p = some root → ∃ t, exec (.pageWalk c p a) s = .next t ∧ t.mem = s.mem
      ∧ (walkFrom s (a.toNat % 2 ^ 57) 5 4 root = .ok (leaf, lvl, at_) →
        let e : TlbEnt := { pasid := p, va := a.toNat % 2 ^ 57 / 4096, lvl := lvl, leaf := leaf, ats := none }
        (coreAt t c).tlb1.head? = some e ∧ (coreAt t c).tlb1.length ≤ 64 ∧ (lvl < 2 → (coreAt t c).tlb2.head? = some e)))
    ∧ (canonical a = false → exec (.pageWalk c p a) s = .next s)
    ∧ (ctxOf s p = some (i, k) →
      let again := fun (z : State) => after (cancel z (.teardownFinish p)) 64 (.teardownFinish p)
      (k.ending = false → exec (.teardownFinish p) s = .next s)
      ∧ (k.ending = true → k.dying = false → exec (.teardownFinish p) s
          = .next (if s.grids.any (fun e => e.2.pasid == p) then again s else again (startTeardown s i p)))
      ∧ (k.ending = true → k.dying = true → (k.inval.map (invOver s)).getD true = false ∨ tagsDone s p = false →
        exec (.teardownFinish p) s = .next (again s))
      ∧ (k.ending = true → k.dying = true → (k.inval.map (invOver s)).getD true = true → tagsDone s p = true → (∀ e ∈ s.copies, e.2.pasid = p → e.2.st ≠ 1) → k.pre = none →
        ∃ t, exec (.teardownFinish p) s = .next t ∧ aget t.ctxs i = none ∧ ∀ e ∈ t.copies, e.2.pasid ≠ p))

/-! ### Landing rings and registers (R11, R335, R360 to R363, R386) -/

/-- R11, R335, R360 to R363, R386: a packet lands in a ring with room, line by line, its last writes being PIDX in the header and in the descriptor,
and with KEYEN as AES-256-GCM decrypts it if its tag passes; it waits where a commit holds the header line; a full ring drops it, overwrites its oldest, or
holds it while the port's buffer has room; both loss counters count what is lost; a ring's descriptor changes while it is disabled; a key command loads or clears
the addressed entry and leaves the staging registers zero; the registers named take their writable bits, and a write that is not 4 or 8 aligned
bytes does nothing. That bytes 10 to 15 of a slot's first line are zero is the model's choice.
Readings and choices of the model in it: logs 10, 12, 77, 78, 79, 85, 90, 100.
The forms that it says answer a next state: landingPacket, landingRetry, landingDescWrite, mlctlWrite, keycmdLoad, keycmdClear,
keycmdDone, registerWrite. -/
def Obligations.LandingAndRegisterSteps : Prop :=
  ∀ (s z : State) (ring off size : Nat) (hdr bs : List (BitVec 8)) (tag : BitVec 128) (seq v : BitVec 64) (fm : Bool) (a : Nat) (line : List Byte)
    (rest : List (Nat × List Byte)),
    let n := ringDesc s ring
    let len := lrSlotl n * 128 - 16
    let lost := fun (y : State) (k : Nat) => ctrAdd (ctrAdd y (ctrKey 4 0 ring) 1) (ctrKey 4 1 ring) k
    let writes := fun (o : Nat) (x : Nat) => exec (.registerWrite o 8 (BitVec.ofNat 64 x) fm) s
    let arrive := Instr.landingPacket ring ⟨hdr, bs, tag⟩ seq
    (s.fw.safe = false → ring < 8192 → aget s.landing ring = none → (∀ e ∈ s.ingress, e.1 ≠ ring) →
      (lrEn n = false ∨ openPacket s n ⟨hdr, bs, tag⟩ seq = none → exec arrive s = .next (lost s bs.length))
      ∧ (∀ p, lrEn n = true → openPacket s n ⟨hdr, bs, tag⟩ seq = some p →
        (len < p.length → exec arrive s = .next (lost s p.length))
        ∧ (p.length ≤ len → unitRead s [lrBase n] = none → exec arrive s
            = .next (after { s with ingress := (ring, p) :: s.ingress } 4 (.landingRetry ring)))
        ∧ (p.length ≤ len → unitRead s [lrBase n] = some z →
          let lands := fun (y : State) (first : List (Nat × List Byte)) => send { y with landing := aset y.landing ring (first ++ landWrites n p ++
            [(y.mmio.rtbase + 64 * ring + 16, bytesOf 8 (lrPidx n + 1))]) } 9001 (engineAgent 4) (.landingRetry ring)
          let old := lrPidx n - 2 ^ lrLslot n
          let ousted := if ringCidx z n ≤ old then lost z (memNat z (lrBase n + 128 * (1 + lrPidx n % 2 ^ lrLslot n * lrSlotl n) + 8) 2) else z
          (ringFull z n = false → exec arrive s = .next (lands z []))
          ∧ (ringFull z n = true → lrPolicy n = 1 → exec arrive s
              = .next (lands ousted [(ousted.mmio.rtbase + 64 * ring + 24, bytesOf 8 (old + 1))]))
          ∧ (ringFull z n = true → lrPolicy n = 0 → exec arrive s = .next (lost z p.length))
          ∧ (ringFull z n = true → lrPolicy n = 2 → ingressRoom z n p.length = false → exec arrive s = .next (lost z p.length))
          ∧ (ringFull z n = true → lrPolicy n = 2 → ingressRoom z n p.length = true → exec arrive s
              = .next (after { z with ingress := (ring, p) :: z.ingress } 1100 (.landingRetry ring))))))
    ∧ (lrKeyen n = false → openPacket s n ⟨hdr, bs, tag⟩ seq = some bs)
    ∧ (lrKeyen n = true → openPacket s n ⟨hdr, bs, tag⟩ seq = (aget s.keys.entries (lrKey n)).bind (fun ks =>
        gcmDecrypt ((ks.take 4).flatMap (fun w => bytesOf 8 w.toNat)) (bytesOf 4 (ks.getD 4 0).toNat ++ bytesOf 8 seq.toNat) hdr bs
          (bytesOf 16 tag.toNat)))
    ∧ (s.fw.safe = true → exec arrive s = .next s ∧ exec (.landingDescWrite ring off v) s = .next s ∧ exec (.landingRetry ring) s = .next s)
    ∧ (landWrites n bs = [(lrBase n + 128 * (1 + lrPidx n % 2 ^ lrLslot n * lrSlotl n), bytesOf 8 (2 ^ 63 + lrPidx n) ++ bytesOf 2 bs.length
          ++ List.replicate 6 0 ++ bs.take 112)]
        ++ (List.range (((bs.drop 112).length + 127) / 128)).map (fun i =>
          (lrBase n + 128 * (1 + lrPidx n % 2 ^ lrLslot n * lrSlotl n) + 128 * (i + 1), ((bs.drop 112).drop (128 * i)).take 128))
        ++ [(lrBase n + 128 * (1 + lrPidx n % 2 ^ lrLslot n * lrSlotl n), bytesOf 8 (lrPidx n) ++ bytesOf 2 bs.length ++ List.replicate 6 0
              ++ bs.take 112), (lrBase n, bytesOf 8 (lrPidx n + 1))])
    ∧ (s.fw.safe = false → aget s.landing ring = some ((a, line) :: rest) → writeHeld s [a / 128] = true →
      exec (.landingRetry ring) s = .next (after (cancel s (.landingRetry ring)) 4 (.landingRetry ring)))
    ∧ (s.fw.safe = false → aget s.landing ring = some ((a, line) :: rest) → writeHeld s [a / 128] = false → rest ≠ [] →
      let y := performWrite s none (bytesAt a line)
      exec (.landingRetry ring) s = .next (send { y with landing := aset y.landing ring rest } 9001 (engineAgent 4) (.landingRetry ring)))
    ∧ (s.fw.safe = false → 8192 ≤ ring ∨ off % 8 ≠ 0 ∨ 16 ≤ off → exec (.landingDescWrite ring off v) s = .next s)
    ∧ (s.fw.safe = false → ring < 8192 → lrEn n = true →
      exec (.landingDescWrite ring 8 v) s = .next (if v.getLsbD 19 then s else putRing s ring (setField n 83 83 0))
      ∧ exec (.landingDescWrite ring 0 v) s = .next s)
    ∧ (s.fw.safe = false → ring < 8192 → lrEn n = false →
      exec (.landingDescWrite ring 0 v) s = .next (putRing s ring (maskWrite n 0 (2 ^ 64 - 1) v.toNat))
      ∧ (let m := maskWrite n 1 0x7FFFF v.toNat
        exec (.landingDescWrite ring 8 v) s = .next (putRing s ring (if v.getLsbD 19 && ringOk s ring m then setField m 83 83 1 else m))))
    ∧ (s.fw.safe = false → ∃ t, exec (.mlctlWrite v) s = .next t ∧ t.mmio = { s.mmio with mlen := v.getLsbD 0 } ∧ t.mem = s.mem)
    ∧ (s.fw.safe = false → s.keys.busy = false →
      let entry := [sget 0 s.keys.w 0, sget 0 s.keys.w 1, sget 0 s.keys.w 2, sget 0 s.keys.w 3, s.keys.salt.setWidth 64]
      (∃ t, exec .keycmdLoad s = .next t ∧ aget t.keys.entries s.keys.idx.toNat = some entry ∧ t.keys.w = [] ∧ t.keys.salt = 0
        ∧ t.keys.busy = true ∧ (∀ j, j ≠ s.keys.idx.toNat → aget t.keys.entries j = aget s.keys.entries j))
      ∧ (∃ t, exec .keycmdClear s = .next t ∧ aget t.keys.entries s.keys.idx.toNat = none ∧ t.keys.w = [] ∧ t.keys.salt = 0 ∧ t.keys.busy = true))
    ∧ (s.keys.busy = true → exec .keycmdLoad s = .next s ∧ exec .keycmdClear s = .next s)
    ∧ (∃ t, exec .keycmdDone s = .next t ∧ t.keys = { s.keys with busy := false })
    ∧ ((size ≠ 4 ∧ size ≠ 8) ∨ off % size ≠ 0 ∨ 0x100000000 ≤ off → exec (.registerWrite off size v fm) s = .next s)
    ∧ (s.fw.safe = true → off < 0x5100 ∨ 0x5148 ≤ off → exec (.registerWrite off size v fm) s = .next s)
    ∧ (s.fw.safe = false →
      (anyQueueOn s = false → ∀ x < 2 ^ 64, writes 0x2000 x = .next { s with mmio := { s.mmio with qtbase := x / 4096 * 4096 } })
      ∧ (anyQueueOn s = true → ∀ x < 2 ^ 64, writes 0x2000 x = .next s)
      ∧ (∀ x < 2 ^ 64, writes 0x1000 x = .next (if x / 2 ^ 12 % 2 = 1 then { s with mmio := { s.mmio with unprot := false } } else s))
      ∧ (∀ x < 2 ^ 64, writes 0x2050 x = .next { s with mmio := { s.mmio with
          swapen := x % 2 == 1, marchen := x / 2 % 2 == 1, imb := BitVec.ofNat 8 (x / 2 ^ 8) } })
      ∧ (∀ o ∈ [0x2028, 0x2040, 0x3038, 0x4000, 0x4100, 0x6000, 0x100000, 0x300000, 0x10000000], ∀ x < 2 ^ 64, writes o x = .next s)
      ∧ (fm = false → ∀ o ∈ [0x5000, 0x5010, 0x5018, 0x5020, 0x5028, 0x5030, 0x5040, 0x5048, 0x5050], ∀ x < 2 ^ 64, writes o x = .next s))

/-! ### Resets, boot, firmware services and fatal errors (R444 to R464) -/

/-- R447 to R450, R456: power-on reset keeps the flash and zeroes everything else, and ends in the safe state or with a firmware group at the image's
entry on every vintner core; a hot reset boots again in the safe state, where a corked core stays corked and the cycle counters and
LIVEUPD keep their values (R19, R93, R451), else clears QHOLD; without power
only the flash is left. In every state the steps of the firmware block, of flash, mailbox, heartbeat and dump complete (R451, R453 to R458, R463).
Readings and choices of the model in it: logs 9, 81, 82.
The forms that it says answer a next state: powerOnReset, hotReset, imgchk, imageCheckDone, flashRead, flashProgram, flashErase,
flashOpDone, qhold, hbarm, hbeat, heartbeatTimeout, mbxStatus, mbxReset, mbxUpdate, fatalError, dumpTimeout, spdmRequest, powerOff. -/
def Obligations.ResetAndPowerSteps : Prop :=
  (∀ (s : State), let y := cutFlash s
     (∃ t, exec .powerOnReset s = .next t ∧ t.flash = y.flash ∧ t.power = true ∧ t.grids = [] ∧ t.hslots = [] ∧ t.keys = {} ∧ t.reds = []
       ∧ (t.fw.safe = true ∨ t.fw.stage = 7 ∧ t.fw.bslot.toNat ≤ 1 ∧ ∀ c < 256, (coreAt t c).role = 1 → ∃ g, groupAt t c 0 = some g
           ∧ g.fmode = true ∧ g.a = 256 ∧ g.r.k = [] ∧ g.r.v = []
           ∧ ∀ l < 32, sget 0 g.r.pc l = BitVec.ofNat 57 (fwRegion + flashNat t (0x1000000 * t.fw.bslot.toNat + 24) 8)))
     ∧ (s.fw.safe = true → ∃ t, exec .hotReset s = .next t ∧ t = boot y (corkedCores s) false ∧ t.flash = y.flash
       ∧ t.clk = s.clk ∧ t.fw.liveupd = s.fw.liveupd
       ∧ (t.fw.safe = false → ∀ c, (coreAt s c).role = 3 → (coreAt t c).role = 3 ∧ groupAt t c 0 = none))
     ∧ (∃ t, exec .powerOnReset s = .next t ∧ t.clk = 0 ∧ t.fw.liveupd = false)
     ∧ (s.fw.safe = false → exec .hotReset s = .next (dispatchAll { s with fw := { s.fw with qhold := 0 } }))
     ∧ (∃ t, exec .powerOff s = .next t ∧ t.flash = y.flash ∧ t.power = false ∧ t.mem = [] ∧ t.cores = [] ∧ t.keys = {} ∧ t.timers = []))
  ∧ (∀ (s : State) (v : BitVec 64) (w : BitVec 32) (d i core cause : Nat),
      ∀ e ∈ [Instr.imgchk v, .imageCheckDone, .flashRead v, .flashProgram v, .flashErase v, .flashOpDone, .qhold w, .hbarm v, .hbeat d w,
          .heartbeatTimeout, .mbxStatus, .mbxReset, .mbxUpdate, .spdmRequest i, .fatalError core cause, .dumpTimeout],
        ∃ t, exec e s = .next t)

/-- R450, R451, R453 to R458, R463: an image check passes, or gives its error, 4 ms after IMGCHK; a flash descriptor is refused with its error or runs for
10 ms, and then has read, programmed with FF beyond LEN, or erased whole sectors; HBARM arms the heartbeat watch, HBEAT of all vintner dies ends it,
its expiry rolls back; the mailbox is Sirmel's in the safe state and the firmware's else; a fatal error stops the compute cores for the dump; its
time-out is the safe state.
Readings and choices of the model in it: logs 9, 44, 81, 83, 84, 85, 87, 91.
The forms that it says answer a next state: imgchk, imageCheckDone, flashRead, flashProgram, flashErase, flashOpDone, qhold, hbarm, hbeat,
heartbeatTimeout, mbxStatus, mbxReset, mbxUpdate, fatalError, dumpTimeout, spdmRequest. -/
def Obligations.FirmwareServiceSteps : Prop :=
  ∀ (s : State) (v : BitVec 64) (w : BitVec 32) (a d op fa ma len core cause : Nat) (k : Core),
    let flashes := [(Instr.flashRead v, 1), (.flashProgram v, 2), (.flashErase v, 3)]
    let ended := cancel s .flashOpDone
    (s.fw.safe = true → exec (.imgchk v) s = .next s ∧ (∀ e ∈ flashes, exec e.1 s = .next s) ∧ exec (.qhold w) s = .next s ∧ exec (.hbarm v) s = .next s
      ∧ exec (.hbeat d w) s = .next s)
    ∧ (s.fw.safe = false → s.fw.imgBusy = none → exec (.imgchk v) s
        = .next (after { s with fw := { s.fw with imgBusy := some v.toNat } } 4400000 .imageCheckDone))
    ∧ (s.fw.imgBusy.isSome = true → exec (.imgchk v) s = .next s)
    ∧ (s.fw.imgBusy = some a → ∃ t, exec .imageCheckDone s = .next t ∧ t.fw.imgBusy = none ∧ (t.fw.imgPass = true ↔ t.fw.imgErr = 0)
        ∧ (t.fw.imgPass = false → t.fw.digest2 = s.fw.digest2)
        ∧ ((∀ l, needsRebuild s l = false ∧ isPoisoned s l = false) → t.fw.imgErr = imageErr (fun i => memByte s (a + i))))
    ∧ (s.fw.safe = false → s.fw.flOp = none →
      (flashCheck s v.toNat ≠ 0 → ∀ e ∈ flashes, (flashDesc s v.toNat).1 = 0 ∨ (flashDesc s v.toNat).1 = e.2 → exec e.1 s
          = .next { s with fw := { s.fw with flErr := flashCheck s v.toNat } })
      ∧ (flashCheck s v.toNat = 0 → ∀ e ∈ flashes, (flashDesc s v.toNat).1 = e.2 → exec e.1 s
          = .next (after { s with fw := { s.fw with flOp := some (flashDesc s v.toNat), flErr := 0 } } 11000000 .flashOpDone))
      ∧ (∀ e ∈ flashes, 1 ≤ (flashDesc s v.toNat).1 → (flashDesc s v.toNat).1 ≤ 3 → (flashDesc s v.toNat).1 ≠ e.2 → exec e.1 s = .next s))
    ∧ (s.fw.flOp.isSome = true → ∀ e ∈ flashes, exec e.1 s = .next s)
    ∧ (s.fw.flOp = some (1, fa, ma, len) → exec .flashOpDone s = .next (performWrite { ended with fw := { s.fw with flOp := none } } none
        (bytesAt ma ((List.range len).map (fun i => flashByte s (fa + i))))))
    ∧ (s.fw.flOp = some (op, fa, ma, len) → op = 2 ∨ op = 3 → ∃ t, exec .flashOpDone s = .next t ∧ t.fw.flOp = none ∧ t.mem = s.mem
        ∧ (t.fw.flErr = 3 ∨ ∀ i < 4096 * ((len + 4095) / 4096), flashByte t (fa + i) = if op = 2 ∧ i < len then memByte s (ma + i) else 0xFF)
        ∧ ∀ b, b < fa ∨ fa + 4096 * ((len + 4095) / 4096) ≤ b → flashByte t b = flashByte s b)
    ∧ (s.fw.safe = false → exec (.qhold w) s = .next (dispatchAll { s with fw := { s.fw with qhold := w.setWidth 4 } }))
    ∧ (s.fw.safe = false →
      let tmo := v.toNat / 2 ^ 32 % 2 ^ 16
      (loWord v = 0 ∨ tmo < 1 ∨ 1000 < tmo ∨ v.toNat / 2 ^ 48 ≠ 0 ∨ s.fw.armed = true → exec (.hbarm v) s = .next s)
      ∧ (loWord v ≠ 0 → 1 ≤ tmo → tmo ≤ 1000 → v.toNat / 2 ^ 48 = 0 → s.fw.armed = false → ∃ t, exec (.hbarm v) s = .next t
        ∧ t.fw = { s.fw with cookie := loWord v, tmo := tmo, beat := 0, ok := false, armed := true }
        ∧ t.timers = s.timers ++ [(s.clk + 1100000 * tmo, .heartbeatTimeout)]
        ∧ ∀ c ∈ vintners s, (coreAt t c).fpend.getLsbD 8 = true))
    ∧ (s.fw.safe = false →
      (s.fw.armed = false ∨ w ≠ s.fw.cookie ∨ 4 ≤ d → exec (.hbeat d w) s = .next s)
      ∧ (s.fw.armed = true → w = s.fw.cookie → d < 4 → let b := s.fw.beat ||| BitVec.ofNat 4 (2 ^ d)
        ∃ t, exec (.hbeat d w) s = .next t ∧ t.fw.beat = b
          ∧ (vintnerDies s &&& ~~~b = 0 → t.fw.ok = true ∧ t.fw.armed = false ∧ t.fw.liveupd = true ∧ t.fw.digest1 = s.fw.digest2
            ∧ timerSet t .heartbeatTimeout = false)
          ∧ (vintnerDies s &&& ~~~b ≠ 0 → t = { s with fw := { s.fw with beat := b } })))
    ∧ (timerSet s .heartbeatTimeout = true ∨ s.fw.armed = false → exec .heartbeatTimeout s = .next s)
    ∧ (timerSet s .heartbeatTimeout = false → s.fw.armed = true → let y := { s with fw := { s.fw with roll := true, armed := false } }
        exec .heartbeatTimeout s = .next (if s.fw.resume = 0 then fatalError y ((vintnerOf s 0).getD 0) 3 else restartVintners y none))
    ∧ (exec .mbxReset s = .next (boot (cutFlash s) (corkedCores s) false))
    ∧ (s.fw.safe = true → (∃ t, exec .mbxStatus s = .next t ∧ t.fw.mbxBusy = false ∧ t.fw.mbxStatus = (Config.freeWord s.free).setWidth 8
        ∧ ∀ i < 8, sget 0 t.fw.mbxOut i = Config.freeDword (s.free + i)) ∧ exec .mbxUpdate s = .next s)
    ∧ (s.fw.safe = false → let t := pendDie { s with fw := { s.fw with mbxBusy := true } } 0 0x100
        exec .mbxStatus s = .next t ∧ exec .mbxUpdate s = .next t)
    ∧ ((∃ t, exec (.spdmRequest 1) s = .next t ∧ t.fw.spdmOut.head? = some (1, s.fw.digest1))
      ∧ (∃ t, exec (.spdmRequest 2) s = .next t ∧ t.fw.spdmOut.head? = some (2, s.fw.digest2)))
    ∧ (s.fw.safe = true ∨ (coreAt s core).role ≠ 1 ∨ cause < 1 ∨ 3 < cause → exec (.fatalError core cause) s = .next s)
    ∧ (s.fw.safe = false → (coreAt s core).role = 1 → 1 ≤ cause → cause ≤ 3 → s.fw.dumping = none → ∃ t, exec (.fatalError core cause) s = .next t
        ∧ t.fw.dumping = some cause ∧ t.fw.dumpCore = core ∧ t.fw.armed = false ∧ (s.clk + 550000000, .dumpTimeout) ∈ t.timers
        ∧ (aget s.cores a = some k → k.role = 0 → (coreAt t a).stopReq = true))
    ∧ (s.fw.safe = false → (coreAt s core).role = 1 → 1 ≤ cause → cause ≤ 3 → s.fw.dumping.isSome = true → exec (.fatalError core cause) s = .next (enterSafe s 8))
    ∧ (timerSet s .dumpTimeout = true ∨ s.fw.dumping = none → exec .dumpTimeout s = .next s)
    ∧ (timerSet s .dumpTimeout = false → s.fw.dumping.isSome = true → ∃ t, exec .dumpTimeout s = .next t ∧ t.fw.safe = true ∧ t.fw.stcause = 8
        ∧ t.mem = s.mem ∧ ∀ c i, groupAt t c i = none)

/-! ### Encoding -/

/-- R79's table and the worked encodings of chapters 03 and 14: words that the spec itself writes out, and the instruction or the fate it
gives them. -/
def Obligations.DecodeOfSpecWords : Prop :=
  decodeUnit [0x0001C286] = .ok (.iadd none 7 5 6, 1)
  ∧ decodeUnit [0x02010280] = .ok (.iabs none 4 5, 1)
  ∧ decodeUnit [0xFE252400, 0x20610286] = .ok (.ffma (some ⟨9, 4, true, 1, false⟩) 4 5 6, 2)
  ∧ decodeUnit [0x11608000, 0x12345678] = .ok (.movl none 2 0x12345678, 2)
  ∧ decodeUnit [0x7122C578] = .ok (.stg32 none 11 10 120, 1)
  ∧ decodeUnit [0x5041C001] = .ok (.bz 7 1, 1)
  ∧ decodeUnit [0x8004B516] = .ok (.atomAdd none 18 106 22, 1)
  ∧ decodeUnit [0xB0450300] = .ok (.join 20 6, 1)
  ∧ decodeUnit [0xE0000000] = .error .illegalOpcode
  ∧ decodeUnit [0x05800000] = .error .illegalOpcode
  ∧ decodeUnit [0x10810220] = .error .illegalOpcode
  ∧ decodeUnit [0x02010281] = .error .illegalOpcode

/-- R66 to R69, R81 to R85: every instruction that the encoding admits, with every operand and every prefix at every value, decodes from
its own words, whatever follows them. -/
def Obligations.DecodeEncodeRoundTrip : Prop :=
  ∀ (i : Instr) (rest : List Word), i.wellFormed = true → decodeUnit (encode i ++ rest) = .ok (i, (encode i).length)

/-- R77 and steps 1 to 3 of R79: an opcode that no table assigns is ILLEGAL_OPCODE, with or without a prefix; a prefix is illegal before
another prefix, before class N, with a field its class requires zero, and with an unassigned code of msel or rnd; a prefix with nonzero
low bits is ILLEGAL_OPCODE; a legal prefix leaves the instruction of the word after it.
R66, R69, R77: whatever decodes is an instruction of the encoding, and its own words are the words it was read from; so no two
readings share a word.
Readings and choices of the model in it: log 31. -/
def Obligations.DecodeFatesAndConverse : Prop :=
  (∀ (p w : Word) (t : List Word) (i : Instr) (n : Nat),
     (isPrefixWord w = false → assigned w = false → decodeUnit (w :: t) = .error .illegalOpcode)
     ∧ (isPrefixWord w = true ↔ 0x7F0 ≤ (w >>> 21).toNat)
     ∧ (isPrefixWord p = true → p.toNat % 512 ≠ 0 → decodeUnit (p :: w :: t) = .error .illegalOpcode)
     ∧ (isPrefixWord p = true → p.toNat % 512 = 0 → isPrefixWord w = true → decodeUnit (p :: w :: t) = .error .illegalPrefix)
     ∧ (isPrefixWord p = true → isPrefixWord w = false → assigned w = false → decodeUnit (p :: w :: t) = .error .illegalOpcode)
     ∧ (isPrefixWord p = true → p.toNat % 512 = 0 → isPrefixWord w = false → decodeUnit (w :: t) = .error .illegalOpcode →
         decodeUnit (p :: w :: t) = .error .illegalOpcode)
     ∧ (isPrefixWord p = true → p.toNat % 512 = 0 → isPrefixWord w = false → decodeUnit (w :: t) = .ok (i, n) →
         (¬ prefixKept p i → decodeUnit (p :: w :: t) = .error .illegalPrefix)
         ∧ (prefixKept p i → ∃ j, decodeUnit (p :: w :: t) = .ok (j, n + 1) ∧ j.pfx = some (pfxOf p) ∧ j.cls = i.cls
           ∧ encodeBody j = encodeBody i)))
  ∧ (∀ (ws : List Word) (i : Instr) (n : Nat), decodeUnit ws = .ok (i, n) → i.wellFormed = true ∧ encode i = ws.take n ∧ n ≤ 3 ∧ n ≤ ws.length)

/-! ### The step and reset -/

/-- R30, R66, R75, R79, R80: a ready group whose turn it is issues the instruction that the words at its program counter decode to, with
the active set and their PC as the issuing context; the choice of what moves is the model's (log 1): what a schedule says, else the oldest
message, else the timer due longest, else a ready group, else time passes. Words are four bytes, lowest address first, as the group sees
memory. A unit that cannot be fetched or is no instruction stops there.
Readings and choices of the model in it: logs 30, 32. -/
def Obligations.StepRunsTheDecodedInstruction : Prop :=
  ∀ (s x y z : State) (rest : List Turn) (c slot k : Nat) (g : Group) (ws : List Word) (i : Instr) (st : Stop) (r : Reject) (xl : Xl),
    let idle := s.sched = [] ∧ s.power = true ∧ s.net = [] ∧ dueTimer s = none
    let turnOf := fun (x : State) => (s.sched = .issue c slot :: rest ∧ x = { s with sched := rest }
      ∧ (pipePick x c (slot % 4)).map (·.1) = some slot) ∨ (idle ∧ nextIssue s = some (c, slot) ∧ x = s)
    (turnOf x → groupAt x c slot = some g → groupReady x c slot g = true →
      (fetches (aim x c slot g) 0 ws = some y → decodeUnit ws = .ok (i, ws.length) → step s = exec i y)
      ∧ (fetches (aim x c slot g) 0 ws = some y → decodeUnit ws = .error r → r ≠ .truncated → ws.length ≤ 3 →
        (∀ n < ws.length, decodeUnit (ws.take n) = .error .truncated) → step s = .next (stopped y
          (.fault { code := if r = .illegalPrefix then fcIllegalPrefix else fcIllegalOpcode, lane := y.cur.lanes.headD 0xFF })))
      ∧ (fetches (aim x c slot g) 0 ws = some y → y.cur = (aim x c slot g).cur)
      ∧ (fetches (aim x c slot g) 0 ws = some z → (∀ n ≤ ws.length, decodeUnit (ws.take n) = .error .truncated) → ws.length < 3 →
        fetchWord z ws.length = (.error st, y) → step s = .next (stopped y st)))
    ∧ (aim x c slot g).cur = { core := c, slot := slot, lanes := activeSet x g, pc := sget 0 g.r.pc ((activeSet x g).headD 0) }
    ∧ (∀ p, xlate x x.cur.core (curGroup x).pasid (curGroup x).fmode (x.cur.pc.signExtend 64 + BitVec.ofNat 64 (4 * k)) { fetch := true } = (.ok xl, p) →
        let line := homePa xl.pa / 128
        let q := readLine p line
        (isPoisoned q line = false ∨ ownWhole (curGroup x) (xl.pa / 128) = true → readWaits q line = false →
          (tracked (128 * line) && heldRead q (some (x.cur.core, x.cur.slot)) line) = false → ∃ w, fetchWord x k = (.ok w, l2Fetch q line)
          ∧ ∀ j < 4, w.extractLsb' (8 * j) 8 = viewByte q (curGroup x) (xl.pa + j)))
    ∧ (s.sched = .event i :: rest → s.power = true → step s = exec i (moved { s with sched := rest }))
    ∧ (s.sched = [] → s.power = true → ∀ m, s.net.head? = some m → step s = exec m.ev (moved { s with net := s.net.tail }))
    ∧ (s.sched = [] → s.power = true → s.net = [] → dueTimer s = some (k, i) → step s = exec i (moved { s with timers := s.timers.eraseIdx k }))
    ∧ (idle → nextIssue s = none → step s = .next (passTime s (max 1 (nextDeadline s - s.clk))))

/-- R103, R183, R184, R204, R210, R335, R363, R367, R380, R395, R407, R451: what reset leaves where the spec gives a value. That boot is the
next thing to move, that no core has a role and no group stands before it, and that the flash and memory beyond HBM read as they do, are the
model's choices (logs 3, 4, 5). Memory is in canonical form. -/
def Obligations.ResetState : Prop :=
  let s := State.reset
  s.memWf = true
  ∧ (∀ a, memByte s a = 0)
  ∧ (∀ c, cycles s c = 0 ∧ (coreAt s c).mcklim = 8 ∧ (coreAt s c).fpend = 0 ∧ (coreAt s c).fien = 0)
  ∧ (∀ c, let m := (coreAt s c).margin
      m.voff = 0 ∧ m.vfloor = 0 ∧ m.aup = true ∧ m.adn = false ∧ m.qthr = 3 ∧ m.win = 100 ∧ m.lim = 64 ∧ m.clean = 16 ∧ m.vnow = 0 ∧ m.raised = false
        ∧ m.corked = false)
  ∧ (s.mmio.qtbase = 0 ∧ s.mmio.rtbase = 0 ∧ s.mmio.mlbase = 0 ∧ s.mmio.frbase = 0 ∧ s.mmio.ptbase = 0 ∧ s.mmio.atsen = false ∧ s.mmio.mlen = false)
  ∧ (s.mmio.swapen = true ∧ s.mmio.marchen = true ∧ s.mmio.imb = 50)
  ∧ (s.mmio.lost0 = 0x1F ∧ s.mmio.lost1 = 0x1F ∧ s.mmio.degr = false ∧ s.mmio.dual = false ∧ s.mmio.unprot = false ∧ s.mmio.more = false)
  ∧ (s.fw.bslot = 3 ∧ s.fw.bymark = false ∧ s.fw.safe = false ∧ s.fw.stage = 0 ∧ s.fw.qhold = 0 ∧ s.fw.liveupd = false ∧ s.fw.mbxBusy = false)
  ∧ (∀ x line, (stackAt s x).lost = false ∧ isPoisoned s line = false)
  ∧ (∀ idx < 8192, ∀ unit < 256, ∀ cls < 16, ctrGet s (cls + 16 * unit + 4096 * idx) =
      if cls = 1 ∧ idx = 15 then 14080 else if cls = 1 ∧ idx = 18 then 4096 else if cls = 2 ∧ idx = 7 then 262144
      else if cls = 2 ∧ idx = 10 then 4096 else if cls = 2 ∧ idx = 13 then 16384 else if cls = 3 ∧ idx = 33 then 8192
      else if cls = 3 ∧ idx = 36 then 2816 else 0)
  ∧ (s.sched = [.event .powerOnReset] ∧ ∀ c slot, groupAt s c slot = none)

/-- R204, which has the device write zero to HBM at boot: memory holds, besides what it lists, what an unlisted address reads as, the model's value
for all memory (log 5). The committed memory keeps its one canonical form (addresses strictly rise and no entry equals what an unlisted address
reads as) through every step of the device, in every state, so that equal memories are equal data; the form is the model's own representation, no
rule of the spec.
Readings and choices of the model in it: log 5. -/
def Obligations.MemoryStaysCanonical : Prop :=
  ∀ (s t : State), s.memWf = true → step s = .next t → t.memWf = true
end
end

