-- ==== Sys2Proof/Laws/Sparse.lean ====
section
/-! SUPPORT. Sys2Proof/Laws/Sparse.lean: the laws of tables: a read after a write, and that every operation keeps the canonical form. -/

namespace Sys2Proof.Laws

open Sys2Proof.Machine

/-! ### Reads after writes -/

theorem aget_aset {α : Type} (m : Sparse α) (k j : Nat) (v : α) : aget (aset m k v) j = if j = k then some v else aget m j := by
  induction m with
  | nil => simp [aset, aget]
  | cons e t ih => grind [aset, aget]

@[simp] theorem aget_aset_self {α : Type} (m : Sparse α) (k : Nat) (v : α) : aget (aset m k v) k = some v := by
  simp [aget_aset]

theorem aget_aset_ne {α : Type} (m : Sparse α) {k j : Nat} (v : α) (h : j ≠ k) : aget (aset m k v) j = aget m j := by
  simp [aget_aset, h]

theorem aget_adel {α : Type} (m : Sparse α) (k j : Nat) : aget (adel m k) j = if j = k then none else aget m j := by
  induction m with
  | nil => simp [adel, aget]
  | cons e t ih => grind [adel, aget]

theorem aget_amod {α : Type} (m : Sparse α) (k j : Nat) (f : α → α) :
    aget (amod m k f) j = if j = k then (aget m j).map f else aget m j := by
  induction m with
  | nil => simp [amod, aget]
  | cons e t ih => grind [amod, aget]

theorem sget_eq_aget {α : Type} (d : α) (m : Sparse α) (k : Nat) : sget d m k = (aget m k).getD d := by
  induction m with
  | nil => rfl
  | cons e t ih => grind [sget, aget]

theorem sget_sset {α : Type} [DecidableEq α] (d : α) (m : Sparse α) (k j : Nat) (v : α) :
    sget d (sset d m k v) j = if j = k then v else sget d m j := by
  simp only [sget_eq_aget, sset]
  split
  · grind [aget_adel]
  · grind [aget_aset]

@[simp] theorem sget_sset_self {α : Type} [DecidableEq α] (d : α) (m : Sparse α) (k : Nat) (v : α) :
    sget d (sset d m k v) k = v := by simp [sget_sset]

@[simp] theorem ssetAll_nil {α : Type} [DecidableEq α] (d : α) (m : Sparse α) : ssetAll d m [] = m := rfl

theorem ssetAll_cons {α : Type} [DecidableEq α] (d : α) (m : Sparse α) (e : Nat × α) (t : List (Nat × α)) :
    ssetAll d m (e :: t) = ssetAll d (sset d m e.1 e.2) t := rfl

theorem ssetAll_append {α : Type} [DecidableEq α] (d : α) (m : Sparse α) (a b : List (Nat × α)) :
    ssetAll d m (a ++ b) = ssetAll d (ssetAll d m a) b := List.foldl_append

/-- A key that is not written reads as before. -/
theorem sget_ssetAll_of_notMem {α : Type} [DecidableEq α] (d : α) (kvs : List (Nat × α)) (m : Sparse α) (j : Nat)
    (h : j ∉ kvs.map (·.1)) : sget d (ssetAll d m kvs) j = sget d m j := by
  induction kvs generalizing m with
  | nil => rfl
  | cons e t ih =>
    simp only [List.map_cons, List.mem_cons, not_or] at h
    rw [ssetAll_cons, ih _ h.2, sget_sset, if_neg h.1]

/-- Values given by a function of an injective key: a written key reads its value. -/
theorem sget_ssetAll_map {α : Type} [DecidableEq α] (d : α) (ls : List Nat) (key : Nat → Nat) (f : Nat → α) (m : Sparse α) (i : Nat)
    (inj : ∀ a b, key a = key b → a = b) (h : i ∈ ls) :
    sget d (ssetAll d m (ls.map (fun t => (key t, f t)))) (key i) = f i := by
  induction ls generalizing m with
  | nil => simp at h
  | cons a t ih =>
    rw [List.map_cons, ssetAll_cons]
    by_cases hi : i ∈ t
    · exact ih _ hi
    · have ha : i = a := by simpa [hi] using h
      subst ha
      rw [sget_ssetAll_of_notMem, sget_sset_self]
      simp only [List.map_map, List.mem_map, Function.comp_apply, not_exists, not_and]
      exact fun x hx hk => hi (inj _ _ hk ▸ hx)

theorem ssetAll_append_cons {α : Type} [DecidableEq α] (d : α) (m : Sparse α) (a : List (Nat × α)) (e : Nat × α) :
    ssetAll d m (a ++ [e]) = sset d (ssetAll d m a) e.1 e.2 := by rw [ssetAll_append]; rfl

/-! ### The canonical form -/

/-- Every key of a table is above a bound. -/
def above {α : Type} (k : Nat) (m : Sparse α) : Prop := ∀ e ∈ m, k < e.1

theorem skeysRise_cons {α : Type} (e : Nat × α) (t : Sparse α) : skeysRise (e :: t) = true ↔ above e.1 t ∧ skeysRise t = true := by
  induction t generalizing e with
  | nil => simp [skeysRise, above]
  | cons f t ih =>
    obtain ⟨i, a⟩ := e
    obtain ⟨j, b⟩ := f
    simp only [skeysRise, Bool.and_eq_true, decide_eq_true_eq, ih, above, List.mem_cons, forall_eq_or_imp]
    constructor
    · rintro ⟨h, ha, hr⟩; exact ⟨⟨h, fun e he => Nat.lt_trans h (ha e he)⟩, ha, hr⟩
    · rintro ⟨⟨h, _⟩, ha, hr⟩; exact ⟨h, ha, hr⟩

theorem mem_aset {α : Type} (m : Sparse α) (k : Nat) (v : α) (e : Nat × α) (h : e ∈ aset m k v) : e = (k, v) ∨ e ∈ m := by
  induction m with
  | nil => grind [aset]
  | cons f t ih => grind [aset]

theorem skeysRise_aset {α : Type} (m : Sparse α) (k : Nat) (v : α) (h : skeysRise m = true) : skeysRise (aset m k v) = true := by
  induction m with
  | nil => rfl
  | cons f t ih =>
    obtain ⟨j, w⟩ := f
    rw [skeysRise_cons] at h
    simp only [aset]
    split
    · rw [skeysRise_cons, skeysRise_cons]
      refine ⟨?_, h⟩
      intro e he
      rcases List.mem_cons.1 he with rfl | he
      · assumption
      · exact Nat.lt_trans ‹k < j› (h.1 e he)
    · split
      · rw [skeysRise_cons]; subst ‹k = j›; exact h
      · rw [skeysRise_cons]
        refine ⟨fun e he => ?_, ih h.2⟩
        rcases mem_aset t k v e he with rfl | he
        · show j < k; omega
        · exact h.1 e he

theorem skeysRise_filter {α : Type} (m : Sparse α) (q : Nat × α → Bool) (h : skeysRise m = true) : skeysRise (m.filter q) = true := by
  induction m with
  | nil => rfl
  | cons f t ih =>
    rw [skeysRise_cons] at h
    rw [List.filter_cons]
    split
    · rw [skeysRise_cons]; exact ⟨fun e he => h.1 e (List.mem_filter.1 he).1, ih h.2⟩
    · exact ih h.2

theorem swf_sset {α : Type} [DecidableEq α] (d : α) (m : Sparse α) (k : Nat) (v : α) (h : swf d m = true) :
    swf d (sset d m k v) = true := by
  simp only [swf, Bool.and_eq_true, List.all_eq_true, decide_eq_true_eq] at h ⊢
  unfold sset
  split
  · exact ⟨skeysRise_filter m _ h.1, fun e he => h.2 e (List.mem_filter.1 he).1⟩
  · refine ⟨skeysRise_aset m k v h.1, fun e he => ?_⟩
    rcases mem_aset m k v e he with rfl | he
    · assumption
    · exact h.2 e he

/-- Every write keeps the canonical form. -/
theorem swf_ssetAll {α : Type} [DecidableEq α] (d : α) (kvs : List (Nat × α)) (m : Sparse α) (h : swf d m = true) :
    swf d (ssetAll d m kvs) = true := by
  induction kvs generalizing m with
  | nil => exact h
  | cons e t ih => rw [ssetAll_cons]; exact ih _ (swf_sset d m e.1 e.2 h)

end Sys2Proof.Laws
end

