-- ==== Sys2Proof/Laws/State.lean ====
section
/-! SUPPORT. Sys2Proof/Laws/State.lean: what each update of the state does to each of its fields, and reads of cores and groups after
them. -/

namespace Sys2Proof.Laws

open Sys2Proof.Machine

/-! ### setCore -/

@[simp] theorem setCore_cores (s : State) (c : Nat) (x : Core) : (setCore s c x).cores = aset s.cores c x := rfl
@[simp] theorem setCore_clk (s : State) (c : Nat) (x : Core) : (setCore s c x).clk = s.clk := rfl
@[simp] theorem setCore_moves (s : State) (c : Nat) (x : Core) : (setCore s c x).moves = s.moves := rfl
@[simp] theorem setCore_skew (s : State) (c : Nat) (x : Core) : (setCore s c x).skew = s.skew := rfl
@[simp] theorem setCore_power (s : State) (c : Nat) (x : Core) : (setCore s c x).power = s.power := rfl
@[simp] theorem setCore_sched (s : State) (c : Nat) (x : Core) : (setCore s c x).sched = s.sched := rfl
@[simp] theorem setCore_net (s : State) (c : Nat) (x : Core) : (setCore s c x).net = s.net := rfl
@[simp] theorem setCore_timers (s : State) (c : Nat) (x : Core) : (setCore s c x).timers = s.timers := rfl
@[simp] theorem setCore_cur (s : State) (c : Nat) (x : Core) : (setCore s c x).cur = s.cur := rfl
@[simp] theorem setCore_free (s : State) (c : Nat) (x : Core) : (setCore s c x).free = s.free := rfl
@[simp] theorem setCore_uids (s : State) (c : Nat) (x : Core) : (setCore s c x).uids = s.uids := rfl
@[simp] theorem setCore_mem (s : State) (c : Nat) (x : Core) : (setCore s c x).mem = s.mem := rfl
@[simp] theorem setCore_dram (s : State) (c : Nat) (x : Core) : (setCore s c x).dram = s.dram := rfl
@[simp] theorem setCore_parity (s : State) (c : Nat) (x : Core) : (setCore s c x).parity = s.parity := rfl
@[simp] theorem setCore_poison (s : State) (c : Nat) (x : Core) : (setCore s c x).poison = s.poison := rfl
@[simp] theorem setCore_hpoison (s : State) (c : Nat) (x : Core) : (setCore s c x).hpoison = s.hpoison := rfl
@[simp] theorem setCore_ecc (s : State) (c : Nat) (x : Core) : (setCore s c x).ecc = s.ecc := rfl
@[simp] theorem setCore_merged (s : State) (c : Nat) (x : Core) : (setCore s c x).merged = s.merged := rfl
@[simp] theorem setCore_l2 (s : State) (c : Nat) (x : Core) : (setCore s c x).l2 = s.l2 := rfl
@[simp] theorem setCore_dir (s : State) (c : Nat) (x : Core) : (setCore s c x).dir = s.dir := rfl
@[simp] theorem setCore_home (s : State) (c : Nat) (x : Core) : (setCore s c x).home = s.home := rfl
@[simp] theorem setCore_replicas (s : State) (c : Nat) (x : Core) : (setCore s c x).replicas = s.replicas := rfl
@[simp] theorem setCore_redirects (s : State) (c : Nat) (x : Core) : (setCore s c x).redirects = s.redirects := rfl
@[simp] theorem setCore_readWin (s : State) (c : Nat) (x : Core) : (setCore s c x).readWin = s.readWin := rfl
@[simp] theorem setCore_wroteWin (s : State) (c : Nat) (x : Core) : (setCore s c x).wroteWin = s.wroteWin := rfl
@[simp] theorem setCore_dies (s : State) (c : Nat) (x : Core) : (setCore s c x).dies = s.dies := rfl
@[simp] theorem setCore_hbm (s : State) (c : Nat) (x : Core) : (setCore s c x).hbm = s.hbm := rfl
@[simp] theorem setCore_clusters (s : State) (c : Nat) (x : Core) : (setCore s c x).clusters = s.clusters := rfl
@[simp] theorem setCore_grids (s : State) (c : Nat) (x : Core) : (setCore s c x).grids = s.grids := rfl
@[simp] theorem setCore_gangs (s : State) (c : Nat) (x : Core) : (setCore s c x).gangs = s.gangs := rfl
@[simp] theorem setCore_ctxs (s : State) (c : Nat) (x : Core) : (setCore s c x).ctxs = s.ctxs := rfl
@[simp] theorem setCore_hslots (s : State) (c : Nat) (x : Core) : (setCore s c x).hslots = s.hslots := rfl
@[simp] theorem setCore_pkts (s : State) (c : Nat) (x : Core) : (setCore s c x).pkts = s.pkts := rfl
@[simp] theorem setCore_copies (s : State) (c : Nat) (x : Core) : (setCore s c x).copies = s.copies := rfl
@[simp] theorem setCore_asks (s : State) (c : Nat) (x : Core) : (setCore s c x).asks = s.asks := rfl
@[simp] theorem setCore_reds (s : State) (c : Nat) (x : Core) : (setCore s c x).reds = s.reds := rfl
@[simp] theorem setCore_redAt (s : State) (c : Nat) (x : Core) : (setCore s c x).redAt = s.redAt := rfl
@[simp] theorem setCore_extPend (s : State) (c : Nat) (x : Core) : (setCore s c x).extPend = s.extPend := rfl
@[simp] theorem setCore_extOut (s : State) (c : Nat) (x : Core) : (setCore s c x).extOut = s.extOut := rfl
@[simp] theorem setCore_ats (s : State) (c : Nat) (x : Core) : (setCore s c x).ats = s.ats := rfl
@[simp] theorem setCore_pri (s : State) (c : Nat) (x : Core) : (setCore s c x).pri = s.pri := rfl
@[simp] theorem setCore_atsInv (s : State) (c : Nat) (x : Core) : (setCore s c x).atsInv = s.atsInv := rfl
@[simp] theorem setCore_invSent (s : State) (c : Nat) (x : Core) : (setCore s c x).invSent = s.invSent := rfl
@[simp] theorem setCore_priStops (s : State) (c : Nat) (x : Core) : (setCore s c x).priStops = s.priStops := rfl
@[simp] theorem setCore_ring (s : State) (c : Nat) (x : Core) : (setCore s c x).ring = s.ring := rfl
@[simp] theorem setCore_ringNext (s : State) (c : Nat) (x : Core) : (setCore s c x).ringNext = s.ringNext := rfl
@[simp] theorem setCore_ingress (s : State) (c : Nat) (x : Core) : (setCore s c x).ingress = s.ingress := rfl
@[simp] theorem setCore_landing (s : State) (c : Nat) (x : Core) : (setCore s c x).landing = s.landing := rfl
@[simp] theorem setCore_ctr (s : State) (c : Nat) (x : Core) : (setCore s c x).ctr = s.ctr := rfl
@[simp] theorem setCore_shorted (s : State) (c : Nat) (x : Core) : (setCore s c x).shorted = s.shorted := rfl
@[simp] theorem setCore_linkDown (s : State) (c : Nat) (x : Core) : (setCore s c x).linkDown = s.linkDown := rfl
@[simp] theorem setCore_mmio (s : State) (c : Nat) (x : Core) : (setCore s c x).mmio = s.mmio := rfl
@[simp] theorem setCore_keys (s : State) (c : Nat) (x : Core) : (setCore s c x).keys = s.keys := rfl
@[simp] theorem setCore_fw (s : State) (c : Nat) (x : Core) : (setCore s c x).fw = s.fw := rfl
@[simp] theorem setCore_flash (s : State) (c : Nat) (x : Core) : (setCore s c x).flash = s.flash := rfl
@[simp] theorem setCore_msix (s : State) (c : Nat) (x : Core) : (setCore s c x).msix = s.msix := rfl
@[simp] theorem setCore_cxl (s : State) (c : Nat) (x : Core) : (setCore s c x).cxl = s.cxl := rfl

/-! ### modCore -/

@[simp] theorem modCore_clk (s : State) (c : Nat) (f : Core → Core) : (modCore s c f).clk = s.clk := rfl
@[simp] theorem modCore_moves (s : State) (c : Nat) (f : Core → Core) : (modCore s c f).moves = s.moves := rfl
@[simp] theorem modCore_skew (s : State) (c : Nat) (f : Core → Core) : (modCore s c f).skew = s.skew := rfl
@[simp] theorem modCore_power (s : State) (c : Nat) (f : Core → Core) : (modCore s c f).power = s.power := rfl
@[simp] theorem modCore_sched (s : State) (c : Nat) (f : Core → Core) : (modCore s c f).sched = s.sched := rfl
@[simp] theorem modCore_net (s : State) (c : Nat) (f : Core → Core) : (modCore s c f).net = s.net := rfl
@[simp] theorem modCore_timers (s : State) (c : Nat) (f : Core → Core) : (modCore s c f).timers = s.timers := rfl
@[simp] theorem modCore_cur (s : State) (c : Nat) (f : Core → Core) : (modCore s c f).cur = s.cur := rfl
@[simp] theorem modCore_free (s : State) (c : Nat) (f : Core → Core) : (modCore s c f).free = s.free := rfl
@[simp] theorem modCore_uids (s : State) (c : Nat) (f : Core → Core) : (modCore s c f).uids = s.uids := rfl
@[simp] theorem modCore_mem (s : State) (c : Nat) (f : Core → Core) : (modCore s c f).mem = s.mem := rfl
@[simp] theorem modCore_dram (s : State) (c : Nat) (f : Core → Core) : (modCore s c f).dram = s.dram := rfl
@[simp] theorem modCore_parity (s : State) (c : Nat) (f : Core → Core) : (modCore s c f).parity = s.parity := rfl
@[simp] theorem modCore_poison (s : State) (c : Nat) (f : Core → Core) : (modCore s c f).poison = s.poison := rfl
@[simp] theorem modCore_hpoison (s : State) (c : Nat) (f : Core → Core) : (modCore s c f).hpoison = s.hpoison := rfl
@[simp] theorem modCore_ecc (s : State) (c : Nat) (f : Core → Core) : (modCore s c f).ecc = s.ecc := rfl
@[simp] theorem modCore_merged (s : State) (c : Nat) (f : Core → Core) : (modCore s c f).merged = s.merged := rfl
@[simp] theorem modCore_l2 (s : State) (c : Nat) (f : Core → Core) : (modCore s c f).l2 = s.l2 := rfl
@[simp] theorem modCore_dir (s : State) (c : Nat) (f : Core → Core) : (modCore s c f).dir = s.dir := rfl
@[simp] theorem modCore_home (s : State) (c : Nat) (f : Core → Core) : (modCore s c f).home = s.home := rfl
@[simp] theorem modCore_replicas (s : State) (c : Nat) (f : Core → Core) : (modCore s c f).replicas = s.replicas := rfl
@[simp] theorem modCore_redirects (s : State) (c : Nat) (f : Core → Core) : (modCore s c f).redirects = s.redirects := rfl
@[simp] theorem modCore_readWin (s : State) (c : Nat) (f : Core → Core) : (modCore s c f).readWin = s.readWin := rfl
@[simp] theorem modCore_wroteWin (s : State) (c : Nat) (f : Core → Core) : (modCore s c f).wroteWin = s.wroteWin := rfl
@[simp] theorem modCore_dies (s : State) (c : Nat) (f : Core → Core) : (modCore s c f).dies = s.dies := rfl
@[simp] theorem modCore_hbm (s : State) (c : Nat) (f : Core → Core) : (modCore s c f).hbm = s.hbm := rfl
@[simp] theorem modCore_clusters (s : State) (c : Nat) (f : Core → Core) : (modCore s c f).clusters = s.clusters := rfl
@[simp] theorem modCore_grids (s : State) (c : Nat) (f : Core → Core) : (modCore s c f).grids = s.grids := rfl
@[simp] theorem modCore_gangs (s : State) (c : Nat) (f : Core → Core) : (modCore s c f).gangs = s.gangs := rfl
@[simp] theorem modCore_ctxs (s : State) (c : Nat) (f : Core → Core) : (modCore s c f).ctxs = s.ctxs := rfl
@[simp] theorem modCore_hslots (s : State) (c : Nat) (f : Core → Core) : (modCore s c f).hslots = s.hslots := rfl
@[simp] theorem modCore_pkts (s : State) (c : Nat) (f : Core → Core) : (modCore s c f).pkts = s.pkts := rfl
@[simp] theorem modCore_copies (s : State) (c : Nat) (f : Core → Core) : (modCore s c f).copies = s.copies := rfl
@[simp] theorem modCore_asks (s : State) (c : Nat) (f : Core → Core) : (modCore s c f).asks = s.asks := rfl
@[simp] theorem modCore_reds (s : State) (c : Nat) (f : Core → Core) : (modCore s c f).reds = s.reds := rfl
@[simp] theorem modCore_redAt (s : State) (c : Nat) (f : Core → Core) : (modCore s c f).redAt = s.redAt := rfl
@[simp] theorem modCore_extPend (s : State) (c : Nat) (f : Core → Core) : (modCore s c f).extPend = s.extPend := rfl
@[simp] theorem modCore_extOut (s : State) (c : Nat) (f : Core → Core) : (modCore s c f).extOut = s.extOut := rfl
@[simp] theorem modCore_ats (s : State) (c : Nat) (f : Core → Core) : (modCore s c f).ats = s.ats := rfl
@[simp] theorem modCore_pri (s : State) (c : Nat) (f : Core → Core) : (modCore s c f).pri = s.pri := rfl
@[simp] theorem modCore_atsInv (s : State) (c : Nat) (f : Core → Core) : (modCore s c f).atsInv = s.atsInv := rfl
@[simp] theorem modCore_invSent (s : State) (c : Nat) (f : Core → Core) : (modCore s c f).invSent = s.invSent := rfl
@[simp] theorem modCore_priStops (s : State) (c : Nat) (f : Core → Core) : (modCore s c f).priStops = s.priStops := rfl
@[simp] theorem modCore_ring (s : State) (c : Nat) (f : Core → Core) : (modCore s c f).ring = s.ring := rfl
@[simp] theorem modCore_ringNext (s : State) (c : Nat) (f : Core → Core) : (modCore s c f).ringNext = s.ringNext := rfl
@[simp] theorem modCore_ingress (s : State) (c : Nat) (f : Core → Core) : (modCore s c f).ingress = s.ingress := rfl
@[simp] theorem modCore_landing (s : State) (c : Nat) (f : Core → Core) : (modCore s c f).landing = s.landing := rfl
@[simp] theorem modCore_ctr (s : State) (c : Nat) (f : Core → Core) : (modCore s c f).ctr = s.ctr := rfl
@[simp] theorem modCore_shorted (s : State) (c : Nat) (f : Core → Core) : (modCore s c f).shorted = s.shorted := rfl
@[simp] theorem modCore_linkDown (s : State) (c : Nat) (f : Core → Core) : (modCore s c f).linkDown = s.linkDown := rfl
@[simp] theorem modCore_mmio (s : State) (c : Nat) (f : Core → Core) : (modCore s c f).mmio = s.mmio := rfl
@[simp] theorem modCore_keys (s : State) (c : Nat) (f : Core → Core) : (modCore s c f).keys = s.keys := rfl
@[simp] theorem modCore_fw (s : State) (c : Nat) (f : Core → Core) : (modCore s c f).fw = s.fw := rfl
@[simp] theorem modCore_flash (s : State) (c : Nat) (f : Core → Core) : (modCore s c f).flash = s.flash := rfl
@[simp] theorem modCore_msix (s : State) (c : Nat) (f : Core → Core) : (modCore s c f).msix = s.msix := rfl
@[simp] theorem modCore_cxl (s : State) (c : Nat) (f : Core → Core) : (modCore s c f).cxl = s.cxl := rfl

/-! ### setGroup -/

@[simp] theorem setGroup_clk (s : State) (c g : Nat) (x : Group) : (setGroup s c g x).clk = s.clk := rfl
@[simp] theorem setGroup_moves (s : State) (c g : Nat) (x : Group) : (setGroup s c g x).moves = s.moves := rfl
@[simp] theorem setGroup_skew (s : State) (c g : Nat) (x : Group) : (setGroup s c g x).skew = s.skew := rfl
@[simp] theorem setGroup_power (s : State) (c g : Nat) (x : Group) : (setGroup s c g x).power = s.power := rfl
@[simp] theorem setGroup_sched (s : State) (c g : Nat) (x : Group) : (setGroup s c g x).sched = s.sched := rfl
@[simp] theorem setGroup_net (s : State) (c g : Nat) (x : Group) : (setGroup s c g x).net = s.net := rfl
@[simp] theorem setGroup_timers (s : State) (c g : Nat) (x : Group) : (setGroup s c g x).timers = s.timers := rfl
@[simp] theorem setGroup_cur (s : State) (c g : Nat) (x : Group) : (setGroup s c g x).cur = s.cur := rfl
@[simp] theorem setGroup_free (s : State) (c g : Nat) (x : Group) : (setGroup s c g x).free = s.free := rfl
@[simp] theorem setGroup_uids (s : State) (c g : Nat) (x : Group) : (setGroup s c g x).uids = s.uids := rfl
@[simp] theorem setGroup_mem (s : State) (c g : Nat) (x : Group) : (setGroup s c g x).mem = s.mem := rfl
@[simp] theorem setGroup_dram (s : State) (c g : Nat) (x : Group) : (setGroup s c g x).dram = s.dram := rfl
@[simp] theorem setGroup_parity (s : State) (c g : Nat) (x : Group) : (setGroup s c g x).parity = s.parity := rfl
@[simp] theorem setGroup_poison (s : State) (c g : Nat) (x : Group) : (setGroup s c g x).poison = s.poison := rfl
@[simp] theorem setGroup_hpoison (s : State) (c g : Nat) (x : Group) : (setGroup s c g x).hpoison = s.hpoison := rfl
@[simp] theorem setGroup_ecc (s : State) (c g : Nat) (x : Group) : (setGroup s c g x).ecc = s.ecc := rfl
@[simp] theorem setGroup_merged (s : State) (c g : Nat) (x : Group) : (setGroup s c g x).merged = s.merged := rfl
@[simp] theorem setGroup_l2 (s : State) (c g : Nat) (x : Group) : (setGroup s c g x).l2 = s.l2 := rfl
@[simp] theorem setGroup_dir (s : State) (c g : Nat) (x : Group) : (setGroup s c g x).dir = s.dir := rfl
@[simp] theorem setGroup_home (s : State) (c g : Nat) (x : Group) : (setGroup s c g x).home = s.home := rfl
@[simp] theorem setGroup_replicas (s : State) (c g : Nat) (x : Group) : (setGroup s c g x).replicas = s.replicas := rfl
@[simp] theorem setGroup_redirects (s : State) (c g : Nat) (x : Group) : (setGroup s c g x).redirects = s.redirects := rfl
@[simp] theorem setGroup_readWin (s : State) (c g : Nat) (x : Group) : (setGroup s c g x).readWin = s.readWin := rfl
@[simp] theorem setGroup_wroteWin (s : State) (c g : Nat) (x : Group) : (setGroup s c g x).wroteWin = s.wroteWin := rfl
@[simp] theorem setGroup_dies (s : State) (c g : Nat) (x : Group) : (setGroup s c g x).dies = s.dies := rfl
@[simp] theorem setGroup_hbm (s : State) (c g : Nat) (x : Group) : (setGroup s c g x).hbm = s.hbm := rfl
@[simp] theorem setGroup_clusters (s : State) (c g : Nat) (x : Group) : (setGroup s c g x).clusters = s.clusters := rfl
@[simp] theorem setGroup_grids (s : State) (c g : Nat) (x : Group) : (setGroup s c g x).grids = s.grids := rfl
@[simp] theorem setGroup_gangs (s : State) (c g : Nat) (x : Group) : (setGroup s c g x).gangs = s.gangs := rfl
@[simp] theorem setGroup_ctxs (s : State) (c g : Nat) (x : Group) : (setGroup s c g x).ctxs = s.ctxs := rfl
@[simp] theorem setGroup_hslots (s : State) (c g : Nat) (x : Group) : (setGroup s c g x).hslots = s.hslots := rfl
@[simp] theorem setGroup_pkts (s : State) (c g : Nat) (x : Group) : (setGroup s c g x).pkts = s.pkts := rfl
@[simp] theorem setGroup_copies (s : State) (c g : Nat) (x : Group) : (setGroup s c g x).copies = s.copies := rfl
@[simp] theorem setGroup_asks (s : State) (c g : Nat) (x : Group) : (setGroup s c g x).asks = s.asks := rfl
@[simp] theorem setGroup_reds (s : State) (c g : Nat) (x : Group) : (setGroup s c g x).reds = s.reds := rfl
@[simp] theorem setGroup_redAt (s : State) (c g : Nat) (x : Group) : (setGroup s c g x).redAt = s.redAt := rfl
@[simp] theorem setGroup_extPend (s : State) (c g : Nat) (x : Group) : (setGroup s c g x).extPend = s.extPend := rfl
@[simp] theorem setGroup_extOut (s : State) (c g : Nat) (x : Group) : (setGroup s c g x).extOut = s.extOut := rfl
@[simp] theorem setGroup_ats (s : State) (c g : Nat) (x : Group) : (setGroup s c g x).ats = s.ats := rfl
@[simp] theorem setGroup_pri (s : State) (c g : Nat) (x : Group) : (setGroup s c g x).pri = s.pri := rfl
@[simp] theorem setGroup_atsInv (s : State) (c g : Nat) (x : Group) : (setGroup s c g x).atsInv = s.atsInv := rfl
@[simp] theorem setGroup_invSent (s : State) (c g : Nat) (x : Group) : (setGroup s c g x).invSent = s.invSent := rfl
@[simp] theorem setGroup_priStops (s : State) (c g : Nat) (x : Group) : (setGroup s c g x).priStops = s.priStops := rfl
@[simp] theorem setGroup_ring (s : State) (c g : Nat) (x : Group) : (setGroup s c g x).ring = s.ring := rfl
@[simp] theorem setGroup_ringNext (s : State) (c g : Nat) (x : Group) : (setGroup s c g x).ringNext = s.ringNext := rfl
@[simp] theorem setGroup_ingress (s : State) (c g : Nat) (x : Group) : (setGroup s c g x).ingress = s.ingress := rfl
@[simp] theorem setGroup_landing (s : State) (c g : Nat) (x : Group) : (setGroup s c g x).landing = s.landing := rfl
@[simp] theorem setGroup_ctr (s : State) (c g : Nat) (x : Group) : (setGroup s c g x).ctr = s.ctr := rfl
@[simp] theorem setGroup_shorted (s : State) (c g : Nat) (x : Group) : (setGroup s c g x).shorted = s.shorted := rfl
@[simp] theorem setGroup_linkDown (s : State) (c g : Nat) (x : Group) : (setGroup s c g x).linkDown = s.linkDown := rfl
@[simp] theorem setGroup_mmio (s : State) (c g : Nat) (x : Group) : (setGroup s c g x).mmio = s.mmio := rfl
@[simp] theorem setGroup_keys (s : State) (c g : Nat) (x : Group) : (setGroup s c g x).keys = s.keys := rfl
@[simp] theorem setGroup_fw (s : State) (c g : Nat) (x : Group) : (setGroup s c g x).fw = s.fw := rfl
@[simp] theorem setGroup_flash (s : State) (c g : Nat) (x : Group) : (setGroup s c g x).flash = s.flash := rfl
@[simp] theorem setGroup_msix (s : State) (c g : Nat) (x : Group) : (setGroup s c g x).msix = s.msix := rfl
@[simp] theorem setGroup_cxl (s : State) (c g : Nat) (x : Group) : (setGroup s c g x).cxl = s.cxl := rfl

/-! ### freeSlot -/

@[simp] theorem freeSlot_clk (s : State) (c g : Nat) : (freeSlot s c g).clk = s.clk := rfl
@[simp] theorem freeSlot_moves (s : State) (c g : Nat) : (freeSlot s c g).moves = s.moves := rfl
@[simp] theorem freeSlot_skew (s : State) (c g : Nat) : (freeSlot s c g).skew = s.skew := rfl
@[simp] theorem freeSlot_power (s : State) (c g : Nat) : (freeSlot s c g).power = s.power := rfl
@[simp] theorem freeSlot_sched (s : State) (c g : Nat) : (freeSlot s c g).sched = s.sched := rfl
@[simp] theorem freeSlot_net (s : State) (c g : Nat) : (freeSlot s c g).net = s.net := rfl
@[simp] theorem freeSlot_timers (s : State) (c g : Nat) : (freeSlot s c g).timers = s.timers := rfl
@[simp] theorem freeSlot_cur (s : State) (c g : Nat) : (freeSlot s c g).cur = s.cur := rfl
@[simp] theorem freeSlot_free (s : State) (c g : Nat) : (freeSlot s c g).free = s.free := rfl
@[simp] theorem freeSlot_uids (s : State) (c g : Nat) : (freeSlot s c g).uids = s.uids := rfl
@[simp] theorem freeSlot_mem (s : State) (c g : Nat) : (freeSlot s c g).mem = s.mem := rfl
@[simp] theorem freeSlot_dram (s : State) (c g : Nat) : (freeSlot s c g).dram = s.dram := rfl
@[simp] theorem freeSlot_parity (s : State) (c g : Nat) : (freeSlot s c g).parity = s.parity := rfl
@[simp] theorem freeSlot_poison (s : State) (c g : Nat) : (freeSlot s c g).poison = s.poison := rfl
@[simp] theorem freeSlot_hpoison (s : State) (c g : Nat) : (freeSlot s c g).hpoison = s.hpoison := rfl
@[simp] theorem freeSlot_ecc (s : State) (c g : Nat) : (freeSlot s c g).ecc = s.ecc := rfl
@[simp] theorem freeSlot_merged (s : State) (c g : Nat) : (freeSlot s c g).merged = s.merged := rfl
@[simp] theorem freeSlot_l2 (s : State) (c g : Nat) : (freeSlot s c g).l2 = s.l2 := rfl
@[simp] theorem freeSlot_dir (s : State) (c g : Nat) : (freeSlot s c g).dir = s.dir := rfl
@[simp] theorem freeSlot_home (s : State) (c g : Nat) : (freeSlot s c g).home = s.home := rfl
@[simp] theorem freeSlot_replicas (s : State) (c g : Nat) : (freeSlot s c g).replicas = s.replicas := rfl
@[simp] theorem freeSlot_redirects (s : State) (c g : Nat) : (freeSlot s c g).redirects = s.redirects := rfl
@[simp] theorem freeSlot_readWin (s : State) (c g : Nat) : (freeSlot s c g).readWin = s.readWin := rfl
@[simp] theorem freeSlot_wroteWin (s : State) (c g : Nat) : (freeSlot s c g).wroteWin = s.wroteWin := rfl
@[simp] theorem freeSlot_dies (s : State) (c g : Nat) : (freeSlot s c g).dies = s.dies := rfl
@[simp] theorem freeSlot_hbm (s : State) (c g : Nat) : (freeSlot s c g).hbm = s.hbm := rfl
@[simp] theorem freeSlot_clusters (s : State) (c g : Nat) : (freeSlot s c g).clusters = s.clusters := rfl
@[simp] theorem freeSlot_grids (s : State) (c g : Nat) : (freeSlot s c g).grids = s.grids := rfl
@[simp] theorem freeSlot_gangs (s : State) (c g : Nat) : (freeSlot s c g).gangs = s.gangs := rfl
@[simp] theorem freeSlot_ctxs (s : State) (c g : Nat) : (freeSlot s c g).ctxs = s.ctxs := rfl
@[simp] theorem freeSlot_hslots (s : State) (c g : Nat) : (freeSlot s c g).hslots = s.hslots := rfl
@[simp] theorem freeSlot_pkts (s : State) (c g : Nat) : (freeSlot s c g).pkts = s.pkts := rfl
@[simp] theorem freeSlot_copies (s : State) (c g : Nat) : (freeSlot s c g).copies = s.copies := rfl
@[simp] theorem freeSlot_asks (s : State) (c g : Nat) : (freeSlot s c g).asks = s.asks := rfl
@[simp] theorem freeSlot_reds (s : State) (c g : Nat) : (freeSlot s c g).reds = s.reds := rfl
@[simp] theorem freeSlot_redAt (s : State) (c g : Nat) : (freeSlot s c g).redAt = s.redAt := rfl
@[simp] theorem freeSlot_extPend (s : State) (c g : Nat) : (freeSlot s c g).extPend = s.extPend := rfl
@[simp] theorem freeSlot_extOut (s : State) (c g : Nat) : (freeSlot s c g).extOut = s.extOut := rfl
@[simp] theorem freeSlot_ats (s : State) (c g : Nat) : (freeSlot s c g).ats = s.ats := rfl
@[simp] theorem freeSlot_pri (s : State) (c g : Nat) : (freeSlot s c g).pri = s.pri := rfl
@[simp] theorem freeSlot_atsInv (s : State) (c g : Nat) : (freeSlot s c g).atsInv = s.atsInv := rfl
@[simp] theorem freeSlot_invSent (s : State) (c g : Nat) : (freeSlot s c g).invSent = s.invSent := rfl
@[simp] theorem freeSlot_priStops (s : State) (c g : Nat) : (freeSlot s c g).priStops = s.priStops := rfl
@[simp] theorem freeSlot_ring (s : State) (c g : Nat) : (freeSlot s c g).ring = s.ring := rfl
@[simp] theorem freeSlot_ringNext (s : State) (c g : Nat) : (freeSlot s c g).ringNext = s.ringNext := rfl
@[simp] theorem freeSlot_ingress (s : State) (c g : Nat) : (freeSlot s c g).ingress = s.ingress := rfl
@[simp] theorem freeSlot_landing (s : State) (c g : Nat) : (freeSlot s c g).landing = s.landing := rfl
@[simp] theorem freeSlot_ctr (s : State) (c g : Nat) : (freeSlot s c g).ctr = s.ctr := rfl
@[simp] theorem freeSlot_shorted (s : State) (c g : Nat) : (freeSlot s c g).shorted = s.shorted := rfl
@[simp] theorem freeSlot_linkDown (s : State) (c g : Nat) : (freeSlot s c g).linkDown = s.linkDown := rfl
@[simp] theorem freeSlot_mmio (s : State) (c g : Nat) : (freeSlot s c g).mmio = s.mmio := rfl
@[simp] theorem freeSlot_keys (s : State) (c g : Nat) : (freeSlot s c g).keys = s.keys := rfl
@[simp] theorem freeSlot_fw (s : State) (c g : Nat) : (freeSlot s c g).fw = s.fw := rfl
@[simp] theorem freeSlot_flash (s : State) (c g : Nat) : (freeSlot s c g).flash = s.flash := rfl
@[simp] theorem freeSlot_msix (s : State) (c g : Nat) : (freeSlot s c g).msix = s.msix := rfl
@[simp] theorem freeSlot_cxl (s : State) (c g : Nat) : (freeSlot s c g).cxl = s.cxl := rfl

/-! ### setTeam -/

@[simp] theorem setTeam_clk (s : State) (c t : Nat) (x : Team) : (setTeam s c t x).clk = s.clk := rfl
@[simp] theorem setTeam_moves (s : State) (c t : Nat) (x : Team) : (setTeam s c t x).moves = s.moves := rfl
@[simp] theorem setTeam_skew (s : State) (c t : Nat) (x : Team) : (setTeam s c t x).skew = s.skew := rfl
@[simp] theorem setTeam_power (s : State) (c t : Nat) (x : Team) : (setTeam s c t x).power = s.power := rfl
@[simp] theorem setTeam_sched (s : State) (c t : Nat) (x : Team) : (setTeam s c t x).sched = s.sched := rfl
@[simp] theorem setTeam_net (s : State) (c t : Nat) (x : Team) : (setTeam s c t x).net = s.net := rfl
@[simp] theorem setTeam_timers (s : State) (c t : Nat) (x : Team) : (setTeam s c t x).timers = s.timers := rfl
@[simp] theorem setTeam_cur (s : State) (c t : Nat) (x : Team) : (setTeam s c t x).cur = s.cur := rfl
@[simp] theorem setTeam_free (s : State) (c t : Nat) (x : Team) : (setTeam s c t x).free = s.free := rfl
@[simp] theorem setTeam_uids (s : State) (c t : Nat) (x : Team) : (setTeam s c t x).uids = s.uids := rfl
@[simp] theorem setTeam_mem (s : State) (c t : Nat) (x : Team) : (setTeam s c t x).mem = s.mem := rfl
@[simp] theorem setTeam_dram (s : State) (c t : Nat) (x : Team) : (setTeam s c t x).dram = s.dram := rfl
@[simp] theorem setTeam_parity (s : State) (c t : Nat) (x : Team) : (setTeam s c t x).parity = s.parity := rfl
@[simp] theorem setTeam_poison (s : State) (c t : Nat) (x : Team) : (setTeam s c t x).poison = s.poison := rfl
@[simp] theorem setTeam_hpoison (s : State) (c t : Nat) (x : Team) : (setTeam s c t x).hpoison = s.hpoison := rfl
@[simp] theorem setTeam_ecc (s : State) (c t : Nat) (x : Team) : (setTeam s c t x).ecc = s.ecc := rfl
@[simp] theorem setTeam_merged (s : State) (c t : Nat) (x : Team) : (setTeam s c t x).merged = s.merged := rfl
@[simp] theorem setTeam_l2 (s : State) (c t : Nat) (x : Team) : (setTeam s c t x).l2 = s.l2 := rfl
@[simp] theorem setTeam_dir (s : State) (c t : Nat) (x : Team) : (setTeam s c t x).dir = s.dir := rfl
@[simp] theorem setTeam_home (s : State) (c t : Nat) (x : Team) : (setTeam s c t x).home = s.home := rfl
@[simp] theorem setTeam_replicas (s : State) (c t : Nat) (x : Team) : (setTeam s c t x).replicas = s.replicas := rfl
@[simp] theorem setTeam_redirects (s : State) (c t : Nat) (x : Team) : (setTeam s c t x).redirects = s.redirects := rfl
@[simp] theorem setTeam_readWin (s : State) (c t : Nat) (x : Team) : (setTeam s c t x).readWin = s.readWin := rfl
@[simp] theorem setTeam_wroteWin (s : State) (c t : Nat) (x : Team) : (setTeam s c t x).wroteWin = s.wroteWin := rfl
@[simp] theorem setTeam_dies (s : State) (c t : Nat) (x : Team) : (setTeam s c t x).dies = s.dies := rfl
@[simp] theorem setTeam_hbm (s : State) (c t : Nat) (x : Team) : (setTeam s c t x).hbm = s.hbm := rfl
@[simp] theorem setTeam_clusters (s : State) (c t : Nat) (x : Team) : (setTeam s c t x).clusters = s.clusters := rfl
@[simp] theorem setTeam_grids (s : State) (c t : Nat) (x : Team) : (setTeam s c t x).grids = s.grids := rfl
@[simp] theorem setTeam_gangs (s : State) (c t : Nat) (x : Team) : (setTeam s c t x).gangs = s.gangs := rfl
@[simp] theorem setTeam_ctxs (s : State) (c t : Nat) (x : Team) : (setTeam s c t x).ctxs = s.ctxs := rfl
@[simp] theorem setTeam_hslots (s : State) (c t : Nat) (x : Team) : (setTeam s c t x).hslots = s.hslots := rfl
@[simp] theorem setTeam_pkts (s : State) (c t : Nat) (x : Team) : (setTeam s c t x).pkts = s.pkts := rfl
@[simp] theorem setTeam_copies (s : State) (c t : Nat) (x : Team) : (setTeam s c t x).copies = s.copies := rfl
@[simp] theorem setTeam_asks (s : State) (c t : Nat) (x : Team) : (setTeam s c t x).asks = s.asks := rfl
@[simp] theorem setTeam_reds (s : State) (c t : Nat) (x : Team) : (setTeam s c t x).reds = s.reds := rfl
@[simp] theorem setTeam_redAt (s : State) (c t : Nat) (x : Team) : (setTeam s c t x).redAt = s.redAt := rfl
@[simp] theorem setTeam_extPend (s : State) (c t : Nat) (x : Team) : (setTeam s c t x).extPend = s.extPend := rfl
@[simp] theorem setTeam_extOut (s : State) (c t : Nat) (x : Team) : (setTeam s c t x).extOut = s.extOut := rfl
@[simp] theorem setTeam_ats (s : State) (c t : Nat) (x : Team) : (setTeam s c t x).ats = s.ats := rfl
@[simp] theorem setTeam_pri (s : State) (c t : Nat) (x : Team) : (setTeam s c t x).pri = s.pri := rfl
@[simp] theorem setTeam_atsInv (s : State) (c t : Nat) (x : Team) : (setTeam s c t x).atsInv = s.atsInv := rfl
@[simp] theorem setTeam_invSent (s : State) (c t : Nat) (x : Team) : (setTeam s c t x).invSent = s.invSent := rfl
@[simp] theorem setTeam_priStops (s : State) (c t : Nat) (x : Team) : (setTeam s c t x).priStops = s.priStops := rfl
@[simp] theorem setTeam_ring (s : State) (c t : Nat) (x : Team) : (setTeam s c t x).ring = s.ring := rfl
@[simp] theorem setTeam_ringNext (s : State) (c t : Nat) (x : Team) : (setTeam s c t x).ringNext = s.ringNext := rfl
@[simp] theorem setTeam_ingress (s : State) (c t : Nat) (x : Team) : (setTeam s c t x).ingress = s.ingress := rfl
@[simp] theorem setTeam_landing (s : State) (c t : Nat) (x : Team) : (setTeam s c t x).landing = s.landing := rfl
@[simp] theorem setTeam_ctr (s : State) (c t : Nat) (x : Team) : (setTeam s c t x).ctr = s.ctr := rfl
@[simp] theorem setTeam_shorted (s : State) (c t : Nat) (x : Team) : (setTeam s c t x).shorted = s.shorted := rfl
@[simp] theorem setTeam_linkDown (s : State) (c t : Nat) (x : Team) : (setTeam s c t x).linkDown = s.linkDown := rfl
@[simp] theorem setTeam_mmio (s : State) (c t : Nat) (x : Team) : (setTeam s c t x).mmio = s.mmio := rfl
@[simp] theorem setTeam_keys (s : State) (c t : Nat) (x : Team) : (setTeam s c t x).keys = s.keys := rfl
@[simp] theorem setTeam_fw (s : State) (c t : Nat) (x : Team) : (setTeam s c t x).fw = s.fw := rfl
@[simp] theorem setTeam_flash (s : State) (c t : Nat) (x : Team) : (setTeam s c t x).flash = s.flash := rfl
@[simp] theorem setTeam_msix (s : State) (c t : Nat) (x : Team) : (setTeam s c t x).msix = s.msix := rfl
@[simp] theorem setTeam_cxl (s : State) (c t : Nat) (x : Team) : (setTeam s c t x).cxl = s.cxl := rfl

/-! ### modTeam -/

@[simp] theorem modTeam_clk (s : State) (c t : Nat) (f : Team → Team) : (modTeam s c t f).clk = s.clk := rfl
@[simp] theorem modTeam_moves (s : State) (c t : Nat) (f : Team → Team) : (modTeam s c t f).moves = s.moves := rfl
@[simp] theorem modTeam_skew (s : State) (c t : Nat) (f : Team → Team) : (modTeam s c t f).skew = s.skew := rfl
@[simp] theorem modTeam_power (s : State) (c t : Nat) (f : Team → Team) : (modTeam s c t f).power = s.power := rfl
@[simp] theorem modTeam_sched (s : State) (c t : Nat) (f : Team → Team) : (modTeam s c t f).sched = s.sched := rfl
@[simp] theorem modTeam_net (s : State) (c t : Nat) (f : Team → Team) : (modTeam s c t f).net = s.net := rfl
@[simp] theorem modTeam_timers (s : State) (c t : Nat) (f : Team → Team) : (modTeam s c t f).timers = s.timers := rfl
@[simp] theorem modTeam_cur (s : State) (c t : Nat) (f : Team → Team) : (modTeam s c t f).cur = s.cur := rfl
@[simp] theorem modTeam_free (s : State) (c t : Nat) (f : Team → Team) : (modTeam s c t f).free = s.free := rfl
@[simp] theorem modTeam_uids (s : State) (c t : Nat) (f : Team → Team) : (modTeam s c t f).uids = s.uids := rfl
@[simp] theorem modTeam_mem (s : State) (c t : Nat) (f : Team → Team) : (modTeam s c t f).mem = s.mem := rfl
@[simp] theorem modTeam_dram (s : State) (c t : Nat) (f : Team → Team) : (modTeam s c t f).dram = s.dram := rfl
@[simp] theorem modTeam_parity (s : State) (c t : Nat) (f : Team → Team) : (modTeam s c t f).parity = s.parity := rfl
@[simp] theorem modTeam_poison (s : State) (c t : Nat) (f : Team → Team) : (modTeam s c t f).poison = s.poison := rfl
@[simp] theorem modTeam_hpoison (s : State) (c t : Nat) (f : Team → Team) : (modTeam s c t f).hpoison = s.hpoison := rfl
@[simp] theorem modTeam_ecc (s : State) (c t : Nat) (f : Team → Team) : (modTeam s c t f).ecc = s.ecc := rfl
@[simp] theorem modTeam_merged (s : State) (c t : Nat) (f : Team → Team) : (modTeam s c t f).merged = s.merged := rfl
@[simp] theorem modTeam_l2 (s : State) (c t : Nat) (f : Team → Team) : (modTeam s c t f).l2 = s.l2 := rfl
@[simp] theorem modTeam_dir (s : State) (c t : Nat) (f : Team → Team) : (modTeam s c t f).dir = s.dir := rfl
@[simp] theorem modTeam_home (s : State) (c t : Nat) (f : Team → Team) : (modTeam s c t f).home = s.home := rfl
@[simp] theorem modTeam_replicas (s : State) (c t : Nat) (f : Team → Team) : (modTeam s c t f).replicas = s.replicas := rfl
@[simp] theorem modTeam_redirects (s : State) (c t : Nat) (f : Team → Team) : (modTeam s c t f).redirects = s.redirects := rfl
@[simp] theorem modTeam_readWin (s : State) (c t : Nat) (f : Team → Team) : (modTeam s c t f).readWin = s.readWin := rfl
@[simp] theorem modTeam_wroteWin (s : State) (c t : Nat) (f : Team → Team) : (modTeam s c t f).wroteWin = s.wroteWin := rfl
@[simp] theorem modTeam_dies (s : State) (c t : Nat) (f : Team → Team) : (modTeam s c t f).dies = s.dies := rfl
@[simp] theorem modTeam_hbm (s : State) (c t : Nat) (f : Team → Team) : (modTeam s c t f).hbm = s.hbm := rfl
@[simp] theorem modTeam_clusters (s : State) (c t : Nat) (f : Team → Team) : (modTeam s c t f).clusters = s.clusters := rfl
@[simp] theorem modTeam_grids (s : State) (c t : Nat) (f : Team → Team) : (modTeam s c t f).grids = s.grids := rfl
@[simp] theorem modTeam_gangs (s : State) (c t : Nat) (f : Team → Team) : (modTeam s c t f).gangs = s.gangs := rfl
@[simp] theorem modTeam_ctxs (s : State) (c t : Nat) (f : Team → Team) : (modTeam s c t f).ctxs = s.ctxs := rfl
@[simp] theorem modTeam_hslots (s : State) (c t : Nat) (f : Team → Team) : (modTeam s c t f).hslots = s.hslots := rfl
@[simp] theorem modTeam_pkts (s : State) (c t : Nat) (f : Team → Team) : (modTeam s c t f).pkts = s.pkts := rfl
@[simp] theorem modTeam_copies (s : State) (c t : Nat) (f : Team → Team) : (modTeam s c t f).copies = s.copies := rfl
@[simp] theorem modTeam_asks (s : State) (c t : Nat) (f : Team → Team) : (modTeam s c t f).asks = s.asks := rfl
@[simp] theorem modTeam_reds (s : State) (c t : Nat) (f : Team → Team) : (modTeam s c t f).reds = s.reds := rfl
@[simp] theorem modTeam_redAt (s : State) (c t : Nat) (f : Team → Team) : (modTeam s c t f).redAt = s.redAt := rfl
@[simp] theorem modTeam_extPend (s : State) (c t : Nat) (f : Team → Team) : (modTeam s c t f).extPend = s.extPend := rfl
@[simp] theorem modTeam_extOut (s : State) (c t : Nat) (f : Team → Team) : (modTeam s c t f).extOut = s.extOut := rfl
@[simp] theorem modTeam_ats (s : State) (c t : Nat) (f : Team → Team) : (modTeam s c t f).ats = s.ats := rfl
@[simp] theorem modTeam_pri (s : State) (c t : Nat) (f : Team → Team) : (modTeam s c t f).pri = s.pri := rfl
@[simp] theorem modTeam_atsInv (s : State) (c t : Nat) (f : Team → Team) : (modTeam s c t f).atsInv = s.atsInv := rfl
@[simp] theorem modTeam_invSent (s : State) (c t : Nat) (f : Team → Team) : (modTeam s c t f).invSent = s.invSent := rfl
@[simp] theorem modTeam_priStops (s : State) (c t : Nat) (f : Team → Team) : (modTeam s c t f).priStops = s.priStops := rfl
@[simp] theorem modTeam_ring (s : State) (c t : Nat) (f : Team → Team) : (modTeam s c t f).ring = s.ring := rfl
@[simp] theorem modTeam_ringNext (s : State) (c t : Nat) (f : Team → Team) : (modTeam s c t f).ringNext = s.ringNext := rfl
@[simp] theorem modTeam_ingress (s : State) (c t : Nat) (f : Team → Team) : (modTeam s c t f).ingress = s.ingress := rfl
@[simp] theorem modTeam_landing (s : State) (c t : Nat) (f : Team → Team) : (modTeam s c t f).landing = s.landing := rfl
@[simp] theorem modTeam_ctr (s : State) (c t : Nat) (f : Team → Team) : (modTeam s c t f).ctr = s.ctr := rfl
@[simp] theorem modTeam_shorted (s : State) (c t : Nat) (f : Team → Team) : (modTeam s c t f).shorted = s.shorted := rfl
@[simp] theorem modTeam_linkDown (s : State) (c t : Nat) (f : Team → Team) : (modTeam s c t f).linkDown = s.linkDown := rfl
@[simp] theorem modTeam_mmio (s : State) (c t : Nat) (f : Team → Team) : (modTeam s c t f).mmio = s.mmio := rfl
@[simp] theorem modTeam_keys (s : State) (c t : Nat) (f : Team → Team) : (modTeam s c t f).keys = s.keys := rfl
@[simp] theorem modTeam_fw (s : State) (c t : Nat) (f : Team → Team) : (modTeam s c t f).fw = s.fw := rfl
@[simp] theorem modTeam_flash (s : State) (c t : Nat) (f : Team → Team) : (modTeam s c t f).flash = s.flash := rfl
@[simp] theorem modTeam_msix (s : State) (c t : Nat) (f : Team → Team) : (modTeam s c t f).msix = s.msix := rfl
@[simp] theorem modTeam_cxl (s : State) (c t : Nat) (f : Team → Team) : (modTeam s c t f).cxl = s.cxl := rfl

/-! ### modDie -/

@[simp] theorem modDie_dies (s : State) (d : Nat) (f : Die → Die) : (modDie s d f).dies = aset s.dies d (f (dieAt s d)) := rfl
@[simp] theorem modDie_clk (s : State) (d : Nat) (f : Die → Die) : (modDie s d f).clk = s.clk := rfl
@[simp] theorem modDie_moves (s : State) (d : Nat) (f : Die → Die) : (modDie s d f).moves = s.moves := rfl
@[simp] theorem modDie_skew (s : State) (d : Nat) (f : Die → Die) : (modDie s d f).skew = s.skew := rfl
@[simp] theorem modDie_power (s : State) (d : Nat) (f : Die → Die) : (modDie s d f).power = s.power := rfl
@[simp] theorem modDie_sched (s : State) (d : Nat) (f : Die → Die) : (modDie s d f).sched = s.sched := rfl
@[simp] theorem modDie_net (s : State) (d : Nat) (f : Die → Die) : (modDie s d f).net = s.net := rfl
@[simp] theorem modDie_timers (s : State) (d : Nat) (f : Die → Die) : (modDie s d f).timers = s.timers := rfl
@[simp] theorem modDie_cur (s : State) (d : Nat) (f : Die → Die) : (modDie s d f).cur = s.cur := rfl
@[simp] theorem modDie_free (s : State) (d : Nat) (f : Die → Die) : (modDie s d f).free = s.free := rfl
@[simp] theorem modDie_uids (s : State) (d : Nat) (f : Die → Die) : (modDie s d f).uids = s.uids := rfl
@[simp] theorem modDie_mem (s : State) (d : Nat) (f : Die → Die) : (modDie s d f).mem = s.mem := rfl
@[simp] theorem modDie_dram (s : State) (d : Nat) (f : Die → Die) : (modDie s d f).dram = s.dram := rfl
@[simp] theorem modDie_parity (s : State) (d : Nat) (f : Die → Die) : (modDie s d f).parity = s.parity := rfl
@[simp] theorem modDie_poison (s : State) (d : Nat) (f : Die → Die) : (modDie s d f).poison = s.poison := rfl
@[simp] theorem modDie_hpoison (s : State) (d : Nat) (f : Die → Die) : (modDie s d f).hpoison = s.hpoison := rfl
@[simp] theorem modDie_ecc (s : State) (d : Nat) (f : Die → Die) : (modDie s d f).ecc = s.ecc := rfl
@[simp] theorem modDie_merged (s : State) (d : Nat) (f : Die → Die) : (modDie s d f).merged = s.merged := rfl
@[simp] theorem modDie_l2 (s : State) (d : Nat) (f : Die → Die) : (modDie s d f).l2 = s.l2 := rfl
@[simp] theorem modDie_dir (s : State) (d : Nat) (f : Die → Die) : (modDie s d f).dir = s.dir := rfl
@[simp] theorem modDie_home (s : State) (d : Nat) (f : Die → Die) : (modDie s d f).home = s.home := rfl
@[simp] theorem modDie_replicas (s : State) (d : Nat) (f : Die → Die) : (modDie s d f).replicas = s.replicas := rfl
@[simp] theorem modDie_redirects (s : State) (d : Nat) (f : Die → Die) : (modDie s d f).redirects = s.redirects := rfl
@[simp] theorem modDie_readWin (s : State) (d : Nat) (f : Die → Die) : (modDie s d f).readWin = s.readWin := rfl
@[simp] theorem modDie_wroteWin (s : State) (d : Nat) (f : Die → Die) : (modDie s d f).wroteWin = s.wroteWin := rfl
@[simp] theorem modDie_cores (s : State) (d : Nat) (f : Die → Die) : (modDie s d f).cores = s.cores := rfl
@[simp] theorem modDie_hbm (s : State) (d : Nat) (f : Die → Die) : (modDie s d f).hbm = s.hbm := rfl
@[simp] theorem modDie_clusters (s : State) (d : Nat) (f : Die → Die) : (modDie s d f).clusters = s.clusters := rfl
@[simp] theorem modDie_grids (s : State) (d : Nat) (f : Die → Die) : (modDie s d f).grids = s.grids := rfl
@[simp] theorem modDie_gangs (s : State) (d : Nat) (f : Die → Die) : (modDie s d f).gangs = s.gangs := rfl
@[simp] theorem modDie_ctxs (s : State) (d : Nat) (f : Die → Die) : (modDie s d f).ctxs = s.ctxs := rfl
@[simp] theorem modDie_hslots (s : State) (d : Nat) (f : Die → Die) : (modDie s d f).hslots = s.hslots := rfl
@[simp] theorem modDie_pkts (s : State) (d : Nat) (f : Die → Die) : (modDie s d f).pkts = s.pkts := rfl
@[simp] theorem modDie_copies (s : State) (d : Nat) (f : Die → Die) : (modDie s d f).copies = s.copies := rfl
@[simp] theorem modDie_asks (s : State) (d : Nat) (f : Die → Die) : (modDie s d f).asks = s.asks := rfl
@[simp] theorem modDie_reds (s : State) (d : Nat) (f : Die → Die) : (modDie s d f).reds = s.reds := rfl
@[simp] theorem modDie_redAt (s : State) (d : Nat) (f : Die → Die) : (modDie s d f).redAt = s.redAt := rfl
@[simp] theorem modDie_extPend (s : State) (d : Nat) (f : Die → Die) : (modDie s d f).extPend = s.extPend := rfl
@[simp] theorem modDie_extOut (s : State) (d : Nat) (f : Die → Die) : (modDie s d f).extOut = s.extOut := rfl
@[simp] theorem modDie_ats (s : State) (d : Nat) (f : Die → Die) : (modDie s d f).ats = s.ats := rfl
@[simp] theorem modDie_pri (s : State) (d : Nat) (f : Die → Die) : (modDie s d f).pri = s.pri := rfl
@[simp] theorem modDie_atsInv (s : State) (d : Nat) (f : Die → Die) : (modDie s d f).atsInv = s.atsInv := rfl
@[simp] theorem modDie_invSent (s : State) (d : Nat) (f : Die → Die) : (modDie s d f).invSent = s.invSent := rfl
@[simp] theorem modDie_priStops (s : State) (d : Nat) (f : Die → Die) : (modDie s d f).priStops = s.priStops := rfl
@[simp] theorem modDie_ring (s : State) (d : Nat) (f : Die → Die) : (modDie s d f).ring = s.ring := rfl
@[simp] theorem modDie_ringNext (s : State) (d : Nat) (f : Die → Die) : (modDie s d f).ringNext = s.ringNext := rfl
@[simp] theorem modDie_ingress (s : State) (d : Nat) (f : Die → Die) : (modDie s d f).ingress = s.ingress := rfl
@[simp] theorem modDie_landing (s : State) (d : Nat) (f : Die → Die) : (modDie s d f).landing = s.landing := rfl
@[simp] theorem modDie_ctr (s : State) (d : Nat) (f : Die → Die) : (modDie s d f).ctr = s.ctr := rfl
@[simp] theorem modDie_shorted (s : State) (d : Nat) (f : Die → Die) : (modDie s d f).shorted = s.shorted := rfl
@[simp] theorem modDie_linkDown (s : State) (d : Nat) (f : Die → Die) : (modDie s d f).linkDown = s.linkDown := rfl
@[simp] theorem modDie_mmio (s : State) (d : Nat) (f : Die → Die) : (modDie s d f).mmio = s.mmio := rfl
@[simp] theorem modDie_keys (s : State) (d : Nat) (f : Die → Die) : (modDie s d f).keys = s.keys := rfl
@[simp] theorem modDie_fw (s : State) (d : Nat) (f : Die → Die) : (modDie s d f).fw = s.fw := rfl
@[simp] theorem modDie_flash (s : State) (d : Nat) (f : Die → Die) : (modDie s d f).flash = s.flash := rfl
@[simp] theorem modDie_msix (s : State) (d : Nat) (f : Die → Die) : (modDie s d f).msix = s.msix := rfl
@[simp] theorem modDie_cxl (s : State) (d : Nat) (f : Die → Die) : (modDie s d f).cxl = s.cxl := rfl

/-! ### modStack -/

@[simp] theorem modStack_hbm (s : State) (x : Nat) (f : Stack → Stack) : (modStack s x f).hbm = aset s.hbm x (f (stackAt s x)) := rfl
@[simp] theorem modStack_clk (s : State) (x : Nat) (f : Stack → Stack) : (modStack s x f).clk = s.clk := rfl
@[simp] theorem modStack_moves (s : State) (x : Nat) (f : Stack → Stack) : (modStack s x f).moves = s.moves := rfl
@[simp] theorem modStack_skew (s : State) (x : Nat) (f : Stack → Stack) : (modStack s x f).skew = s.skew := rfl
@[simp] theorem modStack_power (s : State) (x : Nat) (f : Stack → Stack) : (modStack s x f).power = s.power := rfl
@[simp] theorem modStack_sched (s : State) (x : Nat) (f : Stack → Stack) : (modStack s x f).sched = s.sched := rfl
@[simp] theorem modStack_net (s : State) (x : Nat) (f : Stack → Stack) : (modStack s x f).net = s.net := rfl
@[simp] theorem modStack_timers (s : State) (x : Nat) (f : Stack → Stack) : (modStack s x f).timers = s.timers := rfl
@[simp] theorem modStack_cur (s : State) (x : Nat) (f : Stack → Stack) : (modStack s x f).cur = s.cur := rfl
@[simp] theorem modStack_free (s : State) (x : Nat) (f : Stack → Stack) : (modStack s x f).free = s.free := rfl
@[simp] theorem modStack_uids (s : State) (x : Nat) (f : Stack → Stack) : (modStack s x f).uids = s.uids := rfl
@[simp] theorem modStack_mem (s : State) (x : Nat) (f : Stack → Stack) : (modStack s x f).mem = s.mem := rfl
@[simp] theorem modStack_dram (s : State) (x : Nat) (f : Stack → Stack) : (modStack s x f).dram = s.dram := rfl
@[simp] theorem modStack_parity (s : State) (x : Nat) (f : Stack → Stack) : (modStack s x f).parity = s.parity := rfl
@[simp] theorem modStack_poison (s : State) (x : Nat) (f : Stack → Stack) : (modStack s x f).poison = s.poison := rfl
@[simp] theorem modStack_hpoison (s : State) (x : Nat) (f : Stack → Stack) : (modStack s x f).hpoison = s.hpoison := rfl
@[simp] theorem modStack_ecc (s : State) (x : Nat) (f : Stack → Stack) : (modStack s x f).ecc = s.ecc := rfl
@[simp] theorem modStack_merged (s : State) (x : Nat) (f : Stack → Stack) : (modStack s x f).merged = s.merged := rfl
@[simp] theorem modStack_l2 (s : State) (x : Nat) (f : Stack → Stack) : (modStack s x f).l2 = s.l2 := rfl
@[simp] theorem modStack_dir (s : State) (x : Nat) (f : Stack → Stack) : (modStack s x f).dir = s.dir := rfl
@[simp] theorem modStack_home (s : State) (x : Nat) (f : Stack → Stack) : (modStack s x f).home = s.home := rfl
@[simp] theorem modStack_replicas (s : State) (x : Nat) (f : Stack → Stack) : (modStack s x f).replicas = s.replicas := rfl
@[simp] theorem modStack_redirects (s : State) (x : Nat) (f : Stack → Stack) : (modStack s x f).redirects = s.redirects := rfl
@[simp] theorem modStack_readWin (s : State) (x : Nat) (f : Stack → Stack) : (modStack s x f).readWin = s.readWin := rfl
@[simp] theorem modStack_wroteWin (s : State) (x : Nat) (f : Stack → Stack) : (modStack s x f).wroteWin = s.wroteWin := rfl
@[simp] theorem modStack_cores (s : State) (x : Nat) (f : Stack → Stack) : (modStack s x f).cores = s.cores := rfl
@[simp] theorem modStack_dies (s : State) (x : Nat) (f : Stack → Stack) : (modStack s x f).dies = s.dies := rfl
@[simp] theorem modStack_clusters (s : State) (x : Nat) (f : Stack → Stack) : (modStack s x f).clusters = s.clusters := rfl
@[simp] theorem modStack_grids (s : State) (x : Nat) (f : Stack → Stack) : (modStack s x f).grids = s.grids := rfl
@[simp] theorem modStack_gangs (s : State) (x : Nat) (f : Stack → Stack) : (modStack s x f).gangs = s.gangs := rfl
@[simp] theorem modStack_ctxs (s : State) (x : Nat) (f : Stack → Stack) : (modStack s x f).ctxs = s.ctxs := rfl
@[simp] theorem modStack_hslots (s : State) (x : Nat) (f : Stack → Stack) : (modStack s x f).hslots = s.hslots := rfl
@[simp] theorem modStack_pkts (s : State) (x : Nat) (f : Stack → Stack) : (modStack s x f).pkts = s.pkts := rfl
@[simp] theorem modStack_copies (s : State) (x : Nat) (f : Stack → Stack) : (modStack s x f).copies = s.copies := rfl
@[simp] theorem modStack_asks (s : State) (x : Nat) (f : Stack → Stack) : (modStack s x f).asks = s.asks := rfl
@[simp] theorem modStack_reds (s : State) (x : Nat) (f : Stack → Stack) : (modStack s x f).reds = s.reds := rfl
@[simp] theorem modStack_redAt (s : State) (x : Nat) (f : Stack → Stack) : (modStack s x f).redAt = s.redAt := rfl
@[simp] theorem modStack_extPend (s : State) (x : Nat) (f : Stack → Stack) : (modStack s x f).extPend = s.extPend := rfl
@[simp] theorem modStack_extOut (s : State) (x : Nat) (f : Stack → Stack) : (modStack s x f).extOut = s.extOut := rfl
@[simp] theorem modStack_ats (s : State) (x : Nat) (f : Stack → Stack) : (modStack s x f).ats = s.ats := rfl
@[simp] theorem modStack_pri (s : State) (x : Nat) (f : Stack → Stack) : (modStack s x f).pri = s.pri := rfl
@[simp] theorem modStack_atsInv (s : State) (x : Nat) (f : Stack → Stack) : (modStack s x f).atsInv = s.atsInv := rfl
@[simp] theorem modStack_invSent (s : State) (x : Nat) (f : Stack → Stack) : (modStack s x f).invSent = s.invSent := rfl
@[simp] theorem modStack_priStops (s : State) (x : Nat) (f : Stack → Stack) : (modStack s x f).priStops = s.priStops := rfl
@[simp] theorem modStack_ring (s : State) (x : Nat) (f : Stack → Stack) : (modStack s x f).ring = s.ring := rfl
@[simp] theorem modStack_ringNext (s : State) (x : Nat) (f : Stack → Stack) : (modStack s x f).ringNext = s.ringNext := rfl
@[simp] theorem modStack_ingress (s : State) (x : Nat) (f : Stack → Stack) : (modStack s x f).ingress = s.ingress := rfl
@[simp] theorem modStack_landing (s : State) (x : Nat) (f : Stack → Stack) : (modStack s x f).landing = s.landing := rfl
@[simp] theorem modStack_ctr (s : State) (x : Nat) (f : Stack → Stack) : (modStack s x f).ctr = s.ctr := rfl
@[simp] theorem modStack_shorted (s : State) (x : Nat) (f : Stack → Stack) : (modStack s x f).shorted = s.shorted := rfl
@[simp] theorem modStack_linkDown (s : State) (x : Nat) (f : Stack → Stack) : (modStack s x f).linkDown = s.linkDown := rfl
@[simp] theorem modStack_mmio (s : State) (x : Nat) (f : Stack → Stack) : (modStack s x f).mmio = s.mmio := rfl
@[simp] theorem modStack_keys (s : State) (x : Nat) (f : Stack → Stack) : (modStack s x f).keys = s.keys := rfl
@[simp] theorem modStack_fw (s : State) (x : Nat) (f : Stack → Stack) : (modStack s x f).fw = s.fw := rfl
@[simp] theorem modStack_flash (s : State) (x : Nat) (f : Stack → Stack) : (modStack s x f).flash = s.flash := rfl
@[simp] theorem modStack_msix (s : State) (x : Nat) (f : Stack → Stack) : (modStack s x f).msix = s.msix := rfl
@[simp] theorem modStack_cxl (s : State) (x : Nat) (f : Stack → Stack) : (modStack s x f).cxl = s.cxl := rfl

/-! ### modGrid -/

@[simp] theorem modGrid_grids (s : State) (g : Nat) (f : Grid → Grid) : (modGrid s g f).grids = amod s.grids g f := rfl
@[simp] theorem modGrid_clk (s : State) (g : Nat) (f : Grid → Grid) : (modGrid s g f).clk = s.clk := rfl
@[simp] theorem modGrid_moves (s : State) (g : Nat) (f : Grid → Grid) : (modGrid s g f).moves = s.moves := rfl
@[simp] theorem modGrid_skew (s : State) (g : Nat) (f : Grid → Grid) : (modGrid s g f).skew = s.skew := rfl
@[simp] theorem modGrid_power (s : State) (g : Nat) (f : Grid → Grid) : (modGrid s g f).power = s.power := rfl
@[simp] theorem modGrid_sched (s : State) (g : Nat) (f : Grid → Grid) : (modGrid s g f).sched = s.sched := rfl
@[simp] theorem modGrid_net (s : State) (g : Nat) (f : Grid → Grid) : (modGrid s g f).net = s.net := rfl
@[simp] theorem modGrid_timers (s : State) (g : Nat) (f : Grid → Grid) : (modGrid s g f).timers = s.timers := rfl
@[simp] theorem modGrid_cur (s : State) (g : Nat) (f : Grid → Grid) : (modGrid s g f).cur = s.cur := rfl
@[simp] theorem modGrid_free (s : State) (g : Nat) (f : Grid → Grid) : (modGrid s g f).free = s.free := rfl
@[simp] theorem modGrid_uids (s : State) (g : Nat) (f : Grid → Grid) : (modGrid s g f).uids = s.uids := rfl
@[simp] theorem modGrid_mem (s : State) (g : Nat) (f : Grid → Grid) : (modGrid s g f).mem = s.mem := rfl
@[simp] theorem modGrid_dram (s : State) (g : Nat) (f : Grid → Grid) : (modGrid s g f).dram = s.dram := rfl
@[simp] theorem modGrid_parity (s : State) (g : Nat) (f : Grid → Grid) : (modGrid s g f).parity = s.parity := rfl
@[simp] theorem modGrid_poison (s : State) (g : Nat) (f : Grid → Grid) : (modGrid s g f).poison = s.poison := rfl
@[simp] theorem modGrid_hpoison (s : State) (g : Nat) (f : Grid → Grid) : (modGrid s g f).hpoison = s.hpoison := rfl
@[simp] theorem modGrid_ecc (s : State) (g : Nat) (f : Grid → Grid) : (modGrid s g f).ecc = s.ecc := rfl
@[simp] theorem modGrid_merged (s : State) (g : Nat) (f : Grid → Grid) : (modGrid s g f).merged = s.merged := rfl
@[simp] theorem modGrid_l2 (s : State) (g : Nat) (f : Grid → Grid) : (modGrid s g f).l2 = s.l2 := rfl
@[simp] theorem modGrid_dir (s : State) (g : Nat) (f : Grid → Grid) : (modGrid s g f).dir = s.dir := rfl
@[simp] theorem modGrid_home (s : State) (g : Nat) (f : Grid → Grid) : (modGrid s g f).home = s.home := rfl
@[simp] theorem modGrid_replicas (s : State) (g : Nat) (f : Grid → Grid) : (modGrid s g f).replicas = s.replicas := rfl
@[simp] theorem modGrid_redirects (s : State) (g : Nat) (f : Grid → Grid) : (modGrid s g f).redirects = s.redirects := rfl
@[simp] theorem modGrid_readWin (s : State) (g : Nat) (f : Grid → Grid) : (modGrid s g f).readWin = s.readWin := rfl
@[simp] theorem modGrid_wroteWin (s : State) (g : Nat) (f : Grid → Grid) : (modGrid s g f).wroteWin = s.wroteWin := rfl
@[simp] theorem modGrid_cores (s : State) (g : Nat) (f : Grid → Grid) : (modGrid s g f).cores = s.cores := rfl
@[simp] theorem modGrid_dies (s : State) (g : Nat) (f : Grid → Grid) : (modGrid s g f).dies = s.dies := rfl
@[simp] theorem modGrid_hbm (s : State) (g : Nat) (f : Grid → Grid) : (modGrid s g f).hbm = s.hbm := rfl
@[simp] theorem modGrid_clusters (s : State) (g : Nat) (f : Grid → Grid) : (modGrid s g f).clusters = s.clusters := rfl
@[simp] theorem modGrid_gangs (s : State) (g : Nat) (f : Grid → Grid) : (modGrid s g f).gangs = s.gangs := rfl
@[simp] theorem modGrid_ctxs (s : State) (g : Nat) (f : Grid → Grid) : (modGrid s g f).ctxs = s.ctxs := rfl
@[simp] theorem modGrid_hslots (s : State) (g : Nat) (f : Grid → Grid) : (modGrid s g f).hslots = s.hslots := rfl
@[simp] theorem modGrid_pkts (s : State) (g : Nat) (f : Grid → Grid) : (modGrid s g f).pkts = s.pkts := rfl
@[simp] theorem modGrid_copies (s : State) (g : Nat) (f : Grid → Grid) : (modGrid s g f).copies = s.copies := rfl
@[simp] theorem modGrid_asks (s : State) (g : Nat) (f : Grid → Grid) : (modGrid s g f).asks = s.asks := rfl
@[simp] theorem modGrid_reds (s : State) (g : Nat) (f : Grid → Grid) : (modGrid s g f).reds = s.reds := rfl
@[simp] theorem modGrid_redAt (s : State) (g : Nat) (f : Grid → Grid) : (modGrid s g f).redAt = s.redAt := rfl
@[simp] theorem modGrid_extPend (s : State) (g : Nat) (f : Grid → Grid) : (modGrid s g f).extPend = s.extPend := rfl
@[simp] theorem modGrid_extOut (s : State) (g : Nat) (f : Grid → Grid) : (modGrid s g f).extOut = s.extOut := rfl
@[simp] theorem modGrid_ats (s : State) (g : Nat) (f : Grid → Grid) : (modGrid s g f).ats = s.ats := rfl
@[simp] theorem modGrid_pri (s : State) (g : Nat) (f : Grid → Grid) : (modGrid s g f).pri = s.pri := rfl
@[simp] theorem modGrid_atsInv (s : State) (g : Nat) (f : Grid → Grid) : (modGrid s g f).atsInv = s.atsInv := rfl
@[simp] theorem modGrid_invSent (s : State) (g : Nat) (f : Grid → Grid) : (modGrid s g f).invSent = s.invSent := rfl
@[simp] theorem modGrid_priStops (s : State) (g : Nat) (f : Grid → Grid) : (modGrid s g f).priStops = s.priStops := rfl
@[simp] theorem modGrid_ring (s : State) (g : Nat) (f : Grid → Grid) : (modGrid s g f).ring = s.ring := rfl
@[simp] theorem modGrid_ringNext (s : State) (g : Nat) (f : Grid → Grid) : (modGrid s g f).ringNext = s.ringNext := rfl
@[simp] theorem modGrid_ingress (s : State) (g : Nat) (f : Grid → Grid) : (modGrid s g f).ingress = s.ingress := rfl
@[simp] theorem modGrid_landing (s : State) (g : Nat) (f : Grid → Grid) : (modGrid s g f).landing = s.landing := rfl
@[simp] theorem modGrid_ctr (s : State) (g : Nat) (f : Grid → Grid) : (modGrid s g f).ctr = s.ctr := rfl
@[simp] theorem modGrid_shorted (s : State) (g : Nat) (f : Grid → Grid) : (modGrid s g f).shorted = s.shorted := rfl
@[simp] theorem modGrid_linkDown (s : State) (g : Nat) (f : Grid → Grid) : (modGrid s g f).linkDown = s.linkDown := rfl
@[simp] theorem modGrid_mmio (s : State) (g : Nat) (f : Grid → Grid) : (modGrid s g f).mmio = s.mmio := rfl
@[simp] theorem modGrid_keys (s : State) (g : Nat) (f : Grid → Grid) : (modGrid s g f).keys = s.keys := rfl
@[simp] theorem modGrid_fw (s : State) (g : Nat) (f : Grid → Grid) : (modGrid s g f).fw = s.fw := rfl
@[simp] theorem modGrid_flash (s : State) (g : Nat) (f : Grid → Grid) : (modGrid s g f).flash = s.flash := rfl
@[simp] theorem modGrid_msix (s : State) (g : Nat) (f : Grid → Grid) : (modGrid s g f).msix = s.msix := rfl
@[simp] theorem modGrid_cxl (s : State) (g : Nat) (f : Grid → Grid) : (modGrid s g f).cxl = s.cxl := rfl

/-! ### spendFree -/

@[simp] theorem spendFree_free (s : State)  : (spendFree s).free = s.free + 1024 := rfl
@[simp] theorem spendFree_clk (s : State)  : (spendFree s).clk = s.clk := rfl
@[simp] theorem spendFree_moves (s : State)  : (spendFree s).moves = s.moves := rfl
@[simp] theorem spendFree_skew (s : State)  : (spendFree s).skew = s.skew := rfl
@[simp] theorem spendFree_power (s : State)  : (spendFree s).power = s.power := rfl
@[simp] theorem spendFree_sched (s : State)  : (spendFree s).sched = s.sched := rfl
@[simp] theorem spendFree_net (s : State)  : (spendFree s).net = s.net := rfl
@[simp] theorem spendFree_timers (s : State)  : (spendFree s).timers = s.timers := rfl
@[simp] theorem spendFree_cur (s : State)  : (spendFree s).cur = s.cur := rfl
@[simp] theorem spendFree_uids (s : State)  : (spendFree s).uids = s.uids := rfl
@[simp] theorem spendFree_mem (s : State)  : (spendFree s).mem = s.mem := rfl
@[simp] theorem spendFree_dram (s : State)  : (spendFree s).dram = s.dram := rfl
@[simp] theorem spendFree_parity (s : State)  : (spendFree s).parity = s.parity := rfl
@[simp] theorem spendFree_poison (s : State)  : (spendFree s).poison = s.poison := rfl
@[simp] theorem spendFree_hpoison (s : State)  : (spendFree s).hpoison = s.hpoison := rfl
@[simp] theorem spendFree_ecc (s : State)  : (spendFree s).ecc = s.ecc := rfl
@[simp] theorem spendFree_merged (s : State)  : (spendFree s).merged = s.merged := rfl
@[simp] theorem spendFree_l2 (s : State)  : (spendFree s).l2 = s.l2 := rfl
@[simp] theorem spendFree_dir (s : State)  : (spendFree s).dir = s.dir := rfl
@[simp] theorem spendFree_home (s : State)  : (spendFree s).home = s.home := rfl
@[simp] theorem spendFree_replicas (s : State)  : (spendFree s).replicas = s.replicas := rfl
@[simp] theorem spendFree_redirects (s : State)  : (spendFree s).redirects = s.redirects := rfl
@[simp] theorem spendFree_readWin (s : State)  : (spendFree s).readWin = s.readWin := rfl
@[simp] theorem spendFree_wroteWin (s : State)  : (spendFree s).wroteWin = s.wroteWin := rfl
@[simp] theorem spendFree_cores (s : State)  : (spendFree s).cores = s.cores := rfl
@[simp] theorem spendFree_dies (s : State)  : (spendFree s).dies = s.dies := rfl
@[simp] theorem spendFree_hbm (s : State)  : (spendFree s).hbm = s.hbm := rfl
@[simp] theorem spendFree_clusters (s : State)  : (spendFree s).clusters = s.clusters := rfl
@[simp] theorem spendFree_grids (s : State)  : (spendFree s).grids = s.grids := rfl
@[simp] theorem spendFree_gangs (s : State)  : (spendFree s).gangs = s.gangs := rfl
@[simp] theorem spendFree_ctxs (s : State)  : (spendFree s).ctxs = s.ctxs := rfl
@[simp] theorem spendFree_hslots (s : State)  : (spendFree s).hslots = s.hslots := rfl
@[simp] theorem spendFree_pkts (s : State)  : (spendFree s).pkts = s.pkts := rfl
@[simp] theorem spendFree_copies (s : State)  : (spendFree s).copies = s.copies := rfl
@[simp] theorem spendFree_asks (s : State)  : (spendFree s).asks = s.asks := rfl
@[simp] theorem spendFree_reds (s : State)  : (spendFree s).reds = s.reds := rfl
@[simp] theorem spendFree_redAt (s : State)  : (spendFree s).redAt = s.redAt := rfl
@[simp] theorem spendFree_extPend (s : State)  : (spendFree s).extPend = s.extPend := rfl
@[simp] theorem spendFree_extOut (s : State)  : (spendFree s).extOut = s.extOut := rfl
@[simp] theorem spendFree_ats (s : State)  : (spendFree s).ats = s.ats := rfl
@[simp] theorem spendFree_pri (s : State)  : (spendFree s).pri = s.pri := rfl
@[simp] theorem spendFree_atsInv (s : State)  : (spendFree s).atsInv = s.atsInv := rfl
@[simp] theorem spendFree_invSent (s : State)  : (spendFree s).invSent = s.invSent := rfl
@[simp] theorem spendFree_priStops (s : State)  : (spendFree s).priStops = s.priStops := rfl
@[simp] theorem spendFree_ring (s : State)  : (spendFree s).ring = s.ring := rfl
@[simp] theorem spendFree_ringNext (s : State)  : (spendFree s).ringNext = s.ringNext := rfl
@[simp] theorem spendFree_ingress (s : State)  : (spendFree s).ingress = s.ingress := rfl
@[simp] theorem spendFree_landing (s : State)  : (spendFree s).landing = s.landing := rfl
@[simp] theorem spendFree_ctr (s : State)  : (spendFree s).ctr = s.ctr := rfl
@[simp] theorem spendFree_shorted (s : State)  : (spendFree s).shorted = s.shorted := rfl
@[simp] theorem spendFree_linkDown (s : State)  : (spendFree s).linkDown = s.linkDown := rfl
@[simp] theorem spendFree_mmio (s : State)  : (spendFree s).mmio = s.mmio := rfl
@[simp] theorem spendFree_keys (s : State)  : (spendFree s).keys = s.keys := rfl
@[simp] theorem spendFree_fw (s : State)  : (spendFree s).fw = s.fw := rfl
@[simp] theorem spendFree_flash (s : State)  : (spendFree s).flash = s.flash := rfl
@[simp] theorem spendFree_msix (s : State)  : (spendFree s).msix = s.msix := rfl
@[simp] theorem spendFree_cxl (s : State)  : (spendFree s).cxl = s.cxl := rfl

/-! ### ctrPut -/

@[simp] theorem ctrPut_clk (s : State) (k : Nat) (v : Dword) : (ctrPut s k v).clk = s.clk := rfl
@[simp] theorem ctrPut_moves (s : State) (k : Nat) (v : Dword) : (ctrPut s k v).moves = s.moves := rfl
@[simp] theorem ctrPut_skew (s : State) (k : Nat) (v : Dword) : (ctrPut s k v).skew = s.skew := rfl
@[simp] theorem ctrPut_power (s : State) (k : Nat) (v : Dword) : (ctrPut s k v).power = s.power := rfl
@[simp] theorem ctrPut_sched (s : State) (k : Nat) (v : Dword) : (ctrPut s k v).sched = s.sched := rfl
@[simp] theorem ctrPut_net (s : State) (k : Nat) (v : Dword) : (ctrPut s k v).net = s.net := rfl
@[simp] theorem ctrPut_timers (s : State) (k : Nat) (v : Dword) : (ctrPut s k v).timers = s.timers := rfl
@[simp] theorem ctrPut_cur (s : State) (k : Nat) (v : Dword) : (ctrPut s k v).cur = s.cur := rfl
@[simp] theorem ctrPut_free (s : State) (k : Nat) (v : Dword) : (ctrPut s k v).free = s.free := rfl
@[simp] theorem ctrPut_uids (s : State) (k : Nat) (v : Dword) : (ctrPut s k v).uids = s.uids := rfl
@[simp] theorem ctrPut_mem (s : State) (k : Nat) (v : Dword) : (ctrPut s k v).mem = s.mem := rfl
@[simp] theorem ctrPut_dram (s : State) (k : Nat) (v : Dword) : (ctrPut s k v).dram = s.dram := rfl
@[simp] theorem ctrPut_parity (s : State) (k : Nat) (v : Dword) : (ctrPut s k v).parity = s.parity := rfl
@[simp] theorem ctrPut_poison (s : State) (k : Nat) (v : Dword) : (ctrPut s k v).poison = s.poison := rfl
@[simp] theorem ctrPut_hpoison (s : State) (k : Nat) (v : Dword) : (ctrPut s k v).hpoison = s.hpoison := rfl
@[simp] theorem ctrPut_ecc (s : State) (k : Nat) (v : Dword) : (ctrPut s k v).ecc = s.ecc := rfl
@[simp] theorem ctrPut_merged (s : State) (k : Nat) (v : Dword) : (ctrPut s k v).merged = s.merged := rfl
@[simp] theorem ctrPut_l2 (s : State) (k : Nat) (v : Dword) : (ctrPut s k v).l2 = s.l2 := rfl
@[simp] theorem ctrPut_dir (s : State) (k : Nat) (v : Dword) : (ctrPut s k v).dir = s.dir := rfl
@[simp] theorem ctrPut_home (s : State) (k : Nat) (v : Dword) : (ctrPut s k v).home = s.home := rfl
@[simp] theorem ctrPut_replicas (s : State) (k : Nat) (v : Dword) : (ctrPut s k v).replicas = s.replicas := rfl
@[simp] theorem ctrPut_redirects (s : State) (k : Nat) (v : Dword) : (ctrPut s k v).redirects = s.redirects := rfl
@[simp] theorem ctrPut_readWin (s : State) (k : Nat) (v : Dword) : (ctrPut s k v).readWin = s.readWin := rfl
@[simp] theorem ctrPut_wroteWin (s : State) (k : Nat) (v : Dword) : (ctrPut s k v).wroteWin = s.wroteWin := rfl
@[simp] theorem ctrPut_cores (s : State) (k : Nat) (v : Dword) : (ctrPut s k v).cores = s.cores := rfl
@[simp] theorem ctrPut_dies (s : State) (k : Nat) (v : Dword) : (ctrPut s k v).dies = s.dies := rfl
@[simp] theorem ctrPut_hbm (s : State) (k : Nat) (v : Dword) : (ctrPut s k v).hbm = s.hbm := rfl
@[simp] theorem ctrPut_clusters (s : State) (k : Nat) (v : Dword) : (ctrPut s k v).clusters = s.clusters := rfl
@[simp] theorem ctrPut_grids (s : State) (k : Nat) (v : Dword) : (ctrPut s k v).grids = s.grids := rfl
@[simp] theorem ctrPut_gangs (s : State) (k : Nat) (v : Dword) : (ctrPut s k v).gangs = s.gangs := rfl
@[simp] theorem ctrPut_ctxs (s : State) (k : Nat) (v : Dword) : (ctrPut s k v).ctxs = s.ctxs := rfl
@[simp] theorem ctrPut_hslots (s : State) (k : Nat) (v : Dword) : (ctrPut s k v).hslots = s.hslots := rfl
@[simp] theorem ctrPut_pkts (s : State) (k : Nat) (v : Dword) : (ctrPut s k v).pkts = s.pkts := rfl
@[simp] theorem ctrPut_copies (s : State) (k : Nat) (v : Dword) : (ctrPut s k v).copies = s.copies := rfl
@[simp] theorem ctrPut_asks (s : State) (k : Nat) (v : Dword) : (ctrPut s k v).asks = s.asks := rfl
@[simp] theorem ctrPut_reds (s : State) (k : Nat) (v : Dword) : (ctrPut s k v).reds = s.reds := rfl
@[simp] theorem ctrPut_redAt (s : State) (k : Nat) (v : Dword) : (ctrPut s k v).redAt = s.redAt := rfl
@[simp] theorem ctrPut_extPend (s : State) (k : Nat) (v : Dword) : (ctrPut s k v).extPend = s.extPend := rfl
@[simp] theorem ctrPut_extOut (s : State) (k : Nat) (v : Dword) : (ctrPut s k v).extOut = s.extOut := rfl
@[simp] theorem ctrPut_ats (s : State) (k : Nat) (v : Dword) : (ctrPut s k v).ats = s.ats := rfl
@[simp] theorem ctrPut_pri (s : State) (k : Nat) (v : Dword) : (ctrPut s k v).pri = s.pri := rfl
@[simp] theorem ctrPut_atsInv (s : State) (k : Nat) (v : Dword) : (ctrPut s k v).atsInv = s.atsInv := rfl
@[simp] theorem ctrPut_invSent (s : State) (k : Nat) (v : Dword) : (ctrPut s k v).invSent = s.invSent := rfl
@[simp] theorem ctrPut_priStops (s : State) (k : Nat) (v : Dword) : (ctrPut s k v).priStops = s.priStops := rfl
@[simp] theorem ctrPut_ring (s : State) (k : Nat) (v : Dword) : (ctrPut s k v).ring = s.ring := rfl
@[simp] theorem ctrPut_ringNext (s : State) (k : Nat) (v : Dword) : (ctrPut s k v).ringNext = s.ringNext := rfl
@[simp] theorem ctrPut_ingress (s : State) (k : Nat) (v : Dword) : (ctrPut s k v).ingress = s.ingress := rfl
@[simp] theorem ctrPut_landing (s : State) (k : Nat) (v : Dword) : (ctrPut s k v).landing = s.landing := rfl
@[simp] theorem ctrPut_shorted (s : State) (k : Nat) (v : Dword) : (ctrPut s k v).shorted = s.shorted := rfl
@[simp] theorem ctrPut_linkDown (s : State) (k : Nat) (v : Dword) : (ctrPut s k v).linkDown = s.linkDown := rfl
@[simp] theorem ctrPut_mmio (s : State) (k : Nat) (v : Dword) : (ctrPut s k v).mmio = s.mmio := rfl
@[simp] theorem ctrPut_keys (s : State) (k : Nat) (v : Dword) : (ctrPut s k v).keys = s.keys := rfl
@[simp] theorem ctrPut_fw (s : State) (k : Nat) (v : Dword) : (ctrPut s k v).fw = s.fw := rfl
@[simp] theorem ctrPut_flash (s : State) (k : Nat) (v : Dword) : (ctrPut s k v).flash = s.flash := rfl
@[simp] theorem ctrPut_msix (s : State) (k : Nat) (v : Dword) : (ctrPut s k v).msix = s.msix := rfl
@[simp] theorem ctrPut_cxl (s : State) (k : Nat) (v : Dword) : (ctrPut s k v).cxl = s.cxl := rfl

/-! ### send -/

@[simp] theorem send_net (s : State) (a b : Nat) (e : Instr) : (send s a b e).net = s.net ++ [{ src := a, dst := b, ev := e }] := rfl
@[simp] theorem send_clk (s : State) (a b : Nat) (e : Instr) : (send s a b e).clk = s.clk := rfl
@[simp] theorem send_moves (s : State) (a b : Nat) (e : Instr) : (send s a b e).moves = s.moves := rfl
@[simp] theorem send_skew (s : State) (a b : Nat) (e : Instr) : (send s a b e).skew = s.skew := rfl
@[simp] theorem send_power (s : State) (a b : Nat) (e : Instr) : (send s a b e).power = s.power := rfl
@[simp] theorem send_sched (s : State) (a b : Nat) (e : Instr) : (send s a b e).sched = s.sched := rfl
@[simp] theorem send_timers (s : State) (a b : Nat) (e : Instr) : (send s a b e).timers = s.timers := rfl
@[simp] theorem send_cur (s : State) (a b : Nat) (e : Instr) : (send s a b e).cur = s.cur := rfl
@[simp] theorem send_free (s : State) (a b : Nat) (e : Instr) : (send s a b e).free = s.free := rfl
@[simp] theorem send_uids (s : State) (a b : Nat) (e : Instr) : (send s a b e).uids = s.uids := rfl
@[simp] theorem send_mem (s : State) (a b : Nat) (e : Instr) : (send s a b e).mem = s.mem := rfl
@[simp] theorem send_dram (s : State) (a b : Nat) (e : Instr) : (send s a b e).dram = s.dram := rfl
@[simp] theorem send_parity (s : State) (a b : Nat) (e : Instr) : (send s a b e).parity = s.parity := rfl
@[simp] theorem send_poison (s : State) (a b : Nat) (e : Instr) : (send s a b e).poison = s.poison := rfl
@[simp] theorem send_hpoison (s : State) (a b : Nat) (e : Instr) : (send s a b e).hpoison = s.hpoison := rfl
@[simp] theorem send_ecc (s : State) (a b : Nat) (e : Instr) : (send s a b e).ecc = s.ecc := rfl
@[simp] theorem send_merged (s : State) (a b : Nat) (e : Instr) : (send s a b e).merged = s.merged := rfl
@[simp] theorem send_l2 (s : State) (a b : Nat) (e : Instr) : (send s a b e).l2 = s.l2 := rfl
@[simp] theorem send_dir (s : State) (a b : Nat) (e : Instr) : (send s a b e).dir = s.dir := rfl
@[simp] theorem send_home (s : State) (a b : Nat) (e : Instr) : (send s a b e).home = s.home := rfl
@[simp] theorem send_replicas (s : State) (a b : Nat) (e : Instr) : (send s a b e).replicas = s.replicas := rfl
@[simp] theorem send_redirects (s : State) (a b : Nat) (e : Instr) : (send s a b e).redirects = s.redirects := rfl
@[simp] theorem send_readWin (s : State) (a b : Nat) (e : Instr) : (send s a b e).readWin = s.readWin := rfl
@[simp] theorem send_wroteWin (s : State) (a b : Nat) (e : Instr) : (send s a b e).wroteWin = s.wroteWin := rfl
@[simp] theorem send_cores (s : State) (a b : Nat) (e : Instr) : (send s a b e).cores = s.cores := rfl
@[simp] theorem send_dies (s : State) (a b : Nat) (e : Instr) : (send s a b e).dies = s.dies := rfl
@[simp] theorem send_hbm (s : State) (a b : Nat) (e : Instr) : (send s a b e).hbm = s.hbm := rfl
@[simp] theorem send_clusters (s : State) (a b : Nat) (e : Instr) : (send s a b e).clusters = s.clusters := rfl
@[simp] theorem send_grids (s : State) (a b : Nat) (e : Instr) : (send s a b e).grids = s.grids := rfl
@[simp] theorem send_gangs (s : State) (a b : Nat) (e : Instr) : (send s a b e).gangs = s.gangs := rfl
@[simp] theorem send_ctxs (s : State) (a b : Nat) (e : Instr) : (send s a b e).ctxs = s.ctxs := rfl
@[simp] theorem send_hslots (s : State) (a b : Nat) (e : Instr) : (send s a b e).hslots = s.hslots := rfl
@[simp] theorem send_pkts (s : State) (a b : Nat) (e : Instr) : (send s a b e).pkts = s.pkts := rfl
@[simp] theorem send_copies (s : State) (a b : Nat) (e : Instr) : (send s a b e).copies = s.copies := rfl
@[simp] theorem send_asks (s : State) (a b : Nat) (e : Instr) : (send s a b e).asks = s.asks := rfl
@[simp] theorem send_reds (s : State) (a b : Nat) (e : Instr) : (send s a b e).reds = s.reds := rfl
@[simp] theorem send_redAt (s : State) (a b : Nat) (e : Instr) : (send s a b e).redAt = s.redAt := rfl
@[simp] theorem send_extPend (s : State) (a b : Nat) (e : Instr) : (send s a b e).extPend = s.extPend := rfl
@[simp] theorem send_extOut (s : State) (a b : Nat) (e : Instr) : (send s a b e).extOut = s.extOut := rfl
@[simp] theorem send_ats (s : State) (a b : Nat) (e : Instr) : (send s a b e).ats = s.ats := rfl
@[simp] theorem send_pri (s : State) (a b : Nat) (e : Instr) : (send s a b e).pri = s.pri := rfl
@[simp] theorem send_atsInv (s : State) (a b : Nat) (e : Instr) : (send s a b e).atsInv = s.atsInv := rfl
@[simp] theorem send_invSent (s : State) (a b : Nat) (e : Instr) : (send s a b e).invSent = s.invSent := rfl
@[simp] theorem send_priStops (s : State) (a b : Nat) (e : Instr) : (send s a b e).priStops = s.priStops := rfl
@[simp] theorem send_ring (s : State) (a b : Nat) (e : Instr) : (send s a b e).ring = s.ring := rfl
@[simp] theorem send_ringNext (s : State) (a b : Nat) (e : Instr) : (send s a b e).ringNext = s.ringNext := rfl
@[simp] theorem send_ingress (s : State) (a b : Nat) (e : Instr) : (send s a b e).ingress = s.ingress := rfl
@[simp] theorem send_landing (s : State) (a b : Nat) (e : Instr) : (send s a b e).landing = s.landing := rfl
@[simp] theorem send_ctr (s : State) (a b : Nat) (e : Instr) : (send s a b e).ctr = s.ctr := rfl
@[simp] theorem send_shorted (s : State) (a b : Nat) (e : Instr) : (send s a b e).shorted = s.shorted := rfl
@[simp] theorem send_linkDown (s : State) (a b : Nat) (e : Instr) : (send s a b e).linkDown = s.linkDown := rfl
@[simp] theorem send_mmio (s : State) (a b : Nat) (e : Instr) : (send s a b e).mmio = s.mmio := rfl
@[simp] theorem send_keys (s : State) (a b : Nat) (e : Instr) : (send s a b e).keys = s.keys := rfl
@[simp] theorem send_fw (s : State) (a b : Nat) (e : Instr) : (send s a b e).fw = s.fw := rfl
@[simp] theorem send_flash (s : State) (a b : Nat) (e : Instr) : (send s a b e).flash = s.flash := rfl
@[simp] theorem send_msix (s : State) (a b : Nat) (e : Instr) : (send s a b e).msix = s.msix := rfl
@[simp] theorem send_cxl (s : State) (a b : Nat) (e : Instr) : (send s a b e).cxl = s.cxl := rfl

/-! ### after -/

@[simp] theorem after_timers (s : State) (n : Nat) (e : Instr) : (after s n e).timers = s.timers ++ [(s.clk + n, e)] := rfl
@[simp] theorem after_clk (s : State) (n : Nat) (e : Instr) : (after s n e).clk = s.clk := rfl
@[simp] theorem after_moves (s : State) (n : Nat) (e : Instr) : (after s n e).moves = s.moves := rfl
@[simp] theorem after_skew (s : State) (n : Nat) (e : Instr) : (after s n e).skew = s.skew := rfl
@[simp] theorem after_power (s : State) (n : Nat) (e : Instr) : (after s n e).power = s.power := rfl
@[simp] theorem after_sched (s : State) (n : Nat) (e : Instr) : (after s n e).sched = s.sched := rfl
@[simp] theorem after_net (s : State) (n : Nat) (e : Instr) : (after s n e).net = s.net := rfl
@[simp] theorem after_cur (s : State) (n : Nat) (e : Instr) : (after s n e).cur = s.cur := rfl
@[simp] theorem after_free (s : State) (n : Nat) (e : Instr) : (after s n e).free = s.free := rfl
@[simp] theorem after_uids (s : State) (n : Nat) (e : Instr) : (after s n e).uids = s.uids := rfl
@[simp] theorem after_mem (s : State) (n : Nat) (e : Instr) : (after s n e).mem = s.mem := rfl
@[simp] theorem after_dram (s : State) (n : Nat) (e : Instr) : (after s n e).dram = s.dram := rfl
@[simp] theorem after_parity (s : State) (n : Nat) (e : Instr) : (after s n e).parity = s.parity := rfl
@[simp] theorem after_poison (s : State) (n : Nat) (e : Instr) : (after s n e).poison = s.poison := rfl
@[simp] theorem after_hpoison (s : State) (n : Nat) (e : Instr) : (after s n e).hpoison = s.hpoison := rfl
@[simp] theorem after_ecc (s : State) (n : Nat) (e : Instr) : (after s n e).ecc = s.ecc := rfl
@[simp] theorem after_merged (s : State) (n : Nat) (e : Instr) : (after s n e).merged = s.merged := rfl
@[simp] theorem after_l2 (s : State) (n : Nat) (e : Instr) : (after s n e).l2 = s.l2 := rfl
@[simp] theorem after_dir (s : State) (n : Nat) (e : Instr) : (after s n e).dir = s.dir := rfl
@[simp] theorem after_home (s : State) (n : Nat) (e : Instr) : (after s n e).home = s.home := rfl
@[simp] theorem after_replicas (s : State) (n : Nat) (e : Instr) : (after s n e).replicas = s.replicas := rfl
@[simp] theorem after_redirects (s : State) (n : Nat) (e : Instr) : (after s n e).redirects = s.redirects := rfl
@[simp] theorem after_readWin (s : State) (n : Nat) (e : Instr) : (after s n e).readWin = s.readWin := rfl
@[simp] theorem after_wroteWin (s : State) (n : Nat) (e : Instr) : (after s n e).wroteWin = s.wroteWin := rfl
@[simp] theorem after_cores (s : State) (n : Nat) (e : Instr) : (after s n e).cores = s.cores := rfl
@[simp] theorem after_dies (s : State) (n : Nat) (e : Instr) : (after s n e).dies = s.dies := rfl
@[simp] theorem after_hbm (s : State) (n : Nat) (e : Instr) : (after s n e).hbm = s.hbm := rfl
@[simp] theorem after_clusters (s : State) (n : Nat) (e : Instr) : (after s n e).clusters = s.clusters := rfl
@[simp] theorem after_grids (s : State) (n : Nat) (e : Instr) : (after s n e).grids = s.grids := rfl
@[simp] theorem after_gangs (s : State) (n : Nat) (e : Instr) : (after s n e).gangs = s.gangs := rfl
@[simp] theorem after_ctxs (s : State) (n : Nat) (e : Instr) : (after s n e).ctxs = s.ctxs := rfl
@[simp] theorem after_hslots (s : State) (n : Nat) (e : Instr) : (after s n e).hslots = s.hslots := rfl
@[simp] theorem after_pkts (s : State) (n : Nat) (e : Instr) : (after s n e).pkts = s.pkts := rfl
@[simp] theorem after_copies (s : State) (n : Nat) (e : Instr) : (after s n e).copies = s.copies := rfl
@[simp] theorem after_asks (s : State) (n : Nat) (e : Instr) : (after s n e).asks = s.asks := rfl
@[simp] theorem after_reds (s : State) (n : Nat) (e : Instr) : (after s n e).reds = s.reds := rfl
@[simp] theorem after_redAt (s : State) (n : Nat) (e : Instr) : (after s n e).redAt = s.redAt := rfl
@[simp] theorem after_extPend (s : State) (n : Nat) (e : Instr) : (after s n e).extPend = s.extPend := rfl
@[simp] theorem after_extOut (s : State) (n : Nat) (e : Instr) : (after s n e).extOut = s.extOut := rfl
@[simp] theorem after_ats (s : State) (n : Nat) (e : Instr) : (after s n e).ats = s.ats := rfl
@[simp] theorem after_pri (s : State) (n : Nat) (e : Instr) : (after s n e).pri = s.pri := rfl
@[simp] theorem after_atsInv (s : State) (n : Nat) (e : Instr) : (after s n e).atsInv = s.atsInv := rfl
@[simp] theorem after_invSent (s : State) (n : Nat) (e : Instr) : (after s n e).invSent = s.invSent := rfl
@[simp] theorem after_priStops (s : State) (n : Nat) (e : Instr) : (after s n e).priStops = s.priStops := rfl
@[simp] theorem after_ring (s : State) (n : Nat) (e : Instr) : (after s n e).ring = s.ring := rfl
@[simp] theorem after_ringNext (s : State) (n : Nat) (e : Instr) : (after s n e).ringNext = s.ringNext := rfl
@[simp] theorem after_ingress (s : State) (n : Nat) (e : Instr) : (after s n e).ingress = s.ingress := rfl
@[simp] theorem after_landing (s : State) (n : Nat) (e : Instr) : (after s n e).landing = s.landing := rfl
@[simp] theorem after_ctr (s : State) (n : Nat) (e : Instr) : (after s n e).ctr = s.ctr := rfl
@[simp] theorem after_shorted (s : State) (n : Nat) (e : Instr) : (after s n e).shorted = s.shorted := rfl
@[simp] theorem after_linkDown (s : State) (n : Nat) (e : Instr) : (after s n e).linkDown = s.linkDown := rfl
@[simp] theorem after_mmio (s : State) (n : Nat) (e : Instr) : (after s n e).mmio = s.mmio := rfl
@[simp] theorem after_keys (s : State) (n : Nat) (e : Instr) : (after s n e).keys = s.keys := rfl
@[simp] theorem after_fw (s : State) (n : Nat) (e : Instr) : (after s n e).fw = s.fw := rfl
@[simp] theorem after_flash (s : State) (n : Nat) (e : Instr) : (after s n e).flash = s.flash := rfl
@[simp] theorem after_msix (s : State) (n : Nat) (e : Instr) : (after s n e).msix = s.msix := rfl
@[simp] theorem after_cxl (s : State) (n : Nat) (e : Instr) : (after s n e).cxl = s.cxl := rfl

/-! ### cancel -/

@[simp] theorem cancel_clk (s : State) (e : Instr) : (cancel s e).clk = s.clk := rfl
@[simp] theorem cancel_moves (s : State) (e : Instr) : (cancel s e).moves = s.moves := rfl
@[simp] theorem cancel_skew (s : State) (e : Instr) : (cancel s e).skew = s.skew := rfl
@[simp] theorem cancel_power (s : State) (e : Instr) : (cancel s e).power = s.power := rfl
@[simp] theorem cancel_sched (s : State) (e : Instr) : (cancel s e).sched = s.sched := rfl
@[simp] theorem cancel_net (s : State) (e : Instr) : (cancel s e).net = s.net := rfl
@[simp] theorem cancel_cur (s : State) (e : Instr) : (cancel s e).cur = s.cur := rfl
@[simp] theorem cancel_free (s : State) (e : Instr) : (cancel s e).free = s.free := rfl
@[simp] theorem cancel_uids (s : State) (e : Instr) : (cancel s e).uids = s.uids := rfl
@[simp] theorem cancel_mem (s : State) (e : Instr) : (cancel s e).mem = s.mem := rfl
@[simp] theorem cancel_dram (s : State) (e : Instr) : (cancel s e).dram = s.dram := rfl
@[simp] theorem cancel_parity (s : State) (e : Instr) : (cancel s e).parity = s.parity := rfl
@[simp] theorem cancel_poison (s : State) (e : Instr) : (cancel s e).poison = s.poison := rfl
@[simp] theorem cancel_hpoison (s : State) (e : Instr) : (cancel s e).hpoison = s.hpoison := rfl
@[simp] theorem cancel_ecc (s : State) (e : Instr) : (cancel s e).ecc = s.ecc := rfl
@[simp] theorem cancel_merged (s : State) (e : Instr) : (cancel s e).merged = s.merged := rfl
@[simp] theorem cancel_l2 (s : State) (e : Instr) : (cancel s e).l2 = s.l2 := rfl
@[simp] theorem cancel_dir (s : State) (e : Instr) : (cancel s e).dir = s.dir := rfl
@[simp] theorem cancel_home (s : State) (e : Instr) : (cancel s e).home = s.home := rfl
@[simp] theorem cancel_replicas (s : State) (e : Instr) : (cancel s e).replicas = s.replicas := rfl
@[simp] theorem cancel_redirects (s : State) (e : Instr) : (cancel s e).redirects = s.redirects := rfl
@[simp] theorem cancel_readWin (s : State) (e : Instr) : (cancel s e).readWin = s.readWin := rfl
@[simp] theorem cancel_wroteWin (s : State) (e : Instr) : (cancel s e).wroteWin = s.wroteWin := rfl
@[simp] theorem cancel_cores (s : State) (e : Instr) : (cancel s e).cores = s.cores := rfl
@[simp] theorem cancel_dies (s : State) (e : Instr) : (cancel s e).dies = s.dies := rfl
@[simp] theorem cancel_hbm (s : State) (e : Instr) : (cancel s e).hbm = s.hbm := rfl
@[simp] theorem cancel_clusters (s : State) (e : Instr) : (cancel s e).clusters = s.clusters := rfl
@[simp] theorem cancel_grids (s : State) (e : Instr) : (cancel s e).grids = s.grids := rfl
@[simp] theorem cancel_gangs (s : State) (e : Instr) : (cancel s e).gangs = s.gangs := rfl
@[simp] theorem cancel_ctxs (s : State) (e : Instr) : (cancel s e).ctxs = s.ctxs := rfl
@[simp] theorem cancel_hslots (s : State) (e : Instr) : (cancel s e).hslots = s.hslots := rfl
@[simp] theorem cancel_pkts (s : State) (e : Instr) : (cancel s e).pkts = s.pkts := rfl
@[simp] theorem cancel_copies (s : State) (e : Instr) : (cancel s e).copies = s.copies := rfl
@[simp] theorem cancel_asks (s : State) (e : Instr) : (cancel s e).asks = s.asks := rfl
@[simp] theorem cancel_reds (s : State) (e : Instr) : (cancel s e).reds = s.reds := rfl
@[simp] theorem cancel_redAt (s : State) (e : Instr) : (cancel s e).redAt = s.redAt := rfl
@[simp] theorem cancel_extPend (s : State) (e : Instr) : (cancel s e).extPend = s.extPend := rfl
@[simp] theorem cancel_extOut (s : State) (e : Instr) : (cancel s e).extOut = s.extOut := rfl
@[simp] theorem cancel_ats (s : State) (e : Instr) : (cancel s e).ats = s.ats := rfl
@[simp] theorem cancel_pri (s : State) (e : Instr) : (cancel s e).pri = s.pri := rfl
@[simp] theorem cancel_atsInv (s : State) (e : Instr) : (cancel s e).atsInv = s.atsInv := rfl
@[simp] theorem cancel_invSent (s : State) (e : Instr) : (cancel s e).invSent = s.invSent := rfl
@[simp] theorem cancel_priStops (s : State) (e : Instr) : (cancel s e).priStops = s.priStops := rfl
@[simp] theorem cancel_ring (s : State) (e : Instr) : (cancel s e).ring = s.ring := rfl
@[simp] theorem cancel_ringNext (s : State) (e : Instr) : (cancel s e).ringNext = s.ringNext := rfl
@[simp] theorem cancel_ingress (s : State) (e : Instr) : (cancel s e).ingress = s.ingress := rfl
@[simp] theorem cancel_landing (s : State) (e : Instr) : (cancel s e).landing = s.landing := rfl
@[simp] theorem cancel_ctr (s : State) (e : Instr) : (cancel s e).ctr = s.ctr := rfl
@[simp] theorem cancel_shorted (s : State) (e : Instr) : (cancel s e).shorted = s.shorted := rfl
@[simp] theorem cancel_linkDown (s : State) (e : Instr) : (cancel s e).linkDown = s.linkDown := rfl
@[simp] theorem cancel_mmio (s : State) (e : Instr) : (cancel s e).mmio = s.mmio := rfl
@[simp] theorem cancel_keys (s : State) (e : Instr) : (cancel s e).keys = s.keys := rfl
@[simp] theorem cancel_fw (s : State) (e : Instr) : (cancel s e).fw = s.fw := rfl
@[simp] theorem cancel_flash (s : State) (e : Instr) : (cancel s e).flash = s.flash := rfl
@[simp] theorem cancel_msix (s : State) (e : Instr) : (cancel s e).msix = s.msix := rfl
@[simp] theorem cancel_cxl (s : State) (e : Instr) : (cancel s e).cxl = s.cxl := rfl

/-! ### memPut -/

@[simp] theorem memPut_mem (s : State) (kvs : List (Nat × Byte)) : (memPut s kvs).mem = ssetAll 0 s.mem kvs := rfl
@[simp] theorem memPut_clk (s : State) (kvs : List (Nat × Byte)) : (memPut s kvs).clk = s.clk := rfl
@[simp] theorem memPut_moves (s : State) (kvs : List (Nat × Byte)) : (memPut s kvs).moves = s.moves := rfl
@[simp] theorem memPut_skew (s : State) (kvs : List (Nat × Byte)) : (memPut s kvs).skew = s.skew := rfl
@[simp] theorem memPut_power (s : State) (kvs : List (Nat × Byte)) : (memPut s kvs).power = s.power := rfl
@[simp] theorem memPut_sched (s : State) (kvs : List (Nat × Byte)) : (memPut s kvs).sched = s.sched := rfl
@[simp] theorem memPut_net (s : State) (kvs : List (Nat × Byte)) : (memPut s kvs).net = s.net := rfl
@[simp] theorem memPut_timers (s : State) (kvs : List (Nat × Byte)) : (memPut s kvs).timers = s.timers := rfl
@[simp] theorem memPut_cur (s : State) (kvs : List (Nat × Byte)) : (memPut s kvs).cur = s.cur := rfl
@[simp] theorem memPut_free (s : State) (kvs : List (Nat × Byte)) : (memPut s kvs).free = s.free := rfl
@[simp] theorem memPut_uids (s : State) (kvs : List (Nat × Byte)) : (memPut s kvs).uids = s.uids := rfl
@[simp] theorem memPut_dram (s : State) (kvs : List (Nat × Byte)) : (memPut s kvs).dram = s.dram := rfl
@[simp] theorem memPut_parity (s : State) (kvs : List (Nat × Byte)) : (memPut s kvs).parity = s.parity := rfl
@[simp] theorem memPut_poison (s : State) (kvs : List (Nat × Byte)) : (memPut s kvs).poison = s.poison := rfl
@[simp] theorem memPut_hpoison (s : State) (kvs : List (Nat × Byte)) : (memPut s kvs).hpoison = s.hpoison := rfl
@[simp] theorem memPut_ecc (s : State) (kvs : List (Nat × Byte)) : (memPut s kvs).ecc = s.ecc := rfl
@[simp] theorem memPut_merged (s : State) (kvs : List (Nat × Byte)) : (memPut s kvs).merged = s.merged := rfl
@[simp] theorem memPut_l2 (s : State) (kvs : List (Nat × Byte)) : (memPut s kvs).l2 = s.l2 := rfl
@[simp] theorem memPut_dir (s : State) (kvs : List (Nat × Byte)) : (memPut s kvs).dir = s.dir := rfl
@[simp] theorem memPut_home (s : State) (kvs : List (Nat × Byte)) : (memPut s kvs).home = s.home := rfl
@[simp] theorem memPut_replicas (s : State) (kvs : List (Nat × Byte)) : (memPut s kvs).replicas = s.replicas := rfl
@[simp] theorem memPut_redirects (s : State) (kvs : List (Nat × Byte)) : (memPut s kvs).redirects = s.redirects := rfl
@[simp] theorem memPut_readWin (s : State) (kvs : List (Nat × Byte)) : (memPut s kvs).readWin = s.readWin := rfl
@[simp] theorem memPut_wroteWin (s : State) (kvs : List (Nat × Byte)) : (memPut s kvs).wroteWin = s.wroteWin := rfl
@[simp] theorem memPut_cores (s : State) (kvs : List (Nat × Byte)) : (memPut s kvs).cores = s.cores := rfl
@[simp] theorem memPut_dies (s : State) (kvs : List (Nat × Byte)) : (memPut s kvs).dies = s.dies := rfl
@[simp] theorem memPut_hbm (s : State) (kvs : List (Nat × Byte)) : (memPut s kvs).hbm = s.hbm := rfl
@[simp] theorem memPut_clusters (s : State) (kvs : List (Nat × Byte)) : (memPut s kvs).clusters = s.clusters := rfl
@[simp] theorem memPut_grids (s : State) (kvs : List (Nat × Byte)) : (memPut s kvs).grids = s.grids := rfl
@[simp] theorem memPut_gangs (s : State) (kvs : List (Nat × Byte)) : (memPut s kvs).gangs = s.gangs := rfl
@[simp] theorem memPut_ctxs (s : State) (kvs : List (Nat × Byte)) : (memPut s kvs).ctxs = s.ctxs := rfl
@[simp] theorem memPut_hslots (s : State) (kvs : List (Nat × Byte)) : (memPut s kvs).hslots = s.hslots := rfl
@[simp] theorem memPut_pkts (s : State) (kvs : List (Nat × Byte)) : (memPut s kvs).pkts = s.pkts := rfl
@[simp] theorem memPut_copies (s : State) (kvs : List (Nat × Byte)) : (memPut s kvs).copies = s.copies := rfl
@[simp] theorem memPut_asks (s : State) (kvs : List (Nat × Byte)) : (memPut s kvs).asks = s.asks := rfl
@[simp] theorem memPut_reds (s : State) (kvs : List (Nat × Byte)) : (memPut s kvs).reds = s.reds := rfl
@[simp] theorem memPut_redAt (s : State) (kvs : List (Nat × Byte)) : (memPut s kvs).redAt = s.redAt := rfl
@[simp] theorem memPut_extPend (s : State) (kvs : List (Nat × Byte)) : (memPut s kvs).extPend = s.extPend := rfl
@[simp] theorem memPut_extOut (s : State) (kvs : List (Nat × Byte)) : (memPut s kvs).extOut = s.extOut := rfl
@[simp] theorem memPut_ats (s : State) (kvs : List (Nat × Byte)) : (memPut s kvs).ats = s.ats := rfl
@[simp] theorem memPut_pri (s : State) (kvs : List (Nat × Byte)) : (memPut s kvs).pri = s.pri := rfl
@[simp] theorem memPut_atsInv (s : State) (kvs : List (Nat × Byte)) : (memPut s kvs).atsInv = s.atsInv := rfl
@[simp] theorem memPut_invSent (s : State) (kvs : List (Nat × Byte)) : (memPut s kvs).invSent = s.invSent := rfl
@[simp] theorem memPut_priStops (s : State) (kvs : List (Nat × Byte)) : (memPut s kvs).priStops = s.priStops := rfl
@[simp] theorem memPut_ring (s : State) (kvs : List (Nat × Byte)) : (memPut s kvs).ring = s.ring := rfl
@[simp] theorem memPut_ringNext (s : State) (kvs : List (Nat × Byte)) : (memPut s kvs).ringNext = s.ringNext := rfl
@[simp] theorem memPut_ingress (s : State) (kvs : List (Nat × Byte)) : (memPut s kvs).ingress = s.ingress := rfl
@[simp] theorem memPut_landing (s : State) (kvs : List (Nat × Byte)) : (memPut s kvs).landing = s.landing := rfl
@[simp] theorem memPut_ctr (s : State) (kvs : List (Nat × Byte)) : (memPut s kvs).ctr = s.ctr := rfl
@[simp] theorem memPut_shorted (s : State) (kvs : List (Nat × Byte)) : (memPut s kvs).shorted = s.shorted := rfl
@[simp] theorem memPut_linkDown (s : State) (kvs : List (Nat × Byte)) : (memPut s kvs).linkDown = s.linkDown := rfl
@[simp] theorem memPut_mmio (s : State) (kvs : List (Nat × Byte)) : (memPut s kvs).mmio = s.mmio := rfl
@[simp] theorem memPut_keys (s : State) (kvs : List (Nat × Byte)) : (memPut s kvs).keys = s.keys := rfl
@[simp] theorem memPut_fw (s : State) (kvs : List (Nat × Byte)) : (memPut s kvs).fw = s.fw := rfl
@[simp] theorem memPut_flash (s : State) (kvs : List (Nat × Byte)) : (memPut s kvs).flash = s.flash := rfl
@[simp] theorem memPut_msix (s : State) (kvs : List (Nat × Byte)) : (memPut s kvs).msix = s.msix := rfl
@[simp] theorem memPut_cxl (s : State) (kvs : List (Nat × Byte)) : (memPut s kvs).cxl = s.cxl := rfl

/-! ### Cores, groups and teams -/

theorem coreAt_setCore (s : State) (c d : Nat) (x : Core) : coreAt (setCore s c x) d = if d = c then x else coreAt s d := by
  simp only [coreAt, setCore_cores, aget_aset]; split <;> rfl

@[simp] theorem coreAt_setCore_self (s : State) (c : Nat) (x : Core) : coreAt (setCore s c x) c = x := by simp [coreAt_setCore]

theorem coreAt_modCore (s : State) (c d : Nat) (f : Core → Core) :
    coreAt (modCore s c f) d = if d = c then f (coreAt s c) else coreAt s d := coreAt_setCore ..

@[simp] theorem coreAt_modCore_self (s : State) (c : Nat) (f : Core → Core) : coreAt (modCore s c f) c = f (coreAt s c) := by
  simp [coreAt_modCore]

theorem coreAt_setGroup (s : State) (c g d : Nat) (x : Group) :
    coreAt (setGroup s c g x) d = if d = c then { coreAt s c with groups := aset (coreAt s c).groups g x } else coreAt s d :=
  coreAt_modCore ..

theorem groupAt_setGroup (s : State) (c g d h : Nat) (x : Group) :
    groupAt (setGroup s c g x) d h = if d = c ∧ h = g then some x else groupAt s d h := by
  simp only [groupAt, coreAt_setGroup]
  by_cases hd : d = c
  · subst hd; simp only [if_true, aget_aset, true_and]
  · simp [hd]

@[simp] theorem groupAt_setGroup_self (s : State) (c g : Nat) (x : Group) : groupAt (setGroup s c g x) c g = some x := by
  simp [groupAt_setGroup]

theorem modGroup_of_some {s : State} {c g : Nat} {x : Group} (f : Group → Group) (h : groupAt s c g = some x) :
    modGroup s c g f = setGroup s c g (f x) := by simp [modGroup, h]

theorem modGroup_of_none {s : State} {c g : Nat} (f : Group → Group) (h : groupAt s c g = none) : modGroup s c g f = s := by
  simp [modGroup, h]

/-- A change of one group leaves every other alone. -/
theorem groupAt_modGroup (s : State) (c g d h : Nat) (f : Group → Group) :
    groupAt (modGroup s c g f) d h = if d = c ∧ h = g then (groupAt s c g).map f else groupAt s d h := by
  cases hg : groupAt s c g with
  | none =>
    rw [modGroup_of_none f hg]; split
    · simp_all
    · rfl
  | some x => rw [modGroup_of_some f hg, groupAt_setGroup]; rfl

/-- A change of a group touches nothing but its core. -/
theorem modGroup_frame (s : State) (c g : Nat) (f : Group → Group) : { modGroup s c g f with cores := s.cores } = s := by
  unfold modGroup; split <;> rfl

theorem coreAt_modGroup_ne (s : State) (c g d : Nat) (f : Group → Group) (h : d ≠ c) : coreAt (modGroup s c g f) d = coreAt s d := by
  unfold modGroup; split
  · rfl
  · simp [coreAt_setGroup, h]

/-- A change of a group leaves its core's other fields alone. -/
theorem coreAt_modGroup (s : State) (c g : Nat) (f : Group → Group) :
    { coreAt (modGroup s c g f) c with groups := (coreAt s c).groups } = coreAt s c := by
  unfold modGroup; split
  · rfl
  · simp [coreAt_setGroup]


/-! ### modGroup and modCur -/

@[simp] theorem modGroup_clk (s : State) (c g : Nat) (f : Group → Group) : (modGroup s c g f).clk = s.clk := by
  unfold modGroup; split <;> rfl
@[simp] theorem modGroup_moves (s : State) (c g : Nat) (f : Group → Group) : (modGroup s c g f).moves = s.moves := by
  unfold modGroup; split <;> rfl
@[simp] theorem modGroup_skew (s : State) (c g : Nat) (f : Group → Group) : (modGroup s c g f).skew = s.skew := by
  unfold modGroup; split <;> rfl
@[simp] theorem modGroup_power (s : State) (c g : Nat) (f : Group → Group) : (modGroup s c g f).power = s.power := by
  unfold modGroup; split <;> rfl
@[simp] theorem modGroup_sched (s : State) (c g : Nat) (f : Group → Group) : (modGroup s c g f).sched = s.sched := by
  unfold modGroup; split <;> rfl
@[simp] theorem modGroup_net (s : State) (c g : Nat) (f : Group → Group) : (modGroup s c g f).net = s.net := by
  unfold modGroup; split <;> rfl
@[simp] theorem modGroup_timers (s : State) (c g : Nat) (f : Group → Group) : (modGroup s c g f).timers = s.timers := by
  unfold modGroup; split <;> rfl
@[simp] theorem modGroup_cur (s : State) (c g : Nat) (f : Group → Group) : (modGroup s c g f).cur = s.cur := by
  unfold modGroup; split <;> rfl
@[simp] theorem modGroup_free (s : State) (c g : Nat) (f : Group → Group) : (modGroup s c g f).free = s.free := by
  unfold modGroup; split <;> rfl
@[simp] theorem modGroup_uids (s : State) (c g : Nat) (f : Group → Group) : (modGroup s c g f).uids = s.uids := by
  unfold modGroup; split <;> rfl
@[simp] theorem modGroup_mem (s : State) (c g : Nat) (f : Group → Group) : (modGroup s c g f).mem = s.mem := by
  unfold modGroup; split <;> rfl
@[simp] theorem modGroup_dram (s : State) (c g : Nat) (f : Group → Group) : (modGroup s c g f).dram = s.dram := by
  unfold modGroup; split <;> rfl
@[simp] theorem modGroup_parity (s : State) (c g : Nat) (f : Group → Group) : (modGroup s c g f).parity = s.parity := by
  unfold modGroup; split <;> rfl
@[simp] theorem modGroup_poison (s : State) (c g : Nat) (f : Group → Group) : (modGroup s c g f).poison = s.poison := by
  unfold modGroup; split <;> rfl
@[simp] theorem modGroup_hpoison (s : State) (c g : Nat) (f : Group → Group) : (modGroup s c g f).hpoison = s.hpoison := by
  unfold modGroup; split <;> rfl
@[simp] theorem modGroup_ecc (s : State) (c g : Nat) (f : Group → Group) : (modGroup s c g f).ecc = s.ecc := by
  unfold modGroup; split <;> rfl
@[simp] theorem modGroup_merged (s : State) (c g : Nat) (f : Group → Group) : (modGroup s c g f).merged = s.merged := by
  unfold modGroup; split <;> rfl
@[simp] theorem modGroup_l2 (s : State) (c g : Nat) (f : Group → Group) : (modGroup s c g f).l2 = s.l2 := by
  unfold modGroup; split <;> rfl
@[simp] theorem modGroup_dir (s : State) (c g : Nat) (f : Group → Group) : (modGroup s c g f).dir = s.dir := by
  unfold modGroup; split <;> rfl
@[simp] theorem modGroup_home (s : State) (c g : Nat) (f : Group → Group) : (modGroup s c g f).home = s.home := by
  unfold modGroup; split <;> rfl
@[simp] theorem modGroup_replicas (s : State) (c g : Nat) (f : Group → Group) : (modGroup s c g f).replicas = s.replicas := by
  unfold modGroup; split <;> rfl
@[simp] theorem modGroup_redirects (s : State) (c g : Nat) (f : Group → Group) : (modGroup s c g f).redirects = s.redirects := by
  unfold modGroup; split <;> rfl
@[simp] theorem modGroup_readWin (s : State) (c g : Nat) (f : Group → Group) : (modGroup s c g f).readWin = s.readWin := by
  unfold modGroup; split <;> rfl
@[simp] theorem modGroup_wroteWin (s : State) (c g : Nat) (f : Group → Group) : (modGroup s c g f).wroteWin = s.wroteWin := by
  unfold modGroup; split <;> rfl
@[simp] theorem modGroup_dies (s : State) (c g : Nat) (f : Group → Group) : (modGroup s c g f).dies = s.dies := by
  unfold modGroup; split <;> rfl
@[simp] theorem modGroup_hbm (s : State) (c g : Nat) (f : Group → Group) : (modGroup s c g f).hbm = s.hbm := by
  unfold modGroup; split <;> rfl
@[simp] theorem modGroup_clusters (s : State) (c g : Nat) (f : Group → Group) : (modGroup s c g f).clusters = s.clusters := by
  unfold modGroup; split <;> rfl
@[simp] theorem modGroup_grids (s : State) (c g : Nat) (f : Group → Group) : (modGroup s c g f).grids = s.grids := by
  unfold modGroup; split <;> rfl
@[simp] theorem modGroup_gangs (s : State) (c g : Nat) (f : Group → Group) : (modGroup s c g f).gangs = s.gangs := by
  unfold modGroup; split <;> rfl
@[simp] theorem modGroup_ctxs (s : State) (c g : Nat) (f : Group → Group) : (modGroup s c g f).ctxs = s.ctxs := by
  unfold modGroup; split <;> rfl
@[simp] theorem modGroup_hslots (s : State) (c g : Nat) (f : Group → Group) : (modGroup s c g f).hslots = s.hslots := by
  unfold modGroup; split <;> rfl
@[simp] theorem modGroup_pkts (s : State) (c g : Nat) (f : Group → Group) : (modGroup s c g f).pkts = s.pkts := by
  unfold modGroup; split <;> rfl
@[simp] theorem modGroup_copies (s : State) (c g : Nat) (f : Group → Group) : (modGroup s c g f).copies = s.copies := by
  unfold modGroup; split <;> rfl
@[simp] theorem modGroup_asks (s : State) (c g : Nat) (f : Group → Group) : (modGroup s c g f).asks = s.asks := by
  unfold modGroup; split <;> rfl
@[simp] theorem modGroup_reds (s : State) (c g : Nat) (f : Group → Group) : (modGroup s c g f).reds = s.reds := by
  unfold modGroup; split <;> rfl
@[simp] theorem modGroup_redAt (s : State) (c g : Nat) (f : Group → Group) : (modGroup s c g f).redAt = s.redAt := by
  unfold modGroup; split <;> rfl
@[simp] theorem modGroup_extPend (s : State) (c g : Nat) (f : Group → Group) : (modGroup s c g f).extPend = s.extPend := by
  unfold modGroup; split <;> rfl
@[simp] theorem modGroup_extOut (s : State) (c g : Nat) (f : Group → Group) : (modGroup s c g f).extOut = s.extOut := by
  unfold modGroup; split <;> rfl
@[simp] theorem modGroup_ats (s : State) (c g : Nat) (f : Group → Group) : (modGroup s c g f).ats = s.ats := by
  unfold modGroup; split <;> rfl
@[simp] theorem modGroup_pri (s : State) (c g : Nat) (f : Group → Group) : (modGroup s c g f).pri = s.pri := by
  unfold modGroup; split <;> rfl
@[simp] theorem modGroup_atsInv (s : State) (c g : Nat) (f : Group → Group) : (modGroup s c g f).atsInv = s.atsInv := by
  unfold modGroup; split <;> rfl
@[simp] theorem modGroup_invSent (s : State) (c g : Nat) (f : Group → Group) : (modGroup s c g f).invSent = s.invSent := by
  unfold modGroup; split <;> rfl
@[simp] theorem modGroup_priStops (s : State) (c g : Nat) (f : Group → Group) : (modGroup s c g f).priStops = s.priStops := by
  unfold modGroup; split <;> rfl
@[simp] theorem modGroup_ring (s : State) (c g : Nat) (f : Group → Group) : (modGroup s c g f).ring = s.ring := by
  unfold modGroup; split <;> rfl
@[simp] theorem modGroup_ringNext (s : State) (c g : Nat) (f : Group → Group) : (modGroup s c g f).ringNext = s.ringNext := by
  unfold modGroup; split <;> rfl
@[simp] theorem modGroup_ingress (s : State) (c g : Nat) (f : Group → Group) : (modGroup s c g f).ingress = s.ingress := by
  unfold modGroup; split <;> rfl
@[simp] theorem modGroup_landing (s : State) (c g : Nat) (f : Group → Group) : (modGroup s c g f).landing = s.landing := by
  unfold modGroup; split <;> rfl
@[simp] theorem modGroup_ctr (s : State) (c g : Nat) (f : Group → Group) : (modGroup s c g f).ctr = s.ctr := by
  unfold modGroup; split <;> rfl
@[simp] theorem modGroup_shorted (s : State) (c g : Nat) (f : Group → Group) : (modGroup s c g f).shorted = s.shorted := by
  unfold modGroup; split <;> rfl
@[simp] theorem modGroup_linkDown (s : State) (c g : Nat) (f : Group → Group) : (modGroup s c g f).linkDown = s.linkDown := by
  unfold modGroup; split <;> rfl
@[simp] theorem modGroup_mmio (s : State) (c g : Nat) (f : Group → Group) : (modGroup s c g f).mmio = s.mmio := by
  unfold modGroup; split <;> rfl
@[simp] theorem modGroup_keys (s : State) (c g : Nat) (f : Group → Group) : (modGroup s c g f).keys = s.keys := by
  unfold modGroup; split <;> rfl
@[simp] theorem modGroup_fw (s : State) (c g : Nat) (f : Group → Group) : (modGroup s c g f).fw = s.fw := by
  unfold modGroup; split <;> rfl
@[simp] theorem modGroup_flash (s : State) (c g : Nat) (f : Group → Group) : (modGroup s c g f).flash = s.flash := by
  unfold modGroup; split <;> rfl
@[simp] theorem modGroup_msix (s : State) (c g : Nat) (f : Group → Group) : (modGroup s c g f).msix = s.msix := by
  unfold modGroup; split <;> rfl
@[simp] theorem modGroup_cxl (s : State) (c g : Nat) (f : Group → Group) : (modGroup s c g f).cxl = s.cxl := by
  unfold modGroup; split <;> rfl
@[simp] theorem modCur_clk (s : State) (f : Group → Group) : (modCur s f).clk = s.clk := modGroup_clk ..
@[simp] theorem modCur_moves (s : State) (f : Group → Group) : (modCur s f).moves = s.moves := modGroup_moves ..
@[simp] theorem modCur_skew (s : State) (f : Group → Group) : (modCur s f).skew = s.skew := modGroup_skew ..
@[simp] theorem modCur_power (s : State) (f : Group → Group) : (modCur s f).power = s.power := modGroup_power ..
@[simp] theorem modCur_sched (s : State) (f : Group → Group) : (modCur s f).sched = s.sched := modGroup_sched ..
@[simp] theorem modCur_net (s : State) (f : Group → Group) : (modCur s f).net = s.net := modGroup_net ..
@[simp] theorem modCur_timers (s : State) (f : Group → Group) : (modCur s f).timers = s.timers := modGroup_timers ..
@[simp] theorem modCur_cur (s : State) (f : Group → Group) : (modCur s f).cur = s.cur := modGroup_cur ..
@[simp] theorem modCur_free (s : State) (f : Group → Group) : (modCur s f).free = s.free := modGroup_free ..
@[simp] theorem modCur_uids (s : State) (f : Group → Group) : (modCur s f).uids = s.uids := modGroup_uids ..
@[simp] theorem modCur_mem (s : State) (f : Group → Group) : (modCur s f).mem = s.mem := modGroup_mem ..
@[simp] theorem modCur_dram (s : State) (f : Group → Group) : (modCur s f).dram = s.dram := modGroup_dram ..
@[simp] theorem modCur_parity (s : State) (f : Group → Group) : (modCur s f).parity = s.parity := modGroup_parity ..
@[simp] theorem modCur_poison (s : State) (f : Group → Group) : (modCur s f).poison = s.poison := modGroup_poison ..
@[simp] theorem modCur_hpoison (s : State) (f : Group → Group) : (modCur s f).hpoison = s.hpoison := modGroup_hpoison ..
@[simp] theorem modCur_ecc (s : State) (f : Group → Group) : (modCur s f).ecc = s.ecc := modGroup_ecc ..
@[simp] theorem modCur_merged (s : State) (f : Group → Group) : (modCur s f).merged = s.merged := modGroup_merged ..
@[simp] theorem modCur_l2 (s : State) (f : Group → Group) : (modCur s f).l2 = s.l2 := modGroup_l2 ..
@[simp] theorem modCur_dir (s : State) (f : Group → Group) : (modCur s f).dir = s.dir := modGroup_dir ..
@[simp] theorem modCur_home (s : State) (f : Group → Group) : (modCur s f).home = s.home := modGroup_home ..
@[simp] theorem modCur_replicas (s : State) (f : Group → Group) : (modCur s f).replicas = s.replicas := modGroup_replicas ..
@[simp] theorem modCur_redirects (s : State) (f : Group → Group) : (modCur s f).redirects = s.redirects := modGroup_redirects ..
@[simp] theorem modCur_readWin (s : State) (f : Group → Group) : (modCur s f).readWin = s.readWin := modGroup_readWin ..
@[simp] theorem modCur_wroteWin (s : State) (f : Group → Group) : (modCur s f).wroteWin = s.wroteWin := modGroup_wroteWin ..
@[simp] theorem modCur_dies (s : State) (f : Group → Group) : (modCur s f).dies = s.dies := modGroup_dies ..
@[simp] theorem modCur_hbm (s : State) (f : Group → Group) : (modCur s f).hbm = s.hbm := modGroup_hbm ..
@[simp] theorem modCur_clusters (s : State) (f : Group → Group) : (modCur s f).clusters = s.clusters := modGroup_clusters ..
@[simp] theorem modCur_grids (s : State) (f : Group → Group) : (modCur s f).grids = s.grids := modGroup_grids ..
@[simp] theorem modCur_gangs (s : State) (f : Group → Group) : (modCur s f).gangs = s.gangs := modGroup_gangs ..
@[simp] theorem modCur_ctxs (s : State) (f : Group → Group) : (modCur s f).ctxs = s.ctxs := modGroup_ctxs ..
@[simp] theorem modCur_hslots (s : State) (f : Group → Group) : (modCur s f).hslots = s.hslots := modGroup_hslots ..
@[simp] theorem modCur_pkts (s : State) (f : Group → Group) : (modCur s f).pkts = s.pkts := modGroup_pkts ..
@[simp] theorem modCur_copies (s : State) (f : Group → Group) : (modCur s f).copies = s.copies := modGroup_copies ..
@[simp] theorem modCur_asks (s : State) (f : Group → Group) : (modCur s f).asks = s.asks := modGroup_asks ..
@[simp] theorem modCur_reds (s : State) (f : Group → Group) : (modCur s f).reds = s.reds := modGroup_reds ..
@[simp] theorem modCur_redAt (s : State) (f : Group → Group) : (modCur s f).redAt = s.redAt := modGroup_redAt ..
@[simp] theorem modCur_extPend (s : State) (f : Group → Group) : (modCur s f).extPend = s.extPend := modGroup_extPend ..
@[simp] theorem modCur_extOut (s : State) (f : Group → Group) : (modCur s f).extOut = s.extOut := modGroup_extOut ..
@[simp] theorem modCur_ats (s : State) (f : Group → Group) : (modCur s f).ats = s.ats := modGroup_ats ..
@[simp] theorem modCur_pri (s : State) (f : Group → Group) : (modCur s f).pri = s.pri := modGroup_pri ..
@[simp] theorem modCur_atsInv (s : State) (f : Group → Group) : (modCur s f).atsInv = s.atsInv := modGroup_atsInv ..
@[simp] theorem modCur_invSent (s : State) (f : Group → Group) : (modCur s f).invSent = s.invSent := modGroup_invSent ..
@[simp] theorem modCur_priStops (s : State) (f : Group → Group) : (modCur s f).priStops = s.priStops := modGroup_priStops ..
@[simp] theorem modCur_ring (s : State) (f : Group → Group) : (modCur s f).ring = s.ring := modGroup_ring ..
@[simp] theorem modCur_ringNext (s : State) (f : Group → Group) : (modCur s f).ringNext = s.ringNext := modGroup_ringNext ..
@[simp] theorem modCur_ingress (s : State) (f : Group → Group) : (modCur s f).ingress = s.ingress := modGroup_ingress ..
@[simp] theorem modCur_landing (s : State) (f : Group → Group) : (modCur s f).landing = s.landing := modGroup_landing ..
@[simp] theorem modCur_ctr (s : State) (f : Group → Group) : (modCur s f).ctr = s.ctr := modGroup_ctr ..
@[simp] theorem modCur_shorted (s : State) (f : Group → Group) : (modCur s f).shorted = s.shorted := modGroup_shorted ..
@[simp] theorem modCur_linkDown (s : State) (f : Group → Group) : (modCur s f).linkDown = s.linkDown := modGroup_linkDown ..
@[simp] theorem modCur_mmio (s : State) (f : Group → Group) : (modCur s f).mmio = s.mmio := modGroup_mmio ..
@[simp] theorem modCur_keys (s : State) (f : Group → Group) : (modCur s f).keys = s.keys := modGroup_keys ..
@[simp] theorem modCur_fw (s : State) (f : Group → Group) : (modCur s f).fw = s.fw := modGroup_fw ..
@[simp] theorem modCur_flash (s : State) (f : Group → Group) : (modCur s f).flash = s.flash := modGroup_flash ..
@[simp] theorem modCur_msix (s : State) (f : Group → Group) : (modCur s f).msix = s.msix := modGroup_msix ..
@[simp] theorem modCur_cxl (s : State) (f : Group → Group) : (modCur s f).cxl = s.cxl := modGroup_cxl ..

/-! ### Memory -/

/-- A store keeps the canonical form of the committed memory. -/
theorem memPut_wf (s : State) (kvs : List (Nat × Byte)) (h : swf 0 s.mem = true) : swf 0 (memPut s kvs).mem = true :=
  swf_ssetAll 0 kvs s.mem h

theorem memPutNat_wf (s : State) (a n v : Nat) (h : swf 0 s.mem = true) : swf 0 (memPutNat s a n v).mem = true := memPut_wf _ _ h

/-- A byte that is not stored reads as before. -/
theorem memByte_memPut_of_notMem (s : State) (kvs : List (Nat × Byte)) (a : Nat) (h : a ∉ kvs.map (·.1)) :
    memByte (memPut s kvs) a = memByte s a := sget_ssetAll_of_notMem 0 kvs s.mem a h

/-- A read after a write of the same byte. -/
theorem memByte_memPut_one (s : State) (a : Nat) (b : Byte) : memByte (memPut s [(a, b)]) a = b := sget_sset_self ..

end Sys2Proof.Laws
end

