-- ==== Sys2Proof/Laws/Issue.lean ====
section
/-! SUPPORT. Sys2Proof/Laws/Issue.lean: the frame of an instruction: what beginning a chunk leaves alone, an instruction whose effect
succeeds, and the laws of the computations that instructions are made of. -/

namespace Sys2Proof.Laws

open Sys2Proof.Machine

/-! ### Computations -/

theorem bind_run {α β : Type} (m : M α) (f : α → M β) (s : State) :
    (m >>= f) s = match m s with
      | .ok (a, s') => f a s'
      | .error x => .error x := by
  show Except.bind _ _ = _
  cases m s <;> rfl

theorem bind_ok {α β : Type} {m : M α} {f : α → M β} {s t : State} {a : α} (h : m s = .ok (a, t)) : (m >>= f) s = f a t := by
  rw [bind_run, h]

theorem bind_error {α β : Type} {m : M α} {f : α → M β} {s : State} {x : Stop} (h : m s = .error x) : (m >>= f) s = .error x := by
  rw [bind_run, h]

@[simp] theorem pure_run {α : Type} (a : α) (s : State) : (pure a : M α) s = .ok (a, s) := rfl
@[simp] theorem getS_run {α : Type} (f : State → α) (s : State) : getS f s = .ok (f s, s) := rfl
@[simp] theorem getG_run (s : State) : getG s = .ok (curGroup s, s) := rfl
@[simp] theorem modS_run (f : State → State) (s : State) : modS f s = .ok ((), f s) := rfl
@[simp] theorem modG_run (f : Group → Group) (s : State) : modG f s = .ok ((), modCur s f) := rfl
@[simp] theorem modR_run (f : GRegs → GRegs) (s : State) : modR f s = .ok ((), withRegs s f) := rfl
@[simp] theorem modK_run (f : Chunk → Chunk) (s : State) : modK f s = .ok ((), withChunk s f) := rfl
@[simp] theorem deferM_run (e : Effect) (s : State) : deferM e s = .ok ((), deferring s e) := rfl
@[simp] theorem failM_run {α : Type} (c : Nat) (s : State) : (failM c : M α) s = .error (.fault { code := c }) := rfl
@[simp] theorem faultM_run {α : Type} (f : FaultInfo) (s : State) : (faultM f : M α) s = .error (.fault f) := rfl
@[simp] theorem stallM_run {α : Type} (s : State) : (stallM : M α) s = .error .stall := rfl
@[simp] theorem cutM_run {α : Type} (s : State) : (cutM : M α) s = .error .cut := rfl

theorem ensure_run (b : Bool) (c : Nat) (s : State) :
    ensure b c s = if b then .ok ((), s) else .error (.fault { code := c }) := by cases b <;> rfl

@[simp] theorem ensure_true (c : Nat) (s : State) : ensure true c s = .ok ((), s) := rfl
@[simp] theorem ensure_false (c : Nat) (s : State) : ensure false c s = .error (.fault { code := c }) := rfl

theorem waitFor_run (b : Bool) (s : State) : waitFor b s = if b then .ok ((), s) else .error .stall := by cases b <;> rfl

/-! ### The beginning of an effect -/

theorem groupAt_cur_of_issuing {s : State} (h : issuing s = true) : groupAt s s.cur.core s.cur.slot = some (curGroup s) := by
  unfold issuing at h; unfold curGroup
  cases hg : groupAt s s.cur.core s.cur.slot <;> simp_all

theorem ctrAdd_frame (s : State) (k n : Nat) : { ctrAdd s k n with ctr := s.ctr } = s := rfl

@[simp] theorem coreCtr_cur (s : State) (c i n : Nat) : (coreCtr s c i n).cur = s.cur := rfl
@[simp] theorem coreCtr_cores (s : State) (c i n : Nat) : (coreCtr s c i n).cores = s.cores := rfl
@[simp] theorem coreCtr_mem (s : State) (c i n : Nat) : (coreCtr s c i n).mem = s.mem := rfl
@[simp] theorem coreCtr_clk (s : State) (c i n : Nat) : (coreCtr s c i n).clk = s.clk := rfl
@[simp] theorem coreCtr_skew (s : State) (c i n : Nat) : (coreCtr s c i n).skew = s.skew := rfl

@[simp] theorem groupAt_coreCtr (s : State) (c i n d h : Nat) : groupAt (coreCtr s c i n) d h = groupAt s d h := rfl

/-- A group's change of itself is what its next read sees. -/
theorem curGroup_modCur {s : State} (f : Group → Group) (h : issuing s = true) : curGroup (modCur s f) = f (curGroup s) := by
  have hg := groupAt_cur_of_issuing h
  unfold curGroup
  rw [modCur_cur, modCur, groupAt_modGroup, if_pos ⟨rfl, rfl⟩, hg]
  rfl

theorem issuing_modCur (s : State) (f : Group → Group) : issuing (modCur s f) = issuing s := by
  simp only [issuing, modCur_cur]
  simp [modCur, groupAt_modGroup]

@[simp] theorem issuing_withRegs (s : State) (f : GRegs → GRegs) : issuing (withRegs s f) = issuing s := issuing_modCur ..
@[simp] theorem withRegs_cur (s : State) (f : GRegs → GRegs) : (withRegs s f).cur = s.cur := modCur_cur ..
@[simp] theorem withRegs_clk (s : State) (f : GRegs → GRegs) : (withRegs s f).clk = s.clk := modCur_clk ..
@[simp] theorem withRegs_skew (s : State) (f : GRegs → GRegs) : (withRegs s f).skew = s.skew := modCur_skew ..
@[simp] theorem withChunk_cur (s : State) (f : Chunk → Chunk) : (withChunk s f).cur = s.cur := modCur_cur ..
@[simp] theorem deferring_cur (s : State) (e : Effect) : (deferring s e).cur = s.cur := modCur_cur ..
@[simp] theorem issuing_deferring (s : State) (e : Effect) : issuing (deferring s e) = issuing s := issuing_modCur ..
@[simp] theorem issuing_withChunk (s : State) (f : Chunk → Chunk) : issuing (withChunk s f) = issuing s := issuing_modCur ..

theorem curGroup_withRegs {s : State} (f : GRegs → GRegs) (h : issuing s = true) :
    curGroup (withRegs s f) = { curGroup s with r := f (curGroup s).r } := curGroup_modCur _ h

/-- The registers that beginning a chunk may change: RST is cleared where the chunk has not been squashed (R159). -/
def clearedRst (r r' : GRegs) : Prop := { r' with rst := r.rst } = r

theorem beginChunk_r (g : Group) (lim : Nat) (p : Bool) : clearedRst g.r (beginChunk g lim p).r := by
  unfold beginChunk clearedRst; split
  · rfl
  · show _ = _; dsimp only; split <;> rfl

@[simp] theorem beginAt_cur (s : State) (c g : Nat) : (beginAt s c g).cur = s.cur := by
  unfold beginAt; split
  · rfl
  · dsimp only [setGroup_cur]; split <;> split <;> rfl

@[simp] theorem begun_cur (s : State) : (begun s).cur = s.cur := by simp [begun]

/-- What beginning an effect makes of the issuing group. -/
theorem begun_group {s : State} (h : issuing s = true) : ∃ g, groupAt (begun s) s.cur.core s.cur.slot = some g
    ∧ clearedRst (curGroup s).r g.r ∧ g.a = (curGroup s).a ∧ g.gi = (curGroup s).gi ∧ g.fmode = (curGroup s).fmode
    ∧ g.f = (curGroup s).f ∧ g.team = (curGroup s).team ∧ g.pasid = (curGroup s).pasid ∧ g.grid = (curGroup s).grid := by
  have hg := groupAt_cur_of_issuing h
  have h1 : groupAt (modCur s (fun g => { g with hold := false })) s.cur.core s.cur.slot = some { curGroup s with hold := false } := by
    simp [modCur, groupAt_modGroup, hg]
  unfold begun beginAt
  rw [h1]
  dsimp only
  refine ⟨_, groupAt_setGroup_self .., ?_⟩
  generalize (coreAt _ _).mcklim.toNat = lim
  generalize (!otherPri _ _ _) = q
  split
  · refine ⟨beginChunk_r _ lim q, ?_⟩
    unfold beginChunk; split <;> simp
  · refine ⟨beginChunk_r _ lim q, ?_⟩
    unfold beginChunk; split <;> simp

theorem issuing_begun {s : State} (h : issuing s = true) : issuing (begun s) = true := by
  obtain ⟨g, hg, -⟩ := begun_group h
  simp [issuing, hg]

@[simp] theorem entered_cur (n : Nat) (s : State) : (entered n s).cur = s.cur := by simp [entered]

theorem issuing_entered (n : Nat) {s : State} (h : issuing s = true) : issuing (entered n s) = true := by
  rw [entered, issuing_modCur]; exact issuing_begun h

/-- The issuing group in the state in which the effect is made: its own, but for RST and the program counters. -/
theorem entered_group (n : Nat) {s : State} (h : issuing s = true) :
    clearedRst { (curGroup s).r with pc := (curGroup (entered n s)).r.pc } (curGroup (entered n s)).r
    ∧ (curGroup (entered n s)).a = (curGroup s).a ∧ (curGroup (entered n s)).gi = (curGroup s).gi
    ∧ (curGroup (entered n s)).fmode = (curGroup s).fmode ∧ (curGroup (entered n s)).f = (curGroup s).f
    ∧ (curGroup (entered n s)).team = (curGroup s).team ∧ (curGroup (entered n s)).pasid = (curGroup s).pasid
    ∧ (curGroup (entered n s)).grid = (curGroup s).grid := by
  obtain ⟨g, hg, hr, rest⟩ := begun_group h
  have hc : curGroup (begun s) = g := by simp [curGroup, hg]
  rw [entered, curGroup_modCur _ (issuing_begun h), hc]
  refine ⟨?_, rest⟩
  unfold clearedRst at hr ⊢
  rw [← hr]
  rfl

/-- The program counters there: the active set has passed the unit (R146). -/
theorem entered_pc (n : Nat) {s : State} (h : issuing s = true) :
    (curGroup (entered n s)).r.pc
      = ssetAll 0 (curGroup s).r.pc (s.cur.lanes.map (·, s.cur.pc + BitVec.ofNat 57 n)) := by
  obtain ⟨g, hg, hr, -⟩ := begun_group h
  have hc : curGroup (begun s) = g := by simp [curGroup, hg]
  rw [entered, curGroup_modCur _ (issuing_begun h), hc]
  have : g.r.pc = (curGroup s).r.pc := by rw [← hr]
  simp [setPcs, this]

/-! ### An instruction whose effect succeeds -/

theorem attempt_eq (n : Nat) (m : M Unit) (s : State) :
    attempt n m s = match m (entered n s) with
      | .ok (_, t) => .ok t
      | .error x => .error x := by
  have h : advancePcs n (begun s) = .ok ((), entered n s) := by
    unfold advancePcs
    rw [bind_ok (getS_run ..), modR_run]
    simp only [begun_cur] <;> rfl
  unfold attempt
  rw [bind_ok h] <;> (cases m (entered n s) <;> rfl)

/-- An instruction completes where its effect does. -/
theorem issue_ok {n : Nat} {m : M Unit} {s t : State} (h : issuing s = true) (hm : m (entered n s) = .ok ((), t)) :
    issue n m s = .next (finish s t) := by
  unfold issue
  rw [groupAt_cur_of_issuing h]
  simp only [attempt_eq, hm]

/-- But for the repeat of a flagged instruction, an instruction whose effect succeeds completes. -/
theorem finish_of_no_replay {s : State} (t : State) (h : (curGroup s).replay = none) : finish s t = retire t := by
  simp [finish, h]

/-- An instruction that does not itself issue guarded completes where its effect succeeds, repeated or not. -/
theorem finish_of_unguarded {s t : State} (h : ctrGet t (ctrKey 1 s.cur.core 6) = ctrGet s (ctrKey 1 s.cur.core 6)) :
    finish s t = retire t := by
  simp [finish, h]

/-- An instruction that stops other than by ending its chunk. -/
theorem issue_stop {n : Nat} {m : M Unit} {s : State} {x : Stop} (h : issuing s = true) (hx : x ≠ .cut)
    (hm : m (entered n s) = .error x) : issue n m s = .next (stopped s x) := by
  unfold issue
  rw [groupAt_cur_of_issuing h]
  simp only [attempt_eq, hm]

theorem issueP_ok {p : Option Pfx} {m : M Unit} {s t : State} (h : issuing s = true) (hm : m (entered (unitLen p) s) = .ok ((), t)) :
    issueP p m s = .next (finish s t) := issue_ok h hm

/-! ### Completion -/

theorem marchOn_form (n : Nat) (s : State) (e : Nat × Stack) :
    ∃ c d, marchOn n s e = { s with ctr := c, shorted := d } := by
  unfold marchOn
  by_cases hm : (!e.2.marching) = true
  · rw [if_pos hm]; exact ⟨s.ctr, s.shorted, rfl⟩
  · rw [if_neg hm]
    dsimp only
    generalize hx : charge s _ _ = s1
    have h1 : s1 = { s with ctr := s1.ctr, shorted := s.shorted } := by subst hx; rfl
    clear hx
    split
    · unfold refuseAdmission
      split
      · exact ⟨s1.ctr, s.shorted, h1⟩
      · rw [h1]; exact ⟨_, _, rfl⟩
    · exact ⟨s1.ctr, s.shorted, h1⟩

/-- Time changes the reference count, the windows of reads and writes, the counters and SHORT marks of marches, and nothing else. -/
theorem passTime_form (s : State) (n : Nat) :
    ∃ r w c d, passTime s n = { s with clk := s.clk + n, moves := s.moves + 1, readWin := r, wroteWin := w, ctr := c, shorted := d } := by
  unfold passTime
  dsimp only
  generalize (if decide ((s.clk + n) / 1024 = s.clk / 1024) = true then s.readWin else []) = r
  generalize (if decide ((s.clk + n) / 1024 = s.clk / 1024) = true then s.wroteWin else []) = w
  have h : ∀ (l : List (Nat × Stack)) (c : Sparse (Option Dword)) (d : List Nat), ∃ c' d',
      l.foldl (marchOn n) { s with clk := s.clk + n, moves := s.moves + 1, readWin := r, wroteWin := w, ctr := c, shorted := d }
        = { s with clk := s.clk + n, moves := s.moves + 1, readWin := r, wroteWin := w, ctr := c', shorted := d' } := by
    intro l
    induction l with
    | nil => intro c d; exact ⟨c, d, rfl⟩
    | cons e t ih =>
      intro c d
      obtain ⟨c1, d1, h1⟩ := marchOn_form n
        { s with clk := s.clk + n, moves := s.moves + 1, readWin := r, wroteWin := w, ctr := c, shorted := d } e
      rw [List.foldl_cons, h1]
      exact ih c1 d1
  obtain ⟨c, d, hf⟩ := h s.hbm s.ctr s.shorted
  exact ⟨r, w, c, d, hf⟩

theorem passTime_cores (s : State) (n : Nat) : (passTime s n).cores = s.cores := by
  obtain ⟨r, w, c, d, h⟩ := passTime_form s n; rw [h]
theorem passTime_cur (s : State) (n : Nat) : (passTime s n).cur = s.cur := by
  obtain ⟨r, w, c, d, h⟩ := passTime_form s n; rw [h]
theorem passTime_mem (s : State) (n : Nat) : (passTime s n).mem = s.mem := by
  obtain ⟨r, w, c, d, h⟩ := passTime_form s n; rw [h]
theorem passTime_clk (s : State) (n : Nat) : (passTime s n).clk = s.clk + n := by
  obtain ⟨r, w, c, d, h⟩ := passTime_form s n; rw [h]

/-- Whether a group must stop depends on its core's fields other than the groups, and on what the group waits for. -/
theorem mustStop_congr {s t : State} {c : Nat} {g h : Group} (ht : (coreAt t c).teams = (coreAt s c).teams)
    (hq : (coreAt t c).stopReq = (coreAt s c).stopReq) (e1 : h.atEnd = g.atEnd) (e2 : h.fmode = g.fmode) (e3 : h.team = g.team) :
    mustStop t c h = mustStop s c g := by
  unfold mustStop teamAt; rw [e1, e2, e3, ht, hq]

theorem groupAt_of_cores {s t : State} (h : t.cores = s.cores) (c g : Nat) : groupAt t c g = groupAt s c g := by
  unfold groupAt coreAt; rw [h]

theorem aget_map_snd {α : Type} (m : Sparse α) (f : Nat × α → Nat × α) (hf : ∀ e, (f e).1 = e.1) (k : Nat) :
    aget (m.map f) k = (aget m k).map (fun v => (f (k, v)).2) := by
  induction m with
  | nil => rfl
  | cons e t ih =>
    obtain ⟨j, v⟩ := e
    have := hf (j, v)
    rw [List.map_cons]
    generalize hfe : f (j, v) = fe at this ⊢
    obtain ⟨j', v'⟩ := fe
    simp only at this; subst this
    simp only [aget]
    split
    · subst ‹k = j'›; simp [hfe]
    · exact ih

/-- A pipe's issue counts in the TYIELD window of the group that issued, as in those of the pipe's other groups (R324). -/
theorem groupAt_tickYield_self (s : State) (c slot : Nat) : groupAt (tickYield s c slot) c slot
    = (groupAt s c slot).map (fun g => { g with yieldLeft := g.yieldLeft - 1 }) := by
  unfold tickYield groupAt
  rw [coreAt_modCore_self, aget_map_snd _ _ (by intro e; split <;> rfl)]
  cases aget (coreAt s c).groups slot with
  | none => rfl
  | some g =>
    by_cases h : g.yieldLeft = 0
    · simp only [Option.map_some, h, ne_eq, not_true, and_false, if_false, Nat.zero_sub]; rw [← h]
    · simp [h]

/-- The group after its instruction has counted and its clk has passed. -/
def turned (x : State) : Group :=
  { curGroup x with
    open_ := { (curGroup x).open_ with slots := (curGroup x).open_.slots + 1 }
    query := (curGroup x).query.filter (fun q => !q.used)
    stamp := x.clk + 1
    yieldLeft := (curGroup x).yieldLeft - 1
    tstamp := ssetAll 0 (curGroup x).tstamp (x.cur.lanes.map (·, x.clk + 1)) }

theorem groupAt_counted {x : State} (h : issuing x = true) : groupAt (counted x) x.cur.core x.cur.slot = some (turned x) := by
  unfold counted
  rw [groupAt_tickYield_self]
  unfold tickGroup
  rw [groupAt_modGroup, if_pos ⟨rfl, rfl⟩, groupAt_of_cores (passTime_cores ..), groupAt_coreCtr]
  have hl : (tallied x).cur.lanes = x.cur.lanes := by unfold tallied; rw [modCur_cur]
  have hk : (coreCtr (tallied x) x.cur.core 0 1).clk = x.clk := by rw [coreCtr_clk]; exact modCur_clk ..
  rw [hl, hk]
  unfold tallied modCur
  rw [groupAt_modGroup, if_pos ⟨rfl, rfl⟩, groupAt_cur_of_issuing h]
  rfl

/-- A core but for its groups. -/
def bare (k : Core) : Core := { k with groups := [] }

theorem bare_modGroup (s : State) (c g : Nat) (f : Group → Group) : bare (coreAt (modGroup s c g f) c) = bare (coreAt s c) := by
  unfold modGroup; split
  · rfl
  · simp [coreAt_setGroup, bare]

theorem bare_tickYield (s : State) (c slot : Nat) : bare (coreAt (tickYield s c slot) c) = bare (coreAt s c) := by
  unfold tickYield; rw [coreAt_modCore_self]; rfl

theorem bare_counted (x : State) : bare (coreAt (counted x) x.cur.core) = bare (coreAt x x.cur.core) := by
  unfold counted tickGroup
  have hc : ∀ s : State, coreAt (passTime s 1) x.cur.core = coreAt s x.cur.core := by intro s; unfold coreAt; rw [passTime_cores]
  have hk : ∀ s : State, coreAt (coreCtr s x.cur.core 0 1) x.cur.core = coreAt s x.cur.core := fun s => rfl
  rw [bare_tickYield, bare_modGroup, hc, hk]
  exact bare_modGroup ..

/-- Where the chunk goes on, completing an instruction counts it, and that is all. -/
theorem retire_goesOn {x : State} (h : goesOn x) : retire x = counted x := by
  obtain ⟨hi, hs, hl, he, hh, hr, ha, hm⟩ := h
  have hg := groupAt_counted hi
  have hstop : mustStop (counted x) x.cur.core (turned x) = false := by
    rw [← hm]; exact mustStop_congr
      (show (bare _).teams = (bare _).teams by rw [bare_counted]) (show (bare _).stopReq = (bare _).stopReq by rw [bare_counted]) rfl rfl rfl
  have hspend : ∀ cks, spendSkid (counted x) x.cur.core x.cur.slot cks = counted x := by
    intro cks; unfold spendSkid; rw [hg]; simp [turned, hh]
  have hend : endIfBlocked (counted x) x.cur.core x.cur.slot false = counted x := by
    unfold endIfBlocked; rw [hg]; dsimp only
    rw [hstop, show (turned x).awaited = false from ha]; rfl
  have hhalt : stopHalted (counted x) x.cur.core x.cur.slot = counted x := by
    unfold stopHalted; rw [hg]; simp [turned, hh]
  unfold retire
  dsimp only
  rw [hg]
  dsimp only
  have hcond : ((turned x).open_.ending || decide (2048 ≤ (turned x).open_.slots) || decide (48 < (turned x).open_.lines.length)) = false := by
    simp only [turned, he, Bool.false_or, Bool.or_eq_false_iff, decide_eq_false_iff_not]; omega
  rw [hcond]
  simp only [hr, Option.isSome_none, Bool.false_eq_true, if_false, hspend, hend, hg, hhalt, ite_self]

end Sys2Proof.Laws
end

