-- ==== Sys2Proof/Laws/Operands.lean ====
section
/-! SUPPORT. Sys2Proof/Laws/Operands.lean: the laws of operand checks, reads and writes, and of the shared register forms: where the operands
are legal, in range and no ports, the unit completes, and this is what it leaves. -/

namespace Sys2Proof.Laws

open Sys2Proof.Machine

/-! ### The state in which the effect is made -/

theorem entered_r (n : Nat) {s : State} (h : issuing s = true) : (curGroup (entered n s)).r =
    { (curGroup s).r with pc := (curGroup (entered n s)).r.pc, rst := (curGroup (entered n s)).r.rst } := by
  have e := (entered_group n h).1
  unfold clearedRst at e
  generalize (curGroup (entered n s)).r = r at e ⊢
  cases r; simp_all

@[simp] theorem inAlloc_entered (n : Nat) {s : State} (h : issuing s = true) (c : Code) (k : Nat) :
    inAlloc (entered n s) c k = inAlloc s c k := by
  unfold inAlloc; rw [entered_r n h, (entered_group n h).2.1]

theorem inMask_entered (n : Nat) {s : State} (h : issuing s = true) (p : Option Pfx) (t : Nat) :
    inMask (curGroup (entered n s)) p t = inMask (curGroup s) p t := by
  unfold inMask; rw [entered_r n h]

theorem execLanes_entered (n : Nat) {s : State} (h : issuing s = true) (p : Option Pfx) :
    execLanes p (entered n s) = .ok (execs s p, entered n s) := by
  simp only [execLanes, getS_run, entered_cur, execs]
  congr 3; funext t; exact inMask_entered n h p t

theorem zeroLanes_entered (n : Nat) {s : State} (h : issuing s = true) (p : Option Pfx) :
    zeroLanes p (entered n s) = .ok (zeroed s p, entered n s) := by
  unfold zeroLanes maskedLanes
  rw [bind_ok (getS_run ..), pure_run]
  simp only [entered_cur, zeroed]
  congr 4; funext t; rw [inMask_entered n h p t]

/-! ### Checks -/

theorem opnd_src {s : State} {c : Code} (h : okSrc s c = true) :
    (Opnd.src c).legal = true ∧ (Opnd.src c).inRange (curGroup s) = true := by
  simp only [okSrc, plainSrc, Bool.and_eq_true, Bool.or_eq_true, decide_eq_true_eq] at h
  refine ⟨?_, h.2⟩
  simp only [Opnd.legal, Bool.not_eq_true', Bool.or_eq_false_iff, beq_eq_false_iff_ne, ne_eq]
  constructor <;> (rintro rfl; simp at h)

theorem opnd_dst {s : State} {c : Code} (h : okDst s c = true) :
    (Opnd.dst c).legal = true ∧ (Opnd.dst c).inRange (curGroup s) = true := by
  simp only [okDst, plainDst, Bool.and_eq_true, Bool.or_eq_true, decide_eq_true_eq] at h
  refine ⟨?_, h.2⟩
  simp only [Opnd.legal, Bool.or_eq_true, decide_eq_true_eq]
  exact h.1.imp (by omega) id

theorem opnd_pair {s : State} {c : Code} (h : okPair s c = true) :
    (Opnd.pair c).legal = true ∧ (Opnd.pair c).inRange (curGroup s) = true := by
  simp only [okPair, Bool.and_eq_true] at h
  exact ⟨h.1, h.2⟩

theorem opnd_quad {s : State} {c : Code} (h : okQuad s c = true) :
    (Opnd.quad c).legal = true ∧ (Opnd.quad c).inRange (curGroup s) = true := by
  simp only [okQuad, Bool.and_eq_true] at h
  exact ⟨h.1, h.2⟩

/-- The checks of step 5 and 6 of R79 pass where every operand is legal and in range. -/
theorem checkOps_ok (ops : List Opnd) (s : State) (h : ∀ o ∈ ops, o.legal = true ∧ o.inRange (curGroup s) = true) :
    checkOps ops s = .ok ((), s) := by
  have h1 : ops.all Opnd.legal = true := List.all_eq_true.2 fun o ho => (h o ho).1
  have h2 : ops.all (Opnd.inRange (curGroup s)) = true := List.all_eq_true.2 fun o ho => (h o ho).2
  unfold checkOps
  rw [h1, bind_ok (ensure_true ..), bind_ok (getG_run ..), h2, ensure_true]

@[simp] theorem okSrc_entered (n : Nat) {s : State} (h : issuing s = true) (c : Code) : okSrc (entered n s) c = okSrc s c := by
  simp [okSrc, h]
@[simp] theorem okDst_entered (n : Nat) {s : State} (h : issuing s = true) (c : Code) : okDst (entered n s) c = okDst s c := by
  simp [okDst, h]
@[simp] theorem okPair_entered (n : Nat) {s : State} (h : issuing s = true) (c : Code) : okPair (entered n s) c = okPair s c := by
  simp [okPair, h]
@[simp] theorem okQuad_entered (n : Nat) {s : State} (h : issuing s = true) (c : Code) : okQuad (entered n s) c = okQuad s c := by
  simp [okQuad, h]

/-! ### Reads -/

@[simp] theorem srcStep_cur (s : State) (ex : List Nat) (c : Code) : (srcStep s ex c).cur = s.cur := by
  unfold srcStep; split
  · exact withRegs_cur ..
  · rfl

@[simp] theorem issuing_srcStep (s : State) (ex : List Nat) (c : Code) : issuing (srcStep s ex c) = issuing s := by
  unfold srcStep; split <;> simp

/-- A source that is no port: its value for the threads that execute, and what reading it leaves. -/
theorem readSrc_plain {s : State} {c : Code} (ex : List Nat) (hc : plainSrc c = true) :
    ∃ f, readSrc c ex s = .ok (f, srcStep s ex c) ∧ ∀ t ∈ ex, f t = srcVal s c t := by
  simp only [plainSrc, Bool.or_eq_true, decide_eq_true_eq] at hc
  have hlt := c.isLt
  unfold readSrc
  rw [bind_ok (getG_run ..)]
  have ne {k : Nat} (h : c.toNat ≠ k) (hk : k < 128) : c ≠ BitVec.ofNat 7 k := by
    rintro rfl; simp at h; omega
  by_cases h1 : c.toNat ≤ 111
  · have : srcStep s ex c = s := by unfold srcStep; rw [if_neg]; rintro ⟨rfl, -⟩; simp at h1
    rw [this]
    refine ⟨readVK (curGroup s).r c, by simp [h1], fun t _ => ?_⟩
    simp only [readVK, readV, vKey, srcVal, h1, if_true]
  · have h2 : ¬ c.toNat ≤ 117 := by omega
    simp only [h1, h2, if_false]
    by_cases h125 : c.toNat = 125
    · have hc5 : c = 125 := by apply BitVec.eq_of_toNat_eq; simpa using h125
      subst hc5
      cases hex : ex with
      | nil => exact ⟨fun _ => 0, by simp [srcStep, bind_run], by simp⟩
      | cons a l =>
        refine ⟨fun _ => loWord (cycles s (dieOf s.cur.core)), ?_, fun t _ => by simp [srcVal]⟩
        simp only [srcStep]; rfl
    · have : srcStep s ex c = s := by unfold srcStep; rw [if_neg]; rintro ⟨rfl, -⟩; simp at h125
      rw [this]
      have h95 : ¬ c.toNat ≤ 95 := by omega
      by_cases a1 : c.toNat = 121
      · exact ⟨_, by simp [a1]; rfl, fun t _ => by simp [srcVal, a1]⟩
      by_cases a2 : c.toNat = 122
      · exact ⟨_, by simp [a2]; rfl, fun t _ => by simp [srcVal, a2]⟩
      by_cases a3 : c.toNat = 123
      · exact ⟨_, by simp [a3, bind_run]; rfl, fun t _ => by simp [srcVal, a3]⟩
      by_cases a4 : c.toNat = 124
      · exact ⟨_, by simp [a4]; rfl, fun t _ => by simp [srcVal, a4]⟩
      by_cases a6 : c.toNat = 126
      · exact ⟨_, by simp [a6]; rfl, fun t _ => by simp [srcVal, a6]⟩
      by_cases a7 : c.toNat = 127
      · exact ⟨_, by simp [a7]; rfl, fun t _ => by simp [srcVal, a7]⟩
      exact ⟨_, by simp [a1, a2, a3, a4, a6, a7, h125]; rfl, fun t _ => by simp [srcVal, h95, h1, a1, a2, a3, a4, a6, a7, h125]⟩

theorem readVK_eq (s : State) (c : Code) (t : Nat) (hc : c.toNat < 112 ∨ c = 120) : readVK (curGroup s).r c t = srcVal s c t := by
  unfold readVK srcVal readV vKey
  rcases hc with h | rfl
  · by_cases h1 : c.toNat ≤ 95
    · simp [h1]
    · simp [h1, show c.toNat ≤ 111 by omega]
  · simp

theorem readPair_run (s : State) (c : Code) (h : pairCode c = true) : readPair c s = .ok (fun t => pairVal s c t, s) := by
  unfold readPair
  rw [bind_ok (getG_run ..), pure_run]
  have e : readPairR (curGroup s).r c = fun t => pairVal s c t := by
    funext t
    unfold readPairR pairVal dwordOf
    by_cases hz : c = 120
    · rw [if_pos hz, if_pos hz]
    · rw [if_neg hz, if_neg hz]
      simp only [pairCode, Bool.or_eq_true, Bool.and_eq_true, decide_eq_true_eq, beq_iff_eq, hz, or_false] at h
      have hb : (c + 1).toNat = c.toNat + 1 := by
        rw [BitVec.toNat_add]; simp; omega
      rw [readVK_eq s c t (.inl h.1), readVK_eq s (c + 1) t (.inl (by omega))]
  rw [e]

/-! ### Writes -/

/-- Only what the executing threads write counts. -/
theorem writeVK_congr (r : GRegs) (c : Code) (ex zl : List Nat) (f g : Nat → Word) (h : ∀ t ∈ ex, f t = g t) :
    writeVK r c ex zl f = writeVK r c ex zl g := by
  unfold writeVK; split
  · congr 3; exact List.map_congr_left fun t ht => by rw [h t ht]
  · split
    · cases ex with
      | nil => rfl
      | cons a l => simp only; rw [h a (by simp)]
    · rfl

theorem writePairR_congr (r : GRegs) (c : Code) (ex zl : List Nat) (f g : Nat → Dword) (h : ∀ t ∈ ex, f t = g t) :
    writePairR r c ex zl f = writePairR r c ex zl g := by
  unfold writePairR; split
  · rfl
  · rw [writeVK_congr r c ex zl (fun t => loWord (f t)) (fun t => loWord (g t)) fun t ht => by rw [h t ht],
      writeVK_congr _ (c + 1) ex zl (fun t => hiWord (f t)) (fun t => hiWord (g t)) fun t ht => by rw [h t ht]]

theorem putWord_congr (s : State) (c : Code) (ex zl : List Nat) (f g : Nat → Word) (h : ∀ t ∈ ex, f t = g t) :
    putWord s c ex zl f = putWord s c ex zl g := by
  unfold putWord; congr 2; funext r; exact writeVK_congr r c ex zl f g h

theorem putPair_congr (s : State) (c : Code) (ex zl : List Nat) (f g : Nat → Dword) (h : ∀ t ∈ ex, f t = g t) :
    putPair s c ex zl f = putPair s c ex zl g := by
  unfold putPair; congr 1; funext r; exact writePairR_congr r c ex zl f g h

theorem writeDst_plain {s : State} {c : Code} (ex zl : List Nat) (f : Nat → Word) (hc : plainDst c = true) :
    writeDst c ex zl f s = .ok ((), putWord s c ex zl f) := by
  by_cases hz : c = 120
  · subst hz; rfl
  · simp only [plainDst, Bool.or_eq_true, decide_eq_true_eq, beq_iff_eq, hz, or_false] at hc
    simp only [writeDst, hc, if_true, modR_run, putWord, if_neg hz]

theorem writePair_run (s : State) (c : Code) (ex zl : List Nat) (f : Nat → Dword) :
    writePair c ex zl f s = .ok ((), putPair s c ex zl f) := rfl

/-! ### The register forms -/

theorem okSrc_plain {s : State} {c : Code} (h : okSrc s c = true) : plainSrc c = true := by simp_all [okSrc]
theorem okDst_plain {s : State} {c : Code} (h : okDst s c = true) : plainDst c = true := by simp_all [okDst]
theorem okPair_code {s : State} {c : Code} (h : okPair s c = true) : pairCode c = true := by simp_all [okPair]

theorem alu1_run {s : State} {p : Option Pfx} {d a : Code} (f : Word → Word) (h : issuing s = true) (hd : okDst s d = true)
    (ha : okSrc s a = true) : alu1 p d a f (entered (unitLen p) s) = .ok ((), did1 s p d a f) := by
  unfold alu1
  rw [bind_ok (checkOps_ok _ _ (by
      simp only [List.mem_cons, List.not_mem_nil, or_false, forall_eq_or_imp, forall_eq]
      exact ⟨opnd_dst (by simpa [h] using hd), opnd_src (by simpa [h] using ha)⟩)),
    bind_ok (execLanes_entered _ h p), bind_ok (zeroLanes_entered _ h p)]
  obtain ⟨x, hx, ex⟩ := readSrc_plain (s := entered (unitLen p) s) (execs s p) (okSrc_plain ha)
  rw [bind_ok hx, writeDst_plain _ _ _ (okDst_plain hd)]
  simp only [did1]
  rw [putWord_congr _ _ _ _ _ _ fun t ht => by rw [ex t ht]]

theorem alu2_run {s : State} {p : Option Pfx} {d a b : Code} (f : Word → Word → Word) (h : issuing s = true) (hd : okDst s d = true)
    (ha : okSrc s a = true) (hb : okSrc s b = true) :
    alu2 p d a b f (entered (unitLen p) s) = .ok ((), did2 s p d a b f) := by
  unfold alu2
  rw [bind_ok (checkOps_ok _ _ (by
      simp only [List.mem_cons, List.not_mem_nil, or_false, forall_eq_or_imp, forall_eq]
      exact ⟨opnd_dst (by simpa [h] using hd), opnd_src (by simpa [h] using ha), opnd_src (by simpa [h] using hb)⟩)),
    bind_ok (execLanes_entered _ h p), bind_ok (zeroLanes_entered _ h p)]
  obtain ⟨x, hx, ex⟩ := readSrc_plain (s := entered (unitLen p) s) (execs s p) (okSrc_plain ha)
  obtain ⟨y, hy, ey⟩ := readSrc_plain (s := srcStep (entered (unitLen p) s) (execs s p) a) (execs s p) (okSrc_plain hb)
  rw [bind_ok hx, bind_ok hy, writeDst_plain _ _ _ (okDst_plain hd)]
  simp only [did2]
  rw [putWord_congr _ _ _ _ _ _ fun t ht => by rw [ex t ht, ey t ht]]

theorem alu3_run {s : State} {p : Option Pfx} {d a b : Code} (f : Word → Word → Word → Word) (h : issuing s = true)
    (hd : okDst s d = true) (ha : okSrc s a = true) (hb : okSrc s b = true) (hc : okSrc s (third p d) = true) :
    alu3 p d a b f (entered (unitLen p) s) = .ok ((), did3 s p d a b f) := by
  unfold alu3
  rw [bind_ok (checkOps_ok _ _ (by
      simp only [List.mem_cons, List.not_mem_nil, or_false, forall_eq_or_imp, forall_eq]
      exact ⟨opnd_dst (by simpa [h] using hd), opnd_src (by simpa [h] using ha), opnd_src (by simpa [h] using hb),
        opnd_src (by simpa [h] using hc)⟩)),
    bind_ok (execLanes_entered _ h p), bind_ok (zeroLanes_entered _ h p)]
  obtain ⟨x, hx, ex⟩ := readSrc_plain (s := entered (unitLen p) s) (execs s p) (okSrc_plain ha)
  obtain ⟨y, hy, ey⟩ := readSrc_plain (s := srcStep (entered (unitLen p) s) (execs s p) a) (execs s p) (okSrc_plain hb)
  obtain ⟨z, hz, ez⟩ := readSrc_plain (s := srcStep (srcStep (entered (unitLen p) s) (execs s p) a) (execs s p) b) (execs s p)
    (okSrc_plain hc)
  rw [bind_ok hx, bind_ok hy, bind_ok hz, writeDst_plain _ _ _ (okDst_plain hd)]
  simp only [did3]
  rw [putWord_congr _ _ _ _ _ _ fun t ht => by rw [ex t ht, ey t ht, ez t ht]]

theorem alu2w_run {s : State} {p : Option Pfx} {d a b : Code} (f : Word → Word → Dword) (h : issuing s = true)
    (hd : okPair s d = true) (ha : okSrc s a = true) (hb : okSrc s b = true) :
    alu2w p d a b f (entered (unitLen p) s) = .ok ((), did2w s p d a b f) := by
  unfold alu2w
  rw [bind_ok (checkOps_ok _ _ (by
      simp only [List.mem_cons, List.not_mem_nil, or_false, forall_eq_or_imp, forall_eq]
      exact ⟨opnd_pair (by simpa [h] using hd), opnd_src (by simpa [h] using ha), opnd_src (by simpa [h] using hb)⟩)),
    bind_ok (execLanes_entered _ h p), bind_ok (zeroLanes_entered _ h p)]
  obtain ⟨x, hx, ex⟩ := readSrc_plain (s := entered (unitLen p) s) (execs s p) (okSrc_plain ha)
  obtain ⟨y, hy, ey⟩ := readSrc_plain (s := srcStep (entered (unitLen p) s) (execs s p) a) (execs s p) (okSrc_plain hb)
  rw [bind_ok hx, bind_ok hy, writePair_run]
  simp only [did2w]
  rw [putPair_congr _ _ _ _ _ _ fun t ht => by rw [ex t ht, ey t ht]]

theorem alu64_run {s : State} {p : Option Pfx} {d a b : Code} (f : Dword → Dword → Dword) (h : issuing s = true)
    (hd : okPair s d = true) (ha : okPair s a = true) (hb : okPair s b = true) :
    alu64 p d a b f (entered (unitLen p) s) = .ok ((), did64 s p d a b f) := by
  unfold alu64
  rw [bind_ok (checkOps_ok _ _ (by
      simp only [List.mem_cons, List.not_mem_nil, or_false, forall_eq_or_imp, forall_eq]
      exact ⟨opnd_pair (by simpa [h] using hd), opnd_pair (by simpa [h] using ha), opnd_pair (by simpa [h] using hb)⟩)),
    bind_ok (execLanes_entered _ h p), bind_ok (zeroLanes_entered _ h p), bind_ok (readPair_run _ _ (okPair_code ha)),
    bind_ok (readPair_run _ _ (okPair_code hb)), writePair_run]
  rfl

end Sys2Proof.Laws
end

