-- ==== Sys2Proof/Tests/Slice0.lean ====
section
/-! SUPPORT. Sys2Proof/Tests/Slice0.lean: the tests (ill-formed terms that WellFormed refuses, words and worked examples that the spec
writes out, one step each) and, for each statement with hypotheses, a witness: a concrete state and operands that meet them. -/

namespace Sys2Proof.Tests

open Sys2Proof Sys2Proof.Machine Sys2Proof.Claims

set_option Elab.async false

/-! ### Well-formedness (R76, R77) -/

theorem test_wf_event_refused : (Instr.powerOnReset).wellFormed = false := by decide
theorem test_wf_msel_13_refused : (Instr.iadd (some ⟨0, 13, false, 0, false⟩) 1 2 3).wellFormed = false := by decide
theorem test_wf_msel_12 : (Instr.iadd (some ⟨0, 12, true, 4, true⟩) 1 2 3).wellFormed = true := by decide
theorem test_wf_rnd_5_refused : (Instr.fadd (some ⟨0, 0, false, 5, false⟩) 1 2 3).wellFormed = false := by decide
theorem test_wf_c_without_third_refused : (Instr.iadd (some ⟨1, 0, false, 0, false⟩) 1 2 3).wellFormed = false := by decide
theorem test_wf_c_with_third : (Instr.imad (some ⟨1, 0, false, 0, false⟩) 1 2 3).wellFormed = true := by decide
theorem test_wf_memory_c_refused : (Instr.ldg32 (some ⟨1, 0, false, 0, false⟩) 1 2 4).wellFormed = false := by decide
theorem test_wf_memory_zm_refused : (Instr.ldg32 (some ⟨0, 1, true, 0, false⟩) 1 2 4).wellFormed = false := by decide
theorem test_wf_memory_rnd_refused : (Instr.ldg32 (some ⟨0, 1, false, 1, false⟩) 1 2 4).wellFormed = false := by decide
theorem test_wf_memory_sat_refused : (Instr.ldg32 (some ⟨0, 1, false, 0, true⟩) 1 2 4).wellFormed = false := by decide
theorem test_wf_memory_msel : (Instr.ldg32 (some ⟨0, 12, false, 0, false⟩) 1 2 4).wellFormed = true := by decide

/-! ### Words that the spec writes out: chapter 03 (R79's table, worked encodings) and the listings of chapters 06, 08 and 10 to 18 -/

theorem test_word_integer : decodeUnit [0x0201_0280] = .ok (.iabs none 4 5, 1) := by rfl
theorem test_word_zero_field : decodeUnit [0x0201_0281] = .error .illegalOpcode := by rfl
theorem test_word_shift_range : decodeUnit [0x1081_0220] = .error .illegalOpcode := by rfl
theorem test_word_immediate : decodeUnit [0x1140_FFFF] = .ok (.movi none 3 0x3FFF, 1) := by rfl
theorem test_word_literal : decodeUnit [0x1160_8000, 0x1234_5678] = .ok (.movl none 2 0x1234_5678, 2) := by rfl
theorem test_word_float : decodeUnit [0x2004_0814] = .ok (.fadd none 16 16 20, 1) := by rfl
theorem test_word_prefixed : decodeUnit [0xFE25_2400, 0x2061_0286] = .ok (.ffma (some ⟨9, 4, true, 1, false⟩) 4 5 6, 2) := by rfl
theorem test_word_third_source : decodeUnit [0xFE10_0000, 0x0501_4181] = .ok (.isel (some ⟨4, 0, false, 0, false⟩) 5 3 1, 2) := by rfl
theorem test_word_cross_lane : decodeUnit [0x4020_C082] = .ok (.xbfly none 3 1 2, 1) := by rfl
theorem test_word_branch : decodeUnit [0x501F_FFFD] = .ok (.bra 0x1FFFFD, 1) := by rfl
theorem test_word_conditional : decodeUnit [0x5041_C001] = .ok (.bz 7 1, 1) := by rfl
theorem test_word_trap : decodeUnit [0x5120_0001] = .ok (.trap 1, 1) := by rfl
theorem test_word_mask : decodeUnit [0x6080_0000] = .ok (.mset 0 0, 1) := by rfl
theorem test_word_load : decodeUnit [0x7081_3303] = .ok (.ldg32 none 4 102 3, 1) := by rfl
theorem test_word_store : decodeUnit [0x7122_C578] = .ok (.stg32 none 11 10 120, 1) := by rfl
theorem test_word_atomic : decodeUnit [0x8004_B516] = .ok (.atomAdd none 18 106 22, 1) := by rfl
theorem test_word_wait : decodeUnit [0x8400_3268] = .ok (.waitaddr 100 104, 1) := by rfl
theorem test_word_copy : decodeUnit [0xFE00_4000, 0x9020_3201] = .ok (.tcpy (some ⟨0, 1, false, 0, false⟩) 100 1, 2) := by rfl
theorem test_word_matrix : decodeUnit [0xA0BB_346A] = .ok (.mma 108 104 106, 1) := by rfl
theorem test_word_task : decodeUnit [0xB045_0300] = .ok (.join 20 6, 1) := by rfl
theorem test_word_item : decodeUnit [0xB0E0_0007] = .ok (.itemnext 7, 1) := by rfl
theorem test_word_barrier : decodeUnit [0xC01E_3C01] = .ok (.bar 120 120 1, 1) := by rfl
theorem test_word_system : decodeUnit [0xD160_F200] = .ok (.gangres 3 100, 1) := by rfl
theorem test_word_prefix_before_prefix : decodeUnit [0xFE00_4000, 0xFE00_4000] = .error .illegalPrefix := by rfl
theorem test_word_prefix_before_branch : decodeUnit [0xFE00_4000, 0x501F_FFFD] = .error .illegalPrefix := by rfl
theorem test_word_prefix_low_bits : decodeUnit [0xFE00_4001, 0x0001_C286] = .error .illegalOpcode := by rfl

/-! ### Small states -/

/-- The address at which the small states issue: the first of the firmware region. -/
def home : PC := 0x00EFF0000000

/-- A state in which a group issues from slot 0 of core 0 with some threads. -/
def at_ (g : Group) (lanes : List Nat) : State :=
  { cores := [(0, { role := 1, psize := 1, groups := [(0, g)], teams := [(0, {})] })]
    cur := { core := 0, slot := 0, lanes := lanes, pc := home } }

/-- A group whose lane 0 holds these values in v0, v1 and so on; every other lane holds 0. -/
def vgroup (vs : List Word) : Group := { a := 64, r := { v := vs.zipIdx.map (fun e => (32 * e.2, e.1)) } }

/-- The same as a group of the firmware. -/
def fgroup (vs : List Word) : Group := { vgroup vs with fmode := true }

/-- The value of a register in a lane after an instruction. -/
def lane (i : Instr) (s : State) (c : Code) (t : Nat) : Option Word :=
  match exec i s with
  | .next x => some (srcVal x c t)
  | _ => none

/-- The state after an instruction. -/
def then_ (i : Instr) (s : State) : State :=
  match exec i s with
  | .next x => x
  | _ => {}

/-- The value in lane 0 after an instruction on these values of v0, v1 and so on. -/
def of0 (i : Instr) (vs : List Word) (c : Code) : Option Word := lane i (at_ (vgroup vs) [0]) c 0

/-! ### Worked examples of the spec, one step each -/

/- R107's Barrett example. -/
theorem test_imulhi : of0 (.imulhiN none 3 2 9) [0, 0, 150994944, 0, 0, 0, 0, 0, 0, 349496] 3 = some 12286 := by decide
theorem test_icsub : of0 (.icsub none 2 2 3) [0, 0, 12290, 12289] 2 = some 1 := by decide
/- R109's example and R123's borderline cases. -/
theorem test_sad : of0 (.sad (some ⟨4, 0, false, 0, false⟩) 1 2 3) [0, 0, 0x0A141E28, 0x0C102030, 5] 1 = some 21 := by decide
theorem test_iabs_least : of0 (.iabs none 1 1) [0, 0x80000000] 1 = some 0x80000000 := by decide
theorem test_iabs_least_sat : of0 (.iabs (some ⟨0, 0, false, 0, true⟩) 1 1) [0, 0x80000000] 1 = some 0x7FFFFFFF := by decide
/- R115's examples. -/
theorem test_bfx_cut : of0 (.bfxI none 1 2 3) [0, 0, 0xF0E1D2C3, 0x081C] 1 = some 0xFFFFFFFF := by decide
theorem test_bfx_32 : of0 (.bfxN none 1 2 3) [0, 0, 0xF0E1D2C3, 0x0820] 1 = some 0 := by decide
theorem test_bfi : of0 (.bfi (some ⟨4, 0, false, 0, false⟩) 1 2 3) [0, 0, 0xAB, 0x080C] 1 = some 0x000AB000 := by decide
theorem test_prmt : of0 (.prmt none 3 1 2) [0, 0xF0E1D2C3, 0x05221809, 0x04030201] 3 = some 0x0287002D := by decide
/- R111: counts of 32 and more are defined. -/
theorem test_shr_32 : of0 (.shrI none 1 2 3) [0, 0, 0x80000000, 32] 1 = some 0xFFFFFFFF := by decide
theorem test_rotl_33 : of0 (.rotl none 1 2 3) [0, 0, 0x80000001, 33] 1 = some 3 := by decide
/- R138's borderline cases. -/
theorem test_fadd_nan : of0 (.fadd none 1 2 3) [0, 0, 0x7F800001, 0x3F800000] 1 = some 0x7FC00000 := by decide
theorem test_fmin_zeros : of0 (.fmin none 1 2 3) [0, 0, 0, 0x80000000] 1 = some 0x80000000 := by decide
theorem test_fneg_nan : of0 (.fneg none 1 2) [0, 0, 0x7FA00000] 1 = some 0xFFA00000 := by decide
/- R70: a read-only code as destination is a decode fault, whatever else; zr discards. -/
theorem test_zr_discards : (then_ (.mov none 120 2) (at_ (vgroup [0, 0, 7]) [0])).cur.lanes = [0]
    ∧ of0 (.mov none 120 2) [0, 0, 7] 120 = some 0 := by decide
/- R71: a prefix mask leaves a thread out; zeroing clears it. -/
theorem test_masked_out : lane (.movi (some ⟨0, 1, false, 0, false⟩) 1 9)
    (at_ { vgroup [3, 4] with r := { (vgroup [3, 4]).r with m := [(0, 2)] } } [0, 1]) 1 0 = some 4 := by decide
theorem test_masked_zeroed : lane (.movi (some ⟨0, 1, true, 0, false⟩) 1 9)
    (at_ { vgroup [3, 4] with r := { (vgroup [3, 4]).r with m := [(0, 2)] } } [0, 1]) 1 0 = some 0 := by decide
/- R68, R147: a branch back over three words. -/
theorem test_branch_back : pcOf (then_ (.bra 0x1FFFFD) (at_ (vgroup []) [0])) 0 = home - 12 := by decide
theorem test_bz_not_taken : pcOf (then_ (.bz 1 5) (at_ (vgroup [0, 1]) [0])) 0 = home + 4 := by decide
/- R152: the last member's MSYNC releases the mask and clears it. -/
theorem test_msync_release :
    let g : Group := { vgroup [] with r := { m := [(0, 3)], pc := [(0, home), (1, 0x100)], thr := [(1, .mwait 0 true)] } }
    let x := then_ (.msync 0) (at_ g [0])
    pcOf x 0 = home + 4 ∧ pcOf x 1 = 0x104 ∧ maskReg (curGroup x).r 0 = 0 ∧ doing x 1 = .run := by decide
/- R171: TRAP in F-mode enters the handler at FVEC with the cause, the threads and the address saved. -/
theorem test_trap_entry :
    let g := { fgroup [] with f := { vec := 0x1000 } }
    let h := curGroup (then_ (.trap 5) (at_ g [0, 1]))
    h.f.cause = 0x512 ∧ h.f.emask = 3 ∧ h.f.epc = 0x00EFF0000000 ∧ h.f.inh = true ∧ sget 0 h.r.pc 0 = 0x1000 := by decide
/- R173: ERET goes past a TRAP. -/
theorem test_eret :
    let g := { fgroup [] with f := { cause := 0x512, emask := 1, epc := 0x2000, inh := true } }
    let x := then_ .eret (at_ g [0])
    pcOf x 0 = 0x2004 ∧ (curGroup x).f.inh = false := by decide
/- R79: a privileged instruction outside F-mode stops the group with PRIVILEGED. -/
theorem test_privileged : ((curGroup (then_ .wfi (at_ (vgroup []) [0]))).stop.isSome) = true := by decide
/- R217, R232, R235: a store to the firmware region is seen by the group's next load, and is not committed before its chunk. -/
noncomputable def stored : State := then_ (.stg32 none 4 2 120) (at_ (fgroup [0, 0, 0xF0000040, 0xEF, 0x11223344]) [0])
theorem test_store_seen : lane (.ldg32 none 5 2 120) stored 5 0 = some 0x11223344 := by decide +kernel
theorem test_store_little_endian : lane (.ldg8n none 5 2 6) stored 5 0 = some 0x44 := by decide +kernel
theorem test_store_uncommitted : memByte stored 0x00EFF0000040 = 0 := by decide +kernel
/- R252: an atomic gives the old value. -/
theorem test_atom_old : lane (.atomAdd none 5 2 4) stored 5 0 = some 0x11223344 := by decide +kernel
theorem test_atom_new : seen (then_ (.atomAdd none 5 2 4) stored) 0x00EFF0000040 = 0x88 := by decide +kernel
/- R234: a misaligned access that needs alignment stops the group and stores nothing. -/
theorem test_misaligned :
    let s := then_ (.strel32 none 3 2 4) (at_ (fgroup [0, 0, 0xF0000042, 0xEF, 0x11223344]) [0])
    (curGroup s).f.cause.toNat % 256 = 0x06 ∧ seen s 0x00EFF0000042 = 0 := by decide +kernel

/-! ### Witnesses: registers, floats, control, exceptions -/

/-- A computation of the model that completes. -/
def passes {α : Type} (r : Except Stop (α × State)) : Bool :=
  match r with
  | .ok _ => true
  | .error _ => false

theorem passes_ok {α : Type} {r : Except Stop (α × State)} (h : passes r = true) : ∃ v s, r = .ok (v, s) := by
  cases r with
  | ok x => exact ⟨x.1, x.2, rfl⟩
  | error _ => cases h

/-- A computation of the model that completes with a value and a state of which something holds. -/
def holds {α : Type} (r : Except Stop (α × State)) (f : α → State → Bool) : Bool :=
  match r with
  | .ok (v, s) => f v s
  | .error _ => false

/-- An instruction that answers a next state. -/
def nexts (i : Instr) (s : State) : Bool :=
  match exec i s with
  | .next _ => true
  | _ => false

/-- A group outside F-mode, one in F-mode with an address of the firmware region in v2 and v3, and the states in which they issue. -/
def plain : State := at_ { vgroup [1, 2, 0xF0000040, 0xEF, 4, 5, 6, 7] with r := { (vgroup [1, 2, 0xF0000040, 0xEF, 4, 5, 6, 7]).r with m := [(0, 1)] } } [0, 1]
def firm : State := at_ (fgroup [1, 2, 0xF0000040, 0xEF, 0, 5, 6, 7]) [0]

/-- A prefix with a mask that leaves out thread 1, zeroing, and v4 as its c. -/
def masked : Option Pfx := some ⟨4, 1, true, 0, true⟩

theorem wit_IntegerRegisterResults : issuing plain = true ∧ okDst plain 0 = true ∧ okDst plain 63 = true ∧ okDst plain 111 = true
    ∧ okDst plain 120 = true ∧ okSrc plain 63 = true ∧ okSrc plain 111 = true ∧ okSrc plain 127 = true ∧ okSrc plain (third masked 120) = true
    ∧ okSrc plain (third none 5) = true ∧ okPair plain 62 = true ∧ okPair plain 110 = true ∧ okPair plain 120 = true := by decide

theorem wit_FloatResults : issuing plain = true ∧ okDst plain 5 = true ∧ okSrc plain 121 = true ∧ okSrc plain (third masked 5) = true := by decide

theorem wit_ConversionResults : issuing plain = true ∧ okDst plain 5 = true ∧ okSrc plain 1 = true ∧ okPair plain 2 = true ∧ okSrc plain 0x19 = true
    ∧ cvtSrcPair 0x06 = true ∧ cvtDstPair 0x02 = true ∧ cvtSrcPair 0x19 = false ∧ cvtDstPair 0x19 = false := by decide

theorem wit_CrossLaneResults : issuing plain = true ∧ okDst plain 5 = true ∧ (63 : Code).toNat ≤ 95 ∧ okSrc plain 63 = true
    ∧ okSrc plain 120 = true := by decide

theorem wit_RegisterWrites : issuing plain = true ∧ (111 : Code).toNat ≤ 111 ∧ (∀ t ∈ execs plain masked, t < 32)
    ∧ (∀ t ∈ zeroed plain masked, t < 32 ∧ t ∉ execs plain masked) ∧ execs plain masked = [0] ∧ zeroed plain masked = [1]
    ∧ okSrc plain 127 = true ∧ okDst plain 120 = true := by decide

theorem wit_EffectAndCompletion : issuing plain = true ∧ goesOn (entered 4 plain) := by unfold goesOn; decide

theorem wit_RegisterFormFrame : issuing plain = true ∧ okDst plain 111 = true ∧ okSrc plain 125 = true ∧ (∀ u ∈ plain.cur.lanes, u < 32)
    ∧ okSrc plain 1 = true ∧ okSrc plain (third none 5) = true ∧ goesOn (entered 4 plain) ∧ nexts (.iadd none 5 1 2) plain = true
    ∧ nexts (.fneg none 120 125) plain = true ∧ nexts (.ffma none 111 1 2) plain = true := by
  unfold goesOn; decide

theorem wit_BranchesAndExits : issuing plain = true ∧ okSrc plain 111 = true ∧ okPair firm 2 = true
    ∧ (∀ t ∈ firm.cur.lanes, (pairVal (entered 4 firm) 2 t).toNat % 4 = 0 ∧ canonical (pairVal (entered 4 firm) 2 t) = true)
    ∧ (∀ t ∈ plain.cur.lanes, t < 32) := by decide

/-- A chunk in progress with one line less than fits, and a group whose stack has one free line. -/
def deep : State := at_ { fgroup [1, 2, 0xF0000040, 0xEF] with
  r := { (fgroup [1, 2, 0xF0000040, 0xEF]).r with rsp := 63 }, rsbase := 0x10000, open_ := { slots := 1, lines := List.range 46 } } [0]

theorem wit_CallsAndReturns : issuing deep = true ∧ (∀ t ∈ deep.cur.lanes, t < 32) ∧ (curGroup deep).r.rsp < (curGroup deep).rsl
    ∧ (curGroup (entered 4 deep)).open_.lines.length + 2 ≤ 48 ∧ okPair deep 2 = true
    ∧ (let s := then_ (.call 4) (at_ { fgroup [] with rsbase := 0x10000 } [0])
       issuing s = true ∧ (∀ t ∈ s.cur.lanes, (entryFor (callEntries (entered 4 s) (curGroup (entered 4 s))) t).isSome = true)
       ∧ (curGroup (entered 4 s)).open_.lines.length + 2 * (callEntries (entered 4 s) (curGroup (entered 4 s))).length ≤ 48) := by
  decide +kernel

theorem wit_MaskInstructionsAndRelease : issuing plain = true ∧ (11 : Code).toNat < 12 ∧ okSrc plain 1 = true ∧ okDst plain 111 = true
    ∧ (let r : GRegs := { m := [(11, 3)], thr := [(0, .mwait 11 true), (1, .mwait 11 false)] }
       (∃ t, t < 32 ∧ waitsOn r 11 t ≠ none) ∧ (∀ t, t < 32 → (maskReg r 11).getLsbD t = true → waitsOn r 11 t ≠ none))
    ∧ (let r : GRegs := { m := [(0, 3)], thr := [(0, .mwait 0 true)] }
       ∃ t, t < 32 ∧ (maskReg r 0).getLsbD t = true ∧ ¬ waitsOn r 0 t ≠ none)
    ∧ (∀ t, t < 32 → ¬ waitsOn {} 0 t ≠ none) := by
  refine ⟨by decide, by decide, by decide, by decide, ⟨⟨0, by decide⟩, by decide⟩, ⟨1, by decide⟩, by decide⟩

theorem wit_ChunkAndWindowInstructions : issuing plain = true ∧ quiet (curGroup plain) = true ∧ otherPri plain 0 0 = false
    ∧ (curGroup plain).haltLeft = none ∧ mustStop plain 0 (curGroup plain) = false ∧ (240 : BitVec 14).toNat % 16 = 0
    ∧ (let s := at_ (vgroup [32, 64, 80, 256]) [0]
       okDst s 120 = true ∧ okSrc s 0 = true ∧ s.cur.lanes ≠ []
       ∧ (srcVal (entered 4 s) 0 0).toNat = 32 ∧ (srcVal (entered 4 s) 1 0).toNat ≤ (curGroup s).a
       ∧ (curGroup s).a < (srcVal (entered 4 s) 2 0).toNat ∧ (srcVal (entered 4 s) 3 0).toNat = 256) := by decide

theorem wit_TrapEntryAndSoftwareTraps : (groupAt firm 0 0).isSome = true ∧ issuing firm = true ∧ (curGroup firm).fmode = true
    ∧ (curGroup firm).f.inh = false ∧ firm.fw.dumping = none ∧ sameGroup (atFault firm 0) 0 0 (curGroup firm) = true
    ∧ issuing plain = true ∧ (curGroup plain).fmode = false ∧ sameGroup (atFault plain 0) 0 0 (curGroup plain) = true
    ∧ (let s := at_ { fgroup [] with f := { inh := true } } [0]
       issuing s = true ∧ (curGroup s).fmode = true ∧ (curGroup s).f.inh = true) := by decide

theorem wit_PrivilegeAndOperandFaults : issuing plain = true ∧ (curGroup plain).fmode = false ∧ (∃ e ∈ fmodeRegs plain, e.1 = (0x008 : BitVec 14).toNat)
    ∧ okDst plain 5 = true ∧ okSrc plain 1 = true ∧ (95 : Code).toNat ≤ 95 ∧ (curGroup plain).a ≤ (curGroup plain).r.wb + (64 : Code).toNat := by decide

theorem wit_ReturnFromTrap : let s := at_ { fgroup [] with f := { cause := 0x80, emask := 1, epc := 0x2000, inh := true } } [0]
    issuing s = true ∧ (curGroup s).fmode = true ∧ (curGroup s).f.inh = true := by decide

theorem wit_SystemRegisters : issuing firm = true ∧ okDst firm 120 = true ∧ (curGroup firm).fmode = true ∧ okSrc firm 1 = true ∧ firm.cur.lanes ≠ []
    ∧ (∃ e ∈ openRegs (entered 4 firm), e.1 = (0x006 : BitVec 14).toNat) ∧ (∃ e ∈ fmodeRegs (entered 4 firm), e.1 = (0x023 : BitVec 14).toNat)
    ∧ (∀ e ∈ openRegs (entered 4 firm) ++ fmodeRegs (entered 4 firm), e.1 ≠ (0x007 : BitVec 14).toNat) := by decide

theorem wit_SystemCallsAndInterrupts : issuing plain = true ∧ (curGroup plain).fmode = false
    ∧ (let s := { firm with cores := [(0, { (coreAt firm 0) with fpend := 0x80, fien := 0x80 })] }
       issuing s = true ∧ (curGroup s).fmode = true ∧ (coreAt s s.cur.core).fpend &&& (coreAt s s.cur.core).fien ≠ 0)
    ∧ (curGroup firm).fmode = true ∧ (coreAt firm 0).fpend &&& (coreAt firm 0).fien = 0 ∧ (curGroup firm).open_.slots = 0 ∧ (curGroup firm).done = []
    ∧ okSrc firm 4 = true ∧ firm.cur.lanes ≠ [] ∧ (srcVal (entered 4 firm) 4 0).toNat < 256
    ∧ (coreAt firm (srcVal (entered 4 firm) 4 0).toNat).role = 1 := by decide

/-- A firmware group whose CTXSEL names a stopped group in slot 1 of core 1, which a grid binds. -/
def saving : State :=
  let g := { fgroup [0, 0, 0xF0000080, 0xEF] with f := { ctxsel := 0x101 } }
  let t : Group := { a := 32, stop := some { kind := 1, skid := 0 } }
  { (at_ g [0]) with cores := [(0, { role := 1, groups := [(0, g)], teams := [(0, {})] }), (1, { grid := some 3, groups := [(1, t)] })],
                     grids := [(3, { pasid := 5 })] }

/-- The same with a saved record of a group of 32 registers at the address, and the slot free. -/
def loading : State := { saving with cores := saving.cores.map (fun (e : Nat × Core) => if e.1 = 1 then (1, { e.2 with groups := [] }) else e),
                                     mem := (List.range 24).zip (bytesOf 24 (2 * 2 ^ 60 + 32 * 2 ^ 128)) |>.filterMap
                                       (fun (e : Nat × Byte) => if e.2 = 0 then none else some (0x00EFF0000080 + e.1, e.2)) }

theorem wit_GroupRecords : issuing saving = true ∧ (curGroup saving).fmode = true ∧ okPair saving 2 = true ∧ saving.cur.lanes ≠ []
    ∧ (pairVal (entered 4 saving) 2 0).toNat % 128 = 0 ∧ (curGroup saving).open_.slots = 0 ∧ (curGroup saving).done = []
    ∧ (match groupAt (entered 4 saving) 1 1 with
      | none => false
      | some t => t.stop.isSome && quiet t && holds (lineAddrs true 0 (pairVal (entered 4 saving) 2 0) (t.a + 5) (entered 4 saving)) (fun pas s1 =>
          !heldByGrant s1 (sigOf (linesOf (pas.zip (groupRecord t))))
          && !heldByLive s1 (sigOf (linesOf (pas.zip (groupRecord t)))) (some (0, 0)))) = true
    ∧ holds (lineAddrs false 0 (pairVal (entered 4 loading) 2 0) 1 (entered 4 loading)) (fun head s1 =>
        decide (natOfBytes (head.map (memByte s1)) / 2 ^ 60 % 4 = 2) && decide (natOfBytes (head.map (memByte s1)) / 2 ^ 128 % 2 ^ 32 = 32)
        && decide ((coreAt s1 1).grid = some 3) && (gridAt s1 3).isSome && (groupAt s1 1 1).isNone && decide (regsUsed (coreAt s1 1) + 32 ≤ 4096)
        && passes (lineAddrs false 0 (pairVal (entered 4 loading) 2 0) 37 s1)) = true := by decide +kernel

/-! ### Witnesses: the firmware's instructions and memory -/

/-- `goesOn` as it computes. -/
def goes (x : State) : Bool :=
  let g := curGroup x
  issuing x && decide (g.open_.slots + 1 < 2048) && decide (g.open_.lines.length ≤ 48) && !g.open_.ending && g.haltLeft.isNone
    && g.replay.isNone && !g.awaited && !mustStop x x.cur.core g

theorem goes_goesOn {x : State} (h : goes x = true) : goesOn x := by
  simp only [goes, Bool.and_eq_true, decide_eq_true_eq, Bool.not_eq_true', Option.isNone_iff_eq_none] at h
  obtain ⟨⟨⟨⟨⟨⟨⟨a, b⟩, c⟩, d⟩, e⟩, r⟩, w⟩, f⟩ := h
  exact ⟨a, b, c, d, e, r, w, f⟩

/-- A state with a number stored in committed memory. -/
def putMem (s : State) (a n v : Nat) : State := memPut s (bytesAt a (bytesOf n v))

/-- The firmware group with more around it: v8 = 17 names reservation 1, v9 = 1 names queue 1 and slot 1. -/
def board : State :=
  { (putMem (at_ (fgroup [1, 2, 0xF0000040, 0xEF, 0, 5, 6, 7, 17, 1]) [0]) (64 * 1 + 9) 1 1) with gangs := [(1, { gen := 1, grid := some 3 })] }

theorem wit_FirmwareInstructions : issuing board = true ∧ (curGroup board).fmode = true ∧ board.cur.lanes ≠ [] ∧ okPair board 2 = true ∧ okSrc board 4 = true
    ∧ (let s0 := entered 4 board
       (srcVal s0 4 0).toNat / 2 ^ 20 < 3 ∧ canonical (pairVal s0 2 0) = true ∧ (curGroup board).open_.slots = 0 ∧ (curGroup board).done = []
       ∧ (curGroup board).inval = none
       ∧ (srcVal s0 9 0).toNat / 256 = dieOf board.cur.core ∧ aget s0.hslots (srcVal s0 9 0).toNat = none ∧ (srcVal s0 9 0).toNat ≤ 16383
       ∧ qEn (descAt s0 1) = true ∧ qDie (descAt s0 1) = 0 ∧ slotOf s0 1 = none ∧ (srcVal s0 9 0).toNat < 1024
       ∧ gangOf (srcStep s0 [0] 8) (srcVal s0 8 0) = some (1, 3))
    ∧ (let s := at_ { fgroup [1, 2, 0xF0000040, 0xEF, 0] with inval := some { chunks := [], pages := [] } } [0]
       (curGroup s).inval = some { chunks := [], pages := [] } ∧ invOver s { chunks := [], pages := [] } = true)
    ∧ (let s := { board with hslots := [(1, { q := 4, cls := 0, lent := none, consuming := false, unmap := false })] }
       ((aget s.hslots 1).map (·.consuming)) = some false)
    ∧ (let s := putMem board 0x00EFF0000040 1 1
       okDst s 120 = true ∧ (pairVal (entered 4 s) 2 0).toNat % 64 = 0
       ∧ holds (loadOne 64 0 (pairVal (entered 4 s) 2 0) false (entered 4 s)) (fun img s1 =>
          let s2 := (imageContext s1 img).2
          let g := gridOfImage img (imageContext s1 img).1.1 none
          decide (img % 256 = 1) && (match (rootLines s2.cur.core g .group (if badLaunch img g then 0 else g.nroot) s2).1 with
            | .ok _ => true
            | .error _ => false)) = true) := by decide +kernel

/-- What the global forms with v2 and v3 as base and v4 as offset read their operands from. -/
def based (s : State) : State := entered 4 s
def addr (s : State) : Nat → Dword := globalAt (based s) (based s) 2 4

theorem wit_GlobalAccessesAndValues : issuing firm = true ∧ okPair firm 2 = true ∧ okSrc firm 4 = true ∧ okDst firm 120 = true ∧ okPair firm 6 = true
    ∧ okQuad firm 60 = true ∧ okSrc firm 5 = true ∧ execs firm none = [0] ∧ (execs firm none).Nodup
    ∧ (∀ n ∈ [1, 2, 4, 8, 16], passes (loadGlobal n [0] (addr firm) (based firm)) = true
        ∧ passes (storeGlobal n [0] (addr firm) (fun _ => 5) (based firm)) = true
        ∧ holds (checkGlobal { n := n, mmioOk := n == 4 || n == 8 } [0] (addr firm) (based firm)) (fun cs _ => cs.all (fun c => !c.mmio)) = true)
    ∧ passes (loadOne 4 0 (addr firm 0) true (based firm)) = true := by decide +kernel

theorem wit_GlobalStoreFrame : issuing firm = true ∧ okPair firm 2 = true ∧ okSrc firm 4 = true ∧ okSrc firm 5 = true
    ∧ (∀ e ∈ [1, 2, 4], holds (checkGlobal { n := e, wr := true, mmioOk := e == 4 || e == 8 } [0] (addr firm) (based firm)) (fun cs _ => cs.all (fun c => !c.mmio)) = true
        ∧ holds (storeGlobal e [0] (addr firm) (fun _ => 5) (based firm)) (fun _ s3 => goes s3) = true)
    ∧ nexts (.stg8 none 5 2 4) firm = true ∧ nexts (.stg16 none 5 2 4) firm = true ∧ nexts (.stg32 none 5 2 4) firm = true := by decide +kernel

theorem wit_FirmwareAccessesAndAddressFaults : (0x41 : Dword).toNat % 4 ≠ 0 ∧ (0xFFC : Nat) ≤ 4096 - (0x0100000000000004 : Dword).toNat % 4096
    ∧ canonical 0x0100000000000004 = false ∧ issuing firm = true ∧ (curGroup firm).fmode = true ∧ (curGroup firm).pasid = 0 ∧ okDst firm 5 = true
    ∧ okPair firm 2 = true ∧ okSrc firm 4 = true ∧ (execs firm none).Nodup
    ∧ (∀ t ∈ execs firm none, t < 32 ∧ 0x00EFF0000000 ≤ (addr firm t).toNat ∧ (addr firm t).toNat < 0x00F000000000 ∧ (addr firm t).toNat % 4 = 0
        ∧ needsRebuild (based firm) ((addr firm t).toNat / 128) = false ∧ isPoisoned (based firm) ((addr firm t).toNat / 128) = false
        ∧ heldRead (based firm) (0, 0) ((addr firm t).toNat / 128) = false ∧ readWaits (based firm) ((addr firm t).toNat / 128) = false
        ∧ gateLive (based firm) false [(addr firm t).toNat / 128] = none)
    ∧ (curGroup (based firm)).open_.effects = [] ∧ (curGroup firm).done = [] ∧ (curGroup firm).open_.slots = 0 ∧ (coreAt firm 0).fills.length < 2048 := by
  decide +kernel

/-- v0 holds the last word of the core's own scratch partition, v1 the first byte past it. -/
def scratchy : State := at_ (fgroup [0xF0007FFC, 0xF0008000]) [0]

/-- What two copies have landed there, the later one first, of which thread 0 has waited for the later; and the state with it. -/
def landed : List Fresh := [{ old := 1, base := 0, uid := 0, lane := 0, batch := 2, seen := true }, { old := 0, base := 0, uid := 0, lane := 1, batch := 1 }]
def freshed : State := modCore scratchy 0 (fun k => { k with fresh := [(0x7FFC, landed)] })

theorem wit_ScratchAccesses : issuing scratchy = true ∧ okSrc scratchy 0 = true ∧ okSrc scratchy 120 = true ∧ okDst scratchy 5 = true ∧ okPair scratchy 6 = true
    ∧ okQuad scratchy 8 = true ∧ execs scratchy none = [0]
    ∧ (∀ n ∈ [1, 2, 4], passes (loadScratch n [0] (scratchAt (based scratchy) (based scratchy) 0 120) (based scratchy)) = true
        ∧ passes (storeScratch n [0] (scratchAt (based scratchy) (based scratchy) 0 120) (fun _ => 5) (based scratchy)) = true)
    ∧ (∀ n ∈ [8, 16], passes (loadScratch n [0] (fun _ => 0xF0007FF0) (based scratchy)) = true
        ∧ passes (storeScratch n [0] (fun _ => 0xF0007FF0) (fun _ => 5) (based scratchy)) = true)
    ∧ (curGroup scratchy).open_.slots = 0 ∧ (curGroup scratchy).done = [] ∧ (coreAt scratchy 0).stash = [] ∧ (execs scratchy none).Nodup
    ∧ (∀ t ∈ execs scratchy none, t < 32 ∧ (scratchAt (based scratchy) (based scratchy) 0 120 t).toNat / 2 ^ 28 = 15
        ∧ (scratchAt (based scratchy) (based scratchy) 0 120 t).toNat % 2 ^ 28 + 4 ≤ (coreAt scratchy 0).psize * 32768
        ∧ ∀ i < 4, aget (coreAt scratchy 0).fresh ((scratchAt (based scratchy) (based scratchy) 0 120 t).toNat % 2 ^ 28 + i) = none)
    ∧ aget (coreAt freshed 0).fresh 0x7FFC = some landed
    ∧ (landed.head?.map (fun f => decide (f.base = baseUid freshed 0 (curGroup freshed)) && decide (f.lane = 0) && f.seen)) = some true
    ∧ (coreAt scratchy 0).psize * 32768 ≤ (scratchAt (based scratchy) (based scratchy) 1 120 0).toNat % 2 ^ 28 := by decide +kernel

theorem wit_AtomicsAndFarReductions : issuing firm = true ∧ okPair firm 2 = true ∧ okDst firm 5 = true ∧ okSrc firm 6 = true ∧ okPair firm 6 = true
    ∧ (9 : Code).toNat ≤ 9 ∧ execs firm none = [0]
    ∧ (∀ n ∈ [4, 8], passes (atomPerform n true [0] (pairVal (based firm) 2) (fun o x _ => o + x) (fun _ => 3) (fun _ => 0) (based firm)) = true
        ∧ holds (checkGlobal { n := n, wr := true, aligned := true, atomic := true, pcieOk := true } [0] (pairVal (based firm) 2) (based firm)) (fun cs _ =>
            match cs with
            | [c] => decide ((globsOf c.locs).length = n) && decide ((globsOf c.locs).Nodup) && (globsOf c.locs).all (fun a => !beyond a)
            | _ => false) = true
        ∧ holds (checkGlobal { n := n, wr := true, aligned := true, pcieOk := true } [0] (pairVal (based firm) 2) (based firm)) (fun cs s2 =>
            cs.all (fun c => decide (c.lane ∈ [0])) && holds (guardChange (cs.flatMap (·.vlines)).dedup s2) (fun _ y => decide (y = s2))) = true) := by
  decide +kernel

/-- The same group with a store beyond the package that is not acknowledged yet, its own or another group's. -/
def unleft : State := { firm with extOut := [(0, 1)] }
def unleftOther : State := { firm with extPend := [{ core := 1, slot := 0, uid := 0, bytes := [(0x8000000000000, 1)] }] }

theorem wit_OrderingInstructions : issuing firm = true ∧ issuing unleft = true ∧ 7 ≤ (9 : Code).toNat ∧ (6 : Code).toNat < 7 ∧ okPair firm 2 = true ∧ (9 : Code).toNat ≤ 9 ∧ okSrc firm 5 = true ∧ okPair firm 6 = true ∧ okDst firm 5 = true
    ∧ firm.cur.lanes = [0] ∧ 96 ≤ (111 : Code).toNat
    ∧ (∀ n ∈ [4, 8], holds (checkGlobal { n := n, wr := true, aligned := true } [0] (pairVal (based firm) 2) (based firm)) (fun cs s2 =>
          cs.all (fun c => decide (c.lane ∈ [0])) && passes (performWrites cs n (fun _ => 5) (decide (7 ≤ (9 : Code).toNat)) s2) && !leavesLater (curGroup s2).open_
            && !(curGroup s2).done.any leavesLater && extQuiet s2 0 0 && s2.extPend.isEmpty
            && passes (performWrites cs n (fun _ => 5) (decide (7 ≤ (6 : Code).toNat)) s2)) = true
        ∧ holds (checkGlobal { n := n, wr := true, aligned := true } [0] (pairVal (based unleft) 2) (based unleft)) (fun _ s2 =>
            !leavesLater (curGroup s2).open_ && !extQuiet s2 0 0) = true
        ∧ holds (checkGlobal { n := n, wr := true, aligned := true } [0] (pairVal (based unleftOther) 2) (based unleftOther)) (fun cs s2 =>
            !leavesLater (curGroup s2).open_ && !s2.extPend.isEmpty && !(cs.flatMap (fun c => globsOf c.locs)).all beyond) = true
        ∧ holds (checkGlobal { n := n, aligned := true } [0] (pairVal (based firm) 2) (based firm)) (fun cs s2 => passes (performReads cs true s2)) = true)
    ∧ holds (checkGlobal { n := 1, sleep := true } [0] (pairVal (based firm) 2) (based firm)) (fun cs s2 => passes (performReads cs false s2)) = true := by
  decide +kernel

/-- Scratch address in v0, global base in v2 and v3, a length of one line in v5; an entry maps line 1 of the partition. -/
def mapped : State :=
  let g := fgroup [0xF0000000, 0xF0000080, 0xF0000080, 0xEF, 0, 128, 256, 64]
  { (at_ g [0]) with cores := [(0, { role := 1, psize := 1, groups := [(0, g)], teams := [(0, {})]
                                     stash := [(0, { valid := true, sline := 1, nline := 1, gline := 0x00EFF0000080 / 128, pend := false })] })] }

theorem wit_StashMapInstructions : issuing mapped = true ∧ okSrc mapped 0 = true ∧ okPair mapped 2 = true ∧ okSrc mapped 5 = true ∧ execs mapped none = [0]
    ∧ stashRangeOk mapped 0xF0000000 128 0x00EFF0000080 = true ∧ stashRangeOk mapped 0xF0007F80 128 0 = true
    ∧ (let k := coreAt mapped 0
       let e := newStash 0 1 (0x00EFF0000100 / 128)
       (∀ x ∈ (curGroup mapped).open_ :: (curGroup mapped).done, Effect.smap e ∉ x.effects)
       ∧ (∀ x ∈ k.stash, entMeets x.2 e = true → x.2.valid = false ∧ x.2.sline = 0 ∧ x.2.nline = 1 ∧ x.2.gline = e.gline) ∧ freshKey k.stash 16 0 = some 1
       ∧ (let j := { k with stash := [(0, e)] }
          (∀ x ∈ j.stash, entMeets x.2 e = true → x.2.valid = false ∧ x.2.sline = 0 ∧ x.2.nline = 1 ∧ x.2.gline = e.gline)
          ∧ (∃ x ∈ j.stash, entMeets x.2 e = true) ∧ freshKey j.stash 16 0 = some 1)
       ∧ (∃ x ∈ k.stash, x.2.valid = true ∧ x.2.sline = 1 ∧ x.2.nline = 1 ∧ x.2.gline = 0x00EFF0000080 / 128)
       ∧ (let e := newStash 0 2 (0x00EFF0000100 / 128)
          (∀ x ∈ (curGroup mapped).open_ :: (curGroup mapped).done, Effect.smap e ∉ x.effects)
          ∧ (∀ x ∈ k.stash, ¬ (x.2.valid = true ∧ x.2.sline = 0 ∧ x.2.nline = 2 ∧ x.2.gline = e.gline))
          ∧ (∃ x ∈ k.stash, ¬ (x.2.sline = 0 ∧ x.2.nline = 2 ∧ x.2.gline = e.gline) ∧ entMeets x.2 e = true))
       ∧ entsIn k 0 1 = [] ∧ entsIn k 1 1 ≠ [] ∧ (∀ e ∈ entsIn k 1 1, 1 ≤ e.sline ∧ e.sline + e.nline ≤ 2) ∧ ((entsIn k 1 1).map (·.nline)).sum = 1
       ∧ (let m := coreAt (modCore mapped 0 (fun k => { k with stash := [(0, { valid := true, sline := 1, nline := 2, gline := 9, pend := false })] })) 0
          ∃ e ∈ entsIn m 1 1, ¬ (1 ≤ e.sline ∧ e.sline + e.nline ≤ 2)))
    ∧ (srcVal mapped 7 0).toNat % 128 ≠ 0 := by decide +kernel

theorem wit_PinAndCacheInstructions : issuing firm = true ∧ okPair firm 2 = true ∧ okSrc firm 4 = true ∧ okDst firm 5 = true ∧ (curGroup firm).fmode = true
    ∧ passes (checkGlobal { n := 1, poisonOk := true } [0] (addr firm) (based firm)) = true
    ∧ inHbm 0x00F000000000 = false ∧ inHbm 0 = true ∧ isPinned (coreAt firm 0) 0 = false
    ∧ isPinned { coreAt firm 0 with l1 := [{ line := 0, dirty := false, pin := true }] } 0 = true
    ∧ (let k := { coreAt firm 0 with qused := lockLimit (coreAt firm 0) }; lockLimit k ≤ k.qused)
    ∧ (∀ t ∈ execs firm none, inHbm (addr firm t).toNat = true)
    ∧ (let l := (addr firm 0).toNat / 128
       passes (enterWrites [l] [l] [] (based firm)) = true
       ∧ passes (writeLocs ((List.range 128).map (fun i => (Loc.glob (128 * l + i), 0))) [] (based firm)) = true)
    ∧ (let s := based { firm with poison := [(addr firm 0).toNat / 128] }
       boundBarrier s = none ∧ holds (checkAccess { n := 1, poisonOk := true } 0 (addr firm 0) s) (fun r _ => !r.2 && r.1.any (fun a => isPoisoned s (a / 128))) = true)
    ∧ execs firm none = [0] ∧ boundBarrier (based firm) = none
    ∧ passes (checkAccess { n := 1, poisonOk := true } 0 0x0100000000000000 (based firm)) = false
    ∧ execs (at_ { vgroup [] with r := { m := [] } } [0]) (some ⟨0, 1, false, 0, false⟩) = [] := by decide +kernel

/-! ### Witnesses: copies, streams, tasks, matrices, barriers -/

theorem wit_CopyInstructions : issuing firm = true ∧ okPair firm 2 = true ∧ okSrc firm 4 = true ∧ okDst firm 5 = true ∧ okSrc firm 0 = true
    ∧ holds (copyDescs none 2 4 cpyLegal (based (putMem (at_ (fgroup [1, 2, 0xF0000080, 0xEF]) [0]) 0x00EFF0000080 128 (2 ^ 256)))) (fun ds s2 => copyRoom s2 ds.length) = true
    ∧ passes (copyDescs none 2 4 tcpyLegal (based (putMem (at_ (fgroup [1, 2, 0xF0000080, 0xEF]) [0]) 0x00EFF0000080 128 (2 ^ 190 + 2 ^ 293)))) = true
    ∧ (let full := { firm with copies := (List.range 64).map (fun i => (i, ({
          core := 0, slot := 0, lane := 0, batch := 1, uid := 0, desc := [], st := 1, count := 0, pos := 0, die := 0, engine := 0, pasid := 0
          grid := none, pkt := none, fault := none, endOrder := 0 } : Copy))) }
       copyRoom full 1 = false
       ∧ (let s := modCur full (fun g => { g with r := { g.r with sealed := [(0, 1)] } })
          (srcVal (based s) 0 0).toNat ≤ sealedOf (curGroup s).r 0 ∧ (openBatches (based s) 0 0).any (fun n => decide (n ≤ 1)) = true))
    ∧ (∀ t ∈ firm.cur.lanes, ((openBatches (based firm) 0 t).filter (fun n => decide (n ≤ sealedOf (curGroup firm).r t))).length < 16)
    ∧ (let s := modCur firm (fun g => { g with r := { g.r with sealed := [(0, 1)] } })
       (∀ t ∈ s.cur.lanes, (srcVal (based s) 0 t).toNat ≤ sealedOf (curGroup s).r t)
       ∧ (∃ t ∈ s.cur.lanes, (openBatches (based s) 0 t).any (fun n => decide (n ≤ 1)) = false) ∧ copyFault (based s) 0 0 1 = none)
    ∧ sealedOf (curGroup firm).r 0 < (srcVal (based firm) 0 0).toNat := by decide +kernel

/-- A stream of bytes at the firmware address, and a rig: the core bound to a grid with one channel to itself, alone in its cluster. -/
def bytes (store : Bool) : Stream :=
  { base := 0xEFF0000040, esz := 0, sgn := false, scr := false, store := store, nd := 0, lstr := 0, cnt := [4, 0, 0, 0], str := [1, 0, 0, 0]
    pos := [0, 0, 0, 0] }

def rig (vs : List Word) (r : GRegs → GRegs) (k : Core → Core) : State :=
  let g := fgroup vs
  { (at_ g [0]) with
    cores := [(0, k { role := 1, grid := some 3, psize := 8, groups := [(0, { g with r := r g.r })], teams := [(0, {})] })]
    grids := [(3, { pasid := 0, chans := [(1, { slots := 2, peer := 0 })] })]
    clusters := [(0, { grid := 3, members := [0], bar := {}, flight := [] })] }

theorem wit_StreamAndChannelInstructions : issuing firm = true ∧ okPair firm 2 = true ∧ okSrc firm 4 = true ∧ okDst firm 5 = true
    ∧ (let s := putMem (rig [1, 2, 0xF0000080, 0xEF, 0] id id) 0x00EFF0000080 128 (2 ^ 192)
       holds (checkGlobal { n := 128, aligned := true } [0] (addr s) (based s)) (fun cs s2 => holds (performReads cs false s2) (fun v s3 =>
         streamLegal (dwsOf (v 0)) && decide (streamsUsed (coreAt s3 0) < 128))) = true
       ∧ (chanDecl s 0 (lowVal (based s) 0).toNat).isSome = true ∧ chanDecl s 0 (lowVal (based s) 1).toNat = none)
    ∧ (let s := putMem firm 0x00EFF0000040 128 0
       streamLegal (dwsOf (memNat s 0x00EFF0000040 128)) = false)
    ∧ (aget (curGroup (rig [] (fun r => { r with streams := [(3, bytes false)] }) id)).r.streams 3).isSome = true
    ∧ aget (curGroup firm).r.streams 3 = none := by decide +kernel

theorem wit_PortOperands :
    (let s := rig [7] (fun r => { r with streams := [(0, bytes false), (3, bytes true)], chans := [(4, 1), (5, 1)] }) id
     issuing s = true ∧ execs s none = [0] ∧ okDst s 5 = true ∧ okSrc s 0 = true
     ∧ (aget (curGroup s).r.streams 0).isSome = true
     ∧ holds (streamChecks (bytes false) [0] (based s)) (fun cs s2 => passes (performReads cs false s2)) = true
     ∧ holds (streamChecks (bytes true) [0] (based s)) (fun cs s2 => passes (performWrites cs 1 (fun _ => 7) false s2)) = true
     ∧ aget (curGroup s).r.streams 1 = none
     ∧ aget (curGroup s).r.chans 4 = some 1 ∧ (chanSource s 0 1).isSome = true ∧ (chanAt s 0 1).buf = [] ∧ chanTarget s 0 1 = some 0
     ∧ (chanAt s 0 1).credits < ((chanDecl s 0 1).map (·.slots)).getD 0)
    ∧ (let s := rig [7] (fun r => { r with chans := [(5, 1)] }) (fun k => { k with chans := [(1, { buf := [{ vals := [9], valid := 1 }], credits := 2 })] })
       aget (curGroup s).r.chans 4 = none ∧ aget (curGroup s).r.chans 5 = some 1 ∧ (chanAt s 0 1).buf ≠ []
       ∧ ((chanDecl s 0 1).map (·.slots)).getD 0 ≤ (chanAt s 0 1).credits)
    ∧ execs firm (some ⟨0, 1, false, 0, false⟩) = [] := by decide +kernel

theorem wit_SpawnInstructions :
    (let s := rig [1, 2, 0xF0000080, 0xEF] id id
     issuing s = true ∧ okPair s 120 = true ∧ okPair s 2 = true
     ∧ holds (readSpawn 2 false (based s)) (fun x _ => decide (clKind x.2 ≠ 2)) = true
     ∧ holds (readSpawn 2 false (based (putMem (modTeam s 0 0 (fun t => { t with tasks := [{ ca := 0, own := 2 ^ 29, kind := 0, piece := none, cont := false, call := none }] }))
          0x00EFF0000080 16 (2 ^ 61 + 2 ^ 93)))) (fun x _ => decide (clKind x.2 = 2)) = true)
    ∧ (let s := putMem (rig [1, 2, 0xF0000080, 0xEF] id (fun k => { k with futs := [(0, { st := 1, gen := 1 })] })) 0x00EFF0000080 24 (2 ^ 60 + 2 ^ 93 + 2 ^ 160)
       holds (readSpawn 2 true (based s)) (fun x _ => decide ((clHi x.2).toNat - (clLo x.2).toNat ≠ 0)) = true)
    ∧ firm.cur.lanes ≠ [] ∧ (pairVal (based firm) 2 0).toNat % 128 ≠ 0 := by decide +kernel

/-- v0 and v1 hold the handle of entry 0 of core 0, generation 1. -/
def joining (f : Fut) (k : Core → Core) : State := rig [2 ^ 29, 0, 2 ^ 29 + 2 ^ 13, 0] id (fun c => k { c with futs := [(0, f)] })

theorem wit_FutureInstructions :
    (let s := joining { st := 2, gen := 1, value := 9 } id
     issuing s = true ∧ s.cur.lanes ≠ [] ∧ okPair s 0 = true ∧ okPair s 120 = true ∧ okDst s 5 = true
     ∧ pairVal (based s) 0 0 ≠ 0 ∧ hMalformed (pairVal (based s) 0 0) = false ∧ hHome (pairVal (based s) 0 0) = 0 ∧ (curGroup s).wakes = []
     ∧ (futState s (ctxidOf s (curGroup s)) (pairVal (based s) 0 0)).1 = 1 ∧ hHome (pairVal (based s) 2 0) = 1 ∧ (curGroup s).query = []
     ∧ freeFutIdx (coreAt (based s) 0) = some 1)
    ∧ (let s := joining {} id
       (futState s (ctxidOf s (curGroup s)) (pairVal (based s) 0 0)).1 = 2)
    ∧ (let s := joining { st := 1, gen := 1 } id
       (futState s (ctxidOf s (curGroup s)) (pairVal (based s) 0 0)).1 = 0 ∧ claimable (coreAt (based s) 0) (pairVal (based s) 0 0) = none)
    ∧ (let e : DqEntry := ⟨BitVec.ofNat 50 (0x00EFF0000080 / 128), 0, 0, false, false, 0, 0, 2 ^ 29⟩
       let s := joining { st := 1, gen := 1 } (fun k => { k with deque := [e] })
       claimable (coreAt (based s) 0) (pairVal (based s) 0 0) = some (e, 0) ∧ passes (loadOne 128 0 (caOf e.cline) false (based s)) = true
       ∧ dqBusy (based s) 0 4 = false
       ∧ dqBusy (based (joining { st := 1, gen := 1 } (fun k => { k with deque := [e], dqAt := [(4, 0)] }))) 0 4 = true)
    ∧ hMalformed 0 = true := by decide +kernel

/-- A table whose entries are all taken has no free one. -/
theorem freeFutFrom_taken (k : Core) (fresh : Bool) (n : Nat) : ∀ i, (∀ j, i ≤ j → j < i + n → ∃ f, aget k.futs j = some f ∧ f.st ≠ 0) →
    freeFutFrom k fresh n i = none := by
  induction n with
  | zero => exact fun i _ => rfl
  | succ n ih =>
    intro i h
    obtain ⟨f, hf, hs⟩ := h i (Nat.le_refl i) (by omega)
    simp only [freeFutFrom, hf, hs, decide_false, Bool.false_and, Bool.false_eq_true, if_false]
    exact ih (i + 1) (fun j hj hk => h j (by omega) (by omega))

theorem aget_tabled {α : Type} (v : α) (j : Nat) : ∀ l : List Nat, j ∈ l → aget (l.map (fun i => (i, v))) j = some v
  | [], h => by cases h
  | i :: l, h => by
    by_cases e : j = i
    · simp [aget, e]
    · have : j ∈ l := by simpa [e] using h
      simp [aget, e, aget_tabled v j l this]

/-- A core with `n` open futures. -/
def taken (n : Nat) : Core := { futs := (List.range n).map (fun i => (i, { st := 1 })) }

theorem freeFutFrom_full (n : Nat) (fresh : Bool) : freeFutFrom (taken n) fresh n 0 = none :=
  freeFutFrom_taken _ fresh n 0 (fun j _ hj => ⟨{ st := 1 }, aget_tabled _ j _ (List.mem_range.mpr (by omega)), by decide⟩)

theorem wit_FutureInstructions_full : ∃ k, freeFutIdx k = none := by
  obtain ⟨n, hn⟩ : ∃ n, n = 8192 := ⟨_, rfl⟩
  refine ⟨taken n, ?_⟩
  simp only [freeFutIdx, ← hn, freeFutFrom_full, Option.or_none]

theorem wit_TaskEndAndItems : issuing firm = true ∧ okPair firm 2 = true ∧ firm.cur.lanes ≠ []
    ∧ ((teamAt firm 0 (curGroup firm).team).tasks.head?).bind (·.piece) = none
    ∧ (let task : Task := { ca := 0, own := 0, kind := 1, piece := some 0, cont := false, call := none }
       let s := putMem (rig [] id (fun k => { k with teams := [(0, { tasks := [task] })] })) (128 * cursorLine 0 0) 8 (3 + 2 ^ 32 * 4)
       (((teamAt s 0 0).tasks.head?).bind (·.piece)) = some 0 ∧ (∀ t ∈ s.cur.lanes, t < 32) ∧ s.cur.lanes.Nodup
       ∧ seenNat (based s) ((List.range 4).map (128 * cursorLine 0 0 + 0 + ·)) = 3 ∧ seenNat (based s) ((List.range 4).map (128 * cursorLine 0 0 + 4 + ·)) = 4
       ∧ (curGroup s).open_.slots = 0 ∧ heldRead (based s) (0, 0) (cursorLine 0 0) = false ∧ (coreAt (based s) 0).fills.length < 2048
       ∧ setFull (coreAt (based s) 0) [cursorLine 0 0] [] (cursorLine 0 0 % 256) = false ∧ gateLive (based s) true [cursorLine 0 0] = none) := by decide +kernel

/-- Registers for the matrix instructions: v0 = 1, v1 = 0x80 (a name mask, tile 7), v2 = one row at row 95, v3 = an address of the core's own scratch,
v4 = 7, v5 = 0; tile name 7 is held; k0 holds an MMA word on tile 7 and k2, k3 and k4, k5 its images. -/
def matrix (team : Team → Team) (k : Core → Core) : State :=
  rig [1, 0x80, 0x15F, 0xF0000000, 7, 0]
    (fun r => { r with k := [(0, 7), (2, 0xF0000000), (3, 4 + 256 * 60), (4, 0xF0002000), (5, 4 + 256 * 80)] })
    (fun c => k { c with teams := [(0, team { tiles := [(7, 2)] })], tilesUsed := 4 })

theorem wit_MatrixInstructions :
    (let s := matrix id id
     issuing s = true ∧ s.cur.lanes ≠ [] ∧ okDst s 6 = true ∧ okSrc s 0 = true ∧ (∀ r ∈ (coreAt s 0).accQ, (r.slot == 0 && r.pc == home) = false)
     ∧ (lowVal (based s) 0) ≠ 0 ∧ (lowVal (based s) 4).toNat + popBits (heldNames (based s) 0 0) ≤ 8 ∧ (lowVal (based s) 5) = 0
     ∧ (lowVal (based s) 1).toNat < 256 ∧ (lowVal (based s) 1).setWidth 8 &&& ~~~(heldNames (based s) 0 0) = 0 ∧ opRoom (based s) false = true
     ∧ (lowVal (based s) 0).setWidth 8 &&& ~~~(heldNames (based s) 0 0) ≠ 0 ∧ 256 ≤ (lowVal (based s) 2).toNat
     ∧ (let rows : Dword := lowVal (based s) 2 ++ lowVal (based s) 3
        (lowVal (based s) 4).toNat < 8 ∧ (lowVal (based s) 2).toNat < 2 ^ 16 ∧ (lowVal (based s) 3).toNat % 128 = 0
        ∧ (heldNames (based s) 0 0).getLsbD 7 = true ∧ rowCount rows ≠ 0 ∧ rowFirst rows + rowCount rows ≤ 96
        ∧ scrBadLine (based s) 0 (lowVal (based s) 3) (512 * rowCount rows) = none ∧ opRoom (based s) false = true
        ∧ scrBadLine (based s) 0 0xF0040000 (512 * rowCount rows) = some 0xF0040000 ∧ 8 ≤ (lowVal (based s) 1).toNat
        ∧ 2 ^ 16 ≤ (lowVal (based s) 3).toNat)
     ∧ holds (checkScratch false 32 [0] (fun _ => lowVal (based s) 3) (based s)) (fun cs s2 => holds (performReads cs false s2) (fun v s3 =>
          (List.range 16).all (fun e => bookOk (v 0 / 2 ^ (16 * e) % 2 ^ 16)) && opRoom s3 false)) = true
     ∧ bookOk 1 = false
     ∧ (let w := lowVal (based s) 96
        let oa := pairVal (based s) 98 0
        let ob := pairVal (based s) 100 0
        isK 96 = true ∧ mmaWordOk w = true ∧ mmaSeq w = (curGroup s).r.seq ∧ imgOk oa (mmaLayA w) 96 = true ∧ imgOk ob (mmaLayB w) 128 = true
        ∧ (imgBase oa).toNat % 128 = 0 ∧ (imgBase ob).toNat % 128 = 0 ∧ (heldNames (based s) 0 0).getLsbD (mmaAcc w) = true
        ∧ slabsBad (based s) 0 (mmaLayA w) 96 oa (mmaNstep w) = none ∧ slabsBad (based s) 0 (mmaLayB w) 128 ob (mmaNstep w) = none
        ∧ opRoom (based s) true = true)
     ∧ mmaWordOk 0xFFFFFFFF = false
     ∧ (chunkOps (curGroup (based s)).open_).length ≤ (lowVal (based s) 0).toNat ∧ (teamAt s 0 0).efault = none
     ∧ epiOk (lowVal (based s) 4) = true ∧ chunksName [(curGroup (based s)).open_] 7 = false ∧ (∀ o ∈ (coreAt s 0).ops, 2 ∉ o.phys)
     ∧ chunksName (curGroup s).done 7 = false ∧ epiBusy (based s) (curGroup (based s)) home 7 2 = false
     ∧ (∀ t ∈ s.cur.lanes, (srcVal (based s) 5 t).toNat % 256 < 96 ∧ (srcVal (based s) 5 t).toNat / 256 % 256 < 128)
     ∧ 96 ≤ (srcVal (based s) 1 0).toNat % 256)
    ∧ (let asks := fun (w : Option Word) => (coreAt (matrix id (fun k => { k with accQ := [{ slot := 0, team := 0, n := 1, at_ := 0, pc := home, granted := w }] })) 0).accQ.find?
         (fun r => r.slot == 0 && r.pc == home)
       (asks (some 0x100)).bind (·.granted) = some 0x100 ∧ (asks (some 1)).bind (·.granted) = some 1 ∧ (asks none).map (·.granted) = some none)
    ∧ (let o : EngOp := { core := 0, team := 1, gi := 0, kind := 0, word := 0, opA := 0, opB := 0, bytes := [], arrived := [0], next := 0, order := 4
                          waitSince := 0, differ := false, phys := [2] }
       let s := matrix id (fun k => { k with ops := [o], opOrder := 5 })
       epiBusy (based s) (curGroup (based s)) home 7 2 = true)
    ∧ (0x100 : Word).getLsbD 8 = true ∧ (1 : Word).getLsbD 8 = false := by decide +kernel

/-- v0 = 1; the group holds an arrival record at barrier 15 whose result is released. -/
def barred : State :=
  let s := rig [1] (fun r => { r with chans := [(4, 1)] }) id
  modCur s (fun g => { g with recs := [(15, { gen := 0, res := some 5, addr := 0, acked := true })] })

theorem wit_BarrierInstructions : issuing barred = true ∧ okSrc barred 0 = true ∧ okDst barred 111 = true ∧ selId 16 ≤ 16 ∧ selId 15 ≤ 16
    ∧ mayArrive (based barred) 16 = true ∧ mayArrive (based barred) 0 = true
    ∧ (let s := modCur { barred with grids := [(3, { pasid := 0, gang := true })] } (fun g => { g with grid := some 3, r := { g.r with acnt := [(17, 1)] } })
       selId 96 = 0 ∧ mayArrive (based s) 17 = true)
    ∧ selOp 15 = 0 ∧ (aget (curGroup barred).recs 15).isSome = true ∧ aget (curGroup barred).recs 0 = none
    ∧ arrivalHeld (curGroup (based barred)) 0 = false
    ∧ (((aget (curGroup barred).recs 15).bind (·.res)) = some 5 ∧ barred.cur.lanes ≠ [] ∧ aget (curGroup barred).r.chans 4 = some 1
      ∧ chanTarget barred 0 1 = some 0 ∧ (chanAt barred 0 1).credits < ((chanDecl barred 0 1).map (·.slots)).getD 0)
    ∧ 16 < selId 17 ∧ selOp 0x7F ≠ 0 := by decide +kernel

/-- v0 names group id 15, v1 asks to open it for member 0, v2 holds an offset into the own scratch, v3 names ISSUE of core 0, v4 ACNT0, v5 MATLIM's
number, v6 no counter. -/
def counting (open_ : Nat) : State :=
  putMem (rig [15, 0x10F, 0xF0000000, 2, 0, 2 + 18 * 2 ^ 13, 0xFFFFFFFF] id id) (128 * mcstLine 0 15) 4 open_

theorem wit_MulticastAndCounters :
    (let s := counting 0
     issuing s = true ∧ s.cur.lanes ≠ [] ∧ (∀ c ∈ [(0 : Code), 1, 2, 3, 4, 5, 6], okSrc s c = true) ∧ okDst s 7 = true
     ∧ (let x := lowVal (based s) 1
        x.toNat < 2 ^ 20 ∧ x.toNat / 16 % 4 ≤ 1 ∧ x.toNat / 2 ^ 6 % 4 = 0 ∧ x.toNat / 2 ^ 8 % 2 ^ 12 ≠ 0 ∧ x.toNat / 2 ^ 8 % 2 ^ 12 < 2 ^ 1)
     ∧ holds (readId 15 (based s)) (fun w s2 => !mcstOpen w && passes (writeId 15 (mcstWord 0 0 1) s2)) = true
     ∧ counterNamed (lowVal (based s) 3) = true ∧ counterReads 0 (lowVal (based s) 3) = true ∧ (curGroup s).fmode = true
     ∧ counterNamed (lowVal (based s) 6) = false ∧ counterNamed (lowVal (based s) 4) = true ∧ cnClass (lowVal (based s) 4) = 0
     ∧ cnHalf (lowVal (based s) 4) = false ∧ counterNamed (lowVal (based s) 5) = true ∧ cnClass (lowVal (based s) 5) ≠ 0
     ∧ counterReads 1 (lowVal (based s) 3) = false)
    ∧ (let s := counting 0x00101000
       holds (readId 15 (based s)) (fun w s2 => mcstOpen w && (mcstMem w).getLsbD (coreAt s2 0).cidx && passes (writeId 15 0 s2)) = true
       ∧ (lowVal (based s) 0).toNat < 16 ∧ (lowVal (based s) 2).toNat % 2 ^ 28 % 128 = 0 ∧ (lowVal (based s) 2).toNat / 2 ^ 28 = 15
       ∧ (lowVal (based s) 2).toNat % 2 ^ 28 + 128 ≤ (coreAt s 0).psize * 32768 ∧ stashGlobal (coreAt s 0) 0 = none)
    ∧ (let s := { counting 0 with clusters := [(0, { grid := 3, members := [0], bar := {}, flight := [(15, 1)] })] }
       ((aget s.clusters 0).map (fun k => sget 0 k.flight 15)) = some 1)
    ∧ 16 ≤ (lowVal (based (counting 0)) 1).toNat ∧ (curGroup plain).fmode = false := by decide +kernel


/-! ### Witnesses: the steps of the task units, the commit protocol and the reductions -/

/-- A task entry, a firmware-region closure line staged for it, and a grid of PASID 0 bound to core 0 and to core 64 of the next die. -/
def entry : DqEntry := { cline := 0x00EFF0000080 / 128, shape := 0, kind := 0, stg := false, clm := false, lo := 0, hi := 0, result := 0 }
def stagedTask : Staged := { e := entry, cl := List.replicate 16 0, held := [], deadline := 9, bad := false, asked := true }
def pool (k : Core → Core) : State :=
  putMem {
    cores := [(0, k { grid := some 3, psize := 8, steal := { victims := 6 } }), (1, k { grid := some 3, psize := 8 }), (64, k { grid := some 3 })]
    grids := [(3, { pasid := 0, lthresh := 2 })] } 0x00EFF00000A8 8 (0x00EFF0000100 / 128 * 2 ^ 14 + 2)

theorem wit_PopsStagingAndStarts :
    (let s := pool (fun k => { k with deque := [entry] })
     let k := coreAt s 0
     k.pushQ = [] ∧ k.poolReady = [] ∧ (freeTeam s 0).isSome = true ∧ dqBusy s 0 3 = false ∧ k.staged = [] ∧ k.pieces.any (fun p => p.2.kept) = false ∧ k.deque = [] ++ [entry]
     ∧ entry.clm = false ∧ (coreGrid s 0).isSome = true ∧ entry.stg = false
     ∧ ((entryLines s 0 0 entry).1.getD []).any (missing k) = true
     ∧ (let s := pool (fun k => { k with deque := [entry], l1 := ((entryLines s 0 0 entry).1.getD []).map (fun l => { line := l, dirty := false, pin := false }) })
        ((entryLines s 0 0 entry).1.getD []).any (missing (coreAt s 0)) = false))
    ∧ (let s := pool id
       let k := coreAt s 0
       (freeTeam s 0).isSome = true ∧ k.deque = [] ∧ k.steal.out = false ∧ timerSet s (.stealTry 0) = false)
    ∧ dqBusy (pool (fun k => { k with dqAt := [(3, 0)] })) 0 3 = true ∧ freeTeam (pool (fun k => { k with stopReq := true })) 0 = none
    ∧ (let s := pool (fun k => { k with staged := [stagedTask] })
       startKept s 0 = none ∧ (coreAt s 0).staged = [stagedTask] ∧ stagedTask.bad = false ∧ stagedTask.cl ≠ [] ∧ (coreGrid s 0).isSome = true
       ∧ freeTeam s 0 = some 0 ∧ stagedTask.deadline ≠ 0 ∧ stagedTask.asked = true ∧ stagedTask.e.kind ≠ 1)
    ∧ (∃ y ∈ [{ stagedTask with deadline := 9, held := [5] }], y.e.cline.toNat = 0x00EFF0000080 / 128 ∧ y.deadline ≠ 0 ∧ y.deadline ≤ 9)
    ∧ 5 ∉ (coreAt (pool id) 0).fills ∧ 5 ∈ (coreAt (pool (fun k => { k with fills := [5] })) 0).fills
    ∧ (let k := coreAt (pool (fun k => { k with fills := [5] })) 0
       (List.range (l1Ways k)).any (fun w => k.l1.all (fun y => y.line % 256 != 5 % 256 || y.way != w)) = true)
    ∧ missing (coreAt (pool (fun k => { k with fills := [5], l1 := [{ line := 5, dirty := false, pin := false }] })) 0) 5 = false := by decide +kernel

/-- A piece on core 0 with 64 items left in its cursor, and one with 63. -/
def split (n : Nat) : State :=
  let s := pool (fun k => { k with pieces := [(0, { ca := 0, result := 0, grid := 3, groups := 1, kept := false })] })
  putMem s (128 * cursorLine 0 0) 8 (10 + 2 ^ 32 * (10 + n))

theorem wit_StealingSteps :
    (let s := pool id
     stealIdle s 0 = true ∧ admits s (ctrKey 1 0 17) = true ∧ pickVictim s 0 (mayCross s 0) 4 0 0 = some (0, 1, 1) ∧ splitPiece s 0 = none)
    ∧ stealIdle (pool (fun k => { k with deque := [entry] })) 0 = false
    ∧ (1, 7) ∉ (coreAt (pool id) 0).reqQ ∧ (1, 7) ∈ (coreAt (pool (fun k => { k with reqQ := [(1, 7)] })) 0).reqQ
    ∧ dqBusy (pool id) 0 5 = false ∧ dqBusy (pool (fun k => { k with dqAt := [(5, 0)] })) 0 5 = true
    ∧ (coreAt (pool id) 0).grid = (coreAt (pool id) 1).grid ∧ (let s := modCore (pool id) 0 (fun k => { k with grid := some 4 }); (coreAt s 0).grid ≠ (coreAt s 1).grid)
    ∧ (coreAt (pool (fun k => { k with steal := { out := true } })) 0).steal.out = true
    ∧ (let s := pool (fun k => { k with deque := [entry] })
       (coreAt s 0).poolReady = [] ∧ (coreAt s 0).deque = entry :: [] ∧ entry.clm = false
       ∧ (coreAt s 0).deque.length < ((coreGrid s 0).map (fun g => g.2.lthresh)).getD 0)
    ∧ (let s := pool (fun k => { k with deque := [entry, entry] })
       ((coreGrid s 0).map (fun g => g.2.lthresh)).getD 0 ≤ (coreAt s 0).deque.length)
    ∧ (let s := split 64
       (coreAt s 0).deque = [] ∧ splitPiece (modCore s 0 (fun k => { k with reqQ := k.reqQ.erase (1, 7) })) 0 = some 0 ∧ (aget (coreAt s 0).pieces 0).isSome = true
       ∧ 64 ≤ (cursorAt s 0 0).2.toNat - (cursorAt s 0 0).1.toNat ∧ heldByGrant s (sigOf [cursorLine 0 0]) = false
       ∧ heldByLive s (sigOf [cursorLine 0 0]) none = false)
    ∧ (let s := { split 64 with dies := [(0, { granted := [{ k := ⟨0, 0, 1⟩, w := sigOf [cursorLine 0 0], pri := false }] })] }
       heldByGrant s (sigOf [cursorLine 0 0]) = true)
    ∧ (let s := split 63
       (cursorAt s 0 0).2.toNat - (cursorAt s 0 0).1.toNat < 64) := by decide +kernel

/-- Future 7 of core 0, generation 2, in the pool's context. -/
def fut (f : Fut) : State := pool (fun k => { k with futs := [(7, f)] })
def hand : Dword := 7 + 2 * 2 ^ 29

theorem wit_FutureGraphAndChannelSteps :
    hHome hand = 0 ∧ hIndex hand = 7
    ∧ futLive (futAt (fut { st := 1, gen := 2 }) 0 7) 0 hand = true ∧ (futAt (fut { st := 1, gen := 2 }) 0 7).waiters = []
    ∧ (futAt (fut { st := 1, gen := 2, waiters := [(false, ⟨1, false, 9⟩)] }) 0 7).waiters = [(false, ⟨1, false, 9⟩)]
    ∧ (futAt (fut { st := 1, gen := 2, waiters := [(true, ⟨1, false, 9⟩)] }) 0 7).waiters = [(true, ⟨1, false, 9⟩)]
    ∧ futLive (futAt (fut { st := 1, gen := 3 }) 0 7) 0 hand = false ∧ (futAt (fut { st := 2, gen := 2 }) 0 7).st ≠ 1
    ∧ (let s := fut { st := 1, gen := 2 }
       (futState s (nodeCtx s ⟨0, false, 4095⟩) hand).1 = 0 ∧ waitersUsed (coreAt s 0) < 4096)
    ∧ 4096 ≤ waitersUsed (coreAt (fut { st := 1, gen := 2, waiters := List.replicate 4096 (false, ⟨1, false, 9⟩) }) 0)
    ∧ (let s := fut { st := 2, gen := 2 }
       (futState s (nodeCtx s ⟨0, false, 0⟩) hand).1 ≠ 0)
    ∧ (let p : PNode := { e := entry, count := 2, deps := [], grid := 3 }
       let s := pool (fun k => { k with pool := [(4, p), (5, { p with count := 1 })] })
       aget (coreAt s 0).pool 4 = some p ∧ p.count ≠ 1 ∧ aget (coreAt s 0).pool 5 = some { p with count := 1 } ∧ (coreAt s 0).poolReady = []
       ∧ dequeRoom (coreAt s 0) = true ∧ dqBusy s 0 2 = false)
    ∧ (let g : Group := { (vgroup []) with r := { thr := [(2, .join hand 4)] } }
       let s := pool (fun k => { k with groups := [(0, g)], futs := [(7, { st := 1, gen := 2 })] })
       groupAt s 0 0 = some g ∧ (futState s (ctxidOf s g) hand).1 = 0 ∧ (true, (⟨0, false, 0⟩ : NodeRef)) ∉ (futAt s 0 7).waiters
       ∧ joiners g.r hand = [(2, 4)] ∧ waitersUsed (coreAt s 0) < 4096 ∧ (0 : Nat) < 64
       ∧ (futState (pool (fun k => { k with groups := [(0, g)] })) (ctxidOf s g) hand).1 = 2
       ∧ (let s := pool (fun k => { k with groups := [(0, g)], futs := [(7, { st := 2, gen := 2 })] })
          (futState s (ctxidOf s g) hand).1 = 1 ∧ (futAt s 0 7).gen = hGen hand ∧ (futAt s 0 7).st = 2))
    ∧ (let s := fut { st := 1, gen := 2, rng := true, items := 5 }
       futLive (futAt s 0 7) (nodeCtx s ⟨0, false, 0⟩) hand = true ∧ (futAt s 0 7).rng = true ∧ 4 < (futAt s 0 7).items.toNat)
    ∧ (futAt (fut { st := 1, gen := 2, rng := true, items := 5 }) 0 7).items.toNat ≤ 5 ∧ 64 ≤ pollSlot ⟨0, false, 0⟩
    ∧ aget (coreAt (pool (fun k => { k with chans := [(1, {})] })) 0).chans 1 = some {} := by decide +kernel

/-- Group 0 of core 0 with an ended chunk that wrote line 1, and what else concerns it. -/
def ended (k : Chunk) (d : Die) : State :=
  { cores := [(0, { groups := [(0, { done := [k] })] })], dies := [(0, d), (1, {})] }
def wrote : Chunk := { num := 1, wsig := sigOf [1], glines := [1], wr := [(128, some 1)], phase := 1, toGrant := [0, 1] }
def request : GrantRec := { k := ⟨0, 0, 1⟩, w := sigOf [1], pri := false }

theorem wit_CommitProtocolSteps :
    doneChunk {} ⟨0, 0, 1⟩ = none ∧ doneChunk (ended wrote {}) ⟨0, 0, 1⟩ = some wrote
    ∧ mayGrant (ended wrote {}) 0 request = true ∧ mayGrant (ended wrote { granted := [{ request with k := ⟨1, 0, 1⟩ }] }) 0 request = false
    ∧ wrote.phase = 1 ∧ wrote.toGrant = 0 :: 1 :: []
    ∧ doneChunk (ended { wrote with toGrant := [0] } {}) ⟨0, 0, 1⟩ = some { wrote with toGrant := [0] } ∧ (1 : Nat) ≠ 0
    ∧ (let key := 4096 * homeSlice 1 + 4 * 0 + 3
       let count := fun (s : State) => (aget (dieAt s (homeSlice 1 / 64)).phases key).getD (0, none)
       (count (ended wrote { phases := [(key, 0, some 1)] })).2 = some ((count (ended wrote { phases := [(key, 0, some 1)] })).1 + 1)
       ∧ (count (ended wrote {})).2 ≠ some ((count (ended wrote {})).1 + 1) ∧ (count (ended wrote {})).1 ≠ 1
       ∧ (count (ended wrote { phases := [(key, 1, none)] })).1 = 1)
    ∧ (let s := ended { wrote with phase := 2, acks := 1 } {}
       (groupAt s 0 0).map (·.done) = some [{ wrote with phase := 2, acks := 1 }] ∧ wrote.num = 1)
    ∧ (dieAt (ended wrote {}) 0).waiting = [] ∧ (dieAt (ended wrote { waiting := [request] }) 0).waiting = [request]
    ∧ inHbm 252 = true ∧ ({} : State).mmio.qtbase = 0 ∧ 252 % 128 + [1, 2, 3, 4].length ≤ 128
    ∧ extFirsts {} 0 0 = []
    ∧ (let w : ExtWrite := { core := 0, slot := 0, uid := 0, bytes := [(0x8000000000000, 1)] }
       extFirsts { ({} : State) with extPend := [w] } 0 0 = [(0, w)]) := by decide +kernel

theorem wit_ReductionSteps :
    let r : Red := { op := .addF, pa := 128, v := 1, scope := 0, core := 0, slot := 0 }
    r ∉ (({} : State).reds) ∧ r ∈ ({ ({} : State) with reds := [r] }).reds
    ∧ redBehind { ({} : State) with reds := [r] } r = false ∧ redBehind { ({} : State) with reds := [{ r with id := 0 }, { r with id := 1 }] } { r with id := 1 } = true
    ∧ tracked (homePa r.pa) = true ∧ tracked (homePa 0x8000000000000) = false ∧ beyond r.pa = false ∧ beyond 0x8000000000000 = true
    ∧ 5 ≤ ({ r with scope := 5 }).scope ∧ ({ r with scope := 4 }).scope = 4
    ∧ writeHeld { ({} : State) with reds := [r] } [r.pa / 128] = false
    ∧ writeHeld { ended wrote { granted := [request] } with reds := [r] } [r.pa / 128] = true
    ∧ isPoisoned (readLine {} (r.pa / 128)) (r.pa / 128) = false
    ∧ isPoisoned { ({} : State) with poison := [1] } (r.pa / 128) = true := by decide +kernel

/-! ### Witnesses: halts, margins, barriers, the matrix engine, copies -/

/-- Group 0 of core 0 alone, with what else its core holds. -/
def alone (g : Group) (k : Core → Core) : State := { cores := [(0, k { groups := [(0, g)], teams := [(0, {
  tasks := [{ ca := 0, own := 0, kind := 0, piece := none, cont := false, call := none }] })] })] }

theorem wit_HaltMarginAndSleepSteps :
    (let s := alone {} id
     groupAt s 0 0 = some {} ∧ (({} : Group).stop = none ∧ ({} : Group).haltLeft = none)
     ∧ ({ ({} : Group) with stop := some { kind := 0, skid := 0 } }).stop.isSome = true
     ∧ ({ ({} : Group) with haltLeft := some (1, 0) }).haltLeft.isSome = true
     ∧ ({} : Group).replay = none ∧ ({ ({} : Group) with replay := some ([0], 0) }).replay.isSome = true
     ∧ (({ ({} : Group) with replay := some ([0], 4) }).replay.map (fun (x : List Nat × PC) => x.2)).getD 0 ≠ 0
     ∧ groupReady { s with free := s.free + 1 } 0 0 {} = true ∧ groupReady s 0 0 {} = true
     ∧ (freeLanes s {}).filter (fun t => sget 0 ({} : Group).r.pc t == 0) ≠ [] ∧ (freeLanes s {}).filter (fun t => sget 0 ({} : Group).r.pc t == 4) = [])
    ∧ (let g : Group := { r := { thr := (List.range 32).map (fun t => (t, .addr)) } }
       groupReady { alone g id with free := 1 } 0 0 g = false)
    ∧ (let e := Instr.marginWindowEnd 0
       timerSet { alone {} id with timers := [(9, e)] } e = true ∧ timerSet (alone {} id) e = false ∧ timerSet (alone {} id) (.marginSettle 0) = false
       ∧ (coreAt (alone {} id) 0).role = 0)
    ∧ (let m : Margin := { repwin := 65, voff := 7 }
       m.lim < m.repwin ∧ m.aup = true ∧ m.voff < 8)
    ∧ (let m : Margin := { repwin := 65, voff := 8, topcnt := 1 }
       8 ≤ m.voff ∧ (m.qthr = 0 ∨ min 15 (m.topcnt + 1) < m.qthr))
    ∧ (let m : Margin := { repwin := 0, cleanRun := 15, adn := true, voff := 1 }
       m.repwin ≤ m.lim ∧ m.clean ≤ m.cleanRun + 1 ∧ m.vfloor < m.voff)
    ∧ (let m : Margin := { repwin := 64 }
       m.repwin ≤ m.lim ∧ (0 < m.clean ∨ m.adn = false ∨ m.voff ≤ m.vfloor))
    ∧ (let w : Watch := { lanes := [0], line := 5, deadline := 9, bytes := List.replicate 128 0, hit := false }
       watchOver {} w = false ∧ watchOver { ({} : State) with clk := 9 } w = true ∧ w.lanes ≠ []
       ∧ polled {} (0x8000000000000 / 128) = true ∧ watchOver {} { w with line := 0x8000000000000 / 128 } = false)
    ∧ ({ ({} : Group) with grpWait := some (9, 4, [0]) }).grpWait = some (9, 4, [0]) := by decide +kernel

/-- Two groups of cluster 0 whose barrier stands so, each with an arrival record. -/
def meeting (x : BarObj) : State :=
  let g : Group := { recs := [(16, { gen := 0, res := none, addr := 0, acked := false })] }
  { cores := [(0, { groups := [(0, g)] }), (1, { groups := [(0, g)], psize := 1 })]
    clusters := [(0, { grid := 3, members := [0, 1], bar := x, flight := [(2, 1)] })] }

theorem wit_BarrierMulticastAndCallSteps :
    (let v : Arrival := { core := 1, slot := 0, count := 2, op := 2, part := 5, addr := 0 }
     let one : BarObj := { open_ := true, fixed := true, n := 2, op := 2, arrived := [(0, 0)], part := 4 }
     let rec_ := fun (s : State) (v : Arrival) => (groupAt s v.core v.slot).bind (fun g => aget g.recs 16)
     (rec_ (meeting {}) v).isSome = true ∧ rec_ (meeting {}) { v with slot := 1 } = none ∧ barObj (meeting {}) (.cluster 0) = {}
     ∧ barObj (meeting one) (.cluster 0) = one ∧ v.count = one.n ∧ v.op = one.op ∧ ({ v with count := 3 }).count ≠ one.n
     ∧ barFull one = false ∧ barFull { one with arrived := [(0, 0), (1, 0)] } = true
     ∧ barBusy (meeting {}) (.cluster 0) { one with arrived := [(0, 0), (1, 0)], pending := 1 } = true
     ∧ barBusy (meeting {}) (.cluster 0) { one with arrived := [(0, 0), (1, 0)] } = false
     ∧ (meeting {}).timers.any (fun t => decide (t.2 = .barrierRelease (.cluster 0))) = false)
    ∧ (aget (meeting {}).clusters 0).isSome = true ∧ (List.replicate 128 (0 : Byte)).length = 128
    ∧ (let g : Group := { f := { ctxsel := 256 } }
       let h : Group := { r := { thr := [(0, .sysc)] } }
       let s : State := { cores := [(0, { groups := [(0, g), (1, h)] })] }
       groupAt s 0 0 = some g ∧ groupAt s (g.f.ctxsel.toNat % 256) (g.f.ctxsel.toNat / 256 % 64) = some h ∧ h.done = []
       ∧ lanesWhere h.r (· == .sysc) = [0] ∧ lanesWhere ({} : Group).r (· == .sysc) = []
       ∧ groupAt { s with cores := [(0, { groups := [(0, g)] })] } (g.f.ctxsel.toNat % 256) (g.f.ctxsel.toNat / 256 % 64) = none) := by decide +kernel

theorem wit_MatrixEngineSteps :
    (let r : AccReq := { slot := 0, team := 0, n := 1, at_ := 0 }
     let s := alone {} (fun k => { k with accQ := [r] })
     (coreAt s 0).accQ.find? (fun r => r.granted.isNone) = some r ∧ r.n ≤ (freeTiles (coreAt s 0)).length
     ∧ r.n + (teamAt s 0 r.team).tiles.length ≤ 8
     ∧ (coreAt (alone {} id) 0).accQ.find? (fun r => r.granted.isNone) = none
     ∧ (let k : Core := { accQ := [r], tilesUsed := 255 }
        (freeTiles k).length < r.n ∧ accVictim k = none))
    ∧ (let o : EngOp := { core := 0, team := 0, gi := 0, kind := 0, word := 0, opA := 0, opB := 0, bytes := [], arrived := [0], next := 0, order := 4
                          waitSince := 0, differ := false, phys := [1] }
       let s := fun (o : EngOp) => alone {} (fun k => { k with ops := [o], psize := 8 })
       (coreAt (s o) 0).ops.find? (fun o => o.order == 4 && o.kind != 3) = some o
       ∧ (coreAt (s o) 0).ops.find? (fun o => o.order == 5 && o.kind != 3) = none ∧ o.core = 0 ∧ o.phys.headD 0 = 1
       ∧ (coreAt (s o) 0).engineHalt = false ∧ opReady (s o) o = true
       ∧ (∀ n < 6, n ≠ 3 → opReady (s { o with kind := n }) { o with kind := n } = true)
       ∧ scrTarget (s o) 0 (imgBase 0) = some (0, 0) ∧ (teamAt (s o) 0 o.team).tasks ≠ []
       ∧ (let o := { o with kind := 3 }
          let s := alone {} (fun k => { k with ops := [o], engineStep := some 4 })
          (coreAt s 0).engineStep.bind (fun i => (coreAt s 0).ops.find? (fun o => o.order == i)) = some o ∧ o.phys = [1]
          ∧ timerSet s (.mmaStepEnd 0 3) = false ∧ (coreAt s 0).role ≠ 1)
       ∧ (let q := { o with kind := 5, phys := [1, 2], order := 5 }
          freeableTiles (s q) q = [1, 2] ∧ freeableTiles (alone {} (fun k => { k with ops := [o, q] })) q = [2]
          ∧ opReady (alone {} (fun k => { k with ops := [o, q] })) q = true)) := by decide +kernel

/-- A copy of two bytes between two places of the firmware region, by PASID 0, for a packet. -/
def moving : Copy := {
  core := 0, slot := 0, lane := 0, batch := 0, uid := 0, desc := [0x00EFF0000080, 0x00EFF0000100, 0, 1], st := 1, count := 0, pos := 0, die := 0
  engine := 0, pasid := 0, grid := none, pkt := some (1, 0), fault := none, endOrder := 0 }

theorem wit_CopyDecantAndBudgetSteps :
    ({} : State).fw.dumping = none ∧ ctxParked {} 0 = true ∧ ctxParked { ctxs := [(0, { pasid := 0 })] } 0 = false ∧ ({ moving with pkt := none }).pkt = none
    ∧ (let s : State := { copies := [(2, { moving with st := 0 })] }
     aget s.copies 2 = some { moving with st := 0 } ∧ ({ moving with st := 0 }).count = 0 ∧ moving.pkt.isSome = true ∧ freeEngine s 0 = some 0
     ∧ ({ moving with count := 1 }).count ≠ 0
     ∧ freeEngine { s with copies := (List.range 6).map (fun e => (e, { moving with engine := e })), ctxs := [(0, { pasid := 0 })] } 0 = none)
    ∧ (let s : State := { copies := [(2, moving)] }
       admits s (ctrKey 2 0 6) = true ∧ admits { s with ctr := [(ctrKey 2 0 6, some 262144)] } (ctrKey 2 0 6) = false
       ∧ (let r := copyRun moving (copyTotal moving - moving.pos) { s := s, pos := 0, scale := moving.scale, lines := [], out := [], err := none }
          let ls := (linesOf r.out).filter (fun l => tracked (128 * l))
          writeHeld s ls = false ∧ r.err = none ∧ r.out ≠ []
          ∧ writeHeld { s with dies := [(0, { granted := [{ request with w := sigOf ls }] })] } ls = true)
       ∧ (let x := { moving with desc := [0x010000000000, 0x00EFF0000100, 0, 1] }
          ((copyRun x (copyTotal x) { s := s, pos := 0, scale := x.scale, lines := [], out := [], err := none }).err).isSome = true)
       ∧ (copyTotal moving ≤ 2 ^ 20 ∧ ({ moving with pos := copyTotal moving, pkt := none }).pkt = none)
       ∧ cpyKind moving.desc = 0 ∧ cpyOp moving.desc = 0)
    ∧ (let s : State := { readWin := [(1, (List.range 64).map (· % 4))] }
       inHbm 128 = true ∧ helperOk 1 64 = true ∧ s.replicas = [] ∧ s.net.any (decantMsg 1) = false ∧ hotLine s 1 = true ∧ 1 ∉ s.wroteWin ∧ 1 ∈ ({ s with wroteWin := [1] }).wroteWin
       ∧ hotLine { s with readWin := [(1, (List.range 63).map (· % 4))] } 1 = false ∧ admits s (ctrKey 2 (homeDie 1) 9) = true)
    ∧ (1, 64) ∉ ({} : State).replicas ∧ (1, 64) ∈ ({ ({} : State) with replicas := [(1, 64)] }).replicas
    ∧ timerSet {} (.budgetPeriod 0) = false ∧ ({} : State).mmio.logWait = [] := by decide +kernel

/-! ### Witnesses: the stacks and racking -/

/-- Stack 0 in this state, and nothing else. -/
def stacked (k : Stack) : State := { hbm := [(0, k)] }

theorem wit_StackAndParitySteps :
    dataStack 15 = 0 ∧ stripeOf 15 = 1 ∧ inHbm (128 * 15) = true
    ∧ moveHolds (stackAt (stacked { moving := some { f1 := frameOf 1, f2 := none, parkFrame := 0, row := 0, copying := false } }) 0) 1 = true
    ∧ moveHolds (stackAt (stacked {}) 0) 1 = false ∧ unusable {} 15 = false ∧ unusable (stacked { lost := true }) 15 = true ∧ reconOn {} 1 = false
    ∧ behindHeld (stacked {}) 15 = false ∧ behindHeld (stacked { held := [(1, .hbmWrite 15 [])] }) 15 = true ∧ (stackAt (stacked {}) 0).tagQ = []
    ∧ writeWaits (stacked { frozen := [1] }) 15 = true ∧ writeWaits (stacked {}) 15 = false ∧ lineLost {} 15 = false
    ∧ (stackAt {} (parityStack 15)).lost = false ∧ stashDirty {} 15 = false
    ∧ (let r : Red := { op := .addI, pa := 1920, v := 1, scope := 5, core := 0, slot := 0, id := 1 }
       r ∈ ({ ({} : State) with reds := [r] }).reds ∧ r.pa / 128 = 15 ∧ 5 ≤ r.scope ∧ writeHeld { ({} : State) with reds := [r] } [15] = false
       ∧ redBehind { ({} : State) with reds := [r] } r = false ∧ redBehind { ({} : State) with reds := [{ r with id := 0 }, r] } r = true)
    ∧ (List.replicate 128 (0 : Byte)).length = 128 ∧ sget 0 (stackAt (stacked { cnt := [(1, 2)] }) 0).cnt 1 ≠ 1
    ∧ (stackAt (stacked {}) 0).recons.find? (fun r => r.row == 1) = none
    ∧ (let rc : Recon := { row := 1, line := 15, vals := [], failed := false, wr := none }
       (stackAt (stacked { recons := [rc] }) 0).recons.find? (fun r => r.row == 1) = some rc)
    ∧ (stackAt (stacked { held := [(1, .hbmWrite 15 [])] }) 0).held = [(1, .hbmWrite 15 [])]
    ∧ (stackAt (stacked { lost := true }) 0).lost = true ∧ ({} : State).mmio.lost0 = 0x1F
    ∧ ({ ({} : Mmio) with lost0 := 3 }).lost0 ≠ 0x1F ∧ ({ ({} : Mmio) with lost0 := 3 }).lost1 = 0x1F
    ∧ ({ ({} : Mmio) with lost0 := 3, lost1 := 4 }).lost1 ≠ 0x1F := by decide +kernel

theorem wit_RackingSteps :
    frameChan (physFrame {} 0) ≠ frameChan (physFrame {} 1) ∧ frameChan (physFrame {} 0) = frameChan (physFrame {} 32)
    ∧ ({} : Mmio).swapen = true ∧ rackFree (stacked {}) 0 = true ∧ physFrame {} 32767 < 32768
    ∧ imbalanced { stacked {} with ctr := [(ctrKey 3 0 1, some 100)] } 0 1 = true
    ∧ (let k : Stack := { march := some (1, 63) }
       k.march = some (1, 63) ∧ k.parkQ = [] ∧ k.parkGone = [] ∧ k.marching = false ∧ sget 0 k.bank (64 * 1 + 63) = 0
       ∧ (∀ i < 64, sget 0 k.bank (64 * 1 + i) ≠ 3) ∧ rackFree (stacked k) 0 = true)
    ∧ (let m : Move := { f1 := 0, f2 := some 1, parkFrame := 0, row := 0, copying := false }
       m.copying = false ∧ moveBusy (stacked { moving := some m }) 0 m = false
       ∧ moveBusy (stacked { moving := some m, cnt := [(0, 1)] }) 0 m = true
       ∧ ({ m with copying := true }).copying = true ∧ admits (stacked { moving := some m }) (ctrKey 3 0 32) = true
       ∧ admits { stacked {} with ctr := [(ctrKey 3 0 32, some 8192)] } (ctrKey 3 0 32) = false
       ∧ ({ m with row := 16382 }).row + 1 < 16384 ∧ ({ m with row := 16383 }).row + 1 = 16384)
    ∧ sget 0 (stackAt (stacked { bank := [(5, 1)] }) 0).bank 5 ≠ 0 ∧ sget 0 (stackAt (stacked {}) 0).bank 5 = 0
    ∧ ({ ({} : Stack) with march := some (0, 5), marching := true }).marching = true := by decide +kernel

/-! ### Witnesses: queues, packets, contexts -/

/-- Queue 1, enabled, privileged, of PASID 0 and two to the fourth packets at 0x00EF_F000_1000, whose first packet is `pk`; it holds slot 0. -/
def queued (pk : Nat) (c : Ctx) : State :=
  putMem (putMem { hslots := [(0, { q := 1, cls := 0, lent := none, consuming := true, unmap := false })], ctxs := [(0, c)] }
    64 64 (0x00EFF0001000 + 2 ^ 64 * 4 + 2 ^ 71 + 2 ^ 72)) 0x00EFF0001000 64 pk

/-- A context of PASID 0 with a stack that 64 lines a group fit. -/
def context : Ctx := { pasid := 0, stksz := 2 ^ 27 }

/-- The packet of a slot as its step finds it, and the state once it is fetched. -/
def packetOf (s : State) (slot : Nat) : Start :=
  let q := ((aget s.hslots slot).map (·.q)).getD 0
  let n := descAt s q
  { slot := slot, q := q, n := qRptr n, desc := n, pasid := qPasid n, core := (vintnerOf (fetchPacket s q).2 (qDie n)).getD (64 * qDie n)
    pk := (fetchPacket s q).1.toOption.getD 0 }
def fetched (s : State) (slot : Nat) : State := (fetchPacket s (((aget s.hslots slot).map (·.q)).getD 0)).2

/-- `packetReady` as it computes. -/
def ready (s : State) (slot : Nat) (me : Instr) : Bool :=
  match aget s.hslots slot with
  | none => false
  | some h => h.consuming && (fetchPacket s h.q).1.toOption.isSome && ((ctxOf s (qPasid (descAt s h.q))).map (fun e => !e.2.dying)).getD false
      && decide (packetStep slot ((fetchPacket s h.q).1.toOption.getD 0) = some me)

theorem eq_pair {α β : Type} {y : α × β} {v : α} (h : y.1 = v) : y = (v, y.2) := by cases h; rfl

theorem ready_packetReady {s : State} {slot : Nat} {me : Instr} (h : ready s slot me = true) :
    packetReady s slot me (packetOf s slot) (fetched s slot) := by
  unfold ready at h
  cases hh : aget s.hslots slot with
  | none => rw [hh] at h; cases h
  | some e =>
    rw [hh] at h
    simp only [Bool.and_eq_true, decide_eq_true_eq] at h
    obtain ⟨⟨⟨hc, hp⟩, hx⟩, hm⟩ := h
    obtain ⟨pk, hpk⟩ : ∃ pk, (fetchPacket s e.q).1 = .ok pk := by
      cases hf : (fetchPacket s e.q).1 with
      | ok pk => exact ⟨pk, rfl⟩
      | error _ => rw [hf] at hp; cases hp
    have hq : ((aget s.hslots slot).map (·.q)).getD 0 = e.q := by rw [hh]; rfl
    refine ⟨⟨e, hh, hc, ?_⟩, ?_, ?_, ?_, rfl, rfl, rfl, rfl, ?_⟩
    · simp only [packetOf, hq]
    · simp only [packetOf, fetched, hq, hpk, Except.toOption, Option.getD_some]
      exact eq_pair hpk
    · simp only [packetOf, hq]
      cases hx2 : ctxOf s (qPasid (descAt s e.q)) with
      | none => rw [hx2] at hx; cases hx
      | some y => rw [hx2] at hx; exact ⟨y.1, y.2, rfl, by simpa using hx⟩
    · simp only [packetOf, hq, hm]
    · simp only [packetOf, fetched]

/-- `packetRuns` as it computes. -/
def runs (s : State) (slot : Nat) (me : Instr) : Bool := ready s slot me && decide (packetErr (packetOf s slot).desc (packetOf s slot).pk = none)

theorem runs_packetRuns {s : State} {slot : Nat} {me : Instr} (h : runs s slot me = true) :
    packetRuns s slot me (packetOf s slot) (fetched s slot) := by
  simp only [runs, Bool.and_eq_true, decide_eq_true_eq] at h
  exact ⟨ready_packetReady h.1, h.2⟩

theorem wit_DoorbellsAndDescriptors :
    let on := 2 ^ 64 * 4 + 2 ^ 72
    let s := fun (n : Nat) => putMem {} 64 64 n
    qEn (descAt (s (2 ^ 64 * 4)) 1) = false ∧ qEn (descAt (s on) 1) = true ∧ qLsize (descAt (s on) 1) = 4
    ∧ ((17 : Word) - BitVec.ofNat 32 (qRptr (descAt (s on) 1))).toNat = 17 ∧ ((16 : Word) - BitVec.ofNat 32 (qRptr (descAt (s on) 1))).toNat = 16
    ∧ (slotOf { s on with hslots := [(0, { q := 1, cls := 0, lent := none, consuming := false, unmap := false })] } 1).isSome = true
    ∧ slotOf (s on) 1 = none ∧ (2 ^ 8 : Dword).getLsbD 8 = true ∧ (0 : Dword).getLsbD 8 = false
    ∧ slotOf (leaveWait (putDesc (s on) 1 (setField (descAt (s on) 1) 72 72 0)) 1) 1 = none
    ∧ firmwareIdle (s on) 0 = true ∧ ({ ({} : State) with fw := { safe := true } }).fw.safe = true := by decide +kernel

/-- A LAUNCH of one core's grid with one root, 32 registers and DRAIN 1. -/
def launchPk : Nat := 1 + 2 ^ 64 * 0x00EFF0000080 + 2 ^ 128 + 2 ^ 192 * 2 + 2 ^ 208 * 0x11 + 2 ^ 224 + 2 ^ 272 * 255
/-- A packet of this type with an address in the firmware region and these further bytes. -/
def packet (ty more : Nat) : Nat := ty + 2 ^ 64 * 0x00EFF0000080 + more

theorem wit_PacketSteps :
    packetSteps 0 ≠ [] ∧ aget ({} : State).hslots 0 = none
    ∧ ready (queued (packet 3 (2 ^ 10)) context) 0 (.signal 0) = true
    ∧ packetErr (packetOf (queued (packet 3 (2 ^ 10)) context) 0).desc (packetOf (queued (packet 3 (2 ^ 10)) context) 0).pk = some 3
    ∧ (let s := queued launchPk context
       let x := packetOf s 0
       let f := fetched s 0
       let g := gridOfImage x.pk x.pasid (some (x.q, x.n))
       runs s 0 (.launch 0) = true ∧ BitVec.ofNat 64 (bytesField x.pk 63 56) = (0 : Dword)
       ∧ (match rootLines x.core g .unit (if badLaunch x.pk g then 0 else g.nroot) f with
          | (.ok rs, s2) => decide (launchStatus s2 x.pk g rs = 0) && !ctxParked s2 x.pasid && decide ((reserve s2 (withRoots g rs)).1.status = 0)
              && ((aget (reserve s2 (withRoots g rs)).2.gangs (reserve s2 (withRoots g rs)).1.index).bind (·.grid)).isSome
          | _ => false) = true)
    ∧ (let s := queued (launchPk - 2 ^ 128) context
       let x := packetOf s 0
       let g := gridOfImage x.pk x.pasid (some (x.q, x.n))
       runs s 0 (.launch 0) = true ∧ launchStatus (fetched s 0) x.pk g [] ≠ 0)
    ∧ (let s := queued (launchPk + 2 ^ 448 * 4) context
       runs s 0 (.launch 0) = true ∧ bytesField (packetOf s 0).pk 63 56 % 8 ≠ 0)
    ∧ (let s := queued (packet 2 0) context
       runs s 0 (.copyPacket 0) = true
       ∧ (match packetRead (fetched s 0) (packetOf s 0) 0x00EFF0000080 128 with
          | (.ok bs, _) => let ds := dwsOf (natOfBytes bs)
                           decide (cpyDone ds = 0) && decide (cpyDep ds = 0)
          | _ => false) = true)
    ∧ (let s := queued (packet 3 (2 ^ 128 * 7)) context
       runs s 0 (.signal 0) = true ∧ bytesField (packetOf s 0).pk 24 24 = 0
       ∧ (match engineAddrs (fetched s 0) 0 0 0x00EFF0000080 8 true with
          | (.ok pas, s2) => !writeHeld s2 ((pas.filter tracked).map (· / 128)) && (poisonAt (readLines s2 pas) pas).isNone
          | _ => false) = true
       ∧ bytesField (packetOf (queued (packet 3 (2 ^ 192)) context) 0).pk 24 24 = 1 ∧ runs (queued (packet 3 (2 ^ 192)) context) 0 (.signal 0) = true)
    ∧ runs (queued 5 context) 0 (.marker 0) = true ∧ bytesField (packetOf (queued 5 context) 0).pk 15 8 = 0
    ∧ runs (queued (packet 5 0) context) 0 (.marker 0) = true ∧ bytesField (packetOf (queued (packet 5 0) context) 0).pk 15 8 ≠ 0
    ∧ (let s := queued (packet 4 (2 ^ 192)) context
       runs s 0 (.wait 0) = true ∧ bytesField (packetOf s 0).pk 39 36 = 0
       ∧ (match packetRead (fetched s 0) (packetOf s 0) 0x00EFF0000080 8 with
          | (.ok bs, _) => waitHolds (packetOf s 0).pk (natOfBytes bs)
          | _ => false) = true)
    ∧ (let s := queued (packet 4 (2 ^ 128 * 7 + 2 ^ 192 * 15)) context
       runs s 0 (.wait 0) = true
       ∧ (match packetRead (fetched s 0) (packetOf s 0) 0x00EFF0000080 8 with
          | (.ok bs, _) => !waitHolds (packetOf s 0).pk (natOfBytes bs)
          | _ => false) = true)
    ∧ (let s := { queued 0 context with pkts := [{ q := 1, n := 0, irq := false, deadline := some 9 }] }
       (waitAt s 0).isSome = true ∧ waitAt { s with pkts := [] } 0 = none
       ∧ (waitAt { s with pkts := [{ q := 1, n := 0, irq := false, deadline := some 0 }] } 0).map (·.deadline) = some (some 0)) := by
  decide +kernel

theorem wit_ContextPacketSteps :
    (let s := queued (6 + 2 ^ 192 * 100 + 2 ^ 224 * 5 + 2 ^ 240 * 9 + 2 ^ 384 * 32768) context
     runs s 0 (.ctxopCreate 0) = true ∧ ctxLive (fetched s 0) 9 = false ∧ freshKey (fetched s 0).ctxs 4096 0 = some 1
     ∧ bytesField (packetOf s 0).pk 33 30 = 9 ∧ bytesField (packetOf s 0).pk 27 24 = 100 ∧ bytesField (packetOf s 0).pk 29 28 = 5
     ∧ bytesField (packetOf s 0).pk 55 48 = 32768)
    ∧ (let s := queued (6 + 2 ^ 192 * 99 + 2 ^ 224 * 5 + 2 ^ 240 * 9 + 2 ^ 384 * 32768) context
       runs s 0 (.ctxopCreate 0) = true ∧ bytesField (packetOf s 0).pk 27 24 = 99)
    ∧ (let pk := fun (op : Nat) => 6 + 2 ^ 64 * op
       runs (queued (pk 1) context) 0 (.ctxopDestroy 0) = true ∧ runs (queued (pk 2) context) 0 (.ctxopSlice 0) = true
       ∧ runs (queued (pk 3) context) 0 (.ctxopPreempt 0) = true ∧ runs (queued (pk 4) context) 0 (.ctxopResume 0) = true
       ∧ ctxOf (fetched (queued (pk 2) context) 0) 0 = some (0, context) ∧ bytesField (packetOf (queued (pk 2) context) 0).pk 27 24 = 0
       ∧ context.ending = false ∧ context.dying = false ∧ context.pre = none ∧ context.saved = []
       ∧ (takePacket (fetched (queued (pk 1) context) 0) (packetOf (queued (pk 1) context) 0)).grids = []
       ∧ runs (queued (pk 4) { context with ending := true }) 0 (.ctxopResume 0) = true
       ∧ (let y := takePacket (fetched (queued (pk 3) context) 0) (packetOf (queued (pk 3) context) 0)
          (ctxCores y 0).isEmpty = true ∧ context.stopping = none ∧ context.atQ = [])
       ∧ (let s := { queued (pk 3) context with cores := [(0, { grid := some 3 })], grids := [(3, { pasid := 0 })] }
          runs s 0 (.ctxopPreempt 0) = true ∧ (ctxCores (takePacket (fetched s 0) (packetOf s 0)) 0).isEmpty = false)
       ∧ runs (queued (pk 1) { context with pre := some (1, 0) }) 0 (.ctxopDestroy 0) = true
       ∧ runs (queued (pk 3) { context with pre := some (1, 0) }) 0 (.ctxopPreempt 0) = true
       ∧ ctxOf (fetched (queued (pk 4 + 2 ^ 240 * 9) context) 0) 9 = none) := by decide +kernel

/-! ### Witnesses: grids, faults, translations, landing rings, registers -/

/-- A fault entry of the team in slot 0 of core 0, of PASID 5. -/
def faulted : FaultEnt := {
  rec_ := { code := 5, cause := 0, wr := false, fetch := false, under := false, recov := true, src := 0, engine := false, core := 0, slot := 0
            shape := 0, gi := 0, lane := 0, pc := 0, addr := 0, imm := 0, ctx := 5, time := 0, ivec := [], opkind := 0, opword := 0 }
  agent := 0, core := 0, id := 0, pasid := 5 }

theorem wit_GridSliceAndFaultSteps :
    (let x : Grid := { pasid := 5, started := true }
     let s : State := { grids := [(3, x)] }
     gridAt s 4 = none ∧ gridAt s 3 = some x ∧ x.glive = 0 ∧ gridBusy s x = false
     ∧ gridBusy { s with extOut := [(0, 1)] } { x with cores := [0] } = true ∧ 0 ∉ x.pushed ∧ x.aborted = none
     ∧ gridQuiet s 3 = true ∧ ({ x with pushed := [0] }).pushed = [0])
    ∧ timerSet {} (.firmwareTimer 0) = false ∧ timerSet { ({} : State) with timers := [(9, .firmwareTimer 0)] } (.firmwareTimer 0) = true ∧ timerSet { ({} : State) with timers := [(9, .sliceEnd 5)] } (.sliceEnd 5) = true
    ∧ (let s : State := { cores := [(0, { grid := some 3 })], grids := [(3, { pasid := 5 })], ctxs := [(0, { pasid := 5 })] }
       let due := fun (k : Ctx) => (ctxDies s 5).filter (fun d => decide (sget 0 k.ends d ≤ s.clk + 1100 * k.drain) && decide (d ∉ k.atQ)
         && !(k.stopping.getD []).any (fun e => decide (dieOf e.1 = d)))
       ctxOf s 5 = some (0, { pasid := 5 }) ∧ ctxCores s 5 ≠ [] ∧ ctxOf s 6 = none ∧ due { pasid := 5 } = [0] ∧ due { pasid := 5, atQ := [0] } = []
       ∧ ({ pasid := 5 } : Ctx).preempted = false ∧ ({ pasid := 5, preempted := true } : Ctx).preempted = true)
    ∧ coreStopped (alone {} id) 0 = false ∧ coreStopped { cores := [(0, {})] } 0 = true
    ∧ (coreAt { cores := [(0, { engineStep := some 1 })] } 0).engineStep.isSome = true
    ∧ collectivesOut { reds := [{ op := .addI, pa := 0, v := 0, scope := 0, core := 0, slot := 0 }] } 0 = true ∧ collectivesOut {} 0 = false
    ∧ (let s : State := { dies := [(0, { faultWait := [faulted] }), (1, { faultQ := [faulted] })] }
       (dieAt s 2).faultWait = [] ∧ (dieAt s 2).faultQ = [] ∧ (dieAt s 0).faultWait = [faulted] ∧ (dieAt s 0).faultQ = []
       ∧ atsFault s faulted = false ∧ inHost s.mmio.frbase = false ∧ (dieAt s 1).faultQ = [faulted] ∧ inHost 0x8000000000000 = true
       ∧ aget s.ring (s.ringNext % 1024) = none)
    ∧ ((2 ^ 11 : Dword).toNat / 2 ^ 11 ≠ 0 ∧ aget ({ ({} : State) with ring := [(1023, faulted)] }).ring ((1023 + 1024 : Dword).toNat % 1024) = some faulted
       ∧ (1023 + 1024 : Dword).toNat / 2 ^ 11 = 0)
    ∧ (let s : State := { pri := [(7, 1, faulted)] }
       aget s.pri 7 = some (1, faulted) ∧ aget s.pri 8 = none
       ∧ ctxServed (cancel { s with pri := adel s.pri 7 } (.atsTagTimeout (1024 + 7))) faulted.pasid = false
       ∧ ctxServed (cancel { s with pri := adel s.pri 7, ctxs := [(0, { pasid := 5 })] } (.atsTagTimeout (1024 + 7))) faulted.pasid = true) := by
  decide +kernel

theorem wit_TranslationAndTeardownSteps :
    (let r : AtsReq := { pasid := 5, page := 9, core := 0, out := true, who := [] }
     let s : State := { ats := [(7, r)], ctxs := [(0, { pasid := 5 })] }
     aget s.ats 8 = none ∧ aget s.ats 7 = some r ∧ r.out = true ∧ ctxServed (cancel { s with ats := adel s.ats 7 } (.atsTagTimeout 7)) 5 = true
     ∧ ({ r with out := false }).out = false ∧ timerSet s (.atsTagTimeout 7) = false ∧ (7 : Nat) < 1024 ∧ r.who = [] ∧ ({ r with who := [(0, 0)] }).who ≠ []
     ∧ timerSet { s with timers := [(9, .atsTagTimeout 7)] } (.atsTagTimeout 7) = true ∧ tagsDone s 5 = false)
    ∧ (let i : Inval := { kind := 0, pasid := 5, va := 0x9000 }
       let t : TlbEnt := { pasid := 5, va := 9, lvl := 0, leaf := 0, ats := some { page := 3, r := true, w := true, x := true } }
       let s : State := { dies := [(0, { atc := [t] })], extPend := [{ core := 1, slot := 0, uid := 0, bytes := [(0x8000000003000, 1)] }] }
       let y := invalidateTlb s (256, 0) i
       y.1.atsInv = [] ∧ timerSet y.1 (.atsInvalidate 5 0x9000 1) = false ∧ invOver y.1 y.2 = false ∧ invOver { y.1 with extPend := [] } y.2 = true
       ∧ (let y := invalidateTlb { s with extPend := [] } (256, 0) i
          y.1.atsInv = [] ∧ invOver y.1 y.2 = true))
    ∧ canonical 0x1000 = true ∧ canonical 0x0100000000000000 = false
    ∧ (let s := putMem (putMem { ctxs := [(0, { pasid := 5 })] } (16 * 5) 8 (0x10000 + 1)) 0x10000 8 0x0000000000000001
       (pasidRoot s 5).isSome = true)
    ∧ (let s : State := { ctxs := [(0, { pasid := 5, ending := true, dying := true })] }
       ctxOf s 5 = some (0, { pasid := 5, ending := true, dying := true }) ∧ tagsDone s 5 = true ∧ s.copies = []) := by decide +kernel

/-- Landing ring 1: enabled if `en`, two to the fourth slots of one line at 0x1_0000, this policy and this PIDX. -/
def ring (en key : Bool) (policy pidx : Nat) : State :=
  putMem {} 64 64 (0x10000 + 2 ^ 52 * 4 + 2 ^ 57 + 2 ^ 64 * policy + (if key then 2 ^ 67 else 0) + (if en then 2 ^ 83 else 0) + 2 ^ 128 * pidx)

theorem wit_LandingAndRegisterSteps :
    (let s := ring true false 0 15
     let n := ringDesc s 1
     s.fw.safe = false ∧ aget s.landing 1 = none ∧ s.ingress = [] ∧ lrEn n = true ∧ lrKeyen n = false ∧ lrSlotl n * 128 - 16 = 112
     ∧ ringFull s n = false ∧ lrEn (ringDesc (ring false false 0 0) 1) = false)
    ∧ (let n := ringDesc (ring true false 0 16) 1
       ringFull (ring true false 0 16) n = true ∧ lrPolicy n = 0 ∧ lrPolicy (ringDesc (ring true false 2 16) 1) = 2
       ∧ ingressRoom (ring true false 2 16) n 100 = true ∧ ingressRoom (ring true false 2 16) n 2097153 = false)
    ∧ (let s := ring true true 0 0
       lrKeyen (ringDesc s 1) = true ∧ aget s.keys.entries (lrKey (ringDesc s 1)) = none
       ∧ openPacket { s with keys := { entries := [(0, [0, 0, 0, 0, 0])] } } (ringDesc s 1) ⟨[], [], 0x8B73CBC4F1B463A9B93645C7FB8A0F53⟩ 0 = some []
       ∧ openPacket { s with keys := { entries := [(0, [0, 0, 0, 0, 0])] } } (ringDesc s 1) ⟨[], [], 0x8B73CBC4F1B463A9B93645C7FB8A0F52⟩ 0 = none)
    ∧ (let s : State := { landing := [(1, [(0x10080, [1]), (0x10100, [2])])] }
       aget s.landing 1 = some ((0x10080, [1]) :: [(0x10100, [2])]) ∧ writeHeld s [0x10080 / 128] = false
       ∧ writeHeld { s with dies := [(0, { granted := [{ request with w := sigOf [0x10080 / 128] }] })] } [0x10080 / 128] = true)
    ∧ ({} : Keys).busy = false ∧ ({ ({} : Keys) with busy := true }).busy = true
    ∧ (2 : Nat) ≠ 4 ∧ 0x2004 % 8 ≠ 0 ∧ anyQueueOn (putMem {} 64 64 (2 ^ 72)) = true
    ∧ (∀ x : Nat, x < 4 → x < 2 ^ 64) := by decide +kernel

/-- Bytes that are all zero give the number zero. -/
theorem natOfBytes_zeros : ∀ l : List Nat, natOfBytes (l.map (fun _ => (0 : Byte))) = 0
  | [] => rfl
  | _ :: l => by rw [List.map_cons, natOfBytes, natOfBytes_zeros l]; rfl

/-- Empty memory holds no descriptor. -/
theorem descAt_empty (q : Nat) : descAt {} q = 0 := natOfBytes_zeros (List.range 64)

theorem wit_LandingAndRegisterSteps_off : anyQueueOn {} = false :=
  List.any_eq_false.mpr (fun q _ => by rw [descAt_empty]; decide)

theorem wit_ResetAndPowerSteps : State.reset.fw.safe = false ∧ ({ State.reset with fw := { safe := true } }).fw.safe = true
    ∧ corkedCores {} = [] ∧ (coreAt { cores := [(5, { role := 3 })] } 5).role = 3 := by decide

/-- A flash descriptor in the firmware region. -/
def flashing (op fa ma len : Nat) : State := putMem {} 0x00EFF0000040 32 (op + 2 ^ 64 * fa + 2 ^ 128 * ma + 2 ^ 192 * len)

theorem wit_FirmwareServiceSteps :
    (let s : State := { cores := [(0, { role := 1 }), (1, {})] }
     s.fw.safe = false ∧ s.fw.imgBusy = none ∧ ({ s.fw with imgBusy := some 1 }).imgBusy = some 1 ∧ s.fw.flOp = none ∧ s.fw.dumping = none
     ∧ (coreAt s 0).role = 1 ∧ (coreAt s 1).role ≠ 1 ∧ (aget s.cores 1).map (·.role) = some 0
     ∧ vintners s = [0] ∧ vintnerDies s = 1 ∧ vintnerDies s &&& ~~~((0 : BitVec 4) ||| BitVec.ofNat 4 (2 ^ 0)) = 0
     ∧ (let t : State := { cores := [(0, { role := 1 }), (64, { role := 1 })] }
        vintnerDies t &&& ~~~((0 : BitVec 4) ||| BitVec.ofNat 4 (2 ^ 0)) ≠ 0)
     ∧ timerSet s .heartbeatTimeout = false ∧ timerSet s .dumpTimeout = false ∧ ({ s.fw with armed := true, cookie := 7 }).armed = true)
    ∧ (∀ l < 3, needsRebuild {} l = false ∧ isPoisoned {} l = false)
    ∧ flashCheck (flashing 3 0x1001 0 128) 0x00EFF0000040 ≠ 0 ∧ (flashDesc (flashing 3 0x1001 0 128) 0x00EFF0000040).1 = 3 ∧ (flashDesc (flashing 0 0 0 128) 0x00EFF0000040).1 = 0
    ∧ flashCheck (flashing 0 0 0 128) 0x00EFF0000040 ≠ 0
    ∧ flashCheck (flashing 1 0x80 0x00EFF0002000 128) 0x00EFF0000040 = 0 ∧ (flashDesc (flashing 1 0x80 0x00EFF0002000 128) 0x00EFF0000040).1 = 1
    ∧ flashCheck (flashing 2 0x1000 0x00EFF0002000 128) 0x00EFF0000040 = 0 ∧ flashCheck (flashing 3 0x2001000 0 0x1000) 0x00EFF0000040 = 0
    ∧ (let v : Dword := 5 + 2 ^ 32 * 1000
       loWord v ≠ 0 ∧ v.toNat / 2 ^ 32 % 2 ^ 16 = 1000 ∧ v.toNat / 2 ^ 48 = 0) := by decide +kernel

/-! ### Witnesses: encoding, the step, the invariant -/

theorem wit_DecodeEncodeRoundTrip : (Instr.ffma (some ⟨127, 12, true, 4, true⟩) 127 111 120).wellFormed = true
    ∧ (Instr.ldg32 (some ⟨0, 12, false, 0, false⟩) 95 110 511).wellFormed = true ∧ (Instr.movl none 120 0xFFFFFFFF).wellFormed = true := by decide

theorem wit_DecodeFatesAndConverse :
    isPrefixWord 0xE0000000 = false ∧ assigned 0xE0000000 = false ∧ assigned 0x0001C286 = true ∧ isPrefixWord 0xFE000001 = true
    ∧ (0xFE000001 : Word).toNat % 512 ≠ 0 ∧ (0xFE004000 : Word).toNat % 512 = 0 ∧ isPrefixWord 0xFE004000 = true
    ∧ decodeUnit [0x02010281] = .error .illegalOpcode ∧ decodeUnit [0x0001C286] = .ok (.iadd none 7 5 6, 1)
    ∧ (let i := Instr.iadd none 7 5 6
       ¬ ((0xFE034000 : Word) >>> 14).toNat % 16 < 13 ∧ ((0xFE030000 : Word) >>> 14).toNat % 16 = 12
       ∧ ((0xFE030000 : Word) >>> 10).toNat % 8 < 5 ∧ inClass i .n = false ∧ inClass i .m = false ∧ inClass i .a = true ∧ i.hasC = false
       ∧ ((0xFE030000 : Word) >>> 18).toNat % 128 = 0 ∧ (0xFE030000 : Word).toNat % 512 = 0) := by
  refine ⟨by decide, by decide, by decide, by decide, by decide, by decide, by decide, by rfl, by rfl, by decide⟩

/-! ### Witnesses: further clauses -/

theorem wit_GroupRecords_room : holds (lineAddrs false 0 (pairVal (entered 4 loading) 2 0) 1 (entered 4 loading)) (fun head s1 =>
      match gridAt s1 3 with
      | none => false
      | some x =>
        let need := teamNeeds s1 x 1 1 (bytesField (natOfBytes (head.map (memByte s1))) 91 84)
        decide (need.1 ≤ (freeTiles (coreAt s1 1)).length) && decide ((coreAt s1 1).pieces.length + need.2 ≤ 64)) = true := by decide +kernel

/-- A stash map with every entry taken. -/
def mapFull : State := modCore mapped 0 (fun k => { k with
  stash := (List.range 16).map (fun i => (i, { valid := true, sline := 16 + i, nline := 1, gline := 64 + i, pend := false })) })

theorem wit_StashMapInstructions_faults :
    (let e := newStash 0 1 (0x00EFF0000080 / 128)
     stashRangeOk mapFull 0xF0000000 128 0x00EFF0000080 = true ∧ freshKey (coreAt mapFull 0).stash 16 0 = none
     ∧ (∀ x ∈ (curGroup mapFull).open_ :: (curGroup mapFull).done, Effect.smap e ∉ x.effects)
     ∧ (∀ x ∈ (coreAt mapFull 0).stash, ¬ (x.2.valid = true ∧ x.2.sline = 0 ∧ x.2.nline = 1 ∧ x.2.gline = e.gline)))
    ∧ (let s := at_ (fgroup [0xF0000000, 0xF0007F80, 0xF0000041, 0xEF, 0x30000000, 128, 256]) [0]
       (pairVal (based s) 2 0).toNat % 128 ≠ 0 ∧ (srcVal (based s) 0 0).toNat % 128 = 0 ∧ (srcVal (based s) 5 0).toNat % 128 = 0
       ∧ srcVal (based s) 5 0 ≠ 0 ∧ (srcVal (based s) 4 0).toNat % 128 = 0
       ∧ ((srcVal (based s) 4 0).toNat / 2 ^ 28 ≠ 15 ∧ (srcVal (based s) 4 0).toNat / 2 ^ 28 ≠ (coreAt s 0).cidx)
       ∧ (srcVal (based s) 1 0).toNat / 2 ^ 28 = 15 ∧ (srcVal (based s) 1 0).toNat % 128 = 0
       ∧ (coreAt s 0).psize * 32768 < (srcVal (based s) 1 0).toNat % 2 ^ 28 + (srcVal (based s) 6 0).toNat) := by decide +kernel

theorem wit_PinAndCacheInstructions_locks :
    holds (checkGlobal { n := 1, poisonOk := true } [0] (addr firm) (based firm)) (fun cs s2 =>
      holds (guardChange (cs.flatMap (·.vlines)).dedup s2) (fun _ y => decide (y = s2))
      && cs.all (fun x => !readStalls s2 0 (chkPa x / 128))
      && (let r := lockLines 0 (addr firm) (cs.map (fun x => (x.lane, chkPa x))) s2
          cs.all (fun x => decide (sget 0 r.1 x.lane = 0) && isPinned (coreAt r.2 0) (chkPa x / 128)))) = true
    ∧ (let k := { coreAt firm 0 with l1 := (List.range 8).map (fun i => { line := 256 * (i + 1), dirty := false, pin := true, way := i }) }
       isPinned k 0 = false ∧ k.qused < lockLimit k ∧ stashMaps k 0 = false
       ∧ l1Ways k ≤ (k.l1.filter (fun y => y.pin && y.line % 256 == 0 % 256)).length + 1)
    ∧ (let k := coreAt firm 0
       k.qused < lockLimit k ∧ stashMaps k 0 = false ∧ (k.l1.filter (fun y => y.pin && y.line % 256 == 0 % 256)).length + 1 < l1Ways k)
    ∧ stashMaps (coreAt mapped 0) (0x00EFF0000080 / 128) = true := by decide +kernel

theorem wit_PopsStagingAndStarts_lines :
    (let s := pool (fun k => { k with deque := [entry] })
     (entryLines s 0 0 entry).1.isSome = true ∧ (coreAt s 0).stopReq = false ∧ (coreAt s 0).staged.any (fun y => !y.bad) = false
     ∧ (entryLines s 0 0 { entry with cline := BitVec.ofNat 50 (2 ^ 49) }).1 = none) := by decide +kernel

theorem wit_StealingSteps_roles :
    (let s := pool (fun k => { k with steal := { k.steal with out := true } })
     let open_ := modCore s 0 (fun k => { k with steal := { k.steal with out := false } })
     stealIdle open_ 0 = true ∧ pickVictim open_ 0 (mayCross open_ 0) 4 0 0 = some (0, 1, 1) ∧ stealIdle s 0 = false)
    ∧ (let s := modCore (pool id) 0 (fun k => { k with reqQ := [(1, 7)], role := 2 })
       (1, 7) ∈ (coreAt s 0).reqQ ∧ dqBusy s 0 5 = false ∧ (coreAt s 0).role ≠ 0)
    ∧ (coreAt (pool id) 0).role = 0 ∧ aget (coreAt (pool id) 0).pieces 0 = none
    ∧ (let s := split 64
       let me := splitRef 0 0 1
       let asking := fun (todo : List Nat) => { s with asks := [{ k := me, lines := [cursorLine 0 0], toGrant := todo, granted := [], ev := .splitCommit 0 0 1 }] }
       askOf s me = none ∧ (askOf (asking [0]) me).isSome = true ∧ askGranted (asking [0]) me = false ∧ askGranted (asking []) me = true
       ∧ heldByLive (asking []) (sigOf [cursorLine 0 0]) none = false
       ∧ heldByLive { asking [] with cores := (asking []).cores ++ [(2, { groups := [(0, { open_ := { num := 1, irr := true, rsig := sigOf [cursorLine 0 0] } })] })] }
           (sigOf [cursorLine 0 0]) none = true) := by decide +kernel

theorem wit_FutureGraphAndChannelSteps_full :
    (let g : Group := { (vgroup []) with r := { thr := [(2, .join hand 4)] } }
     let s := pool (fun k => { k with groups := [(0, g)], futs := [(7, { st := 1, gen := 2, waiters := List.replicate 4096 (false, ⟨1, false, 9⟩) })] })
     groupAt s 0 0 = some g ∧ (futState s (ctxidOf s g) hand).1 = 0 ∧ (true, (⟨0, false, 0⟩ : NodeRef)) ∉ (futAt s 0 7).waiters
     ∧ 4096 ≤ waitersUsed (coreAt s 0)) := by decide +kernel

theorem wit_CommitProtocolSteps_asks :
    (let me := copyRef 2
     let s : State := { asks := [{ k := me, lines := [1], toGrant := [0], granted := [], ev := .engineChunkStart 2 }] }
     doneChunk s me = none ∧ (askOf s me).isSome = true ∧ askOf {} me = none)
    ∧ outsideTable ({} : State).mmio.qtbase 16384 252 4 ∧ outsideTable ({} : State).mmio.rtbase 8192 252 4
    ∧ outsideTable 4096 16384 252 4 ∧ (4 : Nat) ≤ 128 - 252 % 128 ∧ inHbm 0x8000000000000 = false
    ∧ (unitRead {} [252]).isSome = true
    ∧ unitRead (ended { wrote with phase := 2 } {}) [128] = none
    ∧ (let w : ExtWrite := { core := 0, slot := 0, uid := 0, bytes := [(0x8000000000000, 1)] }
       extFirsts { ({} : State) with extPend := [{ w with out := true }] } 0 0 = [(0, { w with out := true })]
       ∧ extFirsts { ({} : State) with extPend := [{ w with out := false }] } 0 0 = []) := by
  unfold outsideTable; decide +kernel

/-- A team of two groups of which group 1 has faulted, and group 0 has these fields. -/
def broken (g : Group) : State := { cores := [(0, { groups := [(0, g)], teams := [(0, {
  tasks := [{ ca := 0, own := 0, kind := 0, piece := none, cont := false, call := none }], fault := some faulted.rec_ })] })] }

theorem wit_HaltMarginAndSleepSteps_faulty :
    (teamAt (broken {}) 0 0).fault.isSome = true ∧ groupAt (broken {}) 0 0 = some {}
    ∧ (let g : Group := { haltLeft := some (1, 0) }
       groupReady (broken g) 0 0 g = true)
    ∧ (let g : Group := { r := { thr := (List.range 32).map (fun t => (t, .addr)) } }
       (let x := { broken g with free := 1 }
        groupReady x 0 0 g = false ∧ g.haltLeft = none ∧ g.replay = none)
       ∧ ({ g with replay := some ([0], 0) }).replay.isSome = true
       ∧ groupReady { broken { g with replay := some ([0], 0) } with free := 1 } 0 0 { g with replay := some ([0], 0) } = false
       ∧ groupReady (broken { g with haltLeft := some (1, 0) }) 0 0 { g with haltLeft := some (1, 0) } = false)
    ∧ groupReady { broken {} with free := 1 } 0 0 {} = true
    ∧ (coreAt { cores := [(0, { role := 1 })] } 0).role = 1 := by decide +kernel

theorem wit_BarrierMulticastAndCallSteps_early :
    (let early := fun (h : Group) => (h.done ++ [h.open_]).flatMap (fun k => k.effects.flatMap (fun e => match e with
        | .sysc _ _ _ ls => ls
        | _ => ([] : List Nat)))
     let h : Group := { r := { thr := [(0, .sysc), (1, .sysc)] }, done := [{ effects := [.sysc 5 0 [] [1]] }] }
     (lanesWhere h.r (· == .sysc)).filter (fun l => decide (l ∉ early h)) = [0]
     ∧ (let h : Group := { r := { thr := [(1, .sysc)] }, done := [{ effects := [.sysc 5 0 [] [1]] }] }
        (lanesWhere h.r (· == .sysc)).filter (fun l => decide (l ∉ early h)) = [])) := by decide +kernel

/-- A copy's run from its position in a state. -/
def runOf (s : State) (x : Copy) : CopyRun := copyRun x (copyTotal x - x.pos) { s := s, pos := x.pos, scale := x.scale, lines := [], out := [], err := none }

theorem wit_CopyDecantAndBudgetSteps_asks :
    (let s : State := { copies := [(2, moving)] }
     let r := runOf s moving
     let asking := fun (todo ls : List Nat) => { s with asks := [{ k := copyRef 2, lines := ls, toGrant := todo, granted := [], ev := .engineChunkStart 2 }] }
     askOf s (copyRef 2) = none ∧ r.err = none ∧ runLines r ≠ [] ∧ moving.pkt.isSome = true
     ∧ runLines (runOf s { moving with pos := copyTotal moving }) = []
     ∧ (askOf (asking [0] []) (copyRef 2)).any (fun a => !a.toGrant.isEmpty) = true
     ∧ (askOf (asking [] (runLines r)) (copyRef 2)).any (fun a => a.toGrant.isEmpty && (runLines r).all (fun l => decide (l ∈ a.lines))) = true
     ∧ (askOf (asking [] []) (copyRef 2)).any (fun a => a.toGrant.isEmpty && (runLines r).any (fun l => !(decide (l ∈ a.lines)))) = true
     ∧ heldByLive (asking [] (runLines r)) (sigOf (runLines r)) none = false)
    ∧ (let x := { moving with desc := [0x00EFF00000FF, 0x00EFF0000200, 0, 1, 2, 0, 0, 0, 0, 2 ^ 32 + 1] }
       let s : State := { copies := [(2, x)], hbm := [(dataStack (0x00EFF0000100 / 128), { held := [(stripeOf (0x00EFF0000100 / 128), .hbmWrite (0x00EFF0000100 / 128) [])] })] }
       let r := runOf s x
       decide (r.err = some .wait) = true ∧ r.out ≠ [])
    ∧ ({ moving with pkt := none }).pkt = none := by decide +kernel

theorem wit_StackAndParitySteps_held :
    (let r : Red := { op := .addI, pa := 1920, v := 1, scope := 5, core := 0, slot := 0, id := 1 }
     let s := { ended { wrote with wsig := sigOf [15], glines := [15] } { granted := [{ request with w := sigOf [15] }] } with reds := [r] }
     writeWaits s 15 = false ∧ r ∈ s.reds ∧ r.pa / 128 = 15 ∧ writeHeld s [15] = true)
    ∧ (stackAt (stacked {}) 0).lost = false ∧ (stackAt (stacked {}) 0).held = [] := by decide +kernel

theorem wit_DoorbellsAndDescriptors_slots :
    let on := 2 ^ 64 * 4 + 2 ^ 72
    let s := fun (h : HSlot) => { putMem {} 64 64 on with hslots := [(0, h)] }
    let h : HSlot := { q := 1, cls := 0, lent := none, consuming := false, unmap := false }
    let off_ := fun (h : HSlot) => leaveWait (putDesc (s h) 1 (setField (descAt (s h) 1) 72 72 0)) 1
    slotOf (off_ h) 1 = some 0 ∧ aget (off_ h).hslots 0 = some h
    ∧ (aget (off_ { h with consuming := true }).hslots 0).map (·.consuming) = some true
    ∧ (0 : Nat) ≤ 2 ^ qLsize (descAt (s h) 1) ∧ ((0 : Word) - BitVec.ofNat 32 (qRptr (descAt (s h) 1))).toNat = 0 := by decide +kernel

/-- A state whose line lies behind a packet that its stack holds. -/
def waiting (s : State) (line : Nat) : State := { s with hbm := [(dataStack line, { held := [(stripeOf line, .hbmWrite line [])] })] }

theorem wit_PacketSteps_waits :
    (let s := queued (launchPk + 2 ^ 64 * 2 ^ 63 - 2 ^ 64 * 0x00EFF0000080) context
     let x := packetOf s 0
     let g := gridOfImage x.pk x.pasid (some (x.q, x.n))
     runs s 0 (.launch 0) = true
     ∧ (match rootLines x.core g .unit (if badLaunch x.pk g then 0 else g.nroot) (fetched s 0) with
        | (.error e, s2) => isFailure e.1 && decide (launchStatus s2 x.pk g [] = 0)
        | _ => false) = true)
    ∧ (let s := waiting (queued launchPk context) (0x00EFF0000080 / 128)
       let x := packetOf s 0
       let g := gridOfImage x.pk x.pasid (some (x.q, x.n))
       runs s 0 (.launch 0) = true
       ∧ (match rootLines x.core g .unit (if badLaunch x.pk g then 0 else g.nroot) (fetched s 0) with
          | (.error e, s2) => !isFailure e.1 && !earlyStatus (launchStatus s2 x.pk g [])
          | _ => false) = true)
    ∧ (let s := putMem (queued (packet 2 0) context) 0x00EFF0000080 128 (2 ^ 960)
       runs s 0 (.copyPacket 0) = true
       ∧ (match packetRead (fetched s 0) (packetOf s 0) 0x00EFF0000080 128 with
          | (.ok bs, _) => decide (cpyDep (dwsOf (natOfBytes bs)) ≠ 0)
          | _ => false) = true)
    ∧ (let s := { queued (packet 3 (2 ^ 128 * 7)) context with dies := [(0, { granted := [{ request with w := sigOf [0x00EFF0000080 / 128] }] })] }
       runs s 0 (.signal 0) = true
       ∧ (match engineAddrs (fetched s 0) 0 0 0x00EFF0000080 8 true with
          | (.ok pas, s2) => unitWriteWaits s2 (pas.map homePa)
          | _ => false) = true)
    ∧ (let s := waiting (queued (packet 3 (2 ^ 192)) context) (0x00EFF0000080 / 128)
       runs s 0 (.signal 0) = true ∧ bytesField (packetOf s 0).pk 24 24 = 1
       ∧ (match engineAddrs (fetched s 0) 0 0 0x00EFF0000080 8 true with
          | (.ok pas, s2) => !unitWriteWaits s2 (pas.map homePa) && (unitRead s2 (pas.map homePa)).isNone
          | _ => false) = true)
    ∧ (let s := queued (packet 3 (2 ^ 192)) context
       (match engineAddrs (fetched s 0) 0 0 0x00EFF0000080 8 true with
          | (.ok pas, s2) => !unitWriteWaits s2 (pas.map homePa)
              && ((unitRead s2 (pas.map homePa)).map (fun z => (poisonAt z (pas.map homePa)).isNone)).getD false
          | _ => false) = true)
    ∧ (let s := { queued (packet 4 (2 ^ 128 * 7 + 2 ^ 192 * 15)) context with pkts := [{ q := 1, n := 0, irq := false, deadline := some 9, pass := true }] }
       runs s 0 (.wait 0) = true ∧ ((waitAt (fetched s 0) 0).map (·.pass)).getD false = true ∧ (waitAt s 0).map (·.pass) = some true)
    ∧ (∀ v ∈ [(0 : Nat), 7],
        let s := putMem { queued (packet 4 (2 ^ 128 * 7 + 2 ^ 192 * 15)) context with pkts := [{ q := 1, n := 0, irq := false, deadline := some 9 }] }
          0x00EFF0000080 8 v
        let z := cancel s (.waitRecheck 0)
        (waitAt z 0).map (·.pass) = some false
        ∧ (match fetchPacket z 1 with
           | (.ok pk, f) => match queueRead f ((vintnerOf f (qDie (descAt z 1))).getD (64 * qDie (descAt z 1))) (qPasid (descAt z 1)) (BitVec.ofNat 64 (bytesField pk 15 8)) 8 with
             | (.ok bs, _) => waitHolds pk (natOfBytes bs) == decide (v = 7)
             | _ => false
           | _ => false) = true) := by decide +kernel

theorem wit_GridSliceAndFaultSteps_schedulers :
    schedulerRuns {} 0 = true
    ∧ (let s : State := { cores := [(0, { role := 1, groups := [(0, {})] })], fw := { qhold := 1 } }
       schedulerRuns s 0 = false ∧ firmwareIdle s 0 = false ∧ schedulerRuns { s with fw := { qhold := 0 } } 0 = true)
    ∧ firmwareIdle {} 0 = true ∧ othersWait {} 5 0 = false
    ∧ othersWait { ctxs := [(0, { pasid := 5 }), (1, { pasid := 6, saved := [(1, { grid := some 3 })] })] } 5 0 = true := by decide +kernel

/-- Five levels of tables for PASID 5 that map address 0x1000 with a leaf at level 0, or address 0 with one at level 2. -/
def tables : State :=
  putMem (putMem (putMem (putMem (putMem (putMem (putMem { ctxs := [(0, { pasid := 5 })] } (16 * 5) 8 0x10001)
    0x10000 8 0x11001) 0x11000 8 0x12001) 0x12000 8 0x13001) 0x13000 8 0x14001) 0x14008 8 0x20003) 0x12008 8 0x40000003

theorem wit_TranslationAndTeardownSteps_walks :
    (∃ root, pasidRoot tables 5 = some root
      ∧ (match walkFrom tables 0x1000 5 4 root with
         | .ok (_, lvl, _) => decide (lvl = 0)
         | _ => false) = true
      ∧ (match walkFrom tables (2 ^ 30) 5 4 root with
         | .ok (_, lvl, _) => decide (lvl = 2)
         | _ => false) = true)
    ∧ (let w : InvWait := { chunks := [⟨0, 0, 1⟩], pages := [] }
       let s := ended wrote {}
       invOver s w = false ∧ invOver {} w = true ∧ ((some w).map (invOver s)).getD true = false
       ∧ timerSet {} (.atsInvalidate 5 0x9000 1) = false) := ⟨⟨0x10000, by decide +kernel⟩, by decide +kernel⟩

theorem wit_LandingAndRegisterSteps_waits :
    (let s := ring true false 0 15
     (unitRead s [lrBase (ringDesc s 1)]).isSome = true ∧ unitRead (waiting s (lrBase (ringDesc s 1) / 128)) [lrBase (ringDesc s 1)] = none
     ∧ lrPolicy (ringDesc (ring true false 1 16) 1) = 1 ∧ ringFull (ring true false 1 16) (ringDesc (ring true false 1 16) 1) = true)
    ∧ ({ ({} : State) with fw := { safe := true } }).fw.safe = true := by decide +kernel


/-- The state after reset with this word as the next instruction, and the state once the word is fetched. -/
def placed (w : Nat) : State := State.reset.withFetchWord 32 w
def stood (w : Nat) : Group := (groupAt (placed w) 0 0).getD {}

theorem wit_StepRunsTheDecodedInstruction :
    (placed 0x0001C286).sched = [.issue 0 0] ∧ (groupAt (placed 0x0001C286) 0 0).isSome = true
    ∧ (let x := { placed 0x0001C286 with sched := [] }
       groupReady x 0 0 (stood 0x0001C286) = true ∧ (fetches (aim x 0 0 (stood 0x0001C286)) 0 [0x0001C286]).isSome = true
       ∧ x.sched = [] ∧ x.power = true ∧ x.net = [] ∧ dueTimer x = none ∧ nextIssue x = some (0, 0)
       ∧ isPoisoned (readLine x (home.toNat / 128)) (home.toNat / 128) = false)
    ∧ (fetches (aim { placed 0xE0000000 with sched := [] } 0 0 (stood 0xE0000000)) 0 [0xE0000000]).isSome = true
    ∧ (let s : State := { timers := [(0, .keycmdDone)] }
       dueTimer s = some (0, .keycmdDone))
    ∧ dueTimer {} = none ∧ nextIssue {} = none := by decide +kernel

theorem wit_StepRunsTheDecodedInstruction_words : decodeUnit [0x0001C286] = .ok (.iadd none 7 5 6, [0x0001C286].length)
    ∧ decodeUnit [0xE0000000] = .error .illegalOpcode ∧ decodeUnit [] = .error .truncated := ⟨by rfl, by rfl, by rfl⟩

theorem wit_MemoryStaysCanonical : State.reset.memWf = true ∧ (putMem {} 5 1 7).memWf = true
    ∧ (match step (putMem {} 5 1 7) with
       | .next t => t.memWf
       | _ => false) = true := by decide +kernel

/-- The word is the next instruction and runs: v7 = v5 + v6. -/
theorem test_step_after_reset : (match step (placed 0x0001C286) with
    | .next t => decide (sget 0 ((groupAt t 0 0).getD {}).r.pc 0 = home + 4)
    | _ => false) = true := by decide +kernel

/-- The digest of the three letters a, b, c that FIPS 180-4's examples give. -/
theorem test_sha384_abc : sha384 [0x61, 0x62, 0x63]
    = 0xCB00753F45A35E8BB5A03D699AC65007272C32AB0EDED1631A8B605A43FF5BED8086072BA1E7CC2358BAECA134C825A7 := by decide +kernel

/-- The AES-256 example of FIPS 197, appendix C.3. -/
theorem test_aes256_block : aesBlock (aesKeys ((List.range 32).map (BitVec.ofNat 8 ·))) ((List.range 16).map (fun i => BitVec.ofNat 8 (17 * i)))
    = beBytes 16 0x8EA2B7CA516745BFEAFC49904B496089 := by decide +kernel

theorem wit_StepRunsTheDecodedInstruction_lines :
    (let x := { placed 0x0001C286 with sched := [] }
     let y := aim x 0 0 (stood 0x0001C286)
     (match (xlate y 0 (curGroup y).pasid (curGroup y).fmode (y.cur.pc.signExtend 64) { fetch := true }).1 with
      | .ok xl => let line := homePa xl.pa / 128
                  let q := readLine y line
                  !isPoisoned q line && !readWaits q line && !(tracked (128 * line) && heldRead q (some (0, 0)) line)
      | _ => false) = true) := by decide +kernel
end Sys2Proof.Tests
end

/-! # Landing rings and register writes (R11, R335, R360 to R363, R386)

What each step of the landing rings does, case by case, then the key commands and the register writes; the statement's theorem at the end puts
them together. -/

namespace Sys2Proof.Proofs

open Sys2Proof Sys2Proof.Machine Sys2Proof.Laws

/-! ### The safe state (R450) -/

@[simp] theorem inert_of_safe {s : State} (t : State) (h : s.fw.safe = true) : inert s t = s := if_pos h

@[simp] theorem inert_of_running {s : State} (t : State) (h : s.fw.safe = false) : inert s t = t := if_neg (by simp [h])

@[simp] theorem inert_self (s : State) : inert s s = s := ite_self s

/-! ### The events as steps of the state -/

theorem exec_landingPacket (s : State) (r : Nat) (p : LandPacket) (seq : BitVec 64) :
    exec (.landingPacket r p seq) s = .next (inert s (arrivePacket s r p seq)) := rfl

theorem exec_landingRetry (s : State) (r : Nat) : exec (.landingRetry r) s = .next (inert s (landStep s r)) := rfl

theorem exec_landingDescWrite (s : State) (r off : Nat) (v : BitVec 64) :
    exec (.landingDescWrite r off v) s = .next (inert s (writeRing s r off v.toNat)) := rfl

theorem exec_mlctlWrite (s : State) (v : BitVec 64) : exec (.mlctlWrite v) s = .next (inert s (setMlctl s v)) := rfl

theorem exec_keycmdLoad (s : State) : exec .keycmdLoad s = .next (inert s (keyCommand s 1)) := rfl

theorem exec_keycmdClear (s : State) : exec .keycmdClear s = .next (inert s (keyCommand s 2)) := rfl

theorem exec_keycmdDone (s : State) :
    exec .keycmdDone s = .next { (cancel s .keycmdDone) with keys := { s.keys with busy := false } } := rfl

/-! ### A packet arrives (R361, R386) -/

theorem openPacket_plain {s : State} {n : Nat} (p : LandPacket) (seq : Dword) (h : lrKeyen n = false) :
    openPacket s n p seq = some p.payload := by simp [openPacket, h]

theorem openPacket_sealed {s : State} {n : Nat} (p : LandPacket) (seq : Dword) (h : lrKeyen n = true) :
    openPacket s n p seq = (aget s.keys.entries (lrKey n)).bind (fun ks =>
      gcmDecrypt ((ks.take 4).flatMap (fun w => bytesOf 8 w.toNat)) (bytesOf 4 (ks.getD 4 0).toNat ++ bytesOf 8 seq.toNat)
        p.header p.payload (bytesOf 16 p.tag.toNat)) := by simp [openPacket, h]

theorem arrivePacket_lost {s : State} {r : Nat} {p : LandPacket} {seq : Dword} (hr : r < 8192)
    (h : lrEn (ringDesc s r) = false ∨ openPacket s (ringDesc s r) p seq = none) :
    arrivePacket s r p seq = losePacket s r p.payload.length := by
  have hopen : (if lrEn (ringDesc s r) then openPacket s (ringDesc s r) p seq else none) = none := by
    rcases h with h | h <;> simp [h]
  unfold arrivePacket
  rw [if_neg (by omega)]
  simp only [hopen]

/-- A packet that opens meets its ring at once where no other of its ring is landing or held. -/
theorem arrivePacket_meets {s : State} {r : Nat} {p : LandPacket} {seq : Dword} {bs : List Byte} (hr : r < 8192)
    (hl : aget s.landing r = none) (hi : ∀ e ∈ s.ingress, e.1 ≠ r) (he : lrEn (ringDesc s r) = true)
    (ho : openPacket s (ringDesc s r) p seq = some bs) : arrivePacket s r p seq = meetRing s r bs := by
  have hfree : ((aget s.landing r).isSome || s.ingress.any (fun e => e.1 == r)) = false := by
    simpa [hl] using fun a b h => hi (a, b) h
  unfold arrivePacket
  rw [if_neg (by omega)]
  simp only [he, if_true, ho, hfree, Bool.false_eq_true, if_false]

theorem exec_landingPacket_lost {s : State} {r : Nat} {p : LandPacket} {seq : Dword} (hs : s.fw.safe = false) (hr : r < 8192)
    (h : lrEn (ringDesc s r) = false ∨ openPacket s (ringDesc s r) p seq = none) :
    exec (.landingPacket r p seq) s = .next (losePacket s r p.payload.length) := by
  rw [exec_landingPacket, inert_of_running _ hs, arrivePacket_lost hr h]

theorem exec_landingPacket_meets {s : State} {r : Nat} {p : LandPacket} {seq : Dword} {bs : List Byte} (hs : s.fw.safe = false)
    (hr : r < 8192) (hl : aget s.landing r = none) (hi : ∀ e ∈ s.ingress, e.1 ≠ r) (he : lrEn (ringDesc s r) = true)
    (ho : openPacket s (ringDesc s r) p seq = some bs) : exec (.landingPacket r p seq) s = .next (meetRing s r bs) := by
  rw [exec_landingPacket, inert_of_running _ hs, arrivePacket_meets hr hl hi he ho]

/-! ### A packet meets its ring (R361, R362) -/

/-- A packet begins to land: the writes before its own, its own, and that of the descriptor's PIDX are to follow one by one. -/
def beginLanding (s : State) (r n : Nat) (bs : List Byte) (before : List (Nat × List Byte)) : State :=
  send { s with landing := aset s.landing r (before ++ landWrites n bs ++ [(s.mmio.rtbase + 64 * r + 16, bytesOf 8 (lrPidx n + 1))]) }
    9001 (engineAgent 4) (.landingRetry r)

/-- The state once a full ring has given up its oldest slot: a packet that CIDX had not passed is lost. -/
def oustOldest (s : State) (r n : Nat) : State :=
  if ringCidx s n ≤ lrPidx n - 2 ^ lrLslot n then
    losePacket s r (memNat s (lrBase n + 128 * (1 + lrPidx n % 2 ^ lrLslot n * lrSlotl n) + 8) 2)
  else s

section
variable {s z : State} {r : Nat} {bs : List Byte}

theorem meetRing_tooLong (h : lrSlotl (ringDesc s r) * 128 - 16 < bs.length) : meetRing s r bs = losePacket s r bs.length := by
  simp [meetRing, h]

variable (he : lrEn (ringDesc s r) = true) (hfits : bs.length ≤ lrSlotl (ringDesc s r) * 128 - 16)
include he hfits

/-- A commit holds the header line: the packet waits (R220). -/
theorem meetRing_waits (hu : unitRead s [lrBase (ringDesc s r)] = none) :
    meetRing s r bs = after { s with ingress := (r, bs) :: s.ingress } 4 (.landingRetry r) := by
  simp [meetRing, he, Nat.not_lt.2 hfits, hu]

variable (hu : unitRead s [lrBase (ringDesc s r)] = some z)
include hu

theorem meetRing_room (hf : ringFull z (ringDesc s r) = false) : meetRing s r bs = beginLanding z r (ringDesc s r) bs [] := by
  simp [meetRing, beginLanding, portWrite, he, Nat.not_lt.2 hfits, hu, hf]

variable (hf : ringFull z (ringDesc s r) = true)
include hf

theorem meetRing_drops (hp : lrPolicy (ringDesc s r) = 0) : meetRing s r bs = losePacket z r bs.length := by
  simp [meetRing, he, Nat.not_lt.2 hfits, hu, hf, hp]

theorem meetRing_overwrites {y : State} (hy : y = oustOldest z r (ringDesc s r)) (hp : lrPolicy (ringDesc s r) = 1) :
    meetRing s r bs = beginLanding y r (ringDesc s r) bs
      [(y.mmio.rtbase + 64 * r + 24, bytesOf 8 (lrPidx (ringDesc s r) - 2 ^ lrLslot (ringDesc s r) + 1))] := by
  simp [meetRing, hy, oustOldest, beginLanding, portWrite, he, Nat.not_lt.2 hfits, hu, hf, hp]

theorem meetRing_noIngress (hp : lrPolicy (ringDesc s r) = 2) (hroom : ingressRoom z (ringDesc s r) bs.length = false) :
    meetRing s r bs = losePacket z r bs.length := by
  simp [meetRing, he, Nat.not_lt.2 hfits, hu, hf, hp, hroom]

theorem meetRing_holds (hp : lrPolicy (ringDesc s r) = 2) (hroom : ingressRoom z (ringDesc s r) bs.length = true) :
    meetRing s r bs = after { z with ingress := (r, bs) :: z.ingress } 1100 (.landingRetry r) := by
  simp [meetRing, he, Nat.not_lt.2 hfits, hu, hf, hp, hroom]

end

/-! ### The writes of a landing packet (R361) -/

theorem exec_landingRetry_running {s : State} (r : Nat) (hs : s.fw.safe = false) :
    exec (.landingRetry r) s = .next (landStep s r) := congrArg _ (inert_of_running _ hs)

theorem landStep_held {s : State} {r a : Nat} {bs : List Byte} {rest : List (Nat × List Byte)}
    (hl : aget s.landing r = some ((a, bs) :: rest)) (hw : writeHeld s [a / 128] = true) :
    landStep s r = after (cancel s (.landingRetry r)) 4 (.landingRetry r) := by simp [landStep, hl, hw]

theorem landStep_writes {s : State} {r a : Nat} {bs : List Byte} {rest : List (Nat × List Byte)}
    (hl : aget s.landing r = some ((a, bs) :: rest)) (hw : writeHeld s [a / 128] = false) (hr : rest ≠ []) :
    let y := performWrite s none (bytesAt a bs)
    landStep s r = send { y with landing := aset y.landing r rest } 9001 (engineAgent 4) (.landingRetry r) := by
  simp [landStep, hl, hw, hr]

/-! ### Writes of a ring's descriptor (R360) -/

/-- A field of one bit is that bit. -/
theorem fieldOf_bit {w : Nat} (v : BitVec w) (i : Nat) : (fieldOf v.toNat i i == 1) = v.getLsbD i := by
  have hw : i + 1 - i = 1 := by omega
  rw [fieldOf, hw, pow_one, BitVec.getLsbD, Nat.testBit_eq_decide_div_mod_eq]
  exact beq_eq_decide _ _

theorem exec_landingDescWrite_running {s : State} (r off : Nat) (v : BitVec 64) (hs : s.fw.safe = false) :
    exec (.landingDescWrite r off v) s = .next (writeRing s r off v.toNat) := congrArg _ (inert_of_running _ hs)

theorem writeRing_outside {s : State} {r off : Nat} (v : Nat) (h : 8192 ≤ r ∨ off % 8 ≠ 0 ∨ 16 ≤ off) : writeRing s r off v = s :=
  if_pos (by omega)

section
variable {s : State} {r : Nat} (v : BitVec 64) (hr : r < 8192)
include hr

theorem writeRing_base_enabled (he : lrEn (ringDesc s r) = true) : writeRing s r 0 v.toNat = s := by
  simp [writeRing, Nat.not_le.2 hr, he]

theorem writeRing_control_enabled (he : lrEn (ringDesc s r) = true) :
    writeRing s r 8 v.toNat = if v.getLsbD 19 then s else putRing s r (setField (ringDesc s r) 83 83 0) := by
  cases hv : v.getLsbD 19 <;> simp [writeRing, Nat.not_le.2 hr, he, fieldOf_bit, -BitVec.getLsbD_eq_getElem, hv]

theorem writeRing_base_disabled (he : lrEn (ringDesc s r) = false) :
    writeRing s r 0 v.toNat = putRing s r (maskWrite (ringDesc s r) 0 (2 ^ 64 - 1) v.toNat) := by
  simp [writeRing, Nat.not_le.2 hr, he]

theorem writeRing_control_disabled (he : lrEn (ringDesc s r) = false) :
    let m := maskWrite (ringDesc s r) 1 0x7FFFF v.toNat
    writeRing s r 8 v.toNat = putRing s r (if v.getLsbD 19 && ringOk s r m then setField m 83 83 1 else m) := by
  simp [writeRing, Nat.not_le.2 hr, he, fieldOf_bit]

end

/-! ### Key commands (R386) -/

/-- The key and salt as they are staged. -/
def stagedEntry (k : Keys) : List Dword := [sget 0 k.w 0, sget 0 k.w 1, sget 0 k.w 2, sget 0 k.w 3, k.salt.setWidth 64]

theorem keyCommand_busy {s : State} (cmd : Nat) (h : s.keys.busy = true) : keyCommand s cmd = s := if_pos (.inl h)

theorem keyCommand_load {s : State} (h : s.keys.busy = false) :
    keyCommand s 1 = after { s with keys := { s.keys with entries := aset s.keys.entries s.keys.idx.toNat (stagedEntry s.keys)
                                                          w := [], salt := 0, busy := true } } 64 .keycmdDone := by
  simp [keyCommand, stagedEntry, h]

theorem keyCommand_clear {s : State} (h : s.keys.busy = false) :
    keyCommand s 2 = after { s with keys := { s.keys with entries := adel s.keys.entries s.keys.idx.toNat
                                                          w := [], salt := 0, busy := true } } 64 .keycmdDone := by
  simp [keyCommand, h]

/-- KEYCMD 1 enters the staged key at the index alone, and clears the staging registers. -/
theorem exec_keycmdLoad_enters {s : State} (hs : s.fw.safe = false) (hb : s.keys.busy = false) :
    ∃ t, exec .keycmdLoad s = .next t ∧ aget t.keys.entries s.keys.idx.toNat = some (stagedEntry s.keys) ∧ t.keys.w = [] ∧ t.keys.salt = 0
      ∧ t.keys.busy = true ∧ ∀ j, j ≠ s.keys.idx.toNat → aget t.keys.entries j = aget s.keys.entries j := by
  refine ⟨keyCommand s 1, by rw [exec_keycmdLoad, inert_of_running _ hs], ?_⟩
  rw [keyCommand_load hb]
  exact ⟨aget_aset_self .., rfl, rfl, rfl, fun j hj => aget_aset_ne _ _ hj⟩

/-- KEYCMD 2 removes the entry at the index, and clears the staging registers. -/
theorem exec_keycmdClear_removes {s : State} (hs : s.fw.safe = false) (hb : s.keys.busy = false) :
    ∃ t, exec .keycmdClear s = .next t ∧ aget t.keys.entries s.keys.idx.toNat = none ∧ t.keys.w = [] ∧ t.keys.salt = 0
      ∧ t.keys.busy = true := by
  refine ⟨keyCommand s 2, by rw [exec_keycmdClear, inert_of_running _ hs], ?_⟩
  rw [keyCommand_clear hb]
  exact ⟨by simp [aget_adel], rfl, rfl, rfl⟩

/-! ### Register writes (R11, R335, R451) -/

/-- A write is of 4 or 8 aligned bytes of the register space, in the safe state of the mailbox's registers (R11, R450). -/
def regWriteTaken (s : State) (off size : Nat) : Prop :=
  (size = 4 ∨ size = 8) ∧ off % size = 0 ∧ off < 0x100000000 ∧ (s.fw.safe → 0x5100 ≤ off ∧ off < 0x5148)

theorem exec_registerWrite_ignored {s : State} {off size : Nat} (v : BitVec 64) (fm : Bool) (h : ¬ regWriteTaken s off size) :
    exec (.registerWrite off size v fm) s = .next s := congrArg _ (if_neg h)

/-- Outside the safe state a write of an aligned doubleword is a write of the register with the value itself. -/
theorem exec_registerWrite_dword {s : State} {off x : Nat} (fm : Bool) (hs : s.fw.safe = false) (ha : off % 8 = 0) (ho : off < 0x100000000)
    (hx : x < 2 ^ 64) : exec (.registerWrite off 8 (BitVec.ofNat 64 x) fm) s = .next (regWrite s 0 fm off 8 x) := by
  have hv : (BitVec.ofNat 64 x).toNat % 2 ^ (8 * 8) = x := by
    rw [BitVec.toNat_ofNat, Nat.mod_mod, Nat.mod_eq_of_lt hx]
  have htaken : regWriteTaken s off 8 := ⟨.inr rfl, ha, ho, by simp [hs]⟩
  exact (congrArg _ (if_pos htaken)).trans (by rw [hv])

@[simp] theorem mergeWrite_dword (old o v : Nat) : mergeWrite old o 8 v = v := if_pos rfl

section
variable (s : State) (fm : Bool) (x : Nat)

/-- QTBASE takes the address of a 4 KiB page while no queue is enabled. -/
theorem regWrite_qtbase : regWrite s 0 fm 0x2000 8 x
    = if anyQueueOn s then s else { s with mmio := { s.mmio with qtbase := x / 4096 * 4096 } } := by
  simp [regWrite, alignDown]

/-- RSVSTAT's UNPROT clears by a one. -/
theorem regWrite_rsvstat : regWrite s 0 fm 0x1000 8 x
    = if x / 2 ^ 12 % 2 = 1 then { s with mmio := { s.mmio with unprot := false } } else s := by
  simp [regWrite]

theorem regWrite_rackctl : regWrite s 0 fm 0x2050 8 x = { s with mmio := { s.mmio with
    swapen := x % 2 == 1, marchen := x / 2 % 2 == 1, imb := BitVec.ofNat 8 (x / 2 ^ 8) } } := by
  simp [regWrite, ctlWrite]

/-- Registers that only read, by their offsets: SAVESZ, the log's producer, KEYSTAT, the cork map and the live count, CTXMAP, the remap and bank
tables, the counters. -/
def readOnlyRegs : List Nat := [0x2028, 0x2040, 0x3038, 0x4000, 0x4100, 0x6000, 0x100000, 0x300000, 0x10000000]

theorem regWrite_readOnly : ∀ o ∈ readOnlyRegs, regWrite s 0 fm o 8 x = s := by
  simp [readOnlyRegs, regWrite]

/-- Registers of the firmware block that the host cannot write (R451). -/
def firmwareRegs : List Nat := [0x5000, 0x5010, 0x5018, 0x5020, 0x5028, 0x5030, 0x5040, 0x5048, 0x5050]

theorem regWrite_firmware_host : ∀ o ∈ firmwareRegs, regWrite s 0 false o 8 x = s := by
  simp [firmwareRegs, regWrite, fwBlockWrite]

end

theorem aligned_of_mem_readOnlyRegs : ∀ o ∈ readOnlyRegs, o % 8 = 0 ∧ o < 0x100000000 := by decide

theorem aligned_of_mem_firmwareRegs : ∀ o ∈ firmwareRegs, o % 8 = 0 ∧ o < 0x100000000 := by decide

/-! ### The statement -/

/-- Settles O52: each clause is the case of its step above. -/
theorem landingAndRegisterSteps : Obligations.LandingAndRegisterSteps := by
  unfold Obligations.LandingAndRegisterSteps
  intro s z ring off size hdr bs tag seq v fm a line rest n len lost writes arrive
  refine ⟨fun hs hr hl hi => ⟨exec_landingPacket_lost hs hr, fun p he ho => ?opened⟩, openPacket_plain _ _, openPacket_sealed _ _,
    fun hs => ?safe, rfl, fun hs hl hw => ?held, fun hs hl hw hrest => ?written, fun hs h => ?outside,
    fun hs hr he => ⟨?disable, ?baseKept⟩, fun hs hr he => ⟨?base, ?control⟩, fun hs => ?mlctl,
    fun hs hb => ⟨exec_keycmdLoad_enters hs hb, exec_keycmdClear_removes hs hb⟩, fun hb => ?busy, ⟨_, exec_keycmdDone s, rfl⟩,
    fun h => exec_registerWrite_ignored v fm ?illSized, fun hs h => exec_registerWrite_ignored v fm ?mailboxOnly, fun hs => ?registers⟩
  case opened =>
    have meets {t : State} (h : meetRing s ring p = t) : exec arrive s = .next t :=
      (exec_landingPacket_meets hs hr hl hi he ho).trans (congrArg _ h)
    refine ⟨fun hlong => meets (meetRing_tooLong hlong), fun hfits hu => meets (meetRing_waits he hfits hu), fun hfits hu => ?_⟩
    intro lands old ousted
    have hy : ousted = oustOldest z ring n := rfl
    exact ⟨fun hf => meets (meetRing_room he hfits hu hf), fun hf hp => meets (meetRing_overwrites he hfits hu hf hy hp),
      fun hf hp => meets (meetRing_drops he hfits hu hf hp), fun hf hp hroom => meets (meetRing_noIngress he hfits hu hf hp hroom),
      fun hf hp hroom => meets (meetRing_holds he hfits hu hf hp hroom)⟩
  case safe => simp only [arrive, exec_landingPacket, exec_landingRetry, exec_landingDescWrite, inert_of_safe _ hs, and_self]
  case held => rw [exec_landingRetry_running _ hs, landStep_held hl hw]
  case written => rw [exec_landingRetry_running _ hs, landStep_writes hl hw hrest]
  case outside => rw [exec_landingDescWrite_running _ _ _ hs, writeRing_outside _ h]
  case disable => rw [exec_landingDescWrite_running _ _ _ hs, writeRing_control_enabled _ hr he]
  case baseKept => rw [exec_landingDescWrite_running _ _ _ hs, writeRing_base_enabled _ hr he]
  case base => rw [exec_landingDescWrite_running _ _ _ hs, writeRing_base_disabled _ hr he]
  case control => rw [exec_landingDescWrite_running _ _ _ hs, writeRing_control_disabled _ hr he]
  case mlctl => exact ⟨setMlctl s v, by rw [exec_mlctlWrite, inert_of_running _ hs], rfl, rfl⟩
  case busy => rw [exec_keycmdLoad, exec_keycmdClear, keyCommand_busy _ hb, keyCommand_busy _ hb, inert_self]; exact ⟨rfl, rfl⟩
  case illSized => rintro ⟨hsize, halign, hoff, -⟩; omega
  case mailboxOnly => rintro ⟨-, -, -, hmail⟩; have := hmail hs; omega
  case registers =>
    have wrote (o x : Nat) (ha : o % 8 = 0 ∧ o < 0x100000000) (hx : x < 2 ^ 64) : writes o x = .next (regWrite s 0 fm o 8 x) :=
      exec_registerWrite_dword fm hs ha.1 ha.2 hx
    refine ⟨fun hq x hx => ?_, fun hq x hx => ?_, fun x hx => ?_, fun x hx => ?_, fun o ho x hx => ?_, fun hfm o ho x hx => ?_⟩
    · rw [wrote _ _ (by decide) hx, regWrite_qtbase, if_neg (by simp [hq])]
    · rw [wrote _ _ (by decide) hx, regWrite_qtbase, if_pos hq]
    · rw [wrote _ _ (by decide) hx, regWrite_rsvstat]
    · rw [wrote _ _ (by decide) hx, regWrite_rackctl]
    · rw [wrote _ _ (aligned_of_mem_readOnlyRegs o ho) hx, regWrite_readOnly s fm x o ho]
    · rw [wrote _ _ (aligned_of_mem_firmwareRegs o ho) hx, hfm, regWrite_firmware_host s x o ho]

end Sys2Proof.Proofs

/-! # The issuing context of a flagged instruction's repeat (R30, R182)

`aim` issues the repeat of a flagged instruction with that instruction's threads at its address, whatever set R30 would pick. -/

namespace Sys2Proof.Proofs

open Sys2Proof Sys2Proof.Machine Sys2Proof.Laws

/-- A group whose flagged instruction repeats issues with its threads at its address. -/
theorem aim_cur_of_replay (s : State) (c slot : Nat) {g : Group} {ls : List Nat} {pc : PC} (h : g.replay = some (ls, pc)) :
    (aim s c slot g).cur = { core := c, slot := slot, lanes := ls, pc := pc } := by
  simp [aim, h]

/-- A group whose threads stand at address 0, but for thread 3, whose instruction at address 8 a shadow latch has flagged (R182). -/
def repeating : Group := { r := { pc := [(3, 8)] }, replay := some ([3], 8) }

/-- A device at rest with this group in slot 0 of core 0. -/
def repeatingDevice : State := { cores := [(0, { groups := [(0, repeating)] })] }

/-- The group's turn has come. -/
theorem nextIssue_repeatingDevice : nextIssue repeatingDevice = some (0, 0) ∧ groupReady repeatingDevice 0 0 repeating = true := by
  decide +kernel

/-- R30 alone would pick the threads at address 0. -/
theorem sget_pc_activeSet_repeating : sget 0 repeating.r.pc ((activeSet repeatingDevice repeating).headD 0) = 0 := by decide +kernel

/-- Refutes O58: the clause on the issuing context is claimed of every group, but one whose flagged instruction repeats issues with that
instruction's threads at its address (R182), which need not be the active set of R30 at its PC. -/
theorem not_stepRunsTheDecodedInstruction : ¬ Obligations.StepRunsTheDecodedInstruction := by
  unfold Obligations.StepRunsTheDecodedInstruction
  intro h
  obtain ⟨-, hcur, -⟩ := h {} repeatingDevice {} {} [] 0 0 0 repeating [] .nop .stall .truncated ⟨0, false⟩
  have hpc : (8 : PC) = sget 0 repeating.r.pc ((activeSet repeatingDevice repeating).headD 0) :=
    congrArg Cur.pc ((aim_cur_of_replay repeatingDevice 0 0 rfl).symm.trans hcur)
  rw [sget_pc_activeSet_repeating] at hpc
  exact absurd hpc (by decide)

end Sys2Proof.Proofs

/-! # Folds and tables

What a fold over a list establishes, and reads of tables built from a list of keys. -/

namespace Sys2Proof.Proofs

open Sys2Proof Sys2Proof.Machine Sys2Proof.Laws

/-- What one step of a fold establishes and every step keeps holds at the fold's end. -/
theorem foldl_establishes {α β : Type} {P : β → Prop} {op : β → α → β} {ls : List α} {a : α} (ha : a ∈ ls) (make : ∀ b, P (op b a))
    (keep : ∀ b x, P b → P (op b x)) (b : β) : P (ls.foldl op b) := by
  induction ls generalizing b with
  | nil => simp at ha
  | cons x xs ih =>
    rcases List.mem_cons.1 ha with rfl | hx
    · exact List.foldlRecOn xs op (make b) (fun t ht y _ => keep t y ht)
    · exact ih hx _

theorem mem_of_aget {α : Type} {m : Sparse α} {k : Nat} {v : α} (h : aget m k = some v) : (k, v) ∈ m := by
  induction m with
  | nil => simp [aget] at h
  | cons e t ih =>
    obtain ⟨j, w⟩ := e
    simp only [aget] at h
    split at h
    next hk => subst hk; obtain rfl := Option.some.inj h; exact List.mem_cons_self
    next => exact List.mem_cons_of_mem _ (ih h)

/-- A table that gives each key of a list the same value. -/
theorem sget_map_const {α : Type} (d v : α) {ls : List Nat} {i : Nat} (h : i ∈ ls) : sget d (ls.map (·, v)) i = v := by
  induction ls with
  | nil => simp at h
  | cons x xs ih =>
    rcases List.mem_cons.1 h with rfl | hx
    · simp [sget]
    · simp only [List.map_cons, sget, ih hx, ite_self]

/-- Every thread of a fresh group stands at its entry (R97). -/
theorem sget_freshRegs_pc (entry : PC) (icall : Bool) {l : Nat} (h : l < 32) : sget 0 (freshRegs entry icall).pc l = entry := by
  unfold freshRegs
  by_cases he : entry = 0
  · simp [he, sget]
  · rw [if_neg he]; exact sget_map_const 0 entry (List.mem_range.2 h)

end Sys2Proof.Proofs


/-! # Resets and power (R19, R444 to R450, R456)

A reset leaves what `Booted` names; a boot either stops in the safe state or starts the vintner cores (`boot_cases`), and the clauses of the
statement follow from those two facts. -/

namespace Sys2Proof.Proofs

open Sys2Proof Sys2Proof.Machine Sys2Proof.Laws

/-! ### The events as steps of the state -/

theorem exec_powerOnReset (s : State) : exec .powerOnReset s = .next (boot (cutFlash s)) := rfl

theorem exec_powerOff (s : State) : exec .powerOff s = .next (losePower s) := rfl

theorem exec_hotReset_safe {s : State} (h : s.fw.safe = true) : exec .hotReset s = .next (boot (cutFlash s) (corkedCores s) false) :=
  congrArg _ (if_pos h)

theorem exec_hotReset_running {s : State} (h : s.fw.safe = false) : exec .hotReset s = .next (dispatchAll (holdQueues s 0)) :=
  congrArg _ (if_neg (by simp [h]))

theorem firmwareSteps_complete (s : State) (v : BitVec 64) (w : BitVec 32) (d i core cause : Nat) :
    ∀ e ∈ [Instr.imgchk v, .imageCheckDone, .flashRead v, .flashProgram v, .flashErase v, .flashOpDone, .qhold w, .hbarm v, .hbeat d w,
        .heartbeatTimeout, .mbxStatus, .mbxReset, .mbxUpdate, .spdmRequest i, .fatalError core cause, .dumpTimeout],
      ∃ t, exec e s = .next t := by
  simp only [List.mem_cons, List.not_mem_nil, or_false, forall_eq_or_imp, forall_eq]
  exact ⟨⟨_, rfl⟩, ⟨_, rfl⟩, ⟨_, rfl⟩, ⟨_, rfl⟩, ⟨_, rfl⟩, ⟨_, rfl⟩, ⟨_, rfl⟩, ⟨_, rfl⟩, ⟨_, rfl⟩, ⟨_, rfl⟩, ⟨_, rfl⟩, ⟨_, rfl⟩, ⟨_, rfl⟩,
    ⟨_, rfl⟩, ⟨_, rfl⟩, ⟨_, rfl⟩⟩

theorem spoilSector_eq (s : State) (a : Nat) : ∃ kvs n, spoilSector s a = { flashPut s kvs with free := n } := ⟨_, _, rfl⟩

theorem putSectors_eq (s : State) (op fa ma len n : Nat) : ∃ kvs, putSectors s op fa ma len n = flashPut s kvs := ⟨_, rfl⟩

/-- A flash operation cut short changes nothing but the flash and the count of free values (R447). -/
theorem cutFlash_eq (s : State) : ∃ f n, cutFlash s = { s with flash := f, free := n } := by
  unfold cutFlash
  split
  next => exact ⟨s.flash, s.free, rfl⟩
  next op fa ma len _ =>
    split
    next => exact ⟨s.flash, s.free, rfl⟩
    next =>
      dsimp only
      generalize Config.freeNat s.free % sectorCount len = k
      obtain ⟨kvs, hput⟩ := putSectors_eq s op fa ma len k
      obtain ⟨kvs', n, hspoil⟩ := spoilSector_eq (putSectors s op fa ma len k) (fa + 4096 * k)
      exact ⟨_, n, by rw [hspoil, hput]; rfl⟩

theorem cutFlash_clk (s : State) : (cutFlash s).clk = s.clk := by
  obtain ⟨f, n, h⟩ := cutFlash_eq s
  rw [h]

theorem cutFlash_fw (s : State) : (cutFlash s).fw = s.fw := by
  obtain ⟨f, n, h⟩ := cutFlash_eq s
  rw [h]

/-! ### What a reset leaves (R5, R93, R451) -/

/-- `t` is a boot of `s` in progress or at its end: the flash is kept, what is volatile is at its reset value, and what only power-on reset
clears is kept by any other. -/
structure Booted (s : State) (onPower : Bool) (t : State) : Prop where
  flash : t.flash = s.flash
  power : t.power = true
  grids : t.grids = []
  hslots : t.hslots = []
  keys : t.keys = {}
  reds : t.reds = []
  clk : t.clk = if onPower then 0 else s.clk
  liveupd : t.fw.liveupd = if onPower then false else s.fw.liveupd

theorem booted_afterReset (s : State) (power : Bool) : Booted s power (afterReset s power) := by
  cases power <;> exact ⟨rfl, rfl, rfl, rfl, rfl, rfl, rfl, rfl⟩

theorem Booted.withCores {s t : State} {power : Bool} (h : Booted s power t) (ks : Sparse Core) : Booted s power { t with cores := ks } :=
  ⟨h.flash, h.power, h.grids, h.hslots, h.keys, h.reds, h.clk, h.liveupd⟩

/-! ### The start of the vintner cores (R170, R448) -/

/-- The group in slot 0 of core `c` is as boot starts it: in F-mode, 256 registers, all 0, and every thread at `entry`. -/
def StandsAt (entry : PC) (c : Nat) (t : State) : Prop :=
  ∃ g, groupAt t c 0 = some g ∧ g.fmode = true ∧ g.a = 256 ∧ g.r.k = [] ∧ g.r.v = [] ∧ ∀ l < 32, sget 0 g.r.pc l = entry

theorem coreAt_startFmode_ne {s : State} {c d : Nat} (entry : PC) (h : d ≠ c) : coreAt (startFmode s c entry) d = coreAt s d := by
  rw [startFmode, setTeam, coreAt_modCore, if_neg h, setGroup, coreAt_modCore, if_neg h]
  rfl

theorem role_startFmode (s : State) (c d : Nat) (entry : PC) : (coreAt (startFmode s c entry) d).role = (coreAt s d).role := by
  by_cases h : d = c
  · subst h; rw [startFmode, setTeam, setGroup, coreAt_modCore_self, coreAt_modCore_self]; rfl
  · rw [coreAt_startFmode_ne entry h]

/-- The group that `startFmode` places. -/
def fmodeGroup (s : State) (c : Nat) (entry : PC) : Group :=
  { r := freshRegs entry false, a := 256, fmode := true, f := { vec := entry.signExtend 64, msel := BitVec.ofNat 8 c }, uid := s.uids
    rsbase := hbmEnd + 0x10000000 + 8192 * c }

theorem groupAt_startFmode (s : State) (c : Nat) (entry : PC) :
    groupAt (startFmode s c entry) c 0 = some (fmodeGroup s c entry) := by
  rw [startFmode, setTeam, setGroup, groupAt, coreAt_modCore_self, coreAt_modCore_self]
  exact aget_aset_self ..

theorem standsAt_startFmode (s : State) (c : Nat) (entry : PC) : StandsAt entry c (startFmode s c entry) :=
  ⟨fmodeGroup s c entry, groupAt_startFmode s c entry, rfl, rfl, rfl, rfl, fun _ hl => sget_freshRegs_pc entry false hl⟩

theorem fw_startFmode (s : State) (c : Nat) (entry : PC) : (startFmode s c entry).fw = s.fw := rfl

theorem StandsAt.startFmode {entry : PC} {c : Nat} {t : State} (h : StandsAt entry c t) (d : Nat) :
    StandsAt entry c (startFmode t d entry) := by
  by_cases hd : c = d
  · subst hd; exact standsAt_startFmode t c entry
  · obtain ⟨g, hg, hrest⟩ := h
    exact ⟨g, by rw [← hg, groupAt, groupAt, coreAt_startFmode_ne entry hd], hrest⟩

theorem Booted.startVintners {s t : State} {power : Bool} (h : Booted s power t) (entry : PC) : Booted s power (startVintners t entry) :=
  List.foldlRecOn (motive := Booted s power) (vintners t) (fun s c => startFmode s c entry) h
    (fun _ h _ _ => ⟨h.flash, h.power, h.grids, h.hslots, h.keys, h.reds, h.clk, h.liveupd⟩)

theorem fw_startVintners (s : State) (entry : PC) : (startVintners s entry).fw = s.fw :=
  List.foldlRecOn (motive := fun t => t.fw = s.fw) (vintners s) (fun s c => startFmode s c entry) rfl
    (fun t h d _ => (fw_startFmode t d entry).trans h)

theorem role_startVintners (s : State) (entry : PC) (c : Nat) : (coreAt (startVintners s entry) c).role = (coreAt s c).role :=
  List.foldlRecOn (motive := fun t => (coreAt t c).role = (coreAt s c).role) (vintners s) (fun s c => startFmode s c entry) rfl
    (fun t h d _ => (role_startFmode t d c entry).trans h)

/-- A core in another role is left alone. -/
theorem coreAt_startVintners_of_role {s : State} {c : Nat} (entry : PC) (h : (coreAt s c).role ≠ 1) :
    coreAt (startVintners s entry) c = coreAt s c := by
  refine List.foldlRecOn (motive := fun t => coreAt t c = coreAt s c) (vintners s) (fun s c => startFmode s c entry) rfl
    (fun t ht d hd => ?_)
  have hne : c ≠ d := by
    rintro rfl
    exact h (by simpa using (List.mem_filter.1 hd).2)
  rw [coreAt_startFmode_ne entry hne, ht]

theorem standsAt_startVintners {s : State} {c : Nat} (entry : PC) (hc : c < 256) (h : (coreAt s c).role = 1) :
    StandsAt entry c (startVintners s entry) :=
  foldl_establishes (List.mem_filter.2 ⟨List.mem_range.2 hc, by simp [h]⟩) (fun t => standsAt_startFmode t c entry)
    (fun _ d h => h.startFmode d) s

/-! ### The cores that stay corked (R19) -/

/-- A corked core as a boot makes it. -/
def bootedCork (why : Nat) : Core := { role := 3, why := why, margin := { corked := true } }

theorem withCorks_of_mem {corks : Sparse Nat} {c why : Nat} (h : (c, why) ∈ corks) :
    ∃ why, aget (withCorks corks) c = some (bootedCork why) := by
  refine foldl_establishes (P := fun m => ∃ why, aget m c = some (bootedCork why)) h (fun m => ⟨why, aget_aset_self ..⟩) ?_ _
  rintro m ⟨d, why'⟩ ⟨w, hw⟩
  by_cases hd : c = d
  · subst hd; exact ⟨why', aget_aset_self ..⟩
  · exact ⟨w, by rw [aget_aset_ne _ _ hd, hw]⟩

theorem mem_corkedCores {s : State} {c : Nat} (h : (coreAt s c).role = 3) : ∃ why, (c, why) ∈ corkedCores s := by
  unfold coreAt at h
  cases hk : aget s.cores c with
  | none => simp [hk] at h
  | some k =>
    simp only [hk, Option.getD_some] at h
    exact ⟨k.why, List.mem_map.2 ⟨(c, k), List.mem_filter.2 ⟨mem_of_aget hk, by simp [h]⟩, rfl⟩⟩

/-! ### Boot (R447 to R449) -/

theorem markerAt_slot_le {s : State} {i seq slot : Nat} (h : markerAt s i = some (seq, slot)) : slot ≤ 1 := by
  unfold markerAt at h
  dsimp only at h
  split at h
  next hm => obtain ⟨-, hslot, -⟩ := hm; cases h; exact hslot
  next => cases h

/-- Boot chooses flash slot 0 or 1: what the newest valid marker copy names, the other slot, or the one with the higher sequence number. -/
theorem bootChoice_slot_le {s : State} {slot : Nat} {mark : Bool} (h : bootChoice s = some (slot, mark)) : slot ≤ 1 := by
  have named {x : Nat} (hx : x ≤ 1)
      (h : (if slotOk s x then some (x, true) else if slotOk s (1 - x) then some (1 - x, false) else none) = some (slot, mark)) : slot ≤ 1 := by
    grind
  unfold bootChoice at h
  dsimp only at h
  cases h0 : markerAt s 0 with
  | none =>
    cases h1 : markerAt s 1 with
    | none => simp only [h0, h1] at h; grind
    | some n => simp only [h0, h1] at h; exact named (markerAt_slot_le h1) h
  | some m =>
    cases h1 : markerAt s 1 with
    | none => simp only [h0, h1] at h; exact named (markerAt_slot_le h0) h
    | some n =>
      simp only [h0, h1] at h
      refine named ?_ h
      split
      · exact markerAt_slot_le h1
      · exact markerAt_slot_le h0

/-- Boot stops in the safe state, with its stage and failing unit (R449, R450). -/
def bootStop (s : State) (stage cause die unit : Nat) : State :=
  { enterSafe s cause with fw := { (enterSafe s cause).fw with stage := stage, stdie := die, stunit := unit } }

theorem Booted.bootStop {s t : State} {power : Bool} (h : Booted s power t) (stage cause die unit : Nat) :
    Booted s power (bootStop t stage cause die unit) :=
  ⟨h.flash, h.power, h.grids, h.hslots, h.keys, h.reds, h.clk, h.liveupd⟩

/-- The device before self-test. -/
def heldDevice (s : State) (corks : Sparse Nat) (power : Bool) : State := { afterReset s power with cores := heldCores corks }

/-- The device with its cores, links and stacks in service, and PASID 0's context (R448, R449, R452). -/
def servedDevice (s : State) (corks : Sparse Nat) (power : Bool) : State :=
  let z := { heldDevice s corks power with cores := withCorks corks, linkDown := Config.linkFail }
  let z := match bootStacks with
    | [] => z
    | x :: _ => { modStack z x (fun k => { k with lost := true }) with mmio := { z.mmio with lost0 := BitVec.ofNat 5 x, degr := true } }
  ctrAdd { z with ctxs := [(0, { pasid := 0 })] } (ctrKey 7 0 1) (bootStacks.length + popBits Config.linkFail)

/-- The bytes of the image in a flash slot (R445). -/
def imageBytes (s : State) (slot : Nat) : List Byte := (List.range (flashNat s (0x1000000 * slot + 12) 4)).map (slotByte s slot)

/-- The device with those bytes in the firmware region (R448). -/
def withImage (s : State) (slot : Nat) : State := memPut s (bytesAt fwRegion (imageBytes s slot))

/-- The image of a flash slot is in place, and the vintner cores are to start (R447, R448). -/
def imagePlaced (s : State) (slot : Nat) (mark : Bool) : State :=
  let z := withImage s slot
  { z with
    fw := { z.fw with bslot := BitVec.ofNat 2 slot, bymark := mark, stage := 7, area := fwRegion
                      dumpEnt := flashNat z (0x1000000 * slot + 32) 8, digest1 := sha384 (imageBytes s slot) }
    mmio := { z.mmio with savesz := 8192 + 0x200000 * liveCount z }
    timers := bootTimers z }

/-- The entry of the image in a flash slot (R445). -/
def imageEntry (t : State) (slot : Nat) : PC := BitVec.ofNat 57 (fwRegion + flashNat t (0x1000000 * slot + 24) 8)

/-- A die without a core that could be its vintner core (R449). -/
def dieWithoutVintner : Option Nat :=
  (List.range 4).find? (fun d => ((List.range 64).map (64 * d + ·)).all (fun c => (bootRole c).1 != 1))

/-- The stages of a boot: each stops in the safe state with its failure, or goes on to the next. -/
theorem boot_eq (s : State) (corks : Sparse Nat) (power : Bool) : boot s corks power
    = match Config.bootFail with
      | (bf, bd, bu) =>
        if bf = 6 then bootStop (heldDevice s corks power) 1 6 bd bu
        else if bf = 1 ∨ bf = 2 ∨ bf = 4 then bootStop (heldDevice s corks power) 3 bf bd bu
        else if 2 ≤ bootStacks.length then
          bootStop (heldDevice s corks power) 3 3 (bootStacks.getD 1 0 / 4) (bootStacks.getD 1 0)
        else match dieWithoutVintner with
          | some d => bootStop { heldDevice s corks power with cores := withCorks corks } 4 7 d 0
          | none => match bootChoice (servedDevice s corks power) with
            | none => bootStop (servedDevice s corks power) 6 5 0 0
            | some (slot, mark) =>
              startVintners (imagePlaced (servedDevice s corks power) slot mark)
                (imageEntry (withImage (servedDevice s corks power) slot) slot) := rfl

/-- A boot has put an image in place, and is about to start the vintner cores. -/
structure ImageIn (s : State) (corks : Sparse Nat) (onPower : Bool) (slot : Nat) (t : State) : Prop extends Booted s onPower t where
  stage : t.fw.stage = 7
  bslot : t.fw.bslot = BitVec.ofNat 2 slot
  cores : t.cores = withCorks corks

theorem booted_heldDevice (s : State) (corks : Sparse Nat) (power : Bool) : Booted s power (heldDevice s corks power) := by
  cases power <;> exact ⟨rfl, rfl, rfl, rfl, rfl, rfl, rfl, rfl⟩

theorem booted_servedDevice (s : State) (corks : Sparse Nat) (power : Bool) : Booted s power (servedDevice s corks power) := by
  obtain ⟨h1, h2, h3, h4, h5, h6, h7, h8⟩ := booted_heldDevice s corks power
  unfold servedDevice
  cases bootStacks <;> exact ⟨h1, h2, h3, h4, h5, h6, h7, h8⟩

theorem cores_servedDevice (s : State) (corks : Sparse Nat) (power : Bool) : (servedDevice s corks power).cores = withCorks corks := by
  unfold servedDevice
  cases bootStacks <;> rfl

theorem imagePlaced_eq (t : State) (slot : Nat) (mark : Bool) : ∃ m ent dig mm tm, imagePlaced t slot mark
    = { t with mem := m, mmio := mm, timers := tm,
               fw := { t.fw with bslot := BitVec.ofNat 2 slot, bymark := mark, stage := 7, area := fwRegion, dumpEnt := ent, digest1 := dig } } :=
  ⟨_, _, _, _, _, rfl⟩

theorem flash_imagePlaced (t : State) (slot : Nat) (mark : Bool) : (imagePlaced t slot mark).flash = t.flash := by
  obtain ⟨m, ent, dig, mm, tm, heq⟩ := imagePlaced_eq t slot mark
  rw [heq]

theorem imageIn_imagePlaced {s t : State} {corks : Sparse Nat} {power : Bool} (h : Booted s power t) (hc : t.cores = withCorks corks)
    (slot : Nat) (mark : Bool) : ImageIn s corks power slot (imagePlaced t slot mark) := by
  obtain ⟨m, ent, dig, mm, tm, heq⟩ := imagePlaced_eq t slot mark
  rw [heq]
  exact ⟨⟨h.flash, h.power, h.grids, h.hslots, h.keys, h.reds, h.clk, h.liveupd⟩, rfl, rfl, hc⟩

theorem flash_withImage (s : State) (slot : Nat) : (withImage s slot).flash = s.flash := rfl

theorem imageEntry_congr {s t : State} (h : s.flash = t.flash) (slot : Nat) : imageEntry s slot = imageEntry t slot := by
  simp only [imageEntry, flashNat, flashByte, h]

theorem imageEntry_withImage (s : State) (slot : Nat) (mark : Bool) :
    imageEntry (withImage s slot) slot = imageEntry (imagePlaced s slot mark) slot :=
  imageEntry_congr ((flash_withImage s slot).trans (flash_imagePlaced s slot mark).symm) slot

/-- A boot ends in the safe state, or starts the image of flash slot 0 or 1 on every vintner core. -/
theorem boot_cases (s : State) (corks : Sparse Nat) (power : Bool) :
    (∃ t stage cause die unit, Booted s power t ∧ boot s corks power = bootStop t stage cause die unit)
    ∨ (∃ t slot, ImageIn s corks power slot t ∧ slot ≤ 1 ∧ boot s corks power = startVintners t (imageEntry t slot)) := by
  have hheld := booted_heldDevice s corks power
  have hserved := booted_servedDevice s corks power
  rw [boot_eq]
  obtain ⟨bf, bd, bu⟩ := Config.bootFail
  dsimp only
  by_cases h6 : bf = 6
  · exact .inl ⟨_, _, _, _, _, hheld, if_pos h6⟩
  rw [if_neg h6]
  by_cases h124 : bf = 1 ∨ bf = 2 ∨ bf = 4
  · exact .inl ⟨_, _, _, _, _, hheld, if_pos h124⟩
  rw [if_neg h124]
  by_cases hlost : 2 ≤ bootStacks.length
  · exact .inl ⟨_, _, _, _, _, hheld, if_pos hlost⟩
  rw [if_neg hlost]
  cases dieWithoutVintner with
  | some d => exact .inl ⟨_, _, _, _, _, hheld.withCores (withCorks corks), rfl⟩
  | none =>
    cases hc : bootChoice (servedDevice s corks power) with
    | none => exact .inl ⟨_, _, _, _, _, hserved, rfl⟩
    | some x =>
      refine .inr ⟨_, x.1, imageIn_imagePlaced hserved (cores_servedDevice s corks power) x.1 x.2, bootChoice_slot_le hc, ?_⟩
      rw [← imageEntry_withImage]

theorem booted_boot (s : State) (corks : Sparse Nat) (power : Bool) : Booted s power (boot s corks power) := by
  obtain ⟨t, st, cause, die, unit, ht, h⟩ | ⟨t, slot, ht, -, h⟩ := boot_cases s corks power
  · rw [h]; exact ht.bootStop st cause die unit
  · rw [h]; exact ht.startVintners (imageEntry t slot)

/-- The end of a boot: the safe state, or the image of flash slot 0 or 1 running on every vintner core (R448 to R450). -/
theorem boot_ends (s : State) (corks : Sparse Nat) (power : Bool) :
    let t := boot s corks power
    t.fw.safe = true ∨ t.fw.stage = 7 ∧ t.fw.bslot.toNat ≤ 1
      ∧ ∀ c < 256, (coreAt t c).role = 1 → StandsAt (imageEntry t t.fw.bslot.toNat) c t := by
  obtain ⟨t, st, cause, die, unit, -, h⟩ | ⟨t, slot, ht, hslot, h⟩ := boot_cases s corks power
  · rw [h]; exact .inl rfl
  · have hflash : (startVintners t (imageEntry t slot)).flash = t.flash := (ht.startVintners _).flash.trans ht.flash.symm
    have hbslot : (startVintners t (imageEntry t slot)).fw.bslot.toNat = slot := by
      rw [fw_startVintners, ht.bslot, BitVec.toNat_ofNat, Nat.mod_eq_of_lt (by omega)]
    rw [h]
    refine .inr ⟨by rw [fw_startVintners, ht.stage], by omega, fun c hc hrole => ?_⟩
    rw [role_startVintners] at hrole
    rw [hbslot, imageEntry_congr hflash]
    exact standsAt_startVintners _ hc hrole

/-- A boot that does not end in the safe state leaves a core that was corked corked, and without a group (R19). -/
theorem boot_keeps_cork {s : State} {corks : Sparse Nat} {power : Bool} {c why : Nat} (hc : (c, why) ∈ corks)
    (hsafe : (boot s corks power).fw.safe = false) :
    (coreAt (boot s corks power) c).role = 3 ∧ groupAt (boot s corks power) c 0 = none := by
  obtain ⟨t, st, cause, die, unit, -, h⟩ | ⟨t, slot, ht, -, h⟩ := boot_cases s corks power
  · rw [h] at hsafe; cases hsafe
  · obtain ⟨w, hw⟩ := withCorks_of_mem hc
    have hcork : coreAt t c = bootedCork w := by rw [coreAt, ht.cores, hw]; rfl
    have hkept : coreAt (boot s corks power) c = bootedCork w := by
      rw [h, coreAt_startVintners_of_role _ (by simp [hcork, bootedCork]), hcork]
    rw [groupAt, hkept]
    exact ⟨rfl, rfl⟩

/-! ### The statement -/

/-- Settles O53: each boot is one of the two ends of `boot_ends`, and leaves what `Booted` names. -/
theorem resetAndPowerSteps : Obligations.ResetAndPowerSteps := by
  unfold Obligations.ResetAndPowerSteps
  refine ⟨fun s => ?_, firmwareSteps_complete⟩
  intro y
  have hcold := booted_boot y [] true
  have hhot := booted_boot y (corkedCores s) false
  refine ⟨⟨_, exec_powerOnReset s, hcold.flash, hcold.power, hcold.grids, hcold.hslots, hcold.keys, hcold.reds, boot_ends y [] true⟩,
    fun hs => ⟨_, exec_hotReset_safe hs, rfl, hhot.flash, hhot.clk.trans (cutFlash_clk s), ?_, fun hsafe c hrole => ?_⟩,
    ⟨_, exec_powerOnReset s, hcold.clk, hcold.liveupd⟩, exec_hotReset_running, ⟨_, exec_powerOff s, rfl, rfl, rfl, rfl, rfl, rfl⟩⟩
  · exact hhot.liveupd.trans (congrArg Fw.liveupd (cutFlash_fw s))
  · obtain ⟨why, hwhy⟩ := mem_corkedCores hrole
    exact boot_keeps_cork hwhy hsafe

end Sys2Proof.Proofs

/-! # Reads past messages, timers and counters

Messages, timers and counters leave every core and every group alone, and counters leave the messages alone. -/

namespace Sys2Proof.Proofs

open Sys2Proof Sys2Proof.Machine Sys2Proof.Laws

theorem coreAt_congr {s t : State} (h : t.cores = s.cores) (c : Nat) : coreAt t c = coreAt s c := by rw [coreAt, coreAt, h]

section
variable (s : State) (a b c d n k : Nat) (e : Instr) (v : Dword)

@[simp] theorem coreAt_send : coreAt (send s a b e) c = coreAt s c := coreAt_congr rfl c
@[simp] theorem coreAt_after : coreAt (after s n e) c = coreAt s c := coreAt_congr rfl c
@[simp] theorem coreAt_cancel : coreAt (cancel s e) c = coreAt s c := coreAt_congr rfl c
@[simp] theorem coreAt_ctrPut : coreAt (ctrPut s k v) c = coreAt s c := coreAt_congr (ctrPut_cores ..) c
@[simp] theorem coreAt_ctrAdd : coreAt (ctrAdd s k n) c = coreAt s c := coreAt_ctrPut s c k _
@[simp] theorem coreAt_coreCtr : coreAt (coreCtr s d k n) c = coreAt s c := coreAt_ctrAdd s c n _
@[simp] theorem coreAt_stealFlits : coreAt (stealFlits s d n) c = coreAt s c := coreAt_ctrAdd s c n _
@[simp] theorem cores_ctrAdd : (ctrAdd s k n).cores = s.cores := ctrPut_cores ..
@[simp] theorem clk_ctrAdd : (ctrAdd s k n).clk = s.clk := ctrPut_clk ..
@[simp] theorem cores_charge : (charge s k n).cores = s.cores := ctrPut_cores ..
@[simp] theorem clk_charge : (charge s k n).clk = s.clk := ctrPut_clk ..
@[simp] theorem cores_memPutNat : (memPutNat s a n k).cores = s.cores := memPut_cores ..
@[simp] theorem clk_memPutNat : (memPutNat s a n k).clk = s.clk := memPut_clk ..
@[simp] theorem net_ctrAdd : (ctrAdd s k n).net = s.net := ctrPut_net ..
@[simp] theorem net_coreCtr : (coreCtr s d k n).net = s.net := net_ctrAdd s n _
@[simp] theorem net_stealFlits : (stealFlits s d n).net = s.net := net_ctrAdd s n _

end

/-- Any change of a core's other fields leaves its grid. -/
theorem coreGrid_congr {s t : State} {c : Nat} (hcore : (coreAt t c).grid = (coreAt s c).grid) (hgrids : t.grids = s.grids) :
    coreGrid t c = coreGrid s c := by
  simp only [coreGrid, gridAt, hcore, hgrids]

/-- The slot set that a core's next task takes depends on the core, the grids and the contexts alone. -/
theorem freeTeam_congr {s t : State} {c : Nat} (hcore : coreAt t c = coreAt s c) (hgrids : t.grids = s.grids) (hctxs : t.ctxs = s.ctxs) :
    freeTeam t c = freeTeam s c := by
  have hrestoring : restoring t = restoring s := by funext p; simp only [restoring, ctxOf, hctxs]
  rw [freeTeam, freeTeam, coreGrid_congr (congrArg Core.grid hcore) hgrids, hcore, hrestoring]

/-! ### The deque (R305, R306) -/

theorem coreAt_dqDone (s : State) (c kind : Nat) :
    coreAt (dqDone s c kind) c = { coreAt s c with dqAt := aset (coreAt s c).dqAt kind s.clk } := coreAt_modCore_self ..

theorem drainPush_nil {s : State} {c : Nat} (h : (coreAt s c).pushQ = []) : drainPush s c = s := by simp only [drainPush, h]

theorem drainReady_nil {s : State} {c : Nat} (h : (coreAt s c).poolReady = []) : drainReady s c = s := by simp only [drainReady, h]

/-- An entry has left a deque whose pool holds no ready node: what is left near the hot end is staged. -/
theorem leftDeque_noReady {s : State} {c : Nat} (h : (coreAt s c).poolReady = []) :
    leftDeque s c = if (coreAt s c).deque = [] then s else send s c c (.eagerStaging c) := by
  simp only [leftDeque, drainReady_nil h, List.isEmpty_iff]

end Sys2Proof.Proofs

/-! # Stealing (R24, R37, R38, R305, R309, R310, R315, R388)

What the thief's, the victim's and the split's step does, case by case; the statement's theorem at the end puts them together. -/

namespace Sys2Proof.Proofs

open Sys2Proof Sys2Proof.Machine Sys2Proof.Laws

/-! ### The events as steps of the state -/

theorem exec_stealTry (s : State) (c : Nat) : exec (.stealTry c) s = .next (stealTry s c) := rfl

theorem exec_stealreq (s : State) (c v : Nat) (q : StealReq) : exec (.stealreq c v q) s = .next (stealServe s c v q) := rfl

theorem exec_stealent (s : State) (c v : Nat) (e : DqEntry) : exec (.stealent c v e) s = .next (stealTake s c e) := rfl

theorem exec_splitCommit (s : State) (c i thief : Nat) : exec (.splitCommit c i thief) s = .next (splitCommit s c i thief) := rfl

/-- The entry that a split piece becomes at its thief (R315). -/
def splitEntry (s : State) (c cl : Nat) (lo hi : Word) : DqEntry :=
  ⟨BitVec.ofNat 50 cl, BitVec.ofNat 2 (((coreGrid s c).map (fun g => Nat.log2 g.2.team)).getD 0), 1, false, false, lo, hi, 0⟩

theorem exec_stealspl (s : State) (c v cl : Nat) (lo hi : Word) :
    exec (.stealspl c v cl lo hi) s = .next (stealTake s c (splitEntry s c cl lo hi)) := rfl

/-- The request of a thief is over. -/
def requestOver (s : State) (c : Nat) : State := modCore s c (fun k => { k with steal := { k.steal with out := false } })

/-- A refusal is counted at its thief. -/
def refused (s : State) (c : Nat) : State := coreCtr (stealFlits (requestOver s c) c 1) c 9 1

theorem exec_stealno (s : State) (c v depth : Nat) : exec (.stealno c v depth) s = .next (stealTry (refused s c) c) := rfl

/-! ### The thief (R37, R38) -/

/-- What a counter does not touch: the core, the grids and the contexts are those of the request's end. -/
theorem coreAt_refused (s : State) (c : Nat) : coreAt (refused s c) c = coreAt (requestOver s c) c := by
  rw [refused, coreAt_coreCtr, coreAt_stealFlits]

theorem grids_refused (s : State) (c : Nat) : (refused s c).grids = s.grids := ctrPut_grids ..

theorem ctxs_refused (s : State) (c : Nat) : (refused s c).ctxs = s.ctxs := ctrPut_ctxs ..

theorem net_refused (s : State) (c : Nat) : (refused s c).net = s.net := by rw [refused, net_coreCtr, net_stealFlits]; rfl

theorem stealIdle_refused (s : State) (c : Nat) : stealIdle (refused s c) c = stealIdle (requestOver s c) c := by
  simp only [stealIdle, freeTeam_congr (coreAt_refused s c) (grids_refused s c) (ctxs_refused s c), coreAt_refused]

theorem mayCross_refused (s : State) (c : Nat) : mayCross (refused s c) c = mayCross (requestOver s c) c := by
  simp only [mayCross, coreGrid_congr (congrArg Core.grid (coreAt_refused s c)) (grids_refused s c)]

/-- The next victim depends on the thief's own steal state alone. -/
theorem pickVictim_congr {s t : State} {c : Nat} (h : coreAt t c = coreAt s c) (far : Bool) (n r tries : Nat) :
    pickVictim t c far n r tries = pickVictim s c far n r tries := by
  induction n generalizing r tries with
  | zero => rfl
  | succ n ih => simp only [pickVictim, stealRing, h, ih]

theorem stealTry_busy {s : State} {c : Nat} (h : stealIdle s c = false) : stealTry s c = s := if_pos (by simp [h])

/-- An idle thief asks its next victim, within its budget where that is on another die. -/
theorem stealTry_asks {s : State} {c r v n : Nat} (hidle : stealIdle s c = true)
    (hpick : pickVictim s c (mayCross s c) 4 (coreAt s c).steal.ring (coreAt s c).steal.tries = some (r, v, n))
    (hbudget : r = 2 → admits s (ctrKey 1 c 17) = true) :
    (coreAt (stealTry s c) c).steal.out = true ∧ (coreAt (stealTry s c) c).steal.tries = n
      ∧ (stealTry s c).net = s.net ++ [{ src := c, dst := v, ev := .stealreq c v ⟨r == 2, (coreAt s c).steal.num + 1⟩ }] := by
  have hshort : (decide (some r = some 2) && !admits s (ctrKey 1 c 17)) = false := by
    by_cases hr : r = 2
    · simp [hbudget hr]
    · simp [hr]
  simp only [stealTry, hidle, hpick, Option.map_some, hshort, Bool.not_true, Bool.false_eq_true, if_false, coreAt_send, coreAt_stealFlits,
    coreAt_modCore_self, send_net, net_stealFlits, modCore_net, and_self]

/-- A thief takes what it has been given while its request is out (R309). -/
theorem stealTake_out {s : State} {c : Nat} (e : DqEntry) (h : (coreAt s c).steal.out = true) :
    let idle := modCore s c (fun k => { k with steal := { k.steal with out := false, ring := 0, tries := 0 } })
    stealTake s c e = send (stageEntry (coreCtr (stealFlits idle c 3) c 7 1) c e) c c (.ownerPop c) := if_neg (by simp [h])

theorem stealTake_none {s : State} {c : Nat} (e : DqEntry) (h : (coreAt s c).steal.out = false) : stealTake s c e = s := if_pos (by simp [h])

/-! ### The victim (R24, R305, R310, R388) -/

/-- The victim has looked at a request. -/
def requestServed (s : State) (c v num : Nat) : State := modCore s v (fun k => { k with reqQ := k.reqQ.erase (c, num) })

theorem coreAt_requestServed (s : State) (c v num : Nat) :
    coreAt (requestServed s c v num) v = { coreAt s v with reqQ := (coreAt s v).reqQ.erase (c, num) } := coreAt_modCore_self ..

theorem role_requestServed (s : State) (c v num : Nat) : (coreAt (requestServed s c v num) v).role = (coreAt s v).role := by
  rw [coreAt_requestServed]

theorem deque_requestServed (s : State) (c v num : Nat) : (coreAt (requestServed s c v num) v).deque = (coreAt s v).deque := by
  rw [coreAt_requestServed]

theorem poolReady_requestServed (s : State) (c v num : Nat) :
    (coreAt (requestServed s c v num) v).poolReady = (coreAt s v).poolReady := by
  rw [coreAt_requestServed]

theorem grid_requestServed (s : State) (c v num d : Nat) : (coreAt (requestServed s c v num) d).grid = (coreAt s d).grid := by
  rw [requestServed, coreAt_modCore]
  split
  next h => subst h; rfl
  next => rfl

theorem grids_requestServed {s : State} {c v : Nat} (h : (coreAt s v).grid = (coreAt s c).grid) (num : Nat) :
    (coreAt (requestServed s c v num) v).grid = (coreAt (requestServed s c v num) c).grid := by
  rw [grid_requestServed, grid_requestServed, h]

theorem coreGrid_requestServed (s : State) (c v num : Nat) : coreGrid (requestServed s c v num) v = coreGrid s v :=
  coreGrid_congr (grid_requestServed s c v num v) rfl

section
variable {s : State} {c v : Nat} {q : StealReq}

theorem stealServe_arrives (h : (c, q.num) ∉ (coreAt s v).reqQ) : stealServe s c v q
    = after (stealFlits (modCore s v (fun k => { k with reqQ := k.reqQ ++ [(c, q.num)] })) v 1) 4 (.stealreq c v q) := if_pos h

theorem stealServe_busy (h : (c, q.num) ∈ (coreAt s v).reqQ) (hb : dqBusy s v 5 = true) :
    stealServe s c v q = after s 1 (.stealreq c v q) := (if_neg (not_not_intro h)).trans (if_pos hb)

theorem stealServe_answers (h : (c, q.num) ∈ (coreAt s v).reqQ) (hb : dqBusy s v 5 = false) :
    stealServe s c v q = stealAnswer (requestServed s c v q.num) c v q.cross :=
  (if_neg (not_not_intro h)).trans (if_neg (by simp [hb]))

end

section
variable {s : State} {c v : Nat} {cross : Bool}

/-- LTHRESH of the victim's grid. -/
def victimThresh (s : State) (v : Nat) : Nat := ((coreGrid s v).map (fun g => g.2.lthresh)).getD 0

theorem stealAnswer_stranger (h : (coreAt s v).grid ≠ (coreAt s c).grid ∨ (coreAt s v).role ≠ 0) :
    stealAnswer s c v cross = stealRefuse s c v := if_pos h

variable (hgrid : (coreAt s v).grid = (coreAt s c).grid) (hrole : (coreAt s v).role = 0)
include hgrid hrole

theorem stealAnswer_empty (hd : (coreAt s v).deque = []) : stealAnswer s c v cross
    = ((splitPiece s v).filter (fun _ => !cross)).elim (stealRefuse s c v) (fun i => send s v v (.splitCommit v i c)) := by
  simp only [stealAnswer, hgrid, hrole, hd, ne_eq, not_true_eq_false, or_self, if_false, List.getElem?_nil]
  cases splitPiece s v <;> cases cross <;> rfl

variable {e : DqEntry} {rest : List DqEntry} (hd : (coreAt s v).deque = e :: rest) (he : e.clm = false)
include hd he

theorem stealAnswer_few (hcross : cross = true) (h : (coreAt s v).deque.length < victimThresh s v) :
    stealAnswer s c v cross = stealRefuse s c v := by
  have hfew : (e :: rest).length < victimThresh s v := hd ▸ h
  unfold victimThresh at hfew
  simp only [stealAnswer, hgrid, hrole, hd, ne_eq, not_true_eq_false, or_self, if_false, List.findIdx_cons, he, Bool.not_false, cond_true,
    List.getElem?_cons_zero, hcross, Bool.true_and, decide_eq_true hfew, if_true]

theorem stealAnswer_gives (h : cross = false ∨ victimThresh s v ≤ (coreAt s v).deque.length) (hp : (coreAt s v).poolReady = []) :
    (coreAt (stealAnswer s c v cross) v).deque = rest
      ∧ (stealAnswer s c v cross).net = s.net ++ (if rest = [] then [] else [{ src := v, dst := v, ev := .eagerStaging v }])
          ++ [{ src := v, dst := c, ev := .stealent c v { e with stg := false } }] := by
  have hmany : (cross && decide ((e :: rest).length < victimThresh s v)) = false := by
    rcases h with h | h
    · rw [h, Bool.false_and]
    · rw [hd] at h
      rw [decide_eq_false (Nat.not_lt.2 h), Bool.and_false]
  unfold victimThresh at hmany
  simp only [stealAnswer, hgrid, hrole, hd, ne_eq, not_true_eq_false, or_self, if_false, List.findIdx_cons, he, Bool.not_false, cond_true,
    List.getElem?_cons_zero, hmany, Bool.false_eq_true, coreAt_send, coreAt_coreCtr, coreAt_stealFlits, send_net, net_coreCtr, net_stealFlits]
  have hleft : coreAt (modCore s v (fun k => { k with deque := k.deque.eraseIdx 0 })) v = { coreAt s v with deque := rest } := by
    rw [coreAt_modCore_self, hd]; rfl
  rw [leftDeque_noReady (by rw [coreAt_dqDone, hleft, hp])]
  by_cases hr : rest = []
  · rw [if_pos (by rw [coreAt_dqDone, hleft, hr]), coreAt_dqDone, hleft, if_pos hr, List.append_nil]
    exact ⟨rfl, rfl⟩
  · rw [if_neg (by rw [coreAt_dqDone, hleft]; exact hr), coreAt_send, coreAt_dqDone, hleft, if_neg hr]
    exact ⟨rfl, rfl⟩

end

theorem stealRefuse_answers (s : State) (c v : Nat) : coreAt (stealRefuse s c v) v = coreAt s v
    ∧ (stealRefuse s c v).net = s.net ++ [{ src := v, dst := c, ev := .stealno c v (coreAt s v).deque.length }] := by
  rw [stealRefuse, coreAt_send, coreAt_stealFlits, send_net, net_stealFlits]
  exact ⟨rfl, rfl⟩

/-- A request that the victim looks at is refused. -/
def Refuses (s : State) (c v : Nat) (q : StealReq) : Prop :=
  ∃ t, exec (.stealreq c v q) s = .next t ∧ coreAt t v = { coreAt s v with reqQ := (coreAt s v).reqQ.erase (c, q.num) }
    ∧ t.net = s.net ++ [{ src := v, dst := c, ev := .stealno c v (coreAt s v).deque.length }]

section
variable {s : State} {c v : Nat} {q : StealReq} (h : (c, q.num) ∈ (coreAt s v).reqQ) (hb : dqBusy s v 5 = false)
include h hb

theorem refuses_of_stealAnswer
    (hr : stealAnswer (requestServed s c v q.num) c v q.cross = stealRefuse (requestServed s c v q.num) c v) : Refuses s c v q := by
  obtain ⟨hcore, hnet⟩ := stealRefuse_answers (requestServed s c v q.num) c v
  rw [coreAt_requestServed] at hcore hnet
  exact ⟨_, by rw [exec_stealreq, stealServe_answers h hb, hr], hcore, hnet⟩

/-- A thief of another grid, and a victim that is no compute core (R24, R388). -/
theorem refuses_stranger (hs : (coreAt s v).grid ≠ (coreAt s c).grid ∨ (coreAt s v).role ≠ 0) : Refuses s c v q :=
  refuses_of_stealAnswer h hb (stealAnswer_stranger (by rwa [grid_requestServed, grid_requestServed, role_requestServed]))

variable (hgrid : (coreAt s v).grid = (coreAt s c).grid)
include hgrid

/-- No entry, and no piece that may be split for this thief (R310). -/
theorem refuses_empty (hd : (coreAt s v).deque = []) (hnone : splitPiece (requestServed s c v q.num) v = none ∨ q.cross = true) :
    Refuses s c v q := by
  by_cases hrole : (coreAt s v).role = 0
  · refine refuses_of_stealAnswer h hb ((stealAnswer_empty (grids_requestServed hgrid _) (by rwa [role_requestServed])
      (by rwa [deque_requestServed])).trans ?_)
    rcases hnone with hnone | hcross
    · rw [hnone]; rfl
    · rw [hcross]; cases splitPiece (requestServed s c v q.num) v <;> rfl
  · exact refuses_stranger h hb (.inr hrole)

variable (hrole : (coreAt s v).role = 0)
include hrole

theorem exec_stealreq_splits {i : Nat} (hd : (coreAt s v).deque = []) (hsome : splitPiece (requestServed s c v q.num) v = some i)
    (hcross : q.cross = false) :
    exec (.stealreq c v q) s = .next (send (requestServed s c v q.num) v v (.splitCommit v i c)) := by
  rw [exec_stealreq, stealServe_answers h hb, stealAnswer_empty (grids_requestServed hgrid _) (by rwa [role_requestServed])
    (by rwa [deque_requestServed]), hsome, hcross]
  rfl

variable {e : DqEntry} {rest : List DqEntry} (hd : (coreAt s v).deque = e :: rest) (he : e.clm = false)
include hd he

/-- Across dies, fewer entries than LTHRESH (R38). -/
theorem refuses_few (hcross : q.cross = true) (hfew : (coreAt s v).deque.length < victimThresh s v) : Refuses s c v q :=
  refuses_of_stealAnswer h hb (stealAnswer_few (grids_requestServed hgrid _) (by rwa [role_requestServed])
    (by rwa [deque_requestServed]) he hcross (by rwa [deque_requestServed, victimThresh, coreGrid_requestServed]))

theorem exec_stealreq_gives (hmany : q.cross = false ∨ victimThresh s v ≤ (coreAt s v).deque.length)
    (hp : (coreAt s v).poolReady = []) :
    ∃ t, exec (.stealreq c v q) s = .next t ∧ (coreAt t v).deque = rest
      ∧ t.net = s.net ++ (if rest = [] then [] else [{ src := v, dst := v, ev := .eagerStaging v }])
          ++ [{ src := v, dst := c, ev := .stealent c v { e with stg := false } }] :=
  ⟨_, by rw [exec_stealreq, stealServe_answers h hb], stealAnswer_gives (grids_requestServed hgrid _) (by rwa [role_requestServed])
    (by rwa [deque_requestServed]) he (by rwa [deque_requestServed, victimThresh, coreGrid_requestServed])
    (by rwa [poolReady_requestServed])⟩

end

/-! ### The split (R315) -/

section
variable {s : State} {c i thief : Nat} {p : Piece} {next hi : Word}

theorem splitCommit_gone (h : aget (coreAt s c).pieces i = none) :
    splitCommit s c i thief = stealRefuse (askOver s (splitRef c i thief)) thief c := by simp only [splitCommit, h]

variable (hp : aget (coreAt s c).pieces i = some p) (hcur : cursorAt s c i = (next, hi))
include hp hcur

theorem splitCommit_short (h : hi.toNat - next.toNat < 64) :
    splitCommit s c i thief = stealRefuse (askOver s (splitRef c i thief)) thief c := by
  simp only [splitCommit, hp, hcur, if_pos h]

variable (h : ¬ hi.toNat - next.toNat < 64)
include h

theorem splitCommit_asks (ha : askOf s (splitRef c i thief) = none) :
    splitCommit s c i thief = askPress s (splitRef c i thief) [cursorLine c i] (.splitCommit c i thief) := by
  simp only [splitCommit, hp, hcur, if_neg h, ha, Option.isNone_none, if_true]

variable (ha : (askOf s (splitRef c i thief)).isSome = true)
include ha

theorem splitCommit_waitsGrant (hg : askGranted s (splitRef c i thief) = false) : splitCommit s c i thief = s := by
  simp only [splitCommit, hp, hcur, if_neg h, Option.isNone_eq_false_iff.2 ha, hg, Bool.not_false, Bool.false_eq_true, if_false, if_true]

variable (hg : askGranted s (splitRef c i thief) = true)
include hg

theorem splitCommit_waitsLive (hl : heldByLive s (sigOf [cursorLine c i]) none = true) :
    splitCommit s c i thief = after s 4 (.splitCommit c i thief) := by
  simp only [splitCommit, hp, hcur, if_neg h, Option.isNone_eq_false_iff.2 ha, hg, hl, Bool.not_true, Bool.false_eq_true, if_false, if_true]

theorem splitCommit_moves (hl : heldByLive s (sigOf [cursorLine c i]) none = false) :
    let mid := hi.toNat - (hi.toNat - next.toNat) / 2
    splitCommit s c i thief = send (gliveAdd (coreCtr (stealFlits (performWrite (askOver s (splitRef c i thief)) none
        (bytesAt (128 * cursorLine c i) (bytesOf 8 (next.toNat + 2 ^ 32 * mid)))) c 3) c 8 1) p.grid 1)
      c thief (.stealspl thief c (clineOf p.ca).toNat (BitVec.ofNat 32 mid) hi) := by
  simp only [splitCommit, hp, hcur, if_neg h, Option.isNone_eq_false_iff.2 ha, hg, hl, Bool.not_true, Bool.false_eq_true, if_false]

end

theorem askOf_isSome_of_askGranted {s : State} {k : ChunkRef} (h : askGranted s k = true) : (askOf s k).isSome = true := by
  unfold askGranted at h
  cases ha : askOf s k with
  | none => simp [ha] at h
  | some => rfl

/-! ### The statement -/

/-- Settles O37: each clause is the case of its step above. -/
theorem stealingSteps : Obligations.StealingSteps := by
  unfold Obligations.StealingSteps
  intro s c v i r n cl depth num cross e rest lo hi p k vk thresh z refuses idle taken open_
  refine ⟨fun h => congrArg Host.Outcome.next (stealTry_busy h),
    fun hidle hpick hb => ⟨_, exec_stealTry s c, stealTry_asks hidle hpick hb⟩,
    fun h => congrArg Host.Outcome.next (stealServe_arrives h),
    fun h => ⟨fun hb => congrArg Host.Outcome.next (stealServe_busy h hb), fun hb hs => refuses_stranger h hb hs,
      fun hb hgrid hrole hp hd he => ⟨fun hc hfew => refuses_few h hb hgrid hrole hd he hc hfew,
        fun hmany => exec_stealreq_gives h hb hgrid hrole hd he hmany hp⟩,
      fun hb hgrid hd hnone => refuses_empty h hb hgrid hd hnone,
      fun hb hgrid hrole hd hsome hc => exec_stealreq_splits h hb hgrid hrole hd hsome hc⟩,
    fun h => ⟨congrArg Host.Outcome.next (stealTake_out e h), congrArg Host.Outcome.next (stealTake_out _ h)⟩,
    fun h => ⟨congrArg Host.Outcome.next (stealTake_none e h), congrArg Host.Outcome.next (stealTake_none _ h)⟩,
    ⟨_, exec_stealno s c v depth, fun h => ?busy⟩, fun hidle hpick hb => ⟨_, exec_stealno s c v depth, ?asks⟩,
    fun h => congrArg Host.Outcome.next (splitCommit_gone h), fun hp => ?piece⟩
  case busy => rw [stealTry_busy ((stealIdle_refused s c).trans h), coreAt_refused, requestOver, coreAt_modCore_self]
  case asks =>
    have hcore : coreAt (refused s c) c = { k with steal := { k.steal with out := false } } :=
      (coreAt_refused s c).trans (coreAt_modCore_self ..)
    obtain ⟨hout, htries, hnet⟩ := stealTry_asks (s := refused s c) ((stealIdle_refused s c).trans hidle)
      (by rw [pickVictim_congr (coreAt_refused s c), mayCross_refused, hcore]; exact hpick) hb
    exact ⟨hout, htries, by rw [hnet, net_refused, hcore]⟩
  case piece =>
    intro next end_ mid me
    exact ⟨fun h ha => congrArg Host.Outcome.next (splitCommit_asks hp rfl (Nat.not_lt.2 h) ha),
      fun h ha hg => congrArg Host.Outcome.next (splitCommit_waitsGrant hp rfl (Nat.not_lt.2 h) ha hg),
      fun h hg hl => congrArg Host.Outcome.next (splitCommit_waitsLive hp rfl (Nat.not_lt.2 h) (askOf_isSome_of_askGranted hg) hg hl),
      fun h hg hl => congrArg Host.Outcome.next (splitCommit_moves hp rfl (Nat.not_lt.2 h) (askOf_isSome_of_askGranted hg) hg hl),
      fun h => congrArg Host.Outcome.next (splitCommit_short hp rfl h)⟩

end Sys2Proof.Proofs

/-! # Halts, margins and sleeps (R21, R177, R182 to R187, R259, R417)

What a halt, a shadow latch's flag, a replay window's end and a sleep's end do, case by case; the statement's theorem at the end puts them
together. -/

namespace Sys2Proof.Proofs

open Sys2Proof Sys2Proof.Machine Sys2Proof.Laws

/-! ### The events as steps of the state -/

theorem exec_teamHalt (s : State) (c slot : Nat) : exec (.teamHalt c slot) s = .next (haltSibling s c slot) := rfl

theorem exec_shadowLatchFlag (s : State) (c : Nat) (i : FlaggedIssue) (twice : Bool) :
    exec (.shadowLatchFlag c i twice) s = .next (latchFlag s c i twice) := rfl

theorem exec_marginWindowEnd_early {s : State} {c : Nat} (h : timerSet s (.marginWindowEnd c) = true) :
    exec (.marginWindowEnd c) s = .next s := congrArg Host.Outcome.next (if_pos h)

theorem exec_marginWindowEnd_due {s : State} {c : Nat} (h : timerSet s (.marginWindowEnd c) = false) :
    exec (.marginWindowEnd c) s = .next (marginWindow s c) := congrArg Host.Outcome.next (if_neg (by simp [h]))

theorem exec_marginSettle_due {s : State} {c : Nat} (h : timerSet s (.marginSettle c) = false) :
    exec (.marginSettle c) s = .next (modCore s c (fun k => { k with margin := { k.margin with
      vnow := if k.role = 1 then max 0 k.margin.voff else k.margin.voff } })) :=
  congrArg Host.Outcome.next (if_neg (by simp [h]))

theorem exec_waitaddrWake (s : State) (c slot : Nat) : exec (.waitaddrWake c slot) s = .next (wakeAddr s c slot) := rfl

theorem exec_waitaddrTimeout (s : State) (c slot : Nat) : exec (.waitaddrTimeout c slot) s = .next (wakeAddr s c slot) := rfl

/-- The group in a slot still watches a line that it polls. -/
def pollsOn (s : State) (c slot : Nat) : Bool := ((groupAt s c slot).map (fun g => g.watch.any (fun w => polled s w.line))).getD false

theorem exec_waitaddrPoll (s : State) (c slot : Nat) : exec (.waitaddrPoll c slot) s
    = .next (if pollsOn (wakeAddr s c slot) c slot then after (wakeAddr s c slot) 1100 (.waitaddrPoll c slot) else wakeAddr s c slot) := rfl

theorem exec_groupTimeout (s : State) (c slot : Nat) : exec (.groupTimeout c slot) s = .next (grpTimeout s c slot) := rfl

/-! ### Halts (R177, R187) -/

/-- The issue slots that a sibling has left when its halt comes: a free number up to 32, and none where it is not ready (log 58). -/
def skidDrawn (s : State) (c slot : Nat) (g : Group) : Nat :=
  if groupReady { s with free := s.free + 1 } c slot g then Config.freeNat s.free % 33 else 0

section
variable {s : State} {c slot : Nat} {g : Group} (hg : groupAt s c slot = some g)
include hg

theorem haltSibling_stopped (h : g.stop.isSome = true) : haltSibling s c slot = settle s c g.team := by
  simp only [haltSibling, hg, h, if_true]

variable (h : g.stop = none)
include h

theorem haltSibling_faultless (hf : (teamAt s c g.team).fault = none) : haltSibling s c slot = endIfBlocked s c slot false := by
  simp only [haltSibling, hg, h, hf, Option.isSome_none, Option.isNone_none, Bool.false_eq_true, if_false, if_true]

variable (hf : (teamAt s c g.team).fault.isSome = true)
include hf

theorem haltSibling_skidding (hl : g.haltLeft.isSome = true) : haltSibling s c slot
    = if groupReady s c slot g = true ∨ g.replay.isSome = true then s else stopHalted s c slot := by
  simp only [haltSibling, hg, h, Option.isNone_eq_false_iff.2 hf, hl, Option.isSome_none, Bool.false_eq_true, if_false, if_true, Bool.or_eq_true]

theorem haltSibling_draws (hl : g.haltLeft = none) :
    let t := modGroup { s with free := s.free + 1 } c slot (fun x => { x with haltLeft := some (skidDrawn s c slot g, 0) })
    haltSibling s c slot = if skidDrawn s c slot g = 0 && g.replay.isNone then stopHalted t c slot else t := by
  simp only [haltSibling, hg, h, Option.isNone_eq_false_iff.2 hf, hl, Option.isSome_none, Bool.false_eq_true, if_false, takeFree]
  rfl

end

theorem skidDrawn_le (s : State) (c slot : Nat) (g : Group) : skidDrawn s c slot g ≤ 32 := by
  unfold skidDrawn
  split <;> omega

/-! ### Flags of the shadow latches (R21, R182, R186) -/

/-- The threads of a group that are about to complete the flagged instruction. -/
def flaggedLanes (s : State) (g : Group) (i : FlaggedIssue) : List Nat := (freeLanes s g).filter (fun t => sget 0 g.r.pc t == i.pc)

/-- The flag is counted. -/
def flagCounted (s : State) (c : Nat) : State :=
  modCore (coreCtr (coreCtr s c 5 1) c 6 1) c
    (fun k => { k with margin := { k.margin with repwin := min 65535 (k.margin.repwin + 1) } })

theorem role_flagCounted (s : State) (c : Nat) : (coreAt (flagCounted s c) c).role = (coreAt s c).role := by
  rw [flagCounted, coreAt_modCore_self, coreAt_coreCtr, coreAt_coreCtr]

section
variable {s : State} {c : Nat} {i : FlaggedIssue} {g : Group} (twice : Bool) (hg : groupAt s c i.slot = some g)
include hg

theorem latchFlag_misses (h : flaggedLanes s g i = [] ∨ groupReady s c i.slot g = false ∨ (g.replay.map (·.2)).getD i.pc ≠ i.pc) :
    latchFlag s c i twice = s := by
  have hmiss : ((flaggedLanes s g i).isEmpty || !groupReady s c i.slot g || (g.replay.map (·.2)).getD i.pc != i.pc) = true := by
    rcases h with h | h | h <;> simp [h]
  unfold flaggedLanes at hmiss
  simp only [latchFlag, hg, hmiss, if_true]

theorem latchFlag_hits (hl : flaggedLanes s g i ≠ []) (hr : groupReady s c i.slot g = true)
    (hp : (g.replay.map (·.2)).getD i.pc = i.pc) : latchFlag s c i twice
    = if (coreAt s c).role = 1 then fatalError (endChunk (flagCounted s c) c i.slot) c 1
      else if twice = true ∨ g.replay.isSome = true then
        cork (faultGroup (flagCounted s c) c i.slot (flaggedLanes s g i) i.pc { code := 0x15 }) c 2
      else modGroup (flagCounted s c) c i.slot (fun g' => { g' with replay := some (flaggedLanes s g i, i.pc) }) := by
  have hmiss : ((flaggedLanes s g i).isEmpty || !groupReady s c i.slot g || (g.replay.map (·.2)).getD i.pc != i.pc) = false := by
    simp [hl, hr, hp]
  rw [← role_flagCounted]
  unfold flaggedLanes at hmiss ⊢
  simp only [latchFlag, hg, hmiss, Bool.false_eq_true, if_false, Bool.or_eq_true]
  rfl

end

/-! ### What an event of the log leaves (R363) -/

theorem storeLog_frame (s : State) (v : Nat) : (storeLog s v).cores = s.cores ∧ (storeLog s v).clk = s.clk := by
  unfold storeLog
  dsimp only
  split <;> simp only [cores_memPutNat, clk_memPutNat, cores_charge, clk_charge, cores_ctrAdd, clk_ctrAdd, and_self]

theorem refuseAdmission_frame (s : State) (k : Nat) : (refuseAdmission s k).cores = s.cores ∧ (refuseAdmission s k).clk = s.clk := by
  unfold refuseAdmission
  split
  · exact ⟨rfl, rfl⟩
  · simp only [cores_ctrAdd, clk_ctrAdd, and_self]

theorem drainLog_frame (s : State) : (drainLog s).cores = s.cores ∧ (drainLog s).clk = s.clk := by
  refine List.foldlRecOn (motive := fun (a : State × List Nat × List Nat) => a.1.cores = s.cores ∧ a.1.clk = s.clk) s.mmio.logWait _
    ⟨rfl, rfl⟩ ?_
  rintro ⟨t, l, ds⟩ ⟨hcores, hclk⟩ v -
  dsimp only
  split
  · exact ⟨hcores, hclk⟩
  · split
    · exact ⟨(storeLog_frame t v).1.trans hcores, (storeLog_frame t v).2.trans hclk⟩
    · exact ⟨(refuseAdmission_frame t _).1.trans hcores, (refuseAdmission_frame t _).2.trans hclk⟩

theorem postLog_frame (s : State) (ev die unit data : Nat) :
    (postLog s ev die unit data).cores = s.cores ∧ (postLog s ev die unit data).clk = s.clk := by
  unfold postLog
  split
  · exact drainLog_frame _
  · exact ⟨rfl, rfl⟩

theorem pendDie_frame (s : State) (d : Nat) (bits : Word) (c : Nat) :
    (coreAt (pendDie s d bits) c).margin = (coreAt s c).margin ∧ (pendDie s d bits).clk = s.clk := by
  unfold pendDie
  split
  · exact ⟨rfl, rfl⟩
  · refine ⟨?_, rfl⟩
    rw [setFpend, coreAt_modCore]
    split
    next h => subst h; rfl
    next => rfl

/-! ### Margins (R183 to R185) -/

section
variable {s : State} {c : Nat} {m : Margin}

theorem setMargin_frame (h : m.voff ≠ (coreAt s c).margin.voff) :
    (coreAt (setMargin s c m) c).margin = { m with cleanRun := 0 } ∧ (setMargin s c m).clk = s.clk := by
  simp only [setMargin, if_neg h, coreAt_after, coreAt_cancel, coreAt_modCore_self]
  exact ⟨trivial, rfl⟩

theorem marginRaise_frame (hrole : (coreAt s c).role ≠ 1) (h : m.voff = (coreAt s c).margin.voff) :
    (coreAt (marginRaise s c m) c).margin = { m with voff := m.voff + 1, raised := true, cleanRun := 0 }
      ∧ (marginRaise s c m).clk = s.clk := by
  have hlow : (if (coreAt s c).role = 1 then max 0 m.voff else m.voff) = m.voff := if_neg hrole
  obtain ⟨hmargin, hclk⟩ := setMargin_frame (s := s) (c := c) (m := { m with voff := m.voff + 1, raised := true }) (by dsimp only; omega)
  unfold marginRaise
  simp only [hlow]
  obtain ⟨hcores, hclk'⟩ := postLog_frame (pendDie (setMargin s c { m with voff := m.voff + 1, raised := true }) (dieOf c) 0x40) 0x0001
    (dieOf c) c (Config.logData 0x0001 c (BitVec.ofInt 5 (m.voff + 1)).toNat)
  obtain ⟨hpend, hclk''⟩ := pendDie_frame (setMargin s c { m with voff := m.voff + 1, raised := true }) (dieOf c) 0x40 c
  rw [coreAt_congr hcores, hpend, hmargin, hclk', hclk'', hclk]
  exact ⟨rfl, rfl⟩

end

/-- The margin after a replay window, but for what its replays change: the window is counted (R184). -/
def windowCounted (m : Margin) : Margin := { m with repwin := 0, cleanRun := if m.repwin = 0 then m.cleanRun + 1 else 0 }

/-- The core with this margin. -/
def withMargin (s : State) (c : Nat) (m : Margin) : State := modCore s c (fun k => { k with margin := m })

theorem margin_withMargin (s : State) (c : Nat) (m : Margin) : (coreAt (withMargin s c m) c).margin = m := by
  rw [withMargin, coreAt_modCore_self]

theorem role_withMargin (s : State) (c : Nat) (m : Margin) : (coreAt (withMargin s c m) c).role = (coreAt s c).role := by
  rw [withMargin, coreAt_modCore_self]

/-- The next replay window begins. -/
def nextWindow (s : State) (c : Nat) (m : Margin) : State := after s (11264 * m.win - s.clk % 11264) (.marginWindowEnd c)

/-- The window had more replays than its limit, and the margin may be raised (R184). -/
def replaysMany (m : Margin) : Bool := decide (m.lim < m.repwin) && m.aup

/-- Enough windows were clean, and the margin may be lowered (R184). -/
def mayLower (m : Margin) : Bool := decide (m.clean ≤ (windowCounted m).cleanRun) && m.adn && decide (m.vfloor < m.voff)

theorem replaysMany_iff {m : Margin} : replaysMany m = true ↔ m.lim < m.repwin ∧ m.aup = true := by simp [replaysMany]

theorem replaysMany_eq_false {m : Margin} (h : m.repwin ≤ m.lim ∨ m.aup = false) : replaysMany m = false := by
  rcases h with h | h
  · simp [replaysMany, Nat.not_lt.2 h]
  · simp [replaysMany, h]

theorem mayLower_iff {m : Margin} :
    mayLower m = true ↔ m.clean ≤ (windowCounted m).cleanRun ∧ m.adn = true ∧ m.vfloor < m.voff := by simp [mayLower, and_assoc]

theorem mayLower_eq_false {m : Margin} (h : (windowCounted m).cleanRun < m.clean ∨ m.adn = false ∨ m.voff ≤ m.vfloor) :
    mayLower m = false := by
  rw [Bool.eq_false_iff, ne_eq, mayLower_iff]
  rintro ⟨hc, ha, hv⟩
  rcases h with h | h | h
  · omega
  · rw [h] at ha; cases ha
  · omega

/-- A window with too many replays at the highest offset (R184, R185). -/
def topReached (m w : Margin) : Margin := { w with tophit := true, topcnt := min 15 (m.topcnt + 1) }

/-- The margin after a window that ended with margin `m` moves by at most one step from `w` (R184, R185). -/
def marginStep (t : State) (c : Nat) (m w : Margin) : State :=
  if replaysMany m && !decide (8 ≤ m.voff) then marginRaise t c w
  else if replaysMany m && decide (8 ≤ m.voff) then
    if m.qthr ≠ 0 ∧ m.qthr ≤ min 15 (m.topcnt + 1) then cork (withMargin t c (topReached m w)) c 1 else withMargin t c (topReached m w)
  else if mayLower m && (coreAt t c).role != 1 then setMargin t c { w with voff := m.voff - 1, cleanRun := 0 }
  else t

theorem marginWindow_eq (s : State) (c : Nat) :
    let m := (coreAt s c).margin
    let w := windowCounted m
    marginWindow s c = nextWindow (marginStep (withMargin s c w) c m w) c m := by
  intro m w
  have h : marginWindow s c = nextWindow (marginStep (withMargin s c w) c m (coreAt (withMargin s c w) c).margin) c m := rfl
  rwa [margin_withMargin] at h

/-- The end of a replay window leaves margin `n`, and the next window ends 11,264 clk times WIN later, aligned (R184). -/
def WindowEnds (s : State) (c : Nat) (n : Margin) : Prop :=
  let t := marginWindow s c
  (s.clk + (11264 * (coreAt s c).margin.win - s.clk % 11264), .marginWindowEnd c) ∈ t.timers ∧ (coreAt t c).margin = n

theorem windowEnds_of_marginStep {s t : State} {c : Nat} {m n : Margin} (hm : (coreAt s c).margin = m)
    (ht : marginStep (withMargin s c (windowCounted m)) c m (windowCounted m) = t) (hclk : t.clk = s.clk) (hn : (coreAt t c).margin = n) :
    WindowEnds s c n := by
  subst hm
  have h := marginWindow_eq s c
  dsimp only at h
  rw [ht] at h
  unfold WindowEnds
  dsimp only
  rw [h, nextWindow, after_timers, coreAt_after, hclk]
  exact ⟨List.mem_append_right _ (List.mem_singleton_self _), hn⟩

section
variable {s : State} {c : Nat} {m : Margin} (hm : (coreAt s c).margin = m)
include hm

theorem windowEnds_raised (hrole : (coreAt s c).role ≠ 1) (hb : replaysMany m = true) (ht : m.voff < 8) :
    WindowEnds s c { windowCounted m with voff := m.voff + 1, raised := true, cleanRun := 0 } := by
  obtain ⟨hmargin, hclk⟩ := marginRaise_frame (s := withMargin s c (windowCounted m)) (c := c) (m := windowCounted m)
    (by rwa [role_withMargin]) (by rw [margin_withMargin])
  exact windowEnds_of_marginStep hm (if_pos (by simp [hb, ht])) hclk hmargin

theorem windowEnds_atTop (hb : replaysMany m = true) (ht : 8 ≤ m.voff) (hq : ¬ (m.qthr ≠ 0 ∧ m.qthr ≤ min 15 (m.topcnt + 1))) :
    WindowEnds s c (topReached m (windowCounted m)) := by
  refine windowEnds_of_marginStep hm (t := withMargin (withMargin s c (windowCounted m)) c (topReached m (windowCounted m))) ?_ rfl
    (margin_withMargin ..)
  rw [marginStep, if_neg (by simp [ht]), if_pos (by simp [hb, ht]), if_neg hq]

theorem windowEnds_lowered (hrole : (coreAt s c).role ≠ 1) (hb : replaysMany m = false) (hl : mayLower m = true) :
    WindowEnds s c { windowCounted m with voff := m.voff - 1, cleanRun := 0 } := by
  obtain ⟨hmargin, hclk⟩ := setMargin_frame (s := withMargin s c (windowCounted m)) (c := c)
    (m := { windowCounted m with voff := m.voff - 1, cleanRun := 0 })
    (by rw [margin_withMargin]; simp only [windowCounted]; omega)
  refine windowEnds_of_marginStep hm ?_ hclk hmargin
  rw [marginStep, if_neg (by simp [hb]), if_neg (by simp [hb]), if_pos (by simp [hl, role_withMargin, hrole])]

theorem windowEnds_kept (hb : replaysMany m = false) (hl : mayLower m = false) : WindowEnds s c (windowCounted m) := by
  refine windowEnds_of_marginStep hm (t := withMargin s c (windowCounted m)) ?_ rfl (margin_withMargin ..)
  rw [marginStep, if_neg (by simp [hb]), if_neg (by simp [hb]), if_neg (by simp [hl])]

end

/-! ### Sleeps in WAITADDR (R259) -/

section
variable {s : State} {c slot : Nat} {g : Group} {w : Watch} (hg : groupAt s c slot = some g) (hw : g.watch = [w])
include hg hw

theorem wakeAddr_asleep (h : watchOver s w = false) : wakeAddr s c slot = s := by
  simp [wakeAddr, hg, hw, h]

theorem wakeAddr_over (h : watchOver s w = true) (hl : w.lanes ≠ []) : wakeAddr s c slot
    = wakeThreads (modGroup s c slot (fun g => { g with watch := [] })) c slot
        (fun r => setThr r (w.lanes.filter (fun t => decide (sget .run r.thr t = .addr))) .run) := by
  have hlanes : ((g.watch.filter (watchOver s)).flatMap (·.lanes)) = w.lanes := by simp [hw, h]
  have hrest : g.watch.filter (fun w => !watchOver s w) = [] := by simp [hw, h]
  simp only [wakeAddr, hg, hlanes, List.isEmpty_eq_false_iff.2 hl, Bool.false_eq_true, if_false, modGroup_of_some _ hg, hrest]

theorem pollsOn_of_watch (hp : polled s w.line = true) : pollsOn s c slot = true := by
  simp [pollsOn, hg, hw, hp]

end

theorem pollsOn_of_noWatch {s : State} {c slot : Nat} (h : ∀ g, groupAt s c slot = some g → g.watch = []) : pollsOn s c slot = false := by
  unfold pollsOn
  cases hg : groupAt s c slot with
  | none => rfl
  | some g => simp [h g hg]

/-! ### The statement -/

/-- Settles O41: each clause is the case of its step above. -/
theorem haltMarginAndSleepSteps : Obligations.HaltMarginAndSleepSteps := by
  unfold Obligations.HaltMarginAndSleepSteps
  intro s c slot tm i twice g w ls at_ n faulty
  refine ⟨fun hg h => congrArg Host.Outcome.next (haltSibling_stopped hg h),
    fun hg h hf => congrArg Host.Outcome.next (haltSibling_faultless hg h hf),
    fun hg h hf hl => congrArg Host.Outcome.next (haltSibling_skidding hg h hf hl), fun hg h hf hl hn => ?drawn,
    fun hg h hf hl hn hr => ?repeats, fun hg h hf hl hn hr => ?stops, fun hg => ⟨fun h => ?misses, fun hl hr hp => ?hits⟩,
    exec_marginWindowEnd_early, fun ht hrole => ?window, fun ht => ⟨_, exec_marginSettle_due ht, by rw [coreAt_modCore_self]⟩,
    fun hg hw => ⟨fun h => ?asleep, fun h hl => ?woken⟩, fun hg hw => ?timeout⟩
  case drawn =>
    have hsome : skidDrawn s c slot g ≠ 0 := hn
    refine ⟨_, exec_teamHalt s c slot, skidDrawn_le s c slot g, ?_⟩
    rw [haltSibling_draws hg h hf hl, decide_eq_false hsome, Bool.false_and, if_neg Bool.false_ne_true, groupAt_modGroup, if_pos ⟨rfl, rfl⟩]
    exact congrArg (Option.map _) hg
  case repeats =>
    have hdrawn : skidDrawn s c slot g = 0 := hn
    rw [exec_teamHalt, haltSibling_draws hg h hf hl, hdrawn, Option.isNone_eq_false_iff.2 hr, Bool.and_false, if_neg Bool.false_ne_true]
    exact congrArg Host.Outcome.next (modGroup_of_some (s := { s with free := s.free + 1 }) _ hg)
  case stops =>
    have hdrawn : skidDrawn s c slot g = 0 := hn
    rw [exec_teamHalt, haltSibling_draws hg h hf hl, hdrawn, hr, if_pos (by decide)]
  case misses => exact congrArg Host.Outcome.next (latchFlag_misses twice hg h)
  case hits => exact congrArg Host.Outcome.next (latchFlag_hits twice hg hl hr hp)
  case window =>
    intro m clean next
    have ends {n : Margin} (h : WindowEnds s c n) : ∃ t, exec (.marginWindowEnd c) s = .next t ∧ next t ∧ (coreAt t c).margin = n :=
      ⟨_, exec_marginWindowEnd_due ht, h⟩
    have hcompute : (coreAt s c).role ≠ 1 := by omega
    refine ⟨fun hl hu hv => ?_, fun hl hu hv hq => ?_, fun hfew hc ha hv => ?_, fun hfew hno => ?_⟩
    · obtain ⟨t, ht, hnext, hmargin⟩ := ends (windowEnds_raised rfl hcompute (replaysMany_iff.2 ⟨hl, hu⟩) hv)
      exact ⟨t, ht, hnext, by rw [hmargin], by rw [hmargin], by rw [hmargin]; rfl, by rw [hmargin]; rfl⟩
    · obtain ⟨t, ht, hnext, hmargin⟩ := ends (windowEnds_atTop rfl (replaysMany_iff.2 ⟨hl, hu⟩) hv
        (fun hcorks => hq.elim hcorks.1 (Nat.not_lt.2 hcorks.2)))
      exact ⟨t, ht, hnext, by rw [hmargin]; rfl, by rw [hmargin]; rfl, by rw [hmargin]; rfl, by rw [hmargin]; rfl⟩
    · obtain ⟨t, ht, hnext, hmargin⟩ := ends (windowEnds_lowered rfl hcompute (replaysMany_eq_false hfew) (mayLower_iff.2 ⟨hc, ha, hv⟩))
      exact ⟨t, ht, hnext, by rw [hmargin], by rw [hmargin], by rw [hmargin]; rfl⟩
    · exact ends (windowEnds_kept rfl (replaysMany_eq_false hfew) (mayLower_eq_false hno))
  case asleep =>
    have hs := wakeAddr_asleep hg hw h
    refine ⟨congrArg Host.Outcome.next hs, congrArg Host.Outcome.next hs, fun hp => ?_⟩
    rw [exec_waitaddrPoll, hs, if_pos (pollsOn_of_watch hg hw hp)]
    rfl
  case woken =>
    intro t
    have hs : wakeAddr s c slot = t := wakeAddr_over hg hw h hl
    refine ⟨congrArg Host.Outcome.next hs, congrArg Host.Outcome.next hs, fun hnone => ?_⟩
    rw [exec_waitaddrPoll, hs, if_neg (by simp [pollsOn_of_noWatch hnone])]
  case timeout =>
    rw [exec_groupTimeout, grpTimeout, hg, Option.bind_some, hw]
    rfl

end Sys2Proof.Proofs

/-! # Owner pops and task starts (R35, R37, R97, R100, R305)

What a core's queue unit does with its deque and its taken tasks, case by case. -/

namespace Sys2Proof.Proofs

open Sys2Proof Sys2Proof.Machine Sys2Proof.Laws

/-! ### The pop (R37, R305) -/

theorem modCore_congr {s : State} {c : Nat} {f g : Core → Core} (h : f (coreAt s c) = g (coreAt s c)) : modCore s c f = modCore s c g :=
  congrArg (setCore s c) h

theorem popDeque_noTeam {s : State} {c : Nat} (h : freeTeam s c = none) : popDeque s c = s := if_pos (by rw [h]; rfl)

section
variable {s : State} {c : Nat} (hfree : (freeTeam s c).isSome = true)
include hfree

/-- A core without an entry looks for a victim (R37). -/
theorem popDeque_idle (hd : (coreAt s c).deque = []) (hout : (coreAt s c).steal.out = false) (ht : timerSet s (.stealTry c) = false) :
    popDeque s c = after s 4 (.stealTry c) := by
  unfold timerSet at ht
  simp only [popDeque, Option.isNone_eq_false_iff.2 hfree, hd, hout, ht, List.isEmpty_nil, Bool.not_false, Bool.and_self, Bool.false_eq_true,
    if_false, if_true]

variable {e : DqEntry} {rest : List DqEntry} (hd : (coreAt s c).deque = rest ++ [e]) (he : e.clm = false)
  (hstaged : (coreAt s c).staged.any (fun y => !y.bad) = false) (hkept : (coreAt s c).pieces.any (fun p => p.2.kept) = false)
include hd he hstaged hkept

theorem popDeque_busy (hb : dqBusy s c 3 = true) : popDeque s c = after s 1 (.ownerPop c) := by
  have hsome : (rest ++ [e]).isEmpty = false := by simp
  simp only [popDeque, Option.isNone_eq_false_iff.2 hfree, hd, hstaged, hkept, hsome,
    Bool.or_self, Bool.false_eq_true, if_false, List.reverse_append, List.reverse_cons, List.reverse_nil, List.nil_append,
    List.singleton_append, List.find?_cons, he, Bool.not_false, hb, if_true]

/-- The newest entry leaves the hot end. -/
theorem popDeque_pops (hb : dqBusy s c 3 = false) : popDeque s c
    = stageEntry (leftDeque (dqDone (modCore s c (fun k => { k with deque := rest })) c 3) c) c e := by
  have hsome : (rest ++ [e]).isEmpty = false := by simp
  have hlast : (rest ++ [e]).eraseIdx ((rest ++ [e]).length - 1 - 0) = rest := by
    rw [List.eraseIdx_append_of_length_le (by simp)]; simp
  have hleft : modCore s c (fun k => { k with deque := k.deque.eraseIdx ((rest ++ [e]).length - 1 - 0) })
      = modCore s c (fun k => { k with deque := rest }) := modCore_congr (by rw [hd, hlast])
  simp only [popDeque, Option.isNone_eq_false_iff.2 hfree, hd, hstaged, hkept, hsome,
    Bool.or_self, Bool.false_eq_true, if_false, List.reverse_append, List.reverse_cons, List.reverse_nil, List.nil_append,
    List.singleton_append, List.find?_cons, List.findIdx_cons, he, Bool.not_false, cond_true, hb, hleft]

end

/-- With no push and no ready node waiting, OWNER_POP is the pop, and the removals that wait. -/
theorem exec_ownerPop {s : State} {c : Nat} (hq : (coreAt s c).pushQ = []) (hr : (coreAt s c).poolReady = []) :
    exec (.ownerPop c) s = .next (drainRemoval (popDeque s c) c) := by
  show Host.Outcome.next (ownerPopCore s c) = _
  rw [ownerPopCore, drainPush_nil hq, drainReady_nil hr]

/-! ### Task starts (R32, R97, R100) -/

theorem coreAt_kick (s : State) (c d : Nat) : coreAt (kick s c) d = coreAt s d := coreAt_congr rfl d

theorem groupAt_kick (s : State) (c d i : Nat) : groupAt (kick s c) d i = groupAt s d i := groupAt_of_cores rfl d i

/-- The group of index `i` in a team that has started a task: fresh registers, the closure's words in k0 to k15. -/
structure Started (x : Grid) (b : Nat) (ca : Dword) (cl : List Dword) (i : Nat) (h : Group) : Prop where
  r : h.r = startRegs ca cl false
  gi : h.gi = i
  team : h.team = b
  a : h.a = x.regs
  pasid : h.pasid = x.pasid
  fmode : h.fmode = false

theorem startTeam_groups (s : State) (c gn : Nat) (x : Grid) (b : Nat) (ca : Dword) (cl : List Dword) (piece : Option Nat) (held : List Nat)
    (heldEnd : Nat) {i : Nat} (hi : i < x.team) :
    ∃ h, groupAt (startTeam s c gn x b ca cl piece held heldEnd) c (b + i) = some h ∧ Started x b ca cl i h := by
  refine foldl_establishes (P := fun t => ∃ h, groupAt t c (b + i) = some h ∧ Started x b ca cl i h) (List.mem_range.2 hi)
    (fun t => ⟨_, groupAt_setGroup_self .., rfl, rfl, rfl, rfl, rfl, rfl⟩) (fun t j ht => ?_) _
  by_cases hj : j = i
  · subst hj; exact ⟨_, groupAt_setGroup_self .., rfl, rfl, rfl, rfl, rfl, rfl⟩
  · rw [groupAt_setGroup, if_neg (by omega)]
    exact ht

theorem staged_grantTiles (s : State) (c team n : Nat) : (coreAt (grantTiles s c team n).2 c).staged = (coreAt s c).staged := by
  simp only [grantTiles, modTeam, setTeam, coreAt_modCore_self]

theorem staged_startTeam (s : State) (c gn : Nat) (x : Grid) (b : Nat) (ca : Dword) (cl : List Dword) (piece : Option Nat) (held : List Nat)
    (heldEnd : Nat) : (coreAt (startTeam s c gn x b ca cl piece held heldEnd) c).staged = (coreAt s c).staged := by
  refine List.foldlRecOn (motive := fun t => (coreAt t c).staged = (coreAt s c).staged) _ _ ?_ (fun t ht j _ => ?_)
  · rw [staged_grantTiles, setTeam, coreAt_modCore_self]
  · rw [setGroup, coreAt_modCore_self]; exact ht

/-- The doublewords that a start loads into k0 to k15: the closure's address, its result word and its six arguments (R100). -/
def startWords (ca : Dword) (cl : List Dword) : List Dword := [ca, clDw cl 1] ++ (List.range 6).map (fun i => clDw cl (10 + i))

section
variable (ca : Dword) (cl : List Dword) (icall : Bool)

theorem startRegs_pc {l : Nat} (h : l < 32) : sget 0 (startRegs ca cl icall).pc l = clEntry cl := sget_freshRegs_pc _ icall h

theorem startRegs_v (j : Nat) : sget 0 (startRegs ca cl icall).v j = 0 := rfl

theorem startRegs_k {j : Nat} (h : j < 16) : sget 0 (startRegs ca cl icall).k j
    = if j % 2 = 0 then loWord ((startWords ca cl).getD (j / 2) 0) else hiWord ((startWords ca cl).getD (j / 2) 0) :=
  sget_ssetAll_map (0 : Word) (List.range 16) id
    (fun i => if i % 2 = 0 then loWord ((startWords ca cl).getD (i / 2) 0) else hiWord ((startWords ca cl).getD (i / 2) 0)) [] j
    (fun _ _ h => h) (List.mem_range.2 h)

theorem startRegs_k_even {i : Nat} (h : i < 8) : sget 0 (startRegs ca cl icall).k (2 * i) = loWord ((startWords ca cl).getD i 0) := by
  rw [startRegs_k ca cl icall (by omega), if_pos (by omega), show 2 * i / 2 = i by omega]

theorem startRegs_k_odd {i : Nat} (h : i < 8) : sget 0 (startRegs ca cl icall).k (2 * i + 1) = hiWord ((startWords ca cl).getD i 0) := by
  rw [startRegs_k ca cl icall (by omega), if_neg (by omega), show (2 * i + 1) / 2 = i by omega]

theorem startWords_argument {j : Nat} (h : j < 6) : (startWords ca cl).getD (j + 2) 0 = clDw cl (10 + j) := by
  simp [startWords, List.getD_eq_getElem?_getD, h]

end

/-- The registers with which a group starts a task, as R97 and R100 give them. -/
theorem Started.registers {x : Grid} {b : Nat} {ca : Dword} {cl : List Dword} {i : Nat} {h : Group} (hs : Started x b ca cl i h) :
    (∀ l < 32, sget 0 h.r.pc l = clEntry cl) ∧ (∀ j, sget 0 h.r.v j = 0) ∧ sget 0 h.r.k 0 = loWord ca ∧ sget 0 h.r.k 1 = hiWord ca
      ∧ sget 0 h.r.k 2 = loWord (clDw cl 1) ∧ sget 0 h.r.k 3 = hiWord (clDw cl 1)
      ∧ ∀ j < 6, sget 0 h.r.k (4 + 2 * j) = loWord (clDw cl (10 + j)) ∧ sget 0 h.r.k (5 + 2 * j) = hiWord (clDw cl (10 + j)) := by
  rw [hs.r]
  refine ⟨fun l hl => startRegs_pc ca cl false hl, startRegs_v ca cl false, startRegs_k_even ca cl false (i := 0) (by omega),
    startRegs_k_odd ca cl false (i := 0) (by omega), startRegs_k_even ca cl false (i := 1) (by omega),
    startRegs_k_odd ca cl false (i := 1) (by omega), fun j hj => ⟨?_, ?_⟩⟩
  · rw [show 4 + 2 * j = 2 * (j + 2) by omega, startRegs_k_even ca cl false (by omega), startWords_argument ca cl hj]
  · rw [show 5 + 2 * j = 2 * (j + 2) + 1 by omega, startRegs_k_odd ca cl false (by omega), startWords_argument ca cl hj]

/-! ### The first staged task -/

/-- The tasks that are staged already, and those that a fault holds, wait. -/
theorem stageStep_waits {c p : Nat} {s : State} {x : Staged} (h : x.bad = true ∨ x.deadline ≠ 0) : stageStep c p s x = s :=
  if_pos (by simpa using h)

theorem foldl_stageStep_waits {c p : Nat} {ls : List Staged} (h : ∀ y ∈ ls, y.bad = true ∨ y.deadline ≠ 0) (s : State) :
    ls.foldl (stageStep c p) s = s := by
  induction ls with
  | nil => rfl
  | cons y ys ih =>
    rw [List.foldl_cons, stageStep_waits (h y List.mem_cons_self)]
    exact ih (fun z hz => h z (List.mem_cons_of_mem _ hz))

/-- A slot set that is free belongs to a compute core whose context is not being stopped. -/
theorem startable_of_freeTeam {s : State} {c b : Nat} (h : freeTeam s c = some b) :
    (coreAt s c).role = 0 ∧ (coreAt s c).stopReq = false := by
  unfold freeTeam at h
  split at h
  · exact absurd h nofun
  · split at h
    next => exact absurd h nofun
    next hno => simp only [Bool.or_eq_true, not_or, Bool.not_eq_true, decide_eq_false_iff_not, ne_eq, not_not] at hno; exact hno.1.1

section
variable {s : State} {c b gn : Nat} {g : Grid} {x : Staged} {xs : List Staged} (hstaged : (coreAt s c).staged = x :: xs) (hx : x.bad = false)
  (hd : x.deadline ≠ 0) (hgrid : coreGrid s c = some (gn, g)) (hb : freeTeam s c = some b)
include hstaged hx hd hb

theorem startFirst_task (hkind : x.e.kind ≠ 1) : startFirst s c gn g
    = kick (startTeam (modCore s c (fun k => { k with staged := xs })) c gn g b (caOf x.e.cline) x.cl none x.held x.deadline) c := by
  have hleft : modCore s c (fun k => { k with staged := k.staged.erase x }) = modCore s c (fun k => { k with staged := xs }) :=
    modCore_congr (by rw [hstaged, List.erase_cons_head])
  simp only [startFirst, hstaged, List.find?_cons, hx, Bool.not_false, Bool.true_and, ne_eq, hd, not_false_eq_true, decide_true, hb, hkind,
    if_false, hleft]

include hgrid

theorem exec_taskStart_staged (hkept : startKept s c = none) (hxs : ∀ y ∈ xs, y.bad = true ∨ y.deadline ≠ 0) (hkind : x.e.kind ≠ 1) :
    exec (.taskStart c) s = .next
      (kick (startTeam (modCore s c (fun k => { k with staged := xs })) c gn g b (caOf x.e.cline) x.cl none x.held x.deadline) c) := by
  obtain ⟨hrole, hstop⟩ := startable_of_freeTeam hb
  have hwait : ∀ y ∈ (coreAt s c).staged, y.bad = true ∨ y.deadline ≠ 0 := by
    rw [hstaged]; exact List.forall_mem_cons.2 ⟨.inr hd, hxs⟩
  show Host.Outcome.next (startStaged s c) = _
  rw [startStaged, if_neg (by simp [hrole, hstop])]
  simp only [hkept, hgrid, foldl_stageStep_waits hwait, startFirst_task hstaged hx hd hb hkind]

end

end Sys2Proof.Proofs

/-! # The lines that a core holds (R188, R195, R307)

A core's copies and its fill table, and the steps that leave them alone: a translation fills TLBs and asks the host, a unit's read counts at
stacks and fills the home slice's L2. -/

namespace Sys2Proof.Proofs

open Sys2Proof Sys2Proof.Machine Sys2Proof.Laws

/-- A step leaves a core's copies and its fill table as they are. -/
structure SameCopies (c : Nat) (s t : State) : Prop where
  l1 : (coreAt t c).l1 = (coreAt s c).l1
  stashLines : (coreAt t c).stashLines = (coreAt s c).stashLines
  fills : (coreAt t c).fills = (coreAt s c).fills

namespace SameCopies

variable {c : Nat} {s t u : State}

theorem refl (c : Nat) (s : State) : SameCopies c s s := ⟨rfl, rfl, rfl⟩

theorem trans (h : SameCopies c s t) (k : SameCopies c t u) : SameCopies c s u :=
  ⟨k.l1.trans h.l1, k.stashLines.trans h.stashLines, k.fills.trans h.fills⟩

theorem of_coreAt (h : coreAt t c = coreAt s c) : SameCopies c s t := by
  constructor <;> rw [h]

theorem of_cores (h : t.cores = s.cores) : SameCopies c s t := of_coreAt (coreAt_congr h c)

/-- A change of any core that keeps its copies and its fill table. -/
theorem of_modCore {s : State} (d : Nat) {f : Core → Core} (hf : ∀ k, (f k).l1 = k.l1 ∧ (f k).stashLines = k.stashLines ∧ (f k).fills = k.fills) :
    SameCopies c s (modCore s d f) := by
  by_cases h : c = d
  · subst h
    obtain ⟨hl1, hstash, hfills⟩ := hf (coreAt s c)
    constructor <;> rw [coreAt_modCore_self] <;> assumption
  · exact of_coreAt (by rw [coreAt_modCore, if_neg h])

theorem foldl {α : Type} {f : State → α → State} (h : ∀ s x, SameCopies c s (f s x)) (ls : List α) (s : State) :
    SameCopies c s (ls.foldl f s) :=
  List.foldlRecOn (motive := SameCopies c s) ls f (refl c s) (fun t ht x _ => ht.trans (h t x))

theorem missing (h : SameCopies c s t) (line : Nat) : missing (coreAt t c) line = missing (coreAt s c) line := by
  simp only [Machine.missing, h.l1, h.stashLines]

end SameCopies

/-! ### Translation (R366 to R374) -/

theorem fillTlb_copies (c : Nat) (s : State) (core : Nat) (who : Agent) (t : TlbEnt) : SameCopies c s (fillTlb s core who t) := by
  unfold fillTlb
  cases who with
  | group | stream | prefetch => exact .of_modCore core fun _ => ⟨rfl, rfl, rfl⟩
  | copy e => exact .of_cores rfl
  | unit => exact .refl c s

theorem cores_askAts (s : State) (core p page : Nat) (me : Nat × Nat) : (askAts s core p page me).cores = s.cores := by
  unfold askAts
  split
  · split <;> rfl
  · split <;> rfl

theorem cores_dropAsker (s : State) (me : Nat × Nat) (q : AtsReq → Bool) : (dropAsker s me q).cores = s.cores := by
  unfold dropAsker
  dsimp only
  split <;> rfl

theorem cores_takeWalk (s : State) (d p va : Nat) (r : Except XErr (Dword × Nat × Nat)) : (takeWalk s d p va r).2.cores = s.cores := by
  unfold takeWalk
  dsimp only
  split <;> rfl

theorem cores_takeLeaf (s : State) (va : Nat) (table : Option Nat) (r : Except XErr (Dword × Nat × Nat)) :
    (takeLeaf s va table r).2.cores = s.cores := by
  unfold takeLeaf
  dsimp only
  split
  · rfl
  · split <;> rfl

theorem atsPage_copies (c : Nat) (s : State) (core p page : Nat) (e : Dword) (acc : Access) :
    SameCopies c s (atsPage s core p page e acc).2 := by
  unfold atsPage
  dsimp only
  split
  · exact .refl c s
  · split
    · exact fillTlb_copies ..
    · split
      · exact .of_cores (cores_dropAsker ..)
      · exact .of_cores (cores_askAts ..)

theorem applyLeaf_copies (c : Nat) (s : State) (core p : Nat) (fmode : Bool) (va : Nat) (e : Dword) (lvl : Nat) (acc : Access) :
    SameCopies c s (applyLeaf s core p fmode va e lvl acc).2 := by
  have hats := atsPage_copies c s core p (va / 4096) e acc
  unfold applyLeaf
  dsimp only
  split
  · split
    next h => rw [h] at hats; exact hats
    next h => rw [h] at hats; split <;> exact hats
  · split
    · exact .refl c s
    · split <;> exact .refl c s

/-- The leaf that a walk gives an access, which waits where a held line lies on its path, leaves every core alone. -/
theorem looked_copies (c : Nat) (s : State) (held : Bool) (d p va : Nat) (table : Option Nat) (r : Except XErr (Dword × Nat × Nat)) :
    SameCopies c s (if held = true then (Except.error XErr.held, (takeWalk s d p va r).2)
      else takeLeaf (takeWalk s d p va r).2 va table (takeWalk s d p va r).1).2 := by
  split
  · exact .of_cores (cores_takeWalk ..)
  · exact .of_cores ((cores_takeLeaf ..).trans (cores_takeWalk ..))

theorem xlate_copies (c : Nat) (s : State) (core p : Nat) (fmode : Bool) (va : Dword) (acc : Access) :
    SameCopies c s (xlate s core p fmode va acc).2 := by
  have hfill : ∀ t e lvl, SameCopies c s t → SameCopies c s (applyLeaf (fillTlb t core acc.who
      { pasid := p, va := va.toNat % 2 ^ 57 / 4096, lvl := lvl, leaf := e, ats := none }) core p fmode (va.toNat % 2 ^ 57) e lvl acc).2 :=
    fun t e lvl ht => (ht.trans (fillTlb_copies ..)).trans (applyLeaf_copies ..)
  have huse : ∀ t e lvl, SameCopies c s t → SameCopies c s (applyLeaf t core p fmode (va.toNat % 2 ^ 57) e lvl acc).2 :=
    fun t e lvl ht => ht.trans (applyLeaf_copies ..)
  have hfree : ∀ t, SameCopies c s t → SameCopies c s (takeFree t).2 := fun t ht => ht.trans (.of_cores rfl)
  unfold xlate
  dsimp only
  split
  · exact .refl c s
  split
  · exact .refl c s
  split
  · split <;> exact .refl c s
  split
  · exact .refl c s
  next root _ =>
  have hlook := looked_copies c s (heldRead s none ((s.mmio.ptbase + 16 * p) / 128)
    || (walkReads s (va.toNat % 2 ^ 57) 5 4 root).1.any (heldRead s none)) (dieOf core) p (va.toNat % 2 ^ 57)
    (walkReads s (va.toNat % 2 ^ 57) 5 4 root).2 (walkFrom s (va.toNat % 2 ^ 57) 5 4 root)
  generalize (if (heldRead s none ((s.mmio.ptbase + 16 * p) / 128)
    || (walkReads s (va.toNat % 2 ^ 57) 5 4 root).1.any (heldRead s none)) = true then _ else _) = l at hlook ⊢
  split
  · split
    · exact hlook
    · exact hfill _ _ _ hlook
  · split
    · split
      · exact hfill _ _ _ hlook
      · split
        · exact huse _ _ _ (hfree _ hlook)
        · exact hfill _ _ _ (hfree _ hlook)
    · exact huse _ _ _ hlook
    · split
      · exact huse _ _ _ (hfree _ hlook)
      · exact hfree _ hlook

theorem xlatePages_copies (c core p : Nat) (fmode : Bool) (va : Dword) (acc : Access) (os : List Nat) (s : State) :
    SameCopies c s (xlatePages core p fmode va acc os s).2 := by
  induction os generalizing s with
  | nil => exact .refl c s
  | cons o os ih => exact (xlate_copies c s core p fmode (addAddr va o) acc).trans (ih _)

theorem engineAddrs_copies (c : Nat) (s : State) (core p : Nat) (va : Dword) (n : Nat) (wr : Bool) (who : Agent) :
    SameCopies c s (engineAddrs s core p va n wr who).2 := by
  have hpages := xlatePages_copies c core p false va { wr := wr, who := who } (pageStarts va n) s
  unfold engineAddrs
  dsimp only
  split <;> exact hpages

/-! ### Reads at the home slices (R188, R202, R209) -/

theorem cores_sendPacket (s : State) (src x : Nat) (e : Instr) : (sendPacket s src x e).cores = s.cores := by
  unfold sendPacket
  dsimp only
  split <;> rfl

theorem cores_l2Room (s : State) (slice : Nat) : (l2Room s slice).cores = s.cores := by
  unfold l2Room
  dsimp only
  split
  · rfl
  · split
    · rfl
    · split
      · exact cores_sendPacket ..
      · rfl

theorem cores_l2Fill (s : State) (line : Nat) : (l2Fill s line).cores = s.cores := by
  unfold l2Fill
  split
  · rfl
  · exact cores_l2Room ..

theorem cores_countPacket (s : State) (x row : Nat) : (countPacket s x row).cores = s.cores := by
  unfold countPacket
  split
  · rfl
  · exact cores_ctrAdd ..

theorem cores_l2Fetch (s : State) (line : Nat) : (l2Fetch s line).cores = s.cores := by
  unfold l2Fetch
  split
  · rfl
  · exact (cores_l2Fill ..).trans (cores_countPacket ..)

theorem cores_enterRebuilt (s : State) (line : Nat) (v : List Byte) : (enterRebuilt s line v).cores = s.cores := by
  simp only [enterRebuilt, cores_l2Fill, clearPoison, memPut_cores]
  split <;> rfl

theorem cores_markPoison (s : State) (line : Nat) : (markPoison s line).cores = s.cores := by
  unfold markPoison
  dsimp only
  split
  · rfl
  · exact cores_ctrAdd ..

theorem cores_rebuild (s : State) (line : Nat) : (rebuild s line).cores = s.cores := by
  have hcount : ∀ t : State, t.cores = s.cores →
      (if reconOk t line then enterRebuilt t line (reconValue t line) else markPoison t line).cores = s.cores := fun t ht => by
    split
    · rw [cores_enterRebuilt, ht]
    · rw [cores_markPoison, ht]
  unfold rebuild
  dsimp only
  apply hcount
  split <;> simp only [cores_ctrAdd, cores_countPacket]

theorem cores_readLine (s : State) (line : Nat) : (readLine s line).cores = s.cores := by
  unfold readLine
  split
  · exact cores_rebuild ..
  · rfl

theorem unitRead_copies {c : Nat} {s t : State} {pas : List Nat} (h : unitRead s pas = some t) : SameCopies c s t := by
  unfold unitRead at h
  dsimp only at h
  split at h
  · exact absurd h nofun
  · obtain rfl := Option.some.inj h
    exact (SameCopies.foldl (fun s l => .of_cores (cores_readLine s l)) _ _).trans
      (SameCopies.foldl (fun s l => .of_cores (cores_l2Fetch s l)) _ _)

/-! ### Staging (R304, R307) -/

theorem stagingLines_copies (c : Nat) (s : State) (core p : Nat) (cl : List Dword) : SameCopies c s (stagingLines s core p cl).2 := by
  refine List.foldlRecOn (motive := fun acc : List Nat × State => SameCopies c s acc.2) _ _ (.refl c s) (fun acc hacc v _ => ?_)
  have haddr := hacc.trans (engineAddrs_copies c acc.2 core p (caOf (BitVec.ofNat 50 v)) 1 false .prefetch)
  split
  next h => rw [h] at haddr; exact haddr
  next h => rw [h] at haddr; exact haddr

theorem entryLines_copies (c : Nat) (s : State) (core p : Nat) (e : DqEntry) : SameCopies c s (entryLines s core p e).2 := by
  have haddr := engineAddrs_copies c s core p (caOf e.cline) 128 false .prefetch
  unfold entryLines
  split
  next h => rw [h] at haddr; exact haddr
  next pas t h =>
    rw [h] at haddr
    dsimp only
    split
    · exact haddr
    next u hu =>
      have hread := haddr.trans (unitRead_copies hu)
      split
      · exact hread
      · exact hread.trans (stagingLines_copies ..)

theorem markStaged_copies (c core p : Nat) (s : State) (e : DqEntry) : SameCopies c s (markStaged core p s e) := by
  have hlines := entryLines_copies c s core p e
  unfold markStaged
  split
  · exact .refl c s
  split
  next h => rw [h] at hlines; exact hlines
  next ls t h =>
    rw [h] at hlines
    split
    · exact hlines
    · exact hlines.trans (.of_modCore core fun _ => ⟨rfl, rfl, rfl⟩)

end Sys2Proof.Proofs

/-! # Lines that arrive at a core (R195, R196, R304, R307, R414)

FILL_RETURN takes the line out of the fill table and brings it into the core; what goes on for it leaves both as they are. -/

namespace Sys2Proof.Proofs

open Sys2Proof Sys2Proof.Machine Sys2Proof.Laws

/-- A line has arrived at a core: no fill of it is under way, and the core holds a valid copy. -/
def Arrived (c line : Nat) (s : State) : Prop := line ∉ (coreAt s c).fills ∧ missing (coreAt s c) line = false

theorem SameCopies.arrived {c line : Nat} {s t : State} (h : SameCopies c s t) (ha : Arrived c line s) : Arrived c line t := by
  rw [Arrived, h.fills, h.missing]; exact ha

/-! ### The directory and the slices (R188, R199) -/

theorem dirAdd_copies (c : Nat) (s : State) (d line : Nat) : SameCopies c s (dirAdd s d line) := by
  have hleft : SameCopies c s (modCore s d (fun k => { k with leaving := k.leaving.filter (fun e => !(e.1 == line)) })) :=
    .of_modCore d fun _ => ⟨rfl, rfl, rfl⟩
  unfold dirAdd
  dsimp only
  split
  · exact hleft
  · exact hleft.trans (.of_cores rfl)

theorem cores_serveRead (s : State) (c line : Nat) : (serveRead s c line).cores = s.cores := by
  unfold serveRead
  split
  · rfl
  · exact cores_l2Fetch ..

/-! ### Copies -/

theorem not_missing_of_l1 {k : Core} {line : Nat} {x : L1Line} (hx : x ∈ k.l1) (hl : x.line = line) (hv : x.valid = true) :
    missing k line = false := by
  have : k.l1.any (fun x => x.line == line && x.valid) = true := List.any_eq_true.2 ⟨x, hx, by simp [hl, hv]⟩
  simp [missing, this]

theorem not_missing_of_stash {k : Core} {line : Nat} {x : L1Line} (hx : x ∈ k.stashLines) (hl : x.line = line) (hv : x.valid = true) :
    missing k line = false := by
  have : k.stashLines.any (fun x => x.line == line && x.valid) = true := List.any_eq_true.2 ⟨x, hx, by simp [hl, hv]⟩
  simp [missing, this]

/-- A pinned line is valid again (R197). -/
theorem not_missing_revalidate {k : Core} {line : Nat}
    (h : (k.l1.any (fun x => x.line == line) || k.stashLines.any (fun x => x.line == line)) = true) :
    missing (revalidate k line) line = false := by
  simp only [Bool.or_eq_true, List.any_eq_true, beq_iff_eq] at h
  rcases h with ⟨x, hx, hl⟩ | ⟨x, hx, hl⟩
  · exact not_missing_of_l1 (List.mem_map_of_mem hx) (by rw [if_pos hl]; exact hl) (by rw [if_pos hl])
  · exact not_missing_of_stash (List.mem_map_of_mem hx) (by rw [if_pos hl]; exact hl) (by rw [if_pos hl])

/-- A core that holds the line, with the fill table that it had. -/
theorem arrived_dirAdd_setCore {s t : State} {c line : Nat} {k : Core} (hf : line ∉ (coreAt s c).fills) (hfills : k.fills = (coreAt s c).fills)
    (hm : missing k line = false) : Arrived c line (dirAdd (setCore t c k) c line) := by
  refine (dirAdd_copies ..).arrived ?_
  rw [Arrived, coreAt_setCore_self, hfills]
  exact ⟨hf, hm⟩

/-- The set of a line has a way in which no copy lies. -/
def WayFree (k : Core) (line : Nat) : Prop :=
  (List.range (l1Ways k)).any (fun w => k.l1.all (fun y => y.line % 256 != line % 256 || y.way != w)) = true

theorem freeWay_of_wayFree {k : Core} {line : Nat} (h : WayFree k line) : ((List.range (l1Ways k)).find? (fun w =>
    (k.l1.filter (fun x => x.line % 256 == line % 256)).all (fun x => !(x.way == w)))).isSome = true := by
  rw [List.find?_isSome]
  obtain ⟨w, hw, hall⟩ := List.any_eq_true.1 h
  refine ⟨w, hw, ?_⟩
  rw [List.all_filter]
  exact hall

section
variable {s : State} {c line : Nat} (hf : line ∉ (coreAt s c).fills)
include hf

theorem arrived_touchLine (h : missing (coreAt s c) line = false ∨ WayFree (coreAt s c) line) : Arrived c line (touchLine s c line) := by
  unfold touchLine
  dsimp only
  split
  next hm => exact ⟨hf, by simpa using hm⟩
  next hm =>
    have hway := freeWay_of_wayFree (h.resolve_left (by simpa using hm))
    split
    next hk => exact arrived_dirAdd_setCore hf rfl (not_missing_revalidate hk)
    · split
      · exact arrived_dirAdd_setCore hf rfl (not_missing_of_l1 (List.mem_append_right _ (List.mem_singleton_self _)) rfl rfl)
      next hnone => rw [hnone] at hway; exact absurd hway nofun

theorem arrived_touchStash : Arrived c line (touchStash s c line) := by
  unfold touchStash
  dsimp only
  split
  next hany => exact ⟨hf, by simp [missing, hany]⟩
  · split
    next hk => exact arrived_dirAdd_setCore hf rfl (not_missing_revalidate (by rw [hk, Bool.or_true]))
    · exact arrived_dirAdd_setCore hf rfl (not_missing_of_stash (List.mem_append_right _ (List.mem_singleton_self _)) rfl rfl)

theorem arrived_fillLine (p : Nat) (h : missing (coreAt s c) line = false ∨ WayFree (coreAt s c) line) :
    Arrived c line (fillLine s c p line) := by
  unfold fillLine
  split
  · exact arrived_touchStash hf
  · exact arrived_touchLine hf h

end

/-! ### What goes on for it -/

section
variable {c line : Nat} {s : State}

theorem arrived_markAhead (l : Nat) (h : Arrived c line s) : Arrived c line (markAhead c s l) := by
  obtain ⟨hf, hm⟩ := h
  rw [Arrived, markAhead, coreAt_modCore_self]
  refine ⟨hf, ?_⟩
  have hmark : ((coreAt s c).l1.map (fun x => if x.line = l then { x with ahead := true } else x)).any (fun x => x.line == line && x.valid)
      = (coreAt s c).l1.any (fun x => x.line == line && x.valid) := by
    rw [List.any_map]
    congr 1
    funext x
    simp only [Function.comp_apply]
    split <;> rfl
  rw [← hm]
  simp only [missing, hmark]

/-- A request for another line leaves it. -/
theorem arrived_requestLine {l : Nat} (hl : l ≠ line) (h : Arrived c line s) : Arrived c line (requestLine c s l) := by
  unfold requestLine
  dsimp only
  split
  · exact h
  · obtain ⟨hf, hm⟩ := h
    rw [Arrived, coreAt_send, coreAt_modCore_self]
    exact ⟨by simp [hf, hl.symm], hm⟩

theorem arrived_boundPresent (h : Arrived c line s) : Arrived c line (boundPresent s c line) := by
  unfold boundPresent
  rw [List.partition_eq_filter_filter]
  refine List.foldlRecOn (motive := Arrived c line) _ _ ?_ (fun t ht e he => ?_)
  · refine ((SameCopies.of_modCore c ?_).trans (SameCopies.foldl ?_ _ _)).arrived h
    · exact fun _ => ⟨rfl, rfl, rfl⟩
    · exact fun _ _ => .of_cores rfl
  · exact arrived_requestLine (by simpa using (List.mem_filter.1 he).2) ht

end

theorem exec_fillReturn_unasked {s : State} {c line : Nat} (h : line ∉ (coreAt s c).fills) : exec (.fillReturn c line) s = .next s :=
  congrArg Host.Outcome.next (if_neg h)

/-- The line has left the fill table and lies in the core, where its set has a way for it. -/
def filled (s : State) (c line : Nat) : State :=
  fillLine (modCore s c (fun k => { k with fills := k.fills.filter (fun l => !(l == line)) })) c
    (((coreGrid s c).map (fun g => g.2.pasid)).getD 0) line

section
variable {s : State} {c line : Nat} (h : missing (coreAt s c) line = false ∨ WayFree (coreAt s c) line)
include h

theorem arrived_filled : Arrived c line (filled s c line) := by
  have hleft : coreAt (modCore s c (fun k => { k with fills := k.fills.filter (fun l => !(l == line)) })) c
      = { coreAt s c with fills := (coreAt s c).fills.filter (fun l => !(l == line)) } := coreAt_modCore_self ..
  exact arrived_fillLine (by rw [hleft]; simp) _ (by rw [hleft]; exact h)

theorem arrived_fillArrives (hl : line ∈ (coreAt s c).fills) : Arrived c line (fillArrives s c line) := by
  have hahead : Arrived c line (if line ∈ heldLines (coreAt s c) then markAhead c (filled s c line) line else filled s c line) := by
    split
    · exact arrived_markAhead line (arrived_filled h)
    · exact arrived_filled h
  unfold fillArrives
  dsimp only
  rw [if_pos hl]
  have hbound := fun p ls => arrived_boundPresent ((SameCopies.foldl (f := markStaged c p) (fun t e => markStaged_copies c c p t e) ls _).arrived
    hahead)
  split
  · exact (SameCopies.of_cores (send_cores ..)).arrived (hbound _ _)
  · exact hbound _ _

end

end Sys2Proof.Proofs

/-! # Pops, staging and starts (R35, R37, R97, R100, R195, R305, R307)

Eager staging, the holds' end and the queue units' steps; the statement's theorem at the end puts them together with the pops, the starts and the
arrivals. -/

namespace Sys2Proof.Proofs

open Sys2Proof Sys2Proof.Machine Sys2Proof.Laws

/-! ### Eager staging (R35, R304) -/

section
variable {s f : State} {c p : Nat} {e : DqEntry} (he : e.stg = false)
include he

theorem eagerEntry_unread (h : entryLines s c p e = (none, f)) : eagerEntry c p s e = f := by
  simp only [eagerEntry, he, Bool.false_eq_true, if_false, h]

variable {ls : List Nat} (h : entryLines s c p e = (some ls, f))
include h

theorem eagerEntry_asks : eagerEntry c p s e = markStaged c p (ls.foldl (stageLine c) f) e := by
  simp only [eagerEntry, he, Bool.false_eq_true, if_false, h]

theorem markStaged_lines : markStaged c p s e = if ls.any (missing (coreAt f c)) then f
    else modCore f c (fun k => { k with deque := k.deque.map (fun x => if x = e then { x with stg := true } else x) }) := by
  simp only [markStaged, he, Bool.false_eq_true, if_false, h]

end

/-- With one entry, EAGER_STAGING is that entry's. -/
theorem exec_eagerStaging_one {s : State} {c gn : Nat} {g : Grid} {e : DqEntry} (hgrid : coreGrid s c = some (gn, g))
    (hd : (coreAt s c).deque = [e]) (hstop : (coreAt s c).stopReq = false) :
    exec (.eagerStaging c) s = .next (eagerEntry c g.pasid s e) := by
  show Host.Outcome.next (eagerStage s c) = _
  simp only [eagerStage, hgrid, hstop, hd, Bool.false_eq_true, if_false, List.reverse_singleton, List.take_succ_cons, List.take_nil, List.foldl_cons,
    List.foldl_nil]

/-! ### The end of a hold (R307) -/

theorem deque_endHold (s : State) (c cl : Nat) : (coreAt (endHold s c cl) c).deque = (coreAt s c).deque := by
  rw [endHold, coreAt_kick, coreAt_modCore_self]

theorem held_endHold {s : State} {c cl : Nat} {y : Staged} (hy : y ∈ (coreAt (endHold s c cl) c).staged) (hcl : y.e.cline.toNat = cl)
    (hd : y.deadline ≠ 0) (hdue : y.deadline ≤ s.clk) : y.held = [] := by
  rw [endHold, coreAt_kick, coreAt_modCore_self] at hy
  obtain ⟨x, _, rfl⟩ := List.mem_map.1 hy
  split at hcl
  next h => rw [if_pos h]
  next h =>
    rw [if_neg h] at hd hdue
    exact absurd ⟨hcl, hd, hdue⟩ h

/-! ### The steps complete -/

theorem queueSteps_complete (s : State) (c slot n st ch vic cl : Nat) (ctx lo hi : BitVec 32) (h v : BitVec 64) (node : NodeRef) (stale : Bool)
    (x : ChanSlot) (q : StealReq) (d : DqEntry) :
    ∀ e ∈ [Instr.freg node h, .fready node, .waitfull node h, .fqueryPoll node h, .fresv c ctx h v, .itemdone c h n, .fquery c slot h,
        .fstate c slot h st v, .fwait c slot h, .wake c slot h stale v, .ffree c h, .tyieldWindowEnd c slot, .channelSlotArrival c ch x,
        .streamRunahead c slot ch, .stealTry c, .stealreq c vic q, .stealent c vic d, .stealspl c vic cl lo hi, .stealno c vic n,
        .splitCommit vic n c],
      ∃ t, exec e s = .next t := by
  have hfwait : ∃ t, exec (.fwait c slot h) s = .next t := by
    show ∃ t, execFwait c slot h s = .next t
    unfold execFwait
    split <;> exact ⟨_, rfl⟩
  simp only [List.mem_cons, List.not_mem_nil, or_false, forall_eq_or_imp, forall_eq]
  exact ⟨⟨_, rfl⟩, ⟨_, rfl⟩, ⟨_, rfl⟩, ⟨_, rfl⟩, ⟨_, rfl⟩, ⟨_, rfl⟩, ⟨_, rfl⟩, ⟨_, rfl⟩, hfwait, ⟨_, rfl⟩, ⟨_, rfl⟩, ⟨_, rfl⟩, ⟨_, rfl⟩, ⟨_, rfl⟩,
    ⟨_, rfl⟩, ⟨_, rfl⟩, ⟨_, rfl⟩, ⟨_, rfl⟩, ⟨_, rfl⟩, ⟨_, rfl⟩⟩

/-! ### The statement -/

/-- Settles O36: each clause is the case of its step above. -/
theorem popsStagingAndStarts : Obligations.PopsStagingAndStarts := by
  unfold Obligations.PopsStagingAndStarts
  refine ⟨fun s f c line cl b gn e rest x xs g ls => ?_, queueSteps_complete⟩
  intro k
  refine ⟨fun hq hr hfree => ⟨fun hd he hstaged hkept => ⟨fun hb => ?_, fun hb => ?_⟩, fun hd hout ht => ?_⟩, fun hq hr hfree => ?_,
    fun hkept hstaged hx hdue hxs hgrid hb hkind => ⟨_, exec_taskStart_staged hstaged hx hdue hgrid hb hkept hxs hkind, ?_, fun i hi => ?_⟩,
    fun hgrid hd he hstop => ⟨fun h => ?_, fun h => ?_⟩, fun he h => markStaged_lines he h,
    ⟨_, rfl, deque_endHold s c cl, fun y hy => held_endHold hy⟩, exec_fillReturn_unasked,
    fun hl h => ⟨_, rfl, arrived_fillArrives h hl⟩⟩
  · rw [exec_ownerPop hq hr, popDeque_pops hfree hd he hstaged hkept hb]
  · rw [exec_ownerPop hq hr, popDeque_busy hfree hd he hstaged hkept hb]
  · rw [exec_ownerPop hq hr, popDeque_idle hfree hd hout ht]; rfl
  · rw [exec_ownerPop hq hr, popDeque_noTeam hfree]
  · rw [coreAt_kick, staged_startTeam, coreAt_modCore_self]
  · obtain ⟨h, hh, hstart⟩ := startTeam_groups (modCore s c (fun k => { k with staged := xs })) c gn g b (caOf x.e.cline) x.cl none x.held
      x.deadline hi
    exact ⟨h, (groupAt_kick ..).trans hh, hstart.gi, hstart.team, hstart.a, hstart.pasid, hstart.fmode, hstart.registers⟩
  · rw [exec_eagerStaging_one hgrid hd hstop, eagerEntry_unread he h]
  · rw [exec_eagerStaging_one hgrid hd hstop, eagerEntry_asks he h]

end Sys2Proof.Proofs

/-! # Reads of other lanes, votes, reductions and scans (R64, R65, R139 to R142)

The two shared forms complete with what they leave (`crossForm_completes`, `foldForm_completes`); then, form by form, the lane that is read
or the value that the contributors give. -/

namespace Sys2Proof.Proofs

open Sys2Proof Sys2Proof.Machine Sys2Proof.Laws Sys2Proof.Claims

/-! ### The shared forms (R70, R71, R104, R139) -/

/-- Which threads execute matters to the read of a source that is no port only in whether there is one. -/
theorem readSrc_congr {c : Code} {ex ex' : List Nat} (hc : plainSrc c = true) (h : ex.isEmpty = ex'.isEmpty) : readSrc c ex = readSrc c ex' := by
  have hport : c.toNat ≤ 111 ∨ ¬ c.toNat ≤ 117 := by
    simp only [plainSrc, Bool.or_eq_true, decide_eq_true_eq] at hc; omega
  unfold readSrc
  rcases hport with hn | hn <;> simp only [hn, h, if_true, if_false]

/-- Where some thread executes, the read has the source's value for every lane. -/
theorem readSrc_of_executing {s : State} {c : Code} {ex : List Nat} (hc : plainSrc c = true) (hex : ex ≠ []) :
    readSrc c ex s = .ok (srcVal s c, srcStep s ex c) := by
  obtain ⟨f, hf, -⟩ := readSrc_plain (s := s) ex hc
  have hval : f = srcVal s c := by
    funext t
    obtain ⟨f', hf', ht⟩ := readSrc_plain (s := s) [t] hc
    have hsame : readSrc c ex s = readSrc c [t] s := congrFun (readSrc_congr hc (by simpa using hex)) s
    obtain ⟨rfl, -⟩ := Prod.mk.inj (Except.ok.inj (hf.symm.trans (hsame.trans hf')))
    exact ht t (by simp)
  rw [hf, hval]

/-- A source read for a write by the executing threads, whose values may depend on every lane's value of the source. -/
theorem readSrc_writeDst {s : State} {c d : Code} (ex zl : List Nat) (f g : (Nat → Word) → Nat → Word) (hc : plainSrc c = true)
    (hd : plainDst d = true) (h : ∀ x, ∀ t ∈ ex, f x t = g x t) :
    (readSrc c ex >>= fun x => writeDst d ex zl (f x)) s = .ok ((), putWord (srcStep s ex c) d ex zl (g (srcVal s c))) := by
  by_cases hex : ex = []
  · obtain ⟨x, hx, -⟩ := readSrc_plain (s := s) ex hc
    rw [bind_ok hx, writeDst_plain _ _ _ hd, putWord_congr _ _ _ _ _ (g (srcVal s c)) fun t ht => by simp [hex] at ht]
  · rw [bind_ok (readSrc_of_executing hc hex), writeDst_plain _ _ _ hd, putWord_congr _ _ _ _ _ _ (h _)]

section
variable {s : State} {p : Option Pfx} {d a b : Code} (h : issuing s = true) (hd : okDst s d = true) (ha : okSrc s a = true)
include h hd ha

/-- A form that reads register a of a chosen lane completes with the values that the registers held before it. -/
theorem crossForm_completes {src : (Nat → Word) → List Nat → Nat → Nat} {laneOf : List Nat → (Nat → Word) → Nat → Nat}
    (hv : a.toNat ≤ 95) (hb : okSrc s b = true) (hsrc : ∀ ex y, ∀ t ∈ ex, src y ex t = laneOf ex y t) :
    issueP p (crossRead p d a b src) s = .next (finish s (putWord (srcStep (entered (unitLen p) s) (execs s p) b) d (execs s p) (zeroed s p)
      (fun t => srcVal (entered (unitLen p) s) a (laneOf (execs s p) (srcVal (entered (unitLen p) s) b) t)))) := by
  have hread : ∀ t, readV (curGroup (entered (unitLen p) s)).r a t = srcVal (entered (unitLen p) s) a t := fun t => by
    simp only [readV, vKey, srcVal, hv, if_true]
  refine issueP_ok h ?_
  unfold crossRead
  rw [decide_eq_true hv, bind_ok (ensure_true ..), bind_ok (checkOps_ok _ _ (by
      simp only [List.mem_cons, List.not_mem_nil, or_false, forall_eq_or_imp, forall_eq]
      exact ⟨opnd_dst (by simpa [h] using hd), opnd_src (by simpa [h] using ha), opnd_src (by simpa [h] using hb)⟩)),
    bind_ok (execLanes_entered _ h p), bind_ok (zeroLanes_entered _ h p), bind_ok (getG_run ..)]
  exact readSrc_writeDst _ _ _ (fun y t => srcVal (entered (unitLen p) s) a (laneOf (execs s p) y t)) (okSrc_plain hb) (okDst_plain hd)
    fun y t ht => by rw [hsrc _ y t ht, hread]

/-- A form that combines the contributors' values completes with what they give. -/
theorem foldForm_completes {f g : List Nat → (Nat → Word) → Nat → Word} (hf : ∀ ex x t, f ex x t = g ex x t) :
    issueP p (laneFold p d a f) s = .next (finish s (putWord (srcStep (entered (unitLen p) s) (execs s p) a) d (execs s p) (zeroed s p)
      (fun t => g (execs s p) (srcVal (entered (unitLen p) s) a) t))) := by
  refine issueP_ok h ?_
  unfold laneFold
  rw [bind_ok (checkOps_ok _ _ (by
      simp only [List.mem_cons, List.not_mem_nil, or_false, forall_eq_or_imp, forall_eq]
      exact ⟨opnd_dst (by simpa [h] using hd), opnd_src (by simpa [h] using ha)⟩)),
    bind_ok (execLanes_entered _ h p), bind_ok (zeroLanes_entered _ h p)]
  exact readSrc_writeDst _ _ _ (g (execs s p)) (okSrc_plain ha) (okDst_plain hd) fun x t _ => hf _ x t

end

/-! ### Source lanes (R140) -/

@[simp] theorem segWidth_eq_segOf (y : Word) : segWidth y = segOf y := by
  simp [segWidth, segOf, BitVec.extractLsb'_toNat, Nat.shiftRight_eq_div_pow]

@[simp] theorem laneVal_eq_laneNum (y : Word) : laneVal y = laneNum y := by simp [laneVal, laneNum, BitVec.extractLsb'_toNat]

theorem segOf_pos (y : Word) : 0 < segOf y := Nat.two_pow_pos _

/-- Modulo a width, adding what n lacks of a full turn is subtracting n. -/
theorem add_sub_mod_eq_emod {w : Nat} (hw : 0 < w) (r n : Nat) : (r + (w - n % w)) % w = (((r : Int) - n) % (w : Int)).toNat := by
  have hle : n % w ≤ w := (Nat.mod_lt n hw).le
  have hturns : ((r + (w - n % w) : Nat) : Int) = (r : Int) - n + w * ((n / w : Nat) + 1) := by
    have hn : (n : Int) = w * (n / w : Nat) + (n % w : Nat) := by exact_mod_cast (Nat.div_add_mod n w).symm
    rw [Nat.cast_add, Nat.cast_sub hle, mul_add]
    omega
  rw [← Int.toNat_natCast ((r + (w - n % w)) % w), Int.natCast_emod, hturns, Int.add_mul_emod_self_left]

theorem shflLane_eq (y : Word) (t : Nat) : shflLane y t = t - t % segOf y + laneNum y % segOf y := by simp [shflLane]

theorem bflyLane_eq (y : Word) (t : Nat) : bflyLane y t = t ^^^ (laneNum y % segOf y) := by simp [bflyLane]

theorem upLane_eq (y : Word) (t : Nat) :
    upLane y t = t - t % segOf y + ((((t % segOf y : Nat) : Int) - laneNum y) % (segOf y : Int)).toNat := by
  simp only [upLane, segWidth_eq_segOf, laneVal_eq_laneNum, add_sub_mod_eq_emod (segOf_pos y)]

theorem dnLane_eq (y : Word) (t : Nat) : dnLane y t = t - t % segOf y + (t % segOf y + laneNum y) % segOf y := by simp [dnLane]

theorem lowest_eq_headD {α : Type} [Inhabited α] {ex : List Nat} (f : Nat → α) (h : ex ≠ []) : lowest ex f = f (ex.headD 0) := by
  cases ex with
  | nil => exact absurd rfl h
  | cons t ts => rfl

/-! ### Votes (R141) -/

theorem any_eq_flag (ex : List Nat) (x : Nat → Word) : (if ex.any (fun t => x t != 0) then 1 else 0) = flag (∃ t ∈ ex, x t ≠ 0) := by
  simp only [flag, List.any_eq_true, bne_iff_ne]

theorem all_eq_flag (ex : List Nat) (x : Nat → Word) : (if ex.all (fun t => x t != 0) then 1 else 0) = flag (∀ t ∈ ex, x t ≠ 0) := by
  simp only [flag, List.all_eq_true, bne_iff_ne]

theorem getLsbD_maskOf (ls : List Nat) (i : Nat) : (maskOf ls).getLsbD i = (decide (i < 32) && decide (i ∈ ls)) := by
  have hacc : ∀ m : Word, (ls.foldl (fun m t => m ||| BitVec.ofNat 32 (2 ^ t)) m).getLsbD i
      = (m.getLsbD i || (decide (i < 32) && decide (i ∈ ls))) := by
    induction ls with
    | nil => simp
    | cons t ts ih =>
      intro m
      rw [List.foldl_cons, ih, BitVec.getLsbD_or, BitVec.getLsbD_ofNat, Nat.testBit_two_pow]
      grind
  exact (hacc 0).trans (by simp)

theorem getLsbD_wordOf (bit : Nat → Bool) (i : Nat) : (wordOf bit).getLsbD i = (decide (i < 32) && bit i) := by
  have hfold : ∀ ls : List Nat, (ls.foldr (fun i w => w ||| (if bit i then BitVec.twoPow 32 i else 0)) (0 : Word)).getLsbD i
      = (decide (i < 32) && (decide (i ∈ ls) && bit i)) := by
    intro ls
    induction ls with
    | nil => simp
    | cons t ts ih =>
      rw [List.foldr_cons, BitVec.getLsbD_or, ih, apply_ite (BitVec.getLsbD · i), BitVec.getLsbD_twoPow]
      grind
  rw [wordOf, hfold, ← Bool.and_assoc]
  simp only [List.mem_range, Bool.and_self]

theorem maskOf_filter_eq_wordOf (ex : List Nat) (x : Nat → Word) :
    maskOf (ex.filter (fun t => x t != 0)) = wordOf (fun i => decide (i ∈ ex) && x i != 0) := by
  refine BitVec.eq_of_getLsbD_eq fun i _ => ?_
  rw [getLsbD_maskOf, getLsbD_wordOf]
  simp only [List.mem_filter, Bool.decide_and, Bool.decide_eq_true]

/-! ### Reductions and scans of integers (R64, R65, R142) -/

theorem intI32_eq_clampI (sat : Bool) (v : Int) : intI32 sat v = clampI sat v := by
  have hclamp : clampInt (-2147483648) 2147483647 v = nearest (-2 ^ 31) (2 ^ 31 - 1) v := by
    unfold clampInt nearest; omega
  unfold intI32 clampI wrap32
  rw [hclamp, apply_ite (BitVec.ofInt 32)]

theorem sumI_eq_sumOf (ls : List Nat) (x : Nat → Word) : sumI ls x = sumOf ls x := by
  rw [sumI, sumOf, List.sum_eq_foldl, List.foldl_map]

/-- The signed value of the contributor that a strict order puts first, where `op` is that order's choice between two values. -/
theorem toInt_bestOf_cons {better : Word → Word → Bool} {op : Int → Int → Int}
    (hop : ∀ u m : Word, op m.toInt u.toInt = (if better u m then u else m).toInt) (t : Nat) (ts : List Nat) (x : Nat → Word) :
    (bestOf better (t :: ts) x).toInt = (ts.map (fun u => (x u).toInt)).foldl op (x t).toInt := by
  rw [List.foldl_map]
  exact (List.foldl_hom BitVec.toInt fun m u => hop (x u) m).symm

theorem bestOf_lt_eq_leastI (ls : List Nat) (x : Nat → Word) :
    bestOf (fun u m => decide (u.toInt < m.toInt)) ls x = wrap32 (leastI ls x) := by
  cases ls with
  | nil => rfl
  | cons t ts =>
    have hmin := toInt_bestOf_cons (better := fun u m => decide (u.toInt < m.toInt)) (op := min)
      (fun u m => by grind) t ts x
    rw [wrap32, leastI, List.map_cons, List.min?_cons', Option.getD_some, ← hmin, BitVec.ofInt_toInt]

theorem bestOf_gt_eq_greatestI (ls : List Nat) (x : Nat → Word) :
    bestOf (fun u m => decide (m.toInt < u.toInt)) ls x = wrap32 (greatestI ls x) := by
  cases ls with
  | nil => rfl
  | cons t ts =>
    have hmax := toInt_bestOf_cons (better := fun u m => decide (m.toInt < u.toInt)) (op := max)
      (fun u m => by grind) t ts x
    rw [wrap32, greatestI, List.map_cons, List.max?_cons', Option.getD_some, ← hmax, BitVec.ofInt_toInt]

/-! ### Reductions and scans of floats (R142) -/

theorem outF_eq_canonF (p : Option Pfx) (w : Word) : outF p w = canonF p w := by
  have hnan : BitVec.ofNat 32 f32.nan = 0x7FC00000 := by decide
  rw [outF, canonF, hnan]

/-! ### The forms as uses of the shared ones -/

/-- Each form that reads a chosen lane is the shared form with its source lanes of R140. -/
theorem crossForms_shared : ∀ e ∈ crossForms, ∃ src, (∀ p d a b s, exec (e.1 p d a b) s = issueP p (crossRead p d a b src) s)
    ∧ ∀ ex y, ∀ t ∈ ex, src y ex t = e.2 ex y t := by
  simp only [crossForms, List.mem_cons, List.not_mem_nil, or_false, forall_eq_or_imp, forall_eq]
  exact ⟨⟨_, fun _ _ _ _ _ => rfl, fun _ y t _ => shflLane_eq (y t) t⟩,
    ⟨_, fun _ _ _ _ _ => rfl, fun _ y t _ => bflyLane_eq (y t) t⟩,
    ⟨_, fun _ _ _ _ _ => rfl, fun _ y t _ => upLane_eq (y t) t⟩,
    ⟨_, fun _ _ _ _ _ => rfl, fun _ y t _ => dnLane_eq (y t) t⟩,
    ⟨_, fun _ _ _ _ _ => rfl, fun ex y t ht => by rw [lowest_eq_headD y (List.ne_nil_of_mem ht), shflLane_eq]⟩⟩

/-- Each vote, reduction and scan is the shared form with its result of R141 and R142. -/
theorem foldForms_shared (p : Option Pfx) : ∀ e ∈ foldForms p, ∃ f, (∀ d a s, exec (e.1 p d a) s = issueP p (laneFold p d a f) s)
    ∧ ∀ ex x t, f ex x t = e.2 ex x t := by
  simp only [foldForms, List.mem_cons, List.not_mem_nil, or_false, forall_eq_or_imp, forall_eq]
  exact ⟨⟨_, fun _ _ _ => rfl, fun ex x _ => any_eq_flag ex x⟩,
    ⟨_, fun _ _ _ => rfl, fun ex x _ => all_eq_flag ex x⟩,
    ⟨_, fun _ _ _ => rfl, fun ex x _ => maskOf_filter_eq_wordOf ex x⟩,
    ⟨_, fun _ _ _ => rfl, fun ex x t => by rw [intI32_eq_clampI, sumI_eq_sumOf]⟩,
    ⟨_, fun _ _ _ => rfl, fun ex x _ => bestOf_lt_eq_leastI ex x⟩,
    ⟨_, fun _ _ _ => rfl, fun ex x _ => bestOf_gt_eq_greatestI ex x⟩,
    ⟨_, fun _ _ _ => rfl, fun ex x t => by rw [intI32_eq_clampI, sumI_eq_sumOf]⟩,
    ⟨_, fun _ _ _ => rfl, fun _ _ _ => outF_eq_canonF p _⟩,
    ⟨_, fun _ _ _ => rfl, fun _ _ _ => outF_eq_canonF p _⟩,
    ⟨_, fun _ _ _ => rfl, fun _ _ _ => outF_eq_canonF p _⟩,
    ⟨_, fun _ _ _ => rfl, fun _ _ _ => outF_eq_canonF p _⟩⟩

/-! ### The statement -/

/-- Settles O4: the shared forms complete, and each form's own lane or value is that of its rule. -/
theorem crossLaneResults : Obligations.CrossLaneResults := by
  unfold Obligations.CrossLaneResults
  refine ⟨fun s p d a b h hd hv ha hb e he => ?_, fun s p d a h hd ha e he => ?_⟩
  · obtain ⟨src, hexec, hlane⟩ := crossForms_shared e he
    rw [hexec]
    exact crossForm_completes h hd ha hv hb hlane
  · obtain ⟨f, hexec, hvalue⟩ := foldForms_shared p e he
    rw [hexec]
    exact foldForm_completes h hd ha hvalue

end Sys2Proof.Proofs

/-! # The encoding (R66 to R69, R76, R77, R79, R81 to R85)

A word is its opcode and three fields. Family by family of the opcode map, what a word decodes to has that word as its own and keeps its
class however it is prefixed (`decodeWord_means`); instruction by instruction, the first word of its own decodes to it (`encodeBody_decodes`). -/

namespace Sys2Proof.Proofs

open Sys2Proof Sys2Proof.Machine Sys2Proof.Laws Sys2Proof.Claims

/-! ### The fields of a word (R66) -/

section
variable (op : BitVec 11) (d a b : Code)

theorem extract_op_wordR : (wordR op d a b).extractLsb' 21 11 = op := by
  unfold wordR
  rw [BitVec.extractLsb'_append_eq_of_le (by omega), BitVec.extractLsb'_append_eq_of_le (by omega)]
  exact BitVec.extractLsb'_append_eq_left

theorem extract_d_wordR : (wordR op d a b).extractLsb' 14 7 = d := by
  unfold wordR
  rw [BitVec.extractLsb'_append_eq_of_le (by omega), BitVec.extractLsb'_append_eq_of_le (by omega)]
  exact BitVec.extractLsb'_append_eq_right

theorem extract_a_wordR : (wordR op d a b).extractLsb' 7 7 = a := by
  unfold wordR
  rw [BitVec.extractLsb'_append_eq_of_le (by omega)]
  exact BitVec.extractLsb'_append_eq_right

theorem extract_b_wordR : (wordR op d a b).extractLsb' 0 7 = b := BitVec.extractLsb'_append_eq_right

theorem extract_family_wordR : (wordR op d a b).extractLsb' 28 4 = op.extractLsb' 7 4 := by
  unfold wordR
  rw [BitVec.extractLsb'_append_eq_of_le (by omega), BitVec.extractLsb'_append_eq_of_le (by omega)]
  exact BitVec.extractLsb'_append_eq_of_le (by omega)

theorem wordI14_append : wordI14 op d (a ++ b) = wordR op d a b := by
  unfold wordI14 wordR
  rw [BitVec.append_assoc']
  rfl

theorem append_imm21 : op ++ (d ++ a ++ b) = wordR op d a b := by
  unfold wordR
  rw [BitVec.append_assoc', BitVec.append_assoc']
  rfl

end

theorem exists_wordR (w : Word) : ∃ op d a b, w = wordR op d a b :=
  ⟨w.extractLsb' 21 11, w.extractLsb' 14 7, w.extractLsb' 7 7, w.extractLsb' 0 7, by
    unfold wordR
    rw [BitVec.extractLsb'_append_extractLsb'_eq_extractLsb' (by rfl), BitVec.extractLsb'_append_extractLsb'_eq_extractLsb' (by rfl),
      BitVec.extractLsb'_append_extractLsb'_eq_extractLsb' (by rfl)]
    exact BitVec.extractLsb'_eq_self.symm⟩

theorem exists_append_imm14 (i : BitVec 14) : ∃ a b : Code, i = a ++ b :=
  ⟨i.extractLsb' 7 7, i.extractLsb' 0 7, by
    rw [BitVec.extractLsb'_append_extractLsb'_eq_extractLsb' (by rfl)]
    exact BitVec.extractLsb'_eq_self.symm⟩

theorem exists_append_imm21 (i : BitVec 21) : ∃ d a b : Code, i = d ++ a ++ b :=
  ⟨i.extractLsb' 14 7, i.extractLsb' 7 7, i.extractLsb' 0 7, by
    rw [BitVec.extractLsb'_append_extractLsb'_eq_extractLsb' (by rfl), BitVec.extractLsb'_append_extractLsb'_eq_extractLsb' (by rfl)]
    exact BitVec.extractLsb'_eq_self.symm⟩

/-- A 5-bit immediate fills the b field where the bits above it are zero (R69). -/
theorem zero_append_imm5 {b : Code} (h : b.extractLsb' 5 2 = 0) : 0#2 ++ b.extractLsb' 0 5 = b := by
  have hb := BitVec.extractLsb'_append_extractLsb'_eq_extractLsb' (x := b) (start₂ := 5) (len₂ := 2) (start₁ := 0) (len₁ := 5) rfl
  rw [h] at hb
  exact hb.trans BitVec.extractLsb'_eq_self

/-- The port and dimension of BEOD fill the d field where the bits above them are zero (R69). -/
theorem zero_append_port_dim {d : Code} (h : d.extractLsb' 4 3 = 0) : 0#3 ++ d.extractLsb' 2 2 ++ d.extractLsb' 0 2 = d := by
  have hq := BitVec.extractLsb'_append_extractLsb'_eq_extractLsb' (x := d) (start₂ := 4) (len₂ := 3) (start₁ := 2) (len₁ := 2) rfl
  have hd := BitVec.extractLsb'_append_extractLsb'_eq_extractLsb' (x := d) (start₂ := 2) (len₂ := 5) (start₁ := 0) (len₁ := 2) rfl
  rw [h] at hq
  exact (congrArg (· ++ d.extractLsb' 0 2) hq).trans (hd.trans BitVec.extractLsb'_eq_self)

/-! ### The families of the opcode map (R81 to R85) -/

/-- The decoder of a family, which the opcode's high four bits choose. -/
noncomputable def decodeFamily (k : BitVec 4) (p : Option Pfx) (op : BitVec 11) (d a b : Code) (lit : Word) : Option Instr :=
  match k with
  | 0x0#4 => decodeInt p op d a b lit
  | 0x1#4 => decodeImm p op d a b lit
  | 0x2#4 => decodeFloat p op d a b lit
  | 0x3#4 => decodePack p op d a b lit
  | 0x4#4 => decodeCross p op d a b lit
  | 0x5#4 => decodeCtl p op d a b lit
  | 0x6#4 => decodeMask p op d a b lit
  | 0x7#4 => decodeMem p op d a b lit
  | 0x8#4 => decodeAtom p op d a b lit
  | 0x9#4 => decodeCopy p op d a b lit
  | 0xA#4 => decodeMat p op d a b lit
  | 0xB#4 => decodeTask p op d a b lit
  | 0xC#4 => decodeBar p op d a b lit
  | 0xD#4 => decodeSys p op d a b lit
  | _ => none

theorem decodeWord_wordR (p : Option Pfx) (op : BitVec 11) (d a b : Code) (lit : Word) :
    decodeWord p (wordR op d a b) lit = decodeFamily (op.extractLsb' 7 4) p op d a b lit := by
  unfold decodeWord decodeFamily
  simp only [extract_op_wordR, extract_d_wordR, extract_a_wordR, extract_b_wordR, extract_family_wordR] <;> rfl

/-- The words that follow an instruction's first: MOVL's literal (R122). -/
def literalOf (op : BitVec 11) (lit : Word) : List Word := if op = 0x08B#11 then [lit] else []

/-- An opcode that the map assigns. -/
def assignedOp (op : BitVec 11) : Bool := opRanges.any (fun r => decide (r.1 ≤ op.toNat) && decide (op.toNat ≤ r.2))

/-- What the fields of a word mean as instruction `i` prefixed with `p`: the instruction's own words are these, it is no step of another
agent, it carries `p` if its class takes prefixes, its opcode is assigned, and whatever prefixes the word `f` answers the same instruction but
for that. -/
structure Means (f : Option Pfx → Option Instr) (p : Option Pfx) (op : BitVec 11) (d a b : Code) (lit : Word) (i : Instr) : Prop where
  body : encodeBody i = wordR op d a b :: literalOf op lit
  isWord : i.cls ≠ .ev
  carries : i.pfx = if i.cls = .n then none else p
  isAssigned : assignedOp op = true
  again : ∀ q, ∃ j, f q = some j ∧ j.cls = i.cls ∧ j.hasC = i.hasC ∧ encodeBody j = encodeBody i

/-- Fields marked zero are zero where an instruction is read (R69). -/
theorem imp_zeroOr {z : Bool} {i j : Instr} {P : Prop} : (zeroOr z i = some j → P) ↔ (z = true → i = j → P) := by
  cases z <;> simp [zeroOr]

section
variable {p : Option Pfx} {op : BitVec 11} {d a b : Code} {lit : Word} {i : Instr}

theorem decodeInt_means : decodeInt p op d a b lit = some i → Means (decodeInt · op d a b lit) p op d a b lit i := by
  unfold decodeInt
  split <;> simp only [imp_zeroOr, decide_eq_true_eq, Option.some.injEq, reduceCtorEq, false_imp_iff] <;> intros <;> subst_vars
  all_goals exact ⟨rfl, nofun, rfl, by decide, fun _ => ⟨_, rfl, rfl, rfl, rfl⟩⟩

theorem decodeImm_means : decodeImm p op d a b lit = some i → Means (decodeImm · op d a b lit) p op d a b lit i := by
  unfold decodeImm
  split <;> simp only [imp_zeroOr, decide_eq_true_eq, Option.some.injEq, and_imp, reduceCtorEq, false_imp_iff] <;> intros <;> subst_vars
  case h_5 | h_6 | h_7 =>
    exact ⟨congrArg (fun b => [wordR _ d a b]) (zero_append_imm5 ‹_›), nofun, rfl, by decide,
      fun _ => ⟨_, if_pos (decide_eq_true ‹_›), rfl, rfl, rfl⟩⟩
  case h_11 | h_13 =>
    exact ⟨congrArg ([·]) (wordI14_append ..), nofun, rfl, by decide, fun _ => ⟨_, rfl, rfl, rfl, rfl⟩⟩
  all_goals exact ⟨rfl, nofun, rfl, by decide, fun _ => ⟨_, rfl, rfl, rfl, rfl⟩⟩

theorem decodeFloat_means : decodeFloat p op d a b lit = some i → Means (decodeFloat · op d a b lit) p op d a b lit i := by
  unfold decodeFloat
  split <;> simp only [imp_zeroOr, decide_eq_true_eq, Option.some.injEq, reduceCtorEq, false_imp_iff] <;> intros <;> subst_vars
  all_goals exact ⟨rfl, nofun, rfl, by decide, fun _ => ⟨_, rfl, rfl, rfl, rfl⟩⟩

theorem decodePack_means : decodePack p op d a b lit = some i → Means (decodePack · op d a b lit) p op d a b lit i := by
  unfold decodePack
  split <;> simp only [Option.some.injEq, reduceCtorEq, false_imp_iff] <;> intros <;> subst_vars
  all_goals exact ⟨rfl, nofun, rfl, by decide, fun _ => ⟨_, rfl, rfl, rfl, rfl⟩⟩

theorem decodeCross_means : decodeCross p op d a b lit = some i → Means (decodeCross · op d a b lit) p op d a b lit i := by
  unfold decodeCross
  split <;> simp only [imp_zeroOr, decide_eq_true_eq, Option.some.injEq, reduceCtorEq, false_imp_iff] <;> intros <;> subst_vars
  all_goals exact ⟨rfl, nofun, rfl, by decide, fun _ => ⟨_, rfl, rfl, rfl, rfl⟩⟩

theorem decodeCtl_means : decodeCtl p op d a b lit = some i → Means (decodeCtl · op d a b lit) p op d a b lit i := by
  unfold decodeCtl
  split <;> simp only [imp_zeroOr, decide_eq_true_eq, Option.some.injEq, and_imp, reduceCtorEq, false_imp_iff] <;> intros <;> subst_vars
  case h_1 | h_2 =>
    exact ⟨congrArg ([·]) (append_imm21 ..), nofun, rfl, by decide, fun _ => ⟨_, rfl, rfl, rfl, rfl⟩⟩
  case h_3 | h_4 | h_10 =>
    exact ⟨congrArg ([·]) (wordI14_append ..), nofun, rfl, by decide, fun _ => ⟨_, rfl, rfl, rfl, rfl⟩⟩
  case h_5 =>
    exact ⟨(congrArg (fun d => [wordI14 _ d _]) (zero_append_port_dim ‹_›)).trans (congrArg ([·]) (wordI14_append ..)), nofun, rfl,
      by decide, fun _ => ⟨_, if_pos (decide_eq_true ‹_›), rfl, rfl, rfl⟩⟩
  all_goals exact ⟨rfl, nofun, rfl, by decide, fun _ => ⟨_, rfl, rfl, rfl, rfl⟩⟩

theorem decodeMask_means : decodeMask p op d a b lit = some i → Means (decodeMask · op d a b lit) p op d a b lit i := by
  unfold decodeMask
  split <;> simp only [imp_zeroOr, decide_eq_true_eq, and_imp, reduceCtorEq, false_imp_iff] <;> intros <;> subst_vars
  case h_11 => exact ⟨congrArg ([·]) (wordI14_append ..), nofun, rfl, by decide, fun _ => ⟨_, rfl, rfl, rfl, rfl⟩⟩
  all_goals exact ⟨rfl, nofun, rfl, by decide, fun _ => ⟨_, rfl, rfl, rfl, rfl⟩⟩

theorem decodeMem_means : decodeMem p op d a b lit = some i → Means (decodeMem · op d a b lit) p op d a b lit i := by
  unfold decodeMem
  split <;> simp only [imp_zeroOr, decide_eq_true_eq, Option.some.injEq, reduceCtorEq, false_imp_iff] <;> intros <;> subst_vars
  all_goals exact ⟨rfl, nofun, rfl, by decide, fun _ => ⟨_, rfl, rfl, rfl, rfl⟩⟩

theorem decodeAtom_means : decodeAtom p op d a b lit = some i → Means (decodeAtom · op d a b lit) p op d a b lit i := by
  unfold decodeAtom
  split <;> simp only [imp_zeroOr, decide_eq_true_eq, Option.some.injEq, and_imp, reduceCtorEq, false_imp_iff] <;> intros <;> subst_vars
  all_goals exact ⟨rfl, nofun, rfl, by decide, fun _ => ⟨_, rfl, rfl, rfl, rfl⟩⟩

theorem decodeCopy_means : decodeCopy p op d a b lit = some i → Means (decodeCopy · op d a b lit) p op d a b lit i := by
  unfold decodeCopy
  split <;> simp only [imp_zeroOr, decide_eq_true_eq, Option.some.injEq, and_imp, reduceCtorEq, false_imp_iff] <;> intros <;> subst_vars
  all_goals exact ⟨rfl, nofun, rfl, by decide, fun _ => ⟨_, rfl, rfl, rfl, rfl⟩⟩

theorem decodeMat_means : decodeMat p op d a b lit = some i → Means (decodeMat · op d a b lit) p op d a b lit i := by
  unfold decodeMat
  split <;> simp only [imp_zeroOr, decide_eq_true_eq, Option.some.injEq, and_imp, reduceCtorEq, false_imp_iff] <;> intros <;> subst_vars
  all_goals exact ⟨rfl, nofun, rfl, by decide, fun _ => ⟨_, rfl, rfl, rfl, rfl⟩⟩

theorem decodeTask_means : decodeTask p op d a b lit = some i → Means (decodeTask · op d a b lit) p op d a b lit i := by
  unfold decodeTask
  split <;> simp only [imp_zeroOr, decide_eq_true_eq, and_imp, reduceCtorEq, false_imp_iff] <;> intros <;> subst_vars
  case h_8 => exact ⟨congrArg ([·]) (wordI14_append ..), nofun, rfl, by decide, fun _ => ⟨_, rfl, rfl, rfl, rfl⟩⟩
  all_goals exact ⟨rfl, nofun, rfl, by decide, fun _ => ⟨_, rfl, rfl, rfl, rfl⟩⟩

theorem decodeBar_means : decodeBar p op d a b lit = some i → Means (decodeBar · op d a b lit) p op d a b lit i := by
  unfold decodeBar
  split <;> simp only [imp_zeroOr, decide_eq_true_eq, Option.some.injEq, and_imp, reduceCtorEq, false_imp_iff] <;> intros <;> subst_vars
  all_goals exact ⟨rfl, nofun, rfl, by decide, fun _ => ⟨_, rfl, rfl, rfl, rfl⟩⟩

theorem decodeSys_means : decodeSys p op d a b lit = some i → Means (decodeSys · op d a b lit) p op d a b lit i := by
  unfold decodeSys
  split <;> simp only [imp_zeroOr, decide_eq_true_eq, Option.some.injEq, and_imp, reduceCtorEq, false_imp_iff] <;> intros <;> subst_vars
  case h_1 | h_2 | h_4 =>
    exact ⟨congrArg ([·]) (wordI14_append ..), nofun, rfl, by decide, fun _ => ⟨_, rfl, rfl, rfl, rfl⟩⟩
  all_goals exact ⟨rfl, nofun, rfl, by decide, fun _ => ⟨_, rfl, rfl, rfl, rfl⟩⟩

theorem decodeFamily_means {k : BitVec 4} :
    decodeFamily k p op d a b lit = some i → Means (decodeFamily k · op d a b lit) p op d a b lit i := by
  unfold decodeFamily
  split
  exacts [decodeInt_means, decodeImm_means, decodeFloat_means, decodePack_means, decodeCross_means, decodeCtl_means, decodeMask_means,
    decodeMem_means, decodeAtom_means, decodeCopy_means, decodeMat_means, decodeTask_means, decodeBar_means, decodeSys_means, nofun]

end

/-! ### Words that decode -/

theorem toNat_shiftRight_eq_op (w : Word) : (w >>> 21).toNat = (w.extractLsb' 21 11).toNat := by
  have := w.isLt
  rw [BitVec.toNat_ushiftRight, BitVec.extractLsb'_toNat, Nat.shiftRight_eq_div_pow, Nat.mod_eq_of_lt (by omega)]

theorem assigned_eq (w : Word) : assigned w = assignedOp (w.extractLsb' 21 11) := by
  simp only [assigned, assignedOp, toNat_shiftRight_eq_op]

/-- A word prefixes the next where its opcode field is 0x7F0 or above (R67). -/
theorem isPrefixWord_iff (w : Word) : isPrefixWord w = true ↔ 0x7F0 ≤ (w >>> 21).toNat := by
  have := w.isLt
  rw [isPrefixWord, beq_iff_eq, ← BitVec.toNat_inj, BitVec.extractLsb'_toNat, BitVec.toNat_ushiftRight, Nat.shiftRight_eq_div_pow,
    Nat.shiftRight_eq_div_pow]
  simp only [BitVec.toNat_ofNat]
  omega

theorem isPrefixWord_of_assigned {w : Word} (h : assigned w = true) : isPrefixWord w = false := by
  rw [Bool.eq_false_iff, ne_eq, isPrefixWord_iff]
  simp only [assigned, List.any_eq_true, Bool.and_eq_true, decide_eq_true_eq] at h
  obtain ⟨r, hr, -, hle⟩ := h
  have hmax : ∀ r ∈ opRanges, r.2 < 0x7F0 := by decide
  have := hmax r hr
  omega

theorem isMovl_iff (w : Word) : isMovl w = true ↔ w.extractLsb' 21 11 = 0x08B#11 := by rw [isMovl, beq_iff_eq]

theorem assigned_of_isMovl {w : Word} (h : isMovl w = true) : assigned w = true := by
  rw [assigned_eq, (isMovl_iff w).1 h]; decide

/-- The words of an instruction after its first: MOVL's literal (R122). -/
def litWords (w lit : Word) : List Word := if isMovl w then [lit] else []

theorem length_litWords (w lit : Word) : (litWords w lit).length = if isMovl w then 1 else 0 := by
  unfold litWords; split <;> rfl

section
variable {p : Option Pfx} {w lit : Word} {i : Instr}

theorem decodeWord_means (h : decodeWord p w lit = some i) :
    ∃ op d a b, w = wordR op d a b ∧ Means (decodeWord · w lit) p op d a b lit i := by
  obtain ⟨op, d, a, b, rfl⟩ := exists_wordR w
  simp only [decodeWord_wordR] at h ⊢
  exact ⟨op, d, a, b, rfl, decodeFamily_means h⟩

theorem encodeBody_of_decodeWord (h : decodeWord p w lit = some i) : encodeBody i = w :: litWords w lit := by
  obtain ⟨op, d, a, b, rfl, hm⟩ := decodeWord_means h
  simp only [hm.body, litWords, isMovl_iff, extract_op_wordR, literalOf]

theorem isWord_of_decodeWord (h : decodeWord p w lit = some i) : i.cls ≠ .ev := by
  obtain ⟨op, d, a, b, rfl, hm⟩ := decodeWord_means h
  exact hm.isWord

theorem pfx_of_decodeWord (h : decodeWord p w lit = some i) : i.pfx = if i.cls = .n then none else p := by
  obtain ⟨op, d, a, b, rfl, hm⟩ := decodeWord_means h
  exact hm.carries

theorem assigned_of_decodeWord (h : decodeWord p w lit = some i) : assigned w = true := by
  obtain ⟨op, d, a, b, rfl, hm⟩ := decodeWord_means h
  rw [assigned_eq, extract_op_wordR]
  exact hm.isAssigned

theorem decodeWord_again (h : decodeWord p w lit = some i) (q : Option Pfx) :
    ∃ j, decodeWord q w lit = some j ∧ j.cls = i.cls ∧ j.hasC = i.hasC ∧ encodeBody j = encodeBody i := by
  obtain ⟨op, d, a, b, rfl, hm⟩ := decodeWord_means h
  exact hm.again q

theorem decodeWord_none_again (h : decodeWord p w lit = none) (q : Option Pfx) : decodeWord q w lit = none := by
  by_contra hq
  obtain ⟨i, hi⟩ := Option.ne_none_iff_exists'.1 hq
  obtain ⟨j, hj, -⟩ := decodeWord_again hi p
  simp [h] at hj

theorem decodeWord_unassigned (h : assigned w = false) (p : Option Pfx) (lit : Word) : decodeWord p w lit = none := by
  by_contra hq
  obtain ⟨i, hi⟩ := Option.ne_none_iff_exists'.1 hq
  simp [assigned_of_decodeWord hi] at h

end

/-! ### Words of an instruction -/

/-- The first of an instruction's own words decodes to it, with the words after it. -/
def Decodes (i : Instr) : Prop :=
  ∃ op d a b lits, encodeBody i = wordR op d a b :: lits
    ∧ ∀ t, decodeFamily (op.extractLsb' 7 4) i.pfx op d a b ((lits ++ t).headD 0) = some i

theorem zeroOr_imm5 (f : BitVec 5 → Instr) (i : BitVec 5) :
    zeroOr (decide ((0#2 ++ i : Code).extractLsb' 5 2 = 0)) (f ((0#2 ++ i : Code).extractLsb' 0 5)) = some (f i) := by
  rw [BitVec.extractLsb'_append_eq_left, BitVec.extractLsb'_append_eq_right]
  rfl

theorem zeroOr_port_dim (f : BitVec 2 → BitVec 2 → Instr) (q dim : BitVec 2) :
    zeroOr (decide ((0#3 ++ q ++ dim : Code).extractLsb' 4 3 = 0))
      (f ((0#3 ++ q ++ dim : Code).extractLsb' 2 2) ((0#3 ++ q ++ dim : Code).extractLsb' 0 2)) = some (f q dim) := by
  have hzero : (0#3 ++ q ++ dim).extractLsb' 4 3 = 0#3 :=
    (BitVec.extractLsb'_append_eq_of_le (by omega)).trans BitVec.extractLsb'_append_eq_left
  have hport : (0#3 ++ q ++ dim).extractLsb' 2 2 = q :=
    (BitVec.extractLsb'_append_eq_of_le (by omega)).trans BitVec.extractLsb'_append_eq_right
  rw [hzero, hport, BitVec.extractLsb'_append_eq_right]
  rfl

theorem decodes_of_isWord (i : Instr) (h : i.cls ≠ .ev) : Decodes i := by
  cases i with
  | iadd | isub | imul | imulhiI | imulhiN | imulwI | imulwN | imad | iaddsatI | iaddsatN | isubsatI | isubsatN | iminI | iminN | imaxI
    | imaxN | iabs | icsub | sad | and | or | xor | andn | shl | shrN | shrI | rotl | popc | clz | brev | bfxI | bfxN | bfi | prmt
    | isetEq | isetNe | isetLtI | isetLtN | isetLeI | isetLeN | isel | iadd64 | isub64 | mov | iaddi | andi | ori | xori | isetiEq
    | isetiLtI | isetiLtN | movl | fadd | fsub | fmul | ffma | fmin | fmax | fneg | fabs | fsetEq | fsetNe | fsetLt | fsetLe | fsetUn
    | frnd | fdiv | fsqrt | frcp | frsq | fexp2 | flog2 | fsin | fcos | ftanh | fsig | fclass | fscale | paddBf | pmulBf | pfmaBf | paddH
    | pmulH | pfmaH | cvt | cvtpkBf | cvtpkH | cvtpkE4 | cvtpkE5 | cvtpkI8 | cvtpkN8 | cvtun | xshfl | xbfly | xup | xdn | xbcast
    | voteany | voteall | ballot | xredAddI | xredAddF | xredMinI | xredMaxI | xredMinF | xredMaxF | xscanAddI | xscanAddF | idp4Ii
    | idp4Nn | idp4sIi | idp4sNn | idp2Ii | idp2sIi | jmp | callr | ret | exit | brk | nop | mjoin | mleave | mwait | msync | mset | mget
    | mact | ckend | ckirr | ckstat | wgrow | eret | tlbinv | ctxsave | ctxrstr | wfi | ipi | qmap | qunmap | gangres | gangcmt | gangabt
    | ldg8i | ldg8n | ldg16i | ldg16n | ldg32 | ldg64 | ldg128 | stg8 | stg16 | stg32 | stg64 | stg128 | lds8i | lds8n | lds16i | lds16n
    | lds32 | lds64 | lds128 | sts8 | sts16 | sts32 | sts64 | sts128 | ldk | pfl | smap | sunmap | sflush | sdrop | llock | lunlock
    | cacheop | atomAdd | atomAnd | atomOr | atomXor | atomMinI | atomMinN | atomMaxI | atomMaxN | atomExch | atomCas | atom64Add
    | atom64Cas | redAddI | redAddF | redAnd | redOr | redXor | redMinI | redMinN | redMaxI | redMaxN | redAddI64 | waitaddr | strel32
    | strel64 | ldacq32 | ldacq64 | fence | cpseal | cpwait | cpy | tcpy | cpyq | strbind | strunb | strskip | accalloc | accfree
    | acczero | accld | accst | mma | mmawait | cbload | accepi | mmastat | spawn | spawnr | join | fnew | fres | fpoll | tend | tyield
    | chbind | chunb | chstat | bar | bararv | barwt | gbar | grpopen | grpclose | mcst | ctrrd | ctrset => exact ⟨_, _, _, _, _, rfl, fun _ => rfl⟩
  | movi _ _ i | iaddi14 _ _ i | bz _ i | bnz _ i | trap i | wbase i | mfsr _ i | mtsr _ i | syscall i | itemnext i =>
    obtain ⟨a, b, rfl⟩ := exists_append_imm14 i
    exact ⟨_, _, a, b, [], congrArg ([·]) (wordI14_append ..), fun _ => rfl⟩
  | bra i | call i =>
    obtain ⟨d, a, b, rfl⟩ := exists_append_imm21 i
    exact ⟨_, d, a, b, [], congrArg ([·]) (append_imm21 ..), fun _ => rfl⟩
  | shli p d a i => exact ⟨_, _, _, _, _, rfl, fun _ => zeroOr_imm5 (.shli p d a) i⟩
  | shriN p d a i => exact ⟨_, _, _, _, _, rfl, fun _ => zeroOr_imm5 (.shriN p d a) i⟩
  | shriI p d a i => exact ⟨_, _, _, _, _, rfl, fun _ => zeroOr_imm5 (.shriI p d a) i⟩
  | beod q dim i =>
    obtain ⟨a, b, rfl⟩ := exists_append_imm14 i
    exact ⟨_, _, a, b, [], congrArg ([·]) (wordI14_append ..), fun _ => zeroOr_port_dim (.beod · · (a ++ b)) q dim⟩
  | _ => exact absurd rfl h

theorem encodeBody_decodes {i : Instr} (h : i.cls ≠ .ev) :
    ∃ w lits, encodeBody i = w :: lits ∧ ∀ t, decodeWord i.pfx w ((lits ++ t).headD 0) = some i := by
  obtain ⟨op, d, a, b, lits, hbody, hdec⟩ := decodes_of_isWord i h
  exact ⟨_, lits, hbody, fun t => (decodeWord_wordR ..).trans (hdec t)⟩

end Sys2Proof.Proofs

/-! # Units: prefixes, fates and the converse (R66, R67, R69, R75 to R79, R122)

What `decodeUnit` answers, by the first word's kind and what `decodeWord` makes of it; then the two directions of the encoding. -/

namespace Sys2Proof.Proofs

open Sys2Proof Sys2Proof.Machine Sys2Proof.Laws Sys2Proof.Claims

/-! ### Prefix words (R67, R76, R77) -/

theorem ofBool_getLsbD {n : Nat} (w : BitVec n) (k : Nat) : BitVec.ofBool (w.getLsbD k) = w.extractLsb' k 1 := by
  apply BitVec.eq_of_getLsbD_eq
  intro i hi
  obtain rfl : i = 0 := by omega
  simp

theorem pfxOf_wordPfx (x : Pfx) : pfxOf (wordPfx x) = x := by
  obtain ⟨c, msel, zm, rnd, sat⟩ := x
  have hc : (wordPfx ⟨c, msel, zm, rnd, sat⟩).extractLsb' 18 7 = c := by
    unfold wordPfx
    iterate 5 rw [BitVec.extractLsb'_append_eq_of_le (by omega)]
    exact BitVec.extractLsb'_append_eq_right
  have hmsel : (wordPfx ⟨c, msel, zm, rnd, sat⟩).extractLsb' 14 4 = msel := by
    unfold wordPfx
    iterate 4 rw [BitVec.extractLsb'_append_eq_of_le (by omega)]
    exact BitVec.extractLsb'_append_eq_right
  have hrnd : (wordPfx ⟨c, msel, zm, rnd, sat⟩).extractLsb' 10 3 = rnd := by
    unfold wordPfx
    iterate 2 rw [BitVec.extractLsb'_append_eq_of_le (by omega)]
    exact BitVec.extractLsb'_append_eq_right
  have hzm : (wordPfx ⟨c, msel, zm, rnd, sat⟩).getLsbD 13 = zm := by
    unfold wordPfx
    iterate 4 rw [BitVec.getLsbD_append]
    simp
  have hsat : (wordPfx ⟨c, msel, zm, rnd, sat⟩).getLsbD 9 = sat := by
    unfold wordPfx
    iterate 2 rw [BitVec.getLsbD_append]
    simp
  unfold pfxOf
  rw [hc, hmsel, hzm, hrnd, hsat]

theorem isPrefixWord_wordPfx (x : Pfx) : isPrefixWord (wordPfx x) = true := by
  unfold isPrefixWord wordPfx
  iterate 6 rw [BitVec.extractLsb'_append_eq_of_le (by omega)]
  rfl

theorem low_wordPfx (x : Pfx) : (wordPfx x).extractLsb' 0 9 = 0 := BitVec.extractLsb'_append_eq_right

theorem wordPfx_pfxOf {w : Word} (h : isPrefixWord w = true) (hlow : w.extractLsb' 0 9 = 0) : wordPfx (pfxOf w) = w := by
  unfold wordPfx pfxOf
  rw [← eq_of_beq h, ofBool_getLsbD, ofBool_getLsbD, show 0#9 = w.extractLsb' 0 9 from hlow.symm]
  dsimp only
  iterate 6 rw [BitVec.extractLsb'_append_extractLsb'_eq_extractLsb' (by rfl)]
  exact BitVec.extractLsb'_eq_self

theorem low_eq_zero_iff (w : Word) : w.extractLsb' 0 9 = 0 ↔ w.toNat % 512 = 0 := by
  rw [← BitVec.toNat_inj, BitVec.extractLsb'_toNat]
  rfl

theorem toNat_bit {n : Nat} (w : BitVec n) (k : Nat) : (w >>> k).toNat % 2 = (w.getLsbD k).toNat := by
  rw [BitVec.toNat_ushiftRight, Nat.shiftRight_eq_div_pow]
  exact (Nat.toNat_testBit w.toNat k).symm

theorem prefixKept_iff (w : Word) {i : Instr} (h : i.cls ≠ .ev) : prefixKept w i ↔ (pfxOf w).legal i.cls i.hasC = true := by
  have hc : (w >>> 18).toNat % 128 = (pfxOf w).c.toNat := by simp [pfxOf]
  have hmsel : (w >>> 14).toNat % 16 = (pfxOf w).msel.toNat := by simp [pfxOf]
  have hrnd : (w >>> 10).toNat % 8 = (pfxOf w).rnd.toNat := by simp [pfxOf]
  have hzm : (w >>> 13).toNat % 2 = (pfxOf w).zm.toNat := toNat_bit w 13
  have hsat : (w >>> 9).toNat % 2 = (pfxOf w).sat.toNat := toNat_bit w 9
  unfold prefixKept inClass Pfx.legal
  rw [hc, hmsel, hrnd, hzm, hsat]
  generalize pfxOf w = x
  obtain ⟨c, msel, zm, rnd, sat⟩ := x
  have hzero {n : Nat} (v : BitVec n) : v.toNat = 0 ↔ v = 0 := by rw [← BitVec.toNat_inj]; rfl
  have hmax : (msel.toNat < 13 ↔ msel.toNat ≤ 12) ∧ (rnd.toNat < 5 ↔ rnd.toNat ≤ 4) := ⟨Nat.lt_succ_iff, Nat.lt_succ_iff⟩
  cases hk : i.cls with
  | a => cases i.hasC <;> simp [hzero, hmax, and_assoc]
  | m => cases zm <;> cases sat <;> simp [hzero, hmax, and_assoc]
  | n => simp
  | ev => exact absurd hk h

/-! ### What a unit decodes to -/

section
variable {p w : Word} {t : List Word} {i : Instr} {n : Nat}

/-- MOVL's literal is missing (R122). -/
def cutShort (w : Word) (t : List Word) : Bool := isMovl w && t.isEmpty

theorem cutShort_of_unassigned (h : assigned w = false) : cutShort w t = false := by
  have hm : isMovl w = false := by
    by_contra hm
    simp [assigned_of_isMovl (Bool.not_eq_false _ ▸ hm)] at h
  simp [cutShort, hm]

theorem decodeUnit_some (hw : isPrefixWord w = false) (ht : cutShort w t = false) (hi : decodeWord none w (t.headD 0) = some i) :
    decodeUnit (w :: t) = .ok (i, (litWords w (t.headD 0)).length + 1) := by
  unfold cutShort at ht
  simp only [decodeUnit, hw, ht, hi, length_litWords]
  cases isMovl w <;> rfl

theorem decodeUnit_none (hw : isPrefixWord w = false) (ht : cutShort w t = false) (hi : decodeWord none w (t.headD 0) = none) :
    decodeUnit (w :: t) = .error .illegalOpcode := by
  unfold cutShort at ht
  simp only [decodeUnit, hw, ht, hi, Bool.false_eq_true, if_false]

theorem decodeUnit_cutShort (hw : isPrefixWord w = false) (ht : cutShort w t = true) : decodeUnit (w :: t) = .error .truncated := by
  unfold cutShort at ht
  simp [decodeUnit, hw, ht]

/-- An unprefixed unit decodes where its word does. -/
theorem decodeUnit_eq_ok (hw : isPrefixWord w = false) (h : decodeUnit (w :: t) = .ok (i, n)) :
    cutShort w t = false ∧ decodeWord none w (t.headD 0) = some i ∧ n = (litWords w (t.headD 0)).length + 1 := by
  cases ht : cutShort w t with
  | true => simp [decodeUnit_cutShort hw ht] at h
  | false =>
    cases hi : decodeWord none w (t.headD 0) with
    | none => simp [decodeUnit_none hw ht hi] at h
    | some j =>
      rw [decodeUnit_some hw ht hi, Except.ok.injEq, Prod.mk.injEq] at h
      exact ⟨rfl, congrArg some h.1, h.2.symm⟩

theorem decodeUnit_eq_illegalOpcode (hw : isPrefixWord w = false) (h : decodeUnit (w :: t) = .error .illegalOpcode) :
    cutShort w t = false ∧ decodeWord none w (t.headD 0) = none := by
  cases ht : cutShort w t with
  | true => simp [decodeUnit_cutShort hw ht] at h
  | false =>
    cases hi : decodeWord none w (t.headD 0) with
    | none => exact ⟨rfl, rfl⟩
    | some j => simp [decodeUnit_some hw ht hi] at h

variable (hp : isPrefixWord p = true)
include hp

theorem decodeUnit_low (hlow : p.extractLsb' 0 9 ≠ 0) : decodeUnit (p :: w :: t) = .error .illegalOpcode := by
  simp only [decodeUnit, hp, hlow, ne_eq, not_false_eq_true, if_true]

variable (hlow : p.extractLsb' 0 9 = 0)
include hlow

theorem decodeUnit_twice (hw : isPrefixWord w = true) : decodeUnit (p :: w :: t) = .error .illegalPrefix := by
  simp [decodeUnit, hp, hlow, hw]

variable (hw : isPrefixWord w = false)
include hw

theorem decodeUnit_prefixed_none (ht : cutShort w t = false) (hi : decodeWord (some (pfxOf p)) w (t.headD 0) = none) :
    decodeUnit (p :: w :: t) = .error .illegalOpcode := by
  unfold cutShort at ht
  simp only [decodeUnit, hp, hlow, hw, ht, hi, ne_eq, not_true, Bool.false_eq_true, if_false, if_true]

theorem decodeUnit_prefixed_cutShort (ht : cutShort w t = true) : decodeUnit (p :: w :: t) = .error .truncated := by
  unfold cutShort at ht
  simp [decodeUnit, hp, hlow, hw, ht]

theorem decodeUnit_prefixed_illegal (ht : cutShort w t = false) (hi : decodeWord (some (pfxOf p)) w (t.headD 0) = some i)
    (hl : (pfxOf p).legal i.cls i.hasC = false) : decodeUnit (p :: w :: t) = .error .illegalPrefix := by
  unfold cutShort at ht
  simp only [decodeUnit, hp, hlow, hw, ht, hi, hl, ne_eq, not_true, Bool.false_eq_true, if_false, if_true]

theorem decodeUnit_prefixed_some (ht : cutShort w t = false) (hi : decodeWord (some (pfxOf p)) w (t.headD 0) = some i)
    (hl : (pfxOf p).legal i.cls i.hasC = true) : decodeUnit (p :: w :: t) = .ok (i, (litWords w (t.headD 0)).length + 2) := by
  unfold cutShort at ht
  simp only [decodeUnit, hp, hlow, hw, ht, hi, hl, length_litWords]
  cases isMovl w <;> rfl

/-- A prefixed unit decodes where the word after the first does, and the first is legal before it. -/
theorem decodeUnit_prefixed_eq_ok (h : decodeUnit (p :: w :: t) = .ok (i, n)) :
    cutShort w t = false ∧ decodeWord (some (pfxOf p)) w (t.headD 0) = some i ∧ (pfxOf p).legal i.cls i.hasC = true
      ∧ n = (litWords w (t.headD 0)).length + 2 := by
  cases ht : cutShort w t with
  | true => simp [decodeUnit_prefixed_cutShort hp hlow hw ht] at h
  | false =>
    cases hi : decodeWord (some (pfxOf p)) w (t.headD 0) with
    | none => simp [decodeUnit_prefixed_none hp hlow hw ht hi] at h
    | some j =>
      cases hl : (pfxOf p).legal j.cls j.hasC with
      | false => simp [decodeUnit_prefixed_illegal hp hlow hw ht hi hl] at h
      | true =>
        rw [decodeUnit_prefixed_some hp hlow hw ht hi hl, Except.ok.injEq, Prod.mk.injEq] at h
        obtain ⟨rfl, rfl⟩ := h
        exact ⟨rfl, rfl, hl, rfl⟩

end

/-! ### The statements -/

/-- Settles O55: each word evaluates to what the spec gives it. -/
theorem decodeOfSpecWords : Obligations.DecodeOfSpecWords := by
  unfold Obligations.DecodeOfSpecWords
  exact ⟨rfl, rfl, rfl, rfl, rfl, rfl, rfl, rfl, rfl, rfl, rfl, rfl⟩

/-- Settles O56: the first word of an instruction decodes to it, and MOVL's second is its literal. -/
theorem decodeEncodeRoundTrip : Obligations.DecodeEncodeRoundTrip := by
  intro i rest hwf
  rw [Instr.wellFormed, Bool.and_eq_true, decide_eq_true_eq] at hwf
  obtain ⟨hcls, hpfx⟩ := hwf
  obtain ⟨w, lits, hbody, hdec⟩ := encodeBody_decodes hcls
  have hi := hdec rest
  have hw : isPrefixWord w = false := isPrefixWord_of_assigned (assigned_of_decodeWord hi)
  obtain ⟨-, hlits⟩ := List.cons.inj (hbody.symm.trans (encodeBody_of_decodeWord hi))
  have ht : cutShort w (lits ++ rest) = false := by
    rw [hlits, cutShort, litWords]; cases isMovl w <;> rfl
  unfold encode
  cases hp : i.pfx with
  | none =>
    rw [hp] at hi
    rw [hbody, List.cons_append, decodeUnit_some hw ht hi, ← hlits, List.length_cons]
  | some x =>
    rw [hp] at hi hpfx
    rw [hbody, List.cons_append, List.cons_append,
      decodeUnit_prefixed_some (isPrefixWord_wordPfx x) (low_wordPfx x) hw ht (by rw [pfxOf_wordPfx]; exact hi)
        (by rw [pfxOf_wordPfx]; exact hpfx), ← hlits, List.length_cons, List.length_cons]

/-- The words of a unit's instruction are the words it was read from. -/
theorem litWords_eq_take {w : Word} {t : List Word} (ht : cutShort w t = false) :
    litWords w (t.headD 0) = t.take (litWords w (t.headD 0)).length ∧ (litWords w (t.headD 0)).length ≤ min 1 t.length := by
  unfold litWords
  unfold cutShort at ht
  cases hm : isMovl w with
  | false => simp
  | true =>
    cases t with
    | nil => simp [hm] at ht
    | cons v u => simp

/-- An instruction that is legally prefixed carries what prefixes it. -/
theorem pfx_of_legal {x : Pfx} {w lit : Word} {i : Instr} (hi : decodeWord (some x) w lit = some i)
    (hl : x.legal i.cls i.hasC = true) : i.pfx = some x := by
  have hn : i.cls ≠ .n := fun hn => by simp [hn, Pfx.legal] at hl
  rw [pfx_of_decodeWord hi, if_neg hn]

theorem pfx_of_unprefixed {w lit : Word} {i : Instr} (hi : decodeWord none w lit = some i) : i.pfx = none := by
  rw [pfx_of_decodeWord hi, ite_self]

theorem encode_of_decodeUnit {ws : List Word} {i : Instr} {n : Nat} (h : decodeUnit ws = .ok (i, n)) :
    i.wellFormed = true ∧ encode i = ws.take n ∧ n ≤ 3 ∧ n ≤ ws.length := by
  match ws with
  | [] => exact nomatch h
  | w :: t =>
    cases hw : isPrefixWord w with
    | false =>
      obtain ⟨ht, hi, rfl⟩ := decodeUnit_eq_ok hw h
      obtain ⟨htake, hlen⟩ := litWords_eq_take ht
      have hpfx := pfx_of_unprefixed hi
      refine ⟨by simp [Instr.wellFormed, isWord_of_decodeWord hi, hpfx], ?_, by omega, by rw [List.length_cons]; omega⟩
      rw [encode, hpfx, encodeBody_of_decodeWord hi, List.take_succ_cons, ← htake]
    | true =>
      match t with
      | [] => simp [decodeUnit, hw] at h
      | v :: u =>
        by_cases hlow : w.extractLsb' 0 9 = 0
        · cases hv : isPrefixWord v with
          | true => simp [decodeUnit_twice hw hlow hv] at h
          | false =>
            obtain ⟨ht, hi, hl, rfl⟩ := decodeUnit_prefixed_eq_ok hw hlow hv h
            obtain ⟨htake, hlen⟩ := litWords_eq_take ht
            have hpfx := pfx_of_legal hi hl
            refine ⟨by simp [Instr.wellFormed, isWord_of_decodeWord hi, hpfx, hl], ?_, by omega,
              by rw [List.length_cons, List.length_cons]; omega⟩
            rw [encode, hpfx]
            dsimp only
            rw [encodeBody_of_decodeWord hi, wordPfx_pfxOf hw hlow, List.take_succ_cons, List.take_succ_cons, ← htake]
        · simp [decodeUnit_low hw hlow] at h

/-- R77: prefixing a word that decodes by itself. -/
theorem decodeUnit_prefix_of_unprefixed {p w : Word} {t : List Word} {i : Instr} {n : Nat} (hp : isPrefixWord p = true)
    (hlow : p.extractLsb' 0 9 = 0) (hw : isPrefixWord w = false) (h : decodeUnit (w :: t) = .ok (i, n)) :
    (¬ prefixKept p i → decodeUnit (p :: w :: t) = .error .illegalPrefix)
    ∧ (prefixKept p i → ∃ j, decodeUnit (p :: w :: t) = .ok (j, n + 1) ∧ j.pfx = some (pfxOf p) ∧ j.cls = i.cls
      ∧ encodeBody j = encodeBody i) := by
  obtain ⟨ht, hi, rfl⟩ := decodeUnit_eq_ok hw h
  obtain ⟨j, hj, hcls, hc, hbody⟩ := decodeWord_again hi (some (pfxOf p))
  rw [prefixKept_iff p (isWord_of_decodeWord hi), ← hcls, ← hc]
  refine ⟨fun hl => decodeUnit_prefixed_illegal hp hlow hw ht hj (by simpa using hl), fun hl => ⟨j, ?_, pfx_of_legal hj hl, rfl, hbody⟩⟩
  exact decodeUnit_prefixed_some hp hlow hw ht hj hl

/-- Settles O57: what a prefixed word decodes to does not depend on what prefixes it, and an instruction read from words has them. -/
theorem decodeFatesAndConverse : Obligations.DecodeFatesAndConverse := by
  refine ⟨fun p w t i n => ⟨fun hw ha => ?_, isPrefixWord_iff w, fun hp hlow => ?_, fun hp hlow hw => ?_, fun hp hw ha => ?_,
    fun hp hlow hw h => ?_, fun hp hlow hw h => ?_⟩, fun ws i n h => encode_of_decodeUnit h⟩
  · exact decodeUnit_none hw (cutShort_of_unassigned ha) (decodeWord_unassigned ha _ _)
  · exact decodeUnit_low hp (mt (low_eq_zero_iff p).1 hlow)
  · exact decodeUnit_twice hp ((low_eq_zero_iff p).2 hlow) hw
  · by_cases hlow : p.extractLsb' 0 9 = 0
    · exact decodeUnit_prefixed_none hp hlow hw (cutShort_of_unassigned ha) (decodeWord_unassigned ha _ _)
    · exact decodeUnit_low hp hlow
  · obtain ⟨ht, hi⟩ := decodeUnit_eq_illegalOpcode hw h
    exact decodeUnit_prefixed_none hp ((low_eq_zero_iff p).2 hlow) hw ht (decodeWord_none_again hi _)
  · exact decodeUnit_prefix_of_unprefixed hp ((low_eq_zero_iff p).2 hlow) hw h

end Sys2Proof.Proofs

/-! # Register writes (R70, R71, R100)

What a write of one register leaves in every register of the group, read lane by lane (`readVK`); the state's reads are these
(`readVK_eq`). -/

namespace Sys2Proof.Proofs

open Sys2Proof Sys2Proof.Machine Sys2Proof.Laws Sys2Proof.Claims

/-! ### Registers as data -/

section
variable (r : GRegs) {c c' : Code} (ex zl : List Nat) (f : Nat → Word) (t : Nat)

theorem writeVK_vector (h : c.toNat ≤ 95) : writeVK r c ex zl f
    = { r with v := ssetAll 0 r.v (ex.map (fun t => (vKey r.wb c t, f t)) ++ zl.map (fun t => (vKey r.wb c t, 0))) } := if_pos h

theorem writeVK_scalar_nil (h : 95 < c.toNat) : writeVK r c [] zl f = r := by
  unfold writeVK
  rw [if_neg (by omega)]
  exact ite_self r

theorem writeVK_scalar_cons (h : 95 < c.toNat) (hk : c.toNat ≤ 111) :
    writeVK r c (t :: ex) zl f = { r with k := sset 0 r.k (c.toNat - 96) (f t) } := by
  unfold writeVK
  rw [if_neg (by omega), if_pos hk]

theorem readVK_vector (h : c.toNat ≤ 95) : readVK r c t = sget 0 r.v (vKey r.wb c t) := if_pos h

theorem readVK_scalar (h : 95 < c.toNat) (hk : c.toNat ≤ 111) : readVK r c t = sget 0 r.k (c.toNat - 96) := by
  unfold readVK
  rw [if_neg (by omega), if_pos hk]

theorem vKey_injective (wb : Nat) (c : Code) : ∀ t u, vKey wb c t = vKey wb c u → t = u := fun t u h => by
  unfold vKey at h; omega

variable {ex zl t}

/-- A lane of a vector register reads what it was given, or zero where zeroing leaves it out. -/
theorem readVK_writeVK_vector (h : c.toNat ≤ 95) (hzl : ∀ t ∈ zl, t ∉ ex) :
    readVK (writeVK r c ex zl f) c t = if t ∈ ex then f t else if t ∈ zl then 0 else readVK r c t := by
  have key : ∀ (ls : List Nat) (g : Nat → Word), t ∉ ls → vKey r.wb c t ∉ (ls.map (fun t => (vKey r.wb c t, g t))).map (·.1) := by
    simp only [List.map_map, List.mem_map, Function.comp_apply, not_exists, not_and]
    exact fun ls g ht u hu hk => ht (vKey_injective _ _ _ _ hk ▸ hu)
  rw [writeVK_vector r ex zl f h, readVK_vector _ _ h, readVK_vector _ _ h, ssetAll_append]
  dsimp only
  by_cases hz : t ∈ zl
  · rw [if_neg (hzl t hz), if_pos hz, sget_ssetAll_map 0 zl _ (fun _ => 0) _ t (vKey_injective _ _) hz]
  · rw [sget_ssetAll_of_notMem _ _ _ _ (key zl _ hz), if_neg hz]
    by_cases he : t ∈ ex
    · rw [if_pos he, sget_ssetAll_map 0 ex _ f _ t (vKey_injective _ _) he]
    · rw [if_neg he, sget_ssetAll_of_notMem _ _ _ _ (key ex _ he)]

/-- A k register reads the lowest executing lane's value, and its own where none executes (R100). -/
theorem readVK_writeVK_scalar (h : 95 < c.toNat) (hk : c.toNat ≤ 111) :
    readVK (writeVK r c ex zl f) c t = match ex with
      | [] => readVK r c t
      | u :: _ => f u := by
  cases ex with
  | nil => rw [writeVK_scalar_nil r zl f h]
  | cons u l =>
    rw [writeVK_scalar_cons r l zl f u h hk, readVK_scalar _ _ h hk]
    exact sget_sset_self ..

/-- A register other than the one written reads as before. -/
theorem readVK_writeVK_ne (hne : c' ≠ c) (ht : t < 32) (hex : ∀ t ∈ ex, t < 32) (hzl : ∀ t ∈ zl, t < 32) :
    readVK (writeVK r c ex zl f) c' t = readVK r c' t := by
  have hnat : c'.toNat ≠ c.toNat := fun h => hne (BitVec.eq_of_toNat_eq h)
  by_cases hv : c.toNat ≤ 95
  · rw [writeVK_vector r ex zl f hv]
    by_cases hv' : c'.toNat ≤ 95
    · rw [readVK_vector _ _ hv', readVK_vector _ _ hv']
      refine sget_ssetAll_of_notMem _ _ _ _ ?_
      simp only [List.map_append, List.map_map, List.mem_append, List.mem_map, Function.comp_apply, vKey]
      rintro (⟨u, hu, hk⟩ | ⟨u, hu, hk⟩)
      · have := hex u hu; omega
      · have := hzl u hu; omega
    · unfold readVK; simp only [hv', if_false]
  · by_cases hk : c.toNat ≤ 111
    · cases ex with
      | nil => rw [writeVK_scalar_nil r zl f (by omega)]
      | cons u l =>
        rw [writeVK_scalar_cons r l zl f u (by omega) hk]
        unfold readVK readV
        split
        · rfl
        · split
          · exact (sget_sset ..).trans (if_neg (by omega))
          · rfl
    · unfold writeVK; rw [if_neg hv, if_neg hk]

end

/-! ### Registers of the issuing group -/

section
variable {s : State} {c c' : Code} (ex zl : List Nat) (f : Nat → Word) (t : Nat)

theorem putWord_register (hc : c.toNat ≤ 111) : putWord s c ex zl f = withRegs s (fun r => writeVK r c ex zl f) :=
  if_neg (by rintro rfl; exact absurd hc (by decide))

theorem putWord_zr : putWord s 120 ex zl f = s := if_pos rfl

theorem srcVal_putWord (h : issuing s = true) (hc : c.toNat ≤ 111) (hc' : c'.toNat ≤ 111) :
    srcVal (putWord s c ex zl f) c' t = readVK (writeVK (curGroup s).r c ex zl f) c' t := by
  rw [putWord_register ex zl f hc, ← readVK_eq _ _ _ (.inl (by omega)), curGroup_withRegs _ h]

theorem srcVal_zr : srcVal s 120 t = 0 := rfl

end

theorem okSrc_zr (s : State) : okSrc s 120 = true := rfl

theorem okDst_zr (s : State) : okDst s 120 = true := rfl

theorem srcStep_zr (s : State) (ex : List Nat) : srcStep s ex 120 = s := if_neg fun h => absurd h.1 (by decide)

/-- MOV where its operands are legal and no ports (R119). -/
theorem exec_mov {s : State} {p : Option Pfx} {d a : Code} (h : issuing s = true) (hd : okDst s d = true) (ha : okSrc s a = true) :
    exec (.mov p d a) s = .next (finish s (did1 s p d a (fun x => x))) := issueP_ok h (alu1_run _ h hd ha)

/-- Settles O5: a write is read back register by register, and zr takes none and reads zero. -/
theorem registerWrites : Obligations.RegisterWrites := by
  refine ⟨fun s c ex zl f h hc hex hzl => ⟨fun t ht => ?_, fun c' hne hc' t ht => ?_⟩, fun s p d a h ha hd => ⟨fun _ => srcVal_zr _, ?_, ?_⟩⟩
  · rw [srcVal_putWord ex zl f t h hc hc, ← readVK_eq s c t (.inl (by omega))]
    split
    · exact readVK_writeVK_vector _ f ‹_› fun t ht => (hzl t ht).2
    · exact readVK_writeVK_scalar _ f (by omega) hc
  · rw [srcVal_putWord ex zl f t h hc hc', ← readVK_eq s c' t (.inl (by omega))]
    exact readVK_writeVK_ne _ f hne ht hex fun t ht => (hzl t ht).1
  · rw [exec_mov h (okDst_zr s) ha, did1, putWord_zr]
  · rw [exec_mov h hd (okSrc_zr s), did1, srcStep_zr]
    simp only [srcVal_zr]

end Sys2Proof.Proofs

/-! # The register forms as uses of the shared ones (R104)

Every form of one, two or three sources is `alu1`, `alu2` or `alu3` with a result of its own, whatever its operands are. -/

namespace Sys2Proof.Proofs

open Sys2Proof Sys2Proof.Machine Sys2Proof.Laws Sys2Proof.Claims

theorem oneForms_shared (p : Option Pfx) : ∀ e ∈ intOne (satBit p) ++ floatOne p,
    ∃ f, ∀ d a s, exec (e.1 p d a) s = issueP p (alu1 p d a f) s := by
  simp only [intOne, floatOne, List.cons_append, List.nil_append, List.mem_cons, List.not_mem_nil, or_false, forall_eq_or_imp, forall_eq]
  repeat' apply And.intro
  all_goals exact ⟨_, fun _ _ _ => rfl⟩

theorem twoForms_shared (p : Option Pfx) : ∀ e ∈ intTwo (satBit p) ++ floatTwo p,
    ∃ f, ∀ d a b s, exec (e.1 p d a b) s = issueP p (alu2 p d a b f) s := by
  simp only [intTwo, floatTwo, List.cons_append, List.nil_append, List.mem_cons, List.not_mem_nil, or_false, forall_eq_or_imp, forall_eq]
  repeat' apply And.intro
  all_goals exact ⟨_, fun _ _ _ _ => rfl⟩

theorem threeForms_shared (p : Option Pfx) : ∀ e ∈ intThree (satBit p) ++ floatThree p,
    ∃ f, ∀ d a b s, exec (e.1 p d a b) s = issueP p (alu3 p d a b f) s := by
  simp only [intThree, floatThree, List.cons_append, List.nil_append, List.mem_cons, List.not_mem_nil, or_false, forall_eq_or_imp, forall_eq]
  repeat' apply And.intro
  all_goals exact ⟨_, fun _ _ _ _ => rfl⟩

/-! ### Faults of the decode checks (R79, steps 4 to 6) -/

/-- An effect that begins with the check of F-mode. -/
def FmodeOnly {α : Type} (m : M α) : Prop := ∀ s, (curGroup s).fmode = false → m s = .error (.fault { code := 0x05 })

theorem fmodeOnly_privileged : FmodeOnly privileged := fun s h => by
  unfold privileged
  rw [bind_ok (getG_run s), h]
  rfl

theorem FmodeOnly.bind {α β : Type} {m : M α} (hm : FmodeOnly m) (f : α → M β) : FmodeOnly (m >>= f) := fun s h => bind_error (hm s h)

theorem fmode_entered (n : Nat) {s : State} (h : issuing s = true) : (curGroup (entered n s)).fmode = (curGroup s).fmode := by
  obtain ⟨-, -, -, hf, -⟩ := entered_group n h
  exact hf

theorem FmodeOnly.issue {n : Nat} {m : M Unit} (hm : FmodeOnly m) {s : State} (h : issuing s = true) (hf : (curGroup s).fmode = false) :
    issue n m s = .next (stopped s (.fault { code := 0x05 })) :=
  issue_stop h nofun (hm _ ((fmode_entered n h).trans hf))

/-- Each privileged form checks F-mode before all else. -/
theorem privilegedForms_fmodeOnly (p : Option Pfx) (d a b : Code) (i : BitVec 14) : ∀ e ∈ privilegedForms p d a b i,
    ∃ n m, FmodeOnly m ∧ ∀ s, exec e s = issue n m s := by
  have chk {β : Type} (f : Unit → M β) : FmodeOnly (privileged >>= f) := fmodeOnly_privileged.bind f
  simp only [privilegedForms, List.mem_cons, List.not_mem_nil, or_false, forall_eq_or_imp, forall_eq]
  exact ⟨⟨4, _, (chk _).bind _, fun _ => rfl⟩, ⟨4, _, chk _, fun _ => rfl⟩, ⟨4, _, (chk _).bind _, fun _ => rfl⟩,
    ⟨4, _, ((chk _).bind _).bind _, fun _ => rfl⟩, ⟨4, _, ((chk _).bind _).bind _, fun _ => rfl⟩, ⟨4, _, chk _, fun _ => rfl⟩,
    ⟨4, _, (chk _).bind _, fun _ => rfl⟩, ⟨4, _, (chk _).bind _, fun _ => rfl⟩, ⟨4, _, (chk _).bind _, fun _ => rfl⟩,
    ⟨4, _, (chk _).bind _, fun _ => rfl⟩, ⟨4, _, (chk _).bind _, fun _ => rfl⟩, ⟨4, _, (chk _).bind _, fun _ => rfl⟩,
    ⟨_, _, chk _, fun _ => rfl⟩⟩

/-- The registers that F-mode alone reads are those from 0x008 on. -/
theorem fmodeRegs_number (s : State) : ∀ e ∈ fmodeRegs s, 0x008 ≤ e.1 ∧ ∀ x g, (srRead x g e.1).isSome = true := by
  simp only [fmodeRegs, List.cons_append, List.nil_append, List.mem_cons, List.not_mem_nil, or_false, forall_eq_or_imp, forall_eq]
  iterate 19 refine ⟨⟨by decide, fun _ _ => rfl⟩, ?_⟩
  exact ⟨by decide, fun _ _ => rfl⟩

theorem mfsrM_fmodeOnly {s : State} {d : Code} {i : BitVec 14} (h : ∃ e ∈ fmodeRegs s, e.1 = i.toNat) : FmodeOnly (mfsrM d i) := by
  obtain ⟨e, he, hi⟩ := h
  obtain ⟨hle, hsome⟩ := fmodeRegs_number s e he
  intro x hf
  obtain ⟨v, hv⟩ := Option.isSome_iff_exists.1 (hsome x (curGroup x))
  unfold mfsrM
  rw [bind_ok (getG_run x), bind_ok (getS_run ..), ← hi, hv, hf, decide_eq_true hle]
  rfl

theorem checkOps_illegal (ops : List Opnd) (s : State) (h : ops.all Opnd.legal = false) :
    checkOps ops s = .error (.fault { code := 0x02 }) := by
  unfold checkOps
  rw [h]
  exact bind_error (ensure_false ..)

theorem checkOps_range (ops : List Opnd) (s : State) (hl : ops.all Opnd.legal = true) (h : ops.all (Opnd.inRange (curGroup s)) = false) :
    checkOps ops s = .error (.fault { code := 0x04 }) := by
  unfold checkOps
  rw [hl, bind_ok (ensure_true ..), bind_ok (getG_run s), h]
  rfl

/-- A code that R70 leaves unassigned in the field. -/
theorem operands_illegal {d a b : Code}
    (h : d.toNat = 118 ∨ d.toNat = 119 ∨ 121 ≤ d.toNat ∨ a.toNat = 118 ∨ a.toNat = 119 ∨ b.toNat = 118 ∨ b.toNat = 119) :
    [Opnd.dst d, .src a, .src b].all Opnd.legal = false := by
  simp only [List.all_cons, List.all_nil, Bool.and_true, Bool.and_eq_false_iff, Opnd.legal, Bool.or_eq_false_iff, decide_eq_false_iff_not,
    beq_eq_false_iff_ne, ne_eq, Bool.not_eq_false', Bool.or_eq_true, beq_iff_eq, ← BitVec.toNat_inj]
  have h118 : (118 : Code).toNat = 118 := rfl
  have h119 : (119 : Code).toNat = 119 := rfl
  have h120 : (120 : Code).toNat = 120 := rfl
  omega

theorem operands_legal {s : State} {d a b : Code} (hd : okDst s d = true) (ha : okSrc s a = true) (hb : b.toNat ≤ 95) :
    [Opnd.dst d, .src a, .src b].all Opnd.legal = true := by
  have hsrc : (Opnd.src b).legal = true := by
    simp only [Opnd.legal, Bool.not_eq_true', Bool.or_eq_false_iff, beq_eq_false_iff_ne]
    constructor <;> (rintro rfl; exact absurd hb (by decide))
  simp [(opnd_dst hd).1, (opnd_src ha).1, hsrc]

/-- A vector register at or beyond the end of the allocation is out of range (R95). -/
theorem operands_outside {s : State} {n : Nat} {d a b : Code} (h : issuing s = true) (hb : b.toNat ≤ 95)
    (hout : (curGroup s).a ≤ (curGroup s).r.wb + b.toNat) :
    [Opnd.dst d, .src a, .src b].all (Opnd.inRange (curGroup (entered n s))) = false := by
  have hrange : (Opnd.src b).inRange (curGroup (entered n s)) = false := by
    refine (inAlloc_entered n h b 1).trans ?_
    simp only [inAlloc, Bool.or_eq_false_iff, decide_eq_false_iff_not]
    omega
  simp [hrange]

theorem alu2_fault {s : State} {p : Option Pfx} {d a b : Code} {f : Word → Word → Word} {c : Nat} (h : issuing s = true)
    (hc : checkOps [.dst d, .src a, .src b] (entered (unitLen p) s) = .error (.fault { code := c })) :
    issueP p (alu2 p d a b f) s = .next (stopped s (.fault { code := c })) :=
  issue_stop h nofun (bind_error hc)

/-- Settles O13: the checks of R79 come first, in their order. -/
theorem privilegeAndOperandFaults : Obligations.PrivilegeAndOperandFaults := by
  refine ⟨fun s p d a b i h hf => ⟨fun e he => ?_, fun hi => (mfsrM_fmodeOnly hi).issue h hf⟩,
    fun s p d a b h => ⟨fun hcodes e he => ?_, fun hd ha hb hrange e he => ?_⟩⟩
  · obtain ⟨n, m, hm, hexec⟩ := privilegedForms_fmodeOnly p d a b i e he
    rw [hexec]
    exact hm.issue h hf
  · obtain ⟨f, hexec⟩ := twoForms_shared p e he
    rw [hexec]
    exact alu2_fault h (checkOps_illegal _ _ (operands_illegal hcodes))
  · obtain ⟨f, hexec⟩ := twoForms_shared p e he
    rw [hexec]
    exact alu2_fault h (checkOps_range _ _ (operands_legal hd ha hb) (operands_outside h hb hrange))

end Sys2Proof.Proofs

/-! # What an instruction leaves alone (R70, R146)

`OwnGroup`: nothing but the issuing group and the counters has changed. Entering an effect is such a change, and so is every change of the
group's registers or chunk. Completing an instruction adds its group's turn and the passing of time (`atRest_counted`, `turned`). -/

namespace Sys2Proof.Proofs

open Sys2Proof Sys2Proof.Machine Sys2Proof.Laws Sys2Proof.Claims

/-- A state but for its cores and counters, which are another's. -/
def underCores (s x : State) : State := { x with cores := s.cores, ctr := s.ctr }

theorem underCores_modGroup (s t : State) (c g : Nat) (f : Group → Group) : underCores s (modGroup t c g f) = underCores s t := by
  unfold modGroup
  split <;> rfl

/-- Nothing but the issuing group and the counters has changed. -/
structure OwnGroup (s x : State) : Prop where
  rest : underCores s x = s
  others : ∀ c, c ≠ s.cur.core → coreAt x c = coreAt s c
  core : bare (coreAt x s.cur.core) = bare (coreAt s s.cur.core)
  groups : ∀ h, h ≠ s.cur.slot → groupAt x s.cur.core h = groupAt s s.cur.core h
  issuing : issuing x = issuing s

namespace OwnGroup

variable {s x y : State}

theorem cur (h : OwnGroup s x) : x.cur = s.cur := by
  rw [← h.rest]; rfl

theorem mem (h : OwnGroup s x) : x.mem = s.mem := by
  rw [← h.rest]; rfl

theorem extPend (h : OwnGroup s x) : x.extPend = s.extPend := by
  rw [← h.rest]; rfl

theorem refl (s : State) : OwnGroup s s := ⟨rfl, fun _ _ => rfl, rfl, fun _ _ => rfl, rfl⟩

theorem trans (h : OwnGroup s x) (k : OwnGroup x y) : OwnGroup s y := by
  have hcur := h.cur
  obtain ⟨krest, kothers, kcore, kgroups, kissuing⟩ := k
  rw [hcur] at kothers kcore kgroups
  refine ⟨?_, fun c hc => (kothers c hc).trans (h.others c hc), kcore.trans h.core, fun g hg => (kgroups g hg).trans (h.groups g hg),
    kissuing.trans h.issuing⟩
  calc underCores s y = underCores s (underCores x y) := rfl
    _ = underCores s x := by rw [krest]
    _ = s := h.rest

/-- A count changes no core. -/
theorem ctrAdd (s : State) (k n : Nat) : OwnGroup s (ctrAdd s k n) := ⟨rfl, fun _ _ => rfl, rfl, fun _ _ => rfl, rfl⟩

theorem modCur (s : State) (f : Group → Group) : OwnGroup s (modCur s f) where
  rest := underCores_modGroup s s _ _ f
  others := fun c hc => coreAt_modGroup_ne s _ _ c f hc
  core := bare_modGroup ..
  groups := fun h hh => by rw [Machine.modCur, groupAt_modGroup, if_neg (fun k => hh k.2)]
  issuing := issuing_modCur s f

theorem withRegs (s : State) (f : GRegs → GRegs) : OwnGroup s (withRegs s f) := modCur s _

theorem withChunk (s : State) (f : Chunk → Chunk) : OwnGroup s (withChunk s f) := modCur s _

/-- Replacing the issuing group, where there is one. -/
theorem setGroup {s : State} (h : Machine.issuing s = true) (g : Group) : OwnGroup s (setGroup s s.cur.core s.cur.slot g) where
  rest := rfl
  others := fun c hc => by rw [coreAt_setGroup, if_neg hc]
  core := by rw [coreAt_setGroup, if_pos rfl]; rfl
  groups := fun k hk => by rw [groupAt_setGroup, if_neg (fun e => hk e.2)]
  issuing := by
    rw [h]
    show (groupAt _ s.cur.core s.cur.slot).isSome = true
    rw [groupAt_setGroup_self]
    rfl

theorem beginAt (s : State) : OwnGroup s (beginAt s s.cur.core s.cur.slot) := by
  unfold Machine.beginAt
  split
  · exact refl s
  next g hg =>
    have hi : Machine.issuing s = true := by unfold Machine.issuing; rw [hg]; rfl
    dsimp only
    generalize (if (g.reirr && decide (g.open_.slots = 0)) = true then { g with irr := true, reirr := false } else g) = g1
    split
    · exact (ctrAdd s _ _).trans (setGroup (s := coreCtr s s.cur.core 4 1) hi _)
    · exact setGroup hi _

theorem begun (s : State) : OwnGroup s (begun s) := by
  have h := beginAt (Machine.modCur s (fun g => { g with hold := false }))
  rw [modCur_cur] at h
  exact (modCur s _).trans h

theorem entered (n : Nat) (s : State) : OwnGroup s (entered n s) := (begun s).trans (modCur _ _)

end OwnGroup

theorem mem_entered (n : Nat) (s : State) : (entered n s).mem = s.mem := (OwnGroup.entered n s).mem

theorem begun_replay {s : State} (h : issuing s = true) : (curGroup (begun s)).replay = (curGroup s).replay := by
  have h1 : groupAt (modCur s (fun g => { g with hold := false })) s.cur.core s.cur.slot = some { curGroup s with hold := false } := by
    simp [modCur, groupAt_modGroup, groupAt_cur_of_issuing h]
  have hg : ∃ g, groupAt (begun s) s.cur.core s.cur.slot = some g ∧ g.replay = (curGroup s).replay := by
    unfold begun beginAt
    rw [h1]
    refine ⟨_, groupAt_setGroup_self .., ?_⟩
    unfold beginChunk
    split <;> split <;> rfl
  obtain ⟨g, hg, hr⟩ := hg
  rw [← hr]
  simp [curGroup, hg]

theorem entered_replay (n : Nat) {s : State} (h : issuing s = true) : (curGroup (entered n s)).replay = (curGroup s).replay := by
  rw [entered, curGroup_modCur _ (issuing_begun h)]
  exact begun_replay h

/-! ### Views (R217) -/

/-- A view is of the bytes that a group's own chunks have written, of the stores on their way and of memory. -/
theorem viewByte_congr {s t : State} {g h : Group} (hwr : h.open_.wr = g.open_.wr) (hdone : h.done = g.done) (hmem : t.mem = s.mem)
    (hext : t.extPend = s.extPend) (a : Nat) : viewByte t h a = viewByte s g a := by
  unfold viewByte chunksOf firstByte memByte extByte
  rw [hwr, hdone, hmem, hext]

/-! ### Completion -/

/-- A state but for its cores, counters and time, which are another's. -/
def atRest (s t : State) : State :=
  { t with cores := s.cores, clk := s.clk, moves := s.moves, readWin := s.readWin, wroteWin := s.wroteWin, ctr := s.ctr, shorted := s.shorted }

theorem atRest_modGroup (s t : State) (c g : Nat) (f : Group → Group) : atRest s (modGroup t c g f) = atRest s t := by
  unfold modGroup
  split <;> rfl

theorem atRest_passTime (s t : State) (n : Nat) : atRest s (passTime t n) = atRest s t := by
  obtain ⟨r, w, k, d, hp⟩ := passTime_form t n
  rw [hp]
  rfl

theorem atRest_modCore (s t : State) (c : Nat) (f : Core → Core) : atRest s (modCore t c f) = atRest s t := rfl

theorem atRest_coreCtr (s t : State) (c i n : Nat) : atRest s (coreCtr t c i n) = atRest s t := rfl

theorem atRest_counted (s x : State) : atRest s (counted x) = atRest s x := by
  unfold counted tickYield tickGroup tallied modCur
  rw [atRest_modCore, atRest_modGroup, atRest_passTime, atRest_coreCtr, atRest_modGroup]

theorem OwnGroup.atRest {s x : State} (h : OwnGroup s x) : atRest s x = s :=
  (show Proofs.atRest s x = Proofs.atRest s (underCores s x) from rfl).trans (by rw [h.rest]; rfl)

theorem counted_mem (x : State) : (counted x).mem = x.mem := by
  have e := congrArg State.mem (atRest_counted x x)
  exact e

theorem counted_extPend (x : State) : (counted x).extPend = x.extPend := by
  have e := congrArg State.extPend (atRest_counted x x)
  exact e

/-- But for the issuing group's turn and the TYIELD windows of the pipe, completing an instruction leaves the cores. -/
theorem coreAt_counted_ne (x : State) {c : Nat} (hc : c ≠ x.cur.core) : coreAt (counted x) c = coreAt x c := by
  have htime : ∀ y : State, coreAt (passTime y 1) c = coreAt y c := fun y => coreAt_congr (passTime_cores y 1) c
  unfold counted tickYield tickGroup
  rw [coreAt_modCore, if_neg hc, coreAt_modGroup_ne _ _ _ _ _ hc, htime]
  exact (OwnGroup.modCur x _).others c hc

/-- Completing an instruction of the issuing group changes another's TYIELD window at most (R324). -/
theorem counted_groups_r (x : State) {h : Nat} (hh : h ≠ x.cur.slot) :
    (groupAt (counted x) x.cur.core h).map (·.r) = (groupAt x x.cur.core h).map (·.r) := by
  have htick : groupAt (tickGroup (coreCtr (tallied x) x.cur.core 0 1) x.cur.core x.cur.slot (tallied x).cur.lanes) x.cur.core h
      = groupAt x x.cur.core h := by
    unfold tickGroup
    rw [groupAt_modGroup, if_neg (fun e => hh e.2), groupAt_of_cores (passTime_cores ..)]
    exact (OwnGroup.modCur x _).groups h hh
  rw [← htick]
  unfold counted tickYield groupAt
  rw [coreAt_modCore_self, aget_map_snd _ _ (by intro e; split <;> rfl), Option.map_map]
  congr 1
  funext g
  simp only [Function.comp_apply]
  split <;> rfl

/-- The issuing group after its instruction: its registers, ended chunks and uncommitted bytes are those that the instruction has left. -/
theorem curGroup_counted {x : State} (h : issuing x = true) : curGroup (counted x) = turned x := by
  have hcur : (counted x).cur = x.cur := by
    have e := congrArg State.cur (atRest_counted x x)
    exact e
  unfold curGroup
  rw [hcur, groupAt_counted h]
  rfl

theorem viewByte_counted {x : State} (h : issuing x = true) (a : Nat) : viewByte (counted x) (curGroup (counted x)) a = seen x a := by
  rw [curGroup_counted h]
  exact viewByte_congr rfl rfl (counted_mem x) (counted_extPend x) a

end Sys2Proof.Proofs

/-! # Branches and EXIT (R68, R146 to R148)

A branch sets program counters and nothing else. EXIT's registers are `exitRegs`: its threads are exited and in no mask, and the release of
masks (R152) wakes only threads that wait on one. -/

namespace Sys2Proof.Proofs

open Sys2Proof Sys2Proof.Machine Sys2Proof.Laws Sys2Proof.Claims

/-! ### Targets -/

theorem relTarget_eq {n : Nat} (s : State) (i : BitVec n) : relTarget s.cur.pc i = relativeTo s i := by
  unfold relTarget relativeTo
  rw [BitVec.ofInt_mul]
  rfl

/-- Unprefixed, every thread of the active set executes (R71). -/
theorem execs_unprefixed (s : State) : execs s none = s.cur.lanes := List.filter_eq_self.2 fun _ _ => rfl

theorem execLanes_unprefixed (n : Nat) {s : State} (h : issuing s = true) :
    execLanes none (entered n s) = .ok (s.cur.lanes, entered n s) := by
  rw [execLanes_entered n h none, execs_unprefixed]

theorem thisPc_entered (n : Nat) (s : State) : thisPc (entered n s) = .ok (s.cur.pc, entered n s) := by
  unfold thisPc
  rw [getS_run, entered_cur]

theorem branchIf_run (ex : List Nat) (take : Nat → Bool) (target : PC) (s : State) :
    branchIf ex take target s = .ok ((), goTo s (ex.filter take) (fun _ => target)) := rfl

theorem eod_entered (n : Nat) {s : State} (h : issuing s = true) : (curGroup (entered n s)).r.eod = (curGroup s).r.eod := by
  rw [entered_r n h]

theorem targetFault_eq_none {x : Dword} (hx : x.toNat % 4 = 0) (hc : canonical x = true) : targetFault x = none := by
  unfold targetFault
  rw [if_neg (by simpa [bitsOf] using hx), if_pos hc]

section
variable {s : State} (h : issuing s = true)
include h

theorem exec_bra (i : BitVec 21) : exec (.bra i) s = .next (finish s (goTo (entered 4 s) s.cur.lanes (fun _ => relativeTo s i))) := by
  show execBra i s = _
  unfold execBra
  refine issue_ok h ?_
  rw [bind_ok (execLanes_unprefixed 4 h), bind_ok (thisPc_entered 4 s), branchIf_run, relTarget_eq, List.filter_eq_self.2 fun _ _ => rfl]

theorem exec_beod (q dim : BitVec 2) (i : BitVec 14) : exec (.beod q dim i) s = .next (finish s (goTo (entered 4 s)
    (s.cur.lanes.filter (fun _ => (curGroup s).r.eod.getLsbD (4 * q.toNat + dim.toNat))) (fun _ => relativeTo s i))) := by
  show execBeod q dim i s = _
  unfold execBeod
  refine issue_ok h ?_
  rw [bind_ok (execLanes_unprefixed 4 h), bind_ok (thisPc_entered 4 s), bind_ok (getG_run _), branchIf_run, relTarget_eq, eod_entered 4 h]

theorem branchOn_run {d : Code} (hd : okSrc s d = true) (i : BitVec 14) (take : Word → Bool) :
    branchOn d i take (entered 4 s) = .ok ((), goTo (srcStep (entered 4 s) s.cur.lanes d)
      (s.cur.lanes.filter (fun t => take (srcVal (entered 4 s) d t))) (fun _ => relativeTo s i)) := by
  obtain ⟨x, hx, hval⟩ := readSrc_plain (s := entered 4 s) s.cur.lanes (okSrc_plain hd)
  have hops : ∀ o ∈ [Opnd.src d], o.legal = true ∧ o.inRange (curGroup (entered 4 s)) = true := by
    simp only [List.mem_cons, List.not_mem_nil, or_false, forall_eq]
    exact opnd_src (by simpa [h] using hd)
  unfold branchOn
  rw [bind_ok (checkOps_ok _ _ hops), bind_ok (execLanes_unprefixed 4 h), bind_ok (thisPc_entered 4 s), bind_ok hx, branchIf_run, relTarget_eq,
    List.filter_congr fun t ht => by rw [hval t ht]]

theorem exec_jmp {a : Code} (ha : okPair s a = true)
    (hall : ∀ t ∈ s.cur.lanes, (pairVal (entered 4 s) a t).toNat % 4 = 0 ∧ canonical (pairVal (entered 4 s) a t) = true) :
    exec (.jmp a) s = .next (finish s (goTo (entered 4 s) s.cur.lanes (fun t => (pairVal (entered 4 s) a t).setWidth 57))) := by
  have hops : ∀ o ∈ [Opnd.pair a], o.legal = true ∧ o.inRange (curGroup (entered 4 s)) = true := by
    simp only [List.mem_cons, List.not_mem_nil, or_false, forall_eq]
    exact opnd_pair (by simpa [h] using ha)
  have hnone : s.cur.lanes.find? (fun t => (targetFault (pairVal (entered 4 s) a t)).isSome) = none := by
    rw [List.find?_eq_none]
    intro t ht
    rw [targetFault_eq_none (hall t ht).1 (hall t ht).2]
    simp
  have htargets : targets a s.cur.lanes (entered 4 s) = .ok (fun t => pairVal (entered 4 s) a t, entered 4 s) := by
    unfold targets
    rw [bind_ok (readPair_run _ _ (okPair_code ha)), hnone]
    rfl
  show execJmp a s = _
  unfold execJmp
  refine issue_ok h ?_
  rw [bind_ok (checkOps_ok _ _ hops), bind_ok (execLanes_unprefixed 4 h), bind_ok htargets]
  unfold jumpTo goTo
  rw [modR_run]
  simp only [BitVec.setWidth_eq_extractLsb' (show 57 ≤ 64 by decide)]

end

/-! ### The release of masks (R152) -/

/-- A thread has exited. -/
def exited (r : GRegs) (t : Nat) : Prop := sget .run r.thr t = .exited

/-- A release leaves exited threads exited, and puts no thread into a mask. -/
structure Releases (r r' : GRegs) : Prop where
  exited : ∀ t, exited r t → exited r' t
  masks : ∀ mk t, (maskReg r mk).getLsbD t = false → (maskReg r' mk).getLsbD t = false

theorem Releases.refl (r : GRegs) : Releases r r := ⟨fun _ h => h, fun _ _ h => h⟩

theorem Releases.trans {r r' r'' : GRegs} (h : Releases r r') (k : Releases r' r'') : Releases r r'' :=
  ⟨fun t ht => k.exited t (h.exited t ht), fun mk t ht => k.masks mk t (h.masks mk t ht)⟩

theorem releases_setMask_zero (r : GRegs) (mk : Nat) : Releases r (setMask r mk 0) := by
  refine ⟨fun _ h => h, fun j t h => ?_⟩
  unfold maskReg setMask at *
  rw [sget_sset]
  split
  · exact BitVec.getLsbD_zero
  · exact h

/-- Threads that wait on a mask have not exited, so waking them wakes no exited thread. -/
theorem releases_wake (r : GRegs) (mk : Nat) (ws : List Nat) (hws : ∀ t ∈ ws, (waitsOn r mk t).isSome = true) (kvs : List (Nat × PC)) :
    Releases r (setPcs (setThr r ws .run) kvs) := by
  refine ⟨fun t h => ?_, fun _ _ h => h⟩
  have ht : t ∉ ws := fun ht => by
    have := hws t ht
    unfold exited at h
    simp [waitsOn, h] at this
  unfold exited setPcs setThr
  rw [sget_ssetAll_of_notMem _ _ _ _ (by simpa using ht)]
  exact h

theorem releases_releaseMask (r : GRegs) (mk : Nat) : Releases r (releaseMask r mk) := by
  unfold releaseMask
  dsimp only
  split
  · exact .refl r
  · have hwake := releases_wake r mk (allLanes.filter (fun t => (waitsOn r mk t).isSome)) (fun t ht => (List.mem_filter.1 ht).2)
    split
    · exact (hwake _).trans (releases_setMask_zero _ mk)
    · exact hwake _

theorem releases_releaseMasks (r : GRegs) : Releases r (releaseMasks r) := by
  have fold : ∀ (ms : List Nat) (r : GRegs), Releases r (ms.foldl releaseMask r) := by
    intro ms
    induction ms with
    | nil => exact .refl
    | cons mk ms ih => exact fun r => (releases_releaseMask r mk).trans (ih _)
  exact fold _ r

/-! ### EXIT (R148) -/

/-- What EXIT by some threads makes of the registers. -/
def exitRegs (ex : List Nat) (r : GRegs) : GRegs :=
  releaseMasks (setThr { r with m := ssetAll 0 r.m ((List.range 12).map (fun i => (i, maskReg r i &&& ~~~(maskOf ex)))) } ex .exited)

theorem exited_setThr (r : GRegs) (ex : List Nat) {t : Nat} (h : t ∈ ex ∨ exited r t) : exited (setThr r ex .exited) t := by
  unfold exited setThr
  by_cases ht : t ∈ ex
  · exact sget_ssetAll_map Thr.run ex id (fun _ => Thr.exited) r.thr t (fun _ _ h => h) ht
  · rw [sget_ssetAll_of_notMem _ _ _ _ (by simpa using ht)]
    exact h.resolve_left ht

theorem exited_exitRegs (ex : List Nat) (r : GRegs) {t : Nat} (h : t ∈ ex ∨ exited r t) : exited (exitRegs ex r) t :=
  (releases_releaseMasks _).exited t (exited_setThr _ _ h)

theorem masks_exitRegs {ex : List Nat} (r : GRegs) {mk t : Nat} (hmk : mk < 12) (ht : t ∈ ex) (hlt : t < 32) :
    (maskReg (exitRegs ex r) mk).getLsbD t = false := by
  refine (releases_releaseMasks _).masks mk t ?_
  have hread := sget_ssetAll_map 0 (List.range 12) id (fun i => maskReg r i &&& ~~~(maskOf ex)) r.m mk (fun _ _ h => h) (List.mem_range.2 hmk)
  refine (congrArg (BitVec.getLsbD · t) hread).trans ?_
  simp [getLsbD_maskOf, ht, hlt]

/-- Leaving items adds to the chunk's effects, if anything. -/
theorem leaveItems_run (ls : List Nat) (s : State) : ∃ f : Chunk → Chunk, leaveItems ls s = .ok ((), s) ∨ leaveItems ls s = .ok ((), withChunk s f) := by
  unfold leaveItems
  rw [bind_ok (getG_run s), bind_ok (show getTeam s = .ok (_, s) from rfl)]
  generalize (teamAt s s.cur.core (curGroup s).team).tasks = tasks
  rcases tasks with _ | ⟨⟨ca, own, kind, _ | p, cont, call, members⟩, rest⟩
  · exact ⟨id, .inl rfl⟩
  · exact ⟨id, .inl rfl⟩
  · dsimp only
    split
    · exact ⟨id, .inl rfl⟩
    · exact ⟨fun k => { k with effects := addItems own _ k.effects }, .inr rfl⟩

/-- After EXIT: where no thread of the group is left, its part of the task ends, and its chunk with it. -/
def leftBehind (z : State) : State :=
  if (liveLanes (curGroup z)).isEmpty then ending (modCur (deferring z (.groupEnd none)) (fun g => { g with irr := false })) else z

/-- The group whose last thread has exited. -/
theorem curGroup_leftBehind {z : State} (h : issuing z = true) (hlive : liveLanes (curGroup z) = []) : curGroup (leftBehind z)
    = { curGroup z with irr := false, open_ := { (curGroup z).open_ with effects := (curGroup z).open_.effects ++ [.groupEnd none], ending := true } } := by
  have hd : issuing (modCur (deferring z (.groupEnd none)) (fun g => { g with irr := false })) = true := by simp [issuing_modCur, h]
  unfold leftBehind
  rw [hlive]
  show curGroup (ending _) = _
  unfold ending withChunk
  rw [curGroup_modCur _ hd, curGroup_modCur _ (by simp [h])]
  unfold deferring withChunk
  rw [curGroup_modCur _ h]

theorem leftBehind_r {z : State} (h : issuing z = true) : (curGroup (leftBehind z)).r = (curGroup z).r := by
  cases hlive : liveLanes (curGroup z) with
  | nil => rw [curGroup_leftBehind h hlive]
  | cons t ls =>
    unfold leftBehind
    rw [hlive]
    rfl

theorem leftBehind_own (z : State) : OwnGroup z (leftBehind z) := by
  unfold leftBehind
  split
  · exact ((OwnGroup.withChunk z _).trans (.modCur _ _)).trans (.withChunk _ _)
  · exact .refl z

/-- The last thread to exit ends the group's part of its task (R148). -/
theorem leftBehind_of_exited {z : State} (h : issuing z = true) (hall : ∀ t, t < 32 → exited (curGroup z).r t) :
    (curGroup (leftBehind z)).open_.ending = true ∧ Effect.groupEnd none ∈ (curGroup (leftBehind z)).open_.effects := by
  have hlive : liveLanes (curGroup z) = [] := by
    unfold liveLanes
    rw [List.filter_eq_nil_iff]
    intro t ht
    have := hall t (List.mem_range.1 ht)
    unfold exited at this
    simp [thrOf, this]
  rw [curGroup_leftBehind h hlive]
  exact ⟨rfl, List.mem_append_right _ List.mem_cons_self⟩

/-- EXIT's registers, in whatever state leaving the items has left. -/
theorem exitM_run {s : State} (h : issuing s = true) : ∃ y, (y = entered 4 s ∨ ∃ f, y = withChunk (entered 4 s) f)
    ∧ exitM (entered 4 s) = .ok ((), leftBehind (withRegs y (exitRegs s.cur.lanes))) := by
  obtain ⟨f, hf⟩ := leaveItems_run s.cur.lanes (entered 4 s)
  have run : ∀ y, leaveItems s.cur.lanes (entered 4 s) = .ok ((), y) →
      exitM (entered 4 s) = .ok ((), leftBehind (withRegs y (exitRegs s.cur.lanes))) := fun y hy => by
    unfold exitM leftBehind
    rw [bind_ok (execLanes_unprefixed 4 h), bind_ok hy, bind_ok (modR_run ..), bind_ok (getG_run _)]
    show (if (liveLanes (curGroup (withRegs y (exitRegs s.cur.lanes)))).isEmpty = true then _ else _ : M Unit) _ = _
    cases (liveLanes (curGroup (withRegs y (exitRegs s.cur.lanes)))).isEmpty <;> rfl
  rcases hf with hf | hf
  · exact ⟨_, .inl rfl, run _ hf⟩
  · exact ⟨_, .inr ⟨f, rfl⟩, run _ hf⟩

/-- Leaving the items changes no register. -/
theorem thr_left {s y : State} (h : issuing s = true) (hy : y = entered 4 s ∨ ∃ f, y = withChunk (entered 4 s) f) :
    OwnGroup s y ∧ (curGroup y).r.thr = (curGroup s).r.thr := by
  have hthr : (curGroup (entered 4 s)).r.thr = (curGroup s).r.thr := by rw [entered_r 4 h]
  rcases hy with rfl | ⟨f, rfl⟩
  · exact ⟨.entered 4 s, hthr⟩
  · refine ⟨(OwnGroup.entered 4 s).trans (.withChunk _ f), ?_⟩
    unfold withChunk
    rw [curGroup_modCur _ (issuing_entered 4 h)]
    exact hthr

theorem exec_nop {s : State} (h : issuing s = true) : exec .nop s = .next (finish s (entered 4 s)) := by
  show execNop s = _
  unfold execNop
  exact issue_ok h rfl

/-- Settles O8: a branch's effect is the program counters', and EXIT's registers are `exitRegs`, whether or not the last thread has exited. -/
theorem branchesAndExits : Obligations.BranchesAndExits := by
  refine ⟨fun s h => ⟨exec_bra h, fun d i hd => ⟨issue_ok h (branchOn_run h hd i (· == 0)), issue_ok h (branchOn_run h hd i (· != 0))⟩,
    exec_beod h, exec_nop h, fun a ha hall => exec_jmp h ha hall⟩, fun s h hlt => ?_⟩
  obtain ⟨y, hy, hrun⟩ := exitM_run h
  obtain ⟨hown, hthr⟩ := thr_left h hy
  have hyi : issuing y = true := hown.issuing.trans h
  have hzi : issuing (withRegs y (exitRegs s.cur.lanes)) = true := (issuing_withRegs y _).trans hyi
  have hz : (curGroup (withRegs y (exitRegs s.cur.lanes))).r = exitRegs s.cur.lanes (curGroup y).r := by rw [curGroup_withRegs _ hyi]
  have hr := (leftBehind_r hzi).trans hz
  have hdoing : ∀ t, doing (leftBehind (withRegs y (exitRegs s.cur.lanes))) t = .exited ↔ exited (exitRegs s.cur.lanes (curGroup y).r) t :=
    fun t => by unfold doing exited; rw [hr]
  refine ⟨_, issue_ok h hrun, fun t ht => (hdoing t).2 (exited_exitRegs _ _ (.inl ht)), fun t ht mk hmk => ?_, fun t _ _ ht => ?_, fun hall => ?_,
    ((hown.trans (.withRegs y _)).trans (leftBehind_own _)).mem⟩
  · rw [hr]
    exact masks_exitRegs _ hmk ht (hlt t ht)
  · refine (hdoing t).2 (exited_exitRegs _ _ (.inr ?_))
    unfold exited
    rw [hthr]
    exact ht
  · exact leftBehind_of_exited hzi fun t ht => hz ▸ (hdoing t).1 (hall t ht)

end Sys2Proof.Proofs

/-! # The frame of the register forms (R70, R102, R146)

`RegStep`: nothing but the issuing group's registers has changed, and of those only some vector and k registers and CYS. Reading sources and
writing a destination are such steps; entering and completing the instruction add the program counters and RST, and the group's turn. -/

namespace Sys2Proof.Proofs

open Sys2Proof Sys2Proof.Machine Sys2Proof.Laws Sys2Proof.Claims

/-! ### Registers -/

theorem regsExcept_refl (r : GRegs) (vs ks : Nat → Bool) : regsExcept r r vs ks := ⟨rfl, fun _ _ => rfl, fun _ _ => rfl⟩

theorem regsExcept_trans {r r' r'' : GRegs} {vs ks : Nat → Bool} (h : regsExcept r r' vs ks) (k : regsExcept r' r'' vs ks) :
    regsExcept r r'' vs ks := by
  obtain ⟨hrest, hv, hk⟩ := h
  obtain ⟨krest, kv, kk⟩ := k
  refine ⟨?_, fun i hi => (kv i hi).trans (hv i hi), fun i hi => (kk i hi).trans (hk i hi)⟩
  calc { r'' with v := r.v, k := r.k, pc := r.pc, cys := r.cys, rst := r.rst }
      = { { r'' with v := r'.v, k := r'.k, pc := r'.pc, cys := r'.cys, rst := r'.rst } with
          v := r.v, k := r.k, pc := r.pc, cys := r.cys, rst := r.rst } := rfl
    _ = { r' with v := r.v, k := r.k, pc := r.pc, cys := r.cys, rst := r.rst } := by rw [krest]
    _ = r := hrest

theorem regsExcept_wb {r r' : GRegs} {vs ks : Nat → Bool} (h : regsExcept r r' vs ks) : r'.wb = r.wb := by
  have e := congrArg GRegs.wb h.1
  exact e

/-- The vector registers' lanes that a write of register `d` may change, for a group whose window begins at `wb`. -/
def vOf (wb : Nat) (d : Code) (j : Nat) : Bool := decide (d.toNat ≤ 95) && decide (j / 32 = wb + d.toNat)

/-- The k registers that a write of register `d` may change. -/
def kOf (d : Code) (j : Nat) : Bool := decide (j + 96 = d.toNat)

/-- A write of a register changes no other, whatever the lanes receive. -/
theorem regsExcept_writeVK (r : GRegs) (d : Code) {ex zl : List Nat} (f : Nat → Word) (hex : ∀ t ∈ ex, t < 32) (hzl : ∀ t ∈ zl, t < 32) :
    regsExcept r (writeVK r d ex zl f) (vOf r.wb d) (kOf d) := by
  by_cases hv : d.toNat ≤ 95
  · rw [writeVK_vector r ex zl f hv]
    refine ⟨rfl, fun j hj => sget_ssetAll_of_notMem _ _ _ _ ?_, fun _ _ => rfl⟩
    have hline : ¬ j / 32 = r.wb + d.toNat := by simpa [vOf, hv] using hj
    simp only [List.map_append, List.map_map, List.mem_append, List.mem_map, Function.comp_apply, vKey]
    rintro (⟨u, hu, hk⟩ | ⟨u, hu, hk⟩)
    · have := hex u hu; omega
    · have := hzl u hu; omega
  · by_cases hk : d.toNat ≤ 111
    · cases ex with
      | nil => rw [writeVK_scalar_nil r zl f (by omega)]; exact regsExcept_refl ..
      | cons u l =>
        rw [writeVK_scalar_cons r l zl f u (by omega) hk]
        refine ⟨rfl, fun _ _ => rfl, fun j hj => (sget_sset ..).trans (if_neg ?_)⟩
        have : ¬ j + 96 = d.toNat := by simpa [kOf] using hj
        omega
    · unfold writeVK; rw [if_neg hv, if_neg hk]; exact regsExcept_refl ..

theorem writeVK_pc (r : GRegs) (d : Code) (ex zl : List Nat) (f : Nat → Word) : (writeVK r d ex zl f).pc = r.pc := by
  unfold writeVK
  split
  · rfl
  split
  · split <;> rfl
  · rfl

theorem writeVK_cys (r : GRegs) (d : Code) (ex zl : List Nat) (f : Nat → Word) : (writeVK r d ex zl f).cys = r.cys := by
  unfold writeVK
  split
  · rfl
  split
  · split <;> rfl
  · rfl

/-! ### Steps of the registers -/

/-- Only some vector and k registers of the issuing group, and CYS, have changed. -/
structure RegStep (vs ks : Nat → Bool) (y x : State) : Prop where
  own : OwnGroup y x
  group : { curGroup x with r := (curGroup y).r } = curGroup y
  regs : regsExcept (curGroup y).r (curGroup x).r vs ks
  pc : (curGroup x).r.pc = (curGroup y).r.pc

namespace RegStep

variable {vs ks : Nat → Bool} {x y z : State}

theorem refl (y : State) : RegStep vs ks y y := ⟨.refl y, rfl, regsExcept_refl .., rfl⟩

theorem trans (h : RegStep vs ks y x) (k : RegStep vs ks x z) : RegStep vs ks y z := by
  refine ⟨h.own.trans k.own, ?_, regsExcept_trans h.regs k.regs, k.pc.trans h.pc⟩
  calc { curGroup z with r := (curGroup y).r } = { { curGroup z with r := (curGroup x).r } with r := (curGroup y).r } := rfl
    _ = { curGroup x with r := (curGroup y).r } := by rw [k.group]
    _ = curGroup y := h.group

theorem withRegs (h : issuing y = true) {f : GRegs → GRegs} (hr : regsExcept (curGroup y).r (f (curGroup y).r) vs ks)
    (hpc : (f (curGroup y).r).pc = (curGroup y).r.pc) : RegStep vs ks y (withRegs y f) := by
  refine ⟨.withRegs y f, ?_, ?_, ?_⟩ <;> rw [curGroup_withRegs f h]
  · exact hr
  · exact hpc

theorem srcStep (h : issuing y = true) (ex : List Nat) (c : Code) : RegStep vs ks y (srcStep y ex c) := by
  unfold Machine.srcStep
  split
  · exact withRegs h ⟨rfl, fun _ _ => rfl, fun _ _ => rfl⟩ rfl
  · exact refl y

theorem putWord (h : issuing y = true) (d : Code) {ex zl : List Nat} (f : Nat → Word) (hex : ∀ t ∈ ex, t < 32) (hzl : ∀ t ∈ zl, t < 32) :
    RegStep (vOf (curGroup y).r.wb d) (kOf d) y (putWord y d ex zl f) := by
  unfold Machine.putWord
  split
  · exact refl y
  · exact withRegs h (regsExcept_writeVK _ d f hex hzl) (writeVK_pc ..)

/-- What does not depend on the registers is as it was. -/
theorem field (h : RegStep vs ks y x) {α : Type} (f : Group → α) (hf : ∀ g r, f { g with r := r } = f g) : f (curGroup x) = f (curGroup y) :=
  (hf _ _).symm.trans (congrArg f h.group)

theorem mustStop (h : RegStep vs ks y x) : mustStop x x.cur.core (curGroup x) = mustStop y y.cur.core (curGroup y) := by
  have hteams := congrArg Core.teams h.own.core
  have hstop := congrArg Core.stopReq h.own.core
  rw [h.own.cur]
  exact mustStop_congr hteams hstop (h.field (·.atEnd) fun _ _ => rfl) (h.field (·.fmode) fun _ _ => rfl) (h.field (·.team) fun _ _ => rfl)

/-- Where the chunk goes on, it goes on after a step of the registers. -/
theorem goesOn (h : RegStep vs ks y x) (hg : goesOn y) : goesOn x := by
  obtain ⟨hi, hslots, hlines, hend, hhalt, hreplay, hawaited, hstop⟩ := hg
  have hopen := h.field (·.open_) fun _ _ => rfl
  refine ⟨h.own.issuing.trans hi, ?_, ?_, ?_, ?_, ?_, ?_, h.mustStop.trans hstop⟩
  · rwa [hopen]
  · rwa [hopen]
  · rwa [hopen]
  · rwa [h.field (·.haltLeft) fun _ _ => rfl]
  · rwa [h.field (·.replay) fun _ _ => rfl]
  · rwa [h.field (·.awaited) fun _ _ => rfl]

theorem seen (h : RegStep vs ks y x) (a : Nat) : seen x a = seen y a :=
  viewByte_congr (congrArg Chunk.wr (h.field (·.open_) fun _ _ => rfl)) (h.field (·.done) fun _ _ => rfl) h.own.mem h.own.extPend a

end RegStep

theorem cys_putWord {y : State} (h : issuing y = true) (d : Code) (ex zl : List Nat) (f : Nat → Word) :
    (curGroup (putWord y d ex zl f)).r.cys = (curGroup y).r.cys := by
  unfold putWord
  split
  · rfl
  · rw [curGroup_withRegs _ h]
    exact writeVK_cys ..

theorem srcStep_of_ne (y : State) (ex : List Nat) {c : Code} (h : c ≠ 125) : srcStep y ex c = y := if_neg fun e => h e.1

/-! ### The forms -/

/-- What a form of sources `cs` and destination `d` leaves: a write after its reads, which read CYS where `cy` is among the sources. -/
def formLeft (y : State) (cs : List Code) (d : Code) (ex zl : List Nat) (v : Nat → Word) : State :=
  putWord (cs.foldl (fun z c => srcStep z ex c) y) d ex zl v

theorem srcSteps_regStep {vs ks : Nat → Bool} {y : State} (h : issuing y = true) (ex : List Nat) (cs : List Code) :
    RegStep vs ks y (cs.foldl (fun z c => srcStep z ex c) y) := by
  induction cs generalizing y with
  | nil => exact .refl y
  | cons c cs ih =>
    have hstep : RegStep vs ks y (srcStep y ex c) := .srcStep h ex c
    exact hstep.trans (ih (hstep.own.issuing.trans h))

theorem formLeft_regStep {y : State} (h : issuing y = true) (cs : List Code) (d : Code) {ex zl : List Nat} (v : Nat → Word)
    (hex : ∀ t ∈ ex, t < 32) (hzl : ∀ t ∈ zl, t < 32) : RegStep (vOf (curGroup y).r.wb d) (kOf d) y (formLeft y cs d ex zl v) := by
  have hsrc : RegStep (vOf (curGroup y).r.wb d) (kOf d) y (cs.foldl (fun z c => srcStep z ex c) y) := srcSteps_regStep h ex cs
  have hput := RegStep.putWord (hsrc.own.issuing.trans h) d v hex hzl
  rw [regsExcept_wb hsrc.regs] at hput
  exact hsrc.trans hput

theorem formLeft_cys {y : State} (h : issuing y = true) {cs : List Code} (hcs : ∀ c ∈ cs, c ≠ 125) (d : Code) (ex zl : List Nat)
    (v : Nat → Word) : (curGroup (formLeft y cs d ex zl v)).r.cys = (curGroup y).r.cys := by
  have hsrc : cs.foldl (fun z c => srcStep z ex c) y = y := by
    induction cs with
    | nil => rfl
    | cons c cs ih =>
      rw [List.foldl_cons, srcStep_of_ne y ex (hcs c List.mem_cons_self)]
      exact ih fun c hc => hcs c (List.mem_cons_of_mem _ hc)
  unfold formLeft
  rw [hsrc, cys_putWord h]

/-- Each of the one- to three-source forms, integer and float, is a write after reads of at most its sources. -/
theorem registerForm_exec {s : State} {p : Option Pfx} {d a b : Code} {i : Instr} (h : issuing s = true) (hd : okDst s d = true)
    (ha : okSrc s a = true)
    (hi : (okSrc s b = true ∧ i ∈ (intTwo (satBit p) ++ floatTwo p).map (fun e => e.1 p d a b))
      ∨ i ∈ (intOne (satBit p) ++ floatOne p).map (fun e => e.1 p d a)
      ∨ (okSrc s b = true ∧ okSrc s (third p d) = true ∧ i ∈ (intThree (satBit p) ++ floatThree p).map (fun e => e.1 p d a b))) :
    ∃ cs v, (∀ c ∈ cs, c = a ∨ c = b ∨ c = third p d)
      ∧ exec i s = .next (finish s (formLeft (entered (unitLen p) s) cs d (execs s p) (zeroed s p) v)) := by
  rcases hi with ⟨hb, hi⟩ | hi | ⟨hb, hc, hi⟩ <;> obtain ⟨e, he, rfl⟩ := List.mem_map.1 hi
  · obtain ⟨f, hf⟩ := twoForms_shared p e he
    exact ⟨[a, b], _, by simp, (hf d a b s).trans (issueP_ok h (alu2_run f h hd ha hb))⟩
  · obtain ⟨f, hf⟩ := oneForms_shared p e he
    exact ⟨[a], _, by simp, (hf d a s).trans (issueP_ok h (alu1_run f h hd ha))⟩
  · obtain ⟨f, hf⟩ := threeForms_shared p e he
    exact ⟨[a, b, third p d], _, by simp, (hf d a b s).trans (issueP_ok h (alu3_run f h hd ha hb hc))⟩

theorem execs_lt {s : State} (hlt : ∀ u ∈ s.cur.lanes, u < 32) (p : Option Pfx) : ∀ t ∈ execs s p, t < 32 :=
  fun t ht => hlt t (List.mem_filter.1 ht).1

theorem zeroed_lt {s : State} (hlt : ∀ u ∈ s.cur.lanes, u < 32) (p : Option Pfx) : ∀ t ∈ zeroed s p, t < 32 := fun t ht => by
  unfold zeroed at ht
  split at ht
  · exact hlt t (List.mem_filter.1 ht).1
  · exact absurd ht List.not_mem_nil

/-- Entering an effect changes no register but the program counters and RST (R146, R159). -/
theorem regsExcept_entered (n : Nat) {s : State} (h : issuing s = true) (vs ks : Nat → Bool) :
    regsExcept (curGroup s).r (curGroup (entered n s)).r vs ks := by
  rw [entered_r n h]
  exact ⟨rfl, fun _ _ => rfl, fun _ _ => rfl⟩

theorem cys_entered (n : Nat) {s : State} (h : issuing s = true) : (curGroup (entered n s)).r.cys = (curGroup s).r.cys := by
  rw [entered_r n h]

/-- Threads that do not take part keep their program counters (R146). -/
theorem pcOf_entered_of_notMem (n : Nat) {s : State} (h : issuing s = true) {u : Nat} (hu : u ∉ s.cur.lanes) :
    pcOf (entered n s) u = pcOf s u := by
  unfold pcOf
  rw [entered_pc n h]
  exact sget_ssetAll_of_notMem _ _ _ _ (by simpa using hu)

theorem seen_entered (n : Nat) {s : State} (h : issuing s = true) (a : Nat) : seen (entered n s) a = seen (begun s) a := by
  unfold seen entered
  rw [curGroup_modCur _ (issuing_begun h)]
  exact viewByte_congr rfl rfl (modCur_mem ..) (modCur_extPend ..) a

/-- A core but for its groups, written as a change of the groups alone. -/
theorem groups_of_bare {k k' : Core} (h : bare k' = bare k) : { k' with groups := k.groups } = k := by
  have e := congrArg (fun c : Core => { c with groups := k.groups }) h
  exact e

/-- Settles O7: a register form is a step of the registers between entering and counting, and each of these has its frame. -/
theorem registerFormFrame : Obligations.RegisterFormFrame := by
  intro s t p d a b i h hd ha hlt hi hgoes hexec
  obtain ⟨cs, v, hcs, hform⟩ := registerForm_exec h hd ha hi
  have hent := issuing_entered (unitLen p) h
  have hstep := formLeft_regStep hent cs d v (execs_lt hlt p) (zeroed_lt hlt p)
  have hcys := fun hne => formLeft_cys hent (cs := cs) hne d (execs s p) (zeroed s p) v
  generalize formLeft (entered (unitLen p) s) cs d (execs s p) (zeroed s p) v = x at hform hstep hcys
  have hwb : (curGroup (entered (unitLen p) s)).r.wb = (curGroup s).r.wb := by rw [entered_r _ h]
  rw [hwb] at hstep
  have hown : OwnGroup s x := (OwnGroup.entered _ s).trans hstep.own
  have hx : issuing x = true := hown.issuing.trans h
  have hfin : finish s x = counted x := by
    obtain ⟨-, -, -, -, -, hreplay, -⟩ := id hgoes
    rw [finish_of_no_replay x ((entered_replay _ h).symm.trans hreplay), retire_goesOn (hstep.goesOn hgoes)]
  obtain rfl : counted x = t := by
    rw [hform, hfin] at hexec
    injection hexec
  have hcur := hown.cur
  have hr : (curGroup (counted x)).r = (curGroup x).r := by rw [curGroup_counted hx]; rfl
  refine ⟨fun a => ?_, fun a => ?_, fun c hc => ?_, ?_, fun g hg => ?_, ?_, fun ha hb hc => ?_, fun u hu => ?_, ?_⟩
  · unfold memByte
    rw [counted_mem, hown.mem]
  · rw [viewByte_counted hx, hstep.seen, seen_entered _ h]
  · rw [coreAt_counted_ne x (by rwa [hcur]), hown.others c hc]
  · exact groups_of_bare (by rw [← hcur, bare_counted, hcur, hown.core])
  · rw [← hcur, counted_groups_r x (by rwa [hcur]), hcur, hown.groups g hg]
  · rw [hr]
    exact regsExcept_trans (regsExcept_entered _ h _ _) hstep.regs
  · rw [hr, hcys (fun c hm => ?_), cys_entered _ h]
    rcases hcs c hm with rfl | rfl | rfl <;> assumption
  · unfold pcOf
    rw [hr, hstep.pc]
    exact pcOf_entered_of_notMem _ h hu
  · exact (atRest_counted s x).trans hown.atRest

end Sys2Proof.Proofs

/-! # Port operands of MOV (R70, R71, R326, R330)

MOV reads its source and then writes its destination; where some thread executes, a port is popped, pushed, received from or sent to once.
Entering the effect changes none of what the port and its channel are found by. -/

namespace Sys2Proof.Proofs

open Sys2Proof Sys2Proof.Machine Sys2Proof.Laws Sys2Proof.Claims

/-! ### What ports are found by -/

/-- A change of the issuing group alone keeps what is of a core but for its groups. -/
theorem OwnGroup.coreField {s x : State} (h : OwnGroup s x) {α : Type} (f : Core → α) (hf : ∀ k, f (bare k) = f k) (c : Nat) :
    f (coreAt x c) = f (coreAt s c) := by
  by_cases hc : c = s.cur.core
  · rw [hc, ← hf (coreAt x _), h.core, hf]
  · rw [h.others c hc]

theorem OwnGroup.chanAt {s x : State} (h : OwnGroup s x) (c ch : Nat) : chanAt x c ch = chanAt s c ch := by
  unfold Machine.chanAt
  rw [h.coreField (·.chans) (fun _ => rfl) c]

theorem OwnGroup.chanDecl {s x : State} (h : OwnGroup s x) (c ch : Nat) : chanDecl x c ch = chanDecl s c ch := by
  have hgrids : x.grids = s.grids := by rw [← h.rest]; rfl
  unfold Machine.chanDecl gridAt
  rw [h.coreField (·.grid) (fun _ => rfl) c, hgrids]

theorem OwnGroup.memberAt {s x : State} (h : OwnGroup s x) (c : Nat) (rel : Int) : memberAt x c rel = memberAt s c rel := by
  have hclusters : x.clusters = s.clusters := by rw [← h.rest]; rfl
  unfold Machine.memberAt
  dsimp only
  rw [h.coreField (·.cidx) (fun _ => rfl) c, h.coreField (·.cluster) (fun _ => rfl) c, hclusters]

theorem OwnGroup.chanSource {s x : State} (h : OwnGroup s x) (c ch : Nat) : chanSource x c ch = chanSource s c ch := by
  unfold Machine.chanSource
  rw [h.chanDecl]
  exact congrArg _ (funext fun d => h.memberAt c _)

theorem OwnGroup.chanTarget {s x : State} (h : OwnGroup s x) (c ch : Nat) : chanTarget x c ch = chanTarget s c ch := by
  unfold Machine.chanTarget
  rw [h.chanDecl]
  exact congrArg _ (funext fun d => h.memberAt c _)

/-! ### Ports of the issuing group -/

section
variable {y : State} {port lane : Nat}

theorem streamAt_run {x : Stream} (hx : aget (curGroup y).r.streams port = some x) : streamAt port x.store lane y = .ok (x, y) := by
  unfold streamAt
  rw [bind_ok (getG_run y), hx]
  exact congrFun (if_pos rfl) y

/-- A port that is unbound, or bound the other way, faults the first thread (R330). -/
theorem streamAt_unbound {b : Bool}
    (h : aget (curGroup y).r.streams port = none ∨ ∃ x, aget (curGroup y).r.streams port = some x ∧ x.store = !b) :
    streamAt port b lane y = .error (.fault { code := 0x0E, lane := lane }) := by
  unfold streamAt
  rw [bind_ok (getG_run y)]
  rcases h with h | ⟨x, h, hb⟩ <;> rw [h]
  · rfl
  · exact congrFun (if_neg (by rw [hb]; cases b <;> decide)) y

theorem asStream_ok {α : Type} {m : M α} {s t : State} {a : α} (h : m s = .ok (a, t)) : asStream m s = .ok (a, t) := by
  unfold asStream
  rw [h]

theorem popStream_run {x : Stream} {ex : List Nat} {cs : List Chk} {v : Nat → Nat} {s2 s3 : State}
    (hx : aget (curGroup y).r.streams port = some x) (hload : x.store = false) (hcs : streamChecks x ex y = .ok (cs, s2))
    (hv : performReads cs false s2 = .ok (v, s3)) :
    popStream port ex y = .ok (fun t => widenElem x.esz x.sgn (v t), withRegs s3 (fun r => advancePort r port 1 x)) := by
  unfold popStream
  rw [bind_ok (hload ▸ streamAt_run hx), bind_ok hcs, bind_ok (asStream_ok hv)]
  rfl

theorem pushStream_run {x : Stream} {ex : List Nat} {cs : List Chk} {v : Nat → Word} {s2 s3 : State}
    (hx : aget (curGroup y).r.streams port = some x) (hstore : x.store = true) (hcs : streamChecks x ex y = .ok (cs, s2))
    (hw : performWrites cs (2 ^ x.esz) (fun t => (v t).toNat) false s2 = .ok ((), s3)) :
    pushStream port ex v y = .ok ((), withRegs s3 (fun r => advancePort r port 1 x)) := by
  unfold pushStream
  rw [bind_ok (hstore ▸ streamAt_run hx), bind_ok hcs, bind_ok (asStream_ok hw)]
  rfl

theorem boundChan_run {ch : Nat} (h : aget (curGroup y).r.chans port = some ch) : boundChan port lane y = .ok (ch, y) := by
  unfold boundChan
  rw [bind_ok (getG_run y), h]
  rfl

theorem boundChan_unbound (h : aget (curGroup y).r.chans port = none) :
    boundChan port lane y = .error (.fault { code := 0x0F, lane := lane }) := by
  unfold boundChan
  rw [bind_ok (getG_run y), h]
  rfl

/-- A receive waits for a slot. -/
theorem recvChan_empty {ch : Nat} {ex : List Nat} (h : aget (curGroup y).r.chans port = some ch)
    (hsrc : (chanSource y y.cur.core ch).isSome = true) (hbuf : (chanAt y y.cur.core ch).buf = []) : recvChan port ex y = .error .port := by
  unfold recvChan
  rw [bind_ok (boundChan_run h), bind_ok (getS_run _ y), if_neg (by simp only [Option.isNone_iff_eq_none]; rintro e; simp [e] at hsrc),
    bind_ok (getS_run _ y), hbuf]
  rfl

/-- A receive takes the oldest slot, to which a squash returns it (R326). -/
theorem recvChan_run {ch : Nat} {ex : List Nat} {x : ChanSlot} {more : List ChanSlot} (h : aget (curGroup y).r.chans port = some ch)
    (hsrc : (chanSource y y.cur.core ch).isSome = true) (hbuf : (chanAt y y.cur.core ch).buf = x :: more) :
    recvChan port ex y = .ok (fun t => if x.valid.getLsbD t then x.vals.getD t 0 else 0,
      deferring (modChan y y.cur.core ch (fun k => { k with buf := more, taken := k.taken ++ [(y.cur.slot, x)] })) (.recvDone ch)) := by
  unfold recvChan
  rw [bind_ok (boundChan_run h), bind_ok (getS_run _ y), if_neg (by simp only [Option.isNone_iff_eq_none]; rintro e; simp [e] at hsrc),
    bind_ok (getS_run _ y), hbuf]
  rfl

section
variable {ch tc : Nat} {ex : List Nat} {v : Nat → Word} (h : aget (curGroup y).r.chans port = some ch)
  (htgt : chanTarget y y.cur.core ch = some tc)
include h htgt

/-- A send waits for a credit. -/
theorem sendChan_full (hfull : ((chanDecl y y.cur.core ch).map (·.slots)).getD 0 ≤ (chanAt y tc ch).credits) :
    sendChan port ex v y = .error .port := by
  unfold sendChan
  rw [bind_ok (boundChan_run h), bind_ok (getS_run _ y), htgt]
  dsimp only
  rw [bind_ok (getS_run _ y), bind_ok (getS_run _ y), if_pos hfull]
  rfl

/-- A send takes a credit, and leaves at the commit (R326). -/
theorem sendChan_run (hroom : (chanAt y tc ch).credits < ((chanDecl y y.cur.core ch).map (·.slots)).getD 0) :
    sendChan port ex v y = .ok ((), deferring (modChan y tc ch (fun k => { k with credits := k.credits + 1 }))
      (.send tc ch { vals := allLanes.map (fun t => if t ∈ ex then v t else 0), valid := maskOf ex })) := by
  unfold sendChan
  rw [bind_ok (boundChan_run h), bind_ok (getS_run _ y), htgt]
  dsimp only
  rw [bind_ok (getS_run _ y), bind_ok (getS_run _ y), if_neg (Nat.not_le.2 hroom)]
  rfl

end

end

/-! ### Port operands -/

section
variable {q : Code} {ex : List Nat}

theorem readSrc_idle (hlo : 112 ≤ q.toNat) (hhi : q.toNat ≤ 117) (y : State) : readSrc q [] y = .ok (fun _ => 0, y) := by
  unfold readSrc
  rw [bind_ok (getG_run y)]
  simp only [show ¬ q.toNat ≤ 111 by omega, hhi, if_true, if_false, List.isEmpty_nil, pure_run]

theorem readSrc_stream (hlo : 112 ≤ q.toNat) (hhi : q.toNat ≤ 115) (hex : ex ≠ []) (y : State) :
    readSrc q ex y = popStream (q.toNat - 112) ex y := by
  unfold readSrc
  rw [bind_ok (getG_run y)]
  simp only [show ¬ q.toNat ≤ 111 by omega, show q.toNat ≤ 117 by omega, hhi, if_true, if_false, List.isEmpty_eq_false_iff.2 hex,
    Bool.false_eq_true]

theorem readSrc_channel (hq : q.toNat = 116 ∨ q.toNat = 117) (hex : ex ≠ []) (y : State) :
    readSrc q ex y = recvChan (q.toNat - 112) ex y := by
  unfold readSrc
  rw [bind_ok (getG_run y)]
  simp only [show ¬ q.toNat ≤ 111 by omega, show q.toNat ≤ 117 by omega, show ¬ q.toNat ≤ 115 by omega, if_true, if_false,
    List.isEmpty_eq_false_iff.2 hex, Bool.false_eq_true]

theorem writeDst_stream (hlo : 112 ≤ q.toNat) (hhi : q.toNat ≤ 115) (hex : ex ≠ []) (zl : List Nat) (f : Nat → Word) :
    writeDst q ex zl f = pushStream (q.toNat - 112) ex f := by
  unfold writeDst
  simp only [show ¬ q.toNat ≤ 111 by omega, show q.toNat ≤ 117 by omega, hhi, if_true, if_false, List.isEmpty_eq_false_iff.2 hex,
    Bool.false_eq_true]

theorem writeDst_channel (hq : q.toNat = 116 ∨ q.toNat = 117) (hex : ex ≠ []) (zl : List Nat) (f : Nat → Word) :
    writeDst q ex zl f = sendChan (q.toNat - 112) ex f := by
  unfold writeDst
  simp only [show ¬ q.toNat ≤ 111 by omega, show q.toNat ≤ 117 by omega, show ¬ q.toNat ≤ 115 by omega, if_true, if_false,
    List.isEmpty_eq_false_iff.2 hex, Bool.false_eq_true]

theorem opnd_srcPort (hlo : 112 ≤ q.toNat) (hhi : q.toNat ≤ 117) (g : Group) :
    (Opnd.src q).legal = true ∧ (Opnd.src q).inRange g = true := by
  refine ⟨?_, ?_⟩
  · simp only [Opnd.legal, Bool.not_eq_true', Bool.or_eq_false_iff, beq_eq_false_iff_ne, ne_eq]
    constructor <;> (rintro rfl; simp at hhi)
  · exact Bool.or_eq_true_iff.2 (.inl (decide_eq_true (show 95 < q.toNat by omega)))

theorem opnd_dstPort (hlo : 112 ≤ q.toNat) (hhi : q.toNat ≤ 117) (g : Group) :
    (Opnd.dst q).legal = true ∧ (Opnd.dst q).inRange g = true := by
  exact ⟨Bool.or_eq_true_iff.2 (.inl (decide_eq_true hhi)), Bool.or_eq_true_iff.2 (.inl (decide_eq_true (show 95 < q.toNat by omega)))⟩

end

/-! ### MOV -/

/-- MOV's effect where its operands are legal: a read, then a write. -/
theorem mov_checked {s : State} {p : Option Pfx} {d a : Code} (h : issuing s = true)
    (hd : (Opnd.dst d).legal = true ∧ (Opnd.dst d).inRange (curGroup (entered (unitLen p) s)) = true)
    (ha : (Opnd.src a).legal = true ∧ (Opnd.src a).inRange (curGroup (entered (unitLen p) s)) = true) :
    alu1 p d a (fun x => x) (entered (unitLen p) s)
      = (readSrc a (execs s p) >>= fun x => writeDst d (execs s p) (zeroed s p) (fun t => x t)) (entered (unitLen p) s) := by
  unfold alu1
  rw [bind_ok (checkOps_ok _ _ (by
      simp only [List.mem_cons, List.not_mem_nil, or_false, forall_eq_or_imp, forall_eq]
      exact ⟨hd, ha⟩)),
    bind_ok (execLanes_entered _ h p), bind_ok (zeroLanes_entered _ h p)]

section
variable {s : State} {p : Option Pfx} {d a q : Code} (h : issuing s = true)
include h

section
variable (hd : okDst s d = true) (hlo : 112 ≤ q.toNat) (hhi : q.toNat ≤ 117)
include hd hlo hhi

/-- MOV from a port, whose value the port gives. -/
theorem exec_mov_fromPort {f : Nat → Word} {x : State} (hread : readSrc q (execs s p) (entered (unitLen p) s) = .ok (f, x)) :
    exec (.mov p d q) s = .next (finish s (putWord x d (execs s p) (zeroed s p) f)) := by
  refine issueP_ok h ((mov_checked h (opnd_dst (by simpa [h] using hd)) (opnd_srcPort hlo hhi _)).trans ?_)
  rw [bind_ok hread]
  exact writeDst_plain _ _ _ (okDst_plain hd)

theorem exec_mov_fromPort_stops {e : Stop} (hread : readSrc q (execs s p) (entered (unitLen p) s) = .error e) (he : e ≠ .cut) :
    exec (.mov p d q) s = .next (stopped s e) :=
  issue_stop h he ((mov_checked h (opnd_dst (by simpa [h] using hd)) (opnd_srcPort hlo hhi _)).trans (bind_error hread))

end

section
variable (ha : okSrc s a = true) (hlo : 112 ≤ q.toNat) (hhi : q.toNat ≤ 117) (hex : execs s p ≠ [])
include ha hlo hhi hex

/-- MOV to a port is the port's write of the source's values. -/
theorem mov_toPort : alu1 p q a (fun x => x) (entered (unitLen p) s)
    = writeDst q (execs s p) (zeroed s p) (srcVal (entered (unitLen p) s) a) (srcStep (entered (unitLen p) s) (execs s p) a) := by
  rw [mov_checked h (opnd_dstPort hlo hhi _) (opnd_src (by simpa [h] using ha)), bind_ok (readSrc_of_executing (okSrc_plain ha) hex)]

theorem exec_mov_toPort {x : State} (hwrite : writeDst q (execs s p) (zeroed s p) (srcVal (entered (unitLen p) s) a)
    (srcStep (entered (unitLen p) s) (execs s p) a) = .ok ((), x)) : exec (.mov p q a) s = .next (finish s x) :=
  issueP_ok h ((mov_toPort h ha hlo hhi hex).trans hwrite)

theorem exec_mov_toPort_stops {e : Stop} (hwrite : writeDst q (execs s p) (zeroed s p) (srcVal (entered (unitLen p) s) a)
    (srcStep (entered (unitLen p) s) (execs s p) a) = .error e) (he : e ≠ .cut) : exec (.mov p q a) s = .next (stopped s e) :=
  issue_stop h he ((mov_toPort h ha hlo hhi hex).trans hwrite)

end

end

/-- Entering and reading sources leave the group's ports bound as they are. -/
theorem ports_entered (n : Nat) {s : State} (h : issuing s = true) :
    (curGroup (entered n s)).r.streams = (curGroup s).r.streams ∧ (curGroup (entered n s)).r.chans = (curGroup s).r.chans := by
  rw [entered_r n h]
  exact ⟨rfl, rfl⟩

theorem ports_srcStep {y : State} (h : issuing y = true) (ex : List Nat) (a : Code) :
    (curGroup (srcStep y ex a)).r.streams = (curGroup y).r.streams ∧ (curGroup (srcStep y ex a)).r.chans = (curGroup y).r.chans := by
  unfold srcStep
  split
  · rw [curGroup_withRegs _ h]
    exact ⟨rfl, rfl⟩
  · exact ⟨rfl, rfl⟩

theorem OwnGroup.srcStep (y : State) (ex : List Nat) (a : Code) : OwnGroup y (srcStep y ex a) := by
  unfold Machine.srcStep
  split
  · exact .withRegs y _
  · exact .refl y

/-- Settles O29: each clause is a case of the port's read or write, in the state that entering, or reading the source, has left. -/
theorem portOperands : Obligations.PortOperands := by
  intro s s2 s3 p d a t0 rest h hexecs
  have hex : execs s p ≠ [] := by rw [hexecs]; exact List.cons_ne_nil _ _
  have hlane : (execs s p).headD 0 = t0 := by rw [hexecs]; rfl
  have hcur : (entered (unitLen p) s).cur = s.cur := entered_cur _ s
  have hown := OwnGroup.entered (unitLen p) s
  obtain ⟨hstreams, hchans⟩ := ports_entered (unitLen p) h
  have hown1 := hown.trans (.srcStep _ (execs s p) a)
  have hcur1 : (srcStep (entered (unitLen p) s) (execs s p) a).cur = s.cur := hown1.cur
  obtain ⟨hstreams1, hchans1⟩ := ports_srcStep (issuing_entered (unitLen p) h) (execs s p) a
  rw [hstreams] at hstreams1
  rw [hchans] at hchans1
  refine ⟨fun hd q hlo hhi => ⟨fun x cs v hx hload hcs hv => ?_, fun hno => ?_⟩,
    fun ha q hlo hhi => ⟨fun x cs hx hstore hcs hw => ?_, fun hno => ?_⟩,
    fun hd q hq => ⟨fun hno => ?_, fun ch hch hsrc => ⟨fun hbuf => ?_, fun x more hbuf => ?_⟩⟩,
    fun ha q hq => ⟨fun hno => ?_, fun ch tc hch htgt => ⟨fun hfull => ?_, fun hroom => ?_⟩⟩,
    fun s' q h' hidle hd hlo hhi => ?_⟩
  · refine exec_mov_fromPort h hd hlo (by omega) ?_
    rw [readSrc_stream hlo hhi hex]
    exact popStream_run (by rwa [hstreams]) hload hcs hv
  · refine exec_mov_fromPort_stops h hd hlo (by omega) ?_ nofun
    rw [readSrc_stream hlo hhi hex]
    exact (bind_error (streamAt_unbound (by rwa [hstreams]))).trans (by rw [hlane])
  · refine exec_mov_toPort h ha hlo (by omega) hex ?_
    rw [writeDst_stream hlo hhi hex]
    exact pushStream_run (by rwa [hstreams1]) hstore hcs hw
  · refine exec_mov_toPort_stops h ha hlo (by omega) hex ?_ nofun
    rw [writeDst_stream hlo hhi hex]
    exact (bind_error (streamAt_unbound (by rwa [hstreams1]))).trans (by rw [hlane])
  · refine exec_mov_fromPort_stops h hd (by omega) (by omega) ?_ nofun
    rw [readSrc_channel hq hex]
    exact (bind_error (boundChan_unbound (by rwa [hchans]))).trans (by rw [hlane])
  · refine exec_mov_fromPort_stops h hd (by omega) (by omega) ?_ nofun
    rw [readSrc_channel hq hex]
    exact recvChan_empty (by rwa [hchans]) (by rwa [hcur, hown.chanSource]) (by rwa [hcur, hown.chanAt])
  · refine exec_mov_fromPort h hd (by omega) (by omega) ?_
    rw [readSrc_channel hq hex, recvChan_run (by rwa [hchans]) (by rwa [hcur, hown.chanSource]) (by rwa [hcur, hown.chanAt]), hcur]
  · refine exec_mov_toPort_stops h ha (by omega) (by omega) hex ?_ nofun
    rw [writeDst_channel hq hex]
    exact (bind_error (boundChan_unbound (by rwa [hchans1]))).trans (by rw [hlane])
  · refine exec_mov_toPort_stops h ha (by omega) (by omega) hex ?_ nofun
    rw [writeDst_channel hq hex]
    exact sendChan_full (by rwa [hchans1]) (by rwa [hcur1, hown1.chanTarget]) (by rwa [hcur1, hown1.chanDecl, hown1.chanAt])
  · refine exec_mov_toPort h ha (by omega) (by omega) hex ?_
    rw [writeDst_channel hq hex]
    exact sendChan_run (by rwa [hchans1]) (by rwa [hcur1, hown1.chanTarget]) (by rwa [hcur1, hown1.chanDecl, hown1.chanAt])
  · have hread := readSrc_idle hlo hhi (entered (unitLen p) s')
    rw [← hidle] at hread
    have hmov := exec_mov_fromPort h' hd hlo hhi hread
    rwa [hidle] at hmov

end Sys2Proof.Proofs

/-! # Steps of a core outside its groups

What a group's access does at its core before the group itself changes: it fills TLBs and asks the host (R371, R373), and brings the lines that
it writes to the core's L1 and stash and to the directory (R195, R199, R244). No group, no other core, no byte of memory and no store on its way
changes by it. -/

namespace Sys2Proof.Proofs

open Sys2Proof Sys2Proof.Machine Sys2Proof.Laws

/-- The parts of a core that its groups' accesses to global memory do not touch. -/
def standing (k : Core) : Sparse Group × Word × Sparse Word := (k.groups, k.fpend, k.tiles)

/-- A step of core `c` outside its groups. -/
structure Outer (c : Nat) (s x : State) : Prop where
  cur : x.cur = s.cur
  mem : x.mem = s.mem
  extPend : x.extPend = s.extPend
  others : ∀ d, d ≠ c → coreAt x d = coreAt s d
  core : standing (coreAt x c) = standing (coreAt s c)

namespace Outer

variable {c : Nat} {s x y : State}

theorem refl (c : Nat) (s : State) : Outer c s s := ⟨rfl, rfl, rfl, fun _ _ => rfl, rfl⟩

theorem trans (h : Outer c s x) (k : Outer c x y) : Outer c s y :=
  ⟨k.cur.trans h.cur, k.mem.trans h.mem, k.extPend.trans h.extPend, fun d hd => (k.others d hd).trans (h.others d hd), k.core.trans h.core⟩

/-- A step of no core. -/
theorem of_cores (hcores : x.cores = s.cores) (hcur : x.cur = s.cur) (hmem : x.mem = s.mem) (hext : x.extPend = s.extPend) : Outer c s x :=
  ⟨hcur, hmem, hext, fun d _ => coreAt_congr hcores d, by rw [coreAt_congr hcores]⟩

theorem setCore (s : State) {k : Core} (hk : standing k = standing (coreAt s c)) : Outer c s (setCore s c k) :=
  ⟨rfl, rfl, rfl, fun d hd => (coreAt_setCore ..).trans (if_neg hd), by rw [coreAt_setCore_self]; exact hk⟩

theorem modCore (s : State) (c : Nat) {f : Core → Core} (hf : ∀ k, standing (f k) = standing k) : Outer c s (modCore s c f) :=
  setCore s (hf _)

theorem foldl {α : Type} {f : State → α → State} (h : ∀ t a, Outer c t (f t a)) (ls : List α) (s : State) : Outer c s (ls.foldl f s) :=
  List.foldlRecOn (motive := Outer c s) ls f (refl c s) (fun t ht a _ => ht.trans (h t a))

theorem groupAt (h : Outer c s x) (slot : Nat) : groupAt x c slot = groupAt s c slot := by
  have hgroups := congrArg Prod.fst h.core
  exact congrArg (aget · slot) hgroups

end Outer

/-! ### Translation (R366 to R374) -/

theorem outer_takeFree (c : Nat) (s : State) : Outer c s (takeFree s).2 := .of_cores rfl rfl rfl rfl

theorem outer_fillTlb (s : State) (c : Nat) (who : Agent) (t : TlbEnt) : Outer c s (fillTlb s c who t) := by
  unfold fillTlb
  cases who with
  | group | stream | prefetch => exact .modCore s c fun _ => rfl
  | copy e => exact .of_cores rfl rfl rfl rfl
  | unit => exact .refl c s

theorem outer_askAts (c : Nat) (s : State) (core p page : Nat) (me : Nat × Nat) : Outer c s (askAts s core p page me) := by
  unfold askAts
  split
  · split
    · exact .refl c s
    · exact .of_cores rfl rfl rfl rfl
  · split
    · exact .refl c s
    · exact .of_cores rfl rfl rfl rfl

theorem outer_dropAsker (c : Nat) (s : State) (me : Nat × Nat) (q : AtsReq → Bool) : Outer c s (dropAsker s me q) := by
  unfold dropAsker
  dsimp only
  split
  · exact .refl c s
  · exact .of_cores rfl rfl rfl rfl

theorem outer_takeWalk (c : Nat) (s : State) (d p va : Nat) (r : Except XErr (Dword × Nat × Nat)) : Outer c s (takeWalk s d p va r).2 := by
  unfold takeWalk
  dsimp only
  split
  · exact .refl c s
  · exact outer_takeFree c s

theorem outer_takeLeaf (c : Nat) (s : State) (va : Nat) (table : Option Nat) (r : Except XErr (Dword × Nat × Nat)) :
    Outer c s (takeLeaf s va table r).2 := by
  unfold takeLeaf
  dsimp only
  split
  · exact .refl c s
  split
  · exact .refl c s
  · exact .refl c s
  · exact outer_takeFree c s

theorem outer_atsPage (s : State) (c p page : Nat) (e : Dword) (acc : Access) : Outer c s (atsPage s c p page e acc).2 := by
  unfold atsPage
  dsimp only
  split
  · exact .refl c s
  split
  · exact outer_fillTlb ..
  split
  · dsimp only
    exact outer_dropAsker ..
  · exact outer_askAts ..

theorem outer_applyLeaf (s : State) (c p : Nat) (fmode : Bool) (va : Nat) (e : Dword) (lvl : Nat) (acc : Access) :
    Outer c s (applyLeaf s c p fmode va e lvl acc).2 := by
  have hats := outer_atsPage s c p (va / 4096) e acc
  unfold applyLeaf
  dsimp only
  split
  · split
    next h => rw [h] at hats; exact hats
    next h => rw [h] at hats; split <;> exact hats
  · split
    · exact .refl c s
    · split <;> exact .refl c s

/-- The leaf that a walk gives, where no commit holds a line of its path. -/
theorem outer_looked (c : Nat) (s : State) (held : Bool) (d p va : Nat) (table : Option Nat) (r : Except XErr (Dword × Nat × Nat)) :
    Outer c s (if held = true then (Except.error XErr.held, (takeWalk s d p va r).2)
      else takeLeaf (takeWalk s d p va r).2 va table (takeWalk s d p va r).1).2 := by
  split
  · exact outer_takeWalk ..
  · exact (outer_takeWalk ..).trans (outer_takeLeaf ..)

theorem outer_xlate (s : State) (c p : Nat) (fmode : Bool) (va : Dword) (acc : Access) : Outer c s (xlate s c p fmode va acc).2 := by
  have huse : ∀ t e lvl, Outer c s t → Outer c s (applyLeaf t c p fmode (va.toNat % 2 ^ 57) e lvl acc).2 :=
    fun t e lvl ht => ht.trans (outer_applyLeaf ..)
  have hfill : ∀ t e lvl, Outer c s t → Outer c s (applyLeaf (fillTlb t c acc.who
      { pasid := p, va := va.toNat % 2 ^ 57 / 4096, lvl := lvl, leaf := e, ats := none }) c p fmode (va.toNat % 2 ^ 57) e lvl acc).2 :=
    fun t e lvl ht => huse _ e lvl (ht.trans (outer_fillTlb ..))
  have hfree : ∀ t, Outer c s t → Outer c s (takeFree t).2 := fun t ht => ht.trans (outer_takeFree c t)
  unfold xlate
  dsimp only
  split
  · exact .refl c s
  split
  · exact .refl c s
  split
  · split <;> exact .refl c s
  split
  · exact .refl c s
  next root _ =>
  have hlook := outer_looked c s (heldRead s none ((s.mmio.ptbase + 16 * p) / 128)
    || (walkReads s (va.toNat % 2 ^ 57) 5 4 root).1.any (heldRead s none)) (dieOf c) p (va.toNat % 2 ^ 57)
    (walkReads s (va.toNat % 2 ^ 57) 5 4 root).2 (walkFrom s (va.toNat % 2 ^ 57) 5 4 root)
  generalize (if (heldRead s none ((s.mmio.ptbase + 16 * p) / 128)
    || (walkReads s (va.toNat % 2 ^ 57) 5 4 root).1.any (heldRead s none)) = true then _ else _) = l at hlook ⊢
  split
  · split
    · exact hlook
    · exact hfill _ _ _ hlook
  · split
    · split
      · exact hfill _ _ _ hlook
      · split
        · exact huse _ _ _ (hfree _ hlook)
        · exact hfill _ _ _ (hfree _ hlook)
    · exact huse _ _ _ hlook
    · split
      · exact huse _ _ _ (hfree _ hlook)
      · exact hfree _ hlook

theorem outer_xlatePages (c p : Nat) (fmode : Bool) (va : Dword) (acc : Access) (os : List Nat) (s : State) :
    Outer c s (xlatePages c p fmode va acc os s).2 := by
  induction os generalizing s with
  | nil => exact .refl c s
  | cons o os ih => exact (outer_xlate s c p fmode (addAddr va o) acc).trans (ih _)

theorem outer_xlatePieces (acc : Access) (ps : List (Dword × Nat)) (s : State) : Outer s.cur.core s (xlatePieces acc ps s).2 := by
  induction ps generalizing s with
  | nil => exact .refl _ s
  | cons e ps ih =>
    have hpages := outer_xlatePages s.cur.core (curGroup s).pasid (curGroup s).fmode e.1 acc (pageStarts e.1 e.2) s
    have hrest := ih (xlatePages s.cur.core (curGroup s).pasid (curGroup s).fmode e.1 acc (pageStarts e.1 e.2) s).2
    rw [hpages.cur] at hrest
    exact hpages.trans hrest

/-! ### Lines that a store brings to its core (R195, R199, R244) -/

theorem outer_sendPacket (c : Nat) (s : State) (src x : Nat) (e : Instr) : Outer c s (sendPacket s src x e) := by
  unfold sendPacket
  dsimp only
  split <;> exact .of_cores rfl rfl rfl rfl

theorem outer_l2Room (c : Nat) (s : State) (slice : Nat) : Outer c s (l2Room s slice) := by
  unfold l2Room
  dsimp only
  split
  · exact .refl c s
  split
  · exact .refl c s
  next v _ =>
    have hgone : Outer c s { s with free := s.free + 1, l2 := s.l2.filter (fun x => !(x.line == v.line)) } := .of_cores rfl rfl rfl rfl
    split
    · exact hgone.trans (outer_sendPacket ..)
    · exact hgone

theorem outer_l2Write (c : Nat) (s : State) (line : Nat) : Outer c s (l2Write s line) := by
  unfold l2Write
  split
  · exact .refl c s
  split
  · exact .of_cores rfl rfl rfl rfl
  · exact (outer_l2Room c s (homeSlice line)).trans (.of_cores rfl rfl rfl rfl)

theorem outer_leaveL1 (c : Nat) (s : State) (x : L1Line) : Outer c s (leaveL1 s x) := by
  unfold leaveL1
  split
  · exact outer_l2Write ..
  · exact .refl c s

theorem outer_dirAdd (s : State) (c line : Nat) : Outer c s (dirAdd s c line) := by
  have hleft : Outer c s (modCore s c (fun k => { k with leaving := k.leaving.filter (fun e => !(e.1 == line)) })) := .modCore s c fun _ => rfl
  unfold dirAdd
  dsimp only
  split
  · exact hleft
  · exact hleft.trans (.of_cores rfl rfl rfl rfl)

theorem outer_dirDel (c : Nat) (s : State) (d line : Nat) : Outer c s (dirDel s d line) := by
  unfold dirDel
  split <;> exact .of_cores rfl rfl rfl rfl

theorem outer_leaveDir (s : State) (c line : Nat) : Outer c s (leaveDir s c line) := by
  unfold leaveDir
  dsimp only
  split
  · exact .refl c s
  split
  · exact outer_dirDel ..
  · exact .modCore s c fun _ => rfl

/-- A core's copies change, and the directory lists it. -/
theorem outer_copies (s : State) (c line : Nat) (l1 stash : List L1Line) :
    Outer c s (dirAdd (setCore s c { coreAt s c with l1 := l1, stashLines := stash }) c line) := by
  have hset : Outer c s (setCore s c { coreAt s c with l1 := l1, stashLines := stash }) := .setCore s rfl
  exact hset.trans (outer_dirAdd _ c line)

theorem outer_takeValue (s : State) (c line : Nat) : Outer c s (takeValue s c line false) := by
  unfold takeValue
  split
  · exact .refl c s
  · exact (outer_dirAdd s c line).trans (outer_leaveDir ..)

theorem outer_touchLine (s : State) (c line : Nat) : Outer c s (touchLine s c line false) := by
  have hput : ∀ l1, Outer c s (dirAdd (setCore s c { coreAt s c with l1 := l1 }) c line) := fun l1 => outer_copies s c line l1 _
  unfold touchLine revalidate
  simp only [Bool.false_eq_true, if_false]
  split
  · exact .refl c s
  split
  · exact outer_copies ..
  split
  · exact hput _
  split
  · exact ((hput _).trans (outer_leaveL1 ..)).trans (outer_leaveDir ..)
  · exact (outer_dirAdd s c line).trans (outer_leaveDir ..)

theorem outer_touchStash (s : State) (c line : Nat) : Outer c s (touchStash s c line false) := by
  unfold touchStash revalidate
  simp only [Bool.false_eq_true, if_false]
  split
  · exact .refl c s
  split <;> exact outer_copies ..

/-- A store brings its lines to its core and has none of them served. -/
theorem outer_touchAll (s : State) (ls st : List Nat) : Outer s.cur.core s (touchAll s ls st false true) := by
  unfold touchAll
  refine List.foldlRecOn (motive := Outer s.cur.core s) ls _ (.refl _ s) fun t ht l _ => ht.trans ?_
  rw [← ht.cur]
  split
  · exact outer_touchStash ..
  split
  · exact outer_touchLine ..
  · exact outer_takeValue ..

end Sys2Proof.Proofs

/-! # The frame of the global stores (R217, R235, R244)

A store that is no MMIO access checks its threads' addresses, brings their lines to the core, and buffers the bytes in its own chunk. `Wrote w`: of what a
group sees and what others hold, only the uncommitted bytes of the group's open chunk have changed, by `w`. -/

namespace Sys2Proof.Proofs

open Sys2Proof Sys2Proof.Machine Sys2Proof.Laws Sys2Proof.Claims

/-! ### Uncommitted bytes -/

theorem latest_cons (e : Nat × Byte) (kvs : List (Nat × Byte)) (a : Nat) :
    latest (e :: kvs) a = (latest kvs a).or (if a = e.1 then some e.2 else none) := by
  unfold latest
  rw [List.reverse_cons, List.find?_append]
  by_cases h : a = e.1
  · cases hf : kvs.reverse.find? (fun e => e.1 == a) <;> simp [h]
  · cases hf : kvs.reverse.find? (fun e => e.1 == a) <;> simp [h, Ne.symm h]

/-- Uncommitted bytes with others put over them. -/
def putBytes (kvs : List (Nat × Byte)) (m : Sparse (Option Byte)) : Sparse (Option Byte) :=
  ssetAll none m (kvs.map (fun e => (e.1, some e.2)))

/-- A byte put over others reads as the latest store of it. -/
theorem sget_putBytes (m : Sparse (Option Byte)) (kvs : List (Nat × Byte)) (a : Nat) :
    sget none (putBytes kvs m) a = (latest kvs a).or (sget none m a) := by
  unfold putBytes
  induction kvs generalizing m with
  | nil => rfl
  | cons e kvs ih =>
    rw [List.map_cons, ssetAll_cons, ih, latest_cons, Option.or_assoc, sget_sset]
    split <;> rfl

theorem firstByte_cons (k : Chunk) (ks : List Chunk) (a : Nat) :
    firstByte (·.wr) a (k :: ks) = (sget none k.wr a).or (firstByte (·.wr) a ks) := by
  show (match sget none k.wr a with
    | some b => some b
    | none => firstByte (·.wr) a ks) = _
  cases sget none k.wr a <;> rfl

/-- A view over bytes that the open chunk has newly buffered. -/
theorem viewByte_buffered {s t : State} {g h : Group} (kvs : List (Nat × Byte))
    (hwr : h.open_.wr = putBytes kvs g.open_.wr) (hdone : h.done = g.done)
    (hmem : t.mem = s.mem) (hext : t.extPend = s.extPend) (a : Nat) : viewByte t h a = (latest kvs a).getD (viewByte s g a) := by
  unfold viewByte chunksOf
  rw [firstByte_cons, firstByte_cons, hwr, sget_putBytes, hdone, Option.or_assoc]
  unfold memByte extByte
  rw [hmem, hext]
  cases latest kvs a <;> rfl

/-! ### Changes of the open chunk's bytes -/

/-- What a store of a group leaves of it: its registers, its ended chunks, and whether it repeats. -/
def kept (g : Group) : GRegs × List Chunk × Option (List Nat × PC) := (g.r, g.done, g.replay)

theorem standing_of_bare {k k' : Core} (h : bare k' = bare k) : (standing k').2 = (standing k).2 :=
  (show (standing (bare k')).2 = (standing (bare k)).2 by rw [h])

/-- The bytes that the open chunk of the issuing group has written have changed by `w`; memory, the stores on their way, other cores, other groups,
and what `kept` and `standing` name have not. -/
structure Wrote (w : Sparse (Option Byte) → Sparse (Option Byte)) (s x : State) : Prop where
  cur : x.cur = s.cur
  mem : x.mem = s.mem
  extPend : x.extPend = s.extPend
  others : ∀ c, c ≠ s.cur.core → coreAt x c = coreAt s c
  groups : ∀ h, h ≠ s.cur.slot → groupAt x s.cur.core h = groupAt s s.cur.core h
  core : (standing (coreAt x s.cur.core)).2 = (standing (coreAt s s.cur.core)).2
  issuing : issuing x = true
  own : kept (curGroup x) = kept (curGroup s)
  wr : (curGroup x).open_.wr = w (curGroup s).open_.wr

namespace Wrote

variable {w w' : Sparse (Option Byte) → Sparse (Option Byte)} {s x y : State}

theorem trans (h : Wrote w s x) (k : Wrote w' x y) : Wrote (w' ∘ w) s y := by
  obtain ⟨kcur, kmem, kext, kothers, kgroups, kcore, kissuing, kown, kwr⟩ := k
  rw [h.cur] at kothers kgroups kcore
  exact ⟨kcur.trans h.cur, kmem.trans h.mem, kext.trans h.extPend, fun c hc => (kothers c hc).trans (h.others c hc),
    fun g hg => (kgroups g hg).trans (h.groups g hg), kcore.trans h.core, kissuing, kown.trans h.own, kwr.trans (congrArg w' h.wr)⟩

theorem of_outer (hs : Machine.issuing s = true) (h : Outer s.cur.core s x) : Wrote id s x := by
  have hgroup : curGroup x = curGroup s := by
    unfold curGroup
    rw [h.cur, h.groupAt]
  refine ⟨h.cur, h.mem, h.extPend, h.others, fun g _ => h.groupAt g, congrArg Prod.snd h.core, ?_, congrArg kept hgroup,
    congrArg (fun g : Group => g.open_.wr) hgroup⟩
  unfold Machine.issuing at *
  rwa [h.cur, h.groupAt]

theorem modCur (hs : Machine.issuing s = true) {f : Group → Group} (hf : ∀ g, kept (f g) = kept g)
    (hw : ∀ g : Group, (f g).open_.wr = w g.open_.wr) : Wrote w s (modCur s f) := by
  have hown := OwnGroup.modCur s f
  have hgroup := curGroup_modCur f hs
  refine ⟨hown.cur, hown.mem, hown.extPend, hown.others, hown.groups, ?_, hown.issuing.trans hs, ?_, ?_⟩
  · exact standing_of_bare hown.core
  · rw [hgroup, hf]
  · rw [hgroup, hw]

end Wrote

/-! ### Checks of a store's addresses (R234) -/

theorem exists_of_bind_ok {α β : Type} {m : M α} {f : α → M β} {s t : State} {b : β} (h : (m >>= f) s = .ok (b, t)) :
    ∃ a x, m s = .ok (a, x) ∧ f a x = .ok (b, t) := by
  rw [bind_run] at h
  cases hm : m s with
  | ok r => rw [hm] at h; exact ⟨r.1, r.2, rfl, h⟩
  | error e => rw [hm] at h; exact absurd h nofun

/-- Where it completes, the computation is a step of the issuing core outside its groups. -/
structure Outside {α : Type} (m : M α) : Prop where
  outer : ∀ {s t : State} {a : α}, m s = .ok (a, t) → Outer s.cur.core s t

namespace Outside

variable {α β : Type}

theorem bind {m : M α} {f : α → M β} (hm : Outside m) (hf : ∀ a, Outside (f a)) : Outside (m >>= f) := ⟨fun h => by
  obtain ⟨a, x, hx, ht⟩ := exists_of_bind_ok h
  have hfirst := hm.outer hx
  have hthen := (hf a).outer ht
  rw [hfirst.cur] at hthen
  exact hfirst.trans hthen⟩

theorem of_state {m : M α} (h : ∀ s t a, m s = .ok (a, t) → t = s) : Outside m := ⟨fun hm => by
  rw [h _ _ _ hm]
  exact .refl _ _⟩

theorem pure (a : α) : Outside (Pure.pure a : M α) := of_state fun _ _ _ h => by injection h with h; injection h with _ h; exact h.symm

theorem getS (f : State → α) : Outside (getS f) := of_state fun _ _ _ h => by injection h with h; injection h with _ h; exact h.symm

theorem faultM (f : FaultInfo) : Outside (faultM f : M α) := ⟨fun h => absurd h nofun⟩

theorem ite {b : Prop} [Decidable b] {m n : M α} (hm : Outside m) (hn : Outside n) : Outside (if b then m else n) := by
  split
  · exact hm
  · exact hn

end Outside

theorem outside_groupPages (lane : Nat) (ps : List (Dword × Nat)) (acc : Access) (mmioOk : Bool) : Outside (groupPages lane ps acc mmioOk) :=
  ⟨fun {s t a} h => by
    have hpieces := outer_xlatePieces acc ps s
    unfold groupPages at h
    dsimp only at h
    split at h
    · injection h with h
      injection h with _ h
      exact h ▸ hpieces
    all_goals exact absurd h nofun⟩

theorem outside_acquireHost (pas : List Nat) : Outside (acquireHost pas) := ⟨fun {s t a} h => by
  unfold acquireHost at h
  dsimp only at h
  split at h
  · injection h with h
    injection h with _ h
    exact h ▸ .refl _ s
  · injection h with h
    injection h with _ h
    subst h
    split
    · exact outer_takeFree _ s
    · exact .of_cores rfl rfl rfl rfl⟩

/-- The checks of a store end before those of poison (R240). -/
theorem outside_checkPieces {f : Form} (hwr : f.wr = true) (hatomic : f.atomic = false) (lane : Nat) (ps : List (Dword × Nat)) :
    Outside (checkPieces f lane ps) := by
  unfold checkPieces
  dsimp only
  refine .ite (.faultM _) (.bind (outside_groupPages ..) fun xs => .bind (outside_acquireHost _) fun _ => .bind (.getS _) fun held =>
    .bind (.getS _) fun bad => .ite (.faultM _) ?_)
  cases bad with
  | some a => exact .faultM _
  | none =>
    refine .bind (.getS _) fun g => .ite (.faultM _) ?_
    rw [hwr, hatomic]
    exact .bind (.pure ()) fun _ => .pure _

/-- The checked access of one thread of a store: every byte is one of global memory. -/
theorem checkGlobal_store {f : Form} (hwr : f.wr = true) (hatomic : f.atomic = false) {ea : Nat → Dword} {ex : List Nat} {s t : State}
    {cs : List Chk} (h : checkGlobal f ex ea s = .ok (cs, t)) : Outer s.cur.core s t ∧ ∀ c ∈ cs, ∃ pas : List Nat, c.locs = pas.map .glob := by
  unfold checkGlobal at h
  induction ex generalizing s cs with
  | nil =>
    injection h with h
    injection h with hcs ht
    subst hcs ht
    exact ⟨.refl _ s, fun c hc => absurd hc List.not_mem_nil⟩
  | cons lane ex ih =>
    rw [List.mapM_cons] at h
    obtain ⟨c, x, hc, h⟩ := exists_of_bind_ok h
    obtain ⟨⟨pas, mmio⟩, y, hy, hc⟩ := exists_of_bind_ok hc
    obtain ⟨cs', z, hz, h⟩ := exists_of_bind_ok h
    injection hc with hc
    injection hc with hc hx
    injection h with h
    injection h with hcs ht
    subst hc hx hcs ht
    obtain ⟨⟨pss, m⟩, y', hy', hy⟩ := exists_of_bind_ok hy
    injection hy with hy
    injection hy with _ hy
    subst hy
    have hfirst := (outside_checkPieces hwr hatomic lane _).outer hy'
    obtain ⟨hrest, hlocs⟩ := ih hz
    rw [hfirst.cur] at hrest
    refine ⟨hfirst.trans hrest, fun c hc => ?_⟩
    rcases List.mem_cons.1 hc with rfl | hc
    · exact ⟨pas, rfl⟩
    · exact hlocs c hc

/-! ### The performing pass of a store (R215, R217, R235) -/

/-- Where it completes, the computation changes the open chunk's bytes by `w`. -/
structure Writes {α : Type} (w : Sparse (Option Byte) → Sparse (Option Byte)) (m : M α) : Prop where
  wrote : ∀ {s t : State} {a : α}, issuing s = true → m s = .ok (a, t) → Wrote w s t

namespace Writes

variable {α β : Type} {w w' : Sparse (Option Byte) → Sparse (Option Byte)}

theorem bind {m : M α} {f : α → M β} (hm : Writes w m) (hf : ∀ a, Writes w' (f a)) : Writes (w' ∘ w) (m >>= f) := ⟨fun hs h => by
  obtain ⟨a, x, hx, ht⟩ := exists_of_bind_ok h
  have hfirst := hm.wrote hs hx
  exact hfirst.trans ((hf a).wrote hfirst.issuing ht)⟩

theorem of_outside {m : M α} (h : Outside m) : Writes id m := ⟨fun hs hm => .of_outer hs (h.outer hm)⟩

theorem modK {f : Chunk → Chunk} (hf : ∀ k, (f k).wr = w k.wr) : Writes w (modK f) := ⟨fun {s t a} hs h => by
  injection h with h
  injection h with _ h
  exact h ▸ .modCur hs (fun _ => rfl) fun _ => hf _⟩

end Writes

theorem outside_guardChange (vlines : List Nat) : Outside (guardChange vlines) := .of_state fun s t a h => by
  unfold guardChange at h
  dsimp only at h
  split at h
  · exact absurd h nofun
  split at h
  · exact absurd h nofun
  · injection h with h
    injection h with _ h
    exact h.symm

theorem writes_enterWrites (keys gl st : List Nat) : Writes id (enterWrites keys gl st) := ⟨fun {s t a} hs h => by
  unfold enterWrites at h
  dsimp only at h
  split at h
  · exact absurd h nofun
  split at h
  · exact absurd h nofun
  split at h
  · exact absurd h nofun
  split at h
  · exact absurd h nofun
  · injection h with h
    injection h with _ h
    subst h
    have hlines := Wrote.of_outer hs (outer_touchAll s gl st)
    refine Wrote.trans (w' := id) hlines (.modCur hlines.issuing ?_ ?_) <;> exact fun _ => rfl⟩

/-- The bytes of global memory among those that a store puts. -/
def globalBytes (kvs : List (Loc × Byte)) : List (Nat × Byte) :=
  kvs.filterMap (fun e => match e.1 with | .glob a => some (a, e.2) | .scr _ _ => none)

theorem writes_writeLocs (kvs : List (Loc × Byte)) (st : List Nat) : Writes (putBytes (globalBytes kvs)) (writeLocs kvs st) := by
  unfold writeLocs
  refine Writes.bind (w := id) (w' := putBytes (globalBytes kvs)) (writes_enterWrites ..) fun _ =>
    Writes.bind (w := putBytes (globalBytes kvs)) (w' := id) (.modK fun _ => rfl) fun _ => .modK fun _ => rfl

theorem globsOf_glob (pas : List Nat) : globsOf (pas.map .glob) = pas := by
  unfold globsOf
  rw [List.filterMap_map]
  exact List.filterMap_some

/-- Where every byte is one of global memory, a store buffers the bytes that it puts. -/
theorem writes_performWrites {cs : List Chk} (hcs : ∀ c ∈ cs, ∃ pas : List Nat, c.locs = pas.map .glob) (n : Nat) (v : Nat → Nat) (rel : Bool) :
    Writes (putBytes (storedBytes cs n v)) (performWrites cs n v rel) := by
  have hbytes : globalBytes (cs.flatMap (fun c => c.locs.zip (bytesOf n (v c.lane)))) = storedBytes cs n v := by
    unfold globalBytes storedBytes
    rw [List.filterMap_flatMap]
    refine List.flatMap_congr fun c hc => ?_
    obtain ⟨pas, hpas⟩ := hcs c hc
    rw [hpas, List.zip_map_left, globsOf_glob, List.filterMap_map]
    exact List.filterMap_some
  rw [← hbytes]
  unfold performWrites
  refine (Writes.of_outside (outside_guardChange _)).bind fun _ => (Writes.of_outside (.getS _)).bind fun k =>
    (writes_writeLocs _ _).bind (w' := id) fun _ => ?_
  dsimp only
  split
  · exact .of_outside (.pure ())
  · exact .modK fun _ => rfl

/-- A store of which no thread's access is an MMIO one is its performing pass. -/
theorem storeGlobal_run {n : Nat} {ex : List Nat} {ea : Nat → Dword} {v : Nat → Nat} {s s2 t : State} {cs : List Chk}
    (hcheck : checkGlobal { n := n, wr := true, mmioOk := n == 4 || n == 8 } ex ea s = .ok (cs, s2)) (hmem : ∀ c ∈ cs, c.mmio = false)
    (h : storeGlobal n ex ea v s = .ok ((), t)) : performWrites cs n v false s2 = .ok ((), t) := by
  have hany : cs.any (·.mmio) = false := by simpa using hmem
  have hfilter : cs.filter (·.mmio) = [] := by simpa using hmem
  have hall : cs.filter (fun c => !c.mmio) = cs := by simpa using hmem
  unfold storeGlobal at h
  rw [bind_ok hcheck] at h
  unfold mmioFrame at h
  rw [hany, hfilter, hall] at h
  obtain ⟨a, x, hx, h⟩ := exists_of_bind_ok h
  injection hx with hx
  injection hx with _ hx
  subst hx
  obtain ⟨b, y, hy, h⟩ := exists_of_bind_ok h
  injection h with h
  injection h with _ h
  exact h ▸ hy

/-! ### The store forms -/

theorem globalAddr_run {y : State} {a b : Code} {ex : List Nat} (ha : okPair y a = true) (hb : okSrc y b = true) (hex : ex ≠ []) :
    globalAddr a b ex y = .ok (globalAt y y a b, srcStep y ex b) := by
  unfold globalAddr
  rw [bind_ok (readPair_run _ _ (okPair_code ha)), bind_ok (readSrc_of_executing (okSrc_plain hb) hex)]
  rfl

/-- Where no thread executes, a form has no address. -/
theorem globalAddr_idle {y : State} {a b : Code} (ha : okPair y a = true) (hb : okSrc y b = true) :
    ∃ f, globalAddr a b [] y = .ok (f, srcStep y [] b) := by
  obtain ⟨off, hoff, -⟩ := readSrc_plain (s := y) [] (okSrc_plain hb)
  unfold globalAddr
  rw [bind_ok (readPair_run _ _ (okPair_code ha)), bind_ok hoff]
  exact ⟨_, rfl⟩

theorem storeGlobal_idle (n : Nat) (ea ea' : Nat → Dword) (v v' : Nat → Nat) : storeGlobal n [] ea v = storeGlobal n [] ea' v' := by
  have hperform : performWrites [] n v = performWrites [] n v' := by
    unfold performWrites
    simp only [List.flatMap_nil]
  unfold storeGlobal checkGlobal
  rw [List.mapM_nil, List.mapM_nil, pure_bind, pure_bind]
  simp only [List.filter_nil, hperform, List.forM_eq_forM, List.forM_nil]

/-- A store of a 32-bit register's low bytes reads its address and its value, and then stores (R244). -/
theorem stgM_run {s : State} {p : Option Pfx} {d a b : Code} (n : Nat) (h : issuing s = true) (ha : okPair s a = true) (hb : okSrc s b = true)
    (hd : okSrc s d = true) :
    stgM p d a b n (entered (unitLen p) s) = storeGlobal n (execs s p) (globalAt (entered (unitLen p) s) (entered (unitLen p) s) a b)
      (fun t => (srcVal (srcStep (entered (unitLen p) s) (execs s p) b) d t).toNat)
      (srcStep (srcStep (entered (unitLen p) s) (execs s p) b) (execs s p) d) := by
  rw [← okPair_entered (unitLen p) h] at ha
  rw [← okSrc_entered (unitLen p) h] at hb hd
  unfold stgM
  rw [bind_ok (checkOps_ok _ _ (by
      simp only [List.mem_cons, List.not_mem_nil, or_false, forall_eq_or_imp, forall_eq]
      exact ⟨opnd_src hd, opnd_pair ha, opnd_src hb⟩)),
    bind_ok (execLanes_entered _ h p)]
  by_cases hex : execs s p = []
  · rw [hex]
    obtain ⟨f, hf⟩ := globalAddr_idle ha hb
    obtain ⟨v, hv, -⟩ := readSrc_plain (s := srcStep (entered (unitLen p) s) [] b) [] (okSrc_plain hd)
    rw [bind_ok hf, bind_ok hv]
    exact congrFun (storeGlobal_idle n _ _ _ _) _
  · rw [bind_ok (globalAddr_run ha hb hex), bind_ok (readSrc_of_executing (okSrc_plain hd) hex)]

theorem stores32_shared (p : Option Pfx) (d a b : Code) (s : State) : ∀ e ∈ stores32, exec (e.1 p d a b) s = issueP p (stgM p d a b e.2) s := by
  simp only [stores32, List.mem_cons, List.not_mem_nil, or_false, forall_eq_or_imp, forall_eq]
  exact ⟨rfl, rfl, rfl⟩

theorem regStep_srcSteps (n : Nat) {s : State} (h : issuing s = true) (ex : List Nat) (b d : Code) :
    RegStep (fun _ => false) (fun _ => false) (entered n s) (srcStep (srcStep (entered n s) ex b) ex d) :=
  srcSteps_regStep (issuing_entered n h) ex [b, d]

/-- Settles O20: the store buffers its bytes in the open chunk, which goes on, and changes nothing else that the statement names. -/
theorem globalStoreFrame : Obligations.GlobalStoreFrame := by
  intro s t s2 s3 p d a b cs h ha hb hd s0 ex s1 ea e he hcheck hmem hstore hgoes hexec
  have hsrc : RegStep (fun _ => false) (fun _ => false) s0 (srcStep s1 ex d) := regStep_srcSteps _ h ex b d
  have hown : OwnGroup s (srcStep s1 ex d) := (OwnGroup.entered _ s).trans hsrc.own
  have hcur := hown.cur
  obtain ⟨hout, hlocs⟩ := checkGlobal_store rfl rfl hcheck
  have hchecked := Wrote.of_outer (hown.issuing.trans h) hout
  have hwrote := hchecked.trans ((writes_performWrites hlocs e.2 _ false).wrote hchecked.issuing (storeGlobal_run hcheck hmem hstore))
  obtain ⟨hr, hdone, hreplay⟩ : (curGroup s3).r = _ ∧ (curGroup s3).done = _ ∧ (curGroup s3).replay = _ := by
    have hkept := hwrote.own
    simpa only [kept, Prod.mk.injEq] using hkept
  have hfin : finish s s3 = counted s3 := by
    obtain ⟨-, -, -, -, -, hnone, -⟩ := id hgoes
    rw [finish_of_no_replay s3 ?_, retire_goesOn hgoes]
    rw [← entered_replay (unitLen p) h, ← hsrc.field (·.replay) fun _ _ => rfl, ← hreplay, hnone]
  obtain rfl : counted s3 = t := by
    rw [stores32_shared p d a b s e he, issueP_ok h ((stgM_run e.2 h ha hb hd).trans hstore), hfin] at hexec
    injection hexec
  have hcur3 : s3.cur = s.cur := hwrote.cur.trans hcur
  have hx := hwrote.issuing
  have hothers := hwrote.others
  have hgroups := hwrote.groups
  have hcore := hwrote.core
  rw [hcur] at hothers hgroups hcore
  have hstanding : (standing (coreAt (counted s3) s.cur.core)).2 = (standing (coreAt s s.cur.core)).2 := by
    rw [← hcur3, standing_of_bare (bare_counted s3), hcur3, hcore, standing_of_bare hown.core]
  refine ⟨fun x => ?_, fun x => ?_, ?_, fun c hc => ?_, fun g hg => ?_, ?_⟩
  · rw [viewByte_counted hx]
    refine (viewByte_buffered _ hwrote.wr hdone hwrote.mem hwrote.extPend x).trans ?_
    exact congrArg _ (hsrc.seen x)
  · unfold memByte
    rw [counted_mem, hwrote.mem, hown.mem]
  · rw [curGroup_counted hx]
    show regsExcept (curGroup s).r (curGroup s3).r _ _
    rw [hr]
    exact regsExcept_trans (regsExcept_entered _ h _ _) hsrc.regs
  · rw [coreAt_counted_ne s3 (by rwa [hcur3]), hothers c hc, hown.others c hc]
  · rw [← hcur3, counted_groups_r s3 (by rwa [hcur3]), hcur3, hgroups g hg, hown.groups g hg]
  · simpa only [standing, Prod.mk.injEq] using hstanding

end Sys2Proof.Proofs

/-! # The integer forms (R104 to R122, R143)

Every integer form is a shared one (`alu0` to `alu64`) with the result of its table, which is the model's by the equation of its operation
below. -/

namespace Sys2Proof.Proofs

open Sys2Proof Sys2Proof.Machine Sys2Proof.Laws Sys2Proof.Claims

/-! ### Exact results, wrapped or clamped (R104, R107 to R109, R118) -/

theorem intN32_eq_clampN (sat : Bool) (v : Int) : intN32 sat v = clampN sat v := by
  have hclamp : clampInt 0 4294967295 v = nearest 0 (2 ^ 32 - 1) v := by
    unfold clampInt nearest; omega
  unfold intN32 clampN wrap32
  rw [hclamp, apply_ite (BitVec.ofInt 32)]

theorem intI64_eq_clampI64 (sat : Bool) (v : Int) : intI64 sat v = clampI64 sat v := by
  have hclamp : clampInt (-9223372036854775808) 9223372036854775807 v = nearest (-2 ^ 63) (2 ^ 63 - 1) v := by
    unfold clampInt nearest; omega
  unfold intI64 clampI64
  rw [hclamp, apply_ite (BitVec.ofInt 64)]

theorem intI32_natAbs (sat : Bool) (x : Word) : intI32 sat (x.toInt.natAbs : Int) = clampI sat |x.toInt| := by
  rw [intI32_eq_clampI, Int.natCast_natAbs]

theorem hiWord_ofInt (v : Int) : hiWord (BitVec.ofInt 64 v) = wrap32 (v / 2 ^ 32) := by
  apply BitVec.eq_of_toNat_eq
  simp only [hiWord, wrap32, BitVec.extractLsb'_toNat, BitVec.toNat_ofInt, Nat.shiftRight_eq_div_pow]
  omega

theorem hiWord_ofNat (v : Nat) : hiWord (BitVec.ofNat 64 v) = BitVec.ofNat 32 (v / 2 ^ 32) := by
  apply BitVec.eq_of_toNat_eq
  simp only [hiWord, BitVec.extractLsb'_toNat, BitVec.toNat_ofNat, Nat.shiftRight_eq_div_pow]
  omega

/-- A difference of unsigned values can only fall below the range (R108). -/
theorem clampN_sub (x y : Word) : clampN true ((x.toNat : Int) - y.toNat) = if y.toNat ≤ x.toNat then x - y else 0 := by
  have hx := x.isLt
  have hy := y.isLt
  unfold clampN nearest wrap32
  rw [if_pos rfl]
  split
  · rw [show max 0 (min (2 ^ 32 - 1) ((x.toNat : Int) - y.toNat)) = ((x.toNat - y.toNat : Nat) : Int) by omega, BitVec.ofInt_natCast]
    apply BitVec.eq_of_toNat_eq
    rw [BitVec.toNat_ofNat, BitVec.toNat_sub_of_le (BitVec.le_def.2 ‹_›)]
    omega
  · rw [show max 0 (min (2 ^ 32 - 1) ((x.toNat : Int) - y.toNat)) = 0 by omega]
    rfl

/-! ### The lesser and the greater (R108) -/

theorem lesserI_eq (x y : Word) : (if x.toInt ≤ y.toInt then x else y) = wrap32 (min x.toInt y.toInt) := by
  rw [wrap32, min_def, apply_ite (BitVec.ofInt 32), BitVec.ofInt_toInt, BitVec.ofInt_toInt]

theorem greaterI_eq (x y : Word) : (if y.toInt ≤ x.toInt then x else y) = wrap32 (max x.toInt y.toInt) := by
  rw [wrap32, max_comm, max_def, apply_ite (BitVec.ofInt 32), BitVec.ofInt_toInt, BitVec.ofInt_toInt]

theorem lesserN_eq (x y : Word) : (if x.toNat ≤ y.toNat then x else y) = BitVec.ofNat 32 (min x.toNat y.toNat) := by
  rw [min_def, apply_ite (BitVec.ofNat 32), BitVec.ofNat_toNat, BitVec.ofNat_toNat, BitVec.setWidth_eq, BitVec.setWidth_eq]

theorem greaterN_eq (x y : Word) : (if y.toNat ≤ x.toNat then x else y) = BitVec.ofNat 32 (max x.toNat y.toNat) := by
  rw [max_comm, max_def, apply_ite (BitVec.ofNat 32), BitVec.ofNat_toNat, BitVec.ofNat_toNat, BitVec.setWidth_eq, BitVec.setWidth_eq]

/-! ### Shifts by any count (R111, R120) -/

theorem shlW_eq (x : Word) (n : Nat) : shlW x n = x <<< n := by
  unfold shlW
  split
  · rfl
  · exact (BitVec.shiftLeft_eq_zero (by omega)).symm

theorem shrNW_eq (x : Word) (n : Nat) : shrNW x n = x >>> n := by
  unfold shrNW
  split
  · rfl
  · exact (BitVec.ushiftRight_eq_zero (by omega)).symm

theorem shrIW_eq_sshiftRight (x : Word) (n : Nat) : shrIW x n = x.sshiftRight n := by
  unfold shrIW
  split
  · rfl
  · have hout : ∀ i, ¬ n + i < 32 := by omega
    refine BitVec.eq_of_getLsbD_eq fun i hi => ?_
    rw [BitVec.getLsbD_sshiftRight, if_neg (hout i), show (0xFFFFFFFF : Word) = BitVec.allOnes 32 from rfl,
      apply_ite (BitVec.getLsbD · i), BitVec.getLsbD_allOnes]
    cases x.msb <;> simp [hi]

theorem shlW_eq_mul (x : Word) (n : Nat) : shlW x n = wrap32 (x.toInt * 2 ^ n) := by
  have hpow : BitVec.ofInt 32 (2 ^ n) = BitVec.twoPow 32 n := by
    apply BitVec.eq_of_toNat_eq
    rw [BitVec.toNat_twoPow, ← BitVec.toNat_ofNat, ← BitVec.ofInt_natCast, Nat.cast_pow, Nat.cast_ofNat]
  rw [shlW_eq, wrap32, BitVec.ofInt_mul, BitVec.ofInt_toInt, hpow, BitVec.shiftLeft_eq_mul_twoPow]

theorem shrNW_eq_div (x : Word) (n : Nat) : shrNW x n = BitVec.ofNat 32 (x.toNat / 2 ^ n) := by
  apply BitVec.eq_of_toNat_eq
  rw [shrNW_eq, BitVec.toNat_ushiftRight, Nat.shiftRight_eq_div_pow, BitVec.toNat_ofNat,
    Nat.mod_eq_of_lt (lt_of_le_of_lt (Nat.div_le_self ..) x.isLt)]

theorem shrIW_eq_div (x : Word) (n : Nat) : shrIW x n = wrap32 (x.toInt / 2 ^ n) := by
  rw [shrIW_eq_sshiftRight, BitVec.sshiftRight, Int.shiftRight_eq_div_pow, Nat.cast_pow, Nat.cast_ofNat, wrap32]

/-! ### Bits (R112 to R114) -/

theorem onesBelow_eq_length_filter (n v : Nat) : onesBelow n v = ((List.range n).filter (fun i => v.testBit i)).length := by
  induction n generalizing v with
  | zero => rfl
  | succ n ih =>
    rw [onesBelow, ih, List.range_succ_eq_map, List.filter_cons, List.filter_map, Nat.testBit_zero]
    simp only [Function.comp_def, Nat.testBit_succ, decide_eq_true_eq]
    split <;> simp <;> omega

theorem popBits_eq_length_filter (x : Word) : popBits x = ((List.range 32).filter (fun i => x.getLsbD i)).length :=
  onesBelow_eq_length_filter 32 x.toNat

theorem length_filter_lt_range (k n : Nat) : ((List.range n).filter (fun i => decide (k < i))).length = n - (k + 1) := by
  induction n with
  | zero => simp
  | succ n ih =>
    rw [List.range_succ, List.filter_append, List.length_append, ih, List.filter_singleton]
    grind

theorem clzW_eq_length_filter (x : Word) : clzW x = ((List.range 32).filter (fun i => decide (x.toNat < 2 ^ i))).length := by
  unfold clzW
  split
  · subst ‹x = 0›
    simp
  · have hne : x.toNat ≠ 0 := fun h => ‹x ≠ 0› (BitVec.eq_of_toNat_eq h)
    simp only [← Nat.log2_lt hne, length_filter_lt_range]
    omega

theorem brevBits_lt (n v : Nat) : brevBits n v < 2 ^ n := by
  induction n generalizing v with
  | zero => exact Nat.one_pos
  | succ n ih =>
    have hrest := ih (v / 2)
    have hbit : v % 2 * 2 ^ n ≤ 1 * 2 ^ n := Nat.mul_le_mul_right _ (by omega)
    rw [brevBits, pow_succ]
    omega

theorem testBit_brevBits (n v i : Nat) : (brevBits n v).testBit i = (decide (i < n) && v.testBit (n - 1 - i)) := by
  induction n generalizing v i with
  | zero => simp [brevBits]
  | succ n ih =>
    rw [brevBits, mul_comm, Nat.testBit_two_pow_mul_add _ (brevBits_lt n _), ih, ← Nat.testBit_succ]
    rcases lt_trichotomy i n with hlt | rfl | hgt
    · rw [if_pos hlt, show (n - 1 - i).succ = n + 1 - 1 - i by omega, decide_eq_true hlt, decide_eq_true (by omega)]
    · simp
    · rw [if_neg (by omega), decide_eq_false (by omega), Bool.false_and]
      exact Nat.testBit_lt_two_pow (lt_of_lt_of_le (Nat.mod_lt v two_pos) (Nat.le_self_pow (by omega) 2))

theorem brevBits_eq_wordOf (x : Word) : BitVec.ofNat 32 (brevBits 32 x.toNat) = wordOf (fun i => x.getLsbD (31 - i)) := by
  refine BitVec.eq_of_getLsbD_eq fun i hi => ?_
  rw [BitVec.getLsbD_ofNat, getLsbD_wordOf, testBit_brevBits, ← Bool.and_assoc, Bool.and_self]
  rfl

/-- The field that the model takes is that of R113. -/
theorem bitField_eq (y : Word) : bitField y =
    if (y.extractLsb' 8 8).toNat = 0 ∨ 32 ≤ (y.extractLsb' 0 8).toNat then none
    else some ((y.extractLsb' 0 8).toNat, min (y.extractLsb' 8 8).toNat (32 - (y.extractLsb' 0 8).toNat)) := by
  simp only [bitField, BitVec.extractLsb'_toNat, Nat.shiftRight_eq_div_pow, pow_zero, Nat.div_one]

/-- A field of some bits, sign-extended where its top bit is 1. -/
theorem signExtend_field {w : Nat} (hw : 0 < w) (v : Nat) : (BitVec.ofNat w v).signExtend 32 =
    if 2 ^ (w - 1) ≤ v % 2 ^ w then BitVec.ofInt 32 (((v % 2 ^ w : Nat) : Int) - 2 ^ w) else BitVec.ofNat 32 (v % 2 ^ w) := by
  have hpow : 2 ^ w = 2 * 2 ^ (w - 1) := by rw [← pow_succ', Nat.sub_add_cancel hw]
  rw [BitVec.signExtend, BitVec.toInt_eq_toNat_cond, BitVec.toNat_ofNat, Nat.cast_pow, Nat.cast_ofNat]
  by_cases htop : 2 ^ (w - 1) ≤ v % 2 ^ w
  · rw [if_neg (by omega), if_pos htop]
  · rw [if_pos (by omega), if_neg htop, BitVec.ofInt_natCast]

theorem bfxW_eq_bfxOf (sgn : Bool) (x y : Word) : bfxW sgn x y = bfxOf sgn x y := by
  simp only [bfxW, bfxOf, bitField_eq]
  by_cases h : (y.extractLsb' 8 8).toNat = 0 ∨ 32 ≤ (y.extractLsb' 0 8).toNat
  · rw [if_pos h, if_pos h]
  · rw [if_neg h, if_neg h]
    have hw : 0 < min (y.extractLsb' 8 8).toNat (32 - (y.extractLsb' 0 8).toNat) := by omega
    dsimp only
    rw [signExtend_field hw, ← BitVec.ofNat_toNat, BitVec.toNat_ofNat]
    cases sgn <;> simp

theorem getLsbD_fieldMask (pos w i : Nat) :
    (BitVec.ofNat 32 ((2 ^ w - 1) * 2 ^ pos)).getLsbD i = (decide (i < 32) && decide (pos ≤ i ∧ i < pos + w)) := by
  rw [BitVec.getLsbD_ofNat, Nat.testBit_mul_two_pow, Nat.testBit_two_pow_sub_one]
  grind

theorem bfiW_eq_bfiOf (x y z : Word) : bfiW x y z = bfiOf x y z := by
  simp only [bfiW, bfiOf, bitField_eq]
  by_cases h : (y.extractLsb' 8 8).toNat = 0 ∨ 32 ≤ (y.extractLsb' 0 8).toNat
  · rw [if_pos h, if_pos h]
  · rw [if_neg h, if_neg h]
    refine BitVec.eq_of_getLsbD_eq fun i hi => ?_
    rw [getLsbD_wordOf, BitVec.getLsbD_or, BitVec.getLsbD_and, BitVec.getLsbD_and, BitVec.getLsbD_not, getLsbD_fieldMask,
      BitVec.getLsbD_shiftLeft]
    grind

/-! ### Comparisons (R116, R120) -/

theorem boolW_decide (q : Prop) [Decidable q] : boolW (decide q) = flag q := by
  simp only [boolW, flag, decide_eq_true_eq]

theorem boolW_eq (x y : Word) : boolW (x == y) = flag (x = y) := boolW_decide _

theorem boolW_ne (x y : Word) : boolW (x != y) = flag (x ≠ y) := by
  simp only [boolW, flag, bne_iff_ne]

/-! ### Sums over the elements of words (R109, R143) -/

theorem foldl_range_eq_sumOver (n : Nat) (f : Nat → Int) : (List.range n).foldl (fun s i => s + f i) 0 = sumOver n f := by
  rw [sumOver, List.sum_eq_foldl, List.foldl_map]

theorem sadBytes_eq (x y : Word) : sadBytes x y = sumOver 4 (fun i => |((byteOf x i).toNat : Int) - (byteOf y i).toNat|) := by
  simp only [sadBytes, List.foldl_map, foldl_range_eq_sumOver, Int.natCast_natAbs]
  rfl

theorem dotI_eq (n w : Nat) (x y : Word) :
    dotI n w x y = sumOver n (fun i => (x.extractLsb' (w * i) w).toInt * (y.extractLsb' (w * i) w).toInt) :=
  foldl_range_eq_sumOver n _

theorem dotN_eq (x y : Word) : dotN 4 8 x y = sumOver 4 (fun i => ((byteOf x i).toNat : Int) * (byteOf y i).toNat) := by
  simp only [dotN, foldl_range_eq_sumOver, Nat.cast_mul]
  rfl

/-! ### The forms as uses of the shared ones -/

/-- Each form of two sources is the shared form with the result of R107 to R117. -/
theorem intTwo_shared (p : Option Pfx) : ∀ e ∈ intTwo (satBit p),
    ∃ f, (∀ d a b s, exec (e.1 p d a b) s = issueP p (alu2 p d a b f) s) ∧ ∀ x y, f x y = e.2 x y := by
  simp only [intTwo, List.cons_append, List.nil_append, List.mem_cons, List.not_mem_nil, or_false, forall_eq_or_imp, forall_eq]
  exact ⟨⟨_, fun _ _ _ _ => rfl, fun _ _ => intI32_eq_clampI ..⟩,
    ⟨_, fun _ _ _ _ => rfl, fun _ _ => intI32_eq_clampI ..⟩,
    ⟨_, fun _ _ _ _ => rfl, fun _ _ => intI32_eq_clampI ..⟩,
    ⟨_, fun _ _ _ _ => rfl, fun _ _ => hiWord_ofInt _⟩,
    ⟨_, fun _ _ _ _ => rfl, fun _ _ => hiWord_ofNat _⟩,
    ⟨_, fun _ _ _ _ => rfl, fun _ _ => intI32_eq_clampI ..⟩,
    ⟨_, fun _ _ _ _ => rfl, fun _ _ => intN32_eq_clampN ..⟩,
    ⟨_, fun _ _ _ _ => rfl, fun _ _ => intI32_eq_clampI ..⟩,
    ⟨_, fun _ _ _ _ => rfl, fun x y => by rw [intN32_eq_clampN, clampN_sub]⟩,
    ⟨_, fun _ _ _ _ => rfl, lesserI_eq⟩,
    ⟨_, fun _ _ _ _ => rfl, lesserN_eq⟩,
    ⟨_, fun _ _ _ _ => rfl, greaterI_eq⟩,
    ⟨_, fun _ _ _ _ => rfl, greaterN_eq⟩,
    ⟨_, fun _ _ _ _ => rfl, fun _ _ => rfl⟩,
    ⟨_, fun _ _ _ _ => rfl, fun _ _ => rfl⟩,
    ⟨_, fun _ _ _ _ => rfl, fun _ _ => rfl⟩,
    ⟨_, fun _ _ _ _ => rfl, fun _ _ => rfl⟩,
    ⟨_, fun _ _ _ _ => rfl, fun _ _ => rfl⟩,
    ⟨_, fun _ _ _ _ => rfl, fun x y => shlW_eq x y.toNat⟩,
    ⟨_, fun _ _ _ _ => rfl, fun x y => shrNW_eq x y.toNat⟩,
    ⟨_, fun _ _ _ _ => rfl, fun x y => shrIW_eq_div x y.toNat⟩,
    ⟨_, fun _ _ _ _ => rfl, fun _ _ => BitVec.rotateLeft_mod_eq_rotateLeft⟩,
    ⟨_, fun _ _ _ _ => rfl, bfxW_eq_bfxOf true⟩,
    ⟨_, fun _ _ _ _ => rfl, bfxW_eq_bfxOf false⟩,
    ⟨_, fun _ _ _ _ => rfl, boolW_eq⟩,
    ⟨_, fun _ _ _ _ => rfl, boolW_ne⟩,
    ⟨_, fun _ _ _ _ => rfl, fun _ _ => boolW_decide _⟩,
    ⟨_, fun _ _ _ _ => rfl, fun _ _ => boolW_decide _⟩,
    ⟨_, fun _ _ _ _ => rfl, fun _ _ => boolW_decide _⟩,
    ⟨_, fun _ _ _ _ => rfl, fun _ _ => boolW_decide _⟩⟩

/-- Each form of one source is the shared form with the result of R109, R112 or R119. -/
theorem intOne_shared (p : Option Pfx) : ∀ e ∈ intOne (satBit p),
    ∃ f, (∀ d a s, exec (e.1 p d a) s = issueP p (alu1 p d a f) s) ∧ ∀ x, f x = e.2 x := by
  simp only [intOne, List.mem_cons, List.not_mem_nil, or_false, forall_eq_or_imp, forall_eq]
  exact ⟨⟨_, fun _ _ _ => rfl, intI32_natAbs _⟩,
    ⟨_, fun _ _ _ => rfl, fun x => congrArg _ (popBits_eq_length_filter x)⟩,
    ⟨_, fun _ _ _ => rfl, fun x => congrArg _ (clzW_eq_length_filter x)⟩,
    ⟨_, fun _ _ _ => rfl, brevBits_eq_wordOf⟩,
    ⟨_, fun _ _ _ => rfl, fun _ => rfl⟩⟩

/-- Each form with an immediate of 7 bits is the shared form with the result of R120. -/
theorem intImm7_shared (p : Option Pfx) (i : BitVec 7) : ∀ e ∈ intImm7 (satBit p),
    ∃ f, (∀ d a s, exec (e.1 p d a i) s = issueP p (alu1 p d a f) s) ∧ ∀ x, f x = e.2 i x := by
  simp only [intImm7, List.mem_cons, List.not_mem_nil, or_false, forall_eq_or_imp, forall_eq, BitVec.ofNat_toNat]
  exact ⟨⟨_, fun _ _ _ => rfl, fun _ => intI32_eq_clampI ..⟩,
    ⟨_, fun _ _ _ => rfl, fun _ => rfl⟩,
    ⟨_, fun _ _ _ => rfl, fun _ => rfl⟩,
    ⟨_, fun _ _ _ => rfl, fun _ => rfl⟩,
    ⟨_, fun _ _ _ => rfl, fun x => boolW_eq x _⟩,
    ⟨_, fun _ _ _ => rfl, fun _ => boolW_decide _⟩,
    ⟨_, fun _ _ _ => rfl, fun _ => boolW_decide _⟩⟩

/-- Each form with an immediate of 5 bits is the shared form with the result of R120. -/
theorem intImm5_shared (p : Option Pfx) (i : BitVec 5) : ∀ e ∈ intImm5,
    ∃ f, (∀ d a s, exec (e.1 p d a i) s = issueP p (alu1 p d a f) s) ∧ ∀ x, f x = e.2 i x := by
  simp only [intImm5, List.mem_cons, List.not_mem_nil, or_false, forall_eq_or_imp, forall_eq]
  exact ⟨⟨_, fun _ _ _ => rfl, fun x => shlW_eq_mul x _⟩,
    ⟨_, fun _ _ _ => rfl, fun x => shrNW_eq_div x _⟩,
    ⟨_, fun _ _ _ => rfl, fun x => shrIW_eq_div x _⟩⟩

/-- Each form of three sources is the shared form with the result of R107, R109, R114, R115, R117 or R143. -/
theorem intThree_shared (p : Option Pfx) : ∀ e ∈ intThree (satBit p),
    ∃ f, (∀ d a b s, exec (e.1 p d a b) s = issueP p (alu3 p d a b f) s) ∧ ∀ x y z, f x y z = e.2 x y z := by
  simp only [intThree, List.mem_cons, List.not_mem_nil, or_false, forall_eq_or_imp, forall_eq]
  exact ⟨⟨_, fun _ _ _ _ => rfl, fun _ _ _ => intI32_eq_clampI ..⟩,
    ⟨_, fun _ _ _ _ => rfl, fun x y z => by rw [intN32_eq_clampN, sadBytes_eq]⟩,
    ⟨_, fun _ _ _ _ => rfl, bfiW_eq_bfiOf⟩,
    ⟨_, fun _ _ _ _ => rfl, fun _ _ _ => rfl⟩,
    ⟨_, fun _ _ _ _ => rfl, fun _ _ _ => ite_not ..⟩,
    ⟨_, fun _ _ _ _ => rfl, fun x y z => by rw [intI32_eq_clampI, dotI_eq]; rfl⟩,
    ⟨_, fun _ _ _ _ => rfl, fun x y z => by rw [intN32_eq_clampN, dotN_eq]⟩,
    ⟨_, fun _ _ _ _ => rfl, fun x y z => by rw [intI32_eq_clampI, dotI_eq]; rfl⟩,
    ⟨_, fun _ _ _ _ => rfl, fun x y z => by rw [intN32_eq_clampN, dotN_eq]⟩,
    ⟨_, fun _ _ _ _ => rfl, fun x y z => by rw [intI32_eq_clampI, dotI_eq]⟩,
    ⟨_, fun _ _ _ _ => rfl, fun x y z => by rw [intI32_eq_clampI, dotI_eq]⟩⟩

/-! ### The shared forms complete -/

theorem okSrc_of_okDst {s : State} {c : Code} (h : okDst s c = true) : okSrc s c = true := by
  simp only [okDst, okSrc, plainDst, plainSrc, Bool.and_eq_true, Bool.or_eq_true, decide_eq_true_eq, beq_iff_eq] at h ⊢
  exact ⟨h.1.imp_right fun hz => by rw [hz]; decide, h.2⟩

theorem alu0_run {n : Nat} {s : State} {p : Option Pfx} {d : Code} (v : Word) (h : issuing s = true) (hd : okDst s d = true) :
    alu0 p d v (entered n s) = .ok ((), putWord (entered n s) d (execs s p) (zeroed s p) (fun _ => v)) := by
  unfold alu0
  rw [bind_ok (checkOps_ok _ _ (by
      simp only [List.mem_cons, List.not_mem_nil, or_false, forall_eq]
      exact opnd_dst (by simpa [h] using hd))),
    bind_ok (execLanes_entered _ h p), bind_ok (zeroLanes_entered _ h p), writeDst_plain _ _ _ (okDst_plain hd)]

section
variable {s : State} {p : Option Pfx} {d a b : Code} (h : issuing s = true)
include h

theorem alu1_completes {f g : Word → Word} (hd : okDst s d = true) (ha : okSrc s a = true) (hfg : ∀ x, f x = g x) :
    issueP p (alu1 p d a f) s = .next (finish s (did1 s p d a g)) := by
  obtain rfl : f = g := funext hfg
  exact issueP_ok h (alu1_run f h hd ha)

theorem alu2_completes {f g : Word → Word → Word} (hd : okDst s d = true) (ha : okSrc s a = true) (hb : okSrc s b = true)
    (hfg : ∀ x y, f x y = g x y) : issueP p (alu2 p d a b f) s = .next (finish s (did2 s p d a b g)) := by
  obtain rfl : f = g := funext₂ hfg
  exact issueP_ok h (alu2_run f h hd ha hb)

theorem alu3_completes {f g : Word → Word → Word → Word} (hd : okDst s d = true) (ha : okSrc s a = true) (hb : okSrc s b = true)
    (hc : okSrc s (third p d) = true) (hfg : ∀ x y z, f x y z = g x y z) :
    issueP p (alu3 p d a b f) s = .next (finish s (did3 s p d a b g)) := by
  obtain rfl : f = g := funext₃ hfg
  exact issueP_ok h (alu3_run f h hd ha hb hc)

theorem alu64_completes {f g : Dword → Dword → Dword} (hd : okPair s d = true) (ha : okPair s a = true) (hb : okPair s b = true)
    (hfg : ∀ x y, f x y = g x y) : issueP p (alu64 p d a b f) s = .next (finish s (did64 s p d a b g)) := by
  obtain rfl : f = g := funext₂ hfg
  exact issueP_ok h (alu64_run f h hd ha hb)

end

/-! ### The statement -/

/-- Settles O1: the shared forms complete, and each form's own result is that of its table. -/
theorem integerRegisterResults : Obligations.IntegerRegisterResults := by
  unfold Obligations.IntegerRegisterResults
  refine ⟨⟨fun s p d a b h hd ha hb e he => ?two, fun s p d a h hd ha => ⟨fun e he => ?one, fun i e he => ?imm7, fun i e he => ?imm5⟩,
      fun s p d h hd => ⟨fun i => ⟨?movi, ?iaddi14⟩, fun w => ?movl⟩⟩,
    fun s p d a b h hd ha hb hc e he => ?three,
    fun s p d a b h hd => ⟨fun ha hb => ⟨?imulwI, ?imulwN⟩, fun ha hb => ⟨?iadd64, ?isub64⟩⟩⟩
  case two =>
    obtain ⟨f, hexec, hvalue⟩ := intTwo_shared p e he
    exact (hexec ..).trans (alu2_completes h hd ha hb hvalue)
  case one =>
    obtain ⟨f, hexec, hvalue⟩ := intOne_shared p e he
    exact (hexec ..).trans (alu1_completes h hd ha hvalue)
  case imm7 =>
    obtain ⟨f, hexec, hvalue⟩ := intImm7_shared p i e he
    exact (hexec ..).trans (alu1_completes h hd ha hvalue)
  case imm5 =>
    obtain ⟨f, hexec, hvalue⟩ := intImm5_shared p i e he
    exact (hexec ..).trans (alu1_completes h hd ha hvalue)
  case movi => exact issueP_ok h (alu0_run _ h hd)
  case iaddi14 => exact alu1_completes h hd (okSrc_of_okDst hd) fun _ => intI32_eq_clampI ..
  case movl => exact issue_ok h (alu0_run w h hd)
  case three =>
    obtain ⟨f, hexec, hvalue⟩ := intThree_shared p e he
    exact (hexec ..).trans (alu3_completes h hd ha hb hc hvalue)
  case imulwI => exact issueP_ok h (alu2w_run _ h hd ha hb)
  case imulwN => exact issueP_ok h (alu2w_run _ h hd ha hb)
  case iadd64 => exact alu64_completes h hd ha hb fun _ _ => intI64_eq_clampI64 ..
  case isub64 => exact alu64_completes h hd ha hb fun _ _ => intI64_eq_clampI64 ..

end Sys2Proof.Proofs

/-! # Reset (R103, R183, R184, R204, R210, R335, R363, R367, R380, R395, R407, R451)

A table of the reset state lists nothing, so what it answers is its default. -/

namespace Sys2Proof.Proofs

open Sys2Proof Sys2Proof.Machine Sys2Proof.Laws Sys2Proof.Claims

theorem coreAt_reset (c : Nat) : coreAt State.reset c = {} := rfl

theorem stackAt_reset (x : Nat) : stackAt State.reset x = {} := rfl

theorem groupAt_reset (c slot : Nat) : groupAt State.reset c slot = none := rfl

theorem memByte_reset (a : Nat) : memByte State.reset a = 0 := rfl

theorem cycles_reset (d : Nat) : cycles State.reset d = 0 := rfl

theorem isPoisoned_reset (line : Nat) : isPoisoned State.reset line = false := rfl

theorem ctrGet_reset (k : Nat) : ctrGet State.reset k = ctrReset k := rfl

/-- The class and the index are the key's own fields (R395). -/
theorem ctrKey_fields {cls unit : Nat} (idx : Nat) (hcls : cls < 16) (hunit : unit < 256) :
    (cls + 16 * unit + 4096 * idx) % 16 = cls ∧ (cls + 16 * unit + 4096 * idx) / 4096 = idx := by omega

/-- Settles O59: each part is the default of its table or register. -/
theorem resetState : Obligations.ResetState := by
  refine ⟨rfl, memByte_reset, fun c => ?cores, fun c => ?margins, by decide, by decide, by decide, by decide, fun x line => ?memory,
    fun idx _ unit hunit cls hcls => ?counters, rfl, groupAt_reset⟩
  case cores => simp [cycles_reset, coreAt_reset]
  case margins => simp [coreAt_reset]
  case memory => simp [stackAt_reset, isPoisoned_reset]
  case counters =>
    obtain ⟨hk, hi⟩ := ctrKey_fields idx hcls hunit
    simp only [ctrGet_reset, ctrReset, hk, hi]

end Sys2Proof.Proofs

/-! # The float forms (R124 to R138)

Every float form is a shared one (`alu1` to `alu3`) with the result of its table. Packed results are two encodings that each fit their 16 bits;
CVT, the 8-bit packs and CVTUN choose their operands, keep part of d or fault in ways of their own. -/

namespace Sys2Proof.Proofs

open Sys2Proof Sys2Proof.Machine Sys2Proof.Laws Sys2Proof.Claims

/-! ### Encodings fit their format (R45, R52, R54) -/

theorem enc_lt {f : Fmt} {mag : Nat} (neg : Bool) (h : mag < f.sign) : f.enc neg mag < 2 * f.sign := by
  unfold Fmt.enc
  split <;> omega

theorem inf_lt_sign (f : Fmt) : f.inf < f.sign := by
  rw [Fmt.inf, Fmt.sign, pow_add]
  exact Nat.mul_lt_mul_of_pos_right (Nat.sub_lt (Nat.two_pow_pos _) one_pos) (Nat.two_pow_pos _)

section
variable {f : Fmt} (he4 : f.e4 = false)
include he4

theorem nan_lt : f.nan < 2 * f.sign := by
  have hquiet : 2 ^ (f.mb - 1) ≤ f.sign := Nat.pow_le_pow_right two_pos (by omega)
  have hinf := inf_lt_sign f
  rw [Fmt.nan, he4, if_neg Bool.false_ne_true]
  omega

theorem maxFin_lt_sign : f.maxFin < f.sign := by
  have hinf := inf_lt_sign f
  rw [Fmt.maxFin, he4, if_neg Bool.false_ne_true]
  omega

/-- A rounded result is an encoding of its format. -/
theorem round_lt (mode : Nat) (v : FVal) : f.round mode v < 2 * f.sign := by
  have hinf := inf_lt_sign f
  have hmax := maxFin_lt_sign he4
  unfold Fmt.round
  split
  · exact nan_lt he4
  · rw [he4]; exact enc_lt _ hinf
  · exact enc_lt _ (Nat.two_pow_pos _)
  · dsimp only
    rw [he4]
    split
    · exact enc_lt _ (by omega)
    · rw [if_neg Bool.false_ne_true]
      split
      · exact enc_lt _ hmax
      · exact enc_lt _ hinf

end

theorem sat_le (f : Fmt) (on : Bool) (bits : Nat) : f.sat on bits ≤ bits := by
  unfold Fmt.sat
  split
  · exact le_rfl
  · split
    · exact Nat.zero_le _
    · split_ifs <;> omega

/-! ### Packed results (R135, R137) -/

/-- Two 16-bit encodings side by side. -/
theorem ofNat_append_ofNat {lo hi : Nat} (hlo : lo < 2 ^ 16) :
    BitVec.ofNat 32 (lo + 2 ^ 16 * hi) = BitVec.ofNat 16 hi ++ BitVec.ofNat 16 lo := by
  apply BitVec.eq_of_toNat_eq
  rw [BitVec.toNat_append, BitVec.toNat_ofNat, BitVec.toNat_ofNat, BitVec.toNat_ofNat, Nat.shiftLeft_eq, Nat.mod_eq_of_lt hlo,
    mul_comm (hi % 2 ^ 16), ← Nat.two_pow_add_eq_or_of_lt hlo]
  omega

theorem packW_eq_halves {f : Fmt} (he4 : f.e4 = false) (hwidth : 2 * f.sign = 2 ^ 16) (p : Option Pfx) (v : Nat → FVal) :
    packW f p v = halves f p v := by
  have hlo : fOut f (satBit p) (rndOf p) (v 0) < 2 ^ 16 :=
    hwidth ▸ (sat_le f _ _).trans_lt (round_lt he4 (rndOf p) (v 0))
  exact ofNat_append_ofNat hlo

theorem packW_bf16 (p : Option Pfx) (v : Nat → FVal) : packW bf16 p v = halves bf16 p v := packW_eq_halves rfl (by decide) p v

theorem packW_f16 (p : Option Pfx) (v : Nat → FVal) : packW f16 p v = halves f16 p v := packW_eq_halves rfl (by decide) p v

/-! ### Comparisons (R130) -/

/-- A test that a form writes as 1 or 0. -/
theorem ite_eq_flag {c : Bool} {q : Prop} [Decidable q] (h : c = true ↔ q) : (if c then 1 else 0 : Word) = flag q := if_congr h rfl rfl

/-- An ordered comparison holds of no NaN. -/
theorem ordered_eq_flag (x y : Word) {c : Bool} {q : Prop} [Decidable q] (h : c = true ↔ q) :
    (if !isNanW x && !isNanW y && c then 1 else 0 : Word) = flag (isNanW x = false ∧ isNanW y = false ∧ q) :=
  ite_eq_flag (by simp [h, and_assoc])

theorem fsetNe_eq_flag (x y : Word) : (if isNanW x || isNanW y || orderKey false x != orderKey false y then 1 else 0 : Word)
    = flag (isNanW x ∨ isNanW y ∨ orderKey false x ≠ orderKey false y) :=
  ite_eq_flag (by simp [or_assoc])

theorem fsetUn_eq_flag (x y : Word) : (if isNanW x || isNanW y then 1 else 0 : Word) = flag (isNanW x ∨ isNanW y) := ite_eq_flag (by simp)

/-! ### The forms as uses of the shared ones -/

/-- Each float form of two sources is the shared form with the result of R127, R129, R130, R132, R134, R135 or R137. -/
theorem floatTwo_shared (p : Option Pfx) : ∀ e ∈ floatTwo p,
    ∃ f, (∀ d a b s, exec (e.1 p d a b) s = issueP p (alu2 p d a b f) s) ∧ ∀ x y, f x y = e.2 x y := by
  simp only [floatTwo, List.cons_append, List.nil_append, List.mem_cons, List.not_mem_nil, or_false, forall_eq_or_imp, forall_eq]
  exact ⟨⟨_, fun _ _ _ _ => rfl, fun _ _ => rfl⟩,
    ⟨_, fun _ _ _ _ => rfl, fun _ _ => rfl⟩,
    ⟨_, fun _ _ _ _ => rfl, fun _ _ => rfl⟩,
    ⟨_, fun _ _ _ _ => rfl, fun _ _ => rfl⟩,
    ⟨_, fun _ _ _ _ => rfl, fun _ _ => rfl⟩,
    ⟨_, fun _ _ _ _ => rfl, fun _ _ => rfl⟩,
    ⟨_, fun _ _ _ _ => rfl, fun _ _ => rfl⟩,
    ⟨_, fun _ _ _ _ => rfl, fun x y => ordered_eq_flag x y beq_iff_eq⟩,
    ⟨_, fun _ _ _ _ => rfl, fsetNe_eq_flag⟩,
    ⟨_, fun _ _ _ _ => rfl, fun x y => ordered_eq_flag x y decide_eq_true_iff⟩,
    ⟨_, fun _ _ _ _ => rfl, fun x y => ordered_eq_flag x y decide_eq_true_iff⟩,
    ⟨_, fun _ _ _ _ => rfl, fsetUn_eq_flag⟩,
    ⟨_, fun _ _ _ _ => rfl, fun _ _ => packW_bf16 p _⟩,
    ⟨_, fun _ _ _ _ => rfl, fun _ _ => packW_bf16 p _⟩,
    ⟨_, fun _ _ _ _ => rfl, fun _ _ => packW_f16 p _⟩,
    ⟨_, fun _ _ _ _ => rfl, fun _ _ => packW_f16 p _⟩,
    ⟨_, fun _ _ _ _ => rfl, fun _ _ => packW_bf16 p _⟩,
    ⟨_, fun _ _ _ _ => rfl, fun _ _ => packW_f16 p _⟩⟩

/-- Each float form of one source is the shared form with the result of R129 or R131 to R133. -/
theorem floatOne_shared (p : Option Pfx) : ∀ e ∈ floatOne p, ∀ d a s, exec (e.1 p d a) s = issueP p (alu1 p d a e.2) s := by
  simp only [floatOne, List.mem_cons, List.not_mem_nil, or_false, forall_eq_or_imp, forall_eq]
  exact ⟨fun _ _ _ => rfl, fun _ _ _ => rfl, fun _ _ _ => rfl, fun _ _ _ => rfl, fun _ _ _ => rfl, fun _ _ _ => rfl, fun _ _ _ => rfl,
    fun _ _ _ => rfl, fun _ _ _ => rfl, fun _ _ _ => rfl, fun _ _ _ => rfl, fun _ _ _ => rfl, fun _ _ _ => rfl⟩

/-- Each float form of three sources is the shared form with the result of R127, R128 or R135. -/
theorem floatThree_shared (p : Option Pfx) : ∀ e ∈ floatThree p,
    ∃ f, (∀ d a b s, exec (e.1 p d a b) s = issueP p (alu3 p d a b f) s) ∧ ∀ x y z, f x y z = e.2 x y z := by
  simp only [floatThree, List.mem_cons, List.not_mem_nil, or_false, forall_eq_or_imp, forall_eq]
  exact ⟨⟨_, fun _ _ _ _ => rfl, fun _ _ _ => rfl⟩,
    ⟨_, fun _ _ _ _ => rfl, fun _ _ _ => packW_bf16 p _⟩,
    ⟨_, fun _ _ _ _ => rfl, fun _ _ _ => packW_f16 p _⟩⟩

/-- Settles O2: the shared forms complete, and each form's own result is that of its table. -/
theorem floatResults : Obligations.FloatResults := by
  unfold Obligations.FloatResults
  refine ⟨fun s p d a b h hd ha hb e he => ?two, fun s p d a b h hd ha => ⟨fun e he => ?one, fun hb hc e he => ?three⟩⟩
  case two =>
    obtain ⟨f, hexec, hvalue⟩ := floatTwo_shared p e he
    exact (hexec ..).trans (alu2_completes h hd ha hb hvalue)
  case one => exact (floatOne_shared p e he ..).trans (alu1_completes h hd ha fun _ => rfl)
  case three =>
    obtain ⟨f, hexec, hvalue⟩ := floatThree_shared p e he
    exact (hexec ..).trans (alu3_completes h hd ha hb hc hvalue)

/-! ### CVT (R56, R136) -/

/-- No code of CVT has a pair on both sides. -/
theorem cvtDstPair_of_cvtSrcPair {code : Nat} (h : cvtSrcPair code = true) : cvtDstPair code = false := by
  simp only [cvtSrcPair, cvtDstPair, Bool.or_eq_true, Bool.or_eq_false_iff, beq_iff_eq, beq_eq_false_iff_ne] at h ⊢
  omega

theorem cvtSrcPair_of_cvtDstPair {code : Nat} (h : cvtDstPair code = true) : cvtSrcPair code = false := by
  by_contra hsrc
  rw [cvtDstPair_of_cvtSrcPair (by simpa using hsrc)] at h
  cases h

/-- With no pair on either side, CVT is the shared form of one source. -/
theorem cvtM_eq_alu1 {p : Option Pfx} {d a : Code} {code : Nat} (hcode : code ≤ 0x19) (hsrc : cvtSrcPair code = false)
    (hdst : cvtDstPair code = false) : cvtM p d a code = alu1 p d a (cvtW code (satBit p) (rndOf p)) := by
  funext y
  unfold cvtM alu1
  simp only [decide_eq_true hcode, hsrc, hdst, Bool.false_eq_true, if_false]
  exact bind_ok (ensure_true ..)

section
variable {s : State} {p : Option Pfx} {d a : Code} {code : Nat} (h : issuing s = true) (hcode : code ≤ 0x19)
include h hcode

theorem cvtM_fromPair (hsrc : cvtSrcPair code = true) (hd : okDst s d = true) (ha : okPair s a = true) :
    cvtM p d a code (entered (unitLen p) s) = .ok ((), putWord (entered (unitLen p) s) d (execs s p) (zeroed s p)
      (fun t => cvtFromPair code (satBit p) (rndOf p) (pairVal (entered (unitLen p) s) a t))) := by
  unfold cvtM
  simp only [decide_eq_true hcode, hsrc, cvtDstPair_of_cvtSrcPair hsrc, Bool.false_eq_true, if_true, if_false]
  rw [bind_ok (ensure_true ..), bind_ok (checkOps_ok _ _ (by
      simp only [List.mem_cons, List.not_mem_nil, or_false, forall_eq_or_imp, forall_eq]
      exact ⟨opnd_dst (by simpa [h] using hd), opnd_pair (by simpa [h] using ha)⟩)),
    bind_ok (execLanes_entered _ h p), bind_ok (zeroLanes_entered _ h p), bind_ok (readPair_run _ _ (okPair_code ha)),
    writeDst_plain _ _ _ (okDst_plain hd)]

theorem cvtM_toPair (hdst : cvtDstPair code = true) (hd : okPair s d = true) (ha : okSrc s a = true) :
    cvtM p d a code (entered (unitLen p) s)
      = .ok ((), putPair (srcStep (entered (unitLen p) s) (execs s p) a) d (execs s p) (zeroed s p)
          (fun t => cvtToPair code (rndOf p) (srcVal (entered (unitLen p) s) a t))) := by
  unfold cvtM
  simp only [decide_eq_true hcode, hdst, cvtSrcPair_of_cvtDstPair hdst, Bool.false_eq_true, if_true, if_false]
  obtain ⟨x, hx, ex⟩ := readSrc_plain (s := entered (unitLen p) s) (execs s p) (okSrc_plain ha)
  rw [bind_ok (ensure_true ..), bind_ok (checkOps_ok _ _ (by
      simp only [List.mem_cons, List.not_mem_nil, or_false, forall_eq_or_imp, forall_eq]
      exact ⟨opnd_pair (by simpa [h] using hd), opnd_src (by simpa [h] using ha)⟩)),
    bind_ok (execLanes_entered _ h p), bind_ok (zeroLanes_entered _ h p), bind_ok hx, writePair_run,
    putPair_congr _ _ _ _ _ _ fun t ht => by rw [ex t ht]]

end

/-! ### The 8-bit packs (R137) -/

theorem pack8_eq (z : Word) (lo hi : Nat) :
    pack8 z lo hi = BitVec.ofNat 32 (z.toNat % 2 ^ 16 * 2 ^ 16 + hi % 2 ^ 8 * 2 ^ 8 + lo % 2 ^ 8) := by
  rw [pack8, mul_comm (2 ^ 16), mul_comm (2 ^ 8)]
  rfl

/-- A destination that is no port is not `cy`, so reading it changes nothing. -/
theorem srcStep_of_okDst {s : State} {d : Code} (hd : okDst s d = true) (y : State) (ex : List Nat) : srcStep y ex d = y := by
  refine srcStep_of_ne y ex ?_
  rintro rfl
  exact absurd (okDst_plain hd) (by decide)

theorem cvtpk8_run {s : State} {p : Option Pfx} {d a b : Code} (f : Word → Nat) (h : issuing s = true) (hd : okDst s d = true)
    (ha : okSrc s a = true) (hb : okSrc s b = true) :
    cvtpk8 p d a b f (entered (unitLen p) s)
      = .ok ((), putWord (srcStep (srcStep (entered (unitLen p) s) (execs s p) a) (execs s p) b) d (execs s p) (zeroed s p) (fun t =>
          pack8 (srcVal (srcStep (srcStep (entered (unitLen p) s) (execs s p) a) (execs s p) b) d t)
            (f (srcVal (entered (unitLen p) s) a t)) (f (srcVal (srcStep (entered (unitLen p) s) (execs s p) a) b t)))) := by
  unfold cvtpk8
  rw [bind_ok (checkOps_ok _ _ (by
      simp only [List.mem_cons, List.not_mem_nil, or_false, forall_eq_or_imp, forall_eq]
      exact ⟨opnd_dst (by simpa [h] using hd), opnd_src (by simpa [h] using okSrc_of_okDst hd), opnd_src (by simpa [h] using ha),
        opnd_src (by simpa [h] using hb)⟩)),
    bind_ok (execLanes_entered _ h p), bind_ok (zeroLanes_entered _ h p)]
  obtain ⟨x, hx, ex⟩ := readSrc_plain (s := entered (unitLen p) s) (execs s p) (okSrc_plain ha)
  obtain ⟨y, hy, ey⟩ := readSrc_plain (s := srcStep (entered (unitLen p) s) (execs s p) a) (execs s p) (okSrc_plain hb)
  obtain ⟨z, hz, ez⟩ := readSrc_plain (s := srcStep (srcStep (entered (unitLen p) s) (execs s p) a) (execs s p) b) (execs s p)
    (okSrc_plain (okSrc_of_okDst hd))
  rw [bind_ok hx, bind_ok hy, bind_ok hz, writeDst_plain _ _ _ (okDst_plain hd), srcStep_of_okDst hd,
    putWord_congr _ _ _ _ _ _ fun t ht => by rw [ex t ht, ey t ht, ez t ht]]

/-- Each 8-bit pack is the shared pack with the conversion of R137. -/
theorem pack8Of_shared (p : Option Pfx) : ∀ e ∈ pack8Of p, ∀ d a b s, exec (e.1 p d a b) s = issueP p (cvtpk8 p d a b e.2) s := by
  simp only [pack8Of, List.mem_cons, List.not_mem_nil, or_false, forall_eq_or_imp, forall_eq]
  exact ⟨fun _ _ _ _ => rfl, fun _ _ _ _ => rfl, fun _ _ _ _ => rfl, fun _ _ _ _ => rfl⟩

/-! ### CVTUN (R138) -/

/-- An element of the source as a number, a signed and an unsigned word. -/
theorem toNat_element (x : Word) (start len : Nat) : (x.extractLsb' start len).toNat = x.toNat / 2 ^ start % 2 ^ len := by
  rw [BitVec.extractLsb'_toNat, Nat.shiftRight_eq_div_pow]

theorem signExtend_element (x : Word) (start len : Nat) :
    (x.extractLsb' start len).signExtend 32 = (BitVec.ofNat len (x.toNat / 2 ^ start)).signExtend 32 := by
  rw [BitVec.extractLsb', Nat.shiftRight_eq_div_pow]

theorem setWidth_element (x : Word) (start len : Nat) :
    (x.extractLsb' start len).setWidth 32 = BitVec.ofNat 32 (x.toNat / 2 ^ start % 2 ^ len) := by
  rw [← BitVec.ofNat_toNat, toNat_element]

section
variable (p : Option Pfx) (x : Word) {i : Nat}

/-- The selectors of a half. -/
theorem cvtunW_half (hi : i < 2) :
    cvtunW i p x = f32W p (bf16.val (x.toNat / 2 ^ (16 * i) % 2 ^ 16))
    ∧ cvtunW (0x02 + i) p x = f32W p (f16.val (x.toNat / 2 ^ (16 * i) % 2 ^ 16))
    ∧ cvtunW (0x14 + i) p x = (BitVec.ofNat 16 (x.toNat / 2 ^ (16 * i))).signExtend 32
    ∧ cvtunW (0x16 + i) p x = BitVec.ofNat 32 (x.toNat / 2 ^ (16 * i) % 2 ^ 16) := by
  unfold cvtunW
  -- each selector meets one branch of the chain of ranges, which arithmetic decides
  simp (disch := omega) only [if_pos, if_neg, Nat.add_sub_cancel_left, toNat_element, signExtend_element, setWidth_element, and_self]

/-- The selectors of a byte. -/
theorem cvtunW_byte (hi : i < 4) :
    cvtunW (0x04 + i) p x = f32W p (e4m3.val (x.toNat / 2 ^ (8 * i) % 2 ^ 8))
    ∧ cvtunW (0x08 + i) p x = f32W p (e5m2.val (x.toNat / 2 ^ (8 * i) % 2 ^ 8))
    ∧ cvtunW (0x0C + i) p x = (BitVec.ofNat 8 (x.toNat / 2 ^ (8 * i))).signExtend 32
    ∧ cvtunW (0x10 + i) p x = BitVec.ofNat 32 (x.toNat / 2 ^ (8 * i) % 2 ^ 8) := by
  unfold cvtunW
  -- each selector meets one branch of the chain of ranges, which arithmetic decides
  simp (disch := omega) only [if_pos, if_neg, Nat.add_sub_cancel_left, toNat_element, signExtend_element, setWidth_element, and_self]

end

theorem exec_cvtun_legal {s : State} {p : Option Pfx} {d a b : Code} (h : issuing s = true) (hb : b.toNat ≤ 0x17) (hd : okDst s d = true)
    (ha : okSrc s a = true) : exec (.cvtun p d a b) s = .next (finish s (did1 s p d a (cvtunW b.toNat p))) := by
  refine issueP_ok h ?_
  rw [decide_eq_true hb, bind_ok (ensure_true ..)]
  exact alu1_run _ h hd ha

theorem exec_cvtun_illegal {s : State} {p : Option Pfx} {d a b : Code} (h : issuing s = true) (hb : 0x18 ≤ b.toNat) :
    exec (.cvtun p d a b) s = .next (stopped s (.fault { code := 0x02 })) := by
  refine issue_stop h Stop.noConfusion ?_
  rw [decide_eq_false (by omega), bind_error (ensure_false ..)]
  rfl

/-! ### The statement -/

/-- Settles O3: each clause is the case of its form above. -/
theorem conversionResults : Obligations.ConversionResults := by
  unfold Obligations.ConversionResults
  intro s p d a b h
  refine ⟨fun hcode hsrc hd ha => issueP_ok h (cvtM_fromPair h hcode hsrc hd ha),
    fun hcode hdst hd ha => issueP_ok h (cvtM_toPair h hcode hdst hd ha), fun hcode hsrc hdst hd ha => ?noPair,
    exec_cvtun_legal h, exec_cvtun_illegal h, fun x i => ⟨cvtunW_half p x, cvtunW_byte p x⟩, fun hd ha hb e he => ?packs⟩
  case noPair =>
    refine issueP_ok h ?_
    rw [cvtM_eq_alu1 hcode hsrc hdst]
    exact alu1_run _ h hd ha
  case packs =>
    have hrun := cvtpk8_run (p := p) e.2 h hd ha hb
    simp only [pack8_eq] at hrun
    exact (pack8Of_shared p e he ..).trans (issueP_ok h hrun)

end Sys2Proof.Proofs

/-! # What entering and completing an instruction change (R146, R159, R161, R215)

Entering moves the program counters and concerns the group's chunk and modes (`entered_keeps`, `entered_open`, `entered_fresh`); completing counts
the turn and lets time pass (`onlyTurn_counted`). -/

namespace Sys2Proof.Proofs

open Sys2Proof Sys2Proof.Machine Sys2Proof.Laws Sys2Proof.Claims

/-! ### What entering leaves of the issuing group (R161) -/

/-- A group at its chunk boundary, restored in irrevocable mode, enters that mode (R176). -/
def modeRestored (g : Group) : Group := if g.reirr && decide (g.open_.slots = 0) then { g with irr := true, reirr := false } else g

theorem groupAt_beginAt {s : State} {c slot : Nat} {g : Group} (hg : groupAt s c slot = some g) : groupAt (beginAt s c slot) c slot
    = some (beginChunk (modeRestored g) (coreAt s c).mcklim.toNat (!otherPri s c slot)) := by
  unfold beginAt
  rw [hg]
  exact groupAt_setGroup_self ..

theorem curGroup_begun {s : State} (h : issuing s = true) :
    ∃ lim p, curGroup (begun s) = beginChunk (modeRestored { curGroup s with hold := false }) lim p := by
  have hissuing : issuing (modCur s fun g => { g with hold := false }) = true := (issuing_modCur ..).trans h
  have hgroup := groupAt_cur_of_issuing hissuing
  rw [curGroup_modCur _ h, modCur_cur] at hgroup
  have hbegun : groupAt (begun s) s.cur.core s.cur.slot = some _ := groupAt_beginAt hgroup
  rw [curGroup, begun_cur, hbegun]
  exact ⟨_, _, rfl⟩

/-- Beginning an effect concerns the group's registers, its open chunk and modes, and its wait for earlier chunks; nothing else of it. -/
theorem begun_keeps {s : State} (h : issuing s = true) : { curGroup (begun s) with
    r := (curGroup s).r, open_ := (curGroup s).open_, nextNum := (curGroup s).nextNum, grownFrom := (curGroup s).grownFrom
    pri := (curGroup s).pri, irr := (curGroup s).irr, reirr := (curGroup s).reirr, hold := (curGroup s).hold } = curGroup s := by
  obtain ⟨lim, p, hg⟩ := curGroup_begun h
  rw [hg]
  unfold beginChunk modeRestored
  split <;> split <;> rfl

theorem entered_keeps (n : Nat) {s : State} (h : issuing s = true) : { curGroup (entered n s) with
    r := (curGroup s).r, open_ := (curGroup s).open_, nextNum := (curGroup s).nextNum, grownFrom := (curGroup s).grownFrom
    pri := (curGroup s).pri, irr := (curGroup s).irr, reirr := (curGroup s).reirr, hold := (curGroup s).hold } = curGroup s := by
  rw [entered, curGroup_modCur _ (issuing_begun h)]
  exact begun_keeps h

/-- A field of the group that entering does not concern. -/
theorem entered_field (n : Nat) {s : State} (h : issuing s = true) {α : Type} (f : Group → α)
    (hf : ∀ g r o m w p i j q, f { g with r := r, open_ := o, nextNum := m, grownFrom := w, pri := p, irr := i, reirr := j, hold := q } = f g) :
    f (curGroup (entered n s)) = f (curGroup s) :=
  (hf ..).symm.trans (congrArg f (entered_keeps n h))

/-- Where a chunk is open, entering leaves it open as it is. -/
theorem entered_open {s : State} (n : Nat) (h : issuing s = true) (hopen : (curGroup s).open_.slots ≠ 0) :
    (curGroup (entered n s)).open_ = (curGroup s).open_ := by
  obtain ⟨lim, p, hg⟩ := curGroup_begun h
  rw [entered, curGroup_modCur _ (issuing_begun h), hg]
  unfold beginChunk modeRestored
  simp [hopen]

/-- Where none is open, a fresh chunk is. -/
theorem entered_fresh {s : State} (n : Nat) (h : issuing s = true) (hnone : (curGroup s).open_.slots = 0) :
    ∃ m c q p i, (curGroup (entered n s)).open_ = { num := m, ckpt := c, sq := q, pri := p, irr := i } := by
  obtain ⟨lim, p, hg⟩ := curGroup_begun h
  rw [entered, curGroup_modCur _ (issuing_begun h), hg]
  unfold beginChunk modeRestored
  simp only [hnone, decide_true, Bool.and_true, ne_eq]
  split <;> simp

theorem slots_entered (n : Nat) {s : State} (h : issuing s = true) : (curGroup (entered n s)).open_.slots = (curGroup s).open_.slots := by
  by_cases hopen : (curGroup s).open_.slots = 0
  · obtain ⟨m, c, q, p, i, hk⟩ := entered_fresh n h hopen
    rw [hk, hopen]
  · rw [entered_open n h hopen]

/-! ### Entering (R146, R161) -/

theorem pcOf_entered (n t : Nat) {s : State} (h : issuing s = true) :
    pcOf (entered n s) t = if t ∈ s.cur.lanes then s.cur.pc + BitVec.ofNat 57 n else pcOf s t := by
  unfold pcOf
  rw [entered_pc n h]
  split
  · exact sget_ssetAll_map 0 _ id _ _ _ (fun _ _ e => e) ‹_›
  · exact sget_ssetAll_of_notMem 0 _ _ _ (by simpa using ‹_›)

theorem rst_beginChunk {g : Group} {lim : Nat} {p : Bool} (h : (beginChunk g lim p).r.rst = true) : g.r.rst = true := by
  unfold beginChunk at h
  split at h
  · exact h
  · dsimp only at h
    split at h
    · cases h
    · exact h

theorem rst_entered (n : Nat) {s : State} (h : issuing s = true) (hr : (curGroup (entered n s)).r.rst = true) : (curGroup s).r.rst = true := by
  obtain ⟨lim, p, hg⟩ := curGroup_begun h
  rw [entered, curGroup_modCur _ (issuing_begun h), hg] at hr
  have hbefore := rst_beginChunk hr
  unfold modeRestored at hbefore
  split at hbefore <;> exact hbefore

/-! ### What a clk counts (R205, R399, R400) -/

theorem ctrGet_ctrPut_ne (s : State) {k j : Nat} (v : Dword) (h : j ≠ k) : ctrGet (ctrPut s k v) j = ctrGet s j := by
  unfold ctrGet ctrPut
  rw [sget_sset, if_neg h]

theorem ctrGet_ctrAdd_ne (s : State) {k j : Nat} (n : Nat) (h : j ≠ k) : ctrGet (ctrAdd s k n) j = ctrGet s j := ctrGet_ctrPut_ne s _ h

theorem ctrGet_congr {s t : State} (h : t.ctr = s.ctr) (k : Nat) : ctrGet t k = ctrGet s k := by
  unfold ctrGet
  rw [h]

theorem ctrGet_refuseAdmission_ne (s : State) {k j : Nat} (h : j ≠ k + 8192) : ctrGet (refuseAdmission s k) j = ctrGet s j := by
  unfold refuseAdmission
  split
  · rfl
  · exact ctrGet_ctrAdd_ne _ 1 h

theorem ctrKey_mod (unit idx : Nat) {cls : Nat} (h : cls < 16) : ctrKey cls unit idx % 16 = cls := by
  unfold ctrKey
  omega

theorem ctrGet_marchOn (n : Nat) (s : State) (e : Nat × Stack) {j : Nat} (h : j % 16 ≠ 3) : ctrGet (marchOn n s e) j = ctrGet s j := by
  have hkey := ctrKey_mod e.1 35 (show 3 < 16 by decide)
  have hused : j ≠ ctrKey 3 e.1 35 := fun hj => h (hj ▸ hkey)
  have hshort : j ≠ ctrKey 3 e.1 35 + 8192 := by omega
  unfold marchOn
  split
  · rfl
  · dsimp only
    split
    · rw [ctrGet_refuseAdmission_ne _ hshort]
      exact ctrGet_ctrAdd_ne s _ hused
    · exact ctrGet_ctrAdd_ne s _ hused

/-- Time counts for the marches, in the counters of the stacks, and for nothing else. -/
theorem ctrGet_passTime (s : State) (n : Nat) {j : Nat} (h : j % 16 ≠ 3) : ctrGet (passTime s n) j = ctrGet s j := by
  have hfold : ∀ (l : List (Nat × Stack)) (t : State), ctrGet (l.foldl (marchOn n) t) j = ctrGet t j := by
    intro l
    induction l with
    | nil => exact fun _ => rfl
    | cons e l ih => exact fun t => (ih _).trans (ctrGet_marchOn n t e h)
  exact hfold _ _

theorem ctrGet_counted (x : State) {j : Nat} (hmarch : j % 16 ≠ 3) (hissue : j ≠ ctrKey 1 x.cur.core 0) : ctrGet (counted x) j = ctrGet x j := by
  calc ctrGet (counted x) j = ctrGet (passTime (coreCtr (tallied x) x.cur.core 0 1) 1) j :=
        ctrGet_congr (modGroup_ctr ..) j
    _ = ctrGet (coreCtr (tallied x) x.cur.core 0 1) j := ctrGet_passTime _ 1 hmarch
    _ = ctrGet (tallied x) j := ctrGet_ctrAdd_ne _ 1 hissue
    _ = ctrGet x j := ctrGet_congr (modCur_ctr ..) j

/-! ### Completing (R146, R215) -/

theorem counted_clk (x : State) : (counted x).clk = x.clk + 1 := by
  calc (counted x).clk = (passTime (coreCtr (tallied x) x.cur.core 0 1) 1).clk := modGroup_clk ..
    _ = (tallied x).clk + 1 := passTime_clk ..
    _ = x.clk + 1 := by rw [tallied, modCur_clk]

/-- Of another group of the core, completing an instruction changes the TYIELD window at most (R324). -/
theorem counted_groups_window (x : State) {h : Nat} (hh : h ≠ x.cur.slot) :
    (groupAt (counted x) x.cur.core h).map (fun g => { g with yieldLeft := 0 })
      = (groupAt x x.cur.core h).map (fun g => { g with yieldLeft := 0 }) := by
  have htick : groupAt (tickGroup (coreCtr (tallied x) x.cur.core 0 1) x.cur.core x.cur.slot (tallied x).cur.lanes) x.cur.core h
      = groupAt x x.cur.core h := by
    unfold tickGroup
    rw [groupAt_modGroup, if_neg (fun e => hh e.2), groupAt_of_cores (passTime_cores ..)]
    exact (OwnGroup.modCur x _).groups h hh
  rw [← htick]
  unfold counted tickYield groupAt
  rw [coreAt_modCore_self, aget_map_snd _ _ (by intro e; split <;> rfl), Option.map_map]
  congr 1
  funext g
  simp only [Function.comp_apply]
  split <;> rfl

theorem onlyTurn_counted {x : State} (h : issuing x = true) : onlyTurn x (counted x) :=
  ⟨atRest_counted x x, counted_clk x, fun _ => ctrGet_counted x, fun _ => coreAt_counted_ne x, groups_of_bare (bare_counted x),
    fun _ => counted_groups_window x, turned x, groupAt_counted h, rfl, rfl, rfl⟩

/-- Settles O6: entering moves the program counters and may clear RST; completing is `counted`, but for a repeat that issues guarded. -/
theorem effectAndCompletion : Obligations.EffectAndCompletion := by
  unfold Obligations.EffectAndCompletion
  refine ⟨fun s n t h => ⟨pcOf_entered n t h, ?_, rst_entered n h, mem_entered n s, (OwnGroup.entered n s).others⟩,
    fun x hx => ?_, fun s x h => ?_, fun s x hr hc => ?_⟩
  · rw [entered_r n h]
  · rw [retire_goesOn hx]
    exact onlyTurn_counted hx.1
  · exact h.elim (finish_of_no_replay x) finish_of_unguarded
  · simp [finish, hr, Ne.symm hc]

end Sys2Proof.Proofs

/-! # Mask instructions and the release of a mask (R150 to R152)

Each instruction's own case, then what a release makes of each lane (`woken`). -/

namespace Sys2Proof.Proofs

open Sys2Proof Sys2Proof.Machine Sys2Proof.Laws Sys2Proof.Claims

/-! ### One source of an unprefixed instruction -/

section
variable {s : State} {a : Code} (h : issuing s = true)
include h

/-- The active set reads the source: its values where threads execute, and what reading it leaves. -/
theorem readSrc_unprefixed (n : Nat) (ha : okSrc s a = true) : ∃ x : Nat → Word, (∀ t ∈ s.cur.lanes, x t = srcVal (entered n s) a t)
    ∧ ∀ {β : Type} (k : List Nat → (Nat → Word) → M β), (execLanes none >>= fun ex => readSrc a ex >>= k ex) (entered n s)
      = k s.cur.lanes x (srcStep (entered n s) s.cur.lanes a) := by
  obtain ⟨x, hx, ex⟩ := readSrc_plain (s := entered n s) s.cur.lanes (okSrc_plain ha)
  exact ⟨x, ex, fun k => by rw [bind_ok (execLanes_unprefixed n h), bind_ok hx]⟩

theorem checkSrc_entered (n : Nat) (ha : okSrc s a = true) : checkOps [.src a] (entered n s) = .ok ((), entered n s) :=
  checkOps_ok _ _ fun o ho => by rw [List.mem_singleton.1 ho]; exact opnd_src (by simpa [h] using ha)

theorem checkDst_entered (n : Nat) (ha : okDst s a = true) : checkOps [.dst a] (entered n s) = .ok ((), entered n s) :=
  checkOps_ok _ _ fun o ho => by rw [List.mem_singleton.1 ho]; exact opnd_dst (by simpa [h] using ha)

end

theorem lowest_congr {ex : List Nat} {x y : Nat → Word} (h : ∀ t ∈ ex, x t = y t) : lowest ex x = lowest ex y := by
  cases ex with
  | nil => rfl
  | cons t ts => exact h t List.mem_cons_self

/-! ### The mask instructions (R150, R151) -/

theorem checkMask_ok {mk : Code} (h : mk.toNat < 12) (s : State) : checkMask mk s = .ok ((), s) := by
  unfold checkMask
  rw [decide_eq_true h, ensure_true]

section
variable {s : State} {d a : Code} (h : issuing s = true)
include h

theorem exec_mjoin (hd : d.toNat < 12) : exec (.mjoin d) s
    = .next (finish s (withRegs (entered 4 s) (fun r => setMask r d.toNat (maskReg r d.toNat ||| maskOf s.cur.lanes)))) :=
  issue_ok h (by rw [bind_ok (checkMask_ok hd _), bind_ok (execLanes_unprefixed 4 h), modR_run])

theorem exec_mleave (hd : d.toNat < 12) : exec (.mleave d) s = .next (finish s (withRegs (entered 4 s)
    (fun r => releaseMasks (setMask r d.toNat (maskReg r d.toNat &&& ~~~maskOf s.cur.lanes))))) :=
  issue_ok h (by rw [bind_ok (checkMask_ok hd _), bind_ok (execLanes_unprefixed 4 h), modR_run])

theorem exec_mset (hd : d.toNat < 12) (ha : okSrc s a = true) : exec (.mset d a) s
    = .next (finish s (withRegs (srcStep (entered 4 s) s.cur.lanes a)
        (fun r => releaseMasks (setMask r d.toNat (lowest s.cur.lanes (srcVal (entered 4 s) a)))))) := by
  obtain ⟨x, hx, hrun⟩ := readSrc_unprefixed h 4 ha
  refine issue_ok h ?_
  rw [bind_ok (checkMask_ok hd _), bind_ok (checkSrc_entered h 4 ha), hrun, modR_run, lowest_congr hx]

theorem maskReg_entered (n mk : Nat) : maskReg (curGroup (entered n s)).r mk = maskReg (curGroup s).r mk := by
  rw [entered_r n h]
  rfl

theorem exec_mget (ha : a.toNat < 12) (hd : okDst s d = true) : exec (.mget d a) s
    = .next (finish s (putWord (entered 4 s) d s.cur.lanes [] (fun _ => maskReg (curGroup s).r a.toNat))) := by
  refine issue_ok h ?_
  rw [bind_ok (checkMask_ok ha _), bind_ok (checkDst_entered h 4 hd), bind_ok (execLanes_unprefixed 4 h), bind_ok (getG_run ..),
    writeDst_plain _ _ _ (okDst_plain hd), maskReg_entered h]

theorem exec_mact (hd : okDst s d = true) : exec (.mact d) s
    = .next (finish s (putWord (entered 4 s) d s.cur.lanes [] (fun _ => maskOf s.cur.lanes))) :=
  issue_ok h (by rw [bind_ok (checkDst_entered h 4 hd), bind_ok (execLanes_unprefixed 4 h), writeDst_plain _ _ _ (okDst_plain hd)])

/-- MWAIT and MSYNC (R151): the members of the mask among the executing threads wait at the instruction, which may release them. -/
theorem maskWait_run (hd : d.toNat < 12) (sync : Bool) : maskWait d sync (entered 4 s) = .ok ((), withRegs (entered 4 s) (fun r =>
    let ws := s.cur.lanes.filter (fun t => (maskReg r d.toNat).getLsbD t)
    releaseMasks (setPcs (setThr r ws (.mwait d.toNat sync)) (ws.map (·, s.cur.pc))))) := by
  unfold maskWait
  rw [bind_ok (checkMask_ok hd _), bind_ok (execLanes_unprefixed 4 h), bind_ok (thisPc_entered 4 s), modR_run]

end

/-! ### The release of a mask, lane by lane (R152) -/

/-- The threads that wait on a mask. -/
def waiters (r : GRegs) (mk : Nat) : List Nat := allLanes.filter (fun t => (waitsOn r mk t).isSome)

theorem mem_waiters {r : GRegs} {mk t : Nat} : t ∈ waiters r mk ↔ t < 32 ∧ waitsOn r mk t ≠ none := by
  simp [waiters, allLanes, Option.isSome_iff_ne_none]

theorem members_wait_iff (r : GRegs) (mk : Nat) : ((lanesOf (maskReg r mk)).all fun t => decide (t ∈ waiters r mk)) = true
    ↔ ∀ t, t < 32 → (maskReg r mk).getLsbD t = true → waitsOn r mk t ≠ none := by
  simp only [List.all_eq_true, decide_eq_true_eq, mem_waiters, lanesOf, allLanes, List.mem_filter, List.mem_range]
  exact ⟨fun h t ht hm => (h t ⟨ht, hm⟩).2, fun h t ht => ⟨ht.1, h t ht.1 ht.2⟩⟩

theorem releaseMask_kept {r : GRegs} {mk : Nat} (h : (∀ t, t < 32 → waitsOn r mk t = none)
    ∨ ∃ t, t < 32 ∧ (maskReg r mk).getLsbD t = true ∧ waitsOn r mk t = none) : releaseMask r mk = r := by
  refine if_pos ?_
  rw [Bool.or_eq_true]
  refine h.imp (fun hnone => ?_) fun ⟨t, ht, hm, hw⟩ => ?_
  · exact List.isEmpty_iff.2 (List.eq_nil_iff_forall_not_mem.2 fun t ht => (mem_waiters.1 ht).2 (hnone t (mem_waiters.1 ht).1))
  · rw [Bool.not_eq_true', ← Bool.not_eq_true]
    exact fun hall => (members_wait_iff r mk).1 hall t ht hm hw

/-- The waiters run, past their wait. -/
def woken (r : GRegs) (mk : Nat) : GRegs :=
  setPcs (setThr r (waiters r mk) .run) ((waiters r mk).map (fun t => (t, sget 0 r.pc t + 4)))

theorem releaseMask_released {r : GRegs} {mk : Nat} (hsome : ∃ t, t < 32 ∧ waitsOn r mk t ≠ none)
    (hall : ∀ t, t < 32 → (maskReg r mk).getLsbD t = true → waitsOn r mk t ≠ none) :
    releaseMask r mk = if (waiters r mk).any (fun t => waitsOn r mk t == some true) then setMask (woken r mk) mk 0 else woken r mk := by
  obtain ⟨t, ht⟩ := hsome
  have hempty : (waiters r mk).isEmpty = false := List.isEmpty_eq_false_iff_exists_mem.2 ⟨t, mem_waiters.2 ht⟩
  refine if_neg ?_
  rw [Bool.or_eq_true, not_or, Bool.not_eq_true', Bool.not_eq_false]
  exact ⟨by rw [show List.filter _ allLanes = waiters r mk from rfl, hempty]; simp, (members_wait_iff r mk).2 hall⟩

theorem thr_woken (r : GRegs) (mk : Nat) {t : Nat} (ht : t < 32) :
    sget .run (woken r mk).thr t = if waitsOn r mk t = none then sget .run r.thr t else .run := by
  show sget .run (ssetAll .run r.thr ((waiters r mk).map fun t => (t, .run))) t = _
  split
  · next h => exact sget_ssetAll_of_notMem _ _ _ _ (by simpa using fun hm => (mem_waiters.1 hm).2 h)
  · next h => exact sget_ssetAll_map _ _ id _ _ _ (fun _ _ e => e) (mem_waiters.2 ⟨ht, h⟩)

theorem pc_woken (r : GRegs) (mk : Nat) {t : Nat} (ht : t < 32) :
    sget 0 (woken r mk).pc t = if waitsOn r mk t = none then sget 0 r.pc t else sget 0 r.pc t + 4 := by
  show sget 0 (ssetAll 0 r.pc ((waiters r mk).map fun t => (t, sget 0 r.pc t + 4))) t = _
  split
  · next h => exact sget_ssetAll_of_notMem _ _ _ _ (by simpa using fun hm => (mem_waiters.1 hm).2 h)
  · next h => exact sget_ssetAll_map _ _ id _ _ _ (fun _ _ e => e) (mem_waiters.2 ⟨ht, h⟩)

/-- Whether a waiter is at an MSYNC does not depend on whether one looks among the waiters or all lanes. -/
theorem any_sync_waiters (r : GRegs) (mk : Nat) :
    (waiters r mk).any (fun t => waitsOn r mk t == some true) = allLanes.any (fun t => waitsOn r mk t == some true) := by
  rw [Bool.eq_iff_iff]
  simp only [List.any_eq_true, waiters, List.mem_filter, beq_iff_eq]
  exact ⟨fun ⟨t, ht, hw⟩ => ⟨t, ht.1, hw⟩, fun ⟨t, ht, hw⟩ => ⟨t, ⟨ht, by rw [hw]; rfl⟩, hw⟩⟩

/-- Settles O10: each instruction's own case, and the release is `woken`, with the mask cleared where an MSYNC waits. -/
theorem maskInstructionsAndRelease : Obligations.MaskInstructionsAndRelease := by
  unfold Obligations.MaskInstructionsAndRelease
  refine ⟨fun s d a h => ⟨fun hd => ⟨exec_mjoin h hd, exec_mleave h hd, exec_mset h hd⟩, exec_mget h, exec_mact h, ?_⟩,
    fun r mk _ => ⟨?_, ?_⟩⟩
  · intro hd sync
    cases sync <;> exact issue_ok h (maskWait_run h hd _)
  · intro hkept
    refine releaseMask_kept (hkept.imp (fun hnone t ht => ?_) fun ⟨t, ht, hm, hw⟩ => ⟨t, ht, hm, ?_⟩)
    · exact not_not.1 (hnone t ht)
    · exact not_not.1 hw
  · intro hsome hall
    have hr := releaseMask_released hsome hall
    rw [any_sync_waiters] at hr
    rw [hr]
    split
    · exact ⟨fun t => thr_woken r mk, fun t => pc_woken r mk, by simp [maskReg, setMask]⟩
    · exact ⟨fun t => thr_woken r mk, fun t => pc_woken r mk, rfl⟩

end Sys2Proof.Proofs

/-! # Calls and returns (R147, R154 to R157)

A write of the return stack is buffered in the open chunk (`Stacked`); a call leaves its entry there (`Called`), and RET takes each thread out of
its newest one. -/

namespace Sys2Proof.Proofs

open Sys2Proof Sys2Proof.Machine Sys2Proof.Laws Sys2Proof.Claims

/-! ### Little-endian numbers (R9) -/

theorem length_bytesOf (n v : Nat) : (bytesOf n v).length = n := by
  induction n generalizing v with
  | zero => rfl
  | succ n ih => simp [bytesOf, ih]

theorem natOfBytes_bytesOf (n : Nat) {v : Nat} (h : v < 256 ^ n) : natOfBytes (bytesOf n v) = v := by
  induction n generalizing v with
  | zero => simp only [pow_zero, Nat.lt_one_iff] at h; simp [bytesOf, natOfBytes, h]
  | succ n ih =>
    have hlow : v / 256 < 256 ^ n := Nat.div_lt_of_lt_mul (by rw [pow_succ, Nat.mul_comm] at h; exact h)
    simp only [bytesOf, natOfBytes, ih hlow, BitVec.toNat_ofNat]
    omega

/-! ### The return stack as its group sees it (R154) -/

theorem latest_bytesAt (bs : List Byte) (a p : Nat) : latest (bytesAt a bs) p = if a ≤ p then bs[p - a]? else none := by
  induction bs generalizing a with
  | nil => simp [bytesAt, latest]
  | cons b bs ih =>
    rw [bytesAt, latest_cons, ih]
    by_cases hp : p = a
    · simp [hp]
    · by_cases hle : a ≤ p
      · simp [hp, hle, show a + 1 ≤ p by omega, show p - a = p - (a + 1) + 1 by omega]
      · simp [hp, hle, show ¬ a + 1 ≤ p by omega]

theorem length_bytesAt_keys (bs : List Byte) (a : Nat) : ∀ e ∈ bytesAt a bs, a ≤ e.1 ∧ e.1 < a + bs.length := by
  induction bs generalizing a with
  | nil => simp [bytesAt]
  | cons b bs ih =>
    intro e he
    rcases List.mem_cons.1 he with rfl | he
    · simp
    · have := ih (a + 1) e he
      simp only [List.length_cons]
      omega

/-- A view of the return stack over bytes that the open chunk has newly buffered. -/
theorem viewStack_buffered {s t : State} {g h : Group} (kvs : List (Nat × Byte)) (hwk : h.open_.wk = putBytes kvs g.open_.wk)
    (hdone : h.done = g.done) (hmem : t.mem = s.mem) (a : Nat) : viewStack t h a = (latest kvs a).getD (viewStack s g a) := by
  have hfirst : ∀ k ks, firstByte (·.wk) a (k :: ks) = (sget none k.wk a).or (firstByte (·.wk) a ks) := fun k ks => by
    show (match sget none k.wk a with
      | some b => some b
      | none => firstByte (·.wk) a ks) = _
    cases sget none k.wk a <;> rfl
  unfold viewStack chunksOf
  rw [hfirst, hfirst, hwk, sget_putBytes, hdone, Option.or_assoc]
  unfold memByte
  rw [hmem]
  cases latest kvs a <;> rfl

/-- The number that some bytes of a view make. -/
theorem viewStackNat_eq {s : State} {g : Group} {pa : Nat} {bs : List Byte} (h : ∀ i, (hi : i < bs.length) → viewStack s g (pa + i) = bs[i]) :
    viewStackNat s g pa bs.length = natOfBytes bs := by
  unfold viewStackNat
  congr 1
  exact List.ext_getElem (by simp) fun i hi hi' => by simp [h i hi']

/-! ### Writes of the return stack (R154, R215) -/

/-- A span of at most 128 bytes lies in two lines. -/
theorem stkLineKey_span {a p : Nat} (hle : a ≤ p) (hlt : p < a + 128) : stkLineKey p = stkLineKey a ∨ stkLineKey p = stkLineKey a + 1 := by
  unfold stkLineKey
  omega

/-- Bytes of the return stack are buffered in the open chunk; the other bytes that the group sees, its ended chunks and its registers are as
they were. -/
structure Stacked (kvs : List (Nat × Byte)) (y x : State) : Prop where
  own : OwnGroup y x
  wk : (curGroup x).open_.wk = putBytes kvs (curGroup y).open_.wk
  wr : (curGroup x).open_.wr = (curGroup y).open_.wr
  done : (curGroup x).done = (curGroup y).done
  regs : (curGroup x).r = (curGroup y).r

/-- Bytes of the return stack whose lines have room in the chunk are buffered there, and that is all. -/
theorem putStack_run {y : State} {kvs : List (Nat × Byte)} {ks : List Nat} (h : issuing y = true) (hkeys : ∀ e ∈ kvs, stkLineKey e.1 ∈ ks)
    (hroom : (curGroup y).open_.slots = 0 ∨ (curGroup y).open_.lines.length + ks.length ≤ 48) :
    ∃ x, putStack kvs y = .ok ((), x) ∧ Stacked kvs y x := by
  let ls := ((kvs.map (fun e => stkLineKey e.1)).filter (fun l => !(decide (l ∈ (curGroup y).open_.lines)))).dedup ++ (curGroup y).open_.lines
  have hfit : (decide (48 < ls.length) && decide ((curGroup y).open_.slots ≠ 0)) = false := by
    have hnew : ((kvs.map (fun e => stkLineKey e.1)).filter (fun l => !(decide (l ∈ (curGroup y).open_.lines)))).dedup.length ≤ ks.length := by
      refine (List.nodup_dedup _).length_le_of_subset fun l hl => ?_
      obtain ⟨e, he, rfl⟩ := List.mem_map.1 (List.mem_of_mem_filter (List.mem_dedup.1 hl))
      exact hkeys e he
    simp only [Bool.and_eq_false_iff, decide_eq_false_iff_not, ls, List.length_append]
    omega
  have henter : enterWrites (kvs.map (fun e => stkLineKey e.1)) [] [] y = .ok ((), modCur y (fun g => { g with open_ := { g.open_ with
      lines := ls, glines := (curGroup y).open_.glines, wsig := (curGroup y).open_.wsig } })) := by
    have hgate : gateLive y true [] = none := by simp [gateLive]
    unfold enterWrites
    dsimp only
    rw [if_neg (by rw [hfit]; simp), if_neg (by simp), if_neg (by simp), hgate]
    rfl
  unfold putStack
  rw [bind_ok henter, modK_run]
  refine ⟨_, rfl, (OwnGroup.modCur y _).trans (OwnGroup.withChunk _ _), ?_, ?_, ?_, ?_⟩ <;>
    rw [withChunk, curGroup_modCur _ ((issuing_modCur ..).trans h), curGroup_modCur _ h]
  rfl

/-! ### Calls (R147, R155, R156) -/

/-- The bytes of an entry that a call writes. -/
def entryBytes (s : State) : List (Nat × Byte) :=
  bytesAt ((curGroup s).rsbase + 128 * (curGroup s).r.rsp) (callEntry (s.cur.pc + 4) (maskOf s.cur.lanes))

theorem length_callEntry (ret : PC) (mask : Word) : (callEntry ret mask).length = 128 := by
  simp only [callEntry, List.length_append, length_bytesOf]

/-- What a call leaves, before it goes to its target: one more entry, buffered, and RSP above it. -/
structure Called (s x : State) : Prop where
  own : OwnGroup (entered 4 s) x
  wk : (curGroup x).open_.wk = putBytes (entryBytes s) (curGroup (entered 4 s)).open_.wk
  wr : (curGroup x).open_.wr = (curGroup (entered 4 s)).open_.wr
  done : (curGroup x).done = (curGroup (entered 4 s)).done
  rsp : (curGroup x).r.rsp = (curGroup s).r.rsp + 1

theorem rsp_entered (n : Nat) {s : State} (h : issuing s = true) : (curGroup (entered n s)).r.rsp = (curGroup s).r.rsp := by
  rw [entered_r n h]

section
variable {s : State} (h : issuing s = true)
include h

/-- A call with room on the stack and in its chunk pushes its entry. -/
theorem pushCall_run (hrsp : (curGroup s).r.rsp < (curGroup s).rsl)
    (hroom : (curGroup (entered 4 s)).open_.slots = 0 ∨ (curGroup (entered 4 s)).open_.lines.length + 2 ≤ 48) :
    ∃ x, pushCall s.cur.lanes (s.cur.pc + 4) (entered 4 s) = .ok ((), x) ∧ Called s x := by
  have hbase : (curGroup (entered 4 s)).rsbase = (curGroup s).rsbase := entered_field 4 h _ fun _ _ _ _ _ _ _ _ _ => rfl
  have hlimit : (curGroup (entered 4 s)).rsl = (curGroup s).rsl := entered_field 4 h _ fun _ _ _ _ _ _ _ _ _ => rfl
  let a := (curGroup s).rsbase + 128 * (curGroup s).r.rsp
  have hkeys : ∀ e ∈ entryBytes s, stkLineKey e.1 ∈ [stkLineKey a, stkLineKey a + 1] := fun e he => by
    have hspan := length_bytesAt_keys _ _ e he
    rw [length_callEntry] at hspan
    simpa using stkLineKey_span hspan.1 hspan.2
  obtain ⟨x, hx, hst⟩ := putStack_run (issuing_entered 4 h) hkeys hroom
  have hgroup := curGroup_withRegs (fun r => { r with rsp := r.rsp + 1 }) (hst.own.issuing.trans (issuing_entered 4 h))
  unfold pushCall
  rw [bind_ok (getG_run ..), if_neg (by rw [hlimit, rsp_entered 4 h]; omega), hbase, rsp_entered 4 h]
  refine ⟨_, (bind_ok hx).trans (modR_run ..), hst.own.trans (OwnGroup.withRegs x _), ?_, ?_, ?_, ?_⟩ <;> rw [hgroup]
  · exact hst.wk
  · exact hst.wr
  · exact hst.done
  · rw [← rsp_entered 4 h, ← hst.regs]

theorem exec_call_of_push (i : BitVec 21) {x : State} (hx : pushCall s.cur.lanes (s.cur.pc + 4) (entered 4 s) = .ok ((), x)) :
    exec (.call i) s = .next (finish s (goTo x s.cur.lanes (fun _ => relativeTo s i))) :=
  issue_ok h (by
    rw [bind_ok (execLanes_unprefixed 4 h), bind_ok (thisPc_entered 4 s), bind_ok hx, branchIf_run, relTarget_eq,
      List.filter_eq_self.2 fun _ _ => rfl])

omit h in
theorem targets_run {a : Code} (ha : okPair s a = true)
    (hall : ∀ t ∈ s.cur.lanes, (pairVal (entered 4 s) a t).toNat % 4 = 0 ∧ canonical (pairVal (entered 4 s) a t) = true) :
    targets a s.cur.lanes (entered 4 s) = .ok (fun t => pairVal (entered 4 s) a t, entered 4 s) := by
  have hnone : s.cur.lanes.find? (fun t => (targetFault (pairVal (entered 4 s) a t)).isSome) = none :=
    List.find?_eq_none.2 fun t ht => by rw [targetFault_eq_none (hall t ht).1 (hall t ht).2]; simp
  unfold targets
  rw [bind_ok (readPair_run _ _ (okPair_code ha)), hnone]
  rfl

theorem checkPair_entered (n : Nat) {a : Code} (ha : okPair s a = true) : checkOps [.pair a] (entered n s) = .ok ((), entered n s) :=
  checkOps_ok _ _ fun o ho => by rw [List.mem_singleton.1 ho]; exact opnd_pair (by simpa [h] using ha)

theorem exec_callr_of_push {a : Code} (ha : okPair s a = true)
    (hall : ∀ t ∈ s.cur.lanes, (pairVal (entered 4 s) a t).toNat % 4 = 0 ∧ canonical (pairVal (entered 4 s) a t) = true)
    {x : State} (hx : pushCall s.cur.lanes (s.cur.pc + 4) (entered 4 s) = .ok ((), x)) :
    exec (.callr a) s = .next (finish s (goTo x s.cur.lanes (fun t => (pairVal (entered 4 s) a t).setWidth 57))) := by
  refine issue_ok h ?_
  rw [bind_ok (checkPair_entered h 4 ha), bind_ok (execLanes_unprefixed 4 h), bind_ok (targets_run ha hall),
    bind_ok (thisPc_entered 4 s), bind_ok hx]
  unfold jumpTo goTo
  rw [modR_run]
  simp only [BitVec.setWidth_eq_extractLsb' (show 57 ≤ 64 by decide)]

end

theorem pcOf_goTo {x : State} (h : issuing x = true) (lanes : List Nat) (f : Nat → PC) {t : Nat} (ht : t ∈ lanes) :
    pcOf (goTo x lanes f) t = f t := by
  unfold pcOf goTo
  rw [curGroup_withRegs _ h]
  exact sget_ssetAll_map 0 _ id _ _ _ (fun _ _ e => e) ht

theorem goTo_open {x : State} (h : issuing x = true) (lanes : List Nat) (f : Nat → PC) :
    (curGroup (goTo x lanes f)).open_ = (curGroup x).open_ := by
  rw [goTo, curGroup_withRegs _ h]

theorem goTo_done {x : State} (h : issuing x = true) (lanes : List Nat) (f : Nat → PC) :
    (curGroup (goTo x lanes f)).done = (curGroup x).done := by
  rw [goTo, curGroup_withRegs _ h]

theorem goTo_rsp {x : State} (h : issuing x = true) (lanes : List Nat) (f : Nat → PC) :
    (curGroup (goTo x lanes f)).r.rsp = (curGroup x).r.rsp := by
  rw [goTo, curGroup_withRegs _ h]
  rfl

theorem OwnGroup.goTo (x : State) (lanes : List Nat) (f : Nat → PC) : OwnGroup x (goTo x lanes f) := OwnGroup.withRegs x _

namespace Called

variable {s x : State} (h : issuing s = true) (hx : Called s x)
include h hx

theorem stands : issuing x = true := hx.own.issuing.trans (issuing_entered 4 h)

/-- The return stack over the entry, once the threads have gone to their targets. -/
theorem viewStack_goTo (f : Nat → PC) (a : Nat) : viewStack (goTo x s.cur.lanes f) (curGroup (goTo x s.cur.lanes f)) a
    = (latest (entryBytes s) a).getD (viewStack (entered 4 s) (curGroup (entered 4 s)) a) := by
  have hi := hx.stands h
  exact viewStack_buffered (entryBytes s) (by rw [goTo_open hi]; exact hx.wk) (by rw [goTo_done hi]; exact hx.done)
    ((OwnGroup.goTo x _ f).mem.trans hx.own.mem) a

theorem viewStack_entry (f : Nat → PC) {i : Nat} (hi : i < 128) : viewStack (goTo x s.cur.lanes f) (curGroup (goTo x s.cur.lanes f))
    ((curGroup s).rsbase + 128 * (curGroup s).r.rsp + i)
      = (callEntry (s.cur.pc + 4) (maskOf s.cur.lanes))[i]'(by rw [length_callEntry]; exact hi) := by
  rw [hx.viewStack_goTo h, entryBytes, latest_bytesAt, if_pos (Nat.le_add_right ..), Nat.add_sub_cancel_left,
    List.getElem?_eq_getElem (by rw [length_callEntry]; exact hi)]
  rfl

theorem rsp_goTo (f : Nat → PC) : (curGroup (goTo x s.cur.lanes f)).r.rsp = (curGroup s).r.rsp + 1 := by
  rw [goTo_rsp (hx.stands h), hx.rsp]

theorem ret_goTo (f : Nat → PC) : viewStackNat (goTo x s.cur.lanes f) (curGroup (goTo x s.cur.lanes f))
    ((curGroup s).rsbase + 128 * (curGroup s).r.rsp) 8 = (s.cur.pc + 4).toNat := by
  have hbytes := viewStackNat_eq (bs := bytesOf 8 (s.cur.pc + 4).toNat) fun i hi => by
    rw [length_bytesOf] at hi
    rw [hx.viewStack_entry h f (show i < 128 by omega)]
    simp only [callEntry, List.append_assoc]
    exact List.getElem_append_left (by rw [length_bytesOf]; exact hi)
  rw [length_bytesOf] at hbytes
  rw [hbytes, natOfBytes_bytesOf 8 (by have := (s.cur.pc + 4).isLt; omega)]

theorem mask_goTo (f : Nat → PC) : viewStackNat (goTo x s.cur.lanes f) (curGroup (goTo x s.cur.lanes f))
    ((curGroup s).rsbase + 128 * (curGroup s).r.rsp + 8) 4 = (maskOf s.cur.lanes).toNat := by
  have hbytes := viewStackNat_eq (bs := bytesOf 4 (maskOf s.cur.lanes).toNat) fun i hi => by
    rw [length_bytesOf] at hi
    rw [Nat.add_assoc, hx.viewStack_entry h f (show 8 + i < 128 by omega)]
    simp only [callEntry, List.append_assoc]
    rw [List.getElem_append_right (by rw [length_bytesOf]; omega), List.getElem_append_left (by simp only [length_bytesOf]; omega)]
    simp only [length_bytesOf, Nat.add_sub_cancel_left]
  rw [length_bytesOf] at hbytes
  rw [hbytes, natOfBytes_bytesOf 4 (by have := (maskOf s.cur.lanes).isLt; omega)]

theorem viewStack_elsewhere (f : Nat → PC) {a : Nat} (ha : a < (curGroup s).rsbase + 128 * (curGroup s).r.rsp
    ∨ (curGroup s).rsbase + 128 * ((curGroup s).r.rsp + 1) ≤ a) :
    viewStack (goTo x s.cur.lanes f) (curGroup (goTo x s.cur.lanes f)) a = viewStack (entered 4 s) (curGroup (entered 4 s)) a := by
  rw [hx.viewStack_goTo h, entryBytes, latest_bytesAt]
  split
  · rw [List.getElem?_eq_none (by rw [length_callEntry]; omega)]
    rfl
  · rfl

theorem seen_goTo (f : Nat → PC) (a : Nat) : seen (goTo x s.cur.lanes f) a = seen (entered 4 s) a := by
  have hi := hx.stands h
  have hown := hx.own.trans (OwnGroup.goTo x s.cur.lanes f)
  exact viewByte_congr (by rw [goTo_open hi]; exact hx.wr) (by rw [goTo_done hi]; exact hx.done) hown.mem hown.extPend a

end Called

/-! ### RET (R157) -/

/-- The bytes that RET writes: the masks of the entries that lose a thread. -/
def clearedBytes (base : Nat) (es es' : List CallEntry) : List (Nat × Byte) :=
  ((es.zip es').filter (fun p => decide (p.1.mask ≠ p.2.mask))).flatMap (fun p => bytesAt (base + 128 * p.2.line + 8) (bytesOf 4 p.2.mask.toNat))

/-- Each entry that loses a thread lies in two lines of the stack. -/
theorem clearedBytes_keys (base : Nat) (es es' : List CallEntry) : ∃ ks : List Nat, ks.length ≤ 2 * es.length
    ∧ ∀ e ∈ clearedBytes base es es', stkLineKey e.1 ∈ ks := by
  let key := fun (p : CallEntry × CallEntry) => stkLineKey (base + 128 * p.2.line + 8)
  refine ⟨((es.zip es').filter (fun p => decide (p.1.mask ≠ p.2.mask))).flatMap (fun p => [key p, key p + 1]), ?_, fun e he => ?_⟩
  · have hfew : ((es.zip es').filter (fun p => decide (p.1.mask ≠ p.2.mask))).length ≤ es.length :=
      (List.length_filter_le ..).trans (by rw [List.length_zip]; exact Nat.min_le_left ..)
    simp only [List.length_flatMap, List.length_cons, List.length_nil, List.map_const', List.sum_replicate, smul_eq_mul]
    omega
  · obtain ⟨p, hp, he⟩ := List.mem_flatMap.1 he
    have hspan := length_bytesAt_keys _ _ e he
    rw [length_bytesOf] at hspan
    refine List.mem_flatMap.2 ⟨p, hp, ?_⟩
    simpa using stkLineKey_span hspan.1 (by omega)

theorem exec_ret {s : State} (h : issuing s = true)
    (hall : ∀ t ∈ s.cur.lanes, (entryFor (callEntries (entered 4 s) (curGroup (entered 4 s))) t).isSome = true)
    (hroom : (curGroup (entered 4 s)).open_.slots = 0 ∨ (curGroup (entered 4 s)).open_.lines.length
      + 2 * (callEntries (entered 4 s) (curGroup (entered 4 s))).length ≤ 48) :
    ∃ x, exec .ret s = .next (finish s x)
      ∧ (∀ t ∈ s.cur.lanes, some (pcOf x t) = (entryFor (callEntries (entered 4 s) (curGroup (entered 4 s))) t).map (·.ret))
      ∧ (curGroup x).r.rsp = popEmpty (curGroup s).r.rsp (clearReturns (callEntries (entered 4 s) (curGroup (entered 4 s))) s.cur.lanes)
      ∧ x.mem = s.mem := by
  generalize hes : callEntries (entered 4 s) (curGroup (entered 4 s)) = es at *
  let retOf := fun (t : Nat) => ((entryFor es t).map (·.ret)).getD 0
  have hret : ∀ t ∈ s.cur.lanes, (entryFor es t).map (·.ret) = some (retOf t) := fun t ht => by
    obtain ⟨e, he⟩ := Option.isSome_iff_exists.1 (hall t ht)
    simp [retOf, he]
  have hpcs : s.cur.lanes.filterMap (fun t => (entryFor es t).map (fun e => (t, e.ret))) = s.cur.lanes.map (fun t => (t, retOf t)) := by
    rw [← List.filterMap_eq_map]
    refine List.filterMap_congr fun t ht => ?_
    have := congrArg (Option.map (Prod.mk t)) (hret t ht)
    simpa [Function.comp_def] using this
  have hnone : s.cur.lanes.find? (fun t => (entryFor es t).isNone) = none :=
    List.find?_eq_none.2 fun t ht => by simp [Option.isSome_iff_ne_none.1 (hall t ht)]
  obtain ⟨ks, hlen, hkeys⟩ := clearedBytes_keys (curGroup (entered 4 s)).rsbase es (clearReturns es s.cur.lanes)
  obtain ⟨x, hx, hst⟩ := putStack_run (issuing_entered 4 h) hkeys (hroom.imp id (by omega))
  have hxi : issuing x = true := hst.own.issuing.trans (issuing_entered 4 h)
  refine ⟨_, issue_ok h (t := withRegs x (fun r => { setPcs r (s.cur.lanes.map (fun t => (t, retOf t))) with
    rsp := popEmpty r.rsp (clearReturns es s.cur.lanes) })) ?_, fun t ht => ?_, ?_, ?_⟩
  · unfold retM
    rw [bind_ok (execLanes_unprefixed 4 h), bind_ok (getG_run ..), bind_ok (getS_run ..), hes, hnone]
    rw [← hpcs]
    exact (bind_ok hx).trans (modR_run ..)
  · rw [hret t ht, pcOf, curGroup_withRegs _ hxi]
    exact congrArg some (sget_ssetAll_map 0 _ id _ _ _ (fun _ _ e => e) ht)
  · rw [curGroup_withRegs _ hxi, ← rsp_entered 4 h, ← hst.regs]
  · exact ((OwnGroup.withRegs x _).mem.trans hst.own.mem).trans (mem_entered 4 s)

/-- Settles O9: a call leaves what `Called` says and goes to its target; RET is the case above. -/
theorem callsAndReturns : Obligations.CallsAndReturns := by
  unfold Obligations.CallsAndReturns
  refine ⟨fun s h _ => ?_, fun s h => exec_ret h⟩
  intro s0 g hrsp hroom i target hi
  obtain ⟨x, hpush, hx⟩ := pushCall_run h hrsp hroom
  have hexec : exec i s = .next (finish s (goTo x s.cur.lanes target)) := by
    obtain ⟨imm, rfl, rfl⟩ | ⟨a, rfl, ha, hall, rfl⟩ := hi
    · exact exec_call_of_push h imm hpush
    · exact exec_callr_of_push h ha hall hpush
  exact ⟨_, hexec, hx.rsp_goTo h target, fun t ht => pcOf_goTo (hx.stands h) _ target ht, hx.ret_goTo h target, hx.mask_goTo h target,
    fun a ha => hx.viewStack_elsewhere h target ha, hx.seen_goTo h target,
    ((OwnGroup.goTo x _ target).mem.trans hx.own.mem).trans (mem_entered 4 s)⟩

end Sys2Proof.Proofs

/-! # Chunk and window instructions (R162, R163, R165, R166)

Each instruction's own case; CKIRR alone completes outside the frame of the others (`enterIrr`). -/

namespace Sys2Proof.Proofs

open Sys2Proof Sys2Proof.Machine Sys2Proof.Laws Sys2Proof.Claims

/-! ### CKEND, CKSTAT and WBASE (R162, R165) -/

section
variable {s : State} {d a : Code} (h : issuing s = true)
include h

theorem exec_ckend : ∃ x, exec .ckend s = .next (finish s x) ∧ (curGroup x).irr = false ∧ (curGroup x).r = (curGroup (entered 4 s)).r
    ∧ (curGroup x).open_.effects = (curGroup (entered 4 s)).open_.effects
    ∧ ((curGroup s).open_.slots ≠ 0 → (curGroup x).open_.ending = true) := by
  have hentered := issuing_entered 4 h
  let y := modCur (entered 4 s) (fun g => { g with irr := false })
  have hy : issuing y = true := (issuing_modCur ..).trans hentered
  have hgroup : curGroup y = { curGroup (entered 4 s) with irr := false } := curGroup_modCur _ hentered
  by_cases hopen : (curGroup s).open_.slots = 0
  · refine ⟨_, issue_ok h (t := withChunk y fun k => { k with irr := k.irr && (curGroup (entered 4 s)).fmode }) ?_, ?_⟩
    · unfold ckendM
      rw [bind_ok (getG_run ..), bind_ok (modG_run ..), if_pos ((slots_entered 4 h).trans hopen), modK_run]
    · rw [withChunk, curGroup_modCur _ hy, hgroup]
      exact ⟨rfl, rfl, rfl, fun hne => absurd hopen hne⟩
  · refine ⟨_, issue_ok h (t := ending y) ?_, ?_⟩
    · unfold ckendM
      rw [bind_ok (getG_run ..), bind_ok (modG_run ..), if_neg (by rw [slots_entered 4 h]; exact hopen)]
      rfl
    · rw [ending, withChunk, curGroup_modCur _ hy, hgroup]
      exact ⟨rfl, rfl, rfl, fun _ => rfl⟩

theorem exec_ckstat (hd : okDst s d = true) : exec (.ckstat d) s
    = .next (finish s (putWord (entered 4 s) d s.cur.lanes [] (fun _ => ckstatWord (curGroup (entered 4 s))))) := by
  refine issue_ok h ?_
  rw [bind_ok (checkDst_entered h 4 hd), bind_ok (execLanes_unprefixed 4 h), bind_ok (getG_run ..), writeDst_plain _ _ _ (okDst_plain hd)]

theorem exec_wbase {i : BitVec 14} (hmul : i.toNat % 16 = 0) (hmax : i.toNat ≤ 240) : exec (.wbase i) s
    = .next (finish s (withRegs (entered 4 s) (fun r => { r with wb := i.toNat }))) := by
  refine issue_ok h ?_
  unfold wbaseM
  rw [decide_eq_true hmul, decide_eq_true hmax, Bool.and_self, bind_ok (ensure_true ..), modR_run]

end

/-! ### CKIRR (R163) -/

section
variable {s : State} {c slot : Nat} {g : Group} (hg : groupAt s c slot = some g)
include hg

theorem endIfBlocked_closed (h : g.open_.slots = 0) (stalled : Bool) : endIfBlocked s c slot stalled = s := by
  unfold endIfBlocked
  rw [hg]
  simp [h]

theorem spendSkid_unhalted (h : g.haltLeft = none) (cks : Word) : spendSkid s c slot cks = s := by
  unfold spendSkid
  rw [hg, Option.bind_some, h]

theorem endRepeat_unhalted (h : g.haltLeft = none) : endRepeat s c slot = modGroup s c slot (fun g => { g with replay := none }) := by
  have hg' : groupAt (modGroup s c slot (fun g => { g with replay := none })) c slot = some { g with replay := none } := by
    rw [groupAt_modGroup, if_pos ⟨rfl, rfl⟩, hg]
    rfl
  unfold endRepeat
  dsimp only
  rw [hg', Option.bind_some, h]

/-- A clk of the group's own turn. -/
theorem groupAt_turn (lanes : List Nat) : groupAt (tickYield (tickGroup (coreCtr s c 0 1) c slot lanes) c slot) c slot
    = some { g with stamp := s.clk + 1, tstamp := ssetAll 0 g.tstamp (lanes.map (·, s.clk + 1)), yieldLeft := g.yieldLeft - 1 } := by
  rw [groupAt_tickYield_self]
  unfold tickGroup
  rw [groupAt_modGroup, if_pos ⟨rfl, rfl⟩, groupAt_of_cores (passTime_cores ..), groupAt_coreCtr, hg, coreCtr_clk]
  rfl

end

/-- The issuing group once CKIRR has let it in. -/
def letIn (pc : PC) (lanes : List Nat) (g : Group) : Group := { g with irr := true, hold := false, r := setPcs g.r (lanes.map (·, pc + 4)) }

/-- The state in which CKIRR's clk has passed. -/
def irrEntered (s : State) : State :=
  let t := modCur s (letIn s.cur.pc s.cur.lanes)
  tickYield (tickGroup (coreCtr t s.cur.core 0 1) s.cur.core s.cur.slot t.cur.lanes) s.cur.core s.cur.slot

theorem mem_irrEntered (s : State) : (irrEntered s).mem = s.mem :=
  (modGroup_mem ..).trans ((passTime_mem ..).trans (modCur_mem ..))

theorem cur_irrEntered (s : State) : (irrEntered s).cur = s.cur :=
  (modGroup_cur ..).trans ((passTime_cur ..).trans (modCur_cur ..))

theorem enterIrr_eq (s : State) : enterIrr s = endIfBlocked (if ((groupAt (irrEntered s) s.cur.core s.cur.slot).bind (·.replay)).isSome
      then endRepeat (irrEntered s) s.cur.core s.cur.slot
      else spendSkid (irrEntered s) s.cur.core s.cur.slot (ckstatWord (curGroup s))) s.cur.core s.cur.slot false := rfl

/-- A group at a chunk boundary that neither halts nor must stop goes on in the mode, its repeat over. -/
theorem enterIrr_quiet {s : State} (h : issuing s = true) (hslots : (curGroup s).open_.slots = 0) (hhalt : (curGroup s).haltLeft = none) :
    (enterIrr s).mem = s.mem ∧ (enterIrr s).cur = s.cur
    ∧ ∃ g, groupAt (enterIrr s) s.cur.core s.cur.slot = some g ∧ g.irr = true ∧ g.r = (letIn s.cur.pc s.cur.lanes (curGroup s)).r := by
  have hin : groupAt (modCur s (letIn s.cur.pc s.cur.lanes)) s.cur.core s.cur.slot = some (letIn s.cur.pc s.cur.lanes (curGroup s)) := by
    rw [modCur, groupAt_modGroup, if_pos ⟨rfl, rfl⟩, groupAt_cur_of_issuing h]
    rfl
  have hturn : groupAt (irrEntered s) s.cur.core s.cur.slot = some _ := groupAt_turn hin _
  rw [enterIrr_eq]
  split
  · rw [endRepeat_unhalted hturn hhalt]
    have hover := groupAt_modGroup (irrEntered s) s.cur.core s.cur.slot s.cur.core s.cur.slot (fun g => { g with replay := none })
    rw [if_pos ⟨rfl, rfl⟩, hturn, Option.map_some] at hover
    rw [endIfBlocked_closed hover hslots]
    exact ⟨(modGroup_mem ..).trans (mem_irrEntered s), (modGroup_cur ..).trans (cur_irrEntered s), _, hover, rfl, rfl⟩
  · rw [spendSkid_unhalted hturn hhalt, endIfBlocked_closed hturn hslots]
    exact ⟨mem_irrEntered s, cur_irrEntered s, _, hturn, rfl, rfl⟩

theorem exec_ckirr {s : State} (h : issuing s = true) (hquiet : quiet (curGroup s) = true) (hother : otherPri s s.cur.core s.cur.slot = false)
    (hhalt : (curGroup s).haltLeft = none) :
    ∃ t, exec .ckirr s = .next t ∧ (curGroup t).irr = true ∧ (∀ u ∈ s.cur.lanes, pcOf t u = s.cur.pc + 4) ∧ t.mem = s.mem := by
  have hslots : (curGroup s).open_.slots = 0 := by
    simp only [quiet, Bool.and_eq_true, decide_eq_true_eq] at hquiet
    exact hquiet.1
  obtain ⟨hmem, hcur, g, hg, hirr, hr⟩ := enterIrr_quiet h hslots hhalt
  have hgroup : curGroup (enterIrr s) = g := by rw [curGroup, hcur, hg]; rfl
  refine ⟨enterIrr s, ?_, by rw [hgroup, hirr], fun u hu => ?_, hmem⟩
  · show execCkirr s = _
    unfold execCkirr
    rw [groupAt_cur_of_issuing h]
    simp [hquiet, hother]
  · rw [pcOf, hgroup, hr]
    exact sget_ssetAll_map 0 _ id _ _ _ (fun _ _ e => e) hu

/-! ### WGROW (R166) -/

/-- A register that every executing thread has been given the same word reads that word. -/
theorem srcVal_putWord_const {y : State} (h : issuing y = true) {d : Code} (ex : List Nat) (v : Word) {t : Nat} (ht : t ∈ ex)
    (hd : d.toNat ≤ 111) : srcVal (putWord y d ex [] (fun _ => v)) d t = v := by
  rw [srcVal_putWord _ _ _ _ h hd hd]
  by_cases hv : d.toNat ≤ 95
  · rw [readVK_writeVK_vector _ _ hv (by simp), if_pos ht]
  · rw [readVK_writeVK_scalar _ _ (by omega) hd]
    cases ex with
    | nil => exact absurd ht List.not_mem_nil
    | cons u us => rfl

theorem putWord_own (y : State) (d : Code) (ex zl : List Nat) (f : Nat → Word) : OwnGroup y (putWord y d ex zl f) := by
  unfold putWord
  split
  · exact .refl y
  · exact .withRegs y _

theorem a_putWord {y : State} (h : issuing y = true) (d : Code) (ex zl : List Nat) (f : Nat → Word) :
    (curGroup (putWord y d ex zl f)).a = (curGroup y).a := by
  unfold putWord
  split
  · rfl
  · rw [curGroup_withRegs _ h]

section
variable {s : State} {d a : Code} (h : issuing s = true) (hd : okDst s d = true) (ha : okSrc s a = true)
include h hd ha

/-- WGROW once its operands are checked and its request, a legal number of registers, is read. -/
theorem wgrow_request {n : Nat} (hlanes : s.cur.lanes ≠ []) (hn : (srcVal (entered 4 s) a (s.cur.lanes.headD 0)).toNat = n)
    (hlegal : n % 16 = 0 ∧ 32 ≤ n ∧ n ≤ 256) : ∃ y, y = srcStep (entered 4 s) s.cur.lanes a ∧ issuing y = true ∧ y.mem = s.mem
      ∧ (curGroup y).a = (curGroup s).a
      ∧ (n ≤ (curGroup y).a → wgrowM d a (entered 4 s) = writeDst d s.cur.lanes [] (fun _ => BitVec.ofNat 32 (curGroup y).a) y)
      ∧ ((curGroup y).a < n → wgrowM d a (entered 4 s)
          = (if regsUsed (coreAt y y.cur.core) + (n - (curGroup y).a) ≤ 4096 ∧ (takeFree y).1 % 2 = 0
              then (modG (fun g => { g with a := n, grownFrom := some (g.grownFrom.getD g.a) }) >>= fun _ =>
                writeDst d s.cur.lanes [] (fun _ => BitVec.ofNat 32 n))
              else writeDst d s.cur.lanes [] (fun _ => 0)) (takeFree y).2) := by
  obtain ⟨x, hx, hrun⟩ := readSrc_unprefixed h 4 ha
  have hcheck : checkOps [.dst d, .src a] (entered 4 s) = .ok ((), entered 4 s) := checkOps_ok _ _ (by
    simp only [List.mem_cons, List.not_mem_nil, or_false, forall_eq_or_imp, forall_eq]
    exact ⟨opnd_dst (by simpa [h] using hd), opnd_src (by simpa [h] using ha)⟩)
  have hlow : (lowest s.cur.lanes x).toNat = n := by rw [lowest_congr hx, lowest_eq_headD _ hlanes, hn]
  have hi := issuing_entered 4 h
  have hown := OwnGroup.srcStep (entered 4 s) s.cur.lanes a
  have hsize : (curGroup (srcStep (entered 4 s) s.cur.lanes a)).a = (curGroup (entered 4 s)).a := by
    unfold srcStep
    split
    · rw [curGroup_withRegs _ hi]
    · rfl
  have hstart : wgrowM d a (entered 4 s) = _ := (bind_ok hcheck).trans (hrun _)
  rw [hlow, bind_ok (getG_run ..), decide_eq_true hlegal.1, decide_eq_true hlegal.2.1, decide_eq_true hlegal.2.2] at hstart
  refine ⟨_, rfl, hown.issuing.trans hi, hown.mem.trans (mem_entered 4 s), hsize.trans (entered_group 4 h).2.1, fun hle => ?_, fun hlt => ?_⟩
  · rw [hstart, Bool.and_self, Bool.and_self, bind_ok (ensure_true ..), if_pos hle]
  · rw [hstart, Bool.and_self, Bool.and_self, bind_ok (ensure_true ..), if_neg (Nat.not_le.2 hlt)]
    rfl
end

/-- Settles O11: CKEND, CKIRR, CKSTAT and WBASE are the cases above; WGROW answers what its group has, or grows it, or answers 0. -/
theorem chunkAndWindowInstructions : Obligations.ChunkAndWindowInstructions := by
  unfold Obligations.ChunkAndWindowInstructions
  intro s d a i h
  refine ⟨exec_ckend h, fun hquiet hother hhalt _ => exec_ckirr h hquiet hother hhalt, exec_ckstat h, exec_wbase h, fun hd ha hlanes => ?_⟩
  intro n hmul hmin hmax
  obtain ⟨y, rfl, hy, hmem, hsize, hsmall, hlarge⟩ := wgrow_request h hd ha hlanes rfl ⟨hmul, hmin, hmax⟩
  rw [hsize] at hsmall hlarge
  refine ⟨fun hle => issue_ok h ((hsmall hle).trans (writeDst_plain _ _ _ (okDst_plain hd))), fun hlt => ?_⟩
  have hrun := hlarge hlt
  generalize srcStep (entered 4 s) s.cur.lanes a = y at *
  have hfree : issuing (takeFree y).2 = true := hy
  split at hrun
  · have hgrown : issuing (modCur (takeFree y).2 (fun g => { g with a := n, grownFrom := some (g.grownFrom.getD g.a) })) = true :=
      (issuing_modCur ..).trans hfree
    rw [bind_ok (modG_run ..), writeDst_plain _ _ _ (okDst_plain hd)] at hrun
    refine ⟨_, issue_ok h hrun, (putWord_own ..).mem.trans ((modCur_mem ..).trans hmem), .inl ⟨?_, fun t ht hreg => ?_⟩⟩
    · rw [a_putWord hgrown, curGroup_modCur _ hfree]
    · exact srcVal_putWord_const hgrown _ _ ht hreg
  · rw [writeDst_plain _ _ _ (okDst_plain hd)] at hrun
    refine ⟨_, issue_ok h hrun, (putWord_own ..).mem.trans hmem, .inr ⟨?_, fun t ht hreg => ?_⟩⟩
    · rw [a_putWord hfree]
      exact hsize
    · exact srcVal_putWord_const hfree _ _ ht hreg

end Sys2Proof.Proofs

/-! # Traps (R171 to R173, R177, R180)

What taking a trap makes of its group, the software traps as faults, and the return by ERET. -/

namespace Sys2Proof.Proofs

open Sys2Proof Sys2Proof.Machine Sys2Proof.Laws Sys2Proof.Claims

/-! ### Taking a trap (R171, R172) -/

/-- The group that has taken a trap. -/
def trapped (lanes : List Nat) (pc : PC) (code : Nat) (imm : BitVec 14) (under : Bool) (addr : Nat) (g : Group) : Group :=
  { g with
    f := { g.f with cause := fcauseWord code imm under, emask := maskOf lanes, epc := pc.signExtend 64
                    addr := BitVec.ofNat 64 addr, inh := true, held := ~~~(maskOf lanes) }
    replay := none
    r := setPcs g.r (lanes.map (·, (g.f.vec &&& ~~~3).extractLsb' 0 57)) }

theorem trapEnter_eq (s : State) (c slot : Nat) (lanes : List Nat) (pc : PC) (code : Nat) (imm : BitVec 14) (under : Bool) (addr : Nat) :
    trapEnter s c slot lanes pc code imm under addr = modGroup s c slot (trapped lanes pc code imm under addr) := rfl

theorem toNat_fcauseWord {code : Nat} (h : code < 256) (imm : BitVec 14) (under : Bool) :
    (fcauseWord code imm under).toNat = code + 2 ^ 8 * imm.toNat + 2 ^ 22 * under.toNat := by
  have himm := imm.isLt
  have hunder := Bool.toNat_le under
  rw [fcauseWord, BitVec.toNat_ofNat, Nat.mod_eq_of_lt (by omega)]

theorem fcauseWord_fields {code : Nat} (h : code < 256) (imm : BitVec 14) (under : Bool) :
    (fcauseWord code imm under).toNat % 2 ^ 8 = code ∧ (fcauseWord code imm under).toNat / 2 ^ 8 % 2 ^ 14 = imm.toNat
    ∧ (fcauseWord code imm under).getLsbD 22 = under ∧ (fcauseWord code imm under).toNat < 2 ^ 23 := by
  have himm := imm.isLt
  have hunder := Bool.toNat_le under
  have hbit : (fcauseWord code imm under).toNat / 2 ^ 22 % 2 = under.toNat := by rw [toNat_fcauseWord h]; omega
  refine ⟨?_, ?_, ?_, ?_⟩
  · rw [toNat_fcauseWord h]; omega
  · rw [toNat_fcauseWord h]; omega
  · rw [← BitVec.testBit_toNat, Nat.testBit_eq_decide_div_mod_eq, hbit]
    cases under <;> rfl
  · rw [toNat_fcauseWord h]; omega

/-- In a trap handler only the threads that trapped are ready (R171). -/
theorem laneReady_trapped {lanes : List Nat} {pc : PC} {code : Nat} {imm : BitVec 14} {under : Bool} {addr : Nat} {g : Group}
    (hf : g.fmode = true) {u : Nat} (hu : u < 32) (h : laneReady (trapped lanes pc code imm under addr g) u = true) : u ∈ lanes := by
  have hheld : (~~~(maskOf lanes)).getLsbD u = false := by
    simp only [laneReady, Bool.and_eq_true, Bool.not_eq_true'] at h
    simpa [trapped, hf] using h.2
  rw [BitVec.getLsbD_not, getLsbD_maskOf] at hheld
  simpa [hu] using hheld

theorem groupAt_trapEnter {s : State} {c slot : Nat} {g : Group} (hg : groupAt s c slot = some g) (lanes : List Nat) (pc : PC) (code : Nat)
    (imm : BitVec 14) (under : Bool) (addr : Nat) :
    groupAt (trapEnter s c slot lanes pc code imm under addr) c slot = some (trapped lanes pc code imm under addr g) := by
  rw [trapEnter_eq, groupAt_modGroup, if_pos ⟨rfl, rfl⟩, hg]
  rfl

theorem groupAt_trapEnter_ne (s : State) {c slot d e : Nat} (h : (d, e) ≠ (c, slot)) (lanes : List Nat) (pc : PC) (code : Nat)
    (imm : BitVec 14) (under : Bool) (addr : Nat) : groupAt (trapEnter s c slot lanes pc code imm under addr) d e = groupAt s d e := by
  rw [trapEnter_eq, groupAt_modGroup, if_neg fun ⟨hd, he⟩ => h (by rw [hd, he])]

/-! ### The fault of an instruction (R3, R171, R177) -/

theorem fw_dropAsker (s : State) (me : Nat × Nat) (q : AtsReq → Bool) : (dropAsker s me q).fw = s.fw := by
  unfold dropAsker
  dsimp only
  split <;> rfl

/-- What the fault of an instruction comes to, for a fault that no engine has reported and that is no uncorrectable line's. -/
theorem stopped_fault (s : State) {fi : FaultInfo} (hengine : fi.engine = false) (hcode : fi.code ≠ fcMemUncorrectable) :
    stopped s (.fault fi) = clkPasses s (faultGroup (spendFree s) s.cur.core s.cur.slot s.cur.lanes s.cur.pc fi) := by
  show takeFault (spendFree s) fi = _
  unfold takeFault
  rw [hengine, if_neg Bool.false_ne_true, if_neg hcode]
  rfl

section
variable {s : State} (h : issuing s = true) (fi : FaultInfo)
include h

/-- In a trap handler it is a fatal error of the device. -/
theorem faultGroup_fatal (hf : (curGroup s).fmode = true) (hinh : (curGroup s).f.inh = true) :
    faultGroup (spendFree s) s.cur.core s.cur.slot s.cur.lanes s.cur.pc fi
      = fatalError (endChunk (answered s fi.addr) s.cur.core s.cur.slot) s.cur.core 2 := by
  have hg : groupAt (spendFree s) s.cur.core s.cur.slot = some (curGroup s) := groupAt_cur_of_issuing h
  unfold faultGroup
  rw [hg]
  dsimp only
  rw [hf, hinh]
  exact if_pos rfl

variable (hsame : sameGroup (atFault s fi.addr) s.cur.core s.cur.slot (curGroup s) = true)
include hsame

/-- Outside trap handlers an F-mode group traps. -/
theorem faultGroup_traps (hf : (curGroup s).fmode = true) (hinh : (curGroup s).f.inh = false) (hdump : s.fw.dumping = none) :
    faultGroup (spendFree s) s.cur.core s.cur.slot s.cur.lanes s.cur.pc fi
      = trapEnter (atFault s fi.addr) s.cur.core s.cur.slot s.cur.lanes s.cur.pc fi.code fi.imm fi.under fi.addr := by
  have hg : groupAt (spendFree s) s.cur.core s.cur.slot = some (curGroup s) := groupAt_cur_of_issuing h
  unfold faultGroup
  rw [hg]
  dsimp only
  rw [fw_dropAsker, spendFree_fw, hf, hinh, hdump]
  refine (if_neg (by simp)).trans ((if_neg ?_).trans (if_pos rfl))
  rw [Bool.not_eq_true', Bool.not_eq_false]
  exact hsame

/-- Outside F-mode the group stops. -/
theorem faultGroup_stops (hf : (curGroup s).fmode = false) :
    faultGroup (spendFree s) s.cur.core s.cur.slot s.cur.lanes s.cur.pc fi
      = stopGroup (atFault s fi.addr) s.cur.core s.cur.slot s.cur.pc fi (ckstatWord (curGroup s)) := by
  have hg : groupAt (spendFree s) s.cur.core s.cur.slot = some (curGroup s) := groupAt_cur_of_issuing h
  unfold faultGroup
  rw [hg]
  dsimp only
  rw [hf]
  refine (if_neg (by simp)).trans ((if_neg ?_).trans (if_neg Bool.false_ne_true))
  rw [Bool.not_eq_true', Bool.not_eq_false]
  exact hsame

end

/-- A software trap's fault: its code is not that of an uncorrectable line. -/
def trapFault (code : Nat) (imm : BitVec 14) (recov : Bool) : FaultInfo := { code := code, imm := imm, recov := recov }

section
variable {s : State} (h : issuing s = true) {code : Nat} (hcode : code ≠ fcMemUncorrectable) (imm : BitVec 14) (recov : Bool)
include h hcode

theorem stopped_trapFault_fmode (hsame : sameGroup (atFault s 0) s.cur.core s.cur.slot (curGroup s) = true) (hf : (curGroup s).fmode = true)
    (hinh : (curGroup s).f.inh = false) (hdump : s.fw.dumping = none) : stopped s (.fault (trapFault code imm recov))
      = clkPasses s (trapEnter (atFault s 0) s.cur.core s.cur.slot s.cur.lanes s.cur.pc code imm false 0) := by
  rw [stopped_fault s (fi := trapFault code imm recov) rfl hcode, faultGroup_traps h (trapFault code imm recov) hsame hf hinh hdump]
  rfl

theorem stopped_trapFault_compute (hsame : sameGroup (atFault s 0) s.cur.core s.cur.slot (curGroup s) = true)
    (hf : (curGroup s).fmode = false) : stopped s (.fault (trapFault code imm recov))
      = clkPasses s (stopGroup (atFault s 0) s.cur.core s.cur.slot s.cur.pc (trapFault code imm recov) (ckstatWord (curGroup s))) := by
  rw [stopped_fault s (fi := trapFault code imm recov) rfl hcode, faultGroup_stops h (trapFault code imm recov) hsame hf]
  rfl

theorem stopped_trapFault_handler (hf : (curGroup s).fmode = true) (hinh : (curGroup s).f.inh = true) :
    stopped s (.fault (trapFault code imm recov))
      = clkPasses s (fatalError (endChunk (answered s 0) s.cur.core s.cur.slot) s.cur.core 2) := by
  rw [stopped_fault s (fi := trapFault code imm recov) rfl hcode, faultGroup_fatal h (trapFault code imm recov) hf hinh]
  rfl

end

/-! ### TRAP, BRK and SYSCALL (R173, R180) -/

section
variable {s : State} (h : issuing s = true)
include h

theorem exec_trap (i : BitVec 14) : exec (.trap i) s
    = .next (stopped s (.fault (trapFault fcTrapSw i (!(curGroup s).fmode)))) := by
  show execTrap i s = _
  unfold execTrap
  refine issue_stop h (x := .fault (trapFault fcTrapSw i (!(curGroup s).fmode))) nofun ?_
  rw [bind_ok (getG_run ..), faultM_run, fmode_entered 4 h]
  rfl

theorem exec_brk : exec .brk s = .next (stopped s (.fault (trapFault fcBreakpoint 0 (!(curGroup s).fmode)))) := by
  show execBrk s = _
  unfold execBrk
  refine issue_stop h (x := .fault (trapFault fcBreakpoint 0 (!(curGroup s).fmode))) nofun ?_
  rw [bind_ok (getG_run ..), faultM_run, fmode_entered 4 h]
  rfl

theorem exec_syscall_fmode (hf : (curGroup s).fmode = true) (i : BitVec 14) : exec (.syscall i) s
    = .next (stopped s (.fault (trapFault fcSyscall i false))) := by
  refine issue_stop h (x := .fault _) nofun ?_
  unfold syscallM
  rw [bind_ok (getG_run ..), fmode_entered 4 h, hf, if_pos rfl, faultM_run]
  rfl

end

/-- Settles O12: a trap makes its group `trapped`; the software traps are faults with their codes, taken as F-mode or its absence has it. -/
theorem trapEntryAndSoftwareTraps : Obligations.TrapEntryAndSoftwareTraps := by
  unfold Obligations.TrapEntryAndSoftwareTraps
  refine ⟨fun s c slot lanes pc code imm under addr g hg hcode haddr => ?entry, fun s i h hf hinh hdump => ?traps, fun s i h hf => ?stops,
    fun s i h hf hinh => ?fatal⟩
  case entry =>
    obtain ⟨hlow, himm, hunder, hlt⟩ := fcauseWord_fields hcode imm under
    refine ⟨_, groupAt_trapEnter hg .., rfl, rfl, hlow, himm, hunder, hlt, ?_, rfl, rfl, rfl, fun u hu => ?_, fun u hu => ?_,
      fun hf u hu => laneReady_trapped hf hu, rfl, modGroup_mem .., fun d e hne => groupAt_trapEnter_ne s hne ..⟩
    · exact (BitVec.toNat_ofNat ..).trans (Nat.mod_eq_of_lt haddr)
    · rw [BitVec.setWidth_eq_extractLsb' (show 57 ≤ 64 by decide)]
      exact sget_ssetAll_map 0 _ id _ _ _ (fun _ _ e => e) hu
    · exact sget_ssetAll_of_notMem _ _ _ _ (by simpa using hu)
  case traps =>
    intro c slot x hsame e he
    simp only [List.mem_cons, List.not_mem_nil, or_false] at he
    rcases he with rfl | rfl | rfl
    · rw [exec_trap h]
      exact congrArg _ (stopped_trapFault_fmode h (by decide) i _ hsame hf hinh hdump)
    · rw [exec_brk h]
      exact congrArg _ (stopped_trapFault_fmode h (by decide) 0 _ hsame hf hinh hdump)
    · rw [exec_syscall_fmode h hf]
      exact congrArg _ (stopped_trapFault_fmode h (by decide) i _ hsame hf hinh hdump)
  case stops =>
    intro c slot x hsame e he
    simp only [List.mem_cons, List.not_mem_nil, or_false] at he
    rcases he with rfl | rfl
    · refine ⟨trapFault fcTrapSw i true, ?_, rfl, rfl, rfl, rfl, rfl⟩
      rw [exec_trap h, hf]
      exact congrArg _ (stopped_trapFault_compute h (by decide) i true hsame hf)
    · refine ⟨trapFault fcBreakpoint 0 true, ?_, rfl, rfl, rfl, rfl, rfl⟩
      rw [exec_brk h, hf]
      exact congrArg _ (stopped_trapFault_compute h (by decide) 0 true hsame hf)
  case fatal =>
    rw [exec_trap h]
    exact congrArg _ (stopped_trapFault_handler h (by decide) i _ hf hinh)

/-! ### ERET (R173) -/

theorem resumesPast_eq (code : Nat) : resumesPast code = decide (code ∈ [0x12, 0x13, 0x80]) := by
  simp [resumesPast, fcTrapSw, fcBreakpoint, fcSyscall, Bool.decide_or, beq_eq_decide, Bool.or_assoc]

theorem privileged_run {s : State} (h : (curGroup s).fmode = true) : privileged s = .ok ((), s) := by
  unfold privileged
  rw [bind_ok (getG_run ..), h, ensure_true]

theorem f_entered (n : Nat) {s : State} (h : issuing s = true) : (curGroup (entered n s)).f = (curGroup s).f := by
  obtain ⟨-, -, -, -, hf, -⟩ := entered_group n h
  exact hf

/-- Where ERET goes on. -/
def returnPc (f : FRegs) : PC := f.epc.extractLsb' 0 57 + (if resumesPast (f.cause.toNat % 256) then 4 else 0)

/-- What ERET leaves. -/
def returned (s : State) : State :=
  modCur (withRegs (entered 4 s) (fun r => setPcs r ((lanesOf (curGroup s).f.emask).map (·, returnPc (curGroup s).f))))
    (fun g => { g with f := { g.f with inh := false, held := 0 } })

section
variable {s : State} (h : issuing s = true)
include h

theorem exec_eret (hf : (curGroup s).fmode = true) (hinh : (curGroup s).f.inh = true) : exec .eret s = .next (finish s (returned s)) := by
  refine issue_ok h ?_
  unfold eretM
  rw [bind_ok (privileged_run ((fmode_entered 4 h).trans hf)), bind_ok (getG_run ..), f_entered 4 h, hinh, bind_ok (ensure_true ..),
    bind_ok (modR_run ..), modG_run]
  rfl

theorem curGroup_returned : curGroup (returned s) = { curGroup (entered 4 s) with
    r := setPcs (curGroup (entered 4 s)).r ((lanesOf (curGroup s).f.emask).map (·, returnPc (curGroup s).f))
    f := { (curGroup s).f with inh := false, held := 0 } } := by
  rw [returned, curGroup_modCur _ ((issuing_withRegs ..).trans (issuing_entered 4 h)), curGroup_withRegs _ (issuing_entered 4 h), f_entered 4 h]

omit h in
theorem returned_own : OwnGroup (entered 4 s) (returned s) := (OwnGroup.withRegs _ _).trans (OwnGroup.modCur _ _)

theorem seen_returned (a : Nat) : seen (returned s) a = seen (begun s) a := by
  rw [← seen_entered 4 h a]
  have hown := returned_own (s := s)
  refine viewByte_congr ?_ ?_ hown.mem hown.extPend a <;> rw [curGroup_returned h]

/-- A thread that FEMASK names is at ERET's target, and every other where entering the effect has left it. -/
theorem pcOf_returned (t : Nat) : pcOf (returned s) t = if t ∈ lanesOf (curGroup s).f.emask then returnPc (curGroup s).f
    else pcOf (entered 4 s) t := by
  unfold pcOf
  rw [curGroup_returned h]
  split
  · exact sget_ssetAll_map 0 _ id _ _ _ (fun _ _ e => e) ‹_›
  · exact sget_ssetAll_of_notMem _ _ _ _ (by simpa using ‹_›)

end

theorem mem_lanesOf {m : Word} {t : Nat} : t ∈ lanesOf m ↔ t < 32 ∧ m.getLsbD t = true := by simp [lanesOf, allLanes]

/-- Settles O14: ERET leaves `returned`, whose lanes are those of FEMASK and the rest. -/
theorem returnFromTrap : Obligations.ReturnFromTrap := by
  unfold Obligations.ReturnFromTrap
  intro s h hf hinh f past
  refine ⟨_, exec_eret h hf hinh, by rw [curGroup_returned h], fun t ht hm => ?_, fun t hl ht hm => ?_, fun t ht hl hm => ?_, seen_returned h,
    returned_own.mem.trans (mem_entered 4 s)⟩
  · rw [pcOf_returned h, if_pos (mem_lanesOf.2 ⟨ht, hm⟩), returnPc, resumesPast_eq, BitVec.setWidth_eq_extractLsb' (show 57 ≤ 64 by decide)]
  · rw [pcOf_returned h, if_neg (fun hin => absurd (hm.symm.trans (mem_lanesOf.1 hin).2) Bool.false_ne_true), pcOf_entered 4 t h, if_pos hl]
    rfl
  · rw [pcOf_returned h, if_neg (fun hin => absurd (hm.symm.trans (mem_lanesOf.1 hin).2) Bool.false_ne_true), pcOf_entered 4 t h, if_neg hl]

end Sys2Proof.Proofs

/-! # System registers (R168, R169, R172, R175)

The values that MFSR reads, register by register, and what a write of MTSR leaves of each. -/

namespace Sys2Proof.Proofs

open Sys2Proof Sys2Proof.Machine Sys2Proof.Laws Sys2Proof.Claims

/-! ### Issues under the guard (R163, R186) -/

/-- A guarded instruction whose effect succeeds is counted, ends its chunk and completes. -/
theorem issueGuarded_ok {m : M Unit} {s t : State} (h : issuing s = true) (hm : m (entered 4 s) = .ok ((), t)) :
    issueGuarded m s = .next (finish s (guarded t)) := by
  refine issue_ok h ?_
  rw [bind_ok hm]
  rfl

/-! ### The table of system registers (R169) -/

/-- The table's values are those that are read. -/
theorem srRead_table (s : State) : ∀ e ∈ openRegs s ++ fmodeRegs s, srRead s (curGroup s) e.1 = some e.2 := by
  simp only [openRegs, fmodeRegs, List.cons_append, List.nil_append, List.mem_cons, List.not_mem_nil, or_false, forall_eq_or_imp, forall_eq]
  refine ⟨rfl, rfl, rfl, rfl, rfl, rfl, ?_, ?_⟩
  · exact congrArg some (BitVec.ofNat_toNat ..).symm
  · refine ⟨rfl, rfl, rfl, rfl, rfl, rfl, rfl, rfl, rfl, rfl, rfl, ?_, rfl, rfl, rfl, ?_, rfl, rfl, rfl, rfl⟩ <;>
      exact congrArg some (BitVec.ofNat_toNat ..).symm

/-- A number of no register reads nothing. -/
theorem srRead_none {s : State} {n : Nat} (h : ∀ e ∈ openRegs s ++ fmodeRegs s, e.1 ≠ n) : srRead s (curGroup s) n = none := by
  simp only [openRegs, fmodeRegs, List.cons_append, List.nil_append, List.mem_cons, List.not_mem_nil, or_false, forall_eq_or_imp, forall_eq,
    ne_eq, eq_comm (b := n)] at h
  simp [srRead, h]

/-- The registers that any group reads are those below 0x008. -/
theorem openRegs_number (s : State) : ∀ e ∈ openRegs s, e.1 < 0x008 ∧ ∀ x g, (srRead x g e.1).isSome = true := by
  simp only [openRegs, List.mem_cons, List.not_mem_nil, or_false, forall_eq_or_imp, forall_eq]
  iterate 6 refine ⟨⟨by decide, fun _ _ => rfl⟩, ?_⟩
  exact ⟨by decide, fun _ _ => rfl⟩

/-- Which numbers are of registers does not depend on the state. -/
theorem srRead_isSome {s : State} {n : Nat} (h : ∃ e ∈ openRegs s ++ fmodeRegs s, e.1 = n) (x : State) :
    (srRead x (curGroup x) n).isSome = true := by
  obtain ⟨e, he, rfl⟩ := h
  rcases List.mem_append.1 he with he | he
  · exact (openRegs_number s e he).2 x _
  · exact (fmodeRegs_number s e he).2 x _

/-! ### MFSR (R168, R169) -/

section
variable {s : State} {d : Code} {i : BitVec 14} (h : issuing s = true)
include h

theorem exec_mfsr (hd : okDst s d = true) {e : Nat × Word} (he : e ∈ openRegs (entered 4 s) ++ fmodeRegs (entered 4 s)) (hi : e.1 = i.toNat)
    (hopen : e.1 < 0x008 ∨ (curGroup s).fmode = true) :
    exec (.mfsr d i) s = .next (finish s (putWord (entered 4 s) d s.cur.lanes [] (fun _ => e.2))) := by
  have hallowed : ¬(decide (0x008 ≤ i.toNat) && !(curGroup (entered 4 s)).fmode) = true := by
    rw [fmode_entered 4 h, ← hi]
    rcases hopen with hlow | hf
    · simp [hlow]
    · simp [hf]
  refine issue_ok h ?_
  unfold mfsrM
  rw [bind_ok (getG_run ..), bind_ok (getS_run ..), ← hi, srRead_table _ e he]
  dsimp only
  rw [hi, if_neg hallowed, bind_ok (checkDst_entered h 4 hd), bind_ok (execLanes_unprefixed 4 h), writeDst_plain _ _ _ (okDst_plain hd)]

theorem exec_mfsr_none (hnone : ∀ e ∈ openRegs (entered 4 s) ++ fmodeRegs (entered 4 s), e.1 ≠ i.toNat) :
    exec (.mfsr d i) s = .next (stopped s (.fault { code := 0x02 })) := by
  refine issue_stop h (x := .fault _) nofun ?_
  unfold mfsrM
  rw [bind_ok (getG_run ..), bind_ok (getS_run ..), srRead_none hnone]
  rfl

/-! ### MTSR (R168, R169, R172, R175) -/

theorem exec_mtsr (hf : (curGroup s).fmode = true) (hd : okSrc s d = true) (hex : s.cur.lanes ≠ [])
    (hreg : ∀ x, (srRead x (curGroup x) i.toNat).isSome = true) : exec (.mtsr d i) s
      = .next (finish s (guarded (srWrite (srcStep (entered 4 s) s.cur.lanes d) i.toNat (srcVal (entered 4 s) d (s.cur.lanes.headD 0))))) := by
  obtain ⟨x, hx, hrun⟩ := readSrc_unprefixed h 4 hd
  refine issueGuarded_ok h ?_
  unfold mtsrM
  rw [bind_ok (privileged_run ((fmode_entered 4 h).trans hf)), bind_ok (getS_run ..), hreg, bind_ok (ensure_true ..),
    bind_ok (checkSrc_entered h 4 hd), hrun, lowest_congr hx, lowest_eq_headD _ hex]
  rfl

end

theorem loWord_dwordOf (lo hi : Word) : loWord (dwordOf lo hi) = lo := BitVec.extractLsb'_append_eq_right

theorem hiWord_dwordOf (lo hi : Word) : hiWord (dwordOf lo hi) = hi := BitVec.extractLsb'_append_eq_left

/-! ### What each register takes (R169, R172, R175, R183) -/

section
variable {y : State} (h : issuing y = true)
include h

theorem curGroup_modF (f : FRegs → FRegs) : curGroup (modF y f) = { curGroup y with f := f (curGroup y).f } := curGroup_modCur _ h

/-- The registers that hold 32 bits of a pair read what is written to them. -/
theorem srRead_srWrite_half {n : Nat} (hn : n ∈ [0x00A, 0x00B, 0x00E, 0x00F, 0x021, 0x022]) (v : Word) :
    srRead (srWrite y n v) (curGroup (srWrite y n v)) n = some v := by
  simp only [List.mem_cons, List.not_mem_nil, or_false] at hn
  rcases hn with rfl | rfl | rfl | rfl | rfl | rfl <;> simp [srWrite, srRead, curGroup_modF h, loWord_dwordOf, hiWord_dwordOf]

theorem srWrite_fstat (v : Word) : (curGroup (srWrite y 0x010 v)).f.inh = v.getLsbD 0
    ∧ (curGroup (srWrite y 0x010 v)).f.scerr = ((curGroup y).f.scerr && !v.getLsbD 2) := by
  simp [srWrite, curGroup_modF h]

theorem srWrite_msel (v : Word) : (curGroup (srWrite y 0x018 v)).f.msel = if v.toNat < 256 then v.setWidth 8 else BitVec.ofNat 8 y.cur.core := by
  simp [srWrite, curGroup_modF h]

theorem srWrite_ctxsel (v : Word) : (curGroup (srWrite y 0x020 v)).f.ctxsel.toNat = v.toNat % 2 ^ 14 := by
  have hbits : (v &&& 0x3FFF).toNat = v.toNat % 2 ^ 14 := (BitVec.toNat_and ..).trans (Nat.and_two_pow_sub_one_eq_mod _ 14)
  simpa [srWrite, curGroup_modF h] using hbits

end

theorem srWrite_fpend (y : State) (v : Word) : (coreAt (srWrite y 0x011 v) y.cur.core).fpend
    = (coreAt y y.cur.core).fpend &&& ~~~(v &&& ~~~(freshPend (coreAt y y.cur.core) y.clk)) := by
  simp [srWrite]

theorem srWrite_fien (y : State) (v : Word) : (coreAt (srWrite y 0x012 v) y.cur.core).fien = v &&& 0x3FF := by
  simp [srWrite]

/-- A MCKLIM of 0 is taken as 1. -/
theorem srWrite_mcklim (y : State) (v : Word) : (coreAt (srWrite y 0x01C v) (curGroup y).f.msel.toNat).mcklim.toNat
    = if v.toNat % 16 = 0 then 1 else v.toNat % 16 := by
  have hlow : (v.extractLsb' 0 4).toNat = v.toNat % 16 := by simp
  have hzero : v.extractLsb' 0 4 = 0 ↔ v.toNat % 16 = 0 := by rw [← hlow]; exact BitVec.toNat_eq
  simp only [srWrite, Nat.reduceEqDiff, ↓reduceIte, coreAt_modCore_self, hzero, apply_ite BitVec.toNat, hlow]
  rfl

theorem srWrite_readOnly (y : State) {n : Nat} (hn : n ∈ [0x000, 0x001, 0x002, 0x003, 0x004, 0x005, 0x006, 0x008, 0x009, 0x00C, 0x00D])
    (v : Word) : srWrite y n v = y := by
  simp only [List.mem_cons, List.not_mem_nil, or_false] at hn
  rcases hn with rfl | rfl | rfl | rfl | rfl | rfl | rfl | rfl | rfl | rfl | rfl <;> rfl

theorem OwnGroup.clk {s x : State} (h : OwnGroup s x) : x.clk = s.clk := by
  rw [← h.rest]; rfl

/-- Settles O15: MFSR reads the table, and MTSR leaves of each register what its write makes of the value. -/
theorem systemRegisters : Obligations.SystemRegisters := by
  unfold Obligations.SystemRegisters
  refine ⟨fun s d i h hd => ?mfsr, fun s d i h hf hd hex => ?mtsr⟩
  case mfsr =>
    intro s0
    exact ⟨fun e he hi => exec_mfsr h hd (List.mem_append_left _ he) hi (.inl (openRegs_number _ e he).1),
      fun hf e he hi => exec_mfsr h hd (List.mem_append_right _ he) hi (.inr hf), exec_mfsr_none h⟩
  case mtsr =>
    intro s1 v c n hreg t
    have hown : OwnGroup s s1 := (OwnGroup.entered 4 s).trans (OwnGroup.srcStep ..)
    have hs1 : issuing s1 = true := hown.issuing.trans h
    have hfregs : (curGroup s1).f = (curGroup s).f := 
      ((RegStep.srcStep (vs := fun _ => false) (ks := fun _ => false) (issuing_entered 4 h) s.cur.lanes d).field (·.f)
        fun _ _ => rfl).trans (f_entered 4 h)
    have hcore : s1.cur.core = c := by rw [hown.cur]
    refine ⟨exec_mtsr h hf hd hex (srRead_isSome hreg), fun hn => srRead_srWrite_half hs1 hn v, fun hn => ?_, fun hn => ?_, fun hn => ?_,
      fun hn => ?_, fun hn => ?_, fun hn => ?_, fun hn => srWrite_readOnly s1 hn v⟩ <;> subst t
    · rw [hn, ← hcore, srWrite_fpend, hcore, hown.coreField (·.fpend) fun _ => rfl, hown.coreField (freshPend · s1.clk) fun _ => rfl, hown.clk]
    · rw [hn, ← hcore, srWrite_fien]
    · rw [hn, ← hfregs]
      exact srWrite_fstat hs1 v
    · rw [hn, ← hcore]
      exact srWrite_msel hs1 v
    · rw [hn, ← hfregs]
      exact srWrite_mcklim s1 v
    · rw [hn]
      exact srWrite_ctxsel hs1 v

end Sys2Proof.Proofs

/-! # System calls, waits and interrupts (R173 to R175)

Each instruction's own case. -/

namespace Sys2Proof.Proofs

open Sys2Proof Sys2Proof.Machine Sys2Proof.Laws Sys2Proof.Claims

/-! ### SYSCALL of a compute group (R174) -/

/-- The record that SYSCALL posts at the commit: the immediate, the address, k4 to k7 and the threads. -/
def syscallRecord (s : State) (i : BitVec 14) : Effect :=
  .sysc i s.cur.pc ((List.range 4).map (fun j => sget 0 (curGroup s).r.k (4 + j))) s.cur.lanes

/-- The issuing group that its SYSCALL holds. -/
def calling (s : State) (i : BitVec 14) : State :=
  ending (withRegs (withChunk (entered 4 s) (fun k => { k with effects := k.effects ++ [syscallRecord s i] }))
    (fun r => setThr (setPcs r (s.cur.lanes.map (·, s.cur.pc))) s.cur.lanes .sysc))

section
variable {s : State} (h : issuing s = true)
include h

theorem exec_syscall_compute (hf : (curGroup s).fmode = false) (i : BitVec 14) : exec (.syscall i) s = .next (finish s (calling s i)) := by
  have hk : (curGroup (entered 4 s)).r.k = (curGroup s).r.k := by
    rw [entered_r 4 h]
  refine issue_ok h ?_
  unfold syscallM
  rw [bind_ok (getG_run ..), fmode_entered 4 h, hf, if_neg Bool.false_ne_true, bind_ok (execLanes_unprefixed 4 h), bind_ok (thisPc_entered ..),
    bind_ok (deferM_run ..), bind_ok (modR_run ..), hk]
  rfl

theorem curGroup_calling (i : BitVec 14) : curGroup (calling s i) = { curGroup (entered 4 s) with
    r := setThr (setPcs (curGroup (entered 4 s)).r (s.cur.lanes.map (·, s.cur.pc))) s.cur.lanes .sysc
    open_ := { (curGroup (entered 4 s)).open_ with effects := (curGroup (entered 4 s)).open_.effects ++ [syscallRecord s i], ending := true } } := by
  have hentered := issuing_entered 4 h
  have hchunk : ∀ f, issuing (withChunk (entered 4 s) f) = true := fun f => (issuing_modCur ..).trans hentered
  rw [calling, ending, withChunk, curGroup_modCur _ ((issuing_withRegs ..).trans (hchunk _)), curGroup_withRegs _ (hchunk _), withChunk,
    curGroup_modCur _ hentered]

theorem doing_calling (i : BitVec 14) {t : Nat} (ht : t ∈ s.cur.lanes) : doing (calling s i) t = .sysc := by
  rw [doing, curGroup_calling h]
  exact sget_ssetAll_map _ _ id _ _ _ (fun _ _ e => e) ht

theorem pcOf_calling (i : BitVec 14) {t : Nat} (ht : t ∈ s.cur.lanes) : pcOf (calling s i) t = s.cur.pc := by
  rw [pcOf, curGroup_calling h]
  exact sget_ssetAll_map 0 _ id _ _ _ (fun _ _ e => e) ht

/-! ### WFI (R174) -/

/-- A group at a chunk boundary with nothing left to commit is quiet. -/
theorem quietM_entered (hslots : (curGroup s).open_.slots = 0) (hdone : (curGroup s).done = []) : quietM (entered 4 s) = .ok ((), entered 4 s) := by
  have hleft : (curGroup (entered 4 s)).done = [] := (entered_field 4 h (·.done) fun _ _ _ _ _ _ _ _ _ => rfl).trans hdone
  unfold quietM
  rw [bind_ok (getG_run ..), if_neg (by rw [slots_entered 4 h, hslots]; simp), hleft]
  rfl

omit h in
theorem pending_entered (n : Nat) : (coreAt (entered n s) s.cur.core).fpend = (coreAt s s.cur.core).fpend
    ∧ (coreAt (entered n s) s.cur.core).fien = (coreAt s s.cur.core).fien :=
  ⟨(OwnGroup.entered n s).coreField (·.fpend) (fun _ => rfl) _, (OwnGroup.entered n s).coreField (·.fien) (fun _ => rfl) _⟩

section
variable (hf : (curGroup s).fmode = true)
include hf

theorem exec_wfi_pending (hpend : (coreAt s s.cur.core).fpend &&& (coreAt s s.cur.core).fien ≠ 0) :
    exec .wfi s = .next (finish s (ending (entered 4 s))) := by
  obtain ⟨hfpend, hfien⟩ := pending_entered (s := s) 4
  refine issue_ok h ?_
  unfold wfiM getCore
  rw [bind_ok (privileged_run ((fmode_entered 4 h).trans hf)), bind_ok (getS_run ..), entered_cur, hfpend, hfien, if_pos hpend]
  rfl

theorem exec_wfi_waits (hpend : (coreAt s s.cur.core).fpend &&& (coreAt s s.cur.core).fien = 0) (hslots : (curGroup s).open_.slots = 0)
    (hdone : (curGroup s).done = []) : exec .wfi s = .next (stopped s .stall) := by
  obtain ⟨hfpend, hfien⟩ := pending_entered (s := s) 4
  refine issue_stop h nofun ?_
  unfold wfiM getCore
  rw [bind_ok (privileged_run ((fmode_entered 4 h).trans hf)), bind_ok (getS_run ..), entered_cur, hfpend, hfien, if_neg (not_not_intro hpend),
    bind_ok (quietM_entered h hslots hdone)]
  rfl

/-! ### IPI (R175) -/

theorem exec_ipi {a : Code} (ha : okSrc s a = true) (hex : s.cur.lanes ≠ []) {n : Nat}
    (hn : (srcVal (entered 4 s) a (s.cur.lanes.headD 0)).toNat = n) (hlt : n < 256) (hrole : (coreAt s n).role = 1) :
    exec (.ipi a) s = .next (finish s (guarded (setFpend (srcStep (entered 4 s) s.cur.lanes a) n (BitVec.ofNat 32 (2 ^ dieOf s.cur.core))))) := by
  have hown : OwnGroup s (srcStep (entered 4 s) s.cur.lanes a) := (OwnGroup.entered 4 s).trans (OwnGroup.srcStep ..)
  have hvintner : (coreAt (srcStep (entered 4 s) s.cur.lanes a) n).role = 1 := (hown.coreField (·.role) (fun _ => rfl) n).trans hrole
  obtain ⟨x, hx, hrun⟩ := readSrc_unprefixed h 4 ha
  refine issueGuarded_ok h ?_
  unfold ipiM
  rw [bind_ok (privileged_run ((fmode_entered 4 h).trans hf)), bind_ok (checkSrc_entered h 4 ha), hrun, lowest_congr hx,
    lowest_eq_headD _ hex, hn, bind_ok (getS_run ..), hvintner, decide_eq_true hlt, beq_self_eq_true, Bool.and_self,
    bind_ok (ensure_true ..), modS_run, hown.cur]

end

end

theorem fpend_setFpend (y : State) (c : Nat) (bits : Word) : (coreAt (setFpend y c bits) c).fpend = (coreAt y c).fpend ||| bits := by
  rw [setFpend, coreAt_modCore_self]

/-- Settles O16: SYSCALL leaves `calling`, WFI goes on or waits as a source is pending, and IPI sets its bit in FPEND. -/
theorem systemCallsAndInterrupts : Obligations.SystemCallsAndInterrupts := by
  unfold Obligations.SystemCallsAndInterrupts
  intro s i a h s0 all
  refine ⟨fun hf => ⟨_, exec_syscall_compute h hf i, ?_, fun t ht => ⟨doing_calling h i ht, pcOf_calling h i ht⟩, ?_⟩,
    fun hf hpend => exec_wfi_pending h hf hpend, fun hf hpend hslots hdone => exec_wfi_waits h hf hpend hslots hdone,
    fun hf ha hex => ?_⟩
  · rw [curGroup_calling h]
  · rw [curGroup_calling h]
    rfl
  · intro n hlt hrole
    refine ⟨_, exec_ipi h hf ha hex rfl hlt hrole, ?_⟩
    rw [fpend_setFpend, ((OwnGroup.entered 4 s).trans (OwnGroup.srcStep ..)).coreField (·.fpend) fun _ => rfl]

end Sys2Proof.Proofs

/-! # Group records (R176)

CTXSAVE and CTXRSTR as their steps of the state. -/

namespace Sys2Proof.Proofs

open Sys2Proof Sys2Proof.Machine Sys2Proof.Laws Sys2Proof.Claims

section
variable {s : State} {a : Code} (h : issuing s = true) (hf : (curGroup s).fmode = true) (ha : okPair s a = true) (hex : s.cur.lanes ≠ [])
  {va : Dword} (hva : pairVal (entered 4 s) a (s.cur.lanes.headD 0) = va) (hal : va.toNat % 128 = 0)
  (hslots : (curGroup s).open_.slots = 0) (hdone : (curGroup s).done = [])
  {c slot : Nat} (hsel : selected (curGroup s) = (c, slot)) {pas : List Nat} {s1 : State}
include h

theorem selected_entered : selected (curGroup (entered 4 s)) = selected (curGroup s) := by rw [selected, f_entered 4 h, selected]

include hf ha hex hva hal

/-- The address of a group record: the pair's value in the lowest executing thread. -/
theorem recordAddr_entered : recordAddr a (entered 4 s) = .ok (va, entered 4 s) := by
  unfold recordAddr
  rw [bind_ok (privileged_run ((fmode_entered 4 h).trans hf)), bind_ok (checkPair_entered h 4 ha), bind_ok (execLanes_unprefixed 4 h),
    bind_ok (readPair_run _ _ (okPair_code ha)), lowest_eq_headD _ hex, hva, if_neg (not_not_intro hal)]
  rfl

include hslots hdone hsel

/-! ### CTXSAVE (R176) -/

/-- What CTXSAVE of a group leaves: its record written, the group marked saved, and its context switched out where it was the last. -/
def saved (s1 : State) (pas : List Nat) (c slot : Nat) (t : Group) : State :=
  switchOut (modGroup (performWrite s1 (some (s1.cur.core, s1.cur.slot)) (pas.zip (groupRecord t))) c slot
    (fun g => { g with saved := true })) t.pasid

theorem exec_ctxsave {t : Group} (ht : groupAt (entered 4 s) c slot = some t) (hstop : t.stop.isSome = true) (hquiet : quiet t = true)
    (hpas : lineAddrs true (s.cur.lanes.headD 0) va (t.a + 5) (entered 4 s) = .ok (pas, s1))
    (hgrant : heldByGrant s1 (sigOf (linesOf (pas.zip (groupRecord t)))) = false)
    (hlive : heldByLive s1 (sigOf (linesOf (pas.zip (groupRecord t)))) (some (s1.cur.core, s1.cur.slot)) = false) :
    exec (.ctxsave a) s = .next (finish s (guarded (ending (saved s1 pas c slot t)))) := by
  have hadmit : admitWrite (pas.zip (groupRecord t)) s1 = .ok ((), s1) := by
    unfold admitWrite
    rw [bind_ok (getS_run ..)]
    dsimp only
    rw [hgrant, hlive]
    rfl
  refine issueGuarded_ok h ?_
  unfold ctxsaveM
  rw [bind_ok (recordAddr_entered h hf ha hex hva hal), bind_ok (getG_run ..), selected_entered h, hsel]
  dsimp only
  rw [bind_ok (getS_run ..), ht]
  dsimp only
  rw [hstop, bind_ok (ensure_true ..), bind_ok (by rw [waitFor_run, if_pos hquiet]), bind_ok (quietM_entered h hslots hdone),
    bind_ok (execLanes_unprefixed 4 h), bind_ok hpas, bind_ok hadmit, bind_ok (modS_run ..)]
  rfl

/-! ### CTXRSTR (R176) -/

/-- The record in memory at the addresses of its bytes. -/
def recordAt (s2 : State) (pas : List Nat) (o m : Nat) : Nat :=
  natOfBytes ((List.range m).map (fun i => (pas.map (memByte s2)).toArray.getD (o + i) 0))

/-- What CTXRSTR needs of the slot, the core and the record: kind 2, whole pieces of 32 to 256 registers, and room for them. -/
structure Restorable (s1 : State) (c slot hd gn : Nat) (x : Grid) : Prop where
  kind : hd / 2 ^ 60 % 4 = 2
  pieces : hd / 2 ^ 128 % 2 ^ 32 % 16 = 0
  least : 32 ≤ hd / 2 ^ 128 % 2 ^ 32
  most : hd / 2 ^ 128 % 2 ^ 32 ≤ 256
  bound : (coreAt s1 c).grid = some gn
  grid : gridAt s1 gn = some x
  free : groupAt s1 c slot = none
  regs : regsUsed (coreAt s1 c) + hd / 2 ^ 128 % 2 ^ 32 ≤ 4096
  tiles : (teamNeeds s1 x c slot (bytesField hd 91 84)).1 ≤ (freeTiles (coreAt s1 c)).length
  room : (coreAt s1 c).pieces.length + (teamNeeds s1 x c slot (bytesField hd 91 84)).2 ≤ 64

theorem exec_ctxrstr {head : List Nat} {hd gn : Nat} {x : Grid} {s2 : State}
    (hhead : lineAddrs false (s.cur.lanes.headD 0) va 1 (entered 4 s) = .ok (head, s1)) (hhd : hd = natOfBytes (head.map (memByte s1)))
    (hroom : Restorable s1 c slot hd gn x)
    (hpas : lineAddrs false (s.cur.lanes.headD 0) va (hd / 2 ^ 128 % 2 ^ 32 + 5) s1 = .ok (pas, s2)) :
    exec (.ctxrstr a) s = .next (finish s (guarded (ending (restoreGroup s2 (recordAt s2 pas) c slot gn x)))) := by
  have hlines : lineAddrs false (s.cur.lanes.headD 0) va (bytesField hd 19 16 + 5) s1 = .ok (pas, s2) := hpas
  have hfields : (fieldOf hd 61 60 == 2 && decide (bytesField hd 19 16 % 16 = 0) && decide (32 ≤ bytesField hd 19 16)
      && decide (bytesField hd 19 16 ≤ 256)) = true := by
    simp only [Bool.and_eq_true, beq_iff_eq, decide_eq_true_eq]
    exact ⟨⟨⟨hroom.kind, hroom.pieces⟩, hroom.least⟩, hroom.most⟩
  have hfree : ((aget (coreAt s1 c).groups slot).isNone && decide (regsUsed (coreAt s1 c) + bytesField hd 19 16 ≤ 4096)) = true := by
    rw [show aget (coreAt s1 c).groups slot = none from hroom.free]
    exact decide_eq_true hroom.regs
  have htiles : (decide ((teamNeeds s1 x c slot (bytesField hd 91 84)).1 ≤ (freeTiles (coreAt s1 c)).length)
      && decide ((coreAt s1 c).pieces.length + (teamNeeds s1 x c slot (bytesField hd 91 84)).2 ≤ 64)) = true := by
    rw [decide_eq_true hroom.tiles, decide_eq_true hroom.room]
    rfl
  refine issueGuarded_ok h ?_
  unfold ctxrstrM
  rw [bind_ok (recordAddr_entered h hf ha hex hva hal), bind_ok (quietM_entered h hslots hdone), bind_ok (getG_run ..), selected_entered h, hsel]
  dsimp only
  rw [bind_ok (execLanes_unprefixed 4 h), bind_ok hhead, bind_ok (getS_run ..), ← hhd, hfields, bind_ok (ensure_true ..), bind_ok (getS_run ..),
    bind_ok (getS_run ..), hroom.bound, Option.bind_some, hroom.grid]
  dsimp only [Option.map_some]
  rw [hfree, bind_ok (ensure_true ..), bind_ok (getS_run ..), bind_ok (by rw [waitFor_run, if_pos htiles]), bind_ok hlines, bind_ok (modS_run ..)]
  rfl

end

/-- Settles O17: CTXSAVE leaves `saved`, and CTXRSTR restores the group of the record where there is room for it. -/
theorem groupRecords : Obligations.GroupRecords := by
  unfold Obligations.GroupRecords
  intro s s1 a pas h hf ha hex s0 va c slot hal hslots hdone
  refine ⟨fun t ht hstop hquiet hpas => ?save, fun head hd s2 gn x hhead hhd hkind => ?restore⟩
  case save =>
    intro kvs hgrant hlive
    exact exec_ctxsave h hf ha hex rfl hal hslots hdone rfl ht hstop hquiet hpas hgrant hlive
  case restore =>
    intro n hpieces hleast hmost hbound hgrid hfree hregs need htiles hroom hpas
    exact exec_ctxrstr h hf ha hex rfl hal hslots hdone rfl hhead hhd
      ⟨hkind, hpieces, hleast, hmost, hbound, hgrid, hfree, hregs, htiles, hroom⟩ hpas

end Sys2Proof.Proofs

/-! # Barrier instructions (R409 to R413)

The parts that the barrier instructions share, then each instruction's own cases. -/

namespace Sys2Proof.Proofs

open Sys2Proof Sys2Proof.Machine Sys2Proof.Laws Sys2Proof.Claims

/-! ### Changes of the issuing group one after the other -/

theorem aset_aset {α : Type} (m : Sparse α) (k : Nat) (v w : α) : aset (aset m k v) k w = aset m k w := by
  induction m with
  | nil => simp [aset]
  | cons e t ih =>
    obtain ⟨j, x⟩ := e
    simp only [aset]
    split
    · simp [aset]
    · split
      · simp [aset]
      next hlt hne => simp [aset, hlt, hne, ih]

theorem setGroup_setGroup (s : State) (c g : Nat) (x y : Group) : setGroup (setGroup s c g x) c g y = setGroup s c g y := by
  simp [setGroup, modCore, setCore, coreAt, aset_aset]

theorem modCur_modCur (s : State) (f k : Group → Group) : modCur (modCur s f) k = modCur s (fun g => k (f g)) := by
  unfold modCur
  rw [modGroup_cur]
  cases hg : groupAt s s.cur.core s.cur.slot with
  | none => rw [modGroup_of_none f hg, modGroup_of_none k hg, modGroup_of_none _ hg]
  | some g => rw [modGroup_of_some f hg, modGroup_of_some k (groupAt_setGroup_self ..), modGroup_of_some _ hg, setGroup_setGroup]

/-! ### The parts of the barrier instructions (R410 to R413) -/

theorem execLanes_all (y : State) : execLanes none y = .ok (y.cur.lanes, y) := by
  simp [execLanes, inMask]

theorem blockOn_run (i : Nat) (d : Code) (y : State) : blockOn i d y = .ok ((), blockedOn y i d) := by
  unfold blockOn stayAt
  rw [bind_ok (execLanes_all y), bind_ok (modR_run ..), bind_ok (bind_ok (getS_run ..)), bind_ok (getS_run ..), modG_run]
  simp only [withRegs, modCur_modCur, modCur_cur, modCur_clk, blockedOn]

theorem barEnd_run (y : State) : barEnd y = .ok ((), sealing y) := rfl

theorem partialOf_congr {op : BitVec 2} {ex : List Nat} {x y : Nat → Word} (h : ∀ t ∈ ex, x t = y t) :
    partialOf op ex x = partialOf op ex y := by
  have hcount : ex.filter (fun t => decide (x t ≠ 0)) = ex.filter (fun t => decide (y t ≠ 0)) := List.filter_congr fun t ht => by rw [h t ht]
  unfold partialOf
  rw [hcount, List.foldl_ext (fun m t => m &&& x t) (fun m t => m &&& y t) _ fun _ t ht => by rw [h t ht],
    List.foldl_ext (fun m t => m ||| x t) (fun m t => m ||| y t) _ fun _ t ht => by rw [h t ht],
    List.foldl_ext (fun m t => m + x t) (fun m t => m + y t) _ fun _ t ht => by rw [h t ht]]

theorem OwnGroup.grids {s x : State} (h : OwnGroup s x) : x.grids = s.grids := by
  rw [← h.rest]; rfl

/-- Reading a source leaves the participant counts. -/
theorem acntOf_srcStep {y : State} (h : issuing y = true) (ex : List Nat) (a : Code) (i : Nat) :
    acntOf (srcStep y ex a) y.cur.core y.cur.slot i = acntOf y y.cur.core y.cur.slot i := by
  unfold srcStep
  split
  · have hown := OwnGroup.withRegs y (fun r => { r with cys := hiWord (cycles y (dieOf y.cur.core)) })
    have hgroup := groupAt_cur_of_issuing (hown.issuing.trans h)
    rw [hown.cur, curGroup_withRegs _ h] at hgroup
    unfold acntOf teamAt gridAt
    rw [hgroup, groupAt_cur_of_issuing h, hown.coreField (·.teams) (fun _ => rfl), hown.grids]
  · rfl

section
variable {y : State} (h : issuing y = true) {i : Nat} (hmay : mayArrive y i = true)
include h hmay

omit h in
/-- What an arrival needs, apart. -/
theorem mayArrive_parts : arrivalHeld (curGroup y) i = false ∧ aget (curGroup y).recs i = none ∧ (acntOf y y.cur.core y.cur.slot i != 0) = true
    ∧ (i != 17 || (((curGroup y).grid.bind (gridAt y)).map (·.gang)).getD false) = true := by
  simpa [mayArrive, and_assoc] using hmay

/-- The arrival of the executing threads is sent at the commit. -/
theorem arriveAt_run {a : Code} (ha : plainSrc a = true) (op : BitVec 2) :
    arriveAt i op a y = .ok ((), arriving (srcStep y y.cur.lanes a) i op (srcVal y a)) := by
  obtain ⟨x, hx, hval⟩ := readSrc_plain (s := y) y.cur.lanes ha
  obtain ⟨-, -, hcount, hgang⟩ := mayArrive_parts hmay
  have hstep : RegStep (fun _ => false) (fun _ => false) y (srcStep y y.cur.lanes a) := .srcStep h ..
  have hgrid : (curGroup (srcStep y y.cur.lanes a)).grid = (curGroup y).grid := hstep.field (·.grid) fun _ _ => rfl
  have hgridAt : gridAt (srcStep y y.cur.lanes a) = gridAt y := funext fun g => congrArg (aget · g) hstep.own.grids
  unfold arriveAt
  rw [bind_ok (execLanes_all y), bind_ok hx, bind_ok (getS_run ..), bind_ok (getS_run ..), bind_ok (getS_run ..), bind_ok (getG_run ..),
    bind_ok (getS_run ..), srcStep_cur, acntOf_srcStep h, hgrid, hgridAt, hcount, hgang, Bool.and_self, bind_ok (ensure_true ..), deferM_run,
    partialOf_congr hval, arriving, srcStep_cur, acntOf_srcStep h]

end

/-! ### BAR, GBAR and BARARV (R410, R413) -/

theorem barM_run {y : State} (h : issuing y = true) {i : Nat} (hmay : mayArrive y i = true) {d a : Code} (ha : plainSrc a = true)
    (hops : checkOps [.dst d, .src a] y = .ok ((), y)) (op : BitVec 2) :
    barM i op d a y = .ok ((), sealing (blockedOn (arriving (srcStep y y.cur.lanes a) i op (srcVal y a)) i d)) := by
  obtain ⟨hheld, hrec, -, -⟩ := mayArrive_parts hmay
  unfold barM
  rw [bind_ok hops, bind_ok (getG_run ..), bind_ok (getS_run ..), hrec]
  dsimp only
  rw [hheld, bind_ok (by rw [waitFor_run]; rfl), bind_ok (arriveAt_run h hmay ha op), bind_ok (blockOn_run ..), barEnd_run]

theorem bararvM_run {y : State} (h : issuing y = true) {i : Nat} (hmay : mayArrive y i = true) {a : Code} (ha : plainSrc a = true)
    (hops : checkOps [.src a] y = .ok ((), y)) (op : BitVec 2) : bararvM i op a y
      = .ok ((), sealing (withRegs (arriving (srcStep y y.cur.lanes a) i op (srcVal y a)) (fun r => setThr r y.cur.lanes (.barAck i)))) := by
  have hcur : (arriving (srcStep y y.cur.lanes a) i op (srcVal y a)).cur = y.cur := by rw [arriving, deferring_cur, srcStep_cur]
  obtain ⟨hheld, hrec, -, -⟩ := mayArrive_parts hmay
  unfold bararvM
  rw [bind_ok hops, bind_ok (getG_run ..), hrec]
  dsimp only
  rw [hheld, bind_ok (by rw [waitFor_run]; rfl), bind_ok (arriveAt_run h hmay ha op), bind_ok (execLanes_all ..), hcur, bind_ok (modR_run ..),
    barEnd_run]

/-! ### BARWT (R413) -/

/-- A record waited on with no port blocks its threads, and is polled at the commit. -/
theorem waitRecord_blocks (i : Nat) {d : Code} (hd : d.toNat < 112 ∨ 117 < d.toNat) (rc : BarRec) (y : State) :
    waitRecord i d rc y = .ok ((), sealing (deferring (blockedOn y i d) (.barPoll i))) := by
  unfold waitRecord
  rw [bind_ok (execLanes_all y)]
  cases rc.res with
  | none =>
    dsimp only
    rw [bind_ok (blockOn_run ..), bind_ok (deferM_run ..), barEnd_run]
  | some v =>
    dsimp only
    rw [if_neg (by omega), bind_ok (blockOn_run ..), bind_ok (deferM_run ..), barEnd_run]

/-- A released record's result goes to a channel port at once (R413). -/
theorem waitRecord_sends (i : Nat) {d : Code} (hd : d.toNat = 116 ∨ d.toNat = 117) {rc : BarRec} {w : Word} (hres : rc.res = some w) {y x : State}
    {ex : List Nat} (hlanes : y.cur.lanes = ex) (hex : ex ≠ []) (hsend : sendChan (d.toNat - 112) ex (fun _ => w) y = .ok ((), x)) :
    waitRecord i d rc y = .ok ((), sealing (deferring x (.barUsed i))) := by
  unfold waitRecord
  rw [bind_ok (execLanes_all y), hlanes, hres]
  dsimp only
  rw [if_pos (by omega), bind_ok ((congrFun (writeDst_channel hd hex ..) y).trans hsend), bind_ok (deferM_run ..), barEnd_run]

section
variable {s : State} {d a b : Code} (h : issuing s = true)
include h

theorem recs_entered (n : Nat) : (curGroup (entered n s)).recs = (curGroup s).recs :=
  entered_field n h (·.recs) fun _ _ _ _ _ _ _ _ _ => rfl

theorem checkDstSrc_entered (n : Nat) (hd : okDst s d = true) (ha : okSrc s a = true) :
    checkOps [.dst d, .src a] (entered n s) = .ok ((), entered n s) :=
  checkOps_ok _ _ (by
    simp only [List.mem_cons, List.not_mem_nil, or_false, forall_eq_or_imp, forall_eq]
    exact ⟨opnd_dst (by simpa [h] using hd), opnd_src (by simpa [h] using ha)⟩)

theorem exec_bar (hd : okDst s d = true) (ha : okSrc s a = true) (hi : selId b ≤ 16) (hmay : mayArrive (entered 4 s) (selId b) = true) :
    exec (.bar d a b) s = .next (finish s (sealing (blockedOn
      (arriving (srcStep (entered 4 s) s.cur.lanes a) (selId b) (selOp b) (srcVal (entered 4 s) a)) (selId b) d))) := by
  refine issue_ok h ?_
  rw [decide_eq_true hi, bind_ok (ensure_true ..), barM_run (issuing_entered 4 h) hmay (okSrc_plain ha) (checkDstSrc_entered h 4 hd ha), entered_cur]

theorem exec_gbar (hd : okDst s d = true) (ha : okSrc s a = true) (hi : selId b = 0) (hmay : mayArrive (entered 4 s) 17 = true) :
    exec (.gbar d a b) s = .next (finish s (sealing (blockedOn
      (arriving (srcStep (entered 4 s) s.cur.lanes a) 17 (selOp b) (srcVal (entered 4 s) a)) 17 d))) := by
  refine issue_ok h ?_
  rw [decide_eq_true hi, bind_ok (ensure_true ..), barM_run (issuing_entered 4 h) hmay (okSrc_plain ha) (checkDstSrc_entered h 4 hd ha), entered_cur]

theorem exec_bararv (ha : okSrc s a = true) (hi : selId b ≤ 16) (hmay : mayArrive (entered 4 s) (selId b) = true) :
    exec (.bararv a b) s = .next (finish s (sealing (withRegs
      (arriving (srcStep (entered 4 s) s.cur.lanes a) (selId b) (selOp b) (srcVal (entered 4 s) a))
      (fun r => setThr r s.cur.lanes (.barAck (selId b)))))) := by
  refine issue_ok h ?_
  rw [decide_eq_true hi, bind_ok (ensure_true ..), bararvM_run (issuing_entered 4 h) hmay (okSrc_plain ha) (checkSrc_entered h 4 ha), entered_cur]

section
variable (hi : selId b ≤ 16) (hop : selOp b = 0)
include hi hop

omit h in
/-- BARWT's selector is accepted. -/
theorem ensure_barwt (y : State) : ensure (decide (selId b ≤ 16) && selOp b == 0) fcIllegalOperand y = .ok ((), y) := by
  rw [decide_eq_true hi, hop]
  rfl

theorem exec_barwt_blocks (hd : okDst s d = true) {rc : BarRec} (hrec : aget (curGroup s).recs (selId b) = some rc) :
    exec (.barwt d b) s = .next (finish s (sealing (deferring (blockedOn (entered 4 s) (selId b) d) (.barPoll (selId b))))) := by
  have hport : d.toNat < 112 ∨ 117 < d.toNat := by
    have hplain := okDst_plain hd
    simp only [plainDst, Bool.or_eq_true, decide_eq_true_eq, beq_iff_eq] at hplain
    rcases hplain with hlow | rfl
    · omega
    · exact .inr (by decide)
  refine issue_ok h ?_
  rw [bind_ok (ensure_barwt hi hop _)]
  unfold barwtM
  rw [bind_ok (checkDst_entered h 4 hd), bind_ok (getG_run ..), recs_entered h, hrec]
  exact waitRecord_blocks _ hport rc _

theorem exec_barwt_none (hd : okDst s d = true) (hrec : aget (curGroup s).recs (selId b) = none) :
    exec (.barwt d b) s = if arrivalHeld (curGroup (entered 4 s)) (selId b) then .next (stopped s .stall)
      else .next (stopped s (.fault { code := 0x02 })) := by
  have hrun : barwtM (selId b) d (entered 4 s) = (if arrivalHeld (curGroup (entered 4 s)) (selId b) then stallM else failM fcIllegalOperand)
      (entered 4 s) := by
    unfold barwtM
    rw [bind_ok (checkDst_entered h 4 hd), bind_ok (getG_run ..), recs_entered h, hrec]
  split
  next hheld =>
    refine issue_stop h nofun ?_
    rw [bind_ok (ensure_barwt hi hop _), hrun, if_pos hheld]
    rfl
  next hheld =>
    refine issue_stop h (x := .fault _) nofun ?_
    rw [bind_ok (ensure_barwt hi hop _), hrun, if_neg hheld]
    rfl

theorem exec_barwt_port (hd : d.toNat = 116 ∨ d.toNat = 117) {rc : BarRec} {w : Word} {ch tc : Nat}
    (hrec : aget (curGroup s).recs (selId b) = some rc) (hres : rc.res = some w) (hex : s.cur.lanes ≠ [])
    (hch : aget (curGroup s).r.chans (d.toNat - 112) = some ch) (htgt : chanTarget s s.cur.core ch = some tc)
    (hroom : (chanAt s tc ch).credits < ((chanDecl s s.cur.core ch).map (·.slots)).getD 0) :
    exec (.barwt d b) s = .next (finish s (sealing (deferring (deferring
      (modChan (entered 4 s) tc ch (fun k => { k with credits := k.credits + 1 }))
      (.send tc ch { vals := allLanes.map (fun t => if t ∈ s.cur.lanes then w else 0), valid := maskOf s.cur.lanes })) (.barUsed (selId b))))) := by
  have hown := OwnGroup.entered 4 s
  have hchans : aget (curGroup (entered 4 s)).r.chans (d.toNat - 112) = some ch := by rw [entered_r 4 h]; exact hch
  have hsend := sendChan_run (ex := s.cur.lanes) (v := fun _ => w) hchans ((hown.chanTarget ..).trans (hown.cur ▸ htgt))
    (by rw [hown.chanAt, hown.chanDecl, hown.cur]; exact hroom)
  have hops : checkOps [.dst d] (entered 4 s) = .ok ((), entered 4 s) :=
    checkOps_ok _ _ fun o ho => by rw [List.mem_singleton.1 ho]; exact opnd_dstPort (by omega) (by omega) _
  refine issue_ok h ?_
  rw [bind_ok (ensure_barwt hi hop _)]
  unfold barwtM
  rw [bind_ok hops, bind_ok (getG_run ..), recs_entered h, hrec]
  exact waitRecord_sends _ hd hres (entered_cur 4 s ▸ rfl) hex hsend

end

/-- An instruction that its selector stops. -/
theorem illegal_of_ensure {c : Bool} (hc : c = false) (m : M Unit) :
    issue 4 (ensure c fcIllegalOperand >>= fun _ => m) s = .next (stopped s (.fault { code := 0x02 })) := by
  subst hc
  exact issue_stop h (x := .fault _) nofun (bind_error (ensure_false ..))

end

/-- Settles O34: an arrival is sent where it may be, BARWT acts on its record, and selectors of no barrier are stopped. -/
theorem barrierInstructions : Obligations.BarrierInstructions := by
  unfold Obligations.BarrierInstructions
  intro s d a b h s0 all s1 v i illegal
  refine ⟨fun ha hi hmay => ⟨fun hd => exec_bar h hd ha hi hmay, exec_bararv h ha hi hmay⟩, fun hd ha hi hmay => exec_gbar h hd ha hi hmay,
    fun hi hop => ⟨fun hd hrec => ?_, fun hd hrec => exec_barwt_none h hi hop hd hrec,
      fun rc w ch tc hd hrec hres hex hch htgt hroom => exec_barwt_port h hi hop hd hrec hres hex hch htgt hroom⟩,
    fun hi => ?_, fun hi => illegal_of_ensure h (decide_eq_false hi) _, fun hi hop => illegal_of_ensure h ?_ _⟩
  · obtain ⟨rc, hrec⟩ := Option.isSome_iff_exists.1 hrec
    exact exec_barwt_blocks h hi hop hd hrec
  · have hlarge : decide (selId b ≤ 16) = false := decide_eq_false (Nat.not_le.2 hi)
    exact ⟨illegal_of_ensure h hlarge _, illegal_of_ensure h hlarge _, illegal_of_ensure h (by rw [hlarge]; rfl) _⟩
  · rw [beq_eq_false_iff_ne.2 hop, Bool.and_false]

end Sys2Proof.Proofs

/-! # Barrier, multicast and call steps (R174, R408 to R419)

Each event's own cases. -/

namespace Sys2Proof.Proofs

open Sys2Proof Sys2Proof.Machine Sys2Proof.Laws Sys2Proof.Claims

/-! ### Bytes stored one after the other (R9) -/

theorem scratch_foldl_putScratch (kvs : List (Nat × Byte)) (k : Core) : (kvs.foldl putScratch k).scratch = ssetAll 0 k.scratch kvs := by
  induction kvs generalizing k with
  | nil => rfl
  | cons e t ih => exact ih _

theorem sget_ssetAll_bytesAt (bs : List Byte) (m : Sparse Byte) (a o : Nat) :
    sget 0 (ssetAll 0 m (bytesAt a bs)) o = if a ≤ o ∧ o < a + bs.length then bs.getD (o - a) 0 else sget 0 m o := by
  induction bs generalizing m a with
  | nil => rw [if_neg (by simp)]; rfl
  | cons b bs ih =>
    refine (ih (sset 0 m a b) (a + 1)).trans ?_
    rw [sget_sset, List.length_cons]
    rcases lt_trichotomy o a with hlt | rfl | hgt
    · rw [if_neg (by omega), if_neg (by omega), if_neg (by omega)]
    · rw [if_neg (by omega), if_pos rfl, if_pos (by omega), Nat.sub_self, List.getD_cons_zero]
    · obtain ⟨q, rfl⟩ : ∃ q, o = a + 1 + q := ⟨o - (a + 1), by omega⟩
      simp only [show a + 1 + q - (a + 1) = q by omega, show a + 1 + q - a = q + 1 by omega, List.getD_cons_succ]
      by_cases hq : q < bs.length
      · rw [if_pos (by omega), if_pos (by omega)]
      · rw [if_neg (by omega), if_neg (by omega), if_neg (by omega)]

/-- A run of a list, element by element. -/
theorem map_range_getD (l : List Byte) {k n : Nat} (h : k + n ≤ l.length) :
    (List.range n).map (fun i => l.getD (k + i) 0) = (l.drop k).take n := by
  refine List.ext_getElem (by simp; omega) fun i hi _ => ?_
  have hlt : k + i < l.length := by simp at hi; omega
  rw [List.getElem_map, List.getElem_range, List.getD_eq_getElem _ _ hlt, List.getElem_take, List.getElem_drop]

/-- The j-th of blocks of 4 bytes. -/
theorem block_flatMap {α : Type} (f : α → List Byte) (hf : ∀ e, (f e).length = 4) (es : List α) {j : Nat} (hj : j < es.length) :
    ((es.flatMap f).drop (4 * j)).take 4 = f es[j] := by
  induction es generalizing j with
  | nil => exact absurd hj (Nat.not_lt_zero j)
  | cons e es ih =>
    rw [List.flatMap_cons]
    cases j with
    | zero => rw [Nat.mul_zero, List.drop_zero, ← hf e, List.take_left]; rfl
    | succ j =>
      rw [show 4 * (j + 1) = (f e).length + 4 * j by rw [hf]; omega, ← List.drop_drop, List.drop_left]
      exact ih (Nat.lt_of_succ_lt_succ hj)

theorem length_flatMap_four {α : Type} (f : α → List Byte) (hf : ∀ e, (f e).length = 4) (es : List α) :
    (es.flatMap f).length = 4 * es.length := by
  rw [List.length_flatMap]
  simp [hf, Nat.mul_comm]

/-! ### Deliveries (R417, R419) -/

/-- Byte o of a core's scratch. -/
def scratchByte (z : State) (c o : Nat) : Byte := sget 0 (coreAt z c).scratch o

/-- What a delivery stores. -/
def delivered (s : State) (m : McstPacket) : List Byte :=
  let old := (List.range 128).map (fun i => scratchByte s m.target (m.off + i))
  match m.rop with
  | none => m.bytes
  | some r => ((lineWords old).zip (lineWords m.bytes)).flatMap (fun e => bytesOf 4 (ropWord r e.1 e.2).toNat)

theorem coreAt_modCluster (y : State) (n c : Nat) (f : Cluster → Cluster) : coreAt (modCluster y n f) c = coreAt y c := coreAt_congr rfl c

section
variable {s : State} {m : McstPacket} {cl : Cluster} (hcl : aget s.clusters m.cl = some cl)
include hcl

theorem mcstPerform_eq : mcstPerform s m = modCluster (modCore s m.target (fun k => (bytesAt m.off (delivered s m)).foldl putScratch k)) m.cl
    (fun k => { k with flight := sset 0 k.flight m.gid (sget 0 k.flight m.gid - 1) }) := by
  unfold mcstPerform
  rw [hcl]
  rfl

/-- One packet less of the id is in flight. -/
theorem flight_mcstPerform : (aget (mcstPerform s m).clusters m.cl).map (fun k => sget 0 k.flight m.gid) = some (sget 0 cl.flight m.gid - 1) := by
  rw [mcstPerform_eq hcl, modCluster]
  dsimp only
  rw [aget_amod, if_pos rfl, show (modCore s m.target _).clusters = s.clusters from rfl, hcl]
  simp

theorem scratchByte_mcstPerform (o : Nat) : scratchByte (mcstPerform s m) m.target o
    = if m.off ≤ o ∧ o < m.off + (delivered s m).length then (delivered s m).getD (o - m.off) 0 else scratchByte s m.target o := by
  rw [scratchByte, mcstPerform_eq hcl, coreAt_modCluster, coreAt_modCore_self, scratch_foldl_putScratch, sget_ssetAll_bytesAt]
  rfl

variable (hlen : m.bytes.length = 128)
include hlen

omit hcl in
theorem length_delivered : (delivered s m).length = 128 := by
  unfold delivered
  cases m.rop with
  | none => exact hlen
  | some r =>
    dsimp only
    rw [length_flatMap_four _ fun _ => length_bytesOf ..]
    simp [lineWords]

/-- The bytes of the line are stored; the others are as they were. -/
theorem scratchByte_line {i : Nat} (hi : i < 128) : scratchByte (mcstPerform s m) m.target (m.off + i) = (delivered s m).getD i 0 := by
  rw [scratchByte_mcstPerform hcl, length_delivered hlen, if_pos (by omega), Nat.add_sub_cancel_left]

theorem scratchByte_frame {o : Nat} (ho : o < m.off ∨ m.off + 128 ≤ o) : scratchByte (mcstPerform s m) m.target o = scratchByte s m.target o := by
  rw [scratchByte_mcstPerform hcl, length_delivered hlen, if_neg (by omega)]

/-- Word j of a line of scratch. -/
def scratchWord (z : State) (c off j : Nat) : Word := BitVec.ofNat 32 (natOfBytes ((List.range 4).map (fun i => scratchByte z c (off + 4 * j + i))))

/-- Word j of the packet's line. -/
def packetWord (m : McstPacket) (j : Nat) : Word := BitVec.ofNat 32 (natOfBytes ((m.bytes.drop (4 * j)).take 4))

omit hcl hlen in
/-- The words of a reduction's line, each combined with the packet's. -/
theorem delivered_words {r : BitVec 2} (hr : m.rop = some r) : delivered s m
    = (List.range 32).flatMap (fun j => bytesOf 4 (ropWord r (scratchWord s m.target m.off j) (packetWord m j)).toNat) := by
  have hold : lineWords ((List.range 128).map (fun i => scratchByte s m.target (m.off + i)))
      = (List.range 32).map (scratchWord s m.target m.off) := by
    refine List.map_congr_left fun j hj => ?_
    have hlt := List.mem_range.1 hj
    rw [scratchWord, ← map_range_getD _ (by simp; omega)]
    congr 2
    refine List.map_congr_left fun i hi => ?_
    have hi4 := List.mem_range.1 hi
    rw [List.getD_eq_getElem _ _ (by simp; omega), List.getElem_map, List.getElem_range, Nat.add_assoc]
  unfold delivered
  rw [hr]
  dsimp only
  rw [hold, show lineWords m.bytes = (List.range 32).map (packetWord m) from rfl, List.zip_map', List.flatMap_map]

/-- Each word of a reduction's line is combined with the packet's. -/
theorem scratchWord_reduced {r : BitVec 2} (hr : m.rop = some r) {j : Nat} (hj : j < 32) : scratchWord (mcstPerform s m) m.target m.off j
    = ropWord r (scratchWord s m.target m.off j) (packetWord m j) := by
  have hline : (List.range 4).map (fun i => scratchByte (mcstPerform s m) m.target (m.off + 4 * j + i))
      = ((delivered s m).drop (4 * j)).take 4 := by
    rw [← map_range_getD _ (by rw [length_delivered hlen]; omega)]
    refine List.map_congr_left fun i hi => ?_
    rw [Nat.add_assoc, scratchByte_line hcl hlen (by have := List.mem_range.1 hi; omega)]
  rw [scratchWord, hline, delivered_words hr, block_flatMap _ (fun _ => length_bytesOf ..) _ (by simpa using hj), List.getElem_range,
    natOfBytes_bytesOf 4 (BitVec.isLt _), BitVec.ofNat_toNat, BitVec.setWidth_eq]

end

/-! ### Barriers (R408 to R414) -/

/-- A generation put in a barrier object's place is full only where it was so when put: where there is no object, none is put. -/
theorem barFull_putBar {s : State} {b : BarRef} {y : BarObj} (h : barFull y = false) : barFull (barObj (putBar s b y) b) = false := by
  cases b with
  | named c t i =>
    have hput : barObj (putBar s (.named c t i) y) (.named c t i) = y := by
      simp [barObj, putBar, modTeam, setTeam, teamAt]
    rw [hput, h]
  | cluster cl =>
    simp only [barObj, putBar, modCluster, aget_amod, if_true]
    cases aget s.clusters cl with
    | none => rfl
    | some k => exact h
  | gang g =>
    simp only [barObj, putBar, modGrid, gridAt, aget_amod, if_true]
    cases aget s.grids g with
    | none => rfl
    | some k => exact h

section
variable {s : State} {b : BarRef}

theorem barRelease_partial (h : barFull (barObj s b) = false) : barRelease s b = s := by
  unfold barRelease
  dsimp only
  rw [h]
  rfl

theorem barRelease_busy (h : barFull (barObj s b) = true) (hbusy : barBusy s b (barObj s b) = true)
    (hnone : s.timers.any (fun t => decide (t.2 = .barrierRelease b)) = false) :
    barRelease s b = { s with timers := s.timers ++ [(s.clk + 8, .barrierRelease b)] } := by
  unfold barRelease
  dsimp only
  rw [h, hbusy, hnone]
  rfl

/-- A generation that nothing holds back is released. -/
theorem barRelease_free (h : barFull (barObj s b) = true) (hbusy : barBusy s b (barObj s b) = false) : barRelease s b
    = (barObj s b).arrived.foldl (fun s a => barWake s a.1 a.2 (barId b) (fun s f => wakeThreads s a.1 a.2 f))
        (putBar ((barObj s b).arrived.foldl (deliverRelease (barId b) (barObj s b)) (publishFresh s (barId b) (barObj s b))) b
          { gen := (barObj s b).gen + 1 }) := by
  unfold barRelease
  dsimp only
  rw [h, hbusy]
  rfl

theorem barTake_fresh {x : BarObj} (h : x.open_ = false ∨ x.fixed = false) (v : Arrival) : barTake x v
    = { x with open_ := true, fixed := true, n := v.count, op := v.op, arrived := [(v.core, v.slot)], waits := [(v.core, v.slot, v.upto)]
               part := v.part } := by
  refine if_neg ?_
  rcases h with h | h <;> simp [h]

theorem barTake_open {x : BarObj} (hopen : x.open_ = true) (hfixed : x.fixed = true) (v : Arrival) : barTake x v
    = { x with arrived := x.arrived ++ [(v.core, v.slot)], waits := x.waits ++ [(v.core, v.slot, v.upto)]
               part := barCombine x.op x.part v.part } := if_pos (by rw [hopen, hfixed]; rfl)

/-- An arrival of a group that has no record of it is dropped. -/
theorem barArrives_unrecorded {v : Arrival} (h : (groupAt s v.core v.slot).bind (fun g => aget g.recs (barId b)) = none) : barArrives s b v = s := by
  unfold barArrives
  dsimp only
  rw [h]
  rfl

section
variable {v : Arrival} (h : ((groupAt s v.core v.slot).bind (fun g => aget g.recs (barId b))).isSome = true)
include h

/-- An arrival whose count or operation is not the generation's is refused. -/
theorem barArrives_refused (hopen : (barObj s b).open_ = true) (hfixed : (barObj s b).fixed = true)
    (hother : v.count ≠ (barObj s b).n ∨ v.op ≠ (barObj s b).op) : barArrives s b v = afterBar (barRefuse s b v) b := by
  unfold barArrives
  dsimp only
  rw [if_neg (by simpa [Option.isSome_iff_ne_none] using h), if_pos (by simpa [hopen, hfixed] using hother)]

theorem barArrives_accepted (hsame : (barObj s b).open_ = true → (barObj s b).fixed = true →
    v.count = (barObj s b).n ∧ v.op = (barObj s b).op) : barArrives s b v = afterBar (barRelease (barAccept s b v) b) b := by
  unfold barArrives
  dsimp only
  rw [if_neg (by simpa [Option.isSome_iff_ne_none] using h), if_neg (by simpa using hsame)]

end

end

/-! ### SCGO (R174) -/

/-- The threads of a group that wait in a system call whose record is posted. -/
def posted (h : Group) : List Nat :=
  (lanesWhere h.r (· == .sysc)).filter (fun l => decide (l ∉ (h.done ++ [h.open_]).flatMap (fun k => k.effects.flatMap (fun e => match e with
    | .sysc _ _ _ ls => ls
    | _ => []))))

/-- The core and slot that SCGO answers. -/
def called (g : Group) : Nat × Nat := (g.f.ctxsel.toNat % 256, g.f.ctxsel.toNat / 256 % 64)

section
variable {s : State} {c slot : Nat} {g : Group} (hg : groupAt s c slot = some g)
include hg

/-- SCGO of a group with nothing to answer raises SCERR. -/
theorem scgoWrite_error (h : ∀ t, groupAt s (called g).1 (called g).2 = some t → posted t = []) :
    scgoWrite s c slot = modGroup s c slot (fun g => { g with f := { g.f with scerr := true } }) := by
  unfold scgoWrite
  rw [hg]
  dsimp only
  cases ht : groupAt s (g.f.ctxsel.toNat % 256) (g.f.ctxsel.toNat / 256 % 64) with
  | none => rfl
  | some t => exact if_pos (List.isEmpty_iff.2 (h t ht))

/-- SCGO answers the threads whose record is posted. -/
theorem scgoWrite_answers {t : Group} (ht : groupAt s (called g).1 (called g).2 = some t) (hne : posted t ≠ []) : scgoWrite s c slot
    = wakeThreads (modDie s (dieOf (called g).1)
        (fun d => { d with sysRecs := d.sysRecs.filter (fun r => !(r.core == (called g).1 && r.slot == (called g).2)) })) (called g).1 (called g).2
      (fun r =>
        let r := setPcs (setThr r (posted t) .run) ((posted t).map (fun t => (t, sget 0 r.pc t + 4)))
        { r with k := sset 0 (sset 0 r.k 4 (loWord g.f.scval)) 5 (hiWord g.f.scval) }) := by
  unfold scgoWrite
  rw [hg]
  dsimp only
  rw [show groupAt s (g.f.ctxsel.toNat % 256) (g.f.ctxsel.toNat / 256 % 64) = some t from ht]
  exact if_neg fun hempty => hne (List.isEmpty_iff.1 hempty)

end

/-- Settles O42: each event is its step, case by case. -/
theorem barrierMulticastAndCallSteps : Obligations.BarrierMulticastAndCallSteps := by
  unfold Obligations.BarrierMulticastAndCallSteps
  intro s b v m cl c slot g h x i record
  refine ⟨fun hrec => congrArg _ (barArrives_unrecorded hrec),
    fun hrec hopen hfixed hother => congrArg _ (barArrives_refused hrec hopen hfixed hother),
    fun hrec hsame => ⟨congrArg _ (barArrives_accepted hrec hsame), fun hfresh => barTake_fresh hfresh v, fun hopen hfixed => ?joined⟩,
    fun hpart => ⟨congrArg _ (barRelease_partial hpart), ?present⟩, fun hfull hbusy hnone => congrArg _ (barRelease_busy hfull hbusy hnone),
    fun hfull hbusy => congrArg _ (barRelease_free hfull hbusy), fun hcl hlen => ?delivery, fun hg => ?scgo⟩
  case joined =>
    rw [barTake_open hopen hfixed]
    exact ⟨rfl, rfl, rfl, rfl⟩
  case present =>
    have hput : barFull (barObj (putBar s b { x with pending := x.pending - 1 }) b) = false := barFull_putBar hpart
    exact congrArg (fun z => Host.Outcome.next (afterBar z b)) (barRelease_partial hput)
  case delivery =>
    intro at_ word
    refine ⟨_, rfl, flight_mcstPerform hcl, fun o ho => scratchByte_frame hcl hlen ho, fun hrop j hj => ?_,
      fun r hr j hj => scratchWord_reduced hcl hlen hr hj⟩
    exact (scratchByte_line hcl hlen hj).trans (by rw [delivered, hrop])
  case scgo =>
    intro tc ts
    refine ⟨fun hnone => congrArg _ (scgoWrite_error hg fun t ht => absurd (hnone.symm.trans ht) nofun), fun ht => ?_⟩
    intro early ls
    have hposted : posted h = ls := rfl
    refine ⟨fun hls => congrArg _ (scgoWrite_error hg fun t ht' => ?_), fun hls => ?_⟩
    · obtain rfl : h = t := Option.some.inj (ht.symm.trans ht')
      exact hposted.trans hls
    · rw [show exec (.scgo c slot) s = .next (scgoWrite s c slot) from rfl, scgoWrite_answers hg ht (by rw [hposted]; exact hls), hposted]
      rfl

end Sys2Proof.Proofs

/-! # The committed memory through the operations of the state (R204): folds and branches

The canonical form of the committed memory is kept because every operation either leaves the memory alone (a lemma `mem_f`, an equation) or
writes it by `memPut` or by leaving entries out (a lemma `wf_f`: the form before gives the form after). Here are the two facts about folds
that the lemmas of the next part rest on, and what a pair's second part inherits. -/

namespace Sys2Proof.Proofs

open Sys2Proof Sys2Proof.Machine Sys2Proof.Laws

@[simp] theorem mem_ite {p : Prop} [Decidable p] (s t : State) : (if p then s else t).mem = if p then s.mem else t.mem :=
  apply_ite State.mem p s t

@[simp] theorem wf_ite {p : Prop} [Decidable p] {m n : List Host.Cell} (hm : Memory.wf m = true) (hn : Memory.wf n = true) :
    Memory.wf (if p then m else n) = true := by split <;> assumption

/-- A step of a fold leaves the committed memory alone. -/
def KeepsMem {α : Type} (f : State → α → State) : Prop := ∀ s a, (f s a).mem = s.mem

@[simp] theorem keepsMem_iff {α : Type} (f : State → α → State) : KeepsMem f ↔ ∀ s a, (f s a).mem = s.mem := Iff.rfl

@[simp] theorem mem_foldl {α : Type} {f : State → α → State} (h : KeepsMem f) (ls : List α) (s : State) : (ls.foldl f s).mem = s.mem :=
    by
  induction ls generalizing s with
  | nil => rfl
  | cons a ls ih => rw [List.foldl_cons, ih, h]

@[simp] theorem mem_foldr {α : Type} {f : α → State → State} (h : KeepsMem fun s a => f a s) (ls : List α) (s : State) :
    (ls.foldr f s).mem = s.mem := by
  induction ls with
  | nil => rfl
  | cons a ls ih => rw [List.foldr_cons, h, ih]

/-- A step of a fold keeps the canonical form. -/
def KeepsWf {α : Type} (f : State → α → State) : Prop := ∀ s a, Memory.wf s.mem = true → Memory.wf (f s a).mem = true

@[simp] theorem keepsWf_iff {α : Type} (f : State → α → State) :
    KeepsWf f ↔ ∀ s a, Memory.wf s.mem = true → Memory.wf (f s a).mem = true := Iff.rfl

@[simp] theorem wf_foldl {α : Type} {f : State → α → State} (h : KeepsWf f) (ls : List α) {s : State} (hs : Memory.wf s.mem = true) :
    Memory.wf (ls.foldl f s).mem = true :=
  List.foldlRecOn (motive := fun s => Memory.wf s.mem = true) ls f hs fun s hs a _ => h s a hs

@[simp] theorem wf_ssetAll {m : List Host.Cell} (kvs : List (Nat × Byte)) (h : Memory.wf m = true) : Memory.wf
    (ssetAll 0#8 m kvs) = true :=
  swf_ssetAll 0 kvs m h

theorem wf_filter {m : List Host.Cell} (q : Host.Cell → Bool) (h : Memory.wf m = true) : Memory.wf (m.filter q) = true := by
  simp only [Memory.wf, swf, Bool.and_eq_true, List.all_eq_true] at h ⊢
  exact ⟨skeysRise_filter m q h.1, fun e he => h.2 e (List.mem_filter.1 he).1⟩

theorem snd_mem {α : Type} {p : α × State} {a : α} {t : State} {m : List Host.Cell} (hp : p.2.mem = m) (h : p = (a, t)) : t.mem = m :=
    by
  subst h; exact hp

theorem snd_wf {α : Type} {p : α × State} {a : α} {t : State} (hp : Memory.wf p.2.mem = true) (h : p =
    (a, t)) : Memory.wf t.mem = true := by
  subst h; exact hp

end Sys2Proof.Proofs

/-! # The committed memory through the operations of the state (R204): one lemma for each operation

In the order of the model: `mem_f` where the operation `f` leaves the committed memory alone, `wf_f` where it may write it. -/

namespace Sys2Proof.Proofs

open Sys2Proof Sys2Proof.Machine Sys2Proof.Laws

/-! ## Ops.lean -/

@[simp] theorem mem_modCluster (s : State) (cl : Nat) (f : Cluster → Cluster) : (modCluster s cl f).mem = s.mem := rfl
@[simp] theorem mem_takeFree (s : State) : (takeFree s).2.mem = s.mem := rfl
@[simp] theorem mem_ctrAdd (s : State) (k n : Nat) : (ctrAdd s k n).mem = s.mem := rfl
@[simp] theorem mem_dieCtr (s : State) (d idx n : Nat) : (dieCtr s d idx n).mem = s.mem := rfl
@[simp] theorem mem_charge (s : State) (k n : Nat) : (charge s k n).mem = s.mem := rfl
@[simp] theorem mem_refuseAdmission (s : State) (k : Nat) : (refuseAdmission s k).mem = s.mem := by simp [refuseAdmission]
@[simp] theorem mem_kickAcc (s : State) (c : Nat) : (kickAcc s c).mem = s.mem := by simp [kickAcc]

@[simp] theorem wf_memPutNat {s : State} (a n v : Nat) (hs : Memory.wf s.mem = true) : Memory.wf (memPutNat s a n v).mem = true := by
  simp [memPutNat, hs]

@[simp] theorem mem_sendPacket (s : State) (src x : Nat) (e : Instr) : (sendPacket s src x e).mem = s.mem := by simp [sendPacket]

@[simp] theorem mem_freeTag (s : State) (x : Nat) : (freeTag s x).mem = s.mem := by
  unfold freeTag
  split <;> simp

@[simp] theorem wf_storeLog {s : State} (v : Nat) (hs : Memory.wf s.mem = true) : Memory.wf (storeLog s v).mem = true := by
  simp [storeLog, hs]

@[simp] theorem wf_drainLog {s : State} (h : Memory.wf s.mem = true) : Memory.wf (drainLog s).mem = true := by
  unfold drainLog
  refine List.foldlRecOn (motive := fun a : State × List Nat × List Nat => Memory.wf a.1.mem = true) _ _ h fun a ha v _ => ?_
  dsimp only
  repeat' split
  all_goals simp [ha]

@[simp] theorem wf_postLog {s : State} (ev die unit data : Nat) (hs : Memory.wf s.mem = true) :
    Memory.wf (postLog s ev die unit data).mem = true := by
  simp [postLog, hs]

@[simp] theorem mem_setFpend (s : State) (c : Nat) (bits : Word) : (setFpend s c bits).mem = s.mem := rfl

@[simp] theorem mem_pendDie (s : State) (d : Nat) (bits : Word) : (pendDie s d bits).mem = s.mem := by
  unfold pendDie
  split <;> simp

/-! ## Reserve.lean -/

@[simp] theorem mem_dramPut (s : State) (line : Nat) (bs : List Byte) : (dramPut s line bs).mem = s.mem := rfl
@[simp] theorem mem_parityPut (s : State) (row : Nat) (bs : List Byte) : (parityPut s row bs).mem = s.mem := rfl
@[simp] theorem mem_markPoison (s : State) (line : Nat) : (markPoison s line).mem = s.mem := by simp [markPoison]
@[simp] theorem mem_clearPoison (s : State) (line : Nat) : (clearPoison s line).mem = s.mem := rfl

@[simp] theorem mem_l2Room (s : State) (slice : Nat) : (l2Room s slice).mem = s.mem := by
  unfold l2Room
  dsimp only
  repeat' split
  all_goals simp

@[simp] theorem mem_l2Fill (s : State) (line : Nat) : (l2Fill s line).mem = s.mem := by simp [l2Fill]

@[simp] theorem wf_enterRebuilt {s : State} (line : Nat) (v : List Byte) (hs : Memory.wf s.mem = true) :
    Memory.wf (enterRebuilt s line v).mem = true := by
  simp [enterRebuilt, hs]

@[simp] theorem mem_countPacket (s : State) (x row : Nat) : (countPacket s x row).mem = s.mem := by simp [countPacket]
@[simp] theorem mem_l2Fetch (s : State) (line : Nat) : (l2Fetch s line).mem = s.mem := by simp [l2Fetch]

@[simp] theorem wf_rebuild {s : State} (line : Nat) (hs : Memory.wf s.mem = true) : Memory.wf (rebuild s line).mem = true := by
  unfold rebuild
  extract_lets s₁ p s₂
  have h₂ : Memory.wf s₂.mem = true := by simp [s₂, s₁, hs]
  split <;> simp [h₂]

@[simp] theorem wf_readLine {s : State} (line : Nat) (hs : Memory.wf s.mem = true) : Memory.wf (readLine s line).mem = true := by
  simp [readLine, hs]

@[simp] theorem mem_passTime (s : State) (n : Nat) : (passTime s n).mem = s.mem := passTime_mem s n

/-! ## Chunks.lean -/

@[simp] theorem mem_beginAt (s : State) (c slot : Nat) : (beginAt s c slot).mem = s.mem := by
  unfold beginAt
  split <;> simp

@[simp] theorem mem_dirAdd (s : State) (c line : Nat) : (dirAdd s c line).mem = s.mem := by
  unfold dirAdd
  dsimp only
  split <;> simp

@[simp] theorem mem_dirDel (s : State) (c line : Nat) : (dirDel s c line).mem = s.mem := by
  unfold dirDel
  split <;> simp

@[simp] theorem mem_leaveDir (s : State) (c line : Nat) : (leaveDir s c line).mem = s.mem := by simp [leaveDir]
@[simp] theorem mem_sweepDir (s : State) (c : Nat) : (sweepDir s c).mem = s.mem := by simp [sweepDir]

@[simp] theorem mem_dropUncommitted (s : State) (c : Nat) (lines : List Nat) : (dropUncommitted s c lines).mem = s.mem := by
  simp [dropUncommitted]

@[simp] theorem mem_unreserve (c slot : Nat) (s : State) (x1 : Effect) : (unreserve c slot s x1).mem = s.mem := by
  unfold unreserve
  repeat' split
  all_goals simp

@[simp] theorem mem_tallyBar (s : State) (c slot : Nat) : (tallyBar s c slot).mem = s.mem := by
  unfold tallyBar
  repeat' split
  all_goals simp

@[simp] theorem mem_dropAcc (s : State) (c slot : Nat) : (dropAcc s c slot).mem = s.mem := by
  simp only [dropAcc, mem_kickAcc]
  exact mem_foldl (fun _ _ => by split <;> simp) _ _

@[simp] theorem mem_dropAsker (s : State) (me : Nat × Nat) (q : AtsReq → Bool) : (dropAsker s me q).mem = s.mem := by simp [dropAsker]

@[simp] theorem mem_squashFrom (s : State) (c slot num : Nat) : (squashFrom s c slot num).mem = s.mem := by
  unfold squashFrom
  dsimp only
  repeat' split
  all_goals simp

@[simp] theorem mem_squashCore (s : State) (c : Nat) (except : Option Nat) (p : Chunk → Bool) :
    (squashCore s c except p).mem = s.mem := by
  unfold squashCore
  refine mem_foldl (fun s e => ?_) _ _
  repeat' split
  all_goals simp

@[simp] theorem mem_invalidate (s : State) (c : Nat) (lines : List Nat) : (invalidate s c lines).mem = s.mem := by simp [invalidate]
@[simp] theorem mem_revoke (s : State) (line : Nat) : (revoke s line).mem = s.mem := by simp [revoke]
@[simp] theorem mem_wakePackets (s : State) (line : Nat) : (wakePackets s line).mem = s.mem := by simp [wakePackets]
@[simp] theorem mem_wakeWatchers (s : State) (line : Nat) : (wakeWatchers s line).mem = s.mem := by simp [wakeWatchers]
@[simp] theorem mem_l2Write (s : State) (line : Nat) : (l2Write s line).mem = s.mem := by simp [l2Write]
@[simp] theorem mem_markDirty (c : Nat) (s : State) (line : Nat) : (markDirty c s line).mem = s.mem := by simp [markDirty]
@[simp] theorem mem_markAhead (c : Nat) (s : State) (line : Nat) : (markAhead c s line).mem = s.mem := rfl
@[simp] theorem mem_leaveL1 (s : State) (x : L1Line) : (leaveL1 s x).mem = s.mem := by simp [leaveL1]
@[simp] theorem mem_writeBack (s : State) (c : Nat) (lines : List Nat) : (writeBack s c lines).mem = s.mem := by simp [writeBack]
@[simp] theorem mem_enterSafe (s : State) (cause : Nat) : (enterSafe s cause).mem = s.mem := rfl

@[simp] theorem wf_dieDump {s : State} (d : Nat) (hs : Memory.wf s.mem = true) : Memory.wf (dieDump s d).mem = true := by
  unfold dieDump
  refine wf_foldl (fun s _ hs => ?_) _ (wf_foldl (fun s _ hs => ?_) _ ?_) <;> simp [*]

@[simp] theorem wf_dumpDone {s : State} (hs : Memory.wf s.mem = true) : Memory.wf (dumpDone s).mem = true := by
  simp only [dumpDone]
  repeat' split
  all_goals simp +contextual [hs]

@[simp] theorem wf_showLine {s : State} (kvs : List (Nat × Byte)) (line : Nat) (hs : Memory.wf s.mem = true) :
    Memory.wf (showLine s kvs line).mem = true := by
  unfold showLine
  dsimp only
  split <;> simp [hs]

@[simp] theorem wf_performWrite {s : State} (except : Option (Nat × Nat)) (kvs : List (Nat × Byte)) (hs : Memory.wf s.mem = true) :
    Memory.wf (performWrite s except kvs).mem = true := by
  simp +contextual [performWrite, hs]

@[simp] theorem mem_grantPress (s : State) (d : Nat) (x : GrantRec) : (grantPress s d x).mem = s.mem := rfl
@[simp] theorem mem_reconsider (s : State) (d : Nat) : (reconsider s d).mem = s.mem := by simp [reconsider]
@[simp] theorem mem_enterPress (s : State) (d : Nat) (r : GrantRec) : (enterPress s d r).mem = s.mem := by simp [enterPress]

@[simp] theorem mem_askPress (s : State) (k : ChunkRef) (lines : List Nat) (ev : Instr) : (askPress s k lines ev).mem = s.mem := by
  unfold askPress
  split <;> simp

@[simp] theorem mem_askGot (s : State) (d : Nat) (k : ChunkRef) : (askGot s d k).mem = s.mem := by
  unfold askGot
  dsimp only
  repeat' split
  all_goals simp

@[simp] theorem mem_askOver (s : State) (k : ChunkRef) : (askOver s k).mem = s.mem := by
  unfold askOver
  split <;> simp

/-! ## Memory.lean -/

@[simp] theorem mem_takeWalk (s : State) (d p va : Nat) (r : Except XErr (Dword × Nat × Nat)) :
    (takeWalk s d p va r).2.mem = s.mem := by
  unfold takeWalk
  dsimp only
  split <;> simp

@[simp] theorem mem_takeLeaf (s : State) (va : Nat) (table : Option Nat) (r : Except XErr (Dword × Nat × Nat)) :
    (takeLeaf s va table r).2.mem = s.mem := by
  unfold takeLeaf
  dsimp only
  repeat' split
  all_goals simp

@[simp] theorem mem_askAts (s : State) (core p page : Nat) (me : Nat × Nat) : (askAts s core p page me).mem = s.mem := by
  unfold askAts
  repeat' split
  all_goals simp

@[simp] theorem mem_fillTlb (s : State) (core : Nat) (who : Agent) (t : TlbEnt) : (fillTlb s core who t).mem = s.mem := by
  unfold fillTlb
  split <;> simp

@[simp] theorem mem_applyLeaf (s : State) (core p : Nat) (fmode : Bool) (va : Nat) (e : Dword) (lvl : Nat) (acc : Access) :
    (applyLeaf s core p fmode va e lvl acc).2.mem = s.mem := (outer_applyLeaf ..).mem

@[simp] theorem mem_xlate (s : State) (core p : Nat) (fmode : Bool) (va : Dword) (acc : Access) :
    (xlate s core p fmode va acc).2.mem = s.mem := by
  unfold xlate
  dsimp only
  repeat' split
  all_goals simp

theorem wf_unitRead {s t : State} {pas : List Nat} (h : unitRead s pas = some t) (hs : Memory.wf s.mem = true) : Memory.wf t.mem = true := by
  have hread : ∀ ls : List Nat, Memory.wf (ls.foldl readLine s).mem = true := fun ls => by simp +contextual [hs]
  simp only [unitRead] at h
  split at h
  · cases h
  · cases h
    simp [hread]

@[simp] theorem mem_xlatePages (core p : Nat) (fmode : Bool) (va : Dword) (acc : Access) (os : List Nat) (s : State) :
    (xlatePages core p fmode va acc os s).2.mem = s.mem := (outer_xlatePages ..).mem

@[simp] theorem mem_engineAddrs (s : State) (core p : Nat) (va : Dword) (n : Nat) (wr : Bool) (who : Agent) :
    (engineAddrs s core p va n wr who).2.mem = s.mem := by
  unfold engineAddrs
  dsimp only
  split <;> simp

@[simp] theorem mem_serveRead (s : State) (c line : Nat) : (serveRead s c line).mem = s.mem := by simp [serveRead]
@[simp] theorem mem_takeValue (s : State) (c line : Nat) (rd : Bool) : (takeValue s c line rd).mem = s.mem := by simp [takeValue]

@[simp] theorem mem_touchLine (s : State) (c line : Nat) (rd : Bool) : (touchLine s c line rd).mem = s.mem := by
  unfold touchLine
  dsimp only
  repeat' split
  all_goals simp

@[simp] theorem mem_touchStash (s : State) (c line : Nat) (rd : Bool) : (touchStash s c line rd).mem = s.mem := by simp [touchStash]

@[simp] theorem mem_touchAll (s : State) (ls st : List Nat) (rd fill : Bool) : (touchAll s ls st rd fill).mem = s.mem := by
  simp [touchAll]

@[simp] theorem mem_xlatePieces (acc : Access) (ps : List (Dword × Nat)) (s : State) : (xlatePieces acc ps s).2.mem = s.mem :=
  (outer_xlatePieces ..).mem

/-! ## Operands.lean -/

@[simp] theorem mem_modChan (s : State) (core ch : Nat) (f : Chan → Chan) : (modChan s core ch f).mem = s.mem := rfl

/-! ## Futures.lean -/

@[simp] theorem mem_modFut (s : State) (core i : Nat) (f : Fut → Fut) : (modFut s core i f).mem = s.mem := rfl
@[simp] theorem mem_freeFut (s : State) (core i : Nat) : (freeFut s core i).mem = s.mem := rfl

@[simp] theorem mem_serveWaiter (home : Nat) (h v : Dword) (s : State) (w : Bool × NodeRef) :
    (serveWaiter home h v s w).mem = s.mem := by
  simp [serveWaiter]

@[simp] theorem mem_resolveAt (s : State) (ctx : Word) (h v : Dword) : (resolveAt s ctx h v).mem = s.mem := by simp [resolveAt]
@[simp] theorem mem_itemsDone (s : State) (ctx : Word) (h : Dword) (n : Nat) : (itemsDone s ctx h n).mem = s.mem := by simp [itemsDone]

@[simp] theorem mem_resolveFrom (s : State) (core : Nat) (ctx : Word) (h v : Dword) : (resolveFrom s core ctx h v).mem = s.mem := by
  simp [resolveFrom]

@[simp] theorem mem_freeAt (s : State) (h : Dword) : (freeAt s h).mem = s.mem := by simp [freeAt]

@[simp] theorem mem_registerNode (s : State) (ctx : Word) (node : NodeRef) (h : Dword) : (registerNode s ctx node h).mem = s.mem := by
  unfold registerNode
  split <;> simp

@[simp] theorem mem_registerJoiner (s : State) (ctx : Word) (core slot : Nat) (h : Dword) :
    (registerJoiner s ctx core slot h).mem = s.mem := by
  unfold registerJoiner
  split <;> simp

@[simp] theorem mem_gliveAdd (s : State) (g n : Nat) : (gliveAdd s g n).mem = s.mem := rfl

@[simp] theorem mem_gliveDone (s : State) (g : Nat) : (gliveDone s g).mem = s.mem := by
  unfold gliveDone
  dsimp only
  split <;> simp

@[simp] theorem mem_kick (s : State) (core : Nat) : (kick s core).mem = s.mem := rfl
@[simp] theorem mem_dqDone (s : State) (core kind : Nat) : (dqDone s core kind).mem = s.mem := rfl
@[simp] theorem mem_pushHot (s : State) (core : Nat) (e : DqEntry) : (pushHot s core e).mem = s.mem := rfl
@[simp] theorem mem_pushCommit (s : State) (core : Nat) (e : DqEntry) : (pushCommit s core e).mem = s.mem := by simp [pushCommit]

@[simp] theorem mem_drainPush (s : State) (core : Nat) : (drainPush s core).mem = s.mem := by
  unfold drainPush
  split <;> simp

@[simp] theorem mem_drainReady (s : State) (core : Nat) : (drainReady s core).mem = s.mem := by
  unfold drainReady
  dsimp only
  repeat' split
  all_goals simp

@[simp] theorem mem_leftDeque (s : State) (core : Nat) : (leftDeque s core).mem = s.mem := by simp [leftDeque]

@[simp] theorem mem_eraseClaimed (s : State) (core : Nat) (h ca : Dword) : (eraseClaimed s core h ca).mem = s.mem := by
  simp [eraseClaimed]

@[simp] theorem mem_removeClaimed (s : State) (core : Nat) (h ca : Dword) : (removeClaimed s core h ca).mem = s.mem := by
  simp [removeClaimed]

@[simp] theorem mem_drainRemoval (s : State) (core : Nat) : (drainRemoval s core).mem = s.mem := by
  unfold drainRemoval
  split <;> simp

@[simp] theorem mem_poolNodeReady (s : State) (core i : Nat) : (poolNodeReady s core i).mem = s.mem := by
  unfold poolNodeReady
  split <;> simp

@[simp] theorem mem_copyNodeReady (s : State) (id : Nat) : (copyNodeReady s id).mem = s.mem := by
  unfold copyNodeReady
  split <;> simp

@[simp] theorem mem_sendFreg (s : State) (node : NodeRef) (h : Dword) : (sendFreg s node h).mem = s.mem := rfl

/-! ## Faults.lean -/

@[simp] theorem mem_abortCheck (s : State) (g : Nat) : (abortCheck s g).mem = s.mem := by
  unfold abortCheck
  split <;> simp

@[simp] theorem mem_nudgeGroup (s : State) (c slot : Nat) : (nudgeGroup s c slot).mem = s.mem := by
  unfold nudgeGroup
  split <;> simp

@[simp] theorem mem_abortGroup (s : State) (c slot : Nat) : (abortGroup s c slot).mem = s.mem := by
  unfold abortGroup
  repeat' split
  all_goals simp

@[simp] theorem wf_noteAbort {s : State} (p fcode : Nat) (hs : Memory.wf s.mem = true) :
    Memory.wf (noteAbort s p fcode).mem = true := by
  unfold noteAbort
  split <;> simp [hs]

@[simp] theorem wf_abortGrid {s : State} (g fcode : Nat) (hs : Memory.wf s.mem = true) :
    Memory.wf (abortGrid s g fcode).mem = true := by
  unfold abortGrid
  split <;> simp [hs]

@[simp] theorem mem_postFault (s : State) (e : FaultEnt) : (postFault s e).mem = s.mem := by simp [postFault]
@[simp] theorem mem_modSaved (s : State) (p c : Nat) (f : Core → Core) : (modSaved s p c f).mem = s.mem := rfl

@[simp] theorem wf_writeFaultSection {s : State} (p : Nat) (r : FaultRec) (hs : Memory.wf s.mem = true) :
    Memory.wf (writeFaultSection s p r).mem = true := by
  unfold writeFaultSection
  split <;> simp [hs]

@[simp] theorem wf_settle {s : State} (core team : Nat) (hs : Memory.wf s.mem = true) : Memory.wf (settle s core team).mem = true := by
  unfold settle
  dsimp only
  repeat' split
  all_goals simp [hs]

@[simp] theorem mem_uncall (s : State) (core team : Nat) (x : PendCall) : (uncall s core team x).mem = s.mem := by
  unfold uncall
  repeat' split
  all_goals simp

@[simp] theorem mem_uncont (s : State) (core team : Nat) (x : PendCall) : (uncont s core team x).mem = s.mem := rfl

@[simp] theorem mem_dropCall (s : State) (core team : Nat) : (dropCall s core team).mem = s.mem := by
  unfold dropCall
  split <;> simp

@[simp] theorem mem_haltGroup (why c : Nat) (s : State) (slot : Nat) : (haltGroup why c s slot).mem = s.mem := by
  unfold haltGroup
  repeat' split
  all_goals simp

@[simp] theorem mem_leaveMap (s : State) (v c : Nat) : (leaveMap s v c).mem = s.mem := rfl

@[simp] theorem wf_cork {s : State} (c why : Nat) (hs : Memory.wf s.mem = true) : Memory.wf (cork s c why).mem = true := by
  unfold cork
  split <;> simp [hs]

@[simp] theorem wf_stopGroup {s : State} (core slot : Nat) (pc : PC) (fi : FaultInfo) (cks : Word) (hs : Memory.wf s.mem = true) :
    Memory.wf (stopGroup s core slot pc fi cks).mem = true := by
  unfold stopGroup
  dsimp only
  repeat' split
  all_goals simp [hs]

@[simp] theorem mem_resumeAgent (s : State) (e : FaultEnt) : (resumeAgent s e).mem = s.mem := by
  unfold resumeAgent
  dsimp only
  repeat' split
  all_goals simp

@[simp] theorem wf_abortAgent {s : State} (e : FaultEnt) (hs : Memory.wf s.mem = true) : Memory.wf (abortAgent s e).mem = true := by
  unfold abortAgent
  split <;> simp [hs]

@[simp] theorem mem_unbindCore (s : State) (c : Nat) : (unbindCore s c).mem = s.mem := by simp [unbindCore]
@[simp] theorem mem_fitL1 (s : State) (c n : Nat) : (fitL1 s c n).mem = s.mem := by simp [fitL1]

/-! ## Engine.lean -/

@[simp] theorem mem_grantTiles (s : State) (c team n : Nat) : (grantTiles s c team n).2.mem = s.mem := rfl
@[simp] theorem mem_engineFail (s : State) (o : EngOp) (code addr : Nat) : (engineFail s o code addr).mem = s.mem := rfl
@[simp] theorem mem_markReady (s : State) (c : Nat) : (markReady s c).mem = s.mem := by simp [markReady]

@[simp] theorem mem_engineKick (s : State) (c : Nat) : (engineKick s c).mem = s.mem := by
  unfold engineKick
  dsimp only
  repeat' split
  all_goals simp

@[simp] theorem mem_leaveSlots (s : State) (c team : Nat) (t : Team) : (leaveSlots s c team t).mem = s.mem := by
  unfold leaveSlots
  split <;> simp

@[simp] theorem mem_closeTeam (s : State) (c team : Nat) : (closeTeam s c team).mem = s.mem := by simp [closeTeam]
@[simp] theorem mem_dropUnarrived (s : State) (c team : Nat) : (dropUnarrived s c team).mem = s.mem := rfl
@[simp] theorem mem_finishOp (s : State) (o : EngOp) : (finishOp s o).mem = s.mem := by simp [finishOp]
@[simp] theorem mem_mmaArrived (s : State) (o : EngOp) : (mmaArrived s o).mem = s.mem := by simp [mmaArrived]
@[simp] theorem mem_modOp (s : State) (c order : Nat) (f : EngOp → EngOp) : (modOp s c order f).mem = s.mem := rfl

@[simp] theorem mem_mmaRelease (s : State) (o : EngOp) : (mmaRelease s o).mem = s.mem := by
  unfold mmaRelease
  dsimp only
  repeat' split
  all_goals simp

@[simp] theorem mem_releaseOp (s : State) (o : EngOp) : (releaseOp s o).mem = s.mem := by
  unfold releaseOp
  dsimp only
  split <;> simp

/-! ## Firmware.lean -/

@[simp] theorem mem_startFmode (s : State) (c : Nat) (entry : PC) : (startFmode s c entry).mem = s.mem := rfl
@[simp] theorem mem_startVintners (s : State) (entry : PC) : (startVintners s entry).mem = s.mem := by simp [startVintners]
@[simp] theorem mem_restartVintners (s : State) (skip : Option Nat) : (restartVintners s skip).mem = s.mem := by simp [restartVintners]

@[simp] theorem wf_afterReset (s : State) (power : Bool) : Memory.wf (afterReset s power).mem = true := by cases power <;> rfl

@[simp] theorem wf_boot (s : State) (corks : Sparse Nat) (power : Bool) : Memory.wf (boot s corks power).mem = true := by
  unfold boot
  dsimp only
  repeat' split
  all_goals simp

@[simp] theorem mem_imgChk (s : State) (v : Dword) : (imgChk s v).mem = s.mem := by
  unfold imgChk
  split <;> simp

@[simp] theorem wf_imgDone {s : State} (hs : Memory.wf s.mem = true) : Memory.wf (imgDone s).mem = true := by
  unfold imgDone
  dsimp only
  split <;> simp +contextual [hs]

@[simp] theorem mem_flashPut (s : State) (kvs : List (Nat × Byte)) : (flashPut s kvs).mem = s.mem := rfl
@[simp] theorem mem_putSectors (s : State) (op fa ma len n : Nat) : (putSectors s op fa ma len n).mem = s.mem := rfl
@[simp] theorem mem_spoilSector (s : State) (a : Nat) : (spoilSector s a).mem = s.mem := by simp [spoilSector]

@[simp] theorem mem_cutFlash (s : State) : (cutFlash s).mem = s.mem := by
  unfold cutFlash
  split <;> simp

@[simp] theorem mem_flashStart (s : State) (v : Dword) : (flashStart s v).mem = s.mem := by
  unfold flashStart
  split <;> simp

@[simp] theorem wf_flashDone {s : State} (hs : Memory.wf s.mem = true) : Memory.wf (flashDone s).mem = true := by
  unfold flashDone
  split <;> simp [hs]

@[simp] theorem mem_holdQueues (s : State) (v : Word) : (holdQueues s v).mem = s.mem := rfl
@[simp] theorem mem_armWatch (s : State) (v : Dword) : (armWatch s v).mem = s.mem := by simp [armWatch]
@[simp] theorem mem_beatWatch (s : State) (d : Nat) (v : Word) : (beatWatch s d v).mem = s.mem := by simp [beatWatch]
@[simp] theorem wf_reboot (s : State) : Memory.wf (reboot s).mem = true := by simp [reboot]

@[simp] theorem wf_mailbox {s : State} (cmd : Nat) (hs : Memory.wf s.mem = true) : Memory.wf (mailbox s cmd).mem = true := by
  simp [mailbox, hs]

@[simp] theorem mem_setMlctl (s : State) (v : Dword) : (setMlctl s v).mem = s.mem := rfl
@[simp] theorem mem_keyCommand (s : State) (cmd : Nat) : (keyCommand s cmd).mem = s.mem := by simp [keyCommand]
@[simp] theorem mem_marchRequest (s : State) (v : Word) : (marchRequest s v).mem = s.mem := by simp [marchRequest]

/-! ## Tasks.lean -/

@[simp] theorem mem_requestLine (c : Nat) (s : State) (line : Nat) : (requestLine c s line).mem = s.mem := by simp [requestLine]
@[simp] theorem mem_stageLine (c : Nat) (s : State) (line : Nat) : (stageLine c s line).mem = s.mem := by simp [stageLine]
@[simp] theorem mem_startWithin (s : State) (c n : Nat) : (startWithin s c n).mem = s.mem := by simp [startWithin]

@[simp] theorem mem_stagingLines (s : State) (c p : Nat) (cl : List Dword) : (stagingLines s c p cl).2.mem = s.mem := by
  unfold stagingLines
  refine List.foldlRecOn (motive := fun a : List Nat × State => a.2.mem = s.mem) _ _ rfl fun a ha v _ => ?_
  have hread := (mem_engineAddrs a.2 c p (caOf (BitVec.ofNat 50 v)) 1 false .prefetch).trans ha
  split
  · exact snd_mem hread ‹_›
  · exact snd_mem hread ‹_›

@[simp] theorem mem_modStaged (s : State) (c : Nat) (x y : Staged) : (modStaged s c x y).mem = s.mem := rfl
@[simp] theorem mem_holdLines (s : State) (c p : Nat) (x : Staged) : (holdLines s c p x).mem = s.mem := by simp [holdLines]
@[simp] theorem mem_becomeStaged (s : State) (c : Nat) (x : Staged) : (becomeStaged s c x).mem = s.mem := rfl

@[simp] theorem wf_readClosure {s : State} (c : Nat) (x : Staged) (hs : Memory.wf s.mem = true) :
    Memory.wf (readClosure s c x).mem = true := by
  have hfail : ∀ {t : State} (y : Staged) (p : Nat) (r : FaultRec), Memory.wf t.mem = true →
      Memory.wf (writeFaultSection (modStaged t c x y) p r).mem = true := fun y p r ht => wf_writeFaultSection _ _ (by simpa using ht)
  unfold readClosure
  split
  · exact hs
  dsimp only
  split
  · simp [hs]
  · simp [hs]
  · split
    · simp [hs]
    · exact wf_abortGrid _ _ (hfail _ _ _ (by simp [hs]))
  · split
    · simp [hs]
    · have hu := wf_unitRead ‹_› (by simp [hs])
      split
      · exact wf_abortGrid _ _ (hfail _ _ _ hu)
      · simp [hu]

@[simp] theorem wf_stageEntry {s : State} (c : Nat) (e : DqEntry) (hs : Memory.wf s.mem = true) :
    Memory.wf (stageEntry s c e).mem = true := by
  simp [stageEntry, hs]

@[simp] theorem wf_putCursor {s : State} (c i : Nat) (next hi : Word) (hs : Memory.wf s.mem = true) :
    Memory.wf (putCursor s c i next hi).mem = true := by
  simp [putCursor, hs]

theorem wf_newPiece {s t : State} {c grid n i : Nat} {ca : Dword} {cl : List Dword} (h : newPiece s c grid ca cl n = some (i, t))
    (hs : Memory.wf s.mem = true) : Memory.wf t.mem = true := by
  obtain ⟨j, -, hj⟩ := Option.map_eq_some_iff.1 h
  cases hj
  simp [hs]

@[simp] theorem mem_pieceEnd (s : State) (c i : Nat) : (pieceEnd s c i).mem = s.mem := by
  unfold pieceEnd
  split <;> simp

@[simp] theorem mem_startTeam (s : State) (c gn : Nat) (x : Grid) (b : Nat) (ca : Dword) (cl : List Dword) (piece : Option Nat)
    (held : List Nat) (heldEnd : Nat) :
    (startTeam s c gn x b ca cl piece held heldEnd).mem = s.mem := by
  simp [startTeam]

theorem mem_startKept {s t : State} {c : Nat} (h : startKept s c = some t) : t.mem = s.mem := by
  unfold startKept at h
  split at h
  · cases h
    simp
  · cases h

@[simp] theorem wf_stageStep (c p : Nat) {s : State} (x : Staged) (hs : Memory.wf s.mem = true) :
    Memory.wf (stageStep c p s x).mem = true := by
  unfold stageStep
  split <;> simp [hs]

@[simp] theorem wf_startFirst {s : State} (c gn : Nat) (g : Grid) (hs : Memory.wf s.mem = true) :
    Memory.wf (startFirst s c gn g).mem = true := by
  unfold startFirst
  split
  · dsimp only
    split
    · split
      · exact hs
      · simp [wf_newPiece ‹_› hs]
    · simp [hs]
  · exact hs

@[simp] theorem wf_startStaged {s : State} (c : Nat) (hs : Memory.wf s.mem = true) : Memory.wf (startStaged s c).mem = true := by
  unfold startStaged
  split
  · exact hs
  split
  · simp [mem_startKept ‹_›, hs]
  split
  · exact hs
  · exact wf_startFirst _ _ _ (wf_foldl (fun _ x hs => wf_stageStep _ _ x hs) _ hs)

@[simp] theorem wf_popDeque {s : State} (c : Nat) (hs : Memory.wf s.mem = true) : Memory.wf (popDeque s c).mem = true := by
  unfold popDeque
  dsimp only
  repeat' split
  all_goals simp [hs]

@[simp] theorem wf_ownerPopCore {s : State} (c : Nat) (hs : Memory.wf s.mem = true) : Memory.wf (ownerPopCore s c).mem = true := by
  simp [ownerPopCore, hs]

@[simp] theorem wf_enterChild (c : Nat) (p : PendCall) (solo : Bool) {s : State} (slot : Nat) (hs : Memory.wf s.mem = true) :
    Memory.wf (enterChild c p solo s slot).mem = true := by
  unfold enterChild
  split <;> simp [hs]

@[simp] theorem wf_startCall {s : State} (c team : Nat) (hs : Memory.wf s.mem = true) : Memory.wf (startCall s c team).mem = true := by
  have hmod : ∀ (ms : List (Nat × Group)) (f : Group → Group) (t : State), (ms.foldl (fun s m => modGroup s c m.1 f) t).mem = t.mem :=
    fun ms f t => mem_foldl (fun _ _ => modGroup_mem ..) ms t
  unfold startCall
  extract_lets +onlyGivenNames t
  split
  · exact hs
  extract_lets +onlyGivenNames members flying
  split
  · exact hs
  split
  · split
    · exact hs
    · simp [hs]
  extract_lets +onlyGivenNames lvl kind start
  have hstart : ∀ (x : State) (piece : Option Nat), Memory.wf x.mem = true → Memory.wf (start x piece).mem = true := fun x piece hx => by
    refine (wf_foldl (fun _ m hs => wf_enterChild _ _ _ _ hs) members (s := members.foldl _ x) ?_ :)
    rw [hmod]
    exact hx
  split
  · split
    · exact hs
    · exact hstart _ _ (wf_newPiece ‹_› hs)
  · exact hstart _ _ hs

@[simp] theorem mem_leaveChild (c : Nat) (solo : Bool) (s : State) (m : Nat × Kept) : (leaveChild c solo s m).mem = s.mem := by
  unfold leaveChild
  dsimp only
  repeat' split
  all_goals simp

@[simp] theorem mem_returnCall (s : State) (c team : Nat) (tk : Machine.Task) (info : CallInfo) (joinState : Nat × Dword) :
    (returnCall s c team tk info joinState).mem = s.mem := by
  unfold returnCall
  repeat' split
  all_goals simp

@[simp] theorem mem_taskEnd (s : State) (c team : Nat) : (taskEnd s c team).mem = s.mem := by
  have hgrid : ∀ (t : State) (g : Option Nat), ((g.map (gliveDone t)).getD t).mem = t.mem := fun t g => by cases g <;> simp
  unfold taskEnd
  dsimp only
  split
  · rfl
  split <;> split <;> simp [hgrid]

@[simp] theorem mem_groupEnd (s : State) (c slot : Nat) (tend : Option Dword) : (groupEnd s c slot tend).mem = s.mem := by
  unfold groupEnd
  split <;> simp

/-! ## Barriers.lean -/

@[simp] theorem mem_putBar (s : State) (b : BarRef) (x : BarObj) : (putBar s b x).mem = s.mem := by
  unfold putBar
  split <;> simp

@[simp] theorem mem_deliverRelease (i : Nat) (x : BarObj) (s : State) (a : Nat × Nat) : (deliverRelease i x s a).mem = s.mem := by
  unfold deliverRelease
  repeat' split
  all_goals simp

/-! ## Commit.lean -/

@[simp] theorem mem_closeChunk (s : State) (c slot : Nat) : (closeChunk s c slot).mem = s.mem := by simp [closeChunk]

@[simp] theorem wf_atBoundaryDo {s : State} (c slot : Nat) (hs : Memory.wf s.mem = true) :
    Memory.wf (atBoundaryDo s c slot).mem = true := by
  unfold atBoundaryDo
  dsimp only
  repeat' split
  all_goals simp [hs]

@[simp] theorem mem_enterExt (c slot uid : Nat) (rel : Bool) (s : State) (bytes : List (Nat × Byte)) :
    (enterExt c slot uid rel s bytes).mem = s.mem :=
  rfl

@[simp] theorem mem_enterExts (c slot uid : Nat) (s : State) (e : Effect) : (enterExts c slot uid s e).mem = s.mem := by
  unfold enterExts
  split <;> simp

@[simp] theorem mem_sendExt (c slot : Nat) (s : State) : (sendExt c slot s).mem = s.mem := rfl
@[simp] theorem mem_sendRed (s : State) (r : Red) : (sendRed s r).mem = s.mem := rfl
@[simp] theorem mem_markFresh (s : State) (c base i : Nat) : (markFresh s c base i).mem = s.mem := by simp [markFresh]
@[simp] theorem mem_enterCopy (s : State) (x : Copy) : (enterCopy s x).mem = s.mem := by simp [enterCopy]
@[simp] theorem mem_fillLine (s : State) (c p line : Nat) : (fillLine s c p line).mem = s.mem := by simp [fillLine]

@[simp] theorem mem_squashRange (s : State) (c slot : Nat) (e : Effect) : (squashRange s c slot e).mem = s.mem := by
  unfold squashRange
  split <;> simp

@[simp] theorem mem_awaitChunks (s : State) (ws : List ChunkRef) : (awaitChunks s ws).mem = s.mem := by simp [awaitChunks]
@[simp] theorem mem_dropScratch (s : State) (c sline nline : Nat) : (dropScratch s c sline nline).mem = s.mem := rfl

@[simp] theorem mem_dropStash (s : State) (c p : Nat) (vls : List Nat) (keepPins : Bool) :
    (dropStash s c p vls keepPins).mem = s.mem := by
  simp [dropStash]

@[simp] theorem mem_prepareDrop (c slot p : Nat) (s : State) (e : Effect) : (prepareDrop c slot p s e).mem = s.mem := by
  unfold prepareDrop
  split <;> simp

@[simp] theorem mem_modViews (s : State) (c slot : Nat) (f : GRegs → GRegs) : (modViews s c slot f).mem = s.mem := by simp [modViews]

theorem mem_barWake (s : State) (c slot i : Nat) {f : State → (GRegs → GRegs) → State} (hf : ∀ r, (f s r).mem = s.mem) :
    (barWake s c slot i f).mem = s.mem := by
  unfold barWake
  repeat' split
  all_goals simp [hf]

theorem wf_barWake {s : State} (c slot i : Nat) {f : State → (GRegs → GRegs) → State}
    (hf : ∀ r, Memory.wf (f s r).mem = true) (hs : Memory.wf s.mem = true) : Memory.wf (barWake s c slot i f).mem = true := by
  unfold barWake
  repeat' split
  all_goals simp [hs, hf]

@[simp] theorem mem_armWaitaddr (s : State) (c slot : Nat) (lanes : List Nat) (line timeout : Nat) :
    (armWaitaddr s c slot lanes line timeout).mem = s.mem := by
  simp [armWaitaddr]

@[simp] theorem mem_postSyscall (s : State) (c slot : Nat) (imm : BitVec 14) (pc : PC) (args : List Word) :
    (postSyscall s c slot imm pc args).mem = s.mem := by
  simp [postSyscall]

@[simp] theorem mem_fwCommand (s : State) (off : Nat) (v : Dword) : (fwCommand s off v).mem = s.mem := by simp [fwCommand]

@[simp] theorem mem_groupLive (s : State) (g : Option Nat) : (groupLive s g).mem = s.mem := by
  unfold groupLive
  split <;> simp

@[simp] theorem mem_retractCall (s : State) (c slot : Nat) (x : PendCall) : (retractCall s c slot x).mem = s.mem := by
  unfold retractCall
  split <;> simp

@[simp] theorem mem_releasePoison (s : State) (e : Nat × List Nat) : (releasePoison s e).mem = s.mem := by simp [releasePoison]

@[simp] theorem mem_releaseEffect (c slot : Nat) (s : State) (e : Effect) : (releaseEffect c slot s e).mem = s.mem := by
  have hwake : ∀ i, (barWake s c slot i (fun s f => modViews s c slot f)).mem = s.mem := fun i =>
    mem_barWake s c slot i (f := fun s f => modViews s c slot f) fun r => by simp
  unfold releaseEffect
  dsimp only
  repeat' split
  all_goals simp [hwake]

@[simp] theorem mem_releaseScratch (s : State) (ws : Sparse (Option Byte)) : (releaseScratch s ws).mem = s.mem :=
  mem_foldl (fun _ _ => by split <;> rfl) _ _

@[simp] theorem wf_finishCommit {s : State} (c slot : Nat) (hs : Memory.wf s.mem = true) :
    Memory.wf (finishCommit s c slot).mem = true := by
  unfold finishCommit
  dsimp only
  repeat' split
  all_goals simp [hs]

@[simp] theorem wf_afterCommit {s : State} (c slot : Nat) (hs : Memory.wf s.mem = true) :
    Memory.wf (afterCommit s c slot).mem = true := by
  unfold afterCommit
  split
  · exact hs
  · exact wf_atBoundaryDo _ _ (wf_startCall _ _ (wf_settle _ _ hs))

@[simp] theorem mem_modDone (s : State) (r : ChunkRef) (f : Chunk → Chunk) : (modDone s r f).mem = s.mem := by simp [modDone]
@[simp] theorem mem_sendSignature (s : State) (r : ChunkRef) (k : Chunk) : (sendSignature s r k).mem = s.mem := by simp [sendSignature]
@[simp] theorem mem_claimStage (s : State) (r : ChunkRef) (k : Chunk) : (claimStage s r k).mem = s.mem := by simp [claimStage]
@[simp] theorem mem_releaseGrants (s : State) (r : ChunkRef) (k : Chunk) : (releaseGrants s r k).mem = s.mem := by simp [releaseGrants]

@[simp] theorem wf_commitStep {s : State} (c slot : Nat) (hs : Memory.wf s.mem = true) :
    Memory.wf (commitStep s c slot).1.mem = true := by
  have hdrop : ∀ (ls : List Effect) (p : Nat), Memory.wf (ls.foldl (prepareDrop c slot p) s).mem = true := fun ls p => by simp [hs]
  have hfin := fun ls p => wf_finishCommit c slot (hdrop ls p)
  unfold commitStep
  dsimp only
  repeat' split
  all_goals simp [hs, hfin]

@[simp] theorem wf_commitGroup (n c slot : Nat) {s : State} (hs : Memory.wf s.mem = true) :
    Memory.wf (commitGroup n c slot s).mem = true := by
  induction n generalizing s with
  | zero => exact hs
  | succ n ih =>
    have hstep := wf_commitStep c slot hs
    rw [commitGroup]
    split
    · next h => exact ih (by rw [h] at hstep; exact hstep)
    · next h => rw [h] at hstep; exact hstep

@[simp] theorem wf_commitAll {s : State} (hs : Memory.wf s.mem = true) : Memory.wf (commitAll s).mem = true :=
  wf_foldl (fun _ _ hs => wf_foldl (fun _ _ hs => by split <;> simp [hs]) _ hs) _ hs

@[simp] theorem wf_endChunk {s : State} (c slot : Nat) (hs : Memory.wf s.mem = true) : Memory.wf (endChunk s c slot).mem = true :=
  wf_atBoundaryDo _ _ (wf_commitAll (wf_commitGroup _ _ _ (by simp [hs])))

@[simp] theorem wf_completeCommit {s : State} (r : ChunkRef) (k : Chunk) (hs : Memory.wf s.mem = true) :
    Memory.wf (completeCommit s r k).mem = true := by
  have hdir : ∀ s : State, (k.glines.foldl (fun s l => if missing (coreAt s r.core) l then s else dirAdd s r.core l) s).mem = s.mem :=
    fun s => by simp
  refine wf_commitAll (wf_commitGroup _ _ _ (wf_afterCommit _ _ ?_))
  rw [mem_releaseGrants]
  exact wf_finishCommit _ _ (by rw [hdir]; exact hs)

@[simp] theorem wf_wakeThreads {s : State} (c slot : Nat) (f : GRegs → GRegs) (hs : Memory.wf s.mem = true) :
    Memory.wf (wakeThreads s c slot f).mem = true := by
  simp [wakeThreads, hs]

@[simp] theorem wf_wakeAddr {s : State} (c slot : Nat) (hs : Memory.wf s.mem = true) : Memory.wf (wakeAddr s c slot).mem = true := by
  unfold wakeAddr
  split <;> simp [hs]

/-! ## Stops.lean -/

@[simp] theorem mem_modPending (s : State) (b : BarRef) (f : Nat → Nat) : (modPending s b f).mem = s.mem := by simp [modPending]
@[simp] theorem mem_abandonFills (s : State) (c : Nat) : (abandonFills s c).mem = s.mem := by simp [abandonFills]

@[simp] theorem mem_reissueFill (c : Nat) (s : State) (e : Nat × Option BarRef) : (reissueFill c s e).mem = s.mem := by
  unfold reissueFill
  split <;> simp

@[simp] theorem mem_reissueFills (s : State) (c : Nat) : (reissueFills s c).mem = s.mem := by simp [reissueFills]
@[simp] theorem mem_stopCore (s : State) (c : Nat) : (stopCore s c).mem = s.mem := by simp [stopCore]
@[simp] theorem mem_haltRaiser (s : State) (c : Nat) : (haltRaiser s c).mem = s.mem := rfl

@[simp] theorem wf_fatalError {s : State} (c cause : Nat) (hs : Memory.wf s.mem = true) :
    Memory.wf (fatalError s c cause).mem = true := by
  unfold fatalError
  split <;> simp [hs]

@[simp] theorem wf_heartbeatExpire {s : State} (hs : Memory.wf s.mem = true) : Memory.wf (heartbeatExpire s).mem = true := by
  unfold heartbeatExpire
  split <;> simp [hs]

/-! ## Tlb.lean -/

@[simp] theorem mem_invCore (i : Inval) (me : Nat × Nat) (s : State) (c : Nat) : (invCore i me s c).mem = s.mem := by
  refine mem_foldl (fun s e => ?_) _ _
  split
  · rfl
  split
  · rfl
  · exact mem_squashFrom ..

@[simp] theorem mem_dropPages (ps : List (Nat × Nat)) (s : State) (c : Nat) : (dropPages ps s c).mem = s.mem := by simp [dropPages]

@[simp] theorem mem_invalidateTlb (s : State) (me : Nat × Nat) (i : Inval) : (invalidateTlb s me i).1.mem = s.mem := by
  simp [invalidateTlb]

@[simp] theorem mem_startInval (s : State) (c slot : Nat) (i : Inval) : (startInval s c slot i).mem = s.mem := by
  unfold startInval
  split <;> simp

@[simp] theorem mem_invalidateRange (s : State) (p va pages : Nat) : (invalidateRange s p va pages).1.mem = s.mem :=
  List.foldlRecOn (motive := fun a : State × InvWait => a.1.mem = s.mem) _ _ rfl fun _ ha _ _ => (mem_invalidateTlb ..).trans ha

/-! ## Exec.lean -/

@[simp] theorem mem_tickGroup (s : State) (c slot : Nat) (lanes : List Nat) : (tickGroup s c slot lanes).mem = s.mem := by
  simp [tickGroup]

@[simp] theorem mem_tickYield (s : State) (c slot : Nat) : (tickYield s c slot).mem = s.mem := rfl

@[simp] theorem mem_trapEnter (s : State) (c slot : Nat) (lanes : List Nat) (pc : PC) (code : Nat) (imm : BitVec 14) (under : Bool)
    (addr : Nat) :
    (trapEnter s c slot lanes pc code imm under addr).mem = s.mem := by
  simp [trapEnter]

@[simp] theorem wf_faultGroup {s : State} (c slot : Nat) (lanes : List Nat) (pc : PC) (fi : FaultInfo) (hs : Memory.wf s.mem = true) :
    Memory.wf (faultGroup s c slot lanes pc fi).mem = true := by
  unfold faultGroup
  dsimp only
  repeat' split
  all_goals simp [hs]

@[simp] theorem wf_takeFault {s : State} (fi : FaultInfo) (hs : Memory.wf s.mem = true) : Memory.wf (takeFault s fi).mem = true := by
  unfold takeFault
  dsimp only
  repeat' split
  all_goals simp [hs]

@[simp] theorem wf_stopHalted {s : State} (c slot : Nat) (hs : Memory.wf s.mem = true) :
    Memory.wf (stopHalted s c slot).mem = true := by
  unfold stopHalted
  dsimp only
  repeat' split
  all_goals simp [hs]

@[simp] theorem wf_spendSkid {s : State} (c slot : Nat) (cks : Word) (hs : Memory.wf s.mem = true) :
    Memory.wf (spendSkid s c slot cks).mem = true := by
  unfold spendSkid
  dsimp only
  repeat' split
  all_goals simp [hs]

@[simp] theorem wf_endRepeat {s : State} (c slot : Nat) (hs : Memory.wf s.mem = true) : Memory.wf (endRepeat s c slot).mem = true := by
  unfold endRepeat
  dsimp only
  split <;> simp [hs]

@[simp] theorem wf_endIfBlocked {s : State} (c slot : Nat) (stalled : Bool) (hs : Memory.wf s.mem = true) :
    Memory.wf (endIfBlocked s c slot stalled).mem = true := by
  unfold endIfBlocked
  dsimp only
  repeat' split
  all_goals simp [hs]

@[simp] theorem wf_retire {s : State} (hs : Memory.wf s.mem = true) : Memory.wf (retire s).mem = true := by
  unfold retire
  extract_lets c slot cks repeated s₁
  have h₁ : Memory.wf s₁.mem = true := by rw [counted_mem]; exact hs
  split
  · exact h₁
  extract_lets k s₂ s₃ s₄
  have h₂ : Memory.wf s₂.mem = true := by simp [s₂, h₁]
  have h₃ : Memory.wf s₃.mem = true := by simp [s₃, h₂]
  have h₄ : Memory.wf s₄.mem = true := wf_endIfBlocked _ _ _ h₃
  repeat' split
  all_goals simp [h₄]

@[simp] theorem mem_blockLanes (s : State) (all : Bool) : (blockLanes s all).mem = s.mem := by simp [blockLanes]

@[simp] theorem wf_waitAgain {s : State} (all : Bool) (hs : Memory.wf s.mem = true) : Memory.wf (waitAgain s all).mem = true := by
  unfold waitAgain
  dsimp only
  repeat' split
  all_goals simp [hs]

@[simp] theorem mem_askFuture (s : State) (h : Dword) : (askFuture s h).mem = s.mem := by simp [askFuture]

@[simp] theorem mem_armGrpWait (s : State) : (armGrpWait s).mem = s.mem := by
  unfold armGrpWait
  split <;> simp

@[simp] theorem mem_enterAcc (s : State) (n : Nat) : (enterAcc s n).mem = s.mem := by simp [enterAcc]
@[simp] theorem mem_enterEpi (s : State) (ph : Nat) : (enterEpi s ph).mem = s.mem := by simp [enterEpi]

@[simp] theorem wf_stopped {s : State} (x : Stop) (hs : Memory.wf s.mem = true) : Memory.wf (stopped s x).mem = true := by
  unfold stopped
  split <;> simp [hs]

@[simp] theorem mem_begun (s : State) : (begun s).mem = s.mem := by simp [begun]

@[simp] theorem wf_fetchWord {s : State} (k : Nat) (hs : Memory.wf s.mem = true) : Memory.wf (fetchWord s k).2.mem = true := by
  have hx := fun va acc => show Memory.wf (xlate s s.cur.core (curGroup s).pasid (curGroup s).fmode va acc).2.mem = true by simp [hs]
  unfold fetchWord
  dsimp only
  split
  · exact snd_wf (hx _ _) ‹_›
  · exact snd_wf (hx _ _) ‹_›
  · exact snd_wf (hx _ _) ‹_›
  · have hr := snd_wf (hx _ _) ‹_›
    repeat' split
    all_goals simp [hr]

/-! ## Hostq.lean -/

@[simp] theorem wf_putDesc {s : State} (q n : Nat) (hs : Memory.wf s.mem = true) : Memory.wf (putDesc s q n).mem = true := by
  simp [putDesc, hs]

@[simp] theorem mem_sendMsix (s : State) (v : Nat) : (sendMsix s v).mem = s.mem := rfl
@[simp] theorem mem_putWait (s : State) (d cls : Nat) (l : List Nat) : (putWait s d cls l).mem = s.mem := rfl
@[simp] theorem mem_joinWait (s : State) (q : Nat) : (joinWait s q).mem = s.mem := by simp [joinWait]
@[simp] theorem mem_headWait (s : State) (q : Nat) : (headWait s q).mem = s.mem := rfl
@[simp] theorem mem_leaveWait (s : State) (q : Nat) : (leaveWait s q).mem = s.mem := rfl
@[simp] theorem mem_dropSlot (s : State) (slot : Nat) : (dropSlot s slot).mem = s.mem := rfl

@[simp] theorem wf_queueRead {s : State} (c p : Nat) (va : Dword) (n : Nat) (who : Agent) (hs : Memory.wf s.mem = true) :
    Memory.wf (queueRead s c p va n who).2.mem = true := by
  have haddr : Memory.wf (engineAddrs s c p va n false who).2.mem = true := by simp [hs]
  unfold queueRead
  split
  · exact snd_wf haddr ‹_›
  · have ht := snd_wf haddr ‹_›
    split
    · exact ht
    · have hu := wf_unitRead ‹_› ht
      split <;> exact hu

@[simp] theorem wf_fetchPacket {s : State} (q : Nat) (hs : Memory.wf s.mem = true) : Memory.wf (fetchPacket s q).2.mem = true := by
  simp [fetchPacket, hs]

@[simp] theorem wf_queueError {s : State} (q err : Nat) (hs : Memory.wf s.mem = true) : Memory.wf (queueError s q err).mem = true := by
  unfold queueError
  dsimp only
  split <;> simp [hs]

@[simp] theorem mem_putLeft (s : State) (d cls n : Nat) : (putLeft s d cls n).mem = s.mem := rfl

@[simp] theorem mem_delayPacket (s : State) (slot : Nat) : (delayPacket s slot).mem = s.mem := by
  unfold delayPacket
  split <;> simp

@[simp] theorem wf_decide_ (d n : Nat) {s : State} (hs : Memory.wf s.mem = true) : Memory.wf (decide_ d n s).mem = true := by
  induction n generalizing s with
  | zero => exact hs
  | succ n ih =>
    rw [decide_]
    split
    · exact hs
    split
    · exact hs
    extract_lets s₁ s₂ rs last
    have h₂ : Memory.wf s₂.mem = true := by simp [s₂, s₁, hs]
    split
    · exact h₂
    extract_lets s₃
    split
    · exact h₂
    extract_lets h' p
    have hf := fun q => wf_fetchPacket q (show Memory.wf s₃.mem = true from h₂)
    split
    next pk t hpk =>
    have ht := snd_wf (hf _) hpk
    repeat' split
    all_goals simp [ht, ih]

@[simp] theorem wf_dispatch {s : State} (d : Nat) (hs : Memory.wf s.mem = true) : Memory.wf (dispatch s d).mem = true := by
  simp [dispatch, hs]

@[simp] theorem wf_dispatchAll {s : State} (hs : Memory.wf s.mem = true) : Memory.wf (dispatchAll s).mem = true := by
  simp +contextual [dispatchAll, hs]

@[simp] theorem wf_mapQueue {s : State} (slot q : Nat) (hs : Memory.wf s.mem = true) : Memory.wf (mapQueue s slot q).mem = true := by
  simp [mapQueue, hs]

@[simp] theorem wf_takeBack {s : State} (slot q : Nat) (hs : Memory.wf s.mem = true) : Memory.wf (takeBack s slot q).mem = true := by
  unfold takeBack
  split <;> simp [hs]

@[simp] theorem wf_atPacketBoundary {s : State} (slot : Nat) (hs : Memory.wf s.mem = true) :
    Memory.wf (atPacketBoundary s slot).mem = true := by
  unfold atPacketBoundary
  dsimp only
  repeat' split
  all_goals simp [hs]

@[simp] theorem wf_retryPacket {s : State} (slot : Nat) (hs : Memory.wf s.mem = true) : Memory.wf (retryPacket s slot).mem = true := by
  simp [retryPacket, hs]

@[simp] theorem mem_giveShare (s : State) (slot : Nat) : (giveShare s slot).mem = s.mem := by
  unfold giveShare
  split <;> simp

@[simp] theorem wf_mapClass (d cls n : Nat) {s : State} (hs : Memory.wf s.mem = true) : Memory.wf (mapClass d cls n s).mem = true := by
  induction n generalizing s with
  | zero => exact hs
  | succ n ih =>
    rw [mapClass]
    repeat' split
    all_goals simp [hs, ih]

@[simp] theorem wf_reclaim {s : State} (d cls : Nat) (hs : Memory.wf s.mem = true) : Memory.wf (reclaim s d cls).mem = true := by
  unfold reclaim
  dsimp only
  repeat' split
  all_goals simp [hs]

@[simp] theorem wf_serveQueues {s : State} (d : Nat) (hs : Memory.wf s.mem = true) : Memory.wf (serveQueues s d).mem = true :=
  wf_foldl (fun _ _ hs => wf_reclaim _ _ (wf_mapClass _ _ _ hs)) _ hs

@[simp] theorem wf_consume {s : State} (slot q : Nat) (irq : Bool) (hs : Memory.wf s.mem = true) :
    Memory.wf (consume s slot q irq).mem = true := by
  simp [consume, hs]

@[simp] theorem wf_endPacketCopy {s : State} (id q n : Nat) (hs : Memory.wf s.mem = true) :
    Memory.wf (endPacketCopy s id q n).mem = true := by
  simp [endPacketCopy, hs]

@[simp] theorem wf_refuseAgent {s : State} (e : FaultEnt) (hs : Memory.wf s.mem = true) : Memory.wf (refuseAgent s e).mem = true := by
  unfold refuseAgent
  split <;> simp [hs]

@[simp] theorem wf_completePacket {s : State} (q n : Nat) (hs : Memory.wf s.mem = true) :
    Memory.wf (completePacket s q n).mem = true := by
  unfold completePacket
  split <;> simp [hs]

@[simp] theorem wf_rootLines (c : Nat) (x : Grid) (who : Agent) (n : Nat) {s : State} (hs : Memory.wf s.mem = true) :
    Memory.wf (rootLines c x who n s).2.mem = true := by
  induction n with
  | zero => exact hs
  | succ n ih =>
    rw [rootLines]
    split
    · exact snd_wf ih ‹_›
    · exact wf_queueRead _ _ _ _ _ (snd_wf ih ‹_›)

@[simp] theorem mem_place (s : State) (x : Grid) (avail : List Nat) : (place s x avail).2.mem = s.mem := by
  unfold place
  split <;> simp

@[simp] theorem wf_closeIds {s : State} (c : Nat) (hs : Memory.wf s.mem = true) : Memory.wf (closeIds s c).mem = true := wf_filter _ hs

@[simp] theorem wf_reserve {s : State} (x : Grid) (hs : Memory.wf s.mem = true) : Memory.wf (reserve s x).2.mem = true := by
  unfold reserve
  extract_lets cores free
  split
  · exact hs
  have hplace : Memory.wf (place s x free).2.mem = true := by simp [hs]
  split
  next cls t hp =>
  have ht : Memory.wf t.mem = true := snd_wf hplace hp
  split
  · exact ht
  split
  · exact ht
  refine wf_foldl (fun s m hs => ?_) _ (by simp [ht])
  split
  · exact hs
  · exact wf_closeIds _ hs

@[simp] theorem mem_bindCluster (s : State) (gn : Nat) (x : Grid) (members : List Nat) : (bindCluster s gn x members).mem = s.mem := by
  simp [bindCluster]

@[simp] theorem mem_sliceFrom (s : State) (i d t0 : Nat) : (sliceFrom s i d t0).mem = s.mem := by
  unfold sliceFrom
  split <;> simp

@[simp] theorem mem_startSlice (s : State) (p : Nat) : (startSlice s p).mem = s.mem := by
  unfold startSlice
  split <;> simp

@[simp] theorem mem_commitGrid (s : State) (gn : Nat) : (commitGrid s gn).mem = s.mem := by
  unfold commitGrid
  split <;> simp

@[simp] theorem mem_pushRoot (s : State) (gn p c : Nat) (e : DqEntry) : (pushRoot s gn p c e).mem = s.mem := by simp [pushRoot]

@[simp] theorem mem_pushRoots (s : State) (gn d : Nat) : (pushRoots s gn d).mem = s.mem := by
  unfold pushRoots
  split
  · rfl
  refine (mem_foldl (fun t c => mem_kick t c) _ _).trans (mem_foldl (fun t e => ?_) _ _)
  split
  · rfl
  · simp

@[simp] theorem mem_dropReservation (s : State) (i : Nat) : (dropReservation s i).mem = s.mem := by
  unfold dropReservation
  split <;> simp

@[simp] theorem mem_abortReservation (s : State) (i gn : Nat) : (abortReservation s i gn).mem = s.mem := by simp [abortReservation]

@[simp] theorem wf_bindPartition {s : State} (p : Nat) (hs : Memory.wf s.mem = true) : Memory.wf (bindPartition s p).mem = true := by
  unfold bindPartition
  dsimp only
  repeat' split
  all_goals simp +contextual [hs]

@[simp] theorem wf_bindMore {s : State} (hs : Memory.wf s.mem = true) : Memory.wf (bindMore s).mem = true := by
  simp +contextual [bindMore, hs]

@[simp] theorem wf_writeWord {s : State} (c p : Nat) (va : Dword) (v : Nat) (hs : Memory.wf s.mem = true) :
    Memory.wf (writeWord s c p va v).2.mem = true := by
  unfold writeWord
  dsimp only
  repeat' split
  all_goals simp [hs]

@[simp] theorem wf_writeDone {s : State} (x : Grid) (v : Nat) (hs : Memory.wf s.mem = true) :
    Memory.wf (writeDone s x v).2.mem = true := by
  unfold writeDone
  split
  · exact hs
  extract_lets c
  have hw : Memory.wf (writeWord s c x.pasid x.doneAddr v).2.mem = true := by simp [hs]
  split
  · exact snd_wf hw ‹_›
  · simp [snd_wf hw ‹_›]
  · exact snd_wf hw ‹_›

@[simp] theorem mem_forgetSaved (s : State) (gn : Nat) : (forgetSaved s gn).mem = s.mem := rfl

@[simp] theorem wf_completeGrid {s : State} (gn : Nat) (hs : Memory.wf s.mem = true) : Memory.wf (completeGrid s gn).mem = true := by
  unfold completeGrid
  split
  · exact hs
  split
  · simp [hs]
  extract_lets v s₁
  have h₁ : Memory.wf s₁.mem = true := by simp [s₁, hs]
  have hd := fun x => wf_writeDone x v h₁
  split
  · simp [snd_wf (hd _) ‹_›]
  next t ht =>
  have h₂ := snd_wf (hd _) ht
  extract_lets s₃ s₄ s₅
  have h₅ : Memory.wf s₅.mem = true := by simp [s₅, s₄, s₃, h₂]
  split <;> simp [h₅]

/-! ## Contexts.lean -/

@[simp] theorem mem_modCtx (s : State) (i : Nat) (f : Ctx → Ctx) : (modCtx s i f).mem = s.mem := rfl

@[simp] theorem wf_writeSave {s : State} (x : Ctx) (cs : List Nat) (hs : Memory.wf s.mem = true) :
    Memory.wf (writeSave s x cs).mem = true := by
  unfold writeSave
  split
  · exact hs
  extract_lets parts gs ts recs secs offs head s₁ s₂
  have h₁ : Memory.wf s₁.mem = true := wf_performWrite _ _ hs
  exact wf_performWrite _ _ (by simp [s₂, h₁])

@[simp] theorem wf_takeKeys {s : State} (i : Nat) (cs : List Nat) (hs : Memory.wf s.mem = true) :
    Memory.wf (takeKeys s i cs).mem = true :=
  wf_filter _ hs

@[simp] theorem wf_giveKeys {s : State} (i : Nat) (cs : List Nat) (hs : Memory.wf s.mem = true) :
    Memory.wf (giveKeys s i cs).mem = true := by
  unfold giveKeys
  split
  · exact hs
  · exact memPut_wf _ _ (wf_filter _ hs)

@[simp] theorem wf_switchOut {s : State} (p : Nat) (hs : Memory.wf s.mem = true) : Memory.wf (switchOut s p).mem = true := by
  unfold switchOut
  split
  · exact hs
  extract_lets +onlyGivenNames ds
  split
  · exact hs
  extract_lets cs rest done parts s₁ s₂
  have h₁ : Memory.wf s₁.mem = true := wf_takeKeys _ _ (by simp [hs])
  have h₂ : Memory.wf s₂.mem = true := by simp [s₂, h₁]
  split <;> simp [h₂]

@[simp] theorem wf_reachQ {s : State} (i d : Nat) (last : Bool) (hs : Memory.wf s.mem = true) :
    Memory.wf (reachQ s i d last).mem = true := by
  unfold reachQ
  split <;> simp [hs]

@[simp] theorem wf_collectAck {s : State} (c cls : Nat) (hs : Memory.wf s.mem = true) : Memory.wf (collectAck s c cls).mem = true := by
  unfold collectAck
  dsimp only
  repeat' split
  all_goals simp [hs]

@[simp] theorem wf_stopDies {s : State} (p : Nat) (ds : List Nat) (hs : Memory.wf s.mem = true) :
    Memory.wf (stopDies s p ds).mem = true := by
  unfold stopDies
  dsimp only
  repeat' split
  all_goals simp [hs]

@[simp] theorem wf_stopContext {s : State} (p : Nat) (hs : Memory.wf s.mem = true) : Memory.wf (stopContext s p).mem = true := by
  simp [stopContext, hs]

@[simp] theorem wf_startCores {s : State} (p : Nat) (hs : Memory.wf s.mem = true) : Memory.wf (startCores s p).mem = true := by
  unfold startCores
  split
  · exact hs
  · exact wf_foldl (fun s c hs => wf_foldl (fun _ _ hs => wf_settle _ _ hs) _ (by simpa using hs)) _ hs

@[simp] theorem mem_leaveOrigin (s : State) (x : Grid) (c slot : Nat) : (leaveOrigin s x c slot).mem = s.mem := by
  unfold leaveOrigin
  dsimp only
  repeat' split
  all_goals simp

@[simp] theorem mem_moveTiles (s : State) (c team : Nat) (k0 : Core) (t0 : Team) (mp : Sparse Nat) :
    (moveTiles s c team k0 t0 mp).mem = s.mem := by
  simp [moveTiles]

@[simp] theorem mem_moveOps (s : State) (c team : Nat) (k0 : Core) (team0 : Nat) (mp : Sparse Nat) :
    (moveOps s c team k0 team0 mp).mem = s.mem :=
  rfl

@[simp] theorem wf_movePieces {s : State} (c team : Nat) (k0 : Core) (t0 : Team) (cur : Nat → Word × Word) (hs :
    Memory.wf s.mem = true) :
    Memory.wf (movePieces s c team k0 t0 cur).mem = true := by
  refine wf_foldl (fun t i ht => ?_) _ hs
  split
  · simp [ht]
  · exact ht

@[simp] theorem mem_moveBound (s : State) (a b : Nat × Nat) : (moveBound s a b).mem = s.mem := rfl

@[simp] theorem wf_moveTeam {s : State} (x : Grid) (c team : Nat) (k0 : Core) (o team0 gn : Nat) (hs : Memory.wf s.mem = true) :
    Memory.wf (moveTeam s x c team k0 o team0 gn).mem = true := by
  unfold moveTeam
  dsimp only
  repeat' split
  all_goals simp [hs]

@[simp] theorem mem_mapFaults (s : State) (f : FaultEnt → FaultEnt) : (mapFaults s f).mem = s.mem := rfl

@[simp] theorem mem_moveFaults (s : State) (pasid team0 team : Nat) (fault : Option FaultRec) (o dst : Nat × Nat) :
    (moveFaults s pasid team0 team fault o dst).mem = s.mem :=
  rfl

@[simp] theorem mem_moveArrivals (s : State) (x1 dst : Nat × Nat) : (moveArrivals s x1 dst).mem = s.mem := rfl

@[simp] theorem wf_restoreGroup {s : State} (rd : Nat → Nat → Nat) (c slot gn : Nat) (x : Grid) (hs : Memory.wf s.mem = true) :
    Memory.wf (restoreGroup s rd c slot gn x).mem = true := by
  unfold restoreGroup
  extract_lets base0 base rsp from_ k0 old team s₁ s₂ o team0 was s₃ s₄ faulted g s₅ s₆ s₇
  have h₂ : Memory.wf s₂.mem = true := by simp [s₂, s₁, hs]
  have h₃ : Memory.wf s₃.mem = true := by simp [s₃, h₂]
  have h₄ : Memory.wf s₄.mem = true := by
    simp only [s₄]
    cases from_ with
    | none => exact h₃
    | some o => simp [h₃]
  have h₅ : Memory.wf s₅.mem = true := by simp [s₅, h₄]
  have h₆ : Memory.wf s₆.mem = true := by
    simp only [s₆]
    split
    · simp [h₅]
    split <;> simp [h₅]
  have h₇ : Memory.wf s₇.mem = true := by simp [s₇, h₆]
  refine wf_foldl (fun t i ht => ?_) _ h₇
  split
  · simp [ht]
  · exact ht

@[simp] theorem wf_firmwareSave {s : State} (p : Nat) (hs : Memory.wf s.mem = true) : Memory.wf (firmwareSave s p).mem = true := by
  unfold firmwareSave
  dsimp only
  repeat' split
  all_goals simp [hs]

@[simp] theorem wf_putTeam {s : State} (gn : Nat) (x : Grid) (c b : Nat) (gs : List (Nat × Machine.Group))
    (hs : Memory.wf s.mem = true) :
    Memory.wf (putTeam s gn x c b gs).mem = true := by
  simp +contextual [putTeam, hs]

@[simp] theorem wf_firmwareRestore {s : State} (p : Nat) (hs : Memory.wf s.mem = true) :
    Memory.wf (firmwareRestore s p).mem = true := by
  unfold firmwareRestore
  split
  · exact hs
  refine wf_foldl (fun _ _ hs => wf_foldl (fun t _ ht => ?_) _ hs) _ hs
  repeat' split
  all_goals simp [ht]

@[simp] theorem mem_renameNode (s : State) (a b : NodeRef) : (renameNode s a b).mem = s.mem := rfl

@[simp] theorem mem_moveEntry (gn c : Nat) (s : State) (e : DqEntry) : (moveEntry gn c s e).mem = s.mem := by
  unfold moveEntry
  split <;> simp

@[simp] theorem mem_moveNode (gn c : Nat) (s : State) (x : Nat × PNode) : (moveNode gn c s x).mem = s.mem := by
  unfold moveNode
  dsimp only
  repeat' split
  all_goals simp

@[simp] theorem wf_migrateCore {s : State} (c : Nat) (hs : Memory.wf s.mem = true) : Memory.wf (migrateCore s c).mem = true := by
  unfold migrateCore
  extract_lets +onlyGivenNames k
  split
  · exact hs
  extract_lets s₁ s₂ ready s₃ s₄
  have h₂ : Memory.wf s₂.mem = true := by simp [s₂, s₁, hs]
  have h₃ : Memory.wf s₃.mem = true := by simp [s₃, h₂]
  have h₄ : Memory.wf s₄.mem = true := by
    refine wf_foldl (fun t _ ht => ?_) _ h₃
    repeat' split
    all_goals simp [ht]
  simp [h₄]

@[simp] theorem wf_restoreDie {s : State} (i d : Nat) (hs : Memory.wf s.mem = true) : Memory.wf (restoreDie s i d).mem = true := by
  unfold restoreDie
  split
  · exact hs
  extract_lets +onlyGivenNames mine cs
  split
  · exact hs
  extract_lets s₁ s₂ s₃ s₄ s₅
  have h₁ : Memory.wf s₁.mem = true := wf_foldl (fun t _ ht => by simp [ht]) _ hs
  have h₂ : Memory.wf s₂.mem = true := by simp [s₂, h₁]
  have h₃ : Memory.wf s₃.mem = true := by simp [s₃, h₂]
  have h₄ : Memory.wf s₄.mem = true := wf_foldl (fun _ _ ht => wf_migrateCore _ ht) _ h₃
  have h₅ : Memory.wf s₅.mem = true := wf_startCores _ (by simp [h₄])
  simp [h₅]

@[simp] theorem wf_restoreCtx {s : State} (i : Nat) (hs : Memory.wf s.mem = true) : Memory.wf (restoreCtx s i).mem = true := by
  simp +contextual [restoreCtx, hs]

@[simp] theorem wf_scgoWrite {s : State} (c slot : Nat) (hs : Memory.wf s.mem = true) : Memory.wf (scgoWrite s c slot).mem = true := by
  unfold scgoWrite
  split <;> simp [hs]

/-! ## Control.lean -/

@[simp] theorem wf_enterIrr {s : State} (hs : Memory.wf s.mem = true) : Memory.wf (enterIrr s).mem = true := by
  unfold enterIrr
  dsimp only
  split <;> simp [hs]

/-! ## System.lean -/

@[simp] theorem mem_modF (s : State) (f : FRegs → FRegs) : (modF s f).mem = s.mem := by simp [modF]
@[simp] theorem mem_setMargin (s : State) (c : Nat) (m : Margin) : (setMargin s c m).mem = s.mem := by simp [setMargin]

@[simp] theorem wf_srWrite {s : State} (n : Nat) (v : Word) (hs : Memory.wf s.mem = true) : Memory.wf (srWrite s n v).mem = true := by
  unfold srWrite
  simp only [mem_ite]
  repeat' apply wf_ite
  all_goals simp [hs]

@[simp] theorem wf_imageContext {s : State} (img : Nat) (hs : Memory.wf s.mem = true) :
    Memory.wf (imageContext s img).2.mem = true := by
  unfold imageContext
  dsimp only
  split <;> simp [hs]

/-! ## Mmio.lean -/

@[simp] theorem mem_forwardFaults (s : State) : (forwardFaults s).mem = s.mem := rfl

@[simp] theorem wf_frdoneWrite {s : State} (v : Dword) (hs : Memory.wf s.mem = true) : Memory.wf (frdoneWrite s v).mem = true := by
  unfold frdoneWrite
  dsimp only
  repeat' split
  all_goals simp [hs]

@[simp] theorem mem_ctlWrite (s : State) (r v : Nat) : (ctlWrite s r v).mem = s.mem := by simp [ctlWrite]

@[simp] theorem wf_fwBlockWrite {s : State} (die : Nat) (fmode : Bool) (o n v : Nat) (hs : Memory.wf s.mem = true) :
    Memory.wf (fwBlockWrite s die fmode o n v).mem = true := by
  unfold fwBlockWrite
  dsimp only
  repeat' split
  all_goals simp [hs]

@[simp] theorem wf_regWrite {s : State} (die : Nat) (fmode : Bool) (o n v : Nat) (hs : Memory.wf s.mem = true) :
    Memory.wf (regWrite s die fmode o n v).mem = true := by
  unfold regWrite
  simp only [mem_ite]
  repeat' apply wf_ite
  all_goals simp [hs]

/-! ## MemAcc.lean -/

@[simp] theorem mem_lockLine (s : State) (c : Nat) (va : Dword) (pa : Nat) : (lockLine s c va pa).2.mem = s.mem := by
  unfold lockLine
  dsimp only
  repeat' split
  all_goals simp

@[simp] theorem mem_lockLines (c : Nat) (ea : Nat → Dword) (ls : List (Nat × Nat)) (s : State) :
    (lockLines c ea ls s).2.mem = s.mem := by
  induction ls generalizing s with
  | nil => rfl
  | cons e ls ih => exact (ih _).trans (mem_lockLine ..)

@[simp] theorem mem_writeBackAll (s : State) (l : Nat) : (writeBackAll s l).mem = s.mem := by simp [writeBackAll]
@[simp] theorem mem_writeL2 (s : State) (l : Nat) : (writeL2 s l).mem = s.mem := by simp [writeL2]
@[simp] theorem mem_dropCopies (s : State) (l : Nat) : (dropCopies s l).mem = s.mem := by simp [dropCopies]

/-! ## Copy.lean -/

@[simp] theorem mem_seeFresh (s : State) (uid : Nat) (ls : List Nat) (m : Nat → Nat) : (seeFresh s uid ls m).mem = s.mem := rfl

/-! ## Comm.lean -/

@[simp] theorem mem_setLimit (s : State) (n v : Word) : (setLimit s n v).mem = s.mem := rfl

/-! ## EvTasks.lean -/

@[simp] theorem wf_entryLines {s : State} (c p : Nat) (e : DqEntry) (hs : Memory.wf s.mem = true) :
    Memory.wf (entryLines s c p e).2.mem = true := by
  have ha : Memory.wf (engineAddrs s c p (caOf e.cline) 128 false .prefetch).2.mem = true := by simp [hs]
  unfold entryLines
  split
  · exact snd_wf ha ‹_›
  extract_lets pas
  split
  · exact snd_wf ha ‹_›
  have hu := wf_unitRead ‹_› (snd_wf ha ‹_›)
  split
  · exact hu
  · simp [hu]

@[simp] theorem wf_markStaged (c p : Nat) {s : State} (e : DqEntry) (hs : Memory.wf s.mem = true) :
    Memory.wf (markStaged c p s e).mem = true := by
  unfold markStaged
  split
  · exact hs
  have hl := wf_entryLines c p e hs
  split
  · exact snd_wf hl ‹_›
  · simp [snd_wf hl ‹_›]

@[simp] theorem wf_eagerEntry (c p : Nat) {s : State} (e : DqEntry) (hs : Memory.wf s.mem = true) :
    Memory.wf (eagerEntry c p s e).mem = true := by
  unfold eagerEntry
  split
  · exact hs
  have hl := wf_entryLines c p e hs
  split
  · exact snd_wf hl ‹_›
  · exact wf_markStaged _ _ _ (by simp [snd_wf hl ‹_›])

@[simp] theorem wf_eagerStage {s : State} (c : Nat) (hs : Memory.wf s.mem = true) : Memory.wf (eagerStage s c).mem = true := by
  simp only [eagerStage]
  repeat' split
  all_goals simp +contextual [hs]

@[simp] theorem mem_endHold (s : State) (c cline : Nat) : (endHold s c cline).mem = s.mem := rfl
@[simp] theorem mem_boundPresent (s : State) (c line : Nat) : (boundPresent s c line).mem = s.mem := by simp [boundPresent]

@[simp] theorem wf_fillArrives {s : State} (c line : Nat) (hs : Memory.wf s.mem = true) :
    Memory.wf (fillArrives s c line).mem = true := by
  unfold fillArrives
  dsimp only
  split <;> simp +contextual [hs]

@[simp] theorem mem_stealFlits (s : State) (c n : Nat) : (stealFlits s c n).mem = s.mem := rfl

@[simp] theorem mem_stealTry (s : State) (c : Nat) : (stealTry s c).mem = s.mem := by
  unfold stealTry
  dsimp only
  repeat' split
  all_goals simp

@[simp] theorem mem_stealRefuse (s : State) (thief victim : Nat) : (stealRefuse s thief victim).mem = s.mem := rfl

@[simp] theorem mem_stealAnswer (s : State) (thief victim : Nat) (cross : Bool) : (stealAnswer s thief victim cross).mem = s.mem := by
  unfold stealAnswer
  dsimp only
  repeat' split
  all_goals simp

@[simp] theorem mem_stealServe (s : State) (thief victim : Nat) (q : StealReq) : (stealServe s thief victim q).mem = s.mem := by
  simp [stealServe]

@[simp] theorem wf_stealTake {s : State} (thief : Nat) (e : DqEntry) (hs : Memory.wf s.mem = true) :
    Memory.wf (stealTake s thief e).mem = true := by
  simp [stealTake, hs]

@[simp] theorem wf_splitCommit {s : State} (c i thief : Nat) (hs : Memory.wf s.mem = true) :
    Memory.wf (splitCommit s c i thief).mem = true := by
  unfold splitCommit
  dsimp only
  repeat' split
  all_goals simp [hs]

@[simp] theorem wf_callReady {s : State} (c idx : Nat) (hs : Memory.wf s.mem = true) : Memory.wf (callReady s c idx).mem = true := by
  unfold callReady
  extract_lets slot j tag
  split
  · exact hs
  split
  · exact hs
  split
  · exact hs
  exact wf_startCall _ _ (wf_foldl (fun _ _ hs => wf_endIfBlocked _ _ _ hs) _ (by simp [hs]))

@[simp] theorem wf_nodeReady {s : State} (node : NodeRef) (hs : Memory.wf s.mem = true) : Memory.wf (nodeReady s node).mem = true := by
  unfold nodeReady
  split <;> simp [hs]

@[simp] theorem wf_pollReply {s : State} (node : NodeRef) (h : Dword) (st : Nat) (hs : Memory.wf s.mem = true) :
    Memory.wf (pollReply s node h st).mem = true := by
  simp [pollReply, hs]

@[simp] theorem wf_wakeJoiners {s : State} (c slot : Nat) (h : Dword) (stale : Bool) (v : Dword) (hs : Memory.wf s.mem = true) :
    Memory.wf (wakeJoiners s c slot h stale v).mem = true := by
  unfold wakeJoiners
  dsimp only
  repeat' split
  all_goals simp [hs]

@[simp] theorem mem_runAhead (s : State) (c slot port : Nat) : (runAhead s c slot port).mem = s.mem := by
  unfold runAhead
  split
  · rfl
  refine (mem_foldl (fun t x => mem_foldl (fun t i => ?_) _ t) _ _).trans rfl
  have ha := fun g => mem_engineAddrs t c g (streamAddr x i) (2 ^ x.esz) false .stream
  split
  · refine (mem_foldl (fun t l => by split <;> simp) _ _).trans (snd_mem (ha _) ‹_›)
  · exact snd_mem (ha _) ‹_›

/-! ## EvCommit.lean -/

@[simp] theorem mem_pressAsk (s : State) (d : Nat) (k : ChunkRef) : (pressAsk s d k).mem = s.mem := by
  unfold pressAsk
  repeat' split
  all_goals simp

@[simp] theorem mem_pressGot (s : State) (d : Nat) (k : ChunkRef) : (pressGot s d k).mem = s.mem := by
  unfold pressGot
  repeat' split
  all_goals simp

@[simp] theorem mem_signatureArrives (s : State) (dest : Receiver) (k : ChunkRef) : (signatureArrives s dest k).mem = s.mem := by
  unfold signatureArrives
  repeat' split
  all_goals simp

@[simp] theorem wf_sliceCount {s : State} (slice phase : Nat) (k : ChunkRef) (f : Nat × Option Nat → Nat × Option Nat)
    (hs : Memory.wf s.mem = true) :
    Memory.wf (sliceCount s slice phase k f).mem = true := by
  unfold sliceCount
  dsimp only
  repeat' split
  all_goals simp +contextual [hs]

@[simp] theorem wf_sliceReports {s : State} (k : ChunkRef) (hs : Memory.wf s.mem = true) : Memory.wf (sliceReports s k).mem = true := by
  unfold sliceReports
  dsimp only
  split <;> simp [hs]

@[simp] theorem wf_targetAck {s : State} (core slot : Nat) (hs : Memory.wf s.mem = true) :
    Memory.wf (targetAck s core slot).mem = true := by
  unfold targetAck
  dsimp only
  split <;> simp [hs]

@[simp] theorem mem_redTake (s : State) (r : Red) : (redTake s r).mem = s.mem := by simp [redTake]

@[simp] theorem wf_redPerform {s : State} (r : Red) (hs : Memory.wf s.mem = true) : Memory.wf (redPerform s r).mem = true := by
  unfold redPerform
  dsimp only
  repeat' split
  all_goals simp [hs]

@[simp] theorem wf_haltSibling {s : State} (c slot : Nat) (hs : Memory.wf s.mem = true) :
    Memory.wf (haltSibling s c slot).mem = true := by
  unfold haltSibling
  dsimp only
  repeat' split
  all_goals simp [hs]

@[simp] theorem wf_latchFlag {s : State} (c : Nat) (i : FlaggedIssue) (twice : Bool) (hs : Memory.wf s.mem = true) :
    Memory.wf (latchFlag s c i twice).mem = true := by
  unfold latchFlag
  dsimp only
  repeat' split
  all_goals simp [hs]

@[simp] theorem wf_marginRaise {s : State} (c : Nat) (m : Margin) (hs : Memory.wf s.mem = true) :
    Memory.wf (marginRaise s c m).mem = true := by
  simp [marginRaise, hs]

@[simp] theorem wf_marginWindow {s : State} (c : Nat) (hs : Memory.wf s.mem = true) : Memory.wf (marginWindow s c).mem = true := by
  unfold marginWindow
  dsimp only
  repeat' split
  all_goals simp [hs]

@[simp] theorem mem_publishFresh (s : State) (i : Nat) (x : BarObj) : (publishFresh s i x).mem = s.mem := rfl

@[simp] theorem wf_barRelease {s : State} (b : BarRef) (hs : Memory.wf s.mem = true) : Memory.wf (barRelease s b).mem = true := by
  unfold barRelease
  extract_lets x i s₁ s₂
  have h₁ : Memory.wf s₁.mem = true := by simp [s₁, hs]
  have h₂ : Memory.wf s₂.mem = true := by simp [s₂, h₁]
  split
  · exact hs
  split
  · split <;> simp [hs]
  · have hwake : ∀ (t : State) (a : Nat × Nat), Memory.wf t.mem = true →
        Memory.wf (barWake t a.1 a.2 i (fun s f => wakeThreads s a.1 a.2 f)).mem = true := fun t a ht =>
      wf_barWake a.1 a.2 i (f := fun s f => wakeThreads s a.1 a.2 f) (fun f => wf_wakeThreads _ _ f ht) ht
    exact wf_foldl hwake _ h₂

@[simp] theorem wf_afterBar {s : State} (b : BarRef) (hs : Memory.wf s.mem = true) : Memory.wf (afterBar s b).mem = true := by
  unfold afterBar
  split <;> simp [hs]

@[simp] theorem wf_barRefuse {s : State} (b : BarRef) (v : Arrival) (hs : Memory.wf s.mem = true) :
    Memory.wf (barRefuse s b v).mem = true := by
  unfold barRefuse
  split <;> simp [hs]

@[simp] theorem wf_barAccept {s : State} (b : BarRef) (v : Arrival) (hs : Memory.wf s.mem = true) :
    Memory.wf (barAccept s b v).mem = true := by
  simp [barAccept, hs]

@[simp] theorem wf_barArrives {s : State} (b : BarRef) (v : Arrival) (hs : Memory.wf s.mem = true) :
    Memory.wf (barArrives s b v).mem = true := by
  unfold barArrives
  extract_lets x
  split
  · exact hs
  split
  · exact wf_afterBar _ (wf_barRefuse _ _ hs)
  · exact wf_afterBar _ (wf_barRelease _ (wf_barAccept _ _ hs))

@[simp] theorem mem_mcstPerform (s : State) (m : McstPacket) : (mcstPerform s m).mem = s.mem := by
  unfold mcstPerform
  split <;> simp

@[simp] theorem wf_grpTimeout {s : State} (c slot : Nat) (hs : Memory.wf s.mem = true) :
    Memory.wf (grpTimeout s c slot).mem = true := by
  unfold grpTimeout
  split <;> simp [hs]

/-! ## EvCopy.lean -/

@[simp] theorem mem_scrCopyByte (s : State) (x : Copy) (wr : Bool) (sa : Word) : (scrCopyByte s x wr sa).2.mem = s.mem := by
  unfold scrCopyByte
  split
  · rfl
  split
  · rfl
  split
  · rfl
  extract_lets va
  have ha := mem_engineAddrs s x.core x.pasid va 1 wr (.copy x.engine)
  split
  · have h := snd_mem ha ‹_›
    extract_lets pa
    split <;> simp [h]
  · exact snd_mem ha ‹_›

@[simp] theorem mem_scrCopyBytes (x : Copy) (wr : Bool) (ws : List Word) (s : State) : (scrCopyBytes x wr ws s).2.mem = s.mem := by
  induction ws generalizing s with
  | nil => rfl
  | cons a ws ih =>
    rw [scrCopyBytes]
    have ha := mem_scrCopyByte s x wr a
    split
    · exact snd_mem ha ‹_›
    have hr := fun t (ht : t.mem = s.mem) => (ih t).trans ht
    split
    · exact snd_mem (hr _ (snd_mem ha ‹_›)) ‹_›
    · exact snd_mem (hr _ (snd_mem ha ‹_›)) ‹_›

@[simp] theorem mem_copyLocs (s : State) (x : Copy) (scr wr : Bool) (va : Dword) (n : Nat) :
    (copyLocs s x scr wr va n).2.mem = s.mem := by
  unfold copyLocs
  split
  · simp
  have ha := mem_engineAddrs s x.core x.pasid va n wr (.copy x.engine)
  split <;> exact snd_mem ha ‹_›

@[simp] theorem wf_copyRead {s : State} (x : Copy) (scr : Bool) (va : Dword) (n : Nat) (hs : Memory.wf s.mem = true) :
    Memory.wf (copyRead s x scr va n).2.mem = true := by
  have hl : Memory.wf (copyLocs s x scr false va n).2.mem = true := by simp [hs]
  unfold copyRead
  split
  · exact snd_wf hl ‹_›
  split
  · exact snd_wf hl ‹_›
  have hu := wf_unitRead ‹_› (snd_wf hl ‹_›)
  split <;> exact hu

@[simp] theorem wf_cpyElem {s : State} (x : Copy) (vec : List Nat) (hs : Memory.wf s.mem = true) :
    Memory.wf (cpyElem s x vec).2.mem = true := by
  unfold cpyElem
  extract_lets +onlyGivenNames ds n src dst
  split
  next r t hr =>
  have ht : Memory.wf t.mem = true := by
    split at hr
    · exact snd_wf (wf_copyRead _ _ _ _ hs) hr
    · cases hr
      exact hs
  split
  · exact ht
  have hl : Memory.wf (copyLocs t x (cpyDscr ds) true dst n).2.mem = true := by simp [ht]
  split <;> exact snd_wf hl ‹_›

@[simp] theorem wf_tcpBook {s : State} (x : Copy) (vec : List Nat) (hs : Memory.wf s.mem = true) :
    Memory.wf (tcpBook s x vec).2.mem = true := by
  unfold tcpBook
  extract_lets +onlyGivenNames ds
  split
  · exact hs
  have hr := wf_copyRead x false (clDw ds 8) 32 hs
  split
  · exact snd_wf hr ‹_›
  · split <;> exact snd_wf hr ‹_›

@[simp] theorem wf_tcpScale {s : State} (x : Copy) (vec : List Nat) (hs : Memory.wf s.mem = true) :
    Memory.wf (tcpScale s x vec).2.mem = true := by
  unfold tcpScale
  extract_lets +onlyGivenNames ds kk r at_
  split
  · exact hs
  split
  · exact hs
  split
  · exact hs
  extract_lets va
  have hr := wf_copyRead x false va 1 hs
  split <;> exact snd_wf hr ‹_›

@[simp] theorem wf_tcpBits {s : State} (x : Copy) (vec : List Nat) (sc : Nat) (hs : Memory.wf s.mem = true) :
    Memory.wf (tcpBits s x vec sc).2.mem = true := by
  unfold tcpBits
  extract_lets +onlyGivenNames ds kk r
  split
  · exact hs
  have hr := wf_copyRead x false (tcpSrc ds vec) (tcpSize ds) hs
  split <;> exact snd_wf hr ‹_›

@[simp] theorem wf_tcpElem {s : State} (x : Copy) (out : List (Nat × Byte)) (vec : List Nat) (hs : Memory.wf s.mem = true) :
    Memory.wf (tcpElem s x out vec).2.mem = true := by
  have hb := wf_tcpBook x vec hs
  unfold tcpElem
  split
  · exact snd_wf hb ‹_›
  have hsc := wf_tcpScale x vec (snd_wf hb ‹_›)
  split
  · exact snd_wf hsc ‹_›
  have hbits := fun sc => wf_tcpBits x vec sc (snd_wf hsc ‹_›)
  split
  · exact snd_wf (hbits _) ‹_›
  extract_lets bs
  have hw := fun ws => show Memory.wf (scrCopyBytes x true ws _).2.mem = true by
    rw [mem_scrCopyBytes]; exact snd_wf (hbits _) ‹_›
  split <;> exact snd_wf (hw _) ‹_›

@[simp] theorem wf_copyElem {s : State} (x : Copy) (out : List (Nat × Byte)) (pos : Nat) (hs : Memory.wf s.mem = true) :
    Memory.wf (copyElem s x out pos).2.mem = true := by
  unfold copyElem
  split <;> simp [hs]

@[simp] theorem mem_landScratch (x : Copy) (s : State) (ws : List (Loc × Byte)) : (landScratch x s ws).mem = s.mem :=
  mem_foldl (fun _ _ => by split <;> rfl) _ _

@[simp] theorem mem_modCopy (s : State) (id : Nat) (f : Copy → Copy) : (modCopy s id f).mem = s.mem := rfl

@[simp] theorem mem_copyOver (s : State) (x : Copy) (v : Nat) : (copyOver s x v).mem = s.mem := by
  unfold copyOver
  cases x.grid <;> simp

@[simp] theorem wf_copyEndFault {s : State} (id : Nat) (r : FaultRec) (hs : Memory.wf s.mem = true) :
    Memory.wf (copyEndFault s id r).mem = true := by
  unfold copyEndFault
  dsimp only
  repeat' split
  all_goals simp [hs]

@[simp] theorem wf_landRun {s0 : State} (id : Nat) (x : Copy) {r : CopyRun} (hr : Memory.wf r.s.mem = true) :
    Memory.wf (landRun s0 id x r).mem = true := by
  unfold landRun
  extract_lets s₁ s₂ y
  have h₂ : Memory.wf s₂.mem = true := by
    simp only [s₂, mem_modCopy]
    exact wf_performWrite _ _ (by simp [s₁, hr])
  split
  · simp [h₂]
  · split <;> simp [h₂]
  · simp [h₂]

@[simp] theorem wf_copyRun (x : Copy) (n : Nat) {r : CopyRun} (hr : Memory.wf r.s.mem = true) :
    Memory.wf (copyRun x n r).s.mem = true := by
  induction n generalizing r with
  | zero => exact hr
  | succ n ih =>
    rw [copyRun]
    split
    · exact hr
    have he := fun y out pos => wf_copyElem y out pos hr
    split
    · exact snd_wf (he _ _ _) ‹_›
    extract_lets ls gs
    split
    · exact hr
    · exact ih (by rw [mem_landScratch]; exact snd_wf (he _ _ _) ‹_›)

@[simp] theorem mem_copyWaits (s₀ s : State) : (copyWaits s₀ s).mem = s₀.mem := rfl

@[simp] theorem wf_engineChunk {s : State} (id : Nat) (hs : Memory.wf s.mem = true) : Memory.wf (engineChunk s id).mem = true := by
  have hrun : ∀ (x : Copy) (r : CopyRun), r.s = s → ∀ n, Memory.wf (copyRun x n r).s.mem = true := fun x r hr n =>
    wf_copyRun x n (by rw [hr]; exact hs)
  unfold engineChunk
  extract_lets +onlyGivenNames me
  split
  · simp [hs]
  split
  · simp [hs]
  extract_lets +onlyGivenNames run
  split
  · split
    · simp [hs]
    extract_lets r n
    split
    · simp [hs]
    split
    · exact wf_landRun _ _ (hrun _ _ rfl _)
    · simp [hs]
  · split
    · exact hs
    extract_lets r
    split
    · simp [hs]
    split
    · simp [hs]
    · exact wf_landRun _ _ (hrun _ _ rfl _)

@[simp] theorem mem_copyStart (s : State) (id : Nat) : (copyStart s id).mem = s.mem := by
  unfold copyStart
  repeat' split
  all_goals simp

@[simp] theorem wf_copyComplete {s : State} (id : Nat) (hs : Memory.wf s.mem = true) : Memory.wf (copyComplete s id).mem = true := by
  unfold copyComplete
  dsimp only
  repeat' split
  all_goals simp [hs]

/-! ## EvHbm.lean -/

@[simp] theorem mem_decantLine (s : State) (line : Nat) (helpers : List Nat) : (decantLine s line helpers).mem = s.mem := by
  simp [decantLine]

@[simp] theorem mem_addReplica (s : State) (line h : Nat) : (addReplica s line h).mem = s.mem := rfl
@[simp] theorem mem_holdPacket (s : State) (x row : Nat) (e : Instr) : (holdPacket s x row e).mem = s.mem := rfl

@[simp] theorem wf_unprotected {s : State} (line : Nat) (hs : Memory.wf s.mem = true) : Memory.wf (unprotected s line).mem = true := by
  simp [unprotected, hs]

@[simp] theorem mem_startRecon (s : State) (line : Nat) (wr : Option (List Byte)) : (startRecon s line wr).mem = s.mem := by
  unfold startRecon
  extract_lets row p s₁ s₂
  have h₂ : s₂.mem = s.mem := by simp [s₂, s₁]
  exact (mem_foldl (fun _ _ => send_mem ..) _ _).trans h₂

@[simp] theorem wf_endRecon {s : State} (r : Recon) (hs : Memory.wf s.mem = true) : Memory.wf (endRecon s r).mem = true := by
  unfold endRecon
  dsimp only
  repeat' split
  all_goals simp [hs]

@[simp] theorem wf_settleRecon {s : State} (p : Nat) (r : Recon) (hs : Memory.wf s.mem = true) :
    Memory.wf (settleRecon s p r).mem = true := by
  simp [settleRecon, hs]

@[simp] theorem wf_storeLine {s : State} (line : Nat) (hs : Memory.wf s.mem = true) : Memory.wf (storeLine s line).mem = true := by
  simp [storeLine, hs]

@[simp] theorem mem_deferPacket (s : State) (x row : Nat) (e : Instr) : (deferPacket s x row e).mem = s.mem := by simp [deferPacket]

@[simp] theorem mem_replied (s₀ s : State) (line : Nat) : (replied s₀ s line).mem = s.mem := by
  unfold replied
  split <;> simp

@[simp] theorem wf_slicePacket {s : State} (e : Instr) (hs : Memory.wf s.mem = true) : Memory.wf (slicePacket s e).mem = true := by
  cases e with
  | hbmRead line bad =>
    simp only [slicePacket]
    repeat' split
    all_goals simp [hs]
  | hbmWrite line bad =>
    simp only [slicePacket]
    split
    · exact hs
    split
    · simp [hs]
    · rw [mem_replied]
      exact wf_storeLine _ hs
  | hbmAtomic line r =>
    have hr := wf_redPerform r hs
    simp only [slicePacket]
    split
    · exact hs
    split
    · simp [hs]
    split
    · simp [hs]
    · rw [mem_replied]
      split
      · exact hr
      · exact wf_storeLine _ hr
  | _ => exact hs

@[simp] theorem wf_retryHeld {s : State} (x : Nat) (hs : Memory.wf s.mem = true) : Memory.wf (retryHeld s x).mem = true := by
  simp +contextual [retryHeld, hs]

@[simp] theorem wf_retryRow {s : State} (row : Nat) (hs : Memory.wf s.mem = true) : Memory.wf (retryRow s row).mem = true :=
  wf_foldl (fun _ _ hs => by split <;> simp [hs]) _ hs

@[simp] theorem mem_answerFreeze (s : State) (x row : Nat) (bad : Bool) : (answerFreeze s x row bad).mem = s.mem := rfl
@[simp] theorem mem_poisonStack (s : State) (x : Nat) : (poisonStack s x).mem = s.mem := by simp [poisonStack]

@[simp] theorem wf_dropStack {s : State} (x : Nat) (hs : Memory.wf s.mem = true) : Memory.wf (dropStack s x).mem = true := by
  have hsend : ∀ (r : Recon) (t : State) (ys : List Nat),
      (ys.foldl (fun s y => send s (stackAgent x) (stackAgent y) (.unfreeze y r.row)) t).mem = t.mem := fun r t ys => by simp
  unfold dropStack
  extract_lets mine s₁ s₂ s₃
  have h₁ : Memory.wf s₁.mem = true := by simp [s₁, hs]
  have h₂ : Memory.wf s₂.mem = true := wf_foldl (fun t r ht => by rw [hsend]; exact wf_endRecon _ ht) _ h₁
  have h₃ : Memory.wf s₃.mem = true := wf_foldl (fun _ _ ht => wf_foldl (fun _ _ ht => wf_settleRecon _ _ ht) _ ht) _ h₂
  exact wf_foldl (fun _ _ ht => wf_retryHeld _ ht) _ h₃

@[simp] theorem wf_loseStack {s : State} (x : Nat) (hs : Memory.wf s.mem = true) : Memory.wf (loseStack s x).mem = true := by
  unfold loseStack
  dsimp only
  repeat' split
  all_goals simp [hs]

@[simp] theorem mem_beginMove (s : State) (x : Nat) (m : Move) : (beginMove s x m).mem = s.mem := rfl

@[simp] theorem mem_parkNext (s : State) (x : Nat) : (parkNext s x).mem = s.mem := by
  unfold parkNext
  dsimp only
  repeat' split
  all_goals simp

@[simp] theorem mem_parkStart (s : State) (x : Nat) : (parkStart s x).mem = s.mem := by
  unfold parkStart
  dsimp only
  split <;> simp

@[simp] theorem mem_swapBegin (s : State) (x f1 f2 : Nat) : (swapBegin s x f1 f2).mem = s.mem := by simp [swapBegin]

@[simp] theorem wf_endMove {s : State} (x : Nat) (m : Move) (hs : Memory.wf s.mem = true) : Memory.wf (endMove s x m).mem = true := by
  unfold endMove
  dsimp only
  repeat' split
  all_goals simp [hs]

@[simp] theorem wf_endMarch {s : State} (x : Nat) (pass : Bool) (hs : Memory.wf s.mem = true) :
    Memory.wf (endMarch s x pass).mem = true := by
  unfold endMarch
  dsimp only
  repeat' split
  all_goals simp [hs]

theorem mem_zeroCtrs (ks : List Nat) (s : State) : (ks.foldl (fun s k => ctrPut s k 0) s).mem = s.mem := by simp

theorem mem_kickEngines (cs : List Nat) (s : State) :
    (cs.foldl (fun s c => if (coreAt s c).ops.isEmpty then s else engineKick s c) s).mem = s.mem := by simp

theorem wf_zeroedLog {s : State} (ks : List Nat) (d : Nat) (hs : Memory.wf s.mem = true) :
    Memory.wf (drainLog (if d = 0 then ctrAdd (ks.foldl (fun s k => ctrPut s k 0) s) (ctrKey 7 0 3) 1
      else ks.foldl (fun s k => ctrPut s k 0) s)).mem = true :=
  wf_drainLog (by split <;> simp only [mem_ctrAdd, mem_zeroCtrs] <;> exact hs)

@[simp] theorem wf_startPeriod {s : State} (d : Nat) (hs : Memory.wf s.mem = true) : Memory.wf (startPeriod s d).mem = true := by
  unfold startPeriod
  rw [after_mem, mem_kickEngines]
  exact wf_zeroedLog _ d hs

/-! ## EvMatrix.lean -/

@[simp] theorem mem_answerAcc (s : State) (c : Nat) (which : AccReq → Bool) (w : Word) : (answerAcc s c which w).mem = s.mem := rfl

@[simp] theorem mem_accStep (s : State) (c : Nat) : (accStep s c).mem = s.mem := by
  unfold accStep
  dsimp only
  repeat' split
  all_goals simp

@[simp] theorem mem_stepDone (s : State) (c : Nat) (o : EngOp) : (stepDone s c o).mem = s.mem := by
  have hend : ∀ t : State, (if mmaNstep o.word ≤ o.next then finishOp t o else engineKick t c).mem = t.mem := fun t => by split <;> simp
  unfold stepDone
  extract_lets n rows s₁ s₂ s₃ s₄
  have h₁ : s₁.mem = s.mem := (mem_charge ..).trans (coreCtr_mem ..)
  have h₂ : s₂.mem = s.mem := (modTeam_mem ..).trans h₁
  have h₃ : s₃.mem = s.mem := (modCore_mem ..).trans h₂
  have h₄ : s₄.mem = s.mem := (hend s₃).trans h₃
  clear_value s₄
  rw [mem_ite, send_mem, ite_self, h₄]

@[simp] theorem wf_stepHard {s : State} (c : Nat) (o : EngOp) (hs : Memory.wf s.mem = true) :
    Memory.wf (stepHard s c o).mem = true := by
  unfold stepHard
  dsimp only
  repeat' split
  all_goals simp [hs]

@[simp] theorem wf_stepEnd {s : State} (c flag : Nat) (hs : Memory.wf s.mem = true) : Memory.wf (stepEnd s c flag).mem = true := by
  unfold stepEnd
  dsimp only
  repeat' split
  all_goals simp [hs]

@[simp] theorem mem_storeRows (s : State) (o : EngOp) (phys : Nat) : (storeRows s o phys).mem = s.mem := by
  unfold storeRows
  split <;> simp

@[simp] theorem mem_performOp (s : State) (o : EngOp) : (performOp s o).mem = s.mem := by simp [performOp]
@[simp] theorem mem_freeOp (s : State) (o : EngOp) : (freeOp s o).mem = s.mem := by simp [freeOp]

/-! ## EvHost.lean -/

@[simp] theorem wf_ringDoorbell {s : State} (q : Nat) (v : Word) (hs : Memory.wf s.mem = true) :
    Memory.wf (ringDoorbell s q v).mem = true := by
  unfold ringDoorbell
  split
  · exact hs
  extract_lets +onlyGivenNames n s₁ diff s₂ s₃
  have h₁ : Memory.wf s₁.mem = true := by simp [s₁, hs]
  split
  · exact h₁
  split
  · simp [h₁]
  have h₂ : Memory.wf s₂.mem = true := by simp [s₂, h₁]
  split
  · simp [h₂]
  have h₃ : Memory.wf s₃.mem = true := by simp [s₃, h₂]
  split <;> simp [h₃]

@[simp] theorem wf_writeDesc {s : State} (q off v : Nat) (hs : Memory.wf s.mem = true) :
    Memory.wf (writeDesc s q off v).mem = true := by
  unfold writeDesc
  dsimp only
  repeat' split
  all_goals simp [hs]

@[simp] theorem wf_failPacket {s : State} (x : Start) (err : Nat) (hs : Memory.wf s.mem = true) :
    Memory.wf (failPacket s x err).mem = true := by
  simp [failPacket, hs]

@[simp] theorem wf_takePacket {s : State} (x : Start) (hs : Memory.wf s.mem = true) : Memory.wf (takePacket s x).mem = true := by
  simp [takePacket, hs]

@[simp] theorem wf_finishPacket {s : State} (x : Start) (hs : Memory.wf s.mem = true) : Memory.wf (finishPacket s x).mem = true := by
  simp [finishPacket, hs]

@[simp] theorem wf_fetchFail {s : State} (x : Start) (e : XErr × Nat) (hs : Memory.wf s.mem = true) :
    Memory.wf (fetchFail s x e).mem = true := by
  unfold fetchFail
  split <;> simp [hs]

theorem wf_startPacket {s : State} (slot : Nat) (me : Instr) {f : State → Start → State}
    (hf : ∀ t x, Memory.wf t.mem = true → Memory.wf (f t x).mem = true) (hs : Memory.wf s.mem = true) :
    Memory.wf (startPacket s slot me f).mem = true := by
  unfold startPacket
  split
  · exact hs
  split
  · exact hs
  extract_lets +onlyGivenNames n
  have hp := fun q => wf_fetchPacket q hs
  split
  next pk t hpk =>
  have ht := snd_wf (hp _) hpk
  split
  · exact wf_dispatchAll (wf_queueError _ _ hs)
  dsimp only
  split
  · split <;> simp [ht]
  split
  · simp [ht]
  split
  · simp [ht]
  · exact hf _ _ ht

@[simp] theorem wf_launchGrid {s : State} (x : Start) (hs : Memory.wf s.mem = true) : Memory.wf (launchGrid s x).mem = true := by
  unfold launchGrid
  extract_lets +onlyGivenNames g
  have hl := fun n => wf_rootLines x.core g .unit n hs
  split
  next roots t ht =>
  have h₁ := snd_wf (hl _) ht
  extract_lets ls err st
  split
  · simp [h₁]
  split
  · have hw := wf_writeDone g st h₁
    split
    · simp [snd_wf hw ‹_›]
    · simp [snd_wf hw ‹_›]
  split
  · simp [h₁]
  split
  · simp [h₁]
  have hr := wf_reserve (withRoots g ls) h₁
  split
  · have h₂ := snd_wf hr ‹_›
    split <;> simp [h₂]
  · simp [snd_wf hr ‹_›]

@[simp] theorem wf_launchPacket {s : State} (x : Start) (hs : Memory.wf s.mem = true) : Memory.wf (launchPacket s x).mem = true := by
  unfold launchPacket
  extract_lets done
  have ha : Memory.wf (engineAddrs s x.core x.pasid done 8 true).2.mem = true := by simp [hs]
  split
  · simp [hs]
  split
  · simp [hs]
  split
  · simp [snd_wf ha ‹_›]
  · simp [snd_wf ha ‹_›]

@[simp] theorem wf_packetRead {s : State} (x : Start) (va : Dword) (n : Nat) (hs : Memory.wf s.mem = true) :
    Memory.wf (packetRead s x va n).2.mem = true := by
  simp [packetRead, hs]

@[simp] theorem wf_copyPacketDo {s : State} (x : Start) (hs : Memory.wf s.mem = true) : Memory.wf (copyPacketDo s x).mem = true := by
  have hp := fun va n => wf_packetRead x va n hs
  unfold copyPacketDo
  split
  · simp [snd_wf (hp _ _) ‹_›]
  have ht := snd_wf (hp _ _) ‹_›
  extract_lets ds b d y
  split <;> simp [ht]

@[simp] theorem wf_packetStore {s : State} (x : Start) (va : Dword) (f : Nat → Nat) (reads : Bool) (again : Instr)
    (hs : Memory.wf s.mem = true) : Memory.wf (packetStore s x va f reads again).mem = true := by
  have ha : Memory.wf (engineAddrs s x.core x.pasid va 8 true).2.mem = true := by simp [hs]
  unfold packetStore
  split
  · simp [snd_wf ha ‹_›]
  have ht := snd_wf ha ‹_›
  extract_lets pas
  split
  · simp [ht]
  split
  · simp [ht]
  next u hu =>
  have hu : Memory.wf u.mem = true := by
    split at hu
    · exact wf_unitRead hu ht
    · cases hu
      exact ht
  split <;> simp [hu]

@[simp] theorem wf_signalDo (slot : Nat) {s : State} (x : Start) (hs : Memory.wf s.mem = true) :
    Memory.wf (signalDo slot s x).mem = true := by
  simp [signalDo, hs]

@[simp] theorem wf_markerDo (slot : Nat) {s : State} (x : Start) (hs : Memory.wf s.mem = true) :
    Memory.wf (markerDo slot s x).mem = true := by
  simp [markerDo, hs]

@[simp] theorem wf_waitDo (slot : Nat) {s : State} (x : Start) (hs : Memory.wf s.mem = true) :
    Memory.wf (waitDo slot s x).mem = true := by
  have hp := fun va n => wf_packetRead x va n hs
  unfold waitDo
  split
  · simp [hs]
  split
  · simp [snd_wf (hp _ _) ‹_›]
  have ht := snd_wf (hp _ _) ‹_›
  split
  · simp [ht]
  extract_lets tmo p s₁
  have h₁ : Memory.wf s₁.mem = true := by simp [s₁, ht]
  simp [h₁]

@[simp] theorem wf_rereadWait {s : State} (slot q : Nat) (e : XErr × Nat) (hs : Memory.wf s.mem = true) :
    Memory.wf (rereadWait s slot q e).mem = true := by
  unfold rereadWait
  split <;> simp [hs]

@[simp] theorem wf_recheckWait {s : State} (slot : Nat) (hs : Memory.wf s.mem = true) : Memory.wf (recheckWait s slot).mem = true := by
  unfold recheckWait
  extract_lets +onlyGivenNames s₁
  have h₁ : Memory.wf s₁.mem = true := by simp [s₁, hs]
  split
  · simp [h₁]
  split
  · simp [h₁]
  extract_lets n
  have hf := fun q => wf_fetchPacket q h₁
  split
  · simp [snd_wf (hf _) ‹_›]
  have hq := fun c p va => wf_queueRead c p va 8 .unit (snd_wf (hf _) ‹_›)
  split
  · simp [snd_wf (hq _ _ _) ‹_›]
  · have ht := snd_wf (hq _ _ _) ‹_›
    split <;> simp [ht]

@[simp] theorem wf_createCtx {s : State} (x : Start) (hs : Memory.wf s.mem = true) : Memory.wf (createCtx s x).mem = true := by
  unfold createCtx
  split <;> simp [hs]

theorem wf_onCtx {s : State} (x : Start) {f : Nat → Ctx → State} (hf : ∀ i c, Memory.wf (f i c).mem = true) (hs :
    Memory.wf s.mem = true) :
    Memory.wf (onCtx s x f).mem = true := by
  unfold onCtx
  split
  · simp [hs]
  · split <;> simp [hs, hf]

theorem wf_abandonGrids (gs : List (Nat × Grid)) {s : State} (hs : Memory.wf s.mem = true) :
    Memory.wf (gs.foldl (fun s e => if e.2.started then abortGrid s e.1 0
      else match reservationOf s e.1 with
        | some r => abortReservation s r e.1
        | none => s) s).mem = true := by
  refine wf_foldl (fun t e ht => ?_) _ hs
  split
  · exact wf_abortGrid _ _ ht
  · split
    · simp [ht]
    · exact ht

@[simp] theorem wf_destroyCtx {s : State} (x : Start) (hs : Memory.wf s.mem = true) : Memory.wf (destroyCtx s x).mem = true := by
  unfold destroyCtx
  refine wf_onCtx x ?_ hs
  intro i c
  dsimp only
  split
  · simp [hs]
  · refine wf_dispatchAll ?_
    rw [send_mem]
    exact wf_abandonGrids _ (by simp [hs])

@[simp] theorem wf_setSlice {s : State} (x : Start) (hs : Memory.wf s.mem = true) : Memory.wf (setSlice s x).mem = true := by
  unfold setSlice
  extract_lets n
  split
  · simp [hs]
  · refine wf_onCtx x ?_ hs
    intro i c
    simp [hs]

@[simp] theorem wf_preemptCtx {s : State} (x : Start) (hs : Memory.wf s.mem = true) : Memory.wf (preemptCtx s x).mem = true := by
  unfold preemptCtx
  refine wf_onCtx x ?_ hs
  intro i c
  dsimp only
  split
  · simp [hs]
  split
  · exact wf_completePacket _ _ (wf_writeSave _ _ (by simp [hs]))
  · exact wf_dispatchAll (wf_stopContext _ (by simp [hs]))

@[simp] theorem wf_resumeCtx {s : State} (x : Start) (hs : Memory.wf s.mem = true) : Memory.wf (resumeCtx s x).mem = true := by
  unfold resumeCtx
  refine wf_onCtx x ?_ hs
  intro i c
  simp [hs]

@[simp] theorem mem_rootPush (s : State) (gn d : Nat) : (rootPush s gn d).mem = s.mem := by
  unfold rootPush
  split <;> simp

@[simp] theorem wf_sliceScheduler {s : State} (hs : Memory.wf s.mem = true) : Memory.wf (sliceScheduler s).mem = true :=
  wf_foldl (fun _ _ ht => wf_foldl (fun _ _ ht => wf_restoreCtx _ ht) _ ht) _ hs

@[simp] theorem wf_serveTimer {s : State} (hs : Memory.wf s.mem = true) : Memory.wf (serveTimer s).mem = true :=
  wf_foldl (fun _ _ ht => wf_firmwareRestore _ ht) _ (wf_sliceScheduler (wf_foldl (fun _ _ ht => wf_firmwareSave _ ht) _ hs))

@[simp] theorem wf_serveMargin {s : State} (d : Nat) (hs : Memory.wf s.mem = true) : Memory.wf (serveMargin s d).mem = true :=
  wf_foldl (fun _ _ ht => by split <;> simp [ht]) _ hs

@[simp] theorem mem_serveFaults (s : State) (d : Nat) : (serveFaults s d).mem = s.mem := rfl

theorem wf_firmwareSources {s : State} {d : Nat} {x : Word × (State → State)} (hx : x ∈ firmwareSources d) (hs :
    Memory.wf s.mem = true) :
    Memory.wf (x.2 s).mem = true := by
  simp only [firmwareSources, List.mem_cons, List.not_mem_nil, or_false] at hx
  obtain rfl | rfl | rfl | rfl | rfl | rfl | rfl := hx <;> simp [hs]

@[simp] theorem wf_commandFirmware {s : State} (d : Nat) (hs : Memory.wf s.mem = true) : Memory.wf (commandFirmware s d).mem = true := by
  refine List.foldlRecOn (motive := fun t : State => Memory.wf t.mem = true) _ _ hs fun t ht x hx => ?_
  split
  · exact wf_firmwareSources hx ht
  · exact wf_firmwareSources hx (by simpa using ht)

@[simp] theorem mem_postponeSlice (s : State) (i d : Nat) (c : Ctx) : (postponeSlice s i d c).mem = s.mem := rfl

@[simp] theorem wf_endSlice {s : State} (p : Nat) (hs : Memory.wf s.mem = true) : Memory.wf (endSlice s p).mem = true := by
  unfold endSlice
  split
  · exact hs
  extract_lets due
  split
  · exact hs
  refine wf_foldl (fun t d ht => ?_) _ hs
  repeat' split
  all_goals simp [ht]

@[simp] theorem wf_stopAck {s : State} (c cls : Nat) (hs : Memory.wf s.mem = true) : Memory.wf (stopAck s c cls).mem = true := by
  simp only [stopAck]
  repeat' split
  all_goals simp +contextual [hs]

theorem wf_forwardOne {s t : State} {d : Nat} (h : forwardOne s d = some t) (hs : Memory.wf s.mem = true) : Memory.wf t.mem = true := by
  unfold forwardOne at h
  split at h
  · cases h
  dsimp only at h
  split at h
  · split at h
    · cases h
    · obtain rfl := Option.some.inj h
      simpa using hs
  · split at h
    · cases h
    · obtain rfl := Option.some.inj h
      exact wf_performWrite none _ (by simpa using hs)

@[simp] theorem wf_postWaiting {s : State} (d : Nat) (hs : Memory.wf s.mem = true) : Memory.wf (postWaiting s d).mem = true := by
  unfold postWaiting
  extract_lets +onlyGivenNames x room s₁
  have h₁ : Memory.wf s₁.mem = true := by simp [s₁, hs]
  split
  · exact h₁
  · next t ht =>
    rw [send_mem]
    exact wf_forwardOne ht h₁

@[simp] theorem wf_priAnswer {s : State} (id : Nat) (ok : Bool) (hs : Memory.wf s.mem = true) :
    Memory.wf (priAnswer s id ok).mem = true := by
  unfold priAnswer
  dsimp only
  repeat' split
  all_goals simp [hs]

@[simp] theorem mem_atsAnswer (s : State) (tag : Nat) (bus : Option (Nat × Bool)) (w x : Bool) :
    (atsAnswer s tag bus w x).mem = s.mem := by
  unfold atsAnswer
  repeat' split
  all_goals simp

@[simp] theorem mem_tagTimeout (s : State) (tag : Nat) : (tagTimeout s tag).mem = s.mem := by
  unfold tagTimeout
  repeat' split
  all_goals simp

@[simp] theorem mem_pollInval (s : State) (r : Nat × Nat × Nat) : (pollInval s r).mem = s.mem := by simp [pollInval]
@[simp] theorem mem_atsInval (s : State) (p va pages : Nat) : (atsInval s p va pages).mem = s.mem := by simp [atsInval]

@[simp] theorem mem_pageWalk (s : State) (c p : Nat) (va : Dword) : (pageWalk s c p va).mem = s.mem := by
  unfold pageWalk
  dsimp only
  repeat' split
  all_goals simp

@[simp] theorem wf_startTeardown {s : State} (i p : Nat) (hs : Memory.wf s.mem = true) :
    Memory.wf (startTeardown s i p).mem = true := by
  unfold startTeardown
  extract_lets s₁ s₂ keep s₃
  have h₂ : Memory.wf s₂.mem = true := wf_foldl (fun _ _ ht => by split <;> simp [ht]) _ (by simp [s₁, hs])
  have hi : ∀ t me i, Memory.wf t.mem = true → Memory.wf (invalidateTlb t me i).1.mem = true := fun t me i ht => by simp [ht]
  split
  next t w hw =>
  have ht : t.mem = s₃.mem := by
    have := congrArg (fun p => p.1.mem) hw
    simpa using this.symm
  rw [mem_modCtx, ht]
  exact h₂

@[simp] theorem wf_teardownStep {s : State} (p : Nat) (hs : Memory.wf s.mem = true) : Memory.wf (teardownStep s p).mem = true := by
  unfold teardownStep
  dsimp only
  repeat' split
  all_goals simp [hs]

@[simp] theorem wf_putRing {s : State} (r n : Nat) (hs : Memory.wf s.mem = true) : Memory.wf (putRing s r n).mem = true := by
  simp [putRing, hs]

@[simp] theorem wf_writeRing {s : State} (r off v : Nat) (hs : Memory.wf s.mem = true) :
    Memory.wf (writeRing s r off v).mem = true := by
  unfold writeRing
  dsimp only
  repeat' split
  all_goals simp [hs]

theorem wf_writeTable (t : Nat) {put : State → Nat → Nat → State} (hput :
    ∀ s a v, Memory.wf s.mem = true → Memory.wf (put s a v).mem = true)
    (f : Nat → Option Byte) {s : State} (hs : Memory.wf s.mem = true) : Memory.wf (writeTable t put f s).mem = true := by
  refine wf_foldl (fun u w hu => ?_) _ hs
  dsimp only
  split
  · exact hu
  · exact hput _ _ _ hu

@[simp] theorem wf_inboundLine {s : State} (pa : Nat) (bs : List Byte) (hs : Memory.wf s.mem = true) :
    Memory.wf (inboundLine s pa bs).mem = true := by
  unfold inboundLine
  extract_lets f inTable table
  have htable : ∀ (t : Nat) (put : State → Nat → Nat → Nat → State),
      (∀ q s a v, Memory.wf s.mem = true → Memory.wf (put s q a v).mem = true) → Memory.wf (table t put).mem = true := fun t put hput =>
    wf_foldl (fun u q hu => wf_writeTable _ (hput q) _ hu) _ hs
  split
  · exact hs
  split
  · exact htable _ _ fun _ _ _ _ h => wf_writeDesc _ _ _ h
  split
  · exact htable _ _ fun _ _ _ _ h => wf_writeRing _ _ _ h
  · exact wf_performWrite _ _ hs

@[simp] theorem wf_inboundRead {s : State} (pa n : Nat) (hs : Memory.wf s.mem = true) : Memory.wf (inboundRead s pa n).mem = true := by
  unfold inboundRead
  extract_lets m s₁
  have h₁ : Memory.wf s₁.mem = true := by simp [s₁, hs]
  split
  · exact h₁
  split
  · exact h₁
  · exact wf_unitRead ‹_› h₁

@[simp] theorem wf_inbound {s : State} (pa : Nat) (bytes : List Byte) (hs : Memory.wf s.mem = true) :
    Memory.wf (inbound s pa bytes).mem = true := by
  unfold inbound
  dsimp only
  split <;> simp [hs]

@[simp] theorem mem_losePacket (s : State) (r len : Nat) : (losePacket s r len).mem = s.mem := rfl

@[simp] theorem wf_meetRing {s : State} (r : Nat) (bs : List Byte) (hs : Memory.wf s.mem = true) :
    Memory.wf (meetRing s r bs).mem = true := by
  unfold meetRing
  extract_lets +onlyGivenNames n begin_
  have hbegin : ∀ (t : State) (before : List (Nat × List Byte)), (begin_ t before).mem = t.mem := fun _ _ => rfl
  clear_value begin_
  split
  · simp [hs]
  split
  · exact hs
  next t ht =>
  have h₁ := wf_unitRead ht hs
  split
  · rw [hbegin]; exact h₁
  split
  · simp [h₁]
  split
  · simp [hbegin, h₁]
  split
  · simp [h₁]
  · exact h₁

@[simp] theorem wf_arrivePacket {s : State} (r : Nat) (p : LandPacket) (seq : Dword) (hs : Memory.wf s.mem = true) :
    Memory.wf (arrivePacket s r p seq).mem = true := by
  unfold arrivePacket
  dsimp only
  repeat' split
  all_goals simp [hs]

@[simp] theorem wf_nextHeld {s : State} (r : Nat) (hs : Memory.wf s.mem = true) : Memory.wf (nextHeld s r).mem = true := by
  unfold nextHeld
  split <;> simp [hs]

@[simp] theorem wf_landStep {s : State} (r : Nat) (hs : Memory.wf s.mem = true) : Memory.wf (landStep s r).mem = true := by
  unfold landStep
  dsimp only
  repeat' split
  all_goals simp [hs]

/-! ## EvFirmware.lean -/

@[simp] theorem wf_losePower (s : State) : Memory.wf (losePower s).mem = true := wf_afterReset _ _

@[simp] theorem mem_flashOp (s : State) (op : Nat) (v : Dword) : (flashOp s op v).mem = s.mem := by simp [flashOp]

/-! ## Fetch.lean -/

@[simp] theorem wf_fetchUnit {s : State} (n : Nat) (ws : List Word) (hs : Memory.wf s.mem = true) :
    Memory.wf (fetchUnit s n ws).2.mem = true := by
  induction n generalizing s ws with
  | zero => exact hs
  | succ n ih =>
    rw [fetchUnit]
    have hw := wf_fetchWord ws.length hs
    split
    · exact snd_wf hw ‹_›
    have ht := snd_wf hw ‹_›
    split
    · exact ht
    · exact ih _ ht
    · exact ht
    · exact ht

@[simp] theorem mem_aim (s : State) (c slot : Nat) (g : Machine.Group) : (aim s c slot g).mem = s.mem := rfl

/-! ## Step.lean -/

@[simp] theorem mem_moved (s : State) : (moved s).mem = s.mem := rfl

end Sys2Proof.Proofs

/-! # The committed memory through the computations of an instruction (R204): what keeps the form -/

namespace Sys2Proof.Proofs

open Sys2Proof Sys2Proof.Machine Sys2Proof.Laws

/-- Where it completes, the computation keeps the canonical form. -/
structure Keeping {α : Type} (m : M α) : Prop where
  wf : ∀ {s t : State} {a : α}, m s = .ok (a, t) → Memory.wf s.mem = true → Memory.wf t.mem = true

namespace Keeping

variable {α β : Type}

theorem bind {m : M α} {f : α → M β} (hm : Keeping m) (hf : ∀ a, Keeping (f a)) : Keeping (m >>= f) := ⟨fun h hs => by
  obtain ⟨a, x, hx, ht⟩ := exists_of_bind_ok h
  exact (hf a).wf ht (hm.wf hx hs)⟩

theorem of_mem {m : M α} (h : ∀ s t a, m s = .ok (a, t) → t.mem = s.mem) : Keeping m := ⟨fun hm hs => (h _ _ _ hm).symm ▸ hs⟩

theorem stops {m : M α} (h : ∀ s, ∃ e, m s = .error e) : Keeping m := ⟨fun {s t a} hm => by
  obtain ⟨e, he⟩ := h s
  exact absurd (he.symm.trans hm) nofun⟩

theorem pure (a : α) : Keeping (Pure.pure a : M α) := of_mem fun _ _ _ h => by cases h; rfl

theorem getS (f : State → α) : Keeping (getS f) := of_mem fun _ _ _ h => by cases h; rfl

theorem getG : Keeping getG := getS _

theorem getCore : Keeping getCore := getS _

theorem getTeam : Keeping getTeam := getS _

theorem faultM (f : FaultInfo) : Keeping (faultM f : M α) := stops fun _ => ⟨_, rfl⟩

theorem failM (code : Nat) : Keeping (failM code : M α) := faultM _

theorem stallM : Keeping (stallM : M α) := stops fun _ => ⟨_, rfl⟩

theorem portM : Keeping (portM : M α) := stops fun _ => ⟨_, rfl⟩

theorem cutM : Keeping (cutM : M α) := stops fun _ => ⟨_, rfl⟩

theorem ite {b : Prop} [Decidable b] {m n : M α} (hm : Keeping m) (hn : Keeping n) : Keeping (if b then m else n) := by
  split
  · exact hm
  · exact hn

theorem ensure (b : Bool) (code : Nat) : Keeping (ensure b code) := .ite (.pure _) (.failM _)

theorem waitFor (b : Bool) : Keeping (waitFor b) := .ite (.pure _) .stallM

theorem modS {f : State → State} (h : ∀ s, Memory.wf s.mem = true → Memory.wf (f s).mem = true) : Keeping (modS f) :=
  ⟨fun {s t a} hm hs => by
  cases hm
  exact h s hs⟩

theorem modG (f : Group → Group) : Keeping (modG f) := modS fun s hs => by rwa [modCur_mem]

theorem modR (f : GRegs → GRegs) : Keeping (modR f) := modG _

theorem modK (f : Chunk → Chunk) : Keeping (modK f) := modG _

theorem deferM (e : Effect) : Keeping (deferM e) := modK _

theorem modC (f : Core → Core) : Keeping (modC f) := modS fun _ hs => hs

theorem guardM : Keeping guardM := modS fun _ hs => hs

theorem forM {f : α → M Unit} (hf : ∀ a, Keeping (f a)) (ls : List α) : Keeping (ls.forM f) := by
  induction ls with
  | nil => exact pure _
  | cons a ls ih => rw [List.forM_eq_forM, List.forM_cons]; exact (hf a).bind fun _ => ih

theorem mapM {f : α → M β} (hf : ∀ a, Keeping (f a)) (ls : List α) : Keeping (ls.mapM f) := by
  induction ls with
  | nil => rw [List.mapM_nil]; exact pure _
  | cons a ls ih => rw [List.mapM_cons]; exact (hf a).bind fun _ => ih.bind fun _ => pure _

end Keeping

end Sys2Proof.Proofs

/-! # The committed memory through the computations of an instruction (R204): one lemma for each of them -/

namespace Sys2Proof.Proofs

open Sys2Proof Sys2Proof.Machine Sys2Proof.Laws

theorem keeping_enterReads (pas st : List Nat) (fill : Bool) : Keeping (enterReads pas st fill) := ⟨fun {s t a} h hs => by
  simp only [enterReads] at h
  split at h
  · cases h
  split at h
  · cases h
  split at h
  · cases h
  split at h
  · cases h
  split at h
  · cases h
  · cases h
    rw [modCur_mem]
    simpa using hs⟩

theorem keeping_enterWrites (keys gl st : List Nat) : Keeping (enterWrites keys gl st) := ⟨fun {s t a} h hs => by
  simp only [enterWrites] at h
  split at h
  · cases h
  split at h
  · cases h
  split at h
  · cases h
  split at h
  · cases h
  · cases h
    rw [modCur_mem]
    simpa using hs⟩

theorem keeping_bufferGlobal (kvs : List (Nat × Byte)) : Keeping (bufferGlobal kvs) := .modK _

theorem keeping_groupPages (lane : Nat) (ps : List (Dword × Nat)) (acc : Access) (mmioOk : Bool) :
    Keeping (groupPages lane ps acc mmioOk) := .of_mem fun s t a h => by
  have hx := mem_xlatePieces acc ps s
  simp only [groupPages] at h
  split at h
  · cases h
    exact hx
  · cases h
  · cases h
  · cases h

theorem keeping_acquireHost (pas : List Nat) : Keeping (acquireHost pas) := .of_mem fun s t a h => by
  simp only [acquireHost] at h
  split at h
  · cases h
    rfl
  · cases h
    split <;> rfl

theorem keeping_checkPoison (f : Form) (lane : Nat) (pas : List Nat) : Keeping (checkPoison f lane pas) := by
  unfold checkPoison
  refine .bind .getG fun _ => .bind (.modS fun s hs => wf_foldl (fun _ _ hs => wf_readLine _ hs) _ hs) fun _ =>
    .bind (.getS _) fun _ => ?_
  split
  · exact .faultM _
  · exact .pure _

theorem keeping_checkPieces (f : Form) (lane : Nat) (ps : List (Dword × Nat)) : Keeping (checkPieces f lane ps) := by
  unfold checkPieces
  refine .ite (.faultM _) (.bind (keeping_groupPages _ _ _ _) fun _ => .bind (keeping_acquireHost _) fun _ => .bind (.getS _) fun _ =>
    .bind (.getS _) fun _ => .ite (.faultM _) ?_)
  split
  · exact .faultM _
  · exact .bind .getG fun _ => .ite (.faultM _) (.ite (.pure _) (.bind (keeping_checkPoison _ _ _) fun _ => .pure _))

theorem keeping_checkAccess (f : Form) (lane : Nat) (va : Dword) : Keeping (checkAccess f lane va) :=
    .bind (keeping_checkPieces _ _ _) fun _ => .pure _

theorem keeping_guardChange (vlines : List Nat) : Keeping (guardChange vlines) := .of_mem fun s t a h => by
  simp only [guardChange] at h
  split at h
  · cases h
  split at h
  · cases h
  · cases h
    rfl

theorem keeping_checkGlobal (f : Form) (lanes : List Nat) (ea : Nat → Dword) : Keeping (checkGlobal f lanes ea) :=
    .mapM (fun _ => .bind (keeping_checkAccess _ _ _) fun _ => .pure _) _

theorem keeping_scrBases (wr : Bool) (lane : Nat) (offs : List Nat) : Keeping (scrBases wr lane offs) := .bind .getCore fun _ =>
    .ite (.pure _) (.bind (keeping_checkPieces _ _ _) fun _ => .pure _)

theorem keeping_checkScr (wr : Bool) (n lane : Nat) (sa : Word) : Keeping (checkScr wr n lane sa) := by
  unfold checkScr
  refine .bind (.getS _) fun _ => ?_
  split
  · exact .faultM _
  · exact .bind (.getS _) fun _ => .bind (.getS _) fun _ => .bind (keeping_scrBases _ _ _) fun _ => .bind .getG fun _ =>
    .bind .getCore fun _ => .ite (.failM _) (.ite .stallM (.pure _))

theorem keeping_checkScratch (wr : Bool) (n : Nat) (lanes : List Nat) (sa : Nat → Word) : Keeping (checkScratch wr n lanes sa) :=
    .mapM (fun _ => keeping_checkScr _ _ _ _) _

theorem keeping_enterChkReads (cs : List Chk) (fill : Bool) : Keeping (enterChkReads cs fill) := .bind (keeping_guardChange _) fun _ =>
    .bind .getCore fun _ => .bind (keeping_enterReads _ _ _) fun _ => .modK _

theorem keeping_freshChoice (cs : List Chk) : Keeping (freshChoice cs) := .of_mem fun s t a h => by
  simp only [freshChoice] at h
  split at h
  · cases h
    rfl
  · cases h
    rfl

theorem keeping_performReads (cs : List Chk) (fill : Bool) : Keeping (performReads cs fill) :=
    .bind (keeping_enterChkReads _ _) fun _ => .bind (keeping_freshChoice _) fun _ => .getS _

theorem keeping_writeLocs (kvs : List (Loc × Byte)) (st : List Nat) : Keeping (writeLocs kvs st) :=
    .bind (keeping_enterWrites _ _ _) fun _ => .bind (keeping_bufferGlobal _) fun _ => .modK _

theorem keeping_performWrites (cs : List Chk) (n : Nat) (v : Nat → Nat) (rel : Bool) : Keeping (performWrites cs n v rel) :=
    .bind (keeping_guardChange _) fun _ => .bind .getCore fun _ => .bind (keeping_writeLocs _ _) fun _ => .ite (.pure _) (.deferM _)

theorem keeping_loadOne (n lane : Nat) (ea : Dword) (fill : Bool) : Keeping (loadOne n lane ea fill) :=
    .bind (keeping_checkGlobal _ _ _) fun _ => .bind (keeping_performReads _ _) fun _ => .pure _

theorem keeping_checkOps (ops : List Opnd) : Keeping (checkOps ops) := .bind (.ensure _ _) fun _ => .bind .getG fun _ => .ensure _ _

theorem keeping_privileged : Keeping privileged := .bind .getG fun _ => .ensure _ _

theorem keeping_execLanes (p : Option Pfx) : Keeping (execLanes p) := .getS _

theorem keeping_maskedLanes (p : Option Pfx) : Keeping (maskedLanes p) := .getS _

theorem keeping_streamAt (port : Nat) (store : Bool) (lane : Nat) : Keeping (streamAt port store lane) := by
  unfold streamAt
  refine .bind .getG fun _ => ?_
  split
  · exact .faultM _
  · exact .ite (.pure _) (.faultM _)

theorem keeping_asStream {α : Type} (m : M α) (hm : Keeping m) : Keeping (asStream m) := ⟨fun {s t a} h hs => by
  simp only [asStream] at h
  split at h
  · cases h
  · cases h
  · exact hm.wf h hs⟩

theorem keeping_streamChecks (x : Stream) (lanes : List Nat) : Keeping (streamChecks x lanes) :=
  keeping_asStream _ (.ite (keeping_checkScratch _ _ _ _) (keeping_checkGlobal _ _ _))

theorem keeping_popStream (port : Nat) (lanes : List Nat) : Keeping (popStream port lanes) := .bind (keeping_streamAt _ _ _) fun _ =>
    .bind (keeping_streamChecks _ _) fun _ => .bind (keeping_asStream _ (keeping_performReads _ _)) fun _ => .bind (.modR _) fun _ =>
    .pure _

theorem keeping_pushStream (port : Nat) (lanes : List Nat) (v : Nat → Word) : Keeping (pushStream port lanes v) :=
    .bind (keeping_streamAt _ _ _) fun _ => .bind (keeping_streamChecks _ _) fun _ =>
    .bind (keeping_asStream _ (keeping_performWrites _ _ _ _)) fun _ => .modR _

theorem keeping_boundChan (port lane : Nat) : Keeping (boundChan port lane) := by
  unfold boundChan
  refine .bind .getG fun _ => ?_
  split
  · exact .faultM _
  · exact .pure _

theorem keeping_recvChan (port : Nat) (lanes : List Nat) : Keeping (recvChan port lanes) := by
  unfold recvChan
  refine .bind (keeping_boundChan _ _) fun _ => .bind (.getS _) fun _ => .ite (.faultM _) (.bind (.getS _) fun _ => ?_)
  split
  · exact .portM
  · exact .bind (.modS fun s hs => by simp [hs]) fun _ => .bind (.deferM _) fun _ => .pure _

theorem keeping_sendChan (port : Nat) (lanes : List Nat) (v : Nat → Word) : Keeping (sendChan port lanes v) := by
  unfold sendChan
  refine .bind (keeping_boundChan _ _) fun _ => .bind (.getS _) fun _ => ?_
  split
  · exact .faultM _
  · exact .bind (.getS _) fun _ => .bind (.getS _) fun _ => .ite .portM (.bind (.modS fun s hs => by simp [hs]) fun _ => .deferM _)

theorem keeping_readSrc (c : Code) (ex : List Nat) : Keeping (readSrc c ex) := .bind .getG fun _ =>
    .ite (.pure _) (.ite (.ite (.pure _) (.ite (keeping_popStream _ _) (keeping_recvChan _ _))) (.ite (.pure _) (.ite (.pure _) (.ite
    (.bind (.getS _) fun _ => .pure _) (.ite (.pure _) (.ite (.bind (.getS _) fun _ => .ite (.pure _) (.bind (.modR _) fun _ =>
    .pure _)) (.ite (.pure _) (.ite (.pure _) (.pure _)))))))))

theorem keeping_readPair (c : Code) : Keeping (readPair c) := .bind .getG fun _ => .pure _

theorem keeping_readQuad (c : Code) : Keeping (readQuad c) := .bind .getG fun _ => .pure _

theorem keeping_writeDst (c : Code) (ex zl : List Nat) (f : Nat → Word) : Keeping (writeDst c ex zl f) :=
    .ite (.modR _) (.ite (.ite (.pure _) (.ite (keeping_pushStream _ _ _) (keeping_sendChan _ _ _))) (.pure _))

theorem keeping_writePair (c : Code) (ex zl : List Nat) (f : Nat → Dword) : Keeping (writePair c ex zl f) := .modR _

theorem keeping_writeQuad (c : Code) (ex zl : List Nat) (f : Nat → Nat) : Keeping (writeQuad c ex zl f) := .modR _

theorem keeping_zeroLanes (p : Option Pfx) : Keeping (zeroLanes p) := .bind (keeping_maskedLanes _) fun _ => .pure _

theorem keeping_alu1 (p : Option Pfx) (d a : Code) (f : Word → Word) : Keeping (alu1 p d a f) := .bind (keeping_checkOps _) fun _ =>
    .bind (keeping_execLanes _) fun _ => .bind (keeping_zeroLanes _) fun _ => .bind (keeping_readSrc _ _) fun _ =>
    keeping_writeDst _ _ _ _

theorem keeping_alu2 (p : Option Pfx) (d a b : Code) (f : Word → Word → Word) : Keeping (alu2 p d a b f) :=
    .bind (keeping_checkOps _) fun _ => .bind (keeping_execLanes _) fun _ => .bind (keeping_zeroLanes _) fun _ =>
    .bind (keeping_readSrc _ _) fun _ => .bind (keeping_readSrc _ _) fun _ => keeping_writeDst _ _ _ _

theorem keeping_alu3 (p : Option Pfx) (d a b : Code) (f : Word → Word → Word → Word) : Keeping (alu3 p d a b f) :=
    .bind (keeping_checkOps _) fun _ => .bind (keeping_execLanes _) fun _ => .bind (keeping_zeroLanes _) fun _ =>
    .bind (keeping_readSrc _ _) fun _ => .bind (keeping_readSrc _ _) fun _ => .bind (keeping_readSrc _ _) fun _ =>
    keeping_writeDst _ _ _ _

theorem keeping_alu0 (p : Option Pfx) (d : Code) (v : Word) : Keeping (alu0 p d v) := .bind (keeping_checkOps _) fun _ =>
    .bind (keeping_execLanes _) fun _ => .bind (keeping_zeroLanes _) fun _ => keeping_writeDst _ _ _ _

theorem keeping_alu2w (p : Option Pfx) (d a b : Code) (f : Word → Word → Dword) : Keeping (alu2w p d a b f) :=
    .bind (keeping_checkOps _) fun _ => .bind (keeping_execLanes _) fun _ => .bind (keeping_zeroLanes _) fun _ =>
    .bind (keeping_readSrc _ _) fun _ => .bind (keeping_readSrc _ _) fun _ => keeping_writePair _ _ _ _

theorem keeping_alu64 (p : Option Pfx) (d a b : Code) (f : Dword → Dword → Dword) : Keeping (alu64 p d a b f) :=
    .bind (keeping_checkOps _) fun _ => .bind (keeping_execLanes _) fun _ => .bind (keeping_zeroLanes _) fun _ =>
    .bind (keeping_readPair _) fun _ => .bind (keeping_readPair _) fun _ => keeping_writePair _ _ _ _

theorem keeping_advancePcs (len : Nat) : Keeping (advancePcs len) := .bind (.getS _) fun _ => .modR _

theorem keeping_endAfter : Keeping endAfter := .modK _

theorem keeping_thisPc : Keeping thisPc := .getS _

theorem keeping_branchIf (ex : List Nat) (take : Nat → Bool) (target : PC) : Keeping (branchIf ex take target) := .modR _

theorem keeping_branchOn (d : Code) (i : BitVec 14) (take : Word → Bool) : Keeping (branchOn d i take) :=
    .bind (keeping_checkOps _) fun _ => .bind (keeping_execLanes _) fun _ => .bind keeping_thisPc fun _ =>
    .bind (keeping_readSrc _ _) fun _ => keeping_branchIf _ _ _

theorem keeping_targets (a : Code) (ex : List Nat) : Keeping (targets a ex) := by
  unfold targets
  refine .bind (keeping_readPair _) fun _ => ?_
  split
  · exact .faultM _
  · exact .pure _

theorem keeping_jumpTo (ex : List Nat) (x : Nat → Dword) : Keeping (jumpTo ex x) := .modR _

theorem keeping_putStack (kvs : List (Nat × Byte)) : Keeping (putStack kvs) := .bind (keeping_enterWrites _ _ _) fun _ => .modK _

theorem keeping_pushCall (ex : List Nat) (ret : PC) : Keeping (pushCall ex ret) := .bind .getG fun _ =>
    .ite (.failM _) (.bind (keeping_putStack _) fun _ => .modR _)

theorem keeping_retM : Keeping retM := by
  unfold retM
  refine .bind (keeping_execLanes _) fun _ => .bind .getG fun _ => .bind (.getS _) fun _ => ?_
  split
  · exact .faultM _
  · exact .bind (keeping_putStack _) fun _ => .modR _

theorem keeping_checkMask (mk : Code) : Keeping (checkMask mk) := .ensure _ _

theorem keeping_maskWait (mk : Code) (sync : Bool) : Keeping (maskWait mk sync) := .bind (keeping_checkMask _) fun _ =>
    .bind (keeping_execLanes _) fun _ => .bind keeping_thisPc fun _ => .modR _

theorem keeping_leaveItems (ls : List Nat) : Keeping (leaveItems ls) := by
  unfold leaveItems
  refine .bind .getG fun _ => .bind .getTeam fun _ => ?_
  split
  · exact .ite (.pure _) (.modK _)
  · exact .pure _

theorem keeping_exitM : Keeping exitM := .bind (keeping_execLanes _) fun _ => .bind (keeping_leaveItems _) fun _ =>
    .bind (.modR _) fun _ => .bind .getG fun _ => .ite (.bind (.deferM _) fun _ => .bind (.modG _) fun _ => keeping_endAfter) (.pure _)

theorem keeping_ckendM : Keeping ckendM := .bind .getG fun _ => .bind (.modG _) fun _ => .ite (.modK _) keeping_endAfter

theorem keeping_ckirrWait : Keeping ckirrWait := .bind .getG fun _ => .ite .cutM .stallM

theorem keeping_wbaseM (i : BitVec 14) : Keeping (wbaseM i) := .bind (.ensure _ _) fun _ => .modR _

theorem keeping_wgrowM (d a : Code) : Keeping (wgrowM d a) := .bind (keeping_checkOps _) fun _ => .bind (keeping_execLanes _) fun _ =>
    .bind (keeping_readSrc _ _) fun _ => .bind .getG fun _ => .bind (.ensure _ _) fun _ =>
    .ite (keeping_writeDst _ _ _ _) (.bind .getCore fun _ => .bind (.getS _) fun _ => .bind (.modS fun s hs => by simp [hs]) fun _ =>
    .ite (.bind (.modG _) fun _ => keeping_writeDst _ _ _ _) (keeping_writeDst _ _ _ _))

theorem keeping_mfsrM (d : Code) (i : BitVec 14) : Keeping (mfsrM d i) := by
  unfold mfsrM
  refine .bind .getG fun _ => .bind (.getS _) fun _ => ?_
  split
  · exact .failM _
  · exact .ite (.failM _) (.bind (keeping_checkOps _) fun _ => .bind (keeping_execLanes _) fun _ => keeping_writeDst _ _ _ _)

theorem keeping_mtsrM (d : Code) (i : BitVec 14) : Keeping (mtsrM d i) := .bind keeping_privileged fun _ => .bind (.getS _) fun _ =>
    .bind (.ensure _ _) fun _ => .bind (keeping_checkOps _) fun _ => .bind (keeping_execLanes _) fun _ =>
    .bind (keeping_readSrc _ _) fun _ => .modS fun s hs => by simp [hs]

theorem keeping_eretM : Keeping eretM := .bind keeping_privileged fun _ => .bind .getG fun _ => .bind (.ensure _ _) fun _ =>
    .bind (.modR _) fun _ => .modG _

theorem keeping_syscallM (i : BitVec 14) : Keeping (syscallM i) := .bind .getG fun _ =>
    .ite (.faultM _) (.bind (keeping_execLanes _) fun _ => .bind keeping_thisPc fun _ => .bind (.deferM _) fun _ =>
    .bind (.modR _) fun _ => keeping_endAfter)

theorem keeping_quietM : Keeping quietM := .bind .getG fun _ => .ite .cutM (.waitFor _)

theorem keeping_wfiM : Keeping wfiM := .bind keeping_privileged fun _ => .bind .getCore fun _ =>
    .ite keeping_endAfter (.bind keeping_quietM fun _ => .stallM)

theorem keeping_ipiM (a : Code) : Keeping (ipiM a) := .bind keeping_privileged fun _ => .bind (keeping_checkOps _) fun _ =>
    .bind (keeping_execLanes _) fun _ => .bind (keeping_readSrc _ _) fun _ => .bind (.getS _) fun _ => .bind (.ensure _ _) fun _ =>
    .modS fun s hs => by simp [hs]

theorem keeping_recordAddr (a : Code) : Keeping (recordAddr a) := .bind keeping_privileged fun _ => .bind (keeping_checkOps _) fun _ =>
    .bind (keeping_execLanes _) fun _ => .bind (keeping_readPair _) fun _ => .ite (.faultM _) (.pure _)

theorem keeping_lineAddrs (wr : Bool) (lane : Nat) (va : Dword) (n : Nat) : Keeping (lineAddrs wr lane va n) :=
    .bind (.mapM (fun _ => keeping_checkAccess _ _ _) _) fun _ => .pure _

theorem keeping_admitWrite (kvs : List (Nat × Byte)) : Keeping (admitWrite kvs) := .bind (.getS _) fun _ => .waitFor _

theorem keeping_ctxsaveM (a : Code) : Keeping (ctxsaveM a) := by
  unfold ctxsaveM
  refine .bind (keeping_recordAddr _) fun _ => .bind .getG fun _ => .bind (.getS _) fun _ => ?_
  split
  · exact .failM _
  · exact .bind (.ensure _ _) fun _ => .bind (.waitFor _) fun _ => .bind keeping_quietM fun _ => .bind (keeping_execLanes _) fun _ =>
    .bind (keeping_lineAddrs _ _ _ _) fun _ => .bind (keeping_admitWrite _) fun _ => .bind (.modS fun s hs => by simp [hs]) fun _ =>
    keeping_endAfter

theorem keeping_ctxrstrM (a : Code) : Keeping (ctxrstrM a) := by
  unfold ctxrstrM
  refine .bind (keeping_recordAddr _) fun _ => .bind keeping_quietM fun _ => .bind .getG fun _ => .bind (keeping_execLanes _) fun _ =>
    .bind (keeping_lineAddrs _ _ _ _) fun _ => .bind (.getS _) fun _ => .bind (.ensure _ _) fun _ => .bind (.getS _) fun _ =>
    .bind (.getS _) fun _ => ?_
  split
  · exact .failM _
  · exact .bind (.ensure _ _) fun _ => .bind (.getS _) fun _ => .bind (.waitFor _) fun _ => .bind (keeping_lineAddrs _ _ _ _) fun _ =>
    .bind (.modS fun s hs => by simp [hs]) fun _ => keeping_endAfter

theorem keeping_tlbinvM (a b : Code) : Keeping (tlbinvM a b) := by
  unfold tlbinvM
  refine .bind keeping_privileged fun _ => .bind (keeping_checkOps _) fun _ => .bind (keeping_execLanes _) fun _ =>
    .bind (keeping_readPair _) fun _ => .bind (keeping_readSrc _ _) fun _ => .bind (.ensure _ _) fun _ => .bind keeping_quietM fun _ =>
    .bind .getG fun _ => ?_
  split
  · exact .stops fun _ => ⟨_, rfl⟩
  · exact .bind (.getS _) fun _ => .bind (.waitFor _) fun _ => .bind (.modG _) fun _ => keeping_endAfter

theorem keeping_qmapM (a b : Code) : Keeping (qmapM a b) := .bind keeping_privileged fun _ => .bind (keeping_checkOps _) fun _ =>
    .bind (keeping_execLanes _) fun _ => .bind (keeping_readSrc _ _) fun _ => .bind (keeping_readSrc _ _) fun _ =>
    .bind (.getS _) fun _ => .bind (.ensure _ _) fun _ => .bind (.modS fun s hs => by simp [hs]) fun _ => keeping_endAfter

theorem keeping_qunmapM (a : Code) : Keeping (qunmapM a) := by
  unfold qunmapM
  refine .bind keeping_privileged fun _ => .bind (keeping_checkOps _) fun _ => .bind (keeping_execLanes _) fun _ =>
    .bind (keeping_readSrc _ _) fun _ => .bind (.ensure _ _) fun _ => .bind (.getS _) fun _ => ?_
  split
  · exact keeping_endAfter
  · exact .bind (.waitFor _) fun _ => .bind (.modS fun s hs => by simp [hs]) fun _ => keeping_endAfter

theorem keeping_gangresM (d a : Code) : Keeping (gangresM d a) := by
  unfold gangresM
  refine .bind keeping_privileged fun _ => .bind (keeping_checkOps _) fun _ => .bind (keeping_execLanes _) fun _ =>
    .bind (keeping_readPair _) fun _ => .ite (.faultM _) (.bind (keeping_loadOne _ _ _ _) fun _ => .bind (.ensure _ _) fun _ =>
    .bind (.getS _) fun _ => .bind (.modS fun s hs => by simp [hs]) fun _ => .bind (.getS _) fun _ =>
    .bind (.modS fun s hs => by simp [hs]) fun _ => .bind (.getS _) fun _ => ?_)
  split
  · exact .stops fun _ => ⟨_, rfl⟩
  · exact .stallM
  · exact .faultM _
  · exact .bind (.getS _) fun _ => .bind (.modS fun s hs => by simp [hs]) fun _ => .bind (keeping_writeDst _ _ _ _) fun _ =>
    keeping_endAfter

theorem keeping_gangM (a : Code) {f : Nat → Nat → State → State}
    (hf : ∀ i gn s, Memory.wf s.mem = true → Memory.wf (f i gn s).mem = true) : Keeping (gangM a f) := by
  unfold gangM
  refine .bind keeping_privileged fun _ => .bind (keeping_checkOps _) fun _ => .bind (keeping_execLanes _) fun _ =>
    .bind (keeping_readSrc _ _) fun _ => .bind (.getS _) fun _ => ?_
  split
  · exact .failM _
  · exact .bind (.modS fun s hs => hf _ _ s hs) fun _ => keeping_endAfter

theorem keeping_globalAddr (a b : Code) (ex : List Nat) : Keeping (globalAddr a b ex) := .bind (keeping_readPair _) fun _ =>
    .bind (keeping_readSrc _ _) fun _ => .pure _

theorem keeping_scratchAddr (a b : Code) (ex : List Nat) : Keeping (scratchAddr a b ex) := .bind (keeping_readSrc _ _) fun _ =>
    .bind (keeping_readSrc _ _) fun _ => .pure _

theorem keeping_mmioFrame (cs : List Chk) : Keeping (mmioFrame cs) := .ite (.bind .getG fun _ => .bind (.waitFor _) fun _ =>
    .bind keeping_endAfter fun _ => .guardM) (.pure _)

theorem keeping_mmioFetch (cs : List Chk) : Keeping (mmioFetch cs) := ⟨fun {s t a} h hs => by
  simp only [mmioFetch] at h
  split at h
  · cases h
  · cases h
    exact wf_unitRead ‹_› hs⟩

theorem keeping_regWrite (o n v : Nat) : Keeping (modS fun s => regWrite s (dieOf s.cur.core) (curGroup s).fmode o n v) :=
  .modS fun _ hs => wf_regWrite _ _ _ _ _ hs

theorem keeping_mmioPut (n : Nat) (c : Chk) (v : Nat) : Keeping (mmioPut n c v) := by
  unfold mmioPut
  split
  · exact .deferM _
  split
  · exact keeping_regWrite _ n v
  · refine ⟨fun {s t a} h hs => ?_⟩
    dsimp only at h
    split at h
    · cases h
    · obtain ⟨-, rfl⟩ := Prod.mk.inj (Except.ok.inj h)
      exact wf_performWrite _ _ hs

theorem keeping_loadGlobal (n : Nat) (ex : List Nat) (ea : Nat → Dword) : Keeping (loadGlobal n ex ea) :=
    .bind (keeping_checkGlobal _ _ _) fun _ => .bind (keeping_mmioFrame _) fun _ => .bind (keeping_mmioFetch _) fun _ =>
    .bind (keeping_performReads _ _) fun _ => .getS _

theorem keeping_storeGlobal (n : Nat) (ex : List Nat) (ea : Nat → Dword) (v : Nat → Nat) : Keeping (storeGlobal n ex ea v) :=
    .bind (keeping_checkGlobal _ _ _) fun _ => .bind (keeping_mmioFrame _) fun _ => .bind (keeping_performWrites _ _ _ _) fun _ =>
    .forM (fun _ => keeping_mmioPut _ _ _) _

theorem keeping_loadScratch (n : Nat) (ex : List Nat) (sa : Nat → Word) : Keeping (loadScratch n ex sa) :=
    .bind (keeping_checkScratch _ _ _ _) fun _ => keeping_performReads _ _

theorem keeping_storeScratch (n : Nat) (ex : List Nat) (sa : Nat → Word) (v : Nat → Nat) : Keeping (storeScratch n ex sa v) :=
    .bind (keeping_checkScratch _ _ _ _) fun _ => keeping_performWrites _ _ _ _

theorem keeping_ldgM (p : Option Pfx) (d a b : Code) (n : Nat) (f : Nat → Word) : Keeping (ldgM p d a b n f) :=
    .bind (keeping_checkOps _) fun _ => .bind (keeping_execLanes _) fun _ => .bind (keeping_zeroLanes _) fun _ =>
    .bind (keeping_globalAddr _ _ _) fun _ => .bind (keeping_loadGlobal _ _ _) fun _ => keeping_writeDst _ _ _ _

theorem keeping_ldg64M (p : Option Pfx) (d a b : Code) : Keeping (ldg64M p d a b) := .bind (keeping_checkOps _) fun _ =>
    .bind (keeping_execLanes _) fun _ => .bind (keeping_zeroLanes _) fun _ => .bind (keeping_globalAddr _ _ _) fun _ =>
    .bind (keeping_loadGlobal _ _ _) fun _ => keeping_writePair _ _ _ _

theorem keeping_ldg128M (p : Option Pfx) (d a b : Code) : Keeping (ldg128M p d a b) := .bind (keeping_checkOps _) fun _ =>
    .bind (keeping_execLanes _) fun _ => .bind (keeping_zeroLanes _) fun _ => .bind (keeping_globalAddr _ _ _) fun _ =>
    .bind (keeping_loadGlobal _ _ _) fun _ => keeping_writeQuad _ _ _ _

theorem keeping_stgM (p : Option Pfx) (d a b : Code) (n : Nat) : Keeping (stgM p d a b n) := .bind (keeping_checkOps _) fun _ =>
    .bind (keeping_execLanes _) fun _ => .bind (keeping_globalAddr _ _ _) fun _ => .bind (keeping_readSrc _ _) fun _ =>
    keeping_storeGlobal _ _ _ _

theorem keeping_stg64M (p : Option Pfx) (d a b : Code) : Keeping (stg64M p d a b) := .bind (keeping_checkOps _) fun _ =>
    .bind (keeping_execLanes _) fun _ => .bind (keeping_globalAddr _ _ _) fun _ => .bind (keeping_readPair _) fun _ =>
    keeping_storeGlobal _ _ _ _

theorem keeping_stg128M (p : Option Pfx) (d a b : Code) : Keeping (stg128M p d a b) := .bind (keeping_checkOps _) fun _ =>
    .bind (keeping_execLanes _) fun _ => .bind (keeping_globalAddr _ _ _) fun _ => .bind (keeping_readQuad _) fun _ =>
    keeping_storeGlobal _ _ _ _

theorem keeping_ldsM (p : Option Pfx) (d a b : Code) (n : Nat) (f : Nat → Word) : Keeping (ldsM p d a b n f) :=
    .bind (keeping_checkOps _) fun _ => .bind (keeping_execLanes _) fun _ => .bind (keeping_zeroLanes _) fun _ =>
    .bind (keeping_scratchAddr _ _ _) fun _ => .bind (keeping_loadScratch _ _ _) fun _ => keeping_writeDst _ _ _ _

theorem keeping_lds64M (p : Option Pfx) (d a b : Code) : Keeping (lds64M p d a b) := .bind (keeping_checkOps _) fun _ =>
    .bind (keeping_execLanes _) fun _ => .bind (keeping_zeroLanes _) fun _ => .bind (keeping_scratchAddr _ _ _) fun _ =>
    .bind (keeping_loadScratch _ _ _) fun _ => keeping_writePair _ _ _ _

theorem keeping_lds128M (p : Option Pfx) (d a b : Code) : Keeping (lds128M p d a b) := .bind (keeping_checkOps _) fun _ =>
    .bind (keeping_execLanes _) fun _ => .bind (keeping_zeroLanes _) fun _ => .bind (keeping_scratchAddr _ _ _) fun _ =>
    .bind (keeping_loadScratch _ _ _) fun _ => keeping_writeQuad _ _ _ _

theorem keeping_stsM (p : Option Pfx) (d a b : Code) (n : Nat) : Keeping (stsM p d a b n) := .bind (keeping_checkOps _) fun _ =>
    .bind (keeping_execLanes _) fun _ => .bind (keeping_scratchAddr _ _ _) fun _ => .bind (keeping_readSrc _ _) fun _ =>
    keeping_storeScratch _ _ _ _

theorem keeping_sts64M (p : Option Pfx) (d a b : Code) : Keeping (sts64M p d a b) := .bind (keeping_checkOps _) fun _ =>
    .bind (keeping_execLanes _) fun _ => .bind (keeping_scratchAddr _ _ _) fun _ => .bind (keeping_readPair _) fun _ =>
    keeping_storeScratch _ _ _ _

theorem keeping_sts128M (p : Option Pfx) (d a b : Code) : Keeping (sts128M p d a b) := .bind (keeping_checkOps _) fun _ =>
    .bind (keeping_execLanes _) fun _ => .bind (keeping_scratchAddr _ _ _) fun _ => .bind (keeping_readQuad _) fun _ =>
    keeping_storeScratch _ _ _ _

theorem keeping_ldkM (p : Option Pfx) (d a b : Code) : Keeping (ldkM p d a b) := by
  unfold ldkM
  refine .bind (keeping_checkOps _) fun _ => .bind (keeping_execLanes _) fun _ => .bind (keeping_zeroLanes _) fun _ =>
    .bind (keeping_globalAddr _ _ _) fun _ => ?_
  split
  · exact keeping_writeDst _ _ _ _
  · exact .bind (keeping_loadOne _ _ _ _) fun _ => keeping_writeDst _ _ _ _

theorem keeping_prefetchLane (va : Dword) (t : Nat) : Keeping (prefetchLane va t) := ⟨fun {s u a} h hs => by
  have hcheck : ∀ {x}, checkAccess { n := 1, poisonOk := true } t va s = .ok x → Memory.wf x.2.mem = true := fun {x} hx =>
    (keeping_checkAccess _ _ _).wf (a := x.1) (t := x.2) hx hs
  unfold prefetchLane at h
  extract_lets line c at h
  have hline : ∀ {x}, line = some x → Memory.wf x.2.mem = true := fun {x} hx => by
    simp only [line] at hx
    split at hx
    · split at hx
      · cases hx
      · cases hx
        exact hcheck ‹_›
    · cases hx
  clear_value line
  split at h
  · refine (Keeping.deferM _).wf h ?_
    cases hx : line with
    | none => exact hs
    | some x => exact hline hx
  split at h
  · cases h
    exact hs
  have ht := hline rfl
  dsimp only at h
  split at h
  · cases h
    exact ht
  split at h
  · cases h
    simpa using ht
  · cases h
    exact ht⟩

theorem keeping_pflM (p : Option Pfx) (a b : Code) : Keeping (pflM p a b) := .bind (keeping_checkOps _) fun _ =>
    .bind (keeping_execLanes _) fun _ => .bind (keeping_globalAddr _ _ _) fun _ => .forM (fun _ => keeping_prefetchLane _ _) _

theorem keeping_stashArgs (sa len : Word) (base : Dword) (t : Nat) : Keeping (stashArgs sa len base t) := .bind .getCore fun _ =>
    .ite (.faultM _) (.ite (.faultM _) (.ite (.faultM _) (.pure _)))

theorem keeping_pendEnts (sline n : Nat) : Keeping (pendEnts sline n) := .modC _

theorem keeping_smapRange (sline n gline : Nat) : Keeping (smapRange sline n gline) := by
  unfold smapRange
  refine .bind .getCore fun _ => .bind .getG fun _ => .ite (.deferM _) (.ite (.failM _) ?_)
  split
  · exact .failM _
  · exact .bind (.modC _) fun _ => .deferM _

theorem keeping_sunmapRange (sline n : Nat) : Keeping (sunmapRange sline n) := .bind .getCore fun _ =>
    .ite (.deferM _) (.ite (.bind (keeping_pendEnts _ _) fun _ => .deferM _) (.failM _))

theorem keeping_sdropRange (sline n : Nat) : Keeping (sdropRange sline n) := .bind .getCore fun _ =>
    .ite (.deferM _) (.bind (keeping_pendEnts _ _) fun _ => .deferM _)

theorem keeping_sflushRange (sline n : Nat) : Keeping (sflushRange sline n) := .modS fun s hs => by simp [hs]

theorem keeping_stashM (p : Option Pfx) (d b : Code) (f : Nat → Nat → M Unit) (hf : ∀ x0 x1, Keeping (f x0 x1)) : Keeping
    (stashM p d b f) := by
  unfold stashM
  refine .bind (keeping_checkOps _) fun _ => .bind (keeping_execLanes _) fun _ => .bind (keeping_readSrc _ _) fun _ =>
    .bind (keeping_readSrc _ _) fun _ => ?_
  split
  · exact .pure _
  · exact .bind (keeping_stashArgs _ _ _ _) fun _ => hf _ _

theorem keeping_smapM (p : Option Pfx) (d a b : Code) : Keeping (smapM p d a b) := by
  unfold smapM
  refine .bind (keeping_checkOps _) fun _ => .bind (keeping_execLanes _) fun _ => .bind (keeping_readPair _) fun _ =>
    .bind (keeping_readSrc _ _) fun _ => .bind (keeping_readSrc _ _) fun _ => ?_
  split
  · exact .pure _
  · exact .bind (keeping_stashArgs _ _ _ _) fun _ => keeping_smapRange _ _ _

theorem keeping_lineTargets (ex : List Nat) (ea : Nat → Dword) : Keeping (lineTargets ex ea) :=
    .bind (keeping_checkGlobal _ _ _) fun _ => .bind (keeping_guardChange _) fun _ => .pure _

theorem keeping_llockM (p : Option Pfx) (d a b : Code) : Keeping (llockM p d a b) := by
  unfold llockM
  refine .bind (keeping_checkOps _) fun _ => .bind (keeping_execLanes _) fun _ => .bind (keeping_zeroLanes _) fun _ =>
    .bind (keeping_globalAddr _ _ _) fun ea => .bind (keeping_lineTargets _ _) fun ts =>
    .bind (.of_mem fun s t a h => ?_) fun _ => keeping_writeDst _ _ _ _
  dsimp only at h
  split at h
  · cases h
  · cases h
    exact mem_lockLines ..

theorem keeping_lunlockM (p : Option Pfx) (a b : Code) : Keeping (lunlockM p a b) := .bind (keeping_checkOps _) fun _ =>
    .bind (keeping_execLanes _) fun _ => .bind (keeping_globalAddr _ _ _) fun _ => .bind (keeping_lineTargets _ _) fun _ => .modC _

theorem keeping_cacheLine (cop l : Nat) : Keeping (cacheLine cop l) :=
    .ite (.modS fun s hs => by simp [hs]) (.ite (.modS fun s hs => by simp [hs]) (.ite (.modS fun s hs => by simp [hs]) (.ite
    (.modS fun s hs => by simp [hs]) (.ite (.bind (keeping_enterWrites _ _ _) fun _ => .bind (.modK _) fun _ =>
    .deferM _) (keeping_writeLocs _ _)))))

theorem keeping_cacheopM (p : Option Pfx) (d a b : Code) : Keeping (cacheopM p d a b) := .bind keeping_privileged fun _ =>
    .bind (.ensure _ _) fun _ => .bind (keeping_checkOps _) fun _ => .bind (keeping_execLanes _) fun _ =>
    .bind (keeping_globalAddr _ _ _) fun _ => .bind (.forM (fun _ => .ite (.faultM _) (.ite (.faultM _) (.pure _))) _) fun _ =>
    .forM (fun _ => keeping_cacheLine _ _) _

theorem keeping_atomPerform (n : Nat) (pcie : Bool) (ex : List Nat) (ea : Nat → Dword) (new : Nat → Nat → Nat → Nat)
    (b cmp : Nat → Nat) : Keeping (atomPerform n pcie ex ea new b cmp) := .bind (keeping_checkGlobal _ _ _) fun _ =>
    .bind .getG fun _ => .ite (.bind keeping_quietM fun _ => .bind (.getS _) fun _ => .bind (.waitFor _) fun _ =>
    .bind (keeping_enterChkReads _ _) fun _ => .bind (.getS _) fun _ => .bind .getCore fun _ => .bind (keeping_writeLocs _ _) fun _ =>
    .ite (.pure _) (.bind (.modS fun s hs => by simp [hs]) fun _ => .bind keeping_endAfter fun _ => .bind .guardM fun _ =>
    .pure _)) (.bind (.getS _) fun _ => .bind (.waitFor _) fun _ => .bind (keeping_enterChkReads _ _) fun _ => .bind (.getS _) fun _ =>
    .bind .getCore fun _ => .bind (keeping_writeLocs _ _) fun _ => .ite (.pure _) (.bind (.modS fun s hs => by simp [hs]) fun _ =>
    .bind keeping_endAfter fun _ => .bind .guardM fun _ => .pure _))

theorem keeping_atomM (p : Option Pfx) (d a b : Code) (pcie cas : Bool) (new : Word → Word → Word → Word) : Keeping
    (atomM p d a b pcie cas new) := .bind (keeping_checkOps _) fun _ => .bind (keeping_execLanes _) fun _ =>
    .bind (keeping_zeroLanes _) fun _ => .bind (keeping_readPair _) fun _ => .bind (keeping_readSrc _ _) fun _ =>
    .ite (.bind (keeping_readSrc _ _) fun _ => .bind (keeping_atomPerform _ _ _ _ _ _ _) fun _ =>
    keeping_writeDst _ _ _ _) (.bind (.pure _) fun _ => .bind (keeping_atomPerform _ _ _ _ _ _ _) fun _ => keeping_writeDst _ _ _ _)

theorem keeping_atom64M (p : Option Pfx) (d a b : Code) (new : Dword → Dword → Dword → Dword) : Keeping (atom64M p d a b new) :=
    .bind (keeping_checkOps _) fun _ => .bind (keeping_execLanes _) fun _ => .bind (keeping_zeroLanes _) fun _ =>
    .bind (keeping_readPair _) fun _ => .bind (keeping_readPair _) fun _ => .bind (keeping_readPair _) fun _ =>
    .bind (keeping_atomPerform _ _ _ _ _ _ _) fun _ => keeping_writePair _ _ _ _

theorem keeping_redIssue (op : RedOp) (n sc : Nat) (pcie : Bool) (ex : List Nat) (ea v : Nat → Dword) : Keeping
    (redIssue op n sc pcie ex ea v) := .bind (keeping_checkGlobal _ _ _) fun _ => .bind (keeping_guardChange _) fun _ =>
    .bind (.getS _) fun _ => .forM (fun _ => .deferM _) _

theorem keeping_redM (p : Option Pfx) (d a b : Code) (op : RedOp) (pcie : Bool) : Keeping (redM p d a b op pcie) :=
    .bind (.ensure _ _) fun _ => .bind (keeping_checkOps _) fun _ => .bind (keeping_execLanes _) fun _ =>
    .bind (keeping_readPair _) fun _ => .bind (keeping_readSrc _ _) fun _ => keeping_redIssue _ _ _ _ _ _ _

theorem keeping_red64M (p : Option Pfx) (d a b : Code) (op : RedOp) : Keeping (red64M p d a b op) := .bind (.ensure _ _) fun _ =>
    .bind (keeping_checkOps _) fun _ => .bind (keeping_execLanes _) fun _ => .bind (keeping_readPair _) fun _ =>
    .bind (keeping_readPair _) fun _ => keeping_redIssue _ _ _ _ _ _ _

theorem keeping_scopeEnd (sc : Code) : Keeping (scopeEnd sc) := .ite keeping_endAfter (.pure _)

theorem keeping_releaseWait (sc : Code) (cs : List Chk) : Keeping (releaseWait sc cs) := .bind .getG fun _ => .bind (.getS _) fun _ =>
    .ite (.pure _) (.ite .cutM (.waitFor _))

theorem keeping_strelM (p : Option Pfx) (d a b : Code) : Keeping (strelM p d a b) := .bind (.ensure _ _) fun _ =>
    .bind (keeping_checkOps _) fun _ => .bind (keeping_execLanes _) fun _ => .bind (keeping_readPair _) fun _ =>
    .bind (keeping_readSrc _ _) fun _ => .bind (keeping_checkGlobal _ _ _) fun _ => .bind (keeping_releaseWait _ _) fun _ =>
    .bind (keeping_performWrites _ _ _ _) fun _ => keeping_scopeEnd _

theorem keeping_strel64M (p : Option Pfx) (d a b : Code) : Keeping (strel64M p d a b) := .bind (.ensure _ _) fun _ =>
    .bind (keeping_checkOps _) fun _ => .bind (keeping_execLanes _) fun _ => .bind (keeping_readPair _) fun _ =>
    .bind (keeping_readPair _) fun _ => .bind (keeping_checkGlobal _ _ _) fun _ => .bind (keeping_releaseWait _ _) fun _ =>
    .bind (keeping_performWrites _ _ _ _) fun _ => keeping_scopeEnd _

theorem keeping_ldacqM (p : Option Pfx) (d a b : Code) : Keeping (ldacqM p d a b) := .bind (.ensure _ _) fun _ =>
    .bind (keeping_checkOps _) fun _ => .bind (keeping_execLanes _) fun _ => .bind (keeping_zeroLanes _) fun _ =>
    .bind (keeping_readPair _) fun _ => .bind (keeping_checkGlobal _ _ _) fun _ => .bind (keeping_performReads _ _) fun _ =>
    .bind (keeping_scopeEnd _) fun _ => keeping_writeDst _ _ _ _

theorem keeping_ldacq64M (p : Option Pfx) (d a b : Code) : Keeping (ldacq64M p d a b) := .bind (.ensure _ _) fun _ =>
    .bind (keeping_checkOps _) fun _ => .bind (keeping_execLanes _) fun _ => .bind (keeping_zeroLanes _) fun _ =>
    .bind (keeping_readPair _) fun _ => .bind (keeping_checkGlobal _ _ _) fun _ => .bind (keeping_performReads _ _) fun _ =>
    .bind (keeping_scopeEnd _) fun _ => keeping_writePair _ _ _ _

theorem keeping_fenceM (d : Code) : Keeping (fenceM d) := .bind (.ensure _ _) fun _ => .ite (.bind keeping_endAfter fun _ =>
    .modG _) (.pure _)

theorem keeping_waitaddrM (a b : Code) : Keeping (waitaddrM a b) := by
  unfold waitaddrM
  refine .bind (.ensure _ _) fun _ => .bind (keeping_checkOps _) fun _ => .bind (keeping_execLanes _) fun _ =>
    .bind (keeping_readPair _) fun _ => .bind (keeping_readSrc _ _) fun _ => ?_
  split
  · exact .pure _
  · exact .bind (keeping_checkGlobal _ _ _) fun _ => .bind (keeping_performReads _ _) fun _ => .bind (.deferM _) fun _ =>
    .bind (.modR _) fun _ => .bind keeping_endAfter fun _ => .ite .guardM (.pure _)

theorem keeping_futureState (h : Dword) : Keeping (futureState h) := by
  unfold futureState
  refine .bind (.ensure _ _) fun _ => .bind .getG fun _ => .bind (.getS _) fun _ => .ite (.getS _) ?_
  split
  · exact .bind (.modG _) fun _ => .pure _
  · exact .stops fun _ => ⟨_, rfl⟩

theorem keeping_futureLive (h : Dword) : Keeping (futureLive h) := .bind (keeping_futureState _) fun _ => .ite (.faultM _) (.pure _)

theorem keeping_handleField (h : Dword) : Keeping (handleField h) := .ite (.pure _) (.bind (keeping_futureLive _) fun _ => .pure _)

theorem keeping_readDescs (ex : List Nat) (ea : Nat → Dword) : Keeping (readDescs ex ea) := .bind (keeping_checkGlobal _ _ _) fun _ =>
    .bind (keeping_performReads _ _) fun _ => .pure _

theorem keeping_copyDescs (p : Option Pfx) (a b : Code) (legal : List Dword → Bool) : Keeping (copyDescs p a b legal) :=
    .bind (keeping_execLanes _) fun _ => .bind (keeping_globalAddr _ _ _) fun _ => .bind (keeping_readDescs _ _) fun _ =>
    .bind (.forM (fun _ => .ite (.pure _) (.faultM _)) _) fun _ => .bind (.forM (fun _ => .bind (keeping_handleField _) fun _ =>
    keeping_handleField _) _) fun _ => .pure _

theorem keeping_queueCopies (ds : List (Nat × List Dword)) : Keeping (queueCopies ds) := .forM (fun _ => .bind (.getS _) fun _ =>
    .deferM _) _

theorem keeping_cpyM (p : Option Pfx) (a b : Code) (legal : List Dword → Bool) : Keeping (cpyM p a b legal) :=
    .bind (keeping_checkOps _) fun _ => .bind (keeping_copyDescs _ _ _ _) fun _ => .bind (.getS _) fun _ => .bind (.waitFor _) fun _ =>
    .bind (keeping_queueCopies _) fun _ => keeping_endAfter

theorem keeping_cpyqM (p : Option Pfx) (d a b : Code) : Keeping (cpyqM p d a b) := .bind (keeping_checkOps _) fun _ =>
    .bind (keeping_execLanes _) fun _ => .bind (keeping_zeroLanes _) fun _ => .bind (keeping_copyDescs _ _ _ _) fun _ =>
    .bind (.getS _) fun _ => .ite (.bind (keeping_queueCopies _) fun _ => .bind (keeping_writeDst _ _ _ _) fun _ =>
    keeping_endAfter) (.bind (keeping_writeDst _ _ _ _) fun _ => keeping_endAfter)

theorem keeping_cpsealM (d : Code) : Keeping (cpsealM d) := .bind (keeping_checkOps _) fun _ => .bind (keeping_execLanes _) fun _ =>
    .bind .getG fun _ => .bind (.getS _) fun _ => .bind (.waitFor _) fun _ => .bind (.modR _) fun _ => keeping_writeDst _ _ _ _

theorem keeping_cpwaitM (a : Code) : Keeping (cpwaitM a) := by
  unfold cpwaitM
  refine .bind (keeping_checkOps _) fun _ => .bind (keeping_execLanes _) fun _ => .bind (keeping_readSrc _ _) fun _ =>
    .bind .getG fun _ => .bind (.forM (fun _ => .ite (.faultM _) (.pure _)) _) fun _ => .bind (.getS _) fun _ =>
    .bind (.waitFor _) fun _ => .bind (.getS _) fun _ => ?_
  split
  · exact .faultM _
  · exact .modS fun s hs => by simp [hs]

theorem keeping_streamPort (d : Code) : Keeping (streamPort d) := .bind (.ensure _ _) fun _ => .pure _

theorem keeping_chanPort (d : Code) : Keeping (chanPort d) := .bind (.ensure _ _) fun _ => .pure _

theorem keeping_strbindM (d a b : Code) : Keeping (strbindM d a b) := by
  unfold strbindM
  refine .bind (keeping_streamPort _) fun _ => .bind (keeping_checkOps _) fun _ => .bind (keeping_execLanes _) fun _ =>
    .bind (keeping_globalAddr _ _ _) fun _ => ?_
  split
  · exact .pure _
  · exact .bind (keeping_checkGlobal _ _ _) fun _ => .bind (keeping_performReads _ _) fun _ => .bind (.ensure _ _) fun _ =>
    .bind .getCore fun _ => .bind .getG fun _ => .bind (.waitFor _) fun _ => .bind (.modR _) fun _ => .modS fun s hs => by simp [hs]

theorem keeping_strunbM (d : Code) : Keeping (strunbM d) := .bind (keeping_streamPort _) fun _ => .modR _

theorem keeping_strskipM (d a : Code) : Keeping (strskipM d a) := by
  unfold strskipM
  refine .bind (keeping_streamPort _) fun _ => .bind (keeping_checkOps _) fun _ => .bind (keeping_execLanes _) fun _ =>
    .bind (keeping_readSrc _ _) fun _ => .bind .getG fun _ => ?_
  split
  · exact .faultM _
  · exact .modR _

theorem keeping_chanId (a : Code) : Keeping (chanId a) := .bind (keeping_execLanes _) fun _ => .bind (keeping_readSrc _ _) fun _ =>
    .bind (.getS _) fun _ => .bind (.ensure _ _) fun _ => .pure _

theorem keeping_chbindM (d a : Code) : Keeping (chbindM d a) := .bind (keeping_chanPort _) fun _ => .bind (keeping_checkOps _) fun _ =>
    .bind (keeping_chanId _) fun _ => .modR _

theorem keeping_chunbM (d : Code) : Keeping (chunbM d) := .bind (keeping_chanPort _) fun _ => .modR _

theorem keeping_chstatM (d a : Code) : Keeping (chstatM d a) := .bind (keeping_checkOps _) fun _ => .bind (keeping_chanId _) fun _ =>
    .bind (keeping_execLanes _) fun _ => .bind (.getS _) fun _ => keeping_writeDst _ _ _ _

theorem keeping_stayAt (ls : List Nat) : Keeping (stayAt ls) := .bind (.getS _) fun _ => .modR _

theorem keeping_lowPair (a : Code) : Keeping (lowPair a) := .bind (keeping_execLanes _) fun _ => .bind (keeping_readPair _) fun _ =>
    .pure _

theorem keeping_handleOp (a : Code) : Keeping (handleOp a) := .bind (keeping_lowPair _) fun _ => .bind (.ensure _ _) fun _ => .pure _

theorem keeping_callInline (ca : Dword) (cl : List Dword) (d : Code) (joinH : Option Dword) (deps : List Dword) : Keeping
    (callInline ca cl d joinH deps) := .bind (keeping_execLanes _) fun _ => .bind .getG fun _ => .bind (.getS _) fun _ =>
    .bind (.deferM _) fun _ => .bind (.modR _) fun _ => .bind (keeping_stayAt _) fun _ => keeping_endAfter

theorem keeping_gridShape : Keeping gridShape := .getS _

theorem keeping_contOk (cl : List Dword) : Keeping (contOk cl) := .bind .getTeam fun _ => .bind (.getS _) fun _ => .pure _

theorem keeping_readSpawn (a : Code) (range : Bool) : Keeping (readSpawn a range) := .bind (keeping_execLanes _) fun _ =>
    .bind (keeping_lowPair _) fun _ => .ite (.faultM _) (.bind (keeping_loadOne _ _ _ _) fun _ => .bind keeping_gridShape fun _ =>
    .bind (.ensure _ _) fun _ => .bind (keeping_contOk _) fun _ => .bind (.ensure _ _) fun _ => .pure _)

theorem keeping_enterTask (ca : Dword) (cl : List Dword) (d : Code) : Keeping (enterTask ca cl d) := .bind .getCore fun _ =>
    .bind (keeping_execLanes _) fun _ => .ite (.ite (.bind (.modC _) fun _ => .bind (.deferM _) fun _ =>
    keeping_writePair _ _ _ _) (keeping_callInline _ _ _ _ _)) (.ite (.bind (.modC _) fun _ => .bind (.deferM _) fun _ =>
    keeping_writePair _ _ _ _) (keeping_callInline _ _ _ _ _))

theorem keeping_spawnM (d a : Code) : Keeping (spawnM d a) := .bind (keeping_checkOps _) fun _ =>
    .bind (keeping_readSpawn _ _) fun _ => .ite (.bind (.modK _) fun _ => .bind (.deferM _) fun _ =>
    keeping_enterTask _ _ _) (keeping_enterTask _ _ _)

theorem keeping_spawnrM (d a : Code) : Keeping (spawnrM d a) := .bind (keeping_checkOps _) fun _ =>
    .bind (keeping_execLanes _) fun _ => .bind (keeping_readSpawn _ _) fun _ => .bind (.deferM _) fun _ =>
    .ite (keeping_writePair _ _ _ _) (keeping_enterTask _ _ _)

theorem keeping_joinOpen (d : Code) (h : Dword) : Keeping (joinOpen d h) := by
  unfold joinOpen
  refine .bind (keeping_execLanes _) fun _ => .bind .getCore fun _ => ?_
  split
  · exact .bind (.getS _) fun _ => .bind (.waitFor _) fun _ => .bind (keeping_loadOne _ _ _ _) fun _ =>
    .bind (.modS fun s hs => by simp [hs]) fun _ => .bind (.modC _) fun _ => keeping_callInline _ _ _ _ _
  · exact .bind (.deferM _) fun _ => .bind (.modR _) fun _ => .bind (keeping_stayAt _) fun _ => .bind (.modG _) fun _ =>
    keeping_endAfter

theorem keeping_joinM (d a : Code) : Keeping (Machine.joinM d a) := by
  unfold Machine.joinM
  refine .bind (keeping_checkOps _) fun _ => .bind (keeping_execLanes _) fun _ => .bind (keeping_handleOp _) fun _ =>
    .bind .getG fun _ => ?_
  split
  · exact .ite (.faultM _) (.bind (.deferM _) fun _ => keeping_writePair _ _ _ _)
  · exact .bind (keeping_futureLive _) fun _ => .ite (.bind (.deferM _) fun _ => keeping_writePair _ _ _ _) (keeping_joinOpen _ _)

theorem keeping_fnewM (d : Code) : Keeping (fnewM d) := by
  unfold fnewM
  refine .bind (keeping_checkOps _) fun _ => .bind (keeping_execLanes _) fun _ => .bind .getCore fun _ => ?_
  split
  · exact keeping_writePair _ _ _ _
  · exact .bind .getG fun _ => .bind (.getS _) fun _ => .bind (.getS _) fun _ => .bind (.modC _) fun _ => .bind (.deferM _) fun _ =>
    keeping_writePair _ _ _ _

theorem keeping_fresM (a b : Code) : Keeping (fresM a b) := .bind (keeping_checkOps _) fun _ => .bind (keeping_handleOp _) fun _ =>
    .bind (keeping_lowPair _) fun _ => .deferM _

theorem keeping_fpollM (d a : Code) : Keeping (fpollM d a) := .bind (keeping_checkOps _) fun _ => .bind (keeping_execLanes _) fun _ =>
    .bind (keeping_handleOp _) fun _ => .bind (keeping_futureState _) fun _ => keeping_writeDst _ _ _ _

theorem keeping_tendM (a : Code) : Keeping (tendM a) := .bind (keeping_checkOps _) fun _ => .bind (keeping_lowPair _) fun _ =>
    .bind .getG fun _ => .bind (keeping_leaveItems _) fun _ => .bind (.modR _) fun _ => .bind (.deferM _) fun _ =>
    .bind (.modG _) fun _ => keeping_endAfter

theorem keeping_itemsFrom (i : BitVec 14) (piece : Nat) (ex : List Nat) : Keeping (itemsFrom i piece ex) := .bind (.getS _) fun _ =>
    .bind (keeping_enterReads _ _ _) fun _ => .bind (.getS _) fun _ => .bind (keeping_writeLocs _ _) fun _ => .modR _

theorem keeping_itemnextM (i : BitVec 14) : Keeping (itemnextM i) := by
  unfold itemnextM
  refine .bind (keeping_execLanes _) fun _ => .bind .getTeam fun _ => .bind (keeping_leaveItems _) fun _ => ?_
  split
  · exact keeping_itemsFrom _ _ _
  · exact .bind (.getS _) fun _ => .modR _

theorem keeping_tyieldM : Keeping tyieldM := .modG _

theorem keeping_blockOn (i : Nat) (d : Code) : Keeping (blockOn i d) := .bind (keeping_execLanes _) fun _ => .bind (.modR _) fun _ =>
    .bind (keeping_stayAt _) fun _ => .bind (.getS _) fun _ => .modG _

theorem keeping_barEnd : Keeping barEnd := .bind (.modG _) fun _ => keeping_endAfter

theorem keeping_arriveAt (i : Nat) (op : BitVec 2) (a : Code) : Keeping (arriveAt i op a) := .bind (keeping_execLanes _) fun _ =>
    .bind (keeping_readSrc _ _) fun _ => .bind (.getS _) fun _ => .bind (.getS _) fun _ => .bind (.getS _) fun _ =>
    .bind .getG fun _ => .bind (.getS _) fun _ => .bind (.ensure _ _) fun _ => .deferM _

theorem keeping_waitRecord (i : Nat) (d : Code) (rc : BarRec) : Keeping (waitRecord i d rc) := by
  unfold waitRecord
  refine .bind (keeping_execLanes _) fun _ => ?_
  split
  · exact .ite (.bind (keeping_writeDst _ _ _ _) fun _ => .bind (.deferM _) fun _ =>
    keeping_barEnd) (.bind (keeping_blockOn _ _) fun _ => .bind (.deferM _) fun _ => keeping_barEnd)
  · exact .bind (keeping_blockOn _ _) fun _ => .bind (.deferM _) fun _ => keeping_barEnd

theorem keeping_barM (i : Nat) (op : BitVec 2) (d a : Code) : Keeping (barM i op d a) := by
  unfold barM
  refine .bind (keeping_checkOps _) fun _ => .bind .getG fun _ => .bind (.getS _) fun _ => ?_
  split
  · exact .ite (keeping_waitRecord _ _ _) (.ite (.failM _) .stallM)
  · exact .bind (.waitFor _) fun _ => .bind (keeping_arriveAt _ _ _) fun _ => .bind (keeping_blockOn _ _) fun _ => keeping_barEnd

theorem keeping_bararvM (i : Nat) (op : BitVec 2) (a : Code) : Keeping (bararvM i op a) := by
  unfold bararvM
  refine .bind (keeping_checkOps _) fun _ => .bind .getG fun _ => ?_
  split
  · exact .ite (.failM _) .stallM
  · exact .bind (.waitFor _) fun _ => .bind (keeping_arriveAt _ _ _) fun _ => .bind (keeping_execLanes _) fun _ =>
    .bind (.modR _) fun _ => keeping_barEnd

theorem keeping_barwtM (i : Nat) (d : Code) : Keeping (barwtM i d) := by
  unfold barwtM
  refine .bind (keeping_checkOps _) fun _ => .bind .getG fun _ => ?_
  split
  · exact keeping_waitRecord _ _ _
  · exact .ite .stallM (.failM _)

theorem keeping_readId (gid : Nat) : Keeping (readId gid) := .bind (.getS _) fun _ => .bind (keeping_enterReads _ _ _) fun _ => .getS _

theorem keeping_writeId (gid : Nat) (w : Word) : Keeping (writeId gid w) := .bind (.getS _) fun _ => keeping_writeLocs _ _

theorem keeping_lowWord (a : Code) : Keeping (lowWord a) := .bind (keeping_execLanes _) fun _ => .bind (keeping_readSrc _ _) fun _ =>
    .pure _

theorem keeping_clusterSize : Keeping clusterSize := .getS _

theorem keeping_grpopenM (a : Code) : Keeping (grpopenM a) := by
  unfold grpopenM
  refine .bind (keeping_checkOps _) fun _ => .bind (keeping_lowWord _) fun _ => .bind keeping_clusterSize fun _ =>
    .bind (.ensure _ _) fun _ => .bind (keeping_readId _) fun _ => .bind (.ensure _ _) fun _ => .bind (.getS _) fun _ =>
    .ite ?_ (.bind (keeping_writeId _ _) fun _ => .modG _)
  exact .stops fun _ => ⟨_, rfl⟩

theorem keeping_grpcloseM (a : Code) : Keeping (grpcloseM a) := .bind (keeping_checkOps _) fun _ => .bind (keeping_lowWord _) fun _ =>
    .bind (.ensure _ _) fun _ => .bind (keeping_readId _) fun _ => .bind (.ensure _ _) fun _ => keeping_writeId _ _

theorem keeping_mcstM (a b : Code) : Keeping (mcstM a b) := .bind (keeping_checkOps _) fun _ => .bind (keeping_execLanes _) fun _ =>
    .bind (keeping_lowWord _) fun _ => .bind (keeping_lowWord _) fun _ => .bind (.ensure _ _) fun _ =>
    .bind (keeping_readId _) fun _ => .bind .getCore fun _ => .bind (.ensure _ _) fun _ =>
    .ite (.faultM _) (.ite (.faultM _) (.bind (.getS _) fun _ => .bind .getG fun _ => .deferM _))

theorem keeping_ctrrdM (d a : Code) : Keeping (ctrrdM d a) := .bind (keeping_checkOps _) fun _ => .bind (keeping_execLanes _) fun _ =>
    .bind (keeping_lowWord _) fun _ => .bind .getG fun _ => .bind (.getS _) fun _ => .bind (.ensure _ _) fun _ =>
    .bind (.ensure _ _) fun _ => .bind (.getS _) fun _ => keeping_writeDst _ _ _ _

theorem keeping_ctrsetM (a b : Code) : Keeping (ctrsetM a b) := .bind (keeping_checkOps _) fun _ => .bind (keeping_lowWord _) fun _ =>
    .bind (keeping_lowWord _) fun _ => .bind .getG fun _ => .bind (.ensure _ _) fun _ => .bind (.ensure _ _) fun _ =>
    .ite (.ite (.pure _) (.bind (.getS _) fun _ => .bind (.ensure _ _) fun _ =>
    .modR _)) (.bind (.modS fun s hs => by simp [hs]) fun _ => .bind .guardM fun _ => keeping_endAfter)

theorem keeping_cvtpk8 (p : Option Pfx) (d a b : Code) (f : Word → Nat) : Keeping (cvtpk8 p d a b f) :=
    .bind (keeping_checkOps _) fun _ => .bind (keeping_execLanes _) fun _ => .bind (keeping_zeroLanes _) fun _ =>
    .bind (keeping_readSrc _ _) fun _ => .bind (keeping_readSrc _ _) fun _ => .bind (keeping_readSrc _ _) fun _ =>
    keeping_writeDst _ _ _ _

theorem keeping_cvtM (p : Option Pfx) (d a : Code) (code : Nat) : Keeping (cvtM p d a code) := .bind (.ensure _ _) fun _ =>
    .bind (keeping_checkOps _) fun _ => .bind (keeping_execLanes _) fun _ => .bind (keeping_zeroLanes _) fun _ =>
    .ite (.bind (keeping_readPair _) fun _ => keeping_writeDst _ _ _ _) (.bind (keeping_readSrc _ _) fun _ =>
    .ite (keeping_writePair _ _ _ _) (keeping_writeDst _ _ _ _))

theorem keeping_crossRead (p : Option Pfx) (d a b : Code) (src : (Nat → Word) → List Nat → Nat → Nat) : Keeping
    (crossRead p d a b src) := .bind (.ensure _ _) fun _ => .bind (keeping_checkOps _) fun _ => .bind (keeping_execLanes _) fun _ =>
    .bind (keeping_zeroLanes _) fun _ => .bind .getG fun _ => .bind (keeping_readSrc _ _) fun _ => keeping_writeDst _ _ _ _

theorem keeping_laneFold (p : Option Pfx) (d a : Code) (f : List Nat → (Nat → Word) → Nat → Word) : Keeping (laneFold p d a f) :=
    .bind (keeping_checkOps _) fun _ => .bind (keeping_execLanes _) fun _ => .bind (keeping_zeroLanes _) fun _ =>
    .bind (keeping_readSrc _ _) fun _ => keeping_writeDst _ _ _ _

theorem keeping_engineOp (kind : Nat) (w : Word) (a b : Dword) (bytes : List Byte) : Keeping (engineOp kind w a b bytes) :=
    .bind (.getS _) fun _ => .bind (.waitFor _) fun _ => .bind .getG fun _ => .bind (.getS _) fun _ => .deferM _

theorem keeping_heldM : Keeping heldM := .getS _

theorem keeping_nameMask (a : Code) : Keeping (nameMask a) := .bind (.bind (keeping_execLanes _) fun _ =>
    .bind (keeping_readSrc _ _) fun _ => .pure _) fun _ => .bind (.ensure _ _) fun _ => .bind keeping_heldM fun _ =>
    .bind (.ensure _ _) fun _ => .pure _

theorem keeping_lowOf (a : Code) : Keeping (lowOf a) := .bind (keeping_execLanes _) fun _ => .bind (keeping_readSrc _ _) fun _ =>
    .pure _

theorem keeping_reportFault : Keeping reportFault := by
  unfold reportFault
  refine .bind .getTeam fun _ => ?_
  split
  · exact .pure _
  · exact .faultM _

theorem keeping_accallocM (d a : Code) : Keeping (accallocM d a) := by
  unfold accallocM
  refine .bind (keeping_checkOps _) fun _ => .bind (keeping_execLanes _) fun _ => .bind (keeping_lowOf _) fun _ =>
    .bind (.getS _) fun _ => .bind .getCore fun _ => ?_
  split
  · exact .bind (.modC _) fun _ => .ite (keeping_writeDst _ _ _ _) (.bind (.modR _) fun _ => .bind (.deferM _) fun _ =>
    keeping_writeDst _ _ _ _)
  · exact .stallM
  · exact .bind keeping_heldM fun _ => .bind (.ensure _ _) fun _ => .stops fun _ => ⟨_, rfl⟩

theorem keeping_accfreeM (a : Code) : Keeping (accfreeM a) := .bind (keeping_checkOps _) fun _ => .bind (keeping_nameMask _) fun _ =>
    .bind (keeping_engineOp _ _ _ _ _) fun _ => .modR _

theorem keeping_acczeroM (a : Code) : Keeping (acczeroM a) := .bind (keeping_checkOps _) fun _ => .bind (keeping_nameMask _) fun _ =>
    keeping_engineOp _ _ _ _ _

theorem keeping_accRowsM (kind : Nat) (d a b : Code) : Keeping (accRowsM kind d a b) := by
  unfold accRowsM
  refine .bind (keeping_checkOps _) fun _ => .bind (keeping_lowOf _) fun _ => .bind (keeping_lowOf _) fun _ =>
    .bind (keeping_lowOf _) fun _ => .bind (.ensure _ _) fun _ => .ite (.faultM _) (.bind keeping_heldM fun _ =>
    .bind (.ensure _ _) fun _ => .bind (.getS _) fun _ => .bind (.getS _) fun _ => ?_)
  split
  · exact .faultM _
  · exact keeping_engineOp _ _ _ _ _

theorem keeping_cbloadM (a b : Code) : Keeping (cbloadM a b) := .bind (keeping_checkOps _) fun _ =>
    .bind (keeping_execLanes _) fun _ => .bind (keeping_lowOf _) fun _ => .bind (keeping_lowOf _) fun _ => .bind (.ensure _ _) fun _ =>
    .bind (keeping_checkScratch _ _ _ _) fun _ => .bind (keeping_performReads _ _) fun _ => .ite (.bind (.faultM _) fun _ =>
    keeping_engineOp _ _ _ _ _) (keeping_engineOp _ _ _ _ _)

theorem keeping_mmaM (d a b : Code) : Keeping (mmaM d a b) := by
  unfold mmaM
  refine .bind (.ensure _ _) fun _ => .bind (keeping_lowOf _) fun _ => .bind (keeping_lowPair _) fun _ =>
    .bind (keeping_lowPair _) fun _ => .bind .getG fun _ => .bind (.ensure _ _) fun _ => .bind (.ensure _ _) fun _ =>
    .ite (.faultM _) (.ite (.faultM _) (.bind keeping_heldM fun _ => .bind (.ensure _ _) fun _ => .bind (.getS _) fun _ =>
    .bind (.getS _) fun _ => ?_))
  split
  · exact .faultM _
  · exact .bind (keeping_engineOp _ _ _ _ _) fun _ => .modR _

theorem keeping_accepiM (d a b : Code) : Keeping (accepiM d a b) := by
  unfold accepiM
  refine .bind (keeping_checkOps _) fun _ => .bind (keeping_execLanes _) fun _ => .bind (keeping_lowOf _) fun _ =>
    .bind (keeping_readSrc _ _) fun _ => .bind .getG fun _ => .bind (.ensure _ _) fun _ => .bind keeping_heldM fun _ =>
    .bind .getTeam fun _ => .bind (.getS _) fun _ => .ite (.faultM _) ?_
  split
  · exact .faultM _
  · refine .bind keeping_reportFault fun _ => .bind .getCore fun _ => .bind (.getS _) fun _ => .ite (.bind ?_ fun _ =>
    .bind (.modG _) fun _ => .bind (.modS fun s hs => by simp [hs]) fun _ => keeping_writeDst _ _ _ _) (.bind (.modG _) fun _ =>
    .bind (.modS fun s hs => by simp [hs]) fun _ => keeping_writeDst _ _ _ _)
    exact .stops fun _ => ⟨_, rfl⟩

theorem keeping_mmawaitM (a : Code) : Keeping (mmawaitM a) := .bind (keeping_checkOps _) fun _ => .bind (keeping_lowOf _) fun _ =>
    .bind .getG fun _ => .bind (.ensure _ _) fun _ => .bind keeping_reportFault fun _ => .bind (.getS _) fun _ => .waitFor _

theorem keeping_mmastatM (d : Code) : Keeping (mmastatM d) := .bind (keeping_checkOps _) fun _ => .bind (keeping_execLanes _) fun _ =>
    .bind .getG fun _ => .bind .getTeam fun _ => .bind (.getS _) fun _ => .bind keeping_heldM fun _ => keeping_writeDst _ _ _ _

end Sys2Proof.Proofs

/-! # The committed memory through an instruction or an event (R204) -/

namespace Sys2Proof.Proofs

open Sys2Proof Sys2Proof.Machine Sys2Proof.Laws

theorem keeping_attempt {m : M Unit} (hm : Keeping m) {len : Nat} {s t : State} (h : attempt len m s = .ok t) (hs : Memory.wf s.mem = true) :
    Memory.wf t.mem = true := by
  unfold Machine.attempt at h
  split at h
  next hr =>
    cases h
    exact ((keeping_advancePcs len).bind fun _ => hm).wf hr (by rw [mem_begun]; exact hs)
  · cases h

theorem wf_finish (s : State) {t : State} (hs : Memory.wf s.mem = true) (ht : Memory.wf t.mem = true) : Memory.wf (finish s t).mem = true := by
  unfold finish
  extract_lets k
  split
  · simp [hs]
  · exact wf_retire ht

theorem wf_retryAfterCut {s : State} (len : Nat) {m : M Unit} (hm : Keeping m) (hs : Memory.wf s.mem = true) :
    Memory.wf (retryAfterCut len m s).mem = true := by
  unfold retryAfterCut
  extract_lets g s₁
  have h₁ : Memory.wf s₁.mem = true := wf_endChunk _ _ hs
  split
  · simp [h₁]
  split
  · exact wf_finish _ h₁ (keeping_attempt hm ‹_› h₁)
  · exact wf_stopped _ h₁

/-- Where a step goes on, it ends with the memory in its canonical form. -/
def EndsWf (o : Host.Outcome State Fault Refusal) : Prop := ∀ t, o = .next t → Memory.wf t.mem = true

namespace EndsWf

theorem next {t : State} (h : Memory.wf t.mem = true) : EndsWf (.next t) := fun _ ht => by cases ht; exact h

theorem fault (f : Fault) : EndsWf (.fault f) := by
  intro t h
  simp at h

theorem issue {m : M Unit} (hm : Keeping m) {len : Nat} {s : State} (hs : Memory.wf s.mem = true) : EndsWf (Machine.issue len m s) := by
  unfold Machine.issue
  split
  · exact fault _
  split
  · exact next (wf_finish _ hs (keeping_attempt hm ‹_› hs))
  · exact next (wf_retryAfterCut len hm hs)
  · exact next (wf_stopped _ hs)

theorem issueGuarded {m : M Unit} (hm : Keeping m) {s : State} (hs : Memory.wf s.mem = true) : EndsWf (Machine.issueGuarded m s) :=
  issue (hm.bind fun _ => .bind .guardM fun _ => keeping_endAfter) hs

end EndsWf

theorem endsWf_fwait (core slot : Nat) (h : Dword) {s : State} (hs : Memory.wf s.mem = true) : EndsWf (execFwait core slot h s) := by
  unfold execFwait
  split
  · exact .next hs
  · exact .next (by simp [hs])

theorem endsWf_freeze (stack row : Nat) (bad : Bool) {s : State} (hs : Memory.wf s.mem = true) : EndsWf (execFreeze stack row bad s) := by
  unfold execFreeze
  split
  · exact .next hs
  · exact .next (by simp [hs])

theorem endsWf_ckirr {s : State} (hs : Memory.wf s.mem = true) : EndsWf (execCkirr s) := by
  unfold execCkirr
  split
  · exact .fault _
  split
  · exact .next (by simp [hs])
  · exact .issue keeping_ckirrWait hs

theorem mem_installRedirect (s : State) (ni line helper : Nat) : (installRedirect s ni line helper).mem = s.mem := by
  unfold installRedirect
  split <;> rfl

theorem wf_inert {s t : State} (hs : Memory.wf s.mem = true) (ht : Memory.wf t.mem = true) : Memory.wf (inert s t).mem = true := by
  unfold inert
  split <;> assumption

theorem endsWf_inboundAccess (pa : Nat) (wr : Option (List Byte)) (n : Nat) {s : State} (hs : Memory.wf s.mem = true) :
    EndsWf (execInboundAccess pa wr n s) := by
  cases wr with
  | none => exact .next (wf_inboundRead _ _ hs)
  | some bytes => exact .next (wf_inbound _ _ hs)

theorem endsWf_freezeValue (stack row sender : Nat) (v : Option (List Byte)) {s : State} (hs : Memory.wf s.mem = true) :
    EndsWf (execFreezeValue stack row sender v s) := by
  refine .next ?_
  split
  · exact hs
  extract_lets own r' s₁
  split
  · exact wf_retryRow _ (wf_settleRecon _ _ hs)
  · exact hs

theorem endsWf_swapDrainDone (stack : Nat) {s : State} (hs : Memory.wf s.mem = true) : EndsWf (execSwapDrainDone stack s) := by
  refine .next ?_
  split
  · exact hs
  split
  · exact hs
  split
  · simp [hs]
  · simp [hs]

theorem endsWf_swapRowCopy (stack : Nat) {s : State} (hs : Memory.wf s.mem = true) : EndsWf (execSwapRowCopy stack s) := by
  refine .next ?_
  split
  · exact hs
  split
  · exact hs
  split
  · rw [after_mem, mem_refuseAdmission]
    exact hs
  extract_lets s₁ m₁
  have h₁ : Memory.wf s₁.mem = true := by rw [mem_charge]; exact hs
  split
  · rw [send_mem, modStack_mem]
    exact h₁
  · simp [h₁]

theorem endsWf_engineOpComplete (core id : Nat) {s : State} (hs : Memory.wf s.mem = true) : EndsWf (execEngineOpComplete core id s) := by
  refine .next ?_
  repeat' split
  all_goals simp [hs]

theorem endsWf_gridCompletion (grid : Nat) {s : State} (hs : Memory.wf s.mem = true) : EndsWf (execGridCompletion grid s) := by
  refine .next ?_
  split
  · exact hs
  · simp [hs]

theorem endsWf_spdmRequest (index : Nat) {s : State} (hs : Memory.wf s.mem = true) : EndsWf (execSpdmRequest index s) := by
  refine .next ?_
  split <;> exact hs

theorem endsWf_waitTimeout (slot : Nat) {s : State} (hs : Memory.wf s.mem = true) : EndsWf (execWaitTimeout slot s) := by
  refine .next ?_
  split
  · exact hs
  dsimp only
  split
  · exact hs
  · simp [hs]

theorem endsWf_firmwareTimer (die : Nat) {s : State} (hs : Memory.wf s.mem = true) : EndsWf (execFirmwareTimer die s) := by
  refine .next (wf_inert hs ?_)
  split
  · exact hs
  extract_lets s₁
  have h₁ : Memory.wf s₁.mem = true := by simp [s₁, hs]
  rw [after_mem]
  split
  · exact wf_commandFirmware _ h₁
  · split
    · exact wf_sliceScheduler h₁
    · exact h₁

theorem endsWf_bra (i : BitVec 21) {s : State} (hs : Memory.wf s.mem = true) : EndsWf (execBra i s) := by
  unfold execBra
  exact .issue (.bind (keeping_execLanes _) fun _ => .bind keeping_thisPc fun _ => keeping_branchIf _ _ _) hs

theorem endsWf_beod (q dim : BitVec 2) (i : BitVec 14) {s : State} (hs : Memory.wf s.mem = true) : EndsWf (execBeod q dim i s) := by
  unfold execBeod
  exact .issue (.bind (keeping_execLanes _) fun _ => .bind keeping_thisPc fun _ => .bind .getG fun _ => keeping_branchIf _ _ _) hs

theorem endsWf_trap (i : BitVec 14) {s : State} (hs : Memory.wf s.mem = true) : EndsWf (execTrap i s) := by
  unfold execTrap
  exact .issue (.bind .getG fun _ => .faultM _) hs

theorem endsWf_brk {s : State} (hs : Memory.wf s.mem = true) : EndsWf (execBrk s) := by
  unfold execBrk
  exact .issue (.bind .getG fun _ => .faultM _) hs

theorem endsWf_exec (i : Instr) {s : State} (hs : Memory.wf s.mem = true) : EndsWf (exec i s) := by
  cases i with
  | ownerPop | taskStart | eagerStaging | stageHoldExpiry | stealTry | stealreq | stealent | splitCommit | freg | fready | waitfull |
    fqueryPoll | fresv | itemdone | fstate | wake | ffree | tyieldWindowEnd | channelSlotArrival | streamRunahead | pressRequest |
    pressGrant | commitSignature | commitAck | ownershipClaim | claimAnnounce | sliceDone | pressRelease | copyStart | engineChunkStart
    | copyComplete | redPerform | teamHalt | shadowLatchFlag | marginWindowEnd | marginSettle | waitaddrWake | waitaddrTimeout | decant
    | decantPushDone | revocation | hbmRead | hbmWrite | hbmAtomic | unfreeze | stackLoss | swapStart | marchreq | bankMarchEnd |
    budgetPeriod | accallocGrant | mmaStepEnd | gangRootPush | sliceEnd | stopAck | faultQueuePost | priResponse | atsCompletion |
    atsTagTimeout | atsInvalidate | pageWalk | teardownFinish | keycmdDone | barrierArrival | barrierRelease | mcstDelivery |
    groupTimeout | scgo | registerWrite | powerOnReset | hotReset | imageCheckDone | flashOpDone | heartbeatTimeout | mbxStatus |
    mbxReset | mbxUpdate | fatalError | dumpTimeout | powerOff | fillReturn | targetAcknowledgement | cxlCacheSnoop =>
    exact .next (by simp [hs])
  | iadd | isub | imul | imulhiI | imulhiN | iaddsatI | iaddsatN | isubsatI | isubsatN | iminI | iminN | imaxI | imaxN | icsub | and | or
    | xor | andn | shl | shrN | shrI | rotl | bfxI | bfxN | isetEq | isetNe | isetLtI | isetLtN | isetLeI | isetLeN | fadd | fsub | fmul
    | fmin | fmax | fsetEq | fsetNe | fsetLt | fsetLe | fsetUn | fdiv | fscale | paddBf | pmulBf | paddH | pmulH | cvtpkBf | cvtpkH =>
    exact .issue (keeping_alu2 _ _ _ _ _) hs
  | imulwI | imulwN =>
    exact .issue (keeping_alu2w _ _ _ _ _) hs
  | imad | sad | bfi | prmt | isel | ffma | pfmaBf | pfmaH | idp4Ii | idp4Nn | idp4sIi | idp4sNn | idp2Ii | idp2sIi =>
    exact .issue (keeping_alu3 _ _ _ _ _) hs
  | iabs | popc | clz | brev | mov | iaddi | andi | ori | xori | shli | shriN | shriI | isetiEq | isetiLtI | isetiLtN | iaddi14 | fneg |
    fabs | frnd | fsqrt | frcp | frsq | fexp2 | flog2 | fsin | fcos | ftanh | fsig | fclass =>
    exact .issue (keeping_alu1 _ _ _ _) hs
  | iadd64 | isub64 =>
    exact .issue (keeping_alu64 _ _ _ _ _) hs
  | movi =>
    exact .issue (keeping_alu0 _ _ _) hs
  | cvt =>
    exact .issue (keeping_cvtM _ _ _ _) hs
  | cvtpkE4 | cvtpkE5 | cvtpkI8 | cvtpkN8 =>
    exact .issue (keeping_cvtpk8 _ _ _ _ _) hs
  | xshfl | xbfly | xup | xdn | xbcast =>
    exact .issue (keeping_crossRead _ _ _ _ _) hs
  | voteany | voteall | ballot | xredAddI | xredAddF | xredMinI | xredMaxI | xredMinF | xredMaxF | xscanAddI | xscanAddF =>
    exact .issue (keeping_laneFold _ _ _ _) hs
  | bz | bnz =>
    exact .issue (keeping_branchOn _ _ _) hs
  | ret =>
    exact .issue keeping_retM hs
  | exit =>
    exact .issue keeping_exitM hs
  | mwait | msync =>
    exact .issue (keeping_maskWait _ _) hs
  | ckend =>
    exact .issue keeping_ckendM hs
  | wbase =>
    exact .issue (keeping_wbaseM _) hs
  | wgrow =>
    exact .issue (keeping_wgrowM _ _) hs
  | mfsr =>
    exact .issue (keeping_mfsrM _ _) hs
  | mtsr =>
    exact .issueGuarded (keeping_mtsrM _ _) hs
  | eret =>
    exact .issue keeping_eretM hs
  | syscall =>
    exact .issue (keeping_syscallM _) hs
  | tlbinv =>
    exact .issueGuarded (keeping_tlbinvM _ _) hs
  | ctxsave =>
    exact .issueGuarded (keeping_ctxsaveM _) hs
  | ctxrstr =>
    exact .issueGuarded (keeping_ctxrstrM _) hs
  | wfi =>
    exact .issue keeping_wfiM hs
  | ipi =>
    exact .issueGuarded (keeping_ipiM _) hs
  | qmap =>
    exact .issueGuarded (keeping_qmapM _ _) hs
  | qunmap =>
    exact .issueGuarded (keeping_qunmapM _) hs
  | gangres =>
    exact .issueGuarded (keeping_gangresM _ _) hs
  | ldg8i | ldg8n | ldg16i | ldg16n | ldg32 =>
    exact .issue (keeping_ldgM _ _ _ _ _ _) hs
  | ldg64 =>
    exact .issue (keeping_ldg64M _ _ _ _) hs
  | ldg128 =>
    exact .issue (keeping_ldg128M _ _ _ _) hs
  | stg8 | stg16 | stg32 =>
    exact .issue (keeping_stgM _ _ _ _ _) hs
  | stg64 =>
    exact .issue (keeping_stg64M _ _ _ _) hs
  | stg128 =>
    exact .issue (keeping_stg128M _ _ _ _) hs
  | lds8i | lds8n | lds16i | lds16n | lds32 =>
    exact .issue (keeping_ldsM _ _ _ _ _ _) hs
  | lds64 =>
    exact .issue (keeping_lds64M _ _ _ _) hs
  | lds128 =>
    exact .issue (keeping_lds128M _ _ _ _) hs
  | sts8 | sts16 | sts32 =>
    exact .issue (keeping_stsM _ _ _ _ _) hs
  | sts64 =>
    exact .issue (keeping_sts64M _ _ _ _) hs
  | sts128 =>
    exact .issue (keeping_sts128M _ _ _ _) hs
  | ldk =>
    exact .issue (keeping_ldkM _ _ _ _) hs
  | pfl =>
    exact .issue (keeping_pflM _ _ _) hs
  | smap =>
    exact .issue (keeping_smapM _ _ _ _) hs
  | llock =>
    exact .issue (keeping_llockM _ _ _ _) hs
  | lunlock =>
    exact .issue (keeping_lunlockM _ _ _) hs
  | cacheop =>
    exact .issue (keeping_cacheopM _ _ _ _) hs
  | atomAdd | atomAnd | atomOr | atomXor | atomMinI | atomMinN | atomMaxI | atomMaxN | atomExch | atomCas =>
    exact .issue (keeping_atomM _ _ _ _ _ _ _) hs
  | atom64Add | atom64Cas =>
    exact .issue (keeping_atom64M _ _ _ _ _) hs
  | redAddI | redAddF | redAnd | redOr | redXor | redMinI | redMinN | redMaxI | redMaxN =>
    exact .issue (keeping_redM _ _ _ _ _ _) hs
  | redAddI64 =>
    exact .issue (keeping_red64M _ _ _ _ _) hs
  | waitaddr =>
    exact .issue (keeping_waitaddrM _ _) hs
  | strel32 =>
    exact .issue (keeping_strelM _ _ _ _) hs
  | strel64 =>
    exact .issue (keeping_strel64M _ _ _ _) hs
  | ldacq32 =>
    exact .issue (keeping_ldacqM _ _ _ _) hs
  | ldacq64 =>
    exact .issue (keeping_ldacq64M _ _ _ _) hs
  | fence =>
    exact .issue (keeping_fenceM _) hs
  | cpseal =>
    exact .issue (keeping_cpsealM _) hs
  | cpwait =>
    exact .issue (keeping_cpwaitM _) hs
  | cpy | tcpy =>
    exact .issue (keeping_cpyM _ _ _ _) hs
  | cpyq =>
    exact .issue (keeping_cpyqM _ _ _ _) hs
  | strbind =>
    exact .issue (keeping_strbindM _ _ _) hs
  | strunb =>
    exact .issue (keeping_strunbM _) hs
  | strskip =>
    exact .issue (keeping_strskipM _ _) hs
  | accalloc =>
    exact .issue (keeping_accallocM _ _) hs
  | accfree =>
    exact .issue (keeping_accfreeM _) hs
  | acczero =>
    exact .issue (keeping_acczeroM _) hs
  | accld | accst =>
    exact .issue (keeping_accRowsM _ _ _ _) hs
  | mma =>
    exact .issue (keeping_mmaM _ _ _) hs
  | mmawait =>
    exact .issue (keeping_mmawaitM _) hs
  | cbload =>
    exact .issue (keeping_cbloadM _ _) hs
  | accepi =>
    exact .issue (keeping_accepiM _ _ _) hs
  | mmastat =>
    exact .issue (keeping_mmastatM _) hs
  | spawn =>
    exact .issue (keeping_spawnM _ _) hs
  | spawnr =>
    exact .issue (keeping_spawnrM _ _) hs
  | fnew =>
    exact .issue (keeping_fnewM _) hs
  | fres =>
    exact .issue (keeping_fresM _ _) hs
  | fpoll =>
    exact .issue (keeping_fpollM _ _) hs
  | tend =>
    exact .issue (keeping_tendM _) hs
  | itemnext =>
    exact .issue (keeping_itemnextM _) hs
  | tyield =>
    exact .issue keeping_tyieldM hs
  | chbind =>
    exact .issue (keeping_chbindM _ _) hs
  | chunb =>
    exact .issue (keeping_chunbM _) hs
  | chstat =>
    exact .issue (keeping_chstatM _ _) hs
  | grpopen =>
    exact .issue (keeping_grpopenM _) hs
  | grpclose =>
    exact .issue (keeping_grpcloseM _) hs
  | mcst =>
    exact .issue (keeping_mcstM _ _) hs
  | ctrrd =>
    exact .issue (keeping_ctrrdM _ _) hs
  | ctrset =>
    exact .issue (keeping_ctrsetM _ _) hs
  | stealspl | stealno | waitaddrPoll | delta | dack =>
    exact .next (by simp [hs])
  | fquery =>
    exact .next hs
  | fwait =>
    exact endsWf_fwait _ _ _ hs
  | freeze =>
    exact endsWf_freeze _ _ _ hs
  | pendingLinePresent =>
    exact .next (wf_afterBar _ (wf_barRelease _ (by simp [hs])))
  | movl =>
    exact .issue (keeping_alu0 _ _ _) hs
  | cvtun =>
    refine .issue ?_ hs
    exact .bind (.ensure _ _) fun _ => keeping_alu1 _ _ _ _
  | bra =>
    exact endsWf_bra _ hs
  | call =>
    refine .issue ?_ hs
    exact .bind (keeping_execLanes _) fun _ => .bind keeping_thisPc fun _ => .bind (keeping_pushCall _ _) fun _ =>
      keeping_branchIf _ _ _
  | beod =>
    exact endsWf_beod _ _ _ hs
  | jmp =>
    refine .issue ?_ hs
    exact .bind (keeping_checkOps _) fun _ => .bind (keeping_execLanes _) fun _ => .bind (keeping_targets _ _) fun _ =>
      keeping_jumpTo _ _
  | callr =>
    refine .issue ?_ hs
    exact .bind (keeping_checkOps _) fun _ => .bind (keeping_execLanes _) fun _ => .bind (keeping_targets _ _) fun _ =>
      .bind keeping_thisPc fun _ => .bind (keeping_pushCall _ _) fun _ => keeping_jumpTo _ _
  | trap =>
    exact endsWf_trap _ hs
  | brk =>
    exact endsWf_brk hs
  | mjoin | mleave =>
    refine .issue ?_ hs
    exact .bind (keeping_checkMask _) fun _ => .bind (keeping_execLanes _) fun _ => .modR _
  | mset =>
    refine .issue ?_ hs
    exact .bind (keeping_checkMask _) fun _ => .bind (keeping_checkOps _) fun _ => .bind (keeping_execLanes _) fun _ =>
      .bind (keeping_readSrc _ _) fun _ => .modR _
  | mget =>
    refine .issue ?_ hs
    exact .bind (keeping_checkMask _) fun _ => .bind (keeping_checkOps _) fun _ => .bind (keeping_execLanes _) fun _ =>
      .bind .getG fun _ => keeping_writeDst _ _ _ _
  | mact =>
    refine .issue ?_ hs
    exact .bind (keeping_checkOps _) fun _ => .bind (keeping_execLanes _) fun _ => keeping_writeDst _ _ _ _
  | ckstat =>
    refine .issue ?_ hs
    exact .bind (keeping_checkOps _) fun _ => .bind (keeping_execLanes _) fun _ => .bind .getG fun _ => keeping_writeDst _ _ _ _
  | bar | gbar =>
    refine .issue ?_ hs
    exact .bind (.ensure _ _) fun _ => keeping_barM _ _ _ _
  | bararv =>
    refine .issue ?_ hs
    exact .bind (.ensure _ _) fun _ => keeping_bararvM _ _ _
  | barwt =>
    refine .issue ?_ hs
    exact .bind (.ensure _ _) fun _ => keeping_barwtM _ _
  | nop =>
    exact .issue (.pure ()) hs
  | ckirr =>
    exact endsWf_ckirr hs
  | join =>
    exact .issue (keeping_joinM _ _) hs
  | inboundAccess =>
    exact endsWf_inboundAccess _ _ _ hs
  | redirectInstall =>
    exact .next (by rw [mem_installRedirect]; exact hs)
  | freezeValue =>
    exact endsWf_freezeValue _ _ _ _ hs
  | swapDrainDone =>
    exact endsWf_swapDrainDone _ hs
  | swapRowCopy =>
    exact endsWf_swapRowCopy _ hs
  | engineOpComplete =>
    exact endsWf_engineOpComplete _ _ hs
  | waitTimeout =>
    exact endsWf_waitTimeout _ hs
  | gridCompletion =>
    exact endsWf_gridCompletion _ hs
  | firmwareTimer =>
    exact endsWf_firmwareTimer _ hs
  | spdmRequest =>
    exact endsWf_spdmRequest _ hs
  | doorbell | queueDescWrite | waitRecheck | frdone | landingPacket | landingRetry | landingDescWrite | mlctlWrite | keycmdLoad |
    keycmdClear | imgchk | flashRead | flashProgram | flashErase | qhold | hbarm | hbeat =>
    exact .next (wf_inert hs (by simp [hs]))
  | launch =>
    exact .next (wf_startPacket _ _ (fun _ _ h => wf_launchPacket _ h) hs)
  | copyPacket =>
    exact .next (wf_startPacket _ _ (fun _ _ h => wf_copyPacketDo _ h) hs)
  | signal =>
    exact .next (wf_startPacket _ _ (fun _ _ h => wf_signalDo _ _ h) hs)
  | wait =>
    exact .next (wf_startPacket _ _ (fun _ _ h => wf_waitDo _ _ h) hs)
  | marker =>
    exact .next (wf_startPacket _ _ (fun _ _ h => wf_markerDo _ _ h) hs)
  | ctxopCreate =>
    exact .next (wf_startPacket _ _ (fun _ _ h => wf_createCtx _ h) hs)
  | ctxopDestroy =>
    exact .next (wf_startPacket _ _ (fun _ _ h => wf_destroyCtx _ h) hs)
  | ctxopSlice =>
    exact .next (wf_startPacket _ _ (fun _ _ h => wf_setSlice _ h) hs)
  | ctxopPreempt =>
    exact .next (wf_startPacket _ _ (fun _ _ h => wf_preemptCtx _ h) hs)
  | ctxopResume =>
    exact .next (wf_startPacket _ _ (fun _ _ h => wf_resumeCtx _ h) hs)
  | gangcmt | gangabt =>
    exact .issueGuarded (keeping_gangM _ fun _ _ _ h => by simp [h]) hs
  | sunmap =>
    exact .issue (keeping_stashM _ _ _ _ fun _ _ => keeping_sunmapRange _ _) hs
  | sflush =>
    exact .issue (keeping_stashM _ _ _ _ fun _ _ => keeping_sflushRange _ _) hs
  | sdrop =>
    exact .issue (keeping_stashM _ _ _ _ fun _ _ => keeping_sdropRange _ _) hs

end Sys2Proof.Proofs

/-! # The committed memory through a step of the device (R204) -/

namespace Sys2Proof.Proofs

open Sys2Proof Sys2Proof.Machine Sys2Proof.Laws

theorem endsWf_issueGroup (c slot : Nat) {s : State} (hs : Memory.wf s.mem = true) : EndsWf (issueGroup s c slot) := by
  unfold issueGroup
  split
  · exact .next (by simp [hs])
  split
  · exact .next (by simp [hs])
  extract_lets s₁
  have hf : Memory.wf (fetchUnit s₁ 3 []).2.mem = true := wf_fetchUnit _ _ (by simp [s₁, hs])
  split
  · exact endsWf_exec _ (snd_wf hf ‹_›)
  · exact .next (wf_stopped _ (snd_wf hf ‹_›))

theorem endsWf_deliver (k : Nat) {s : State} (hs : Memory.wf s.mem = true) : EndsWf (deliver s k) := by
  unfold deliver
  split
  · exact .next (by simp [hs])
  · exact endsWf_exec _ hs

theorem endsWf_turn (x : Turn) {s : State} (hs : Memory.wf s.mem = true) : EndsWf (turn s x) := by
  cases x with
  | deliver k => exact endsWf_deliver k hs
  | issue c slot =>
    refine (show EndsWf (issueTurn s c slot) from ?_)
    unfold issueTurn
    split
    · exact endsWf_issueGroup _ _ hs
    · exact .next (by simp [hs])
  | event e =>
    simp only [turn]
    split
    · exact endsWf_exec _ hs
    · exact .next hs
  | tick n => exact .next (by simp [hs])

theorem endsWf_step {s : State} (hs : Memory.wf s.mem = true) : EndsWf (step s) := by
  unfold step
  split
  · exact endsWf_turn _ hs
  split
  · exact .next (by simp [hs])
  split
  · exact endsWf_deliver 0 hs
  split
  · exact endsWf_exec _ hs
  split
  · exact endsWf_issueGroup _ _ hs
  · exact .next (by simp [hs])

/-- Settles O60: every operation of the model writes the memory by `memPut` or by leaving entries out, and both keep the canonical form. -/
theorem memoryStaysCanonical : Obligations.MemoryStaysCanonical := fun _ t hs h => endsWf_step hs t h

end Sys2Proof.Proofs

/-! # Frame swaps and bank marches (R211 to R214, R380) -/

namespace Sys2Proof.Proofs

open Sys2Proof Sys2Proof.Machine Sys2Proof.Laws

@[simp] theorem stackAt_modStack_self (s : State) (x : Nat) (f : Stack → Stack) : stackAt (modStack s x f) x = f (stackAt s x) := by
  simp [stackAt, modStack]

theorem stackAt_modStack_ne (s : State) {x y : Nat} (f : Stack → Stack) (h : y ≠ x) : stackAt (modStack s x f) y = stackAt s y := by
  simp [stackAt, modStack, aget_aset_ne _ _ h]

@[simp] theorem stackAt_send (s : State) (a b : Nat) (e : Instr) (x : Nat) : stackAt (send s a b e) x = stackAt s x := rfl

@[simp] theorem stackAt_ctrAdd (s : State) (k n x : Nat) : stackAt (ctrAdd s k n) x = stackAt s x := rfl

@[simp] theorem stackAt_charge (s : State) (k n x : Nat) : stackAt (charge s k n) x = stackAt s x := rfl

/-- A stack with no packet held back performs none. -/
theorem retryHeld_of_none {s : State} {x : Nat} (h : (stackAt s x).held = []) :
    retryHeld s x = modStack s x (fun k => { k with held := [] }) := by
  rw [retryHeld, h]
  rfl

theorem parkNext_of_none {s : State} {x : Nat} (h : (stackAt s x).march = none) : parkNext s x = s := by
  simp only [parkNext, h]

/-- A frame map with one entry set: that frame is where the entry says, any other as before. -/
theorem frame_put (r : Sparse (Option Nat)) (f pf g : Nat) :
    (sget none (sset none r f (if pf = f then none else some pf)) g).getD g = if g = f then pf else (sget none r g).getD g := by
  rw [sget_sset]
  split
  · next h =>
    subst h
    split
    · next h => simp [h]
    · rfl
  · rfl

theorem swapBegin_refused {s : State} {x f1 f2 : Nat}
    (h : frameChan (physFrame (stackAt s x) f1) = frameChan (physFrame (stackAt s x) f2) ∨ s.mmio.swapen = false ∨ rackFree s x = false
      ∨ (stackAt s x).lost = true) : swapBegin s x f1 f2 = s := by
  rw [swapBegin, if_pos]
  obtain h | h | h | h := h <;> simp [h]

theorem exec_swapStart_of_ne (s : State) (x : Nat) {f1 f2 : Nat} (h : f1 ≠ f2) : exec (.swapStart x f1 f2) s = .next (swapBegin s x f1 f2) := by
  rw [show exec (.swapStart x f1 f2) s = .next (if f1 = f2 then parkStart s x else swapBegin s x f1 f2) from rfl, if_neg h]

theorem exec_swapStart_self (s : State) (x f : Nat) : exec (.swapStart x f f) s = .next (parkStart s x) := by
  rw [show exec (.swapStart x f f) s = .next (if f = f then parkStart s x else swapBegin s x f f) from rfl, if_pos rfl]

/-- Above the imbalance threshold, with both frames movable, a swap begins where the racking budget admits it. -/
theorem swapBegin_admissible {s : State} {x f1 f2 : Nat} (hx : x < 16) (h1 : f1 < 32768) (h2 : f2 < 32768)
    (hc : frameChan (physFrame (stackAt s x) f1) ≠ frameChan (physFrame (stackAt s x) f2)) (hen : s.mmio.swapen = true)
    (hfree : rackFree s x = true) (hl : (stackAt s x).lost = false) (hp1 : physFrame (stackAt s x) f1 < 32768)
    (hp2 : physFrame (stackAt s x) f2 < 32768) (hq1 : f1 ∉ (stackAt s x).parkQ) (hq2 : f2 ∉ (stackAt s x).parkQ)
    (hi : imbalanced s x (frameChan (physFrame (stackAt s x) f1)) = true ∨ imbalanced s x (frameChan (physFrame (stackAt s x) f2)) = true) :
    swapBegin s x f1 f2 = if admits s (ctrKey 3 x 32)
      then beginMove s x { f1 := f1, f2 := some f2, parkFrame := 0, row := 0, copying := false } else refuseAdmission s (ctrKey 3 x 32) := by
  have hi' : ¬((!imbalanced s x (frameChan (physFrame (stackAt s x) f1))) = true ∧
      (!imbalanced s x (frameChan (physFrame (stackAt s x) f2))) = true) := by
    obtain h | h := hi <;> simp [h]
  rw [swapBegin, if_neg, if_neg, if_neg hi']
  · cases admits s (ctrKey 3 x 32) <;> rfl
  · simp [hq1, hq2, hp1, hp2]
  · simp [hc, hen, hfree, hl, hx, h1, h2]

theorem parkStart_of_none {s : State} {x : Nat} (h : (stackAt s x).march = none) : parkStart s x = s := by
  simp only [parkStart, h]

theorem parkStart_first {s : State} {x c b : Nat} (hm : (stackAt s x).march = some (c, b)) (hq : (stackAt s x).parkQ = [])
    (hg : (stackAt s x).parkGone = []) (hn : (stackAt s x).marching = false) (hb : sget 0 (stackAt s x).bank (64 * c + b) = 0)
    (hothers : ∀ i < 64, sget 0 (stackAt s x).bank (64 * c + i) ≠ 3) (hfree : rackFree s x = true) :
    parkStart s x = parkNext (modStack s x (fun k => { k with
      parkQ := (List.range 16).map (fun j => logFrame (stackAt s x) (32 * (16 * b + j) + c)), bank := sset 0 k.bank (64 * c + b) 1 })) x := by
  have hany : (List.range 64).any (fun i => sget 0 (stackAt s x).bank (64 * c + i) == 3) = false := by
    simpa using hothers
  simp only [parkStart, hm, hq, hg, hn, hb, hany, hfree]
  simp

/-! ### The steps of a move -/

theorem exec_swapDrainDone (s : State) (x : Nat) : exec (.swapDrainDone x) s = .next (match (stackAt s x).moving with
    | none => s
    | some m =>
      if m.copying then s
      else if moveBusy s x m then after s 16 (.swapDrainDone x)
      else send (modStack s x (fun k => { k with moving := some { m with copying := true } })) (stackAgent x) (stackAgent x)
        (.swapRowCopy x)) := rfl

theorem exec_swapRowCopy (s : State) (x : Nat) : exec (.swapRowCopy x) s = .next (match (stackAt s x).moving with
    | none => s
    | some m =>
      if !m.copying then s
      else if !admits s (ctrKey 3 x 32) then
        after (refuseAdmission s (ctrKey 3 x 32)) (11264 - (cycles s (x / 4)).toNat % 11264) (.swapRowCopy x)
      else if m.row + 1 < 16384 then
        send (modStack (charge s (ctrKey 3 x 32) 1) x (fun k => { k with moving := some { m with row := m.row + 1 } })) (stackAgent x)
          (stackAgent x) (.swapRowCopy x)
      else endMove (charge s (ctrKey 3 x 32) 1) x { m with row := m.row + 1 }) := rfl

/-- A stack whose swap of two frames is over. -/
def exchanged (k : Stack) (f1 f2 : Nat) : Stack :=
  let put := fun (r : Sparse (Option Nat)) (f pf : Nat) => sset none r f (if pf = f then none else some pf)
  { k with moving := none, held := [], remap := put (put k.remap f1 (physFrame k f2)) f2 (physFrame k f1) }

/-- The last row of a swap: the two frames change places. -/
theorem endMove_swap {s : State} {x f2 : Nat} {m : Move} (hm : m.f2 = some f2) (hne : m.f1 ≠ f2) (hheld : (stackAt s x).held = [])
    (hmarch : (stackAt s x).march = none) :
    (stackAt (endMove s x m) x).moving = none ∧ physFrame (stackAt (endMove s x m) x) m.f1 = physFrame (stackAt s x) f2
      ∧ physFrame (stackAt (endMove s x m) x) f2 = physFrame (stackAt s x) m.f1
      ∧ ∀ f, f ≠ m.f1 → f ≠ f2 → physFrame (stackAt (endMove s x m) x) f = physFrame (stackAt s x) f := by
  have hk : stackAt (endMove s x m) x = exchanged (stackAt s x) m.f1 f2 := by
    simp only [endMove, hm]
    rw [retryHeld_of_none (by simpa using hheld), parkNext_of_none (by simpa using hmarch)]
    simp [exchanged, hmarch]
  rw [hk]
  refine ⟨rfl, ?_, ?_, fun f h1 h2 => ?_⟩
  · exact (frame_put ..).trans (by rw [if_neg hne, frame_put, if_pos rfl])
  · exact (frame_put ..).trans (by rw [if_pos rfl])
  · exact (frame_put ..).trans (by rw [if_neg h2, frame_put, if_neg h1]; rfl)

/-! ### What an event of the log leaves of the stacks (R363) -/

theorem hbm_storeLog (s : State) (v : Nat) : (storeLog s v).hbm = s.hbm := by
  unfold storeLog
  dsimp only
  split <;> rfl

theorem hbm_refuseAdmission (s : State) (k : Nat) : (refuseAdmission s k).hbm = s.hbm := by
  unfold refuseAdmission
  split <;> rfl

theorem hbm_drainLog (s : State) : (drainLog s).hbm = s.hbm := by
  refine List.foldlRecOn (motive := fun (a : State × List Nat × List Nat) => a.1.hbm = s.hbm) s.mmio.logWait _ rfl ?_
  rintro ⟨t, l, ds⟩ ht v -
  dsimp only
  split
  · exact ht
  · split
    · exact (hbm_storeLog t v).trans ht
    · exact (hbm_refuseAdmission t _).trans ht

theorem hbm_postLog (s : State) (ev die unit data : Nat) : (postLog s ev die unit data).hbm = s.hbm := by
  unfold postLog
  split
  · exact hbm_drainLog _
  · rfl

@[simp] theorem stackAt_postLog (s : State) (ev die unit data x : Nat) : stackAt (postLog s ev die unit data) x = stackAt s x := by
  rw [stackAt, hbm_postLog, stackAt]

/-! ### March requests and the end of a march -/

theorem exec_marchreq (v : BitVec 32) (s : State) : exec (.marchreq v) s = .next (if s.fw.safe then s else ctlWrite s 0x2058 v.toNat) := rfl

theorem ctlWrite_march (s : State) (v : BitVec 32) : ctlWrite s 0x2058 v.toNat =
    if (stackAt (marchRequest s v) (v.toNat % 16)).march = (stackAt s (v.toNat % 16)).march then s
    else send (marchRequest s v) (stackAgent (v.toNat % 16)) (stackAgent (v.toNat % 16)) (.swapStart (v.toNat % 16) 0 0) := by
  rw [ctlWrite, if_neg (by decide), if_neg (by decide), if_pos rfl]
  simp

/-- The bank that a march request names. -/
def marchBank (v : BitVec 32) : Nat := 64 * (v.toNat / 16 % 32) + v.toNat / 512 % 64

theorem marchRequest_refused {s : State} {v : BitVec 32} (h : s.mmio.marchen = false ∨ (stackAt s (v.toNat % 16)).march.isSome = true
    ∨ sget 0 (stackAt s (v.toNat % 16)).bank (marchBank v) ≠ 0) : marchRequest s v = s := by
  have h' : !s.mmio.marchen ∨ (stackAt s (v.toNat % 16)).march.isSome ∨ sget 0 (stackAt s (v.toNat % 16)).bank (marchBank v) ≠ 0 := by
    obtain h | h | h := h
    · exact .inl (by simp [h])
    · exact .inr (.inl h)
    · exact .inr (.inr h)
  exact if_pos h'

theorem marchRequest_queued {s : State} {v : BitVec 32} (hen : s.mmio.marchen = true) (hm : (stackAt s (v.toNat % 16)).march = none)
    (hb : sget 0 (stackAt s (v.toNat % 16)).bank (marchBank v) = 0) :
    marchRequest s v = modStack s (v.toNat % 16) (fun k => { k with march := some (marchBank v / 64, marchBank v % 64) }) := by
  refine if_neg ?_
  simp only [hen, hm]
  simpa [marchBank] using hb

theorem exec_bankMarchEnd (s : State) (x : Nat) (pass : Bool) : exec (.bankMarchEnd x pass) s = .next (endMarch s x pass) := rfl

theorem endMarch_idle {s : State} {x : Nat} (pass : Bool) (h : (stackAt s x).march = none ∨ (stackAt s x).marching = false) :
    endMarch s x pass = s := by
  unfold endMarch
  obtain h | h := h
  · simp only [h]
  · dsimp only
    split
    · rfl
    · simp [h]

theorem endMarch_of_some {s : State} {x c b : Nat} (pass : Bool) (hm : (stackAt s x).march = some (c, b)) (hn : (stackAt s x).marching = true) :
    endMarch s x pass = if pass then
        parkNext (modStack s x (fun k => { k with marching := false, bank := sset 0 k.bank (64 * c + b) 1 })) x
      else postLog (modStack s x (fun k => { k with
        marching := false, march := none, parkGone := [], parked := [], bank := sset 0 k.bank (64 * c + b) 3 }))
        0x0007 (x / 4) x (Config.logData 0x0007 c b) := by
  simp [endMarch, hm, hn]

/-- Settles O46, clause by clause: the frame swap, the bank march and their requests. -/
theorem rackingSteps : Obligations.RackingSteps := by
  unfold Obligations.RackingSteps
  intro s x f1 f2 c b m v k me c1 c2
  refine ⟨fun hne h => ?_, fun hne hx h1 h2 hc hen hfree hl hp1 hp2 hq1 hq2 hi => ?_, fun h => ?_, fun hm hq hg hn hb ho hfree => ?_,
    fun h => ?_, fun hm hc => ?_, fun hm hc ha => ?_, fun hm hc ha hr => ?_, fun hm hc ha hr hf hne hheld hmarch => ?_, ⟨fun h => ?_, fun hs hen hm hb => ?_⟩,
    fun h => ?_, fun hm hn => ?_⟩
  · rw [exec_swapStart_of_ne s x hne, swapBegin_refused h]
  · rw [exec_swapStart_of_ne s x hne, swapBegin_admissible hx h1 h2 hc hen hfree hl hp1 hp2 hq1 hq2 hi]
    rfl
  · rw [exec_swapStart_self, parkStart_of_none h]
  · rw [exec_swapStart_self, parkStart_first hm hq hg hn hb ho hfree]
    rfl
  · rw [exec_swapDrainDone, exec_swapRowCopy, h]
    exact ⟨rfl, rfl⟩
  · rw [exec_swapDrainDone, hm]
    simp only [hc]
    rfl
  · rw [exec_swapRowCopy, hm]
    simp [hc, ha]
  · rw [exec_swapRowCopy, hm]
    simp only [hc, ha, hr]
    rfl
  · refine ⟨_, ?_, endMove_swap (s := charge s (ctrKey 3 x 32) 1) (m := { m with row := m.row + 1 }) hf hne hheld hmarch⟩
    rw [exec_swapRowCopy, hm]
    simp only [hc, ha, hr]
    rfl
  · rw [exec_marchreq, ctlWrite_march, marchRequest_refused h]
    simp
  · rw [exec_marchreq, ctlWrite_march, marchRequest_queued hen hm hb, if_neg (by simp [hs]), if_neg]
    · rfl
    · rw [stackAt_modStack_self, hm]
      simp
  · exact ⟨by rw [exec_bankMarchEnd, endMarch_idle _ h], by rw [exec_bankMarchEnd, endMarch_idle _ h]⟩
  · rw [exec_bankMarchEnd, exec_bankMarchEnd, endMarch_of_some _ hm hn, endMarch_of_some _ hm hn]
    refine ⟨rfl, _, rfl, ?_⟩
    simp [k]

end Sys2Proof.Proofs

/-! # Reductions performed, and the steps of the commit protocol complete (R219 to R223, R254 to R256) -/

namespace Sys2Proof.Proofs

open Sys2Proof Sys2Proof.Machine Sys2Proof.Laws

/-! ### The performing of a released reduction (R255, R256) -/

theorem exec_redPerform (r : Red) (s : State) : exec (.redPerform r) s = .next (redPerform s r) := rfl

theorem redPerform_of_notMem {s : State} {r : Red} (h : r ∉ s.reds) : redPerform s r = s := if_pos h

theorem redPerform_waits {s : State} {r : Red} (hr : r ∈ s.reds)
    (h : redBehind s r = true ∨ (tracked (homePa r.pa) = true ∧ writeHeld s [homePa r.pa / 128] = true)) :
    redPerform s r = after s 4 (.redPerform r) := by
  rw [redPerform, if_neg (not_not_intro hr), if_pos]
  simpa using h

/-- The state in which a reduction is performed: it is off the list, and its line is read unless it is known to be poisoned. -/
def redRead (s : State) (r : Red) : State :=
  let x := { s with reds := s.reds.erase r }
  if isPoisoned x (homePa r.pa / 128) then x else readLine x (homePa r.pa / 128)

section

variable {s : State} {r : Red} (hb : redBehind s r = false) (hw : tracked (homePa r.pa) = false ∨ writeHeld s [homePa r.pa / 128] = false)

include hb hw

theorem redPerform_goes : ¬(redBehind s r || (tracked (homePa r.pa) && writeHeld s [homePa r.pa / 128])) = true := by
  obtain h | h := hw <;> simp [hb, h]

variable (hr : r ∈ s.reds)

include hr

/-- One that meets poison is only recorded. -/
theorem redPerform_poisoned (hp : isPoisoned (redRead s r) (homePa r.pa / 128) = true) :
    redPerform s r = postLog (ctrAdd (redRead s r) (ctrKey 7 0 0) 1) 0x0006 (dieOf r.core) r.core r.pa := by
  rw [redPerform, if_neg (not_not_intro hr), if_neg (redPerform_goes hb hw)]
  exact if_pos hp

/-- Any other combines its value with the committed one. -/
theorem redPerform_combines (hp : isPoisoned (redRead s r) (homePa r.pa / 128) = false) :
    redPerform s r = redTake (performWrite (redRead s r) none
      (bytesAt (homePa r.pa) (bytesOf (redSize r.op) (redCombine r.op (memNat (redRead s r) (homePa r.pa) (redSize r.op)) r.v.toNat)))) r := by
  rw [redPerform, if_neg (not_not_intro hr), if_neg (redPerform_goes hb hw)]
  exact if_neg (ne_true_of_eq_false hp)

end

theorem redTake_far {s : State} {r : Red} (h : beyond r.pa = true ∨ 5 ≤ r.scope) : redTake s r = s := if_pos h

theorem redTake_cluster {s : State} {r : Red} (hb : beyond r.pa = false) (h : r.scope = 4) :
    redTake s r = { s with redAt := aset s.redAt (r.pa / 128) (256 + (coreAt s r.core).cluster) } := by
  simp [redTake, redPlace, hb, h]

/-! ### The operations of a reduction (R254) -/

theorem redCombine_word (a b : Word) : redCombine .addI a.toNat b.toNat = (a + b).toNat ∧ redCombine .and a.toNat b.toNat = (a &&& b).toNat
      ∧ redCombine .or a.toNat b.toNat = (a ||| b).toNat ∧ redCombine .xor a.toNat b.toNat = (a ^^^ b).toNat
      ∧ redCombine .minN a.toNat b.toNat = min a.toNat b.toNat ∧ redCombine .maxN a.toNat b.toNat = max a.toNat b.toNat
      ∧ (BitVec.ofNat 32 (redCombine .minI a.toNat b.toNat)).toInt = min a.toInt b.toInt
      ∧ (BitVec.ofNat 32 (redCombine .maxI a.toNat b.toNat)).toInt = max a.toInt b.toInt
      ∧ redCombine .addF a.toNat b.toNat = f32.round 0 (FVal.add 0 (f32.val a.toNat) (f32.val b.toNat)) := by
  have hx : ∀ w : Word, BitVec.ofNat 32 w.toNat = w := fun w => by simp
  simp only [redCombine, hx]
  refine ⟨trivial, trivial, trivial, trivial, ?_, ?_, ?_, ?_, rfl⟩
  · rw [BitVec.ult_eq_decide]
    by_cases h : b.toNat < a.toNat
    · simp [h, min_eq_right h.le]
    · simp [h, min_eq_left (not_lt.1 h)]
  · rw [BitVec.ult_eq_decide]
    by_cases h : a.toNat < b.toNat
    · simp [h, max_eq_right h.le]
    · simp [h, max_eq_left (not_lt.1 h)]
  · rw [BitVec.slt_eq_decide]
    by_cases h : b.toInt < a.toInt
    · simp [h, min_eq_right h.le]
    · simp [h, min_eq_left (not_lt.1 h)]
  · rw [BitVec.slt_eq_decide]
    by_cases h : a.toInt < b.toInt
    · simp [h, max_eq_right h.le]
    · simp [h, max_eq_left (not_lt.1 h)]

/-- Settles O40: the performing of a reduction clause by clause, its operations, and that every step of the protocol answers a next state. -/
theorem reductionSteps : Obligations.ReductionSteps := by
  unfold Obligations.ReductionSteps
  refine ⟨fun s r => ?_, redCombine_word, fun a b => ?_, fun s k r d line sl n m pa core slot wr e he => ?_⟩
  · refine ⟨fun h => ?_, fun hr h => ?_, fun hr hb hw => ⟨fun hp => ?_, fun hp => ?_⟩, redTake_far, redTake_cluster⟩
    · rw [exec_redPerform, redPerform_of_notMem h]
    · rw [exec_redPerform, redPerform_waits hr h]
      rfl
    · exact congrArg Host.Outcome.next (redPerform_combines hb hw hr hp)
    · exact congrArg Host.Outcome.next (redPerform_poisoned hb hw hr hp)
  · exact (BitVec.toNat_add a b).symm
  · simp only [List.mem_cons, List.not_mem_nil, or_false] at he
    obtain rfl | rfl | rfl | rfl | rfl | rfl | rfl | rfl | rfl | rfl | rfl := he <;> exact ⟨_, rfl⟩

end Sys2Proof.Proofs

/-! # The commit protocol's steps (R219 to R223, R231, R259) -/

namespace Sys2Proof.Proofs

open Sys2Proof Sys2Proof.Machine Sys2Proof.Laws

/-! ### The Press (R219) -/

@[simp] theorem dieAt_modDie_self (s : State) (d : Nat) (f : Die → Die) : dieAt (modDie s d f) d = f (dieAt s d) := by
  simp [dieAt, modDie]

@[simp] theorem dieAt_dieCtr (s : State) (d i n e : Nat) : dieAt (dieCtr s d i n) e = dieAt s e := rfl

@[simp] theorem dieAt_send (s : State) (a b : Nat) (i : Instr) (d : Nat) : dieAt (send s a b i) d = dieAt s d := rfl

@[simp] theorem doneChunk_modDie (s : State) (d : Nat) (f : Die → Die) (k : ChunkRef) : doneChunk (modDie s d f) k = doneChunk s k := rfl

theorem exec_pressRequest (d : Nat) (k : ChunkRef) (s : State) : exec (.pressRequest d k) s = .next (pressAsk s d k) := rfl

theorem exec_pressGrant (d : Nat) (k : ChunkRef) (s : State) : exec (.pressGrant d k) s = .next (pressGot s d k) := rfl

theorem pressAsk_of_nothing {s : State} {k : ChunkRef} (d : Nat) (h : doneChunk s k = none) (ha : askOf s k = none) : pressAsk s d k = s := by
  simp only [pressAsk, h, ha]

theorem pressAsk_of_ask {s : State} {k : ChunkRef} {a : PressAsk} (d : Nat) (h : doneChunk s k = none) (ha : askOf s k = some a) :
    pressAsk s d k = enterPress s d { k := k, w := sigOf a.lines, pri := false } := by
  simp only [pressAsk, h, ha]

theorem pressAsk_of_some {s : State} {k : ChunkRef} {x : Chunk} (d : Nat) (h : doneChunk s k = some x) :
    pressAsk s d k = enterPress s d { k := k, w := x.wsig, pri := x.pri || x.irr } := by
  simp only [pressAsk, h]

theorem pressGot_of_none {s : State} {k : ChunkRef} (d : Nat) (h : doneChunk s k = none) : pressGot s d k = askGot s d k := by
  simp only [pressGot, h]

theorem askGot_of_none {s : State} {k : ChunkRef} (d : Nat) (h : askOf s k = none) : askGot s d k = s := by
  simp only [askGot, h]

theorem enterPress_granted {s : State} {d : Nat} {r : GrantRec} (h : mayGrant s d r = true) : enterPress s d r = grantPress s d r := if_pos h

theorem enterPress_held {s : State} {d : Nat} {r : GrantRec} (h : mayGrant s d r = false) :
    enterPress s d r = dieCtr (modDie s d (fun y => { y with waiting := y.waiting ++ [r] })) d 1 1 := if_neg (ne_true_of_eq_false h)

/-- The chunk after a grant of the Press of die `d`. -/
def tookGrant (d : Nat) (x : Chunk) : Chunk := { x with toGrant := x.toGrant.drop 1, granted := x.granted ++ [d] }

theorem pressGot_next {s : State} {k : ChunkRef} {x : Chunk} {d e : Nat} {es : List Nat} (h : doneChunk s k = some x) (hp : x.phase = 1)
    (hd : x.toGrant = d :: e :: es) :
    pressGot s d k = send (modDone s k (tookGrant d)) k.core (pressAgent e) (.pressRequest e k) := by
  simp only [pressGot, h, hp, hd, List.head?_cons, ne_eq, not_true_eq_false, or_self, if_false, List.drop_succ_cons, List.drop_zero]
  rfl

theorem pressGot_last {s : State} {k : ChunkRef} {x : Chunk} {d : Nat} (h : doneChunk s k = some x) (hp : x.phase = 1) (hd : x.toGrant = [d]) :
    pressGot s d k = if heldByLive (modDone s k (tookGrant d)) x.wsig (some (k.core, k.slot)) || metByGranted (modDone s k (tookGrant d)) k x
      then squashFrom (modDone s k (tookGrant d)) k.core k.slot k.num else sendSignature (modDone s k (tookGrant d)) k x := by
  simp only [pressGot, h, hp, hd, List.head?_cons, ne_eq, not_true_eq_false, or_self, if_false, List.drop_succ_cons, List.drop_zero]
  rfl

/-! ### Signatures and claims (R220, R221) -/

theorem exec_commitSignature (r : Receiver) (k : ChunkRef) (s : State) : exec (.commitSignature r k) s = .next (signatureArrives s r k) := rfl

theorem signatureArrives_of_none {s : State} {k : ChunkRef} (r : Receiver) (h : doneChunk s k = none) : signatureArrives s r k = s := by
  simp only [signatureArrives, h]

theorem signatureArrives_core {s : State} {k : ChunkRef} {x : Chunk} {c : Nat} (h : doneChunk s k = some x) (hc : c ≠ k.core) :
    signatureArrives s (.core c) k = send (invalidate (squashCore s c none (conflicts x.wsig)) c x.glines) c k.core (.commitAck k) := by
  simp only [signatureArrives, h, if_neg hc]

theorem signatureArrives_own {s : State} {k : ChunkRef} {x : Chunk} (h : doneChunk s k = some x) :
    signatureArrives s (.core k.core) k = send (squashCore s k.core (some k.slot) (conflicts x.wsig)) k.core k.core (.commitAck k) := by
  simp only [signatureArrives, h, if_true]

theorem signatureArrives_die {s : State} {k : ChunkRef} {x : Chunk} (d : Nat) (h : doneChunk s k = some x) :
    signatureArrives s (.die d) k = send s (pressAgent d) k.core (.commitAck k) := by
  simp only [signatureArrives, h]

theorem exec_ownershipClaim (line n : Nat) (k : ChunkRef) (s : State) :
    exec (.ownershipClaim line n k) s = .next (sliceCount s (homeSlice line) n k (fun x => (x.1 + 1, x.2))) := rfl

theorem exec_claimAnnounce (sl n m : Nat) (k : ChunkRef) (s : State) :
    exec (.claimAnnounce sl n m k) s = .next (sliceCount s sl n k (fun x => (x.1, some m))) := rfl

/-- The count of a slice for a core's phase. -/
def claimCount (s : State) (sl n : Nat) (k : ChunkRef) : Nat × Option Nat := (aget (dieAt s (sl / 64)).phases (phaseKey sl k n)).getD (0, none)

theorem sliceCount_met {s : State} {sl n : Nat} {k : ChunkRef} {x : Chunk} {f : Nat × Option Nat → Nat × Option Nat}
    (h : doneChunk s k = some x) (hm : (f (claimCount s sl n k)).2 = some (f (claimCount s sl n k)).1) :
    sliceCount s sl n k f
      = send ((x.glines.filter (fun l => homeSlice l == sl)).foldl (fun z l => showLine z (bufferBytes x.wr) l)
          (modDie s (sl / 64) (fun y => { y with phases := adel y.phases (phaseKey sl k n) }))) (sliceAgent sl) k.core (.sliceDone sl k) := by
  refine (if_pos hm).trans ?_
  simp only [doneChunk_modDie, h]

theorem sliceCount_open {s : State} {sl n : Nat} {k : ChunkRef} {f : Nat × Option Nat → Nat × Option Nat}
    (hm : (f (claimCount s sl n k)).2 ≠ some (f (claimCount s sl n k)).1) :
    sliceCount s sl n k f
      = modDie s (sl / 64) (fun y => { y with phases := aset y.phases (phaseKey sl k n) (f (claimCount s sl n k)) }) := if_neg hm

/-! ### Acknowledgements and reports (R221) -/

theorem exec_commitAck (k : ChunkRef) (s : State) :
    exec (.commitAck k) s = .next (commitGroup 1 k.core k.slot (modDone s k (fun x => { x with acks := x.acks - 1 }))) := rfl

theorem commitGroup_one (c slot : Nat) (s : State) : commitGroup 1 c slot s = (commitStep s c slot).1 := by
  rw [commitGroup]
  split
  · next h => rw [commitGroup, h]
  · next h => rw [h]

/-- A chunk that has sent its signature goes on to its claims with the last acknowledgement, and waits before. -/
theorem commitStep_signed {s : State} {c slot : Nat} {g : Group} {x : Chunk} {ks : List Chunk} (hg : groupAt s c slot = some g)
    (hd : g.done = x :: ks) (hp : x.phase = 2) :
    commitStep s c slot = if x.acks = 0 then (claimStage s { core := c, slot := slot, num := x.num } x, false) else (s, false) := by
  simp [commitStep, hg, hd, hp]

theorem groupAt_modDone {s : State} {k : ChunkRef} {g : Group} (f : Chunk → Chunk) (h : groupAt s k.core k.slot = some g) :
    groupAt (modDone s k f) k.core k.slot = some { g with done := g.done.map (fun x => if x.num = k.num then f x else x) } := by
  rw [modDone, modGroup_of_some _ h, groupAt_setGroup_self]

theorem exec_commitAck_signed {s : State} {k : ChunkRef} {g : Group} {x : Chunk} {ks : List Chunk} (hg : groupAt s k.core k.slot = some g)
    (hd : g.done = x :: ks) (hn : x.num = k.num) (hp : x.phase = 2) :
    exec (.commitAck k) s = .next (if x.acks ≤ 1 then
        claimStage (modDone s k (fun z => { z with acks := z.acks - 1 })) k { x with acks := 0 }
      else modDone s k (fun z => { z with acks := z.acks - 1 })) := by
  have hstep := commitStep_signed (groupAt_modDone (fun z => { z with acks := z.acks - 1 }) hg)
    (by rw [hd, List.map_cons, if_pos hn]) (x := { x with acks := x.acks - 1 }) hp
  rw [exec_commitAck, commitGroup_one, hstep]
  by_cases ha : x.acks ≤ 1
  · have h0 : x.acks - 1 = 0 := by omega
    simp [ha, h0, hn]
  · have h0 : x.acks - 1 ≠ 0 := by omega
    simp [ha, h0]

theorem exec_sliceDone (sl : Nat) (k : ChunkRef) (s : State) : exec (.sliceDone sl k) s = .next (sliceReports s k) := rfl

/-- A slice has reported to the chunk. -/
def tookReport (x : Chunk) : Chunk := { x with dones := x.dones - 1 }

theorem sliceReports_of_none {s : State} {k : ChunkRef} (h : doneChunk (modDone s k tookReport) k = none) :
    sliceReports s k = modDone s k tookReport := by
  have h' := h
  unfold tookReport at h'
  simp only [sliceReports, h']
  rfl

theorem sliceReports_of_some {s : State} {k : ChunkRef} {z : Chunk} (h : doneChunk (modDone s k tookReport) k = some z) :
    sliceReports s k = if z.phase = 3 ∧ z.dones = 0 then completeCommit (modDone s k tookReport) k z else modDone s k tookReport := by
  have h' := h
  unfold tookReport at h'
  simp only [sliceReports, h']
  rfl

/-! ### Releases (R221) -/

theorem exec_pressRelease (d : Nat) (k : ChunkRef) (s : State) : exec (.pressRelease d k) s = .next
    (reconsider (modDie s d (fun x => { x with granted := x.granted.filter (fun g => decide (g.k ≠ k)) })) d) := rfl

theorem reconsider_nil {s : State} {d : Nat} (h : (dieAt s d).waiting = []) : reconsider s d = s := by
  simp [reconsider, h]

theorem reconsider_one {s : State} {d : Nat} {r : GrantRec} (h : (dieAt s d).waiting = [r]) :
    reconsider s d = if mayGrant s d r then grantPress s d r else s := by
  cases hp : r.pri <;> simp [reconsider, h, hp]

/-! ### Accesses from outside (R223) -/

theorem inboundRead_within {s : State} {pa n : Nat} (h : n ≤ 128 - pa % 128) :
    inboundRead s pa n = if inHbm pa then (unitRead s [pa]).getD (after s 4 (.inboundAccess pa none n)) else s := by
  simp only [inboundRead, if_pos h, min_eq_left h]
  cases inHbm pa with
  | false => rfl
  | true => cases unitRead s [pa] <;> rfl

theorem inboundLine_outside {s : State} {pa : Nat} {bytes : List Byte} (hin : inHbm pa = true)
    (hq : Claims.outsideTable s.mmio.qtbase 16384 pa bytes.length) (hr : Claims.outsideTable s.mmio.rtbase 8192 pa bytes.length) :
    inboundLine s pa bytes = if s.fw.safe then s else performWrite s none (bytesAt pa bytes) := by
  have hout : ∀ {t n : Nat}, Claims.outsideTable t n pa bytes.length →
      (t != 0 && decide (t ≤ pa) && decide (pa + bytes.length ≤ t + 64 * n)) = false := fun {t n} h => by
    obtain h | h | h := h
    · simp [h]
    · simp [not_le.2 h]
    · simp [not_le.2 h]
  simp only [inboundLine, hin, hout hq, hout hr]
  simp

theorem inbound_within {s : State} {pa : Nat} {bytes : List Byte} (hin : inHbm pa = true) (hne : bytes ≠ [])
    (hlen : pa % 128 + bytes.length ≤ 128) (hq : Claims.outsideTable s.mmio.qtbase 16384 pa bytes.length)
    (hr : Claims.outsideTable s.mmio.rtbase 8192 pa bytes.length) :
    inbound s pa bytes = if writeHeld s [pa / 128] then after s 4 (.inboundAccess pa (some bytes) bytes.length)
      else if s.fw.safe then s else performWrite s none (bytesAt pa bytes) := by
  have htake : bytes.take (128 - pa % 128) = bytes := List.take_of_length_le (by omega)
  have hdrop : bytes.drop (128 - pa % 128) = [] := List.drop_of_length_le (by omega)
  simp only [inbound, htake, hdrop]
  simp [hin, hne, inboundLine_outside hin hq hr]

theorem exec_inboundAccess_read (pa n : Nat) (s : State) : exec (.inboundAccess pa none n) s = .next (inboundRead s pa n) := rfl

theorem exec_inboundAccess_write (pa : Nat) (bytes : List Byte) (n : Nat) (s : State) :
    exec (.inboundAccess pa (some bytes) n) s = .next (inbound s pa bytes) := rfl

/-! ### Stores beyond the package (R231) -/

theorem exec_targetAcknowledgement (c slot : Nat) (s : State) : exec (.targetAcknowledgement c slot) s = .next (targetAck s c slot) := rfl

/-- One access of a group beyond the package is acknowledged. -/
def ackExt (c slot : Nat) (z : State) : State :=
  { z with extOut := sset 0 z.extOut (64 * c + slot) (sget 0 z.extOut (64 * c + slot) - 1) }

theorem targetAck_none {s : State} {c slot : Nat} (h : extFirsts s c slot = []) :
    targetAck s c slot = if s.extPend.any (fun q => q.core == c && q.slot == slot && q.out) then after s 4 (.targetAcknowledgement c slot)
      else ackExt c slot s := by
  simp only [targetAck, h]
  rfl

theorem targetAck_one {s : State} {c slot n : Nat} {w : ExtWrite} (h : extFirsts s c slot = [(n, w)]) :
    targetAck s c slot = if writeHeld s ((linesOf (w.bytes.map (fun q => (homePa q.1, q.2)))).filter (fun l => tracked (128 * l)))
      then after s 4 (.targetAcknowledgement c slot)
      else ackExt c slot (performWrite { s with free := s.free + 1, extPend := s.extPend.eraseIdx n } none
        (w.bytes.map (fun q => (homePa q.1, q.2)))) := by
  simp only [targetAck, h, List.length_singleton, Nat.mod_one]
  rfl

/-- Settles O39, clause by clause along the protocol's messages. -/
theorem commitProtocolSteps : Obligations.CommitProtocolSteps := by
  unfold Obligations.CommitProtocolSteps
  intro s k d e line sl n pa core slot es x g ks bytes w a
  refine ⟨fun hk => ⟨?_, fun ha => ⟨?_, ?_⟩, fun ha => ⟨?_, ?_⟩⟩, fun hk => ⟨fun hm => ?_, fun hm => ?_, fun hp ht => ?_, fun hp ht => ?_,
      fun c hc => ?_, ?_, ?_, fun h => ?_, fun m h => ?_⟩, fun h => ?_, fun m h => ?_, fun hg hd hn hp => ?_, ?_, fun h => ?_, fun h => ?_,
    fun h => ?_, fun hin hq hr hne hlen => ?_, fun h => ?_, fun h => ?_, rfl⟩
  · rw [exec_commitSignature, signatureArrives_of_none _ hk]
  · rw [exec_pressRequest, pressAsk_of_nothing _ hk ha]
  · rw [exec_pressGrant, pressGot_of_none _ hk, askGot_of_none _ ha]
  · rw [exec_pressRequest, pressAsk_of_ask _ hk ha]
  · rw [exec_pressGrant, pressGot_of_none _ hk]
  · refine ⟨_, by rw [exec_pressRequest, pressAsk_of_some _ hk, enterPress_granted hm], ?_, rfl⟩
    simp [grantPress]
  · refine ⟨pressAsk s d k, exec_pressRequest d k s, ?_, ?_, ?_⟩ <;> rw [pressAsk_of_some _ hk, enterPress_held hm]
    · simp
    · simp
    · rfl
  · rw [exec_pressGrant, pressGot_next hk hp ht]
    rfl
  · rw [exec_pressGrant, pressGot_last hk hp ht]
    rfl
  · rw [exec_commitSignature, signatureArrives_core hk hc]
  · rw [exec_commitSignature, signatureArrives_own hk]
  · rw [exec_commitSignature, signatureArrives_die d hk]
  · rw [exec_ownershipClaim, sliceCount_met hk h]
    rfl
  · rw [exec_claimAnnounce, sliceCount_met hk (congrArg some h.symm)]
    rfl
  · rw [exec_ownershipClaim, sliceCount_open h]
    rfl
  · rw [exec_claimAnnounce, sliceCount_open (fun he => h (Option.some.inj he).symm)]
    rfl
  · exact exec_commitAck_signed hg hd hn hp
  · cases hz : doneChunk (modDone s k tookReport) k with
    | none =>
      rw [exec_sliceDone, sliceReports_of_none hz]
      unfold tookReport at hz
      simp only [hz]
      rfl
    | some z =>
      rw [exec_sliceDone, sliceReports_of_some hz]
      unfold tookReport at hz
      simp only [hz]
      rfl
  · rw [exec_pressRelease, reconsider_nil (by simpa using h)]
  · rw [exec_pressRelease, reconsider_one (r := { k := k, w := x.wsig, pri := x.pri || x.irr }) (by simpa using h)]
  · rw [exec_inboundAccess_read, inboundRead_within h]
    rfl
  · rw [exec_inboundAccess_write, inbound_within hin hne hlen hq hr]
    rfl
  · rw [exec_targetAcknowledgement, targetAck_none h]
    rfl
  · rw [exec_targetAcknowledgement, targetAck_one h]
    rfl

end Sys2Proof.Proofs

/-! # The steps of the stack controllers and of the Reserve (R198, R202, R205 to R210) -/

namespace Sys2Proof.Proofs

open Sys2Proof Sys2Proof.Machine Sys2Proof.Laws

/-! ### Reads and changes of one stack -/

theorem modStack_modStack (s : State) (x : Nat) (f g : Stack → Stack) : modStack (modStack s x f) x g = modStack s x (fun k => g (f k)) := by
  simp [modStack, stackAt, aset_aset]

/-- A field of the stacks that a change of one of them keeps. -/
theorem stackAt_modStack_keeps {α : Type} (p : Stack → α) (s : State) (x y : Nat) {f : Stack → Stack} (h : ∀ k, p (f k) = p k) :
    p (stackAt (modStack s x f) y) = p (stackAt s y) := by
  by_cases hy : y = x
  · rw [hy, stackAt_modStack_self, h]
  · rw [stackAt_modStack_ne s f hy]

theorem lineLost_eq_lost {s : State} {line : Nat} (hin : inHbm (128 * line) = true) : lineLost s line = (stackAt s (dataStack line)).lost := by
  rw [lineLost, hin, Bool.true_and]

theorem parityStack_ne_dataStack (line : Nat) : parityStack line ≠ dataStack line := by
  unfold dataStack
  dsimp only
  split <;> omega

theorem countPacket_of_present {s : State} {x : Nat} (row : Nat) (h : (stackAt s x).lost = false) :
    countPacket s x row = ctrAdd s (ctrKey 3 x (frameChan (physRow (stackAt s x) row))) 1 := if_neg (ne_true_of_eq_false h)

theorem freeTag_of_none {s : State} {x : Nat} (h : (stackAt s x).tagQ = []) : freeTag s x = modStack s x (fun k => { k with tags := k.tags - 1 }) := by
  simp only [freeTag, h]

/-- The 128 bytes last written at a place are those that it reads. -/
theorem read_ssetAll_bytesAt (m : Sparse Byte) (a : Nat) {bs : List Byte} (h : bs.length = 128) :
    (List.range 128).map (fun i => sget 0 (ssetAll 0 m (bytesAt a bs)) (a + i)) = bs := by
  refine List.ext_getElem (by simp [h]) fun i hi _ => ?_
  have hlt : i < bs.length := by simpa [h] using hi
  rw [List.getElem_map, List.getElem_range, sget_ssetAll_bytesAt, if_pos (by omega), Nat.add_sub_cancel_left, List.getD_eq_getElem _ _ hlt]

theorem dramLine_dramPut (s : State) (line : Nat) {bs : List Byte} (h : bs.length = 128) : dramLine (dramPut s line bs) line = bs :=
  read_ssetAll_bytesAt s.dram (128 * line) h

theorem parityLine_parityPut (s : State) (row : Nat) {bs : List Byte} (h : bs.length = 128) : parityLine (parityPut s row bs) row = bs :=
  read_ssetAll_bytesAt s.parity (128 * row) h

theorem dramLine_modStack (s : State) (x : Nat) (f : Stack → Stack) (line : Nat) : dramLine (modStack s x f) line = dramLine s line := rfl

theorem dramLine_send (s : State) (a b : Nat) (e : Instr) (line : Nat) : dramLine (send s a b e) line = dramLine s line := rfl

theorem parity_freeTag (s : State) (x : Nat) : (freeTag s x).parity = s.parity := by
  unfold freeTag
  split <;> rfl

/-! ### Reads (R202, R209) -/

theorem exec_hbmRead (line : Nat) (bad : List Nat) (s : State) : exec (.hbmRead line bad) s = .next (slicePacket s (.hbmRead line bad)) := rfl

theorem slicePacket_read_held {s : State} {line : Nat} (hin : inHbm (128 * line) = true)
    (h : moveHolds (stackAt s (dataStack line)) (stripeOf line) = true ∨ behindHeld s line = true) :
    slicePacket s (.hbmRead line []) = holdPacket s (dataStack line) (stripeOf line) (.hbmRead line []) :=
  (if_neg (by simp [hin])).trans (if_pos (by simpa using h))

theorem slicePacket_read {s : State} {line : Nat} (hin : inHbm (128 * line) = true)
    (hm : moveHolds (stackAt s (dataStack line)) (stripeOf line) = false) (hb : behindHeld s line = false) :
    slicePacket s (.hbmRead line []) =
      if !(s.mmio.dual && lineLost s line) && (unusable s line || decide (line ∈ s.poison)) then
        if reconOn s (stripeOf line) then holdPacket s (dataStack line) (stripeOf line) (.hbmRead line [])
        else if (stackAt s (parityStack line)).lost then
          freeTag (markPoison (countPacket s (dataStack line) (stripeOf line)) line) (dataStack line)
        else startRecon (countPacket s (dataStack line) (stripeOf line)) line none
      else freeTag (l2Fill (countPacket s (dataStack line) (stripeOf line)) line) (dataStack line) :=
  (if_neg (by simp [hin])).trans ((if_neg (by simp [hm, hb])).trans rfl)

/-! ### Writes (R205) -/

theorem exec_hbmWrite (line : Nat) (bad : List Nat) (s : State) : exec (.hbmWrite line bad) s = .next (slicePacket s (.hbmWrite line bad)) := rfl

theorem slicePacket_write_held {s : State} {line : Nat} (hin : inHbm (128 * line) = true) (h : writeWaits s line = true) :
    slicePacket s (.hbmWrite line []) = holdPacket s (dataStack line) (stripeOf line) (.hbmWrite line []) :=
  (if_neg (by simp [hin])).trans (if_pos h)

theorem slicePacket_write {s : State} {line : Nat} (hin : inHbm (128 * line) = true) (h : writeWaits s line = false) :
    slicePacket s (.hbmWrite line []) = replied s (storeLine s line) line :=
  (if_neg (by simp [hin])).trans ((if_neg (ne_true_of_eq_false h)).trans rfl)

/-- A write reaches its stack: its traffic is counted and the cached line is clean. -/
def writtenBack (s : State) (line : Nat) : State :=
  { countPacket s (dataStack line) (stripeOf line) with
    l2 := (countPacket s (dataStack line) (stripeOf line)).l2.map (fun y => if y.line = line then { y with dirty := false } else y) }

/-- A line with a corrected error that its stripe can still give is set right before the write. -/
def corrected (s : State) (line : Nat) : State :=
  if line ∈ s.ecc ∧ line ∉ s.hpoison ∧ reconOk s line then
    { (dramPut s line (reconValue s line)) with ecc := s.ecc.filter (fun l => !(l == line)) } else s

/-- The stripe count of the line's row is raised. -/
def countDelta (s : State) (line : Nat) : State :=
  modStack s (dataStack line) (fun k => { k with cnt := sset 0 k.cnt (stripeOf line) (sget 0 k.cnt (stripeOf line) + 1) })

/-- The new data are at the stack: parity follows, or the reconstruction of a line that could not be read. -/
def storeData (s : State) (line : Nat) (old new : List Byte) : State :=
  if (line ∈ s.hpoison ∧ line ∉ s.poison) ∨ line ∈ s.ecc then
    if (stackAt s (parityStack line)).lost then
      { s with hpoison := s.hpoison.filter (fun l => !(l == line)), ecc := s.ecc.filter (fun l => !(l == line)) }
    else startRecon s line (some new)
  else if (stackAt s (parityStack line)).lost then s
  else sendPacket (countDelta s line) (stackAgent (dataStack line)) (parityStack line)
    (.delta (parityStack line) (stripeOf line) (dataStack line) (xorBytes old new))

theorem storeLine_eq (s : State) (line : Nat) : storeLine s line =
    if (writtenBack s line).mmio.dual && lineLost (writtenBack s line) line then
      postLog (writtenBack s line) 0x000A (dataStack line / 4) (dataStack line) (128 * line)
    else if lineLost (writtenBack s line) line then startRecon (writtenBack s line) line (some (homeBytes s line))
    else storeData (dramPut (corrected (writtenBack s line) line) line (homeBytes s line)) line
      (dramLine (corrected (writtenBack s line) line) line) (homeBytes s line) := rfl

section
variable {s : State} {line : Nat}

/-- The line as a write leaves it at a stack that is there. -/
def storedLine (s : State) (line : Nat) : State := countDelta (dramPut (writtenBack s line) line (memBytes s (128 * line) 128)) line

theorem writtenBack_of_present (h : (stackAt s (dataStack line)).lost = false) : writtenBack s line =
    { ctrAdd s (ctrKey 3 (dataStack line) (frameChan (physRow (stackAt s (dataStack line)) (stripeOf line)))) 1 with
      l2 := s.l2.map (fun y => if y.line = line then { y with dirty := false } else y) } := by
  unfold writtenBack
  rw [countPacket_of_present _ h]
  rfl

theorem storeLine_plain (hin : inHbm (128 * line) = true) (hl : lineLost s line = false) (he : line ∉ s.ecc) (hp : line ∉ s.hpoison)
    (hq : (stackAt s (parityStack line)).lost = false) (hd : stashDirty s line = false) :
    storeLine s line = sendPacket (storedLine s line) (stackAgent (dataStack line)) (parityStack line)
      (.delta (parityStack line) (stripeOf line) (dataStack line) (xorBytes (dramLine s line) (memBytes s (128 * line) 128))) := by
  have hhome : homeBytes s line = memBytes s (128 * line) 128 := by
    unfold homeBytes
    rw [hd]
    rfl
  have hw := writtenBack_of_present (s := s) (line := line) (by rw [← lineLost_eq_lost hin, hl])
  have hlost : lineLost (writtenBack s line) line = false := by rw [hw]; exact hl
  have hecc : line ∉ (writtenBack s line).ecc := by rw [hw]; exact he
  have hcor : corrected (writtenBack s line) line = writtenBack s line := if_neg (fun h => hecc h.1)
  have hpar : ¬ (stackAt (writtenBack s line) (parityStack line)).lost = true := by rw [hw]; exact ne_true_of_eq_false hq
  have hpoi : line ∉ (writtenBack s line).hpoison := by rw [hw]; exact hp
  have hdram : dramLine (writtenBack s line) line = dramLine s line := by rw [hw]; rfl
  rw [storeLine_eq, if_neg (by simp [hlost]), if_neg (by simp [hlost]), hcor, hhome, hdram]
  exact (if_neg (fun h => h.elim (fun h => hpoi h.1) hecc)).trans (if_neg hpar)

theorem mem_storedLine : (storedLine s line).mem = s.mem := mem_countPacket s (dataStack line) (stripeOf line)

theorem dramLine_storedLine : dramLine (storedLine s line) line = memBytes s (128 * line) 128 :=
  dramLine_dramPut (writtenBack s line) line (by simp [memBytes])

theorem net_storedLine (h : (stackAt s (dataStack line)).lost = false) : (storedLine s line).net = s.net := by
  have hw : (writtenBack s line).net = s.net := by rw [writtenBack_of_present h]; rfl
  exact hw

theorem stackAt_storedLine (h : (stackAt s (dataStack line)).lost = false) (y : Nat) :
    stackAt (storedLine s line) y = stackAt (countDelta s line) y := by
  unfold storedLine
  rw [writtenBack_of_present h]
  rfl

/-- The line's change on its way to the parity controller, which has taken a tag for it. -/
def deltaSent (s : State) (line : Nat) : State :=
  send (modStack (storedLine s line) (parityStack line) (fun k => { k with tags := k.tags + 1 })) (stackAgent (dataStack line))
    (stackAgent (parityStack line)) (.delta (parityStack line) (stripeOf line) (dataStack line)
      (xorBytes (dramLine s line) (memBytes s (128 * line) 128)))

theorem stackAt_deltaSent_keeps {α : Type} (p : Stack → α) (h : (stackAt s (dataStack line)).lost = false)
    (hc : ∀ (k : Stack) (c : Sparse Nat), p { k with cnt := c } = p k) (hp : ∀ (k : Stack) (n : Nat), p { k with tags := n } = p k) (y : Nat) :
    p (stackAt (deltaSent s line) y) = p (stackAt s y) := by
  rw [deltaSent, stackAt_send]
  refine (stackAt_modStack_keeps p _ _ _ (fun _ => hp _ _)).trans ?_
  rw [stackAt_storedLine h]
  exact stackAt_modStack_keeps p _ _ _ (fun _ => hc _ _)

theorem cnt_deltaSent (h : (stackAt s (dataStack line)).lost = false) :
    sget 0 (stackAt (deltaSent s line) (dataStack line)).cnt (stripeOf line) = sget 0 (stackAt s (dataStack line)).cnt (stripeOf line) + 1 := by
  rw [deltaSent, stackAt_send, stackAt_modStack_ne _ _ (parityStack_ne_dataStack line).symm, stackAt_storedLine h, countDelta,
    stackAt_modStack_self]
  simp only [sget_sset_self]

theorem dramLine_deltaSent : dramLine (deltaSent s line) line = memBytes s (128 * line) 128 := by
  rw [deltaSent, dramLine_send, dramLine_modStack, dramLine_storedLine]

theorem mem_deltaSent : (deltaSent s line).mem = s.mem := by
  rw [deltaSent, send_mem, modStack_mem, mem_storedLine]

theorem net_deltaSent (h : (stackAt s (dataStack line)).lost = false) : (deltaSent s line).net
    = s.net ++ [⟨stackAgent (dataStack line), stackAgent (parityStack line), .delta (parityStack line) (stripeOf line) (dataStack line)
        (xorBytes (dramLine s line) (memBytes s (128 * line) 128))⟩] := by
  rw [deltaSent, send_net, modStack_net, net_storedLine h]

theorem storeLine_deltaSent (hin : inHbm (128 * line) = true) (hl : lineLost s line = false) (he : line ∉ s.ecc) (hp : line ∉ s.hpoison)
    (hq : (stackAt s (parityStack line)).lost = false) (hd : stashDirty s line = false) (ht : (stackAt s (parityStack line)).tags < 32768) :
    storeLine s line = deltaSent s line := by
  have htags : (stackAt (storedLine s line) (parityStack line)).tags < 32768 := by
    rw [stackAt_storedLine (by rw [← lineLost_eq_lost hin, hl]), countDelta, stackAt_modStack_ne _ _ (parityStack_ne_dataStack line)]
    exact ht
  rw [storeLine_plain hin hl he hp hq hd]
  exact if_pos htags

theorem replied_deltaSent (h : (stackAt s (dataStack line)).lost = false) (hn : (stackAt s (dataStack line)).tagQ = []) :
    replied s (deltaSent s line) line = modStack (deltaSent s line) (dataStack line) (fun k => { k with tags := k.tags - 1 }) := by
  have hrec : reconOn (deltaSent s line) (stripeOf line) = reconOn s (stripeOf line) :=
    congrArg (fun rs : List Recon => rs.any (fun r => r.row == stripeOf line))
      (stackAt_deltaSent_keeps Stack.recons h (fun _ _ => rfl) (fun _ _ => rfl) _)
  rw [replied, hrec, Bool.and_not_self, if_neg Bool.false_ne_true,
    freeTag_of_none ((stackAt_deltaSent_keeps Stack.tagQ h (fun _ _ => rfl) (fun _ _ => rfl) _).trans hn)]

end

/-! ### Atomics (R202) -/

section
variable {s : State} {line : Nat} {r : Red}

theorem exec_hbmAtomic (hw : writeWaits s line = false) : exec (.hbmAtomic line r) s = .next (slicePacket s (.hbmAtomic line r)) := by
  have hb : behindHeld s line = false := by
    simp only [writeWaits, Bool.or_eq_false_iff] at hw
    exact hw.1.2
  have hnone : (stackAt s (dataStack line)).held.any (fun e => decide (e.2 = .hbmAtomic line r)) = false := by
    rw [List.any_eq_false]
    intro e he hr
    have heq : e.2 = .hbmAtomic line r := of_decide_eq_true hr
    refine List.any_eq_false.1 hb e he ?_
    rw [heq, packetLine, beq_self_eq_true]
  exact congrArg Host.Outcome.next (if_neg (ne_true_of_eq_false hnone))

theorem slicePacket_atomic (hin : inHbm (128 * line) = true) (hw : writeWaits s line = false) (hr : r ∈ s.reds) (hl : r.pa / 128 = line)
    (hsc : 5 ≤ r.scope) : slicePacket s (.hbmAtomic line r) =
      if writeHeld s [line] || redBehind s r then deferPacket s (dataStack line) (stripeOf line) (.hbmAtomic line r)
      else replied (redPerform s r) (if isPoisoned (redPerform s r) line then redPerform s r else storeLine (redPerform s r) line) line :=
  (if_neg (by simp [hin, hl, hr]; omega)).trans ((if_neg (ne_true_of_eq_false hw)).trans rfl)

end

/-! ### Parity (R205, R208) -/

/-- The parity line after a delta: a lost stack takes none. -/
def deltaTaken (s : State) (x row : Nat) (bytes : List Byte) : State :=
  if (stackAt s x).lost then s else countPacket (parityPut s row (xorBytes (parityLine s row) bytes)) x row

theorem exec_delta (x row sender : Nat) (bytes : List Byte) (s : State) : exec (.delta x row sender bytes) s
    = .next (send (freeTag (deltaTaken s x row bytes) x) (stackAgent x) (stackAgent sender) (.dack sender row)) := rfl

section
variable {s : State} {x : Nat} (row : Nat) (bytes : List Byte)

theorem deltaTaken_of_lost (h : (stackAt s x).lost = true) : deltaTaken s x row bytes = s := if_pos h

theorem deltaTaken_of_present (h : (stackAt s x).lost = false) : deltaTaken s x row bytes =
    ctrAdd (parityPut s row (xorBytes (parityLine s row) bytes)) (ctrKey 3 x (frameChan (physRow (stackAt s x) row))) 1 :=
  (if_neg (ne_true_of_eq_false h)).trans (countPacket_of_present row h)

theorem mem_deltaTaken : (deltaTaken s x row bytes).mem = s.mem := by
  cases h : (stackAt s x).lost with
  | true => rw [deltaTaken_of_lost row bytes h]
  | false => rw [deltaTaken_of_present row bytes h]; rfl

theorem net_deltaTaken : (deltaTaken s x row bytes).net = s.net := by
  cases h : (stackAt s x).lost with
  | true => rw [deltaTaken_of_lost row bytes h]
  | false => rw [deltaTaken_of_present row bytes h]; rfl

theorem stackAt_deltaTaken (y : Nat) : stackAt (deltaTaken s x row bytes) y = stackAt s y := by
  cases h : (stackAt s x).lost with
  | true => rw [deltaTaken_of_lost row bytes h]
  | false => rw [deltaTaken_of_present row bytes h]; rfl

theorem parityLine_delta (h : (stackAt s x).lost = false) (hb : bytes.length = 128) :
    parityLine (freeTag (deltaTaken s x row bytes) x) row = xorBytes (parityLine s row) bytes := by
  have hlen : (xorBytes (parityLine s row) bytes).length = 128 := by simp [xorBytes, parityLine, hb]
  rw [parityLine, parity_freeTag, deltaTaken_of_present row bytes h]
  exact parityLine_parityPut s row hlen

end

/-- The row's count after an acknowledgement. -/
def countAcked (s : State) (x row : Nat) : State := modStack s x (fun k => { k with cnt := sset 0 k.cnt row (sget 0 (stackAt s x).cnt row - 1) })

theorem exec_dack (x row : Nat) (s : State) : exec (.dack x row) s
    = .next (if decide (sget 0 (stackAt s x).cnt row - 1 = 0) && decide (row ∈ (stackAt (countAcked s x row) x).frozen)
        && (stackAt (countAcked s x row) (row % 16)).recons.any (fun r => r.row == row && (aget r.vals x).isNone) then
      answerFreeze (countAcked s x row) x row false else countAcked s x row) := rfl

@[simp] theorem stackAt_answerFreeze (s : State) (x row : Nat) (bad : Bool) (y : Nat) : stackAt (answerFreeze s x row bad) y = stackAt s y := rfl

/-! ### Freezes (R206, R207) -/

/-- The row frozen at a stack. -/
def rowFrozen (s : State) (x row : Nat) : State := modStack s x (fun k => { k with frozen := if row ∈ k.frozen then k.frozen else row :: k.frozen })

theorem exec_freeze_lost {s : State} {x : Nat} (row : Nat) (bad : Bool) (h : (stackAt s x).lost = true) : exec (.freeze x row bad) s = .next s :=
  if_pos h

theorem exec_freeze {s : State} {x : Nat} (row : Nat) (bad : Bool) (h : (stackAt s x).lost = false) : exec (.freeze x row bad) s
    = .next (if sget 0 (stackAt (rowFrozen s x row) x).cnt row = 0 then answerFreeze (rowFrozen s x row) x row bad else rowFrozen s x row) :=
  if_neg (ne_true_of_eq_false h)

theorem mem_frozen_rowFrozen (s : State) (x row : Nat) : row ∈ (stackAt (rowFrozen s x row) x).frozen := by
  rw [rowFrozen, stackAt_modStack_self]
  dsimp only
  split
  · assumption
  · exact List.mem_cons_self

theorem cnt_rowFrozen (s : State) (x row : Nat) : (stackAt (rowFrozen s x row) x).cnt = (stackAt s x).cnt := by
  rw [rowFrozen, stackAt_modStack_self]

theorem unusable_rowFrozen (s : State) (x row line : Nat) : unusable (rowFrozen s x row) line = unusable s line := by
  unfold unusable lineLost rowFrozen
  rw [stackAt_modStack_keeps Stack.lost]
  · rfl
  · exact fun _ => rfl

theorem net_answerFreeze_rowFrozen (s : State) (x row : Nat) (bad : Bool) : (answerFreeze (rowFrozen s x row) x row bad).net
    = s.net ++ [⟨stackAgent x, stackAgent (row % 16),
        .freezeValue (row % 16) row x (if bad || unusable s (lineOf row x) then none else some (dramLine s (lineOf row x)))⟩] := by
  unfold answerFreeze
  dsimp only
  rw [unusable_rowFrozen]
  rfl

theorem exec_freezeValue_of_none {s : State} {x row : Nat} (sender : Nat) (v : Option (List Byte))
    (h : (stackAt s x).recons.find? (fun r => r.row == row) = none) : exec (.freezeValue x row sender v) s = .next s := by
  refine congrArg Host.Outcome.next ?_
  simp only [h]

/-- The reconstruction with one more answer. -/
def gathered (rc : Recon) (row sender : Nat) (v : Option (List Byte)) : Recon :=
  { rc with vals := aset rc.vals sender (v.getD []), failed := rc.failed || (v.isNone && !(lineOf row sender == rc.line)) }

/-- The row's reconstruction replaced at its parity controller. -/
def withRecon (s : State) (x row : Nat) (rc : Recon) : State :=
  modStack s x (fun k => { k with recons := k.recons.map (fun q => if q.row = row then rc else q) })

theorem survivors_modStack (s : State) (x row : Nat) {f : Stack → Stack} (h : ∀ k, (f k).lost = k.lost) :
    survivors (modStack s x f) row = survivors s row := by
  unfold survivors
  refine List.filter_congr fun y _ => ?_
  rw [stackAt_modStack_keeps Stack.lost s x y h]

theorem survivors_withRecon (s : State) (x row : Nat) (rc : Recon) : survivors (withRecon s x row rc) row = survivors s row :=
  survivors_modStack s x row (fun _ => rfl)

theorem exec_freezeValue_of_some {s : State} {x row : Nat} {rc : Recon} (sender : Nat) (v : Option (List Byte))
    (h : (stackAt s x).recons.find? (fun r => r.row == row) = some rc) : exec (.freezeValue x row sender v) s
      = .next (if (survivors s row).all (fun z => (aget (gathered rc row sender v).vals z).isSome)
          then retryRow (settleRecon (withRecon s x row (gathered rc row sender v)) x (gathered rc row sender v)) row
          else withRecon s x row (gathered rc row sender v)) := by
  rw [← survivors_withRecon s x row (gathered rc row sender v)]
  refine congrArg Host.Outcome.next ?_
  simp only [h]
  rfl

theorem exec_unfreeze (x row : Nat) (s : State) : exec (.unfreeze x row) s
    = .next (retryHeld (modStack s x (fun k => { k with frozen := k.frozen.filter (fun r => !(r == row)) })) x) := rfl

theorem retryHeld_one {s : State} {x n : Nat} {e : Instr} (h : (stackAt s x).held = [(n, e)]) :
    retryHeld s x = slicePacket (modStack s x (fun k => { k with held := [] })) e := by
  simp only [retryHeld, h]
  rfl

/-! ### Stack loss (R207, R208, R210) -/

theorem exec_stackLoss (x : Nat) (s : State) : exec (.stackLoss x) s = .next (loseStack s x) := rfl

/-- The record of a loss: the first is degraded mode, the second dual, a later one only counted. -/
def lossRecorded (s : State) (x : Nat) : State :=
  if s.mmio.lost0 = 0x1F then postLog { s with mmio := { s.mmio with lost0 := BitVec.ofNat 5 x, degr := true } } 0x0003 (x / 4) x 0
  else if s.mmio.lost1 = 0x1F then
    postLog (poisonStack (poisonStack { s with mmio := { s.mmio with lost1 := BitVec.ofNat 5 x, dual := true } } s.mmio.lost0.toNat) x)
      0x0004 (x / 4) x 0
  else postLog (poisonStack { s with mmio := { s.mmio with more := true } } x) 0x0004 (x / 4) x 0

theorem loseStack_of_lost {s : State} {x : Nat} (h : 16 ≤ x ∨ (stackAt s x).lost = true) : loseStack s x = s := if_pos h

theorem loseStack_of_present {s : State} {x : Nat} (hx : x < 16) (h : (stackAt s x).lost = false) :
    loseStack s x = dropStack (lossRecorded (modStack s x (fun k => { k with lost := true })) x) x :=
  if_neg (fun hc => hc.elim (Nat.not_le.2 hx) (ne_true_of_eq_false h))

/-- Settles O45, clause by clause along the packets. -/
theorem stackAndParitySteps : Obligations.StackAndParitySteps := by
  unfold Obligations.StackAndParitySteps
  intro s x line row sender r rc bytes bad v
  refine ⟨fun hin => ⟨fun h => ?_, fun hm hb hp hu => ?_, fun hm hb hd hp hc => ?_, fun hw => ?_, fun hw => ?_,
      fun hw hl he hp hq hd hn ht => ?_, fun hw hr hl hsc hh => ?_, fun hw hr hl hsc hh hb => ?_⟩, ?_, ?_, fun h => exec_freeze_lost row bad h,
    fun h => ?_, fun h => exec_freezeValue_of_none sender v h, fun h => ?_, fun h => ?_, fun n e h => ?_, fun h => ?_, fun hx hl => ?_⟩
  · rw [exec_hbmRead, slicePacket_read_held hin h]
    rfl
  · rw [exec_hbmRead, slicePacket_read hin hm hb, if_neg (by simp [hp, hu])]
  · rw [exec_hbmRead, slicePacket_read hin hm hb, if_pos (by simpa [hd] using hp.symm), hc, if_neg Bool.false_ne_true]
  · rw [exec_hbmWrite, slicePacket_write_held hin hw]
    rfl
  · rw [exec_hbmWrite, slicePacket_write hin hw]
  · have hlost : (stackAt s (dataStack line)).lost = false := by rw [← lineLost_eq_lost hin, hl]
    have hend := exec_hbmWrite line [] s
    rw [slicePacket_write hin hw, storeLine_deltaSent hin hl he hp hq hd ht, replied_deltaSent hlost hn] at hend
    refine ⟨_, hend, ?_, ?_, ?_, ?_⟩
    · rw [dramLine_modStack, dramLine_deltaSent]
    · rw [modStack_mem, mem_deltaSent]
    · rw [stackAt_modStack_self]
      exact cnt_deltaSent hlost
    · rw [modStack_net, net_deltaSent hlost]
  · rw [exec_hbmAtomic hw, slicePacket_atomic hin hw hr hl hsc, if_pos (by simpa using hh)]
  · rw [exec_hbmAtomic hw, slicePacket_atomic hin hw hr hl hsc, if_neg (by simp [hh, hb])]
  · refine ⟨_, exec_delta x row sender bytes s, ?_, fun hq => ?_, fun hl hb => parityLine_delta row bytes hl hb, fun hl => ?_⟩
    · exact (mem_freeTag _ x).trans (mem_deltaTaken row bytes)
    · rw [freeTag_of_none ((congrArg Stack.tagQ (stackAt_deltaTaken row bytes x)).trans hq)]
      exact congrArg (· ++ _) (net_deltaTaken row bytes)
    · rw [deltaTaken_of_lost row bytes hl]
      exact parity_freeTag s x
  · refine ⟨_, exec_dack x row s, ?_, fun h1 h0 => ?_⟩
    · have hcnt : sget 0 (stackAt (countAcked s x row) x).cnt row = sget 0 (stackAt s x).cnt row - 1 := by
        rw [countAcked, stackAt_modStack_self]
        exact sget_sset_self ..
      split
      · rw [stackAt_answerFreeze, hcnt]
      · exact hcnt
    · rw [if_neg (by simp; omega)]
      rfl
  · refine ⟨_, exec_freeze row bad h, ?_, fun h0 => ?_, fun h0 => ?_⟩
    · split
      · exact mem_frozen_rowFrozen s x row
      · exact mem_frozen_rowFrozen s x row
    · rw [cnt_rowFrozen, if_neg (by omega)]
      rfl
    · rw [cnt_rowFrozen, if_pos h0, net_answerFreeze_rowFrozen]
  · exact exec_freezeValue_of_some sender v h
  · have hheld : (stackAt (modStack s x (fun k => { k with frozen := k.frozen.filter (fun r => !(r == row)) })) x).held = [] := by
      rw [stackAt_modStack_self]
      exact h
    refine ⟨_, (exec_unfreeze x row s).trans (congrArg Host.Outcome.next (retryHeld_of_none hheld)), ?_, rfl, rfl⟩
    simp
  · have hheld : (stackAt (modStack s x (fun k => { k with frozen := k.frozen.filter (fun r => !(r == row)) })) x).held = [(n, e)] := by
      rw [stackAt_modStack_self]
      exact h
    rw [exec_unfreeze, retryHeld_one hheld, modStack_modStack]
  · rw [exec_stackLoss, loseStack_of_lost h]
  · rw [exec_stackLoss, loseStack_of_present hx hl]
    refine ⟨fun h0 => ?_, fun h0 h1 => ?_, fun h0 h1 => ?_⟩
    · exact congrArg (fun y => Host.Outcome.next (dropStack y x)) (if_pos h0)
    · exact congrArg (fun y => Host.Outcome.next (dropStack y x)) ((if_neg h0).trans (if_pos h1))
    · exact congrArg (fun y => Host.Outcome.next (dropStack y x)) ((if_neg h0).trans (if_neg h1))

end Sys2Proof.Proofs

/-! # The steps of copies, decanting, redirects and budget periods (R200, R201, R223, R260, R263, R266, R381, R405) -/

namespace Sys2Proof.Proofs

open Sys2Proof Sys2Proof.Machine Sys2Proof.Laws

/-! ### Copies (R223, R260, R263, R266) -/

section
variable {s : State} {id : Nat} {x : Copy}

theorem exec_copyStart (id : Nat) (s : State) : exec (.copyStart id) s = .next (copyStart s id) := rfl

theorem copyStart_begun (h : aget s.copies id = some x) (hx : x.st ≠ 0 ∨ x.count ≠ 0) : copyStart s id = s := by
  simp only [copyStart, h]
  exact if_pos hx

theorem not_parked (hp : x.pkt.isSome = true ∨ ctxParked s x.pasid = false) : ¬ (x.pkt.isNone && ctxParked s x.pasid) = true := by
  obtain hp | hp := hp
  · simp [Option.isSome_iff_ne_none.1 hp]
  · simp [hp]

theorem copyStart_waits (h : aget s.copies id = some x) (h0 : x.st = 0) (hc : x.count = 0) (hp : x.pkt.isSome = true ∨ ctxParked s x.pasid = false)
    (hf : freeEngine s x.die = none) : copyStart s id = after s 16 (.copyStart id) := by
  simp only [copyStart, h, hf]
  rw [if_neg (by simp [h0, hc]), if_neg (not_parked hp)]

theorem copyStart_starts {e : Nat} (h : aget s.copies id = some x) (h0 : x.st = 0) (hc : x.count = 0)
    (hp : x.pkt.isSome = true ∨ ctxParked s x.pasid = false) (hf : freeEngine s x.die = some e) : copyStart s id
      = send (modCopy s id (fun y => { y with st := 1, engine := e })) (engineAgent x.die) (engineAgent x.die) (.engineChunkStart id) := by
  simp only [copyStart, h, hf]
  rw [if_neg (by simp [h0, hc]), if_neg (not_parked hp)]

theorem exec_engineChunkStart (id : Nat) (s : State) : exec (.engineChunkStart id) s = .next (engineChunk s id) := rfl

/-- The run of an engine chunk from the copy's position. -/
def chunkRun (s : State) (x : Copy) : CopyRun :=
  copyRun x (copyTotal x - x.pos) { s := s, pos := x.pos, scale := x.scale, lines := [], out := [], err := none }

/-- An engine chunk that has asked no Press yet. -/
def chunkFirst (s : State) (id : Nat) (x : Copy) : State :=
  if !admits s (ctrKey 2 x.die 6) then after (refuseAdmission s (ctrKey 2 x.die 6)) 64 (.engineChunkStart id)
  else if (chunkRun s x).err = some .wait ∧ !(chunkRun s x).out.isEmpty then after (copyWaits s (chunkRun s x).s) 64 (.engineChunkStart id)
  else if (runLines (chunkRun s x)).isEmpty then
    landRun s id x { chunkRun s x with s := charge (chunkRun s x).s (ctrKey 2 x.die 6) (chunkRun s x).lines.length }
  else askPress (charge (copyWaits s (chunkRun s x).s) (ctrKey 2 x.die 6) (chunkRun s x).lines.length) (copyRef id) (runLines (chunkRun s x))
    (.engineChunkStart id)

/-- An engine chunk whose Presses have been asked. -/
def chunkAsked (s : State) (id : Nat) (x : Copy) (a : PressAsk) : State :=
  if !a.toGrant.isEmpty then s
  else if !((runLines (chunkRun s x)).all (fun l => decide (l ∈ a.lines))) then
    askPress (askOver (copyWaits s (chunkRun s x).s) (copyRef id)) (copyRef id) (runLines (chunkRun s x)) (.engineChunkStart id)
  else if heldByLive s (sigOf a.lines) none || (chunkRun s x).out.any (fun e => beyond e.1 && (extByte s e.1).isSome) then
    after s 4 (.engineChunkStart id)
  else landRun s id x (chunkRun s x)

theorem engineChunk_stopped (h : aget s.copies id = some x)
    (hx : x.st ≠ 1 ∨ (x.pkt = none ∧ (ctxParked s x.pasid = true ∨ s.fw.dumping.isSome = true))) :
    engineChunk s id = askOver s (copyRef id) := by
  simp only [engineChunk, h]
  exact if_pos (by simpa using hx)

theorem not_stopped (h1 : x.st = 1) (hp : x.pkt.isSome = true ∨ (ctxParked s x.pasid = false ∧ s.fw.dumping = none)) :
    ¬ (x.st ≠ 1 ∨ (x.pkt.isNone = true ∧ (ctxParked s x.pasid = true ∨ s.fw.dumping.isSome = true))) := by
  obtain hp | ⟨hp, hd⟩ := hp
  · have hp' : x.pkt ≠ none := Option.isSome_iff_ne_none.1 hp
    simp [h1, hp']
  · simp [h1, hp, hd]

theorem engineChunk_first (h : aget s.copies id = some x) (h1 : x.st = 1)
    (hp : x.pkt.isSome = true ∨ (ctxParked s x.pasid = false ∧ s.fw.dumping = none)) (ha : askOf s (copyRef id) = none) :
    engineChunk s id = chunkFirst s id x := by
  simp only [engineChunk, h, ha]
  exact if_neg (not_stopped h1 hp)

theorem engineChunk_asked {a : PressAsk} (h : aget s.copies id = some x) (h1 : x.st = 1)
    (hp : x.pkt.isSome = true ∨ (ctxParked s x.pasid = false ∧ s.fw.dumping = none)) (ha : askOf s (copyRef id) = some a) :
    engineChunk s id = chunkAsked s id x a := by
  simp only [engineChunk, h, ha]
  exact if_neg (not_stopped h1 hp)

/-- The writes of a run become visible and the copy's position moves. -/
def runLanded (id : Nat) (r : CopyRun) : State :=
  modCopy (performWrite (askOver r.s (copyRef id)) none (r.out.map (fun e => (homePa e.1, e.2)))) id
    (fun y => { y with pos := r.pos, scale := r.scale })

theorem landRun_ok {r : CopyRun} (h : r.err = none) : landRun s id x r =
    if copyTotal x ≤ r.pos then send (runLanded id r) (engineAgent x.die) (engineAgent x.die) (.copyComplete id)
    else after (runLanded id r) 48 (.engineChunkStart id) := by
  simp only [landRun, h]
  rfl

theorem landRun_fault {r : CopyRun} {cause addr : Nat} {wr : Bool} (h : r.err = some (.fault cause addr false wr)) :
    landRun s id x r = copyEndFault (runLanded id r) id (copyRecord s { x with pos := r.pos } cause addr false wr) := by
  simp only [landRun, h]
  rfl

theorem exec_copyComplete (id : Nat) (s : State) : exec (.copyComplete id) s = .next (copyComplete s id) := rfl

theorem copyComplete_plain (h : aget s.copies id = some x) (h1 : x.st = 1) (ht : copyTotal x ≤ x.pos) (hp : x.pkt = none) :
    copyComplete s id = copyOver { s with copies := adel s.copies id } x 0 := by
  simp only [copyComplete, h, hp]
  exact if_neg (fun hc => hc.elim (fun h => h h1) (Nat.not_lt.2 ht))

theorem copyComplete_packet {q n : Nat} (h : aget s.copies id = some x) (h1 : x.st = 1) (ht : copyTotal x ≤ x.pos) (hp : x.pkt = some (q, n)) :
    copyComplete s id = completePacket { s with copies := adel s.copies id } q n := by
  simp only [copyComplete, h, hp]
  exact if_neg (fun hc => hc.elim (fun h => h h1) (Nat.not_lt.2 ht))

end

/-- A CPY element writes the bytes it read (R260, R263). -/
theorem copyElem_cpy {s s1 s2 : State} {x : Copy} {pos : Nat} {vec : List Nat} {bs : List Byte} {ls : List Loc} (out : List (Nat × Byte))
    (hk : cpyKind x.desc = 0) (ho : cpyOp x.desc = 0) (hv : vecOf (copyCounts x.desc) pos = vec)
    (hr : copyRead s x (cpySscr x.desc) (clDw x.desc 0 + BitVec.ofInt 64 (strideSum vec ((List.range 5).map (cpySst x.desc)))) (2 ^ cpyEsz x.desc)
      = (.ok bs, s1))
    (hl : copyLocs s1 x (cpyDscr x.desc) true (clDw x.desc 1 + BitVec.ofInt 64 (strideSum vec ((List.range 5).map (cpyDst x.desc))))
      (2 ^ cpyEsz x.desc) = (.ok ls, s2)) :
    copyElem s x out pos = (.ok (ls.zip bs, x.scale), s2) := by
  have hc : cpyElem s x vec = (.ok (ls.zip bs), s2) := by
    unfold cpyElem
    dsimp only
    rw [if_pos ho, hr]
    dsimp only
    rw [hl]
  unfold copyElem
  dsimp only
  rw [if_pos hk, hv, hc]
  rfl

/-! ### Decanting (R200, R201, R381) -/

section
variable {s : State} {line h : Nat}

theorem exec_decant (line : Nat) (hs : List Nat) (s : State) : exec (.decant line hs) s = .next (decantLine s line hs) := rfl

theorem decantLine_cold (hc : hotLine s line = false ∨ line ∈ s.wroteWin) : decantLine s line [h] = s :=
  if_pos (by obtain hc | hc := hc <;> simp [hc])

/-- The window of a line begins again, and the push is counted. -/
def decantBegun (s : State) (line : Nat) : State := dieCtr { s with readWin := adel s.readWin line } (homeDie line) 3 1

theorem admits_decantBegun : admits (decantBegun s line) (ctrKey 2 (homeDie line) 9) = admits s (ctrKey 2 (homeDie line) 9) := by
  have hne : ∀ i, i ≠ 3 → ctrKey 2 (homeDie line) i ≠ ctrKey 2 (homeDie line) 3 := fun i hi he => by
    unfold ctrKey at he
    omega
  have hused := ctrGet_ctrAdd_ne { s with readWin := adel s.readWin line } 1 (hne 9 (by decide))
  have hlimit := ctrGet_ctrAdd_ne { s with readWin := adel s.readWin line } 1 (hne 10 (by decide))
  exact congrArg₂ (fun a b : Dword => decide (a.toNat < b.toNat)) hused hlimit

theorem decantLine_hot (hin : inHbm (128 * line) = true) (hh : helperOk line h = true) (hr : ∀ r ∈ s.replicas, r.1 ≠ line)
    (hn : s.net.any (decantMsg line) = false) (hot : hotLine s line = true) (hw : line ∉ s.wroteWin)
    (ha : admits s (ctrKey 2 (homeDie line) 9) = true) :
    decantLine s line [h] = send (charge (decantBegun s line) (ctrKey 2 (homeDie line) 9) 1) (sliceAgent (homeSlice line)) (sliceAgent h)
      (.decantPushDone line h) := by
  have hrep : s.replicas.any (fun e => e.1 == line) = false := by
    rw [List.any_eq_false]
    exact fun r hm => by simpa using hr r hm
  refine (if_neg (by simp [hin, hh, hrep, hn, hot, hw])).trans ((if_neg (by simp [ha])).trans ?_)
  exact if_pos ((admits_decantBegun).trans ha)

theorem exec_decantPushDone (line h : Nat) (s : State) : exec (.decantPushDone line h) s
    = .next ((redirectNis line h).foldl (fun s n => send s (sliceAgent (homeSlice line)) (6000 + n) (.redirectInstall n line h))
      (addReplica s line h)) := rfl

theorem mem_replicas_addReplica (s : State) (line h : Nat) : (line, h) ∈ (addReplica s line h).replicas :=
  List.mem_append_right _ (List.mem_singleton_self _)

theorem replicas_foldl_send (ns : List Nat) (src : Nat) (dst : Nat → Nat) (e : Nat → Instr) (s : State) :
    (ns.foldl (fun s n => send s src (dst n) (e n)) s).replicas = s.replicas := by
  induction ns generalizing s with
  | nil => rfl
  | cons n ns ih => exact ih _

theorem net_foldl_send (ns : List Nat) (src : Nat) (dst : Nat → Nat) (e : Nat → Instr) (s : State) :
    (ns.foldl (fun s n => send s src (dst n) (e n)) s).net = s.net ++ ns.map (fun n => { src := src, dst := dst n, ev := e n }) := by
  induction ns generalizing s with
  | nil => simp
  | cons n ns ih => simp [ih]

theorem exec_redirectInstall (ni line h : Nat) (s : State) : exec (.redirectInstall ni line h) s = .next (installRedirect s ni line h) := rfl

/-- The redirects that an entry replaces the one of its line in, less the oldest of a full set. -/
def redirectRoom (s : State) (ni line : Nat) : List (Nat × Nat × Nat) :=
  let rs := s.redirects.filter (fun e => !(e.1 == ni && e.2.1 == line))
  let mates := rs.filter (fun e => e.1 == ni && e.2.1 % 32 == line % 32)
  if 4 ≤ mates.length then
    match mates with
    | [] => rs
    | old :: _ => rs.filter (fun e => decide (e ≠ old))
  else rs

theorem installRedirect_of_notMem {ni : Nat} (hm : (line, h) ∉ s.replicas) : installRedirect s ni line h = s := if_pos hm

theorem installRedirect_of_mem {ni : Nat} (hm : (line, h) ∈ s.replicas) :
    installRedirect s ni line h = { s with redirects := redirectRoom s ni line ++ [(ni, line, h)] } := if_neg (fun hn => hn hm)

theorem redirectRoom_subset (s : State) (ni line : Nat) : redirectRoom s ni line ⊆ s.redirects.filter (fun e => !(e.1 == ni && e.2.1 == line)) := by
  unfold redirectRoom
  dsimp only
  split
  · split
    · exact List.Subset.refl _
    · exact List.filter_subset_self _
  · exact List.Subset.refl _

theorem redirectRoom_filter (s : State) (ni line : Nat) : (redirectRoom s ni line).filter (fun e => e.1 == ni && e.2.1 == line) = [] := by
  rw [List.filter_eq_nil_iff]
  intro e he
  have hne := List.of_mem_filter (redirectRoom_subset s ni line he)
  simpa [imp_iff_not_or] using hne

theorem exec_revocation (line : Nat) (s : State) : exec (.revocation line) s = .next (revoke s line) := rfl

/-- A revocation leaves no trace of the line (R201). -/
theorem revoke_leaves (s : State) (line : Nat) : (∀ r ∈ (revoke s line).replicas, r.1 ≠ line) ∧ (∀ r ∈ (revoke s line).redirects, r.2.1 ≠ line)
    ∧ (revoke s line).net.any (decantMsg line) = false ∧ (revoke s line).mem = s.mem := by
  unfold revoke
  split
  · next hall =>
    simp only [Bool.and_eq_true, List.all_eq_true, Bool.not_eq_true', beq_eq_false_iff_ne] at hall
    obtain ⟨⟨hrep, hred⟩, hnet⟩ := hall
    exact ⟨hrep, hred, hnet, rfl⟩
  · refine ⟨fun r hr => ?_, fun r hr => ?_, ?_, rfl⟩
    · simpa using List.of_mem_filter hr
    · simpa using List.of_mem_filter hr
    · exact List.any_eq_false.2 fun m hm => by simpa using List.of_mem_filter hm

end

/-! ### Budget periods (R405) -/

theorem ctrGet_ctrPut_self (s : State) (k : Nat) (v : Dword) : ctrGet (ctrPut s k v) k = v := by
  unfold ctrGet ctrPut
  rw [sget_sset_self]
  split
  · next h => exact h.symm
  · rfl

/-- The counters of a list set to zero. -/
def zeroCounters (ks : List Nat) (s : State) : State := ks.foldl (fun s k => ctrPut s k 0) s

theorem ctrGet_zeroCounters (ks : List Nat) (s : State) (k : Nat) : ctrGet (zeroCounters ks s) k = if k ∈ ks then 0 else ctrGet s k := by
  induction ks generalizing s with
  | nil => rfl
  | cons j ks ih =>
    refine (ih (ctrPut s j 0)).trans ?_
    by_cases hk : k ∈ ks
    · rw [if_pos hk, if_pos (List.mem_cons_of_mem _ hk)]
    · rw [if_neg hk]
      by_cases hj : k = j
      · subst hj
        rw [ctrGet_ctrPut_self, if_pos List.mem_cons_self]
      · rw [ctrGet_ctrPut_ne s 0 hj, if_neg (by simp [hk, hj])]

/-- What decides a budget period's counters and its next start: the counters and the clocks. -/
def periodView (s : State) : Sparse (Option Dword) × Nat × Sparse Nat := (s.ctr, s.clk, s.skew)

/-- Two states count the die's budgets alike and have the same clocks. -/
def SamePeriod (d : Nat) (s t : State) : Prop := (∀ k ∈ usedKeys d, ctrGet t k = ctrGet s k) ∧ t.clk = s.clk ∧ t.skew = s.skew

theorem SamePeriod.trans {d : Nat} {s t u : State} (h : SamePeriod d s t) (h' : SamePeriod d t u) : SamePeriod d s u :=
  ⟨fun k hk => (h'.1 k hk).trans (h.1 k hk), h'.2.1.trans h.2.1, h'.2.2.trans h.2.2⟩

theorem samePeriod_of_view {d : Nat} {s t : State} (h : periodView t = periodView s) : SamePeriod d s t := by
  simp only [periodView, Prod.mk.injEq] at h
  exact ⟨fun k _ => ctrGet_congr h.1 k, h.2⟩

theorem mem_usedKeys {d k : Nat} (h : k ∈ usedKeys d) : k % 16 = 2 ∨ k % 16 = 3 ∨ ∃ t < 64, k = ctrKey 1 (64 * d + t) 14 ∨ k = ctrKey 1 (64 * d + t) 17 := by
  simp only [usedKeys, List.mem_append, List.mem_cons, List.not_mem_nil, or_false, List.mem_flatMap, List.mem_range] at h
  obtain (h | ⟨t, ht, h⟩) | ⟨t, -, h⟩ := h
  · left
    unfold ctrKey at h
    omega
  · exact .inr (.inr ⟨t, ht, h⟩)
  · right; left
    unfold ctrKey at h
    omega

theorem usedKeys_ne_refused {d k t : Nat} (ht : t < 64) (h : k ∈ usedKeys d) : k ≠ ctrKey 1 (64 * d + t) 14 + 8192 := by
  intro he
  obtain h | h | ⟨u, hu, h⟩ := mem_usedKeys h <;> unfold ctrKey at * <;> omega

theorem usedKeys_ne_global {d k : Nat} (h : k ∈ usedKeys d) : k ≠ ctrKey 7 0 3 := by
  intro he
  obtain h | h | ⟨u, hu, h⟩ := mem_usedKeys h <;> unfold ctrKey at * <;> omega

theorem samePeriod_refuseAdmission (s : State) {d t : Nat} (ht : t < 64) : SamePeriod d s (refuseAdmission s (ctrKey 1 (64 * d + t) 14)) := by
  refine ⟨fun k hk => ctrGet_refuseAdmission_ne s (usedKeys_ne_refused ht hk), ?_⟩
  unfold refuseAdmission
  split
  · exact ⟨rfl, rfl⟩
  · exact ⟨rfl, rfl⟩

theorem periodView_markReady (s : State) (c : Nat) : periodView (markReady s c) = periodView s := by
  unfold markReady
  split <;> rfl

/-- The engine's operations that are ready are begun, once each. -/
def sendReady (c : Nat) (ops : List EngOp) (s : State) : State :=
  ops.foldl (fun s o => if s.net.any (fun m => decide (m.ev = .engineOpComplete c o.order)) then s
    else send s c c (.engineOpComplete c o.order)) s

theorem periodView_sendReady (c : Nat) (ops : List EngOp) (s : State) : periodView (sendReady c ops s) = periodView s := by
  induction ops generalizing s with
  | nil => rfl
  | cons o ops ih =>
    refine (ih _).trans ?_
    dsimp only
    split <;> rfl

theorem samePeriod_engineKick (s : State) {d t : Nat} (ht : t < 64) : SamePeriod d s (engineKick s (64 * d + t)) := by
  unfold engineKick
  extract_lets z
  have hz : SamePeriod d s z := samePeriod_of_view (periodView_markReady s _)
  split
  · exact hz
  next y _ =>
    have hy : SamePeriod d s y := hz.trans (samePeriod_of_view (periodView_sendReady _ _ z))
    split
    · exact hy
    split
    · exact hy
    · split
      · exact hy.trans (samePeriod_refuseAdmission y ht)
      · exact hy

/-- The engines of a die's cores are tried again. -/
def kickCores (cs : List Nat) (s : State) : State := cs.foldl (fun s c => if (coreAt s c).ops.isEmpty then s else engineKick s c) s

theorem samePeriod_kickCores (s : State) (d : Nat) : SamePeriod d s (kickCores ((List.range 64).map (64 * d + ·)) s) := by
  refine List.foldlRecOn (motive := fun z => SamePeriod d s z) _ _ (samePeriod_of_view rfl) fun z hz c hc => ?_
  obtain ⟨t, ht, rfl⟩ := List.mem_map.1 hc
  split
  · exact hz
  · exact hz.trans (samePeriod_engineKick z (List.mem_range.1 ht))

theorem periodView_drainLog {s : State} (h : s.mmio.logWait = []) : periodView (drainLog s) = periodView s := by
  unfold drainLog
  rw [h]
  rfl

theorem mmio_zeroCounters (ks : List Nat) (s : State) : (zeroCounters ks s).mmio = s.mmio := by
  induction ks generalizing s with
  | nil => rfl
  | cons k ks ih => exact ih _

theorem clocks_zeroCounters (ks : List Nat) (s : State) : (zeroCounters ks s).clk = s.clk ∧ (zeroCounters ks s).skew = s.skew := by
  induction ks generalizing s with
  | nil => exact ⟨rfl, rfl⟩
  | cons k ks ih => exact ih _

/-- Die 0 counts the period itself. -/
def countPeriod (d : Nat) (s : State) : State := if d = 0 then ctrAdd s (ctrKey 7 0 3) 1 else s

theorem ctrGet_countPeriod {d k : Nat} (s : State) (h : k ∈ usedKeys d) : ctrGet (countPeriod d s) k = ctrGet s k := by
  unfold countPeriod
  split
  · exact ctrGet_ctrAdd_ne _ 1 (usedKeys_ne_global h)
  · rfl

theorem countPeriod_keeps (d : Nat) (s : State) :
    (countPeriod d s).mmio = s.mmio ∧ (countPeriod d s).clk = s.clk ∧ (countPeriod d s).skew = s.skew := by
  unfold countPeriod
  split <;> exact ⟨rfl, rfl, rfl⟩

theorem exec_budgetPeriod {s : State} {d : Nat} (h : timerSet s (.budgetPeriod d) = false) :
    exec (.budgetPeriod d) s = .next (startPeriod s d) := congrArg Host.Outcome.next (if_neg (ne_true_of_eq_false h))

/-- The state in which the next period of die `d`, whose counters are `ks`, is set. -/
def periodKicked (ks : List Nat) (s : State) (d : Nat) : State :=
  kickCores ((List.range 64).map (64 * d + ·))
    (drainLog (countPeriod d (zeroCounters ks { s with shorted := s.shorted.filter (fun k => !(decide (k ∈ ks))) })))

theorem startPeriod_eq (s : State) (d : Nat) : startPeriod s d =
    after (periodKicked (usedKeys d) s d) (11264 - (cycles (periodKicked (usedKeys d) s d) d).toNat % 11264) (.budgetPeriod d) := rfl

/-- A period's counters are 0, and the clocks are those of the state before. -/
theorem periodKicked_spec {s : State} {d : Nat} {ks : List Nat} (hks : ∀ k ∈ ks, k ∈ usedKeys d) (h : s.mmio.logWait = []) :
    (∀ k ∈ ks, ctrGet (periodKicked ks s d) k = 0) ∧ (periodKicked ks s d).clk = s.clk ∧ (periodKicked ks s d).skew = s.skew := by
  unfold periodKicked
  generalize hz : zeroCounters ks { s with shorted := s.shorted.filter (fun k => !(decide (k ∈ ks))) } = z
  obtain ⟨hmmio, hclk, hskew⟩ := countPeriod_keeps d z
  have hwait : (countPeriod d z).mmio.logWait = [] := by rw [hmmio, ← hz, mmio_zeroCounters]; exact h
  have hclocks := clocks_zeroCounters ks { s with shorted := s.shorted.filter (fun k => !(decide (k ∈ ks))) }
  rw [hz] at hclocks
  obtain ⟨hctr, hc, hs⟩ := (samePeriod_of_view (d := d) (periodView_drainLog hwait)).trans (samePeriod_kickCores _ d)
  refine ⟨fun k hk => ?_, hc.trans (hclk.trans hclocks.1), hs.trans (hskew.trans hclocks.2)⟩
  rw [hctr k (hks k hk), ctrGet_countPeriod z (hks k hk), ← hz, ctrGet_zeroCounters, if_pos hk]

/-- The part of a run that waits for a translation with writes of its own (R263). -/
theorem waits_partly_iff (r : CopyRun) : (r.err = some .wait ∧ (!r.out.isEmpty) = true) ↔ (r.err = some .wait ∧ r.out ≠ []) := by simp

/-- Settles O44, clause by clause along the steps. -/
theorem copyDecantAndBudgetSteps : Obligations.CopyDecantAndBudgetSteps := by
  unfold Obligations.CopyDecantAndBudgetSteps
  intro s id e d line h ni x
  refine ⟨fun hx => ⟨fun h0 hc hp => ⟨fun hf => ?_, fun hf => ?_⟩, fun hb => ?_, fun h1 hp => ⟨fun ha hadm => ?_,
      fun ha hadm => ⟨fun hw => ?_, fun hw hl => ?_, fun hw hl => ?_⟩, fun a ha => ⟨fun hg => ?_, fun hg hl => ⟨fun hm => ?_, fun hm => ?_⟩,
        fun hg hl => ?_⟩⟩,
      fun r => ⟨fun hr => landRun_ok hr, fun cause addr wr hr => landRun_fault hr⟩, fun hs => ?_, fun h1 ht hp => ?_, fun q n h1 ht hp => ?_⟩,
    fun vec bs ls s1 s2 out hk ho hv hr hl => copyElem_cpy out hk ho hv hr hl, fun hin hh hr hn => ⟨fun hc => ?_, fun hot hw ha => ?_⟩, ?_,
    fun hm => ?_, fun hm => ?_, ?_, fun ht hl => ?_⟩
  · rw [exec_copyStart, copyStart_waits hx h0 hc hp hf]
    rfl
  · rw [exec_copyStart, copyStart_starts hx h0 hc hp hf]
  · rw [exec_copyStart, copyStart_begun hx hb]
  · rw [exec_engineChunkStart, engineChunk_first hx h1 hp ha]
    exact congrArg Host.Outcome.next (if_pos (by rw [hadm]; rfl))
  · rw [exec_engineChunkStart, engineChunk_first hx h1 hp ha]
    exact congrArg Host.Outcome.next ((if_neg (by simp [hadm])).trans (if_pos ((waits_partly_iff _).2 hw)))
  · rw [exec_engineChunkStart, engineChunk_first hx h1 hp ha]
    exact congrArg Host.Outcome.next ((if_neg (by simp [hadm])).trans ((if_neg fun hc => hw ((waits_partly_iff _).1 hc)).trans
      (if_pos (List.isEmpty_iff.2 hl))))
  · rw [exec_engineChunkStart, engineChunk_first hx h1 hp ha]
    exact congrArg Host.Outcome.next ((if_neg (by simp [hadm])).trans ((if_neg fun hc => hw ((waits_partly_iff _).1 hc)).trans
      (if_neg fun hc => hl (List.isEmpty_iff.1 hc))))
  · rw [exec_engineChunkStart, engineChunk_asked hx h1 hp ha]
    exact congrArg Host.Outcome.next (if_pos (by simpa using hg))
  · rw [exec_engineChunkStart, engineChunk_asked hx h1 hp ha]
    refine congrArg Host.Outcome.next ((if_neg (by simp [hg])).trans ((if_neg fun hc => ?_).trans (if_pos hm)))
    simp only [Bool.not_eq_true', ← Bool.not_eq_true, List.all_eq_true, decide_eq_true_eq] at hc
    exact hc hl
  · rw [exec_engineChunkStart, engineChunk_asked hx h1 hp ha]
    refine congrArg Host.Outcome.next ((if_neg (by simp [hg])).trans ((if_neg fun hc => ?_).trans (if_neg (ne_true_of_eq_false hm))))
    simp only [Bool.not_eq_true', ← Bool.not_eq_true, List.all_eq_true, decide_eq_true_eq] at hc
    exact hc hl
  · rw [exec_engineChunkStart, engineChunk_asked hx h1 hp ha]
    refine congrArg Host.Outcome.next ((if_neg (by simp [hg])).trans (if_pos ?_))
    obtain ⟨l, hl, hn⟩ := hl
    simp only [Bool.not_eq_true', ← Bool.not_eq_true, List.all_eq_true, decide_eq_true_eq]
    exact fun hall => hn (hall l hl)
  · rw [exec_engineChunkStart, engineChunk_stopped hx hs]
  · rw [exec_copyComplete, copyComplete_plain hx h1 ht hp]
  · rw [exec_copyComplete, copyComplete_packet hx h1 ht hp]
  · rw [exec_decant, decantLine_cold hc]
  · exact ⟨_, (exec_decant line [h] s).trans (congrArg Host.Outcome.next (decantLine_hot hin hh hr hn hot hw ha)), rfl, rfl⟩
  · refine ⟨_, exec_decantPushDone line h s, ?_, ?_⟩
    · rw [replicas_foldl_send (redirectNis line h) _ (6000 + ·) (.redirectInstall · line h)]
      exact mem_replicas_addReplica s line h
    · exact net_foldl_send (redirectNis line h) _ (6000 + ·) (.redirectInstall · line h) (addReplica s line h)
  · rw [exec_redirectInstall, installRedirect_of_notMem hm]
  · refine ⟨_, (exec_redirectInstall ni line h s).trans (congrArg Host.Outcome.next (installRedirect_of_mem hm)),
      List.mem_append_right _ (List.mem_singleton_self _), ?_⟩
    rw [List.filter_append, redirectRoom_filter]
    simp
  · exact ⟨_, exec_revocation line s, revoke_leaves s line⟩
  · obtain ⟨hctr, hclk, hskew⟩ := periodKicked_spec (ks := usedKeys d) (fun _ hk => hk) hl
    have hcyc : cycles (periodKicked (usedKeys d) s d) d = cycles s d := by rw [cycles, hclk, hskew, cycles]
    have hend := (exec_budgetPeriod ht).trans (congrArg Host.Outcome.next (startPeriod_eq s d))
    rw [hcyc] at hend
    generalize periodKicked (usedKeys d) s d = z at hend hctr hclk
    refine ⟨_, hend, fun k hk => (ctrGet_congr (after_ctr ..) k).trans (hctr k hk), ?_⟩
    rw [after_timers, hclk]
    exact List.mem_append_right _ (List.mem_singleton_self _)

end Sys2Proof.Proofs

/-! # Memory forms up to their accesses (R232, R233, R235, R241, R244)

A memory form checks its operands, reads them in order, and then accesses memory at the addresses that they give. Where no thread executes there is no
address, and what the access does hangs on none. -/

namespace Sys2Proof.Proofs

open Sys2Proof Sys2Proof.Machine Sys2Proof.Laws Sys2Proof.Claims

/-! ### Operands -/

/-- A computation that goes on with a source's values goes on with what every lane reads, if only executing threads' values matter to it. -/
theorem readSrc_bind {α : Type} {y : State} {c : Code} {ex : List Nat} (k : (Nat → Word) → M α) (hc : okSrc y c = true)
    (hidle : ex = [] → ∀ f g, k f = k g) : (readSrc c ex >>= k) y = k (srcVal y c) (srcStep y ex c) := by
  by_cases hex : ex = []
  · obtain ⟨f, hf, -⟩ := readSrc_plain (s := y) ex (okSrc_plain hc)
    rw [bind_ok hf, hidle hex f (srcVal y c)]
  · rw [bind_ok (readSrc_of_executing (okSrc_plain hc) hex)]

theorem globalAddr_bind {α : Type} {y : State} {a b : Code} {ex : List Nat} (k : (Nat → Dword) → M α) (ha : okPair y a = true)
    (hb : okSrc y b = true) (hidle : ex = [] → ∀ f g, k f = k g) :
    (globalAddr a b ex >>= k) y = k (globalAt y y a b) (srcStep y ex b) := by
  by_cases hex : ex = []
  · subst hex
    obtain ⟨f, hf⟩ := globalAddr_idle ha hb
    rw [bind_ok hf, hidle rfl f (globalAt y y a b)]
  · rw [bind_ok (globalAddr_run ha hb hex)]

theorem okSrc_srcStep (y : State) (ex : List Nat) (a b : Code) (h : issuing y = true) : okSrc (srcStep y ex a) b = okSrc y b := by
  unfold srcStep
  split
  · unfold okSrc inAlloc withRegs
    rw [curGroup_modCur _ h]
  · rfl

theorem scratchAddr_bind {α : Type} {y : State} {a b : Code} {ex : List Nat} (k : (Nat → Word) → M α) (h : issuing y = true)
    (ha : okSrc y a = true) (hb : okSrc y b = true) (hidle : ex = [] → ∀ f g, k f = k g) :
    (scratchAddr a b ex >>= k) y = k (scratchAt y (srcStep y ex a) a b) (srcStep (srcStep y ex a) ex b) := by
  rw [← okSrc_srcStep y ex a b h] at hb
  unfold scratchAddr
  by_cases hex : ex = []
  · obtain ⟨f, hf, -⟩ := readSrc_plain (s := y) ex (okSrc_plain ha)
    obtain ⟨g, hg, -⟩ := readSrc_plain (s := srcStep y ex a) ex (okSrc_plain hb)
    have hrun : (readSrc a ex >>= fun x => readSrc b ex >>= fun z => (pure (fun t => x t + z t) : M (Nat → Word))) y
        = .ok (fun t => f t + g t, srcStep (srcStep y ex a) ex b) := by
      rw [bind_ok hf, bind_ok hg, pure_run]
    rw [bind_ok hrun, hidle hex _ (scratchAt y (srcStep y ex a) a b)]
  · have hrun : (readSrc a ex >>= fun x => readSrc b ex >>= fun z => (pure (fun t => x t + z t) : M (Nat → Word))) y
        = .ok (scratchAt y (srcStep y ex a) a b, srcStep (srcStep y ex a) ex b) := by
      rw [bind_ok (readSrc_of_executing (okSrc_plain ha) hex), bind_ok (readSrc_of_executing (okSrc_plain hb) hex)]
      rfl
    rw [bind_ok hrun]

theorem readQuad_run (s : State) {c : Code} (h : quadCode c = true) : readQuad c s = .ok (quadVal s c, s) := by
  unfold readQuad
  rw [bind_ok (getG_run ..), pure_run]
  congr 2
  funext t
  unfold quadVal
  by_cases hz : c = 120
  · rw [if_pos hz, if_pos hz]
  · rw [if_neg hz, if_neg hz]
    simp only [quadCode, Bool.or_eq_true, Bool.and_eq_true, decide_eq_true_eq, beq_iff_eq, hz, or_false] at h
    have hval : ∀ i < 4, readVK (curGroup s).r (c + BitVec.ofNat 7 i) t = srcVal s (c + BitVec.ofNat 7 i) t := fun i hi =>
      readVK_eq s _ t (.inl (by rw [BitVec.toNat_add, BitVec.toNat_ofNat]; omega))
    have h0 := hval 0 (by decide)
    rw [show BitVec.ofNat 7 0 = 0#7 from rfl, BitVec.add_zero] at h0
    simp only [List.range_succ, List.range_zero, List.nil_append, List.cons_append, List.foldl_cons, List.foldl_nil]
    rw [show BitVec.ofNat 7 0 = 0#7 from rfl, BitVec.add_zero, h0, hval 1 (by decide), hval 2 (by decide), hval 3 (by decide)]
    simp

/-! ### Accesses without threads -/

theorem checkGlobal_idle (f : Form) (ea : Nat → Dword) : checkGlobal f [] ea = pure [] := List.mapM_nil

theorem checkScratch_idle (wr : Bool) (n : Nat) (sa : Nat → Word) : checkScratch wr n [] sa = pure [] := List.mapM_nil

theorem loadGlobal_idle (n : Nat) (ea ea' : Nat → Dword) : loadGlobal n [] ea = loadGlobal n [] ea' := by
  unfold loadGlobal
  rw [checkGlobal_idle, checkGlobal_idle]

theorem loadScratch_idle (n : Nat) (sa sa' : Nat → Word) : loadScratch n [] sa = loadScratch n [] sa' := by
  unfold loadScratch
  rw [checkScratch_idle, checkScratch_idle]

theorem storeScratch_idle (n : Nat) (sa sa' : Nat → Word) (v v' : Nat → Nat) : storeScratch n [] sa v = storeScratch n [] sa' v' := by
  unfold storeScratch performWrites
  rw [checkScratch_idle, checkScratch_idle, pure_bind, pure_bind]
  simp only [List.flatMap_nil]

/-! ### Global loads (R241, R242) -/

section
variable {s s2 : State} {p : Option Pfx} {d a b : Code}

theorem ldgM_run (n : Nat) (f : Nat → Word) {v : Nat → Nat} (h : issuing s = true) (ha : okPair s a = true) (hb : okSrc s b = true)
    (hd : okDst s d = true)
    (hload : loadGlobal n (execs s p) (globalAt (entered (unitLen p) s) (entered (unitLen p) s) a b)
      (srcStep (entered (unitLen p) s) (execs s p) b) = .ok (v, s2)) :
    ldgM p d a b n f (entered (unitLen p) s) = .ok ((), putWord s2 d (execs s p) (zeroed s p) (fun t => f (v t))) := by
  rw [← okPair_entered (unitLen p) h] at ha
  rw [← okSrc_entered (unitLen p) h] at hb
  rw [← okDst_entered (unitLen p) h] at hd
  unfold ldgM
  rw [bind_ok (checkOps_ok _ _ (by
      simp only [List.mem_cons, List.not_mem_nil, or_false, forall_eq_or_imp, forall_eq]
      exact ⟨opnd_dst hd, opnd_pair ha, opnd_src hb⟩)),
    bind_ok (execLanes_entered _ h p), bind_ok (zeroLanes_entered _ h p),
    globalAddr_bind _ ha hb (fun hex f g => by rw [hex, loadGlobal_idle]), bind_ok hload, writeDst_plain _ _ _ (okDst_plain hd)]

theorem ldg64M_run {v : Nat → Nat} (h : issuing s = true) (ha : okPair s a = true) (hb : okSrc s b = true) (hd : okPair s d = true)
    (hload : loadGlobal 8 (execs s p) (globalAt (entered (unitLen p) s) (entered (unitLen p) s) a b)
      (srcStep (entered (unitLen p) s) (execs s p) b) = .ok (v, s2)) :
    ldg64M p d a b (entered (unitLen p) s) = .ok ((), putPair s2 d (execs s p) (zeroed s p) (fun t => BitVec.ofNat 64 (v t))) := by
  rw [← okPair_entered (unitLen p) h] at ha hd
  rw [← okSrc_entered (unitLen p) h] at hb
  unfold ldg64M
  rw [bind_ok (checkOps_ok _ _ (by
      simp only [List.mem_cons, List.not_mem_nil, or_false, forall_eq_or_imp, forall_eq]
      exact ⟨opnd_pair hd, opnd_pair ha, opnd_src hb⟩)),
    bind_ok (execLanes_entered _ h p), bind_ok (zeroLanes_entered _ h p),
    globalAddr_bind _ ha hb (fun hex f g => by rw [hex, loadGlobal_idle]), bind_ok hload, writePair_run]

theorem ldg128M_run {v : Nat → Nat} (h : issuing s = true) (ha : okPair s a = true) (hb : okSrc s b = true) (hd : okQuad s d = true)
    (hload : loadGlobal 16 (execs s p) (globalAt (entered (unitLen p) s) (entered (unitLen p) s) a b)
      (srcStep (entered (unitLen p) s) (execs s p) b) = .ok (v, s2)) :
    ldg128M p d a b (entered (unitLen p) s) = .ok ((), putQuad s2 d (execs s p) (zeroed s p) v) := by
  rw [← okPair_entered (unitLen p) h] at ha
  rw [← okQuad_entered (unitLen p) h] at hd
  rw [← okSrc_entered (unitLen p) h] at hb
  unfold ldg128M
  rw [bind_ok (checkOps_ok _ _ (by
      simp only [List.mem_cons, List.not_mem_nil, or_false, forall_eq_or_imp, forall_eq]
      exact ⟨opnd_quad hd, opnd_pair ha, opnd_src hb⟩)),
    bind_ok (execLanes_entered _ h p), bind_ok (zeroLanes_entered _ h p),
    globalAddr_bind _ ha hb (fun hex f g => by rw [hex, loadGlobal_idle]), bind_ok hload]
  rfl

theorem ldkM_run_idle (h : issuing s = true) (ha : okPair s a = true) (hb : okSrc s b = true) (hd : okDst s d = true) (hex : execs s p = []) :
    ldkM p d a b (entered (unitLen p) s)
      = .ok ((), putWord (srcStep (entered (unitLen p) s) [] b) d [] (zeroed s p) (fun _ => 0)) := by
  rw [← okPair_entered (unitLen p) h] at ha
  rw [← okSrc_entered (unitLen p) h] at hb
  rw [← okDst_entered (unitLen p) h] at hd
  unfold ldkM
  rw [bind_ok (checkOps_ok _ _ (by
      simp only [List.mem_cons, List.not_mem_nil, or_false, forall_eq_or_imp, forall_eq]
      exact ⟨opnd_dst hd, opnd_pair ha, opnd_src hb⟩)),
    bind_ok (execLanes_entered _ h p), bind_ok (zeroLanes_entered _ h p), hex, globalAddr_bind _ ha hb (fun _ _ _ => rfl)]
  exact writeDst_plain _ _ _ (okDst_plain hd)

theorem ldkM_run {t n : Nat} {ts : List Nat} (h : issuing s = true) (ha : okPair s a = true) (hb : okSrc s b = true) (hd : okDst s d = true)
    (hex : execs s p = t :: ts)
    (hload : loadOne 4 t (globalAt (entered (unitLen p) s) (entered (unitLen p) s) a b t) true
      (srcStep (entered (unitLen p) s) (execs s p) b) = .ok (n, s2)) :
    ldkM p d a b (entered (unitLen p) s) = .ok ((), putWord s2 d (execs s p) (zeroed s p) (fun _ => BitVec.ofNat 32 n)) := by
  rw [← okPair_entered (unitLen p) h] at ha
  rw [← okSrc_entered (unitLen p) h] at hb
  rw [← okDst_entered (unitLen p) h] at hd
  rw [hex] at hload ⊢
  unfold ldkM
  rw [bind_ok (checkOps_ok _ _ (by
      simp only [List.mem_cons, List.not_mem_nil, or_false, forall_eq_or_imp, forall_eq]
      exact ⟨opnd_dst hd, opnd_pair ha, opnd_src hb⟩)),
    bind_ok (execLanes_entered _ h p), bind_ok (zeroLanes_entered _ h p), hex,
    globalAddr_bind _ ha hb (fun hnil => absurd hnil (List.cons_ne_nil t ts))]
  refine (bind_ok hload).trans ?_
  exact writeDst_plain _ _ _ (okDst_plain hd)

/-! ### Global stores (R244) -/

theorem okPair_srcStep (y : State) (ex : List Nat) (c e : Code) (h : issuing y = true) : okPair (srcStep y ex c) e = okPair y e := by
  unfold srcStep
  split
  · unfold okPair inAlloc withRegs
    rw [curGroup_modCur _ h]
  · rfl

theorem stg64M_run (h : issuing s = true) (ha : okPair s a = true) (hb : okSrc s b = true) (hd : okPair s d = true) :
    stg64M p d a b (entered (unitLen p) s) = storeGlobal 8 (execs s p) (globalAt (entered (unitLen p) s) (entered (unitLen p) s) a b)
      (fun t => (pairVal (srcStep (entered (unitLen p) s) (execs s p) b) d t).toNat) (srcStep (entered (unitLen p) s) (execs s p) b) := by
  rw [← okPair_entered (unitLen p) h] at ha hd
  rw [← okSrc_entered (unitLen p) h] at hb
  unfold stg64M
  rw [bind_ok (checkOps_ok _ _ (by
      simp only [List.mem_cons, List.not_mem_nil, or_false, forall_eq_or_imp, forall_eq]
      exact ⟨opnd_pair hd, opnd_pair ha, opnd_src hb⟩)),
    bind_ok (execLanes_entered _ h p), globalAddr_bind _ ha hb (fun hex f g => by
      rw [hex]
      exact congrArg (readPair d >>= ·) (funext fun v => storeGlobal_idle 8 f g _ _)),
    bind_ok (readPair_run _ _ (okPair_code hd))]

theorem okQuad_code {c : Code} (hd : okQuad s c = true) : quadCode c = true := (Bool.and_eq_true_iff.1 hd).1

theorem stg128M_run (h : issuing s = true) (ha : okPair s a = true) (hb : okSrc s b = true) (hd : okQuad s d = true) :
    stg128M p d a b (entered (unitLen p) s) = storeGlobal 16 (execs s p) (globalAt (entered (unitLen p) s) (entered (unitLen p) s) a b)
      (quadVal (srcStep (entered (unitLen p) s) (execs s p) b) d) (srcStep (entered (unitLen p) s) (execs s p) b) := by
  rw [← okPair_entered (unitLen p) h] at ha
  rw [← okQuad_entered (unitLen p) h] at hd
  rw [← okSrc_entered (unitLen p) h] at hb
  unfold stg128M
  rw [bind_ok (checkOps_ok _ _ (by
      simp only [List.mem_cons, List.not_mem_nil, or_false, forall_eq_or_imp, forall_eq]
      exact ⟨opnd_quad hd, opnd_pair ha, opnd_src hb⟩)),
    bind_ok (execLanes_entered _ h p), globalAddr_bind _ ha hb (fun hex f g => by
      rw [hex]
      exact congrArg (readQuad d >>= ·) (funext fun v => storeGlobal_idle 16 f g _ _)),
    bind_ok (readQuad_run _ (okQuad_code hd))]

end

/-! ### The shared meanings of the loads of at most 32 bits -/

theorem widenN_eq_setWidth (n v : Nat) : widenN n v = (BitVec.ofNat (8 * n) v).setWidth 32 := by
  apply BitVec.eq_of_toNat_eq
  simp [widenN]

theorem widenN_word (v : Nat) : widenN 4 v = BitVec.ofNat 32 v := by
  apply BitVec.eq_of_toNat_eq
  simp [widenN]

theorem loads32_shared (p : Option Pfx) (d a b : Code) (s : State) :
    ∀ e ∈ loads32, exec (e.1 p d a b) s = issueP p (ldgM p d a b e.2.1 e.2.2) s := by
  simp only [loads32, List.mem_cons, List.not_mem_nil, or_false, forall_eq_or_imp, forall_eq]
  refine ⟨rfl, ?_, rfl, ?_, ?_⟩
  · exact congrArg (fun f => issueP p (ldgM p d a b 1 f) s) (funext (widenN_eq_setWidth 1))
  · exact congrArg (fun f => issueP p (ldgM p d a b 2 f) s) (funext (widenN_eq_setWidth 2))
  · exact congrArg (fun f => issueP p (ldgM p d a b 4 f) s) (funext widenN_word)

/-! # What a global load reads (R217, R235, R241)

A load's performing pass brings lines to the core and enters them in the chunk's read signature; the bytes that the group sees stay. -/

/-! ### Lines that a read brings to its core (R188, R195, R199, R202) -/

theorem outer_countPacket (c : Nat) (s : State) (x row : Nat) : Outer c s (countPacket s x row) := by
  unfold countPacket
  split
  · exact .refl c s
  · exact .of_cores rfl rfl rfl rfl

theorem outer_l2Fill (c : Nat) (s : State) (line : Nat) : Outer c s (l2Fill s line) := by
  unfold l2Fill
  split
  · exact .refl c s
  · exact (outer_l2Room c s (homeSlice line)).trans (.of_cores rfl rfl rfl rfl)

theorem outer_l2Fetch (c : Nat) (s : State) (line : Nat) : Outer c s (l2Fetch s line) := by
  unfold l2Fetch
  split
  · exact .refl c s
  · exact (outer_countPacket ..).trans (outer_l2Fill ..)

theorem outer_serveRead (s : State) (c line : Nat) : Outer c s (serveRead s c line) := by
  unfold serveRead
  split
  · exact .refl c s
  · have hcount : Outer c s { s with readWin := aset s.readWin line (c :: (aget s.readWin line).getD []) } := .of_cores rfl rfl rfl rfl
    exact hcount.trans (outer_l2Fetch ..)

/-- A line's read is served, and then the core's copies change as a line without a read would change them. -/
theorem outer_servedCopies (s : State) (c line : Nat) {k : Core} (hk : standing k = standing (coreAt s c)) :
    Outer c s (dirAdd (setCore (serveRead s c line) c k) c line) := by
  have hserve := outer_serveRead s c line
  exact (hserve.trans (.setCore _ (hk.trans hserve.core.symm))).trans (outer_dirAdd _ c line)

theorem outer_takeValue_read (s : State) (c line : Nat) : Outer c s (takeValue s c line true) := by
  unfold takeValue
  split
  · exact .refl c s
  · exact ((outer_serveRead s c line).trans (outer_dirAdd _ c line)).trans (outer_leaveDir ..)

theorem outer_touchLine_read (s : State) (c line : Nat) : Outer c s (touchLine s c line true) := by
  have hput : ∀ l1, Outer c s (dirAdd (setCore (serveRead s c line) c { coreAt s c with l1 := l1 }) c line) :=
    fun l1 => outer_servedCopies s c line rfl
  unfold touchLine
  simp only [if_true]
  split
  · exact .refl c s
  split
  · exact outer_servedCopies s c line rfl
  split
  · exact hput _
  split
  · exact ((hput _).trans (outer_leaveL1 ..)).trans (outer_leaveDir ..)
  · exact ((outer_serveRead s c line).trans (outer_dirAdd _ c line)).trans (outer_leaveDir ..)

theorem outer_touchStash_read (s : State) (c line : Nat) : Outer c s (touchStash s c line true) := by
  unfold touchStash
  simp only [if_true]
  split
  · exact .refl c s
  split <;> exact outer_servedCopies s c line rfl

theorem outer_touchAll_read (s : State) (ls st : List Nat) (fill : Bool) : Outer s.cur.core s (touchAll s ls st true fill) := by
  unfold touchAll
  refine List.foldlRecOn (motive := Outer s.cur.core s) ls _ (.refl _ s) fun t ht l _ => ht.trans ?_
  rw [← ht.cur]
  split
  · exact outer_touchStash_read ..
  split
  · exact outer_touchLine_read ..
  · exact outer_takeValue_read ..

/-! ### The performing pass of a load (R235) -/

/-- The issuing group sees the same bytes: what it has buffered, the stores on their way and committed memory are the same. -/
structure SameView (s t : State) : Prop where
  cur : t.cur = s.cur
  mem : t.mem = s.mem
  extPend : t.extPend = s.extPend
  issuing : issuing t = issuing s
  done : (curGroup t).done = (curGroup s).done
  wr : (curGroup t).open_.wr = (curGroup s).open_.wr

namespace SameView

variable {s t u : State}

theorem trans (h : SameView s t) (k : SameView t u) : SameView s u :=
  ⟨k.cur.trans h.cur, k.mem.trans h.mem, k.extPend.trans h.extPend, k.issuing.trans h.issuing, k.done.trans h.done, k.wr.trans h.wr⟩

theorem of_outer (h : Outer s.cur.core s t) : SameView s t := by
  have hgroup : curGroup t = curGroup s := by
    unfold curGroup
    rw [h.cur, h.groupAt]
  have hissuing : Machine.issuing t = Machine.issuing s := by
    unfold Machine.issuing
    rw [h.cur, h.groupAt]
  exact ⟨h.cur, h.mem, h.extPend, hissuing, by rw [hgroup], by rw [hgroup]⟩

theorem modCur (s : State) {f : Group → Group} (hdone : ∀ g, (f g).done = g.done) (hwr : ∀ g, (f g).open_.wr = g.open_.wr) :
    SameView s (modCur s f) := by
  have hown := OwnGroup.modCur s f
  refine ⟨hown.cur, hown.mem, hown.extPend, hown.issuing, ?_, ?_⟩
  all_goals
    cases hs : Machine.issuing s with
    | true => rw [curGroup_modCur f hs]; simp only [hdone, hwr]
    | false =>
      have hnone : groupAt s s.cur.core s.cur.slot = none := by simpa [Machine.issuing] using hs
      rw [Machine.modCur, modGroup_of_none f hnone]

theorem seen (h : SameView s t) (a : Nat) : seen t a = seen s a := viewByte_buffered [] h.wr h.done h.mem h.extPend a

end SameView

/-- Where it completes, the computation leaves what the group sees. -/
structure Views {α : Type} (m : M α) : Prop where
  same : ∀ {s t : State} {a : α}, m s = .ok (a, t) → SameView s t

namespace Views

variable {α β : Type}

theorem bind {m : M α} {f : α → M β} (hm : Views m) (hf : ∀ a, Views (f a)) : Views (m >>= f) := ⟨fun h => by
  obtain ⟨a, x, hx, ht⟩ := exists_of_bind_ok h
  exact (hm.same hx).trans ((hf a).same ht)⟩

theorem of_outside {m : M α} (h : Outside m) : Views m := ⟨fun hm => .of_outer (h.outer hm)⟩

theorem modK {f : Chunk → Chunk} (hf : ∀ k, (f k).wr = k.wr) : Views (modK f) := ⟨fun {s t a} h => by
  have ht : withChunk s f = t := congrArg Prod.snd (Except.ok.inj h)
  rw [← ht]
  exact .modCur s (fun _ => rfl) fun _ => hf _⟩

end Views

theorem views_enterReads (pas st : List Nat) (fill : Bool) : Views (enterReads pas st fill) := ⟨fun {s t a} h => by
  unfold enterReads at h
  dsimp only at h
  split at h
  · exact absurd h nofun
  split at h
  · exact absurd h nofun
  split at h
  · exact absurd h nofun
  split at h
  · exact absurd h nofun
  split at h
  · exact absurd h nofun
  · injection h with h
    injection h with _ h
    subst h
    exact (SameView.of_outer (outer_touchAll_read s (trackedLines pas) st fill)).trans (.modCur _ (fun _ => rfl) fun _ => rfl)⟩

theorem views_enterChkReads (cs : List Chk) (fill : Bool) : Views (enterChkReads cs fill) := by
  unfold enterChkReads
  exact (Views.of_outside (outside_guardChange _)).bind fun _ => (Views.of_outside (.getS _)).bind fun _ =>
    (views_enterReads ..).bind fun _ => .modK fun _ => rfl

theorem outside_freshChoice (cs : List Chk) : Outside (freshChoice cs) := ⟨fun {s t a} h => by
  unfold freshChoice at h
  split at h
  · injection h with h
    have ht : (takeFree s).2 = t := congrArg Prod.snd h
    rw [← ht]
    exact outer_takeFree _ s
  · injection h with h
    have ht : s = t := congrArg Prod.snd h
    rw [← ht]
    exact .refl _ s⟩

/-- A load's performing pass changes no byte that the group sees, and gives each thread its access's value. -/
theorem performReads_spec {cs : List Chk} {fill : Bool} {s t : State} {v : Nat → Nat} (h : performReads cs fill s = .ok (v, t)) :
    SameView s t ∧ ∃ n, v = chkValue t n cs := by
  unfold performReads at h
  obtain ⟨_, x, hx, h⟩ := exists_of_bind_ok h
  obtain ⟨n, y, hy, h⟩ := exists_of_bind_ok h
  injection h with h
  injection h with hv ht
  subst ht
  exact ⟨((views_enterChkReads cs fill).same hx).trans ((Views.of_outside (outside_freshChoice cs)).same hy), n, hv.symm⟩

/-! ### The threads of checked accesses -/

theorem checkGlobal_lanes {f : Form} {ea : Nat → Dword} {ex : List Nat} {s t : State} {cs : List Chk}
    (h : checkGlobal f ex ea s = .ok (cs, t)) : cs.map (·.lane) = ex ∧ ∀ c ∈ cs, ∃ pas : List Nat, c.locs = pas.map .glob := by
  unfold checkGlobal at h
  induction ex generalizing s t cs with
  | nil =>
    injection h with h
    injection h with hcs _
    subst hcs
    exact ⟨rfl, fun c hc => absurd hc List.not_mem_nil⟩
  | cons lane ex ih =>
    rw [List.mapM_cons] at h
    obtain ⟨c, x, hc, h⟩ := exists_of_bind_ok h
    obtain ⟨⟨pas, mmio⟩, y, hy, hc⟩ := exists_of_bind_ok hc
    obtain ⟨cs', z, hz, h⟩ := exists_of_bind_ok h
    injection hc with hc
    injection hc with hc hx
    injection h with h
    injection h with hcs _
    subst hc hx hcs
    obtain ⟨hlanes, hlocs⟩ := ih hz
    refine ⟨by rw [List.map_cons, hlanes], fun c hc => ?_⟩
    rcases List.mem_cons.1 hc with rfl | hc
    · exact ⟨pas, rfl⟩
    · exact hlocs c hc

/-- Of accesses by different threads, the one that is looked up by its thread is found. -/
theorem find_lane {cs : List Chk} (hn : (cs.map (·.lane)).Nodup) {c : Chk} (hc : c ∈ cs) : cs.find? (fun x => x.lane == c.lane) = some c := by
  induction cs with
  | nil => exact absurd hc List.not_mem_nil
  | cons e cs ih =>
    rw [List.map_cons, List.nodup_cons] at hn
    rcases List.mem_cons.1 hc with rfl | hc
    · exact List.find?_cons_of_pos (by simp)
    · have hne : e.lane ≠ c.lane := fun he => hn.1 (he ▸ List.mem_map_of_mem hc)
      rw [List.find?_cons_of_neg (by simpa using hne), ih hn.2 hc]

theorem chkValue_of_mem (s : State) (n : Nat) {cs : List Chk} (hn : (cs.map (·.lane)).Nodup) {c : Chk} (hc : c ∈ cs) :
    chkValue s n cs c.lane = locsNat s n c.lane c.locs := by
  unfold chkValue
  rw [find_lane hn hc]

theorem locsNat_glob (s : State) (n t : Nat) (pas : List Nat) : locsNat s n t (pas.map .glob) = seenNat s pas := by
  unfold locsNat seenNat
  rw [List.map_map]
  rfl

/-! ### Loads of ordinary memory -/

theorem unitRead_nil (s : State) : unitRead s [] = some s := rfl

/-- A load of which no thread's access is an MMIO one is its performing pass. -/
theorem loadGlobal_plain {n : Nat} {ex : List Nat} {ea : Nat → Dword} {v : Nat → Nat} {s s1 t : State} {cs : List Chk}
    (hcheck : checkGlobal { n := n, mmioOk := n == 4 || n == 8 } ex ea s = .ok (cs, s1)) (hmem : ∀ c ∈ cs, c.mmio = false) :
    loadGlobal n ex ea s = .ok (v, t) ↔ performReads cs true s1 = .ok (v, t) := by
  have hany : cs.any (·.mmio) = false := by simpa using hmem
  have hnone : cs.filter (fun c => c.mmio && !inMmio (chkPa c)) = [] := by
    rw [List.filter_eq_nil_iff]
    intro c hc
    simp [hmem c hc]
  have hall : cs.filter (fun c => !c.mmio) = cs := by simpa using hmem
  have hfind : ∀ t, cs.find? (fun c => c.mmio && c.lane == t) = none := fun t => by
    rw [List.find?_eq_none]
    intro c hc
    simp [hmem c hc]
  have hframe : mmioFrame cs s1 = .ok ((), s1) := by
    unfold mmioFrame
    rw [hany]
    rfl
  have hfetch : mmioFetch cs s1 = .ok ((), s1) := by
    unfold mmioFetch
    dsimp only
    rw [hnone, List.flatMap_nil, unitRead_nil]
  unfold loadGlobal
  rw [bind_ok hcheck, bind_ok hframe, bind_ok hfetch, hall, bind_run]
  cases hread : performReads cs true s1 with
  | error e => exact Iff.rfl
  | ok r =>
    show (Except.ok _ : Except Stop ((Nat → Nat) × State)) = _ ↔ _
    simp only [hfind]

/-- Settles O19: the forms run to their access, whose values are the bytes that the group sees. -/
theorem globalAccessesAndValues : Obligations.GlobalAccessesAndValues := by
  unfold Obligations.GlobalAccessesAndValues
  refine ⟨⟨fun s s2 p d a b v h ha hb => ⟨fun hd e he hl => ?_, fun hd hl => ?_, fun hd hl => ?_, fun hd => ⟨fun hex => ?_, fun t n ht hl => ?_⟩⟩,
    fun s s3 p d a b h ha hb => ⟨fun hd e he hst => ?_, fun hd hst => ?_, fun hd hst => ?_⟩⟩,
    fun n ex ea s s1 t v cs hcheck hmem hn hl => ?_⟩
  · rw [loads32_shared p d a b s e he]
    exact issueP_ok h (ldgM_run e.2.1 e.2.2 h ha hb hd hl)
  · exact issueP_ok (m := ldg64M p d a b) h (ldg64M_run h ha hb hd hl)
  · exact issueP_ok (m := ldg128M p d a b) h (ldg128M_run h ha hb hd hl)
  · rw [hex]
    exact issueP_ok (m := ldkM p d a b) h (ldkM_run_idle h ha hb hd hex)
  · obtain ⟨ts, hts⟩ := List.head?_eq_some_iff.1 ht
    exact issueP_ok (m := ldkM p d a b) h (ldkM_run h ha hb hd hts hl)
  · rw [stores32_shared p d a b s e he]
    exact issueP_ok h ((stgM_run e.2 h ha hb hd).trans hst)
  · exact issueP_ok (m := stg64M p d a b) h ((stg64M_run h ha hb hd).trans hst)
  · exact issueP_ok (m := stg128M p d a b) h ((stg128M_run h ha hb hd).trans hst)
  · obtain ⟨hlanes, hlocs⟩ := checkGlobal_lanes hcheck
    obtain ⟨hview, k, rfl⟩ := performReads_spec ((loadGlobal_plain hcheck hmem).1 hl)
    refine ⟨hlanes, fun c hc => ?_, hview.seen, hview.mem⟩
    obtain ⟨pas, hpas⟩ := hlocs c hc
    rw [chkValue_of_mem t k (by rw [hlanes]; exact hn) hc, hpas, globsOf_glob, locsNat_glob]

end Sys2Proof.Proofs

/-! # The ordering instructions (R215, R230, R231, R257 to R259) -/

namespace Sys2Proof.Proofs

open Sys2Proof Sys2Proof.Machine Sys2Proof.Laws Sys2Proof.Claims

/-! ### Scopes (R215) -/

theorem scopeOk_of_le {c : Code} (h : c.toNat ≤ 9) : scopeOk c = true := decide_eq_true h

/-- The chunk as the scope of an instruction leaves it. -/
def scopeEnded (sc : Code) (x : State) : State := if 7 ≤ sc.toNat then ending x else x

theorem scopeEnd_run (sc : Code) (x : State) : scopeEnd sc x = .ok ((), scopeEnded sc x) := by
  unfold scopeEnd scopeEnded
  split <;> rfl

/-! ### Releasing stores (R230, R231, R257) -/

/-- Every earlier far access of the group in the slot has been performed, and no store is on its way. -/
def released (c slot : Nat) (x : State) : Prop := (curGroup x).done.any leavesLater = false ∧ extQuiet x c slot = true ∧ x.extPend = []

section
variable {x : State} {sc : Code} {cs : List Chk}

theorem releaseWait_pass (h : sc.toNat < 7 ∨ (cs.flatMap (fun c => globsOf c.locs)).all beyond = true
    ∨ (leavesLater (curGroup x).open_ = false ∧ released x.cur.core x.cur.slot x)) : releaseWait sc cs x = .ok ((), x) := by
  unfold releaseWait
  rw [bind_ok (getG_run ..), bind_ok (getS_run ..)]
  by_cases hout : sc.toNat < 7 ∨ (cs.flatMap (fun c => globsOf c.locs)).all beyond = true
  · rw [if_pos (by simpa using hout)]
    rfl
  · obtain ⟨hopen, hdone, hquiet, hext⟩ := (or_assoc.2 h).resolve_left hout
    rw [if_neg (by simpa using hout), hopen, if_neg Bool.false_ne_true, hdone, hquiet, hext]
    rfl

theorem releaseWait_stall (h7 : 7 ≤ sc.toNat) (hin : ¬ (cs.flatMap (fun c => globsOf c.locs)).all beyond = true)
    (hopen : leavesLater (curGroup x).open_ = false) (hleft : ¬ released x.cur.core x.cur.slot x) : releaseWait sc cs x = .error .stall := by
  have hfar : ¬ (decide (sc.toNat < 7) || (cs.flatMap (fun c => globsOf c.locs)).all beyond) = true := by
    rw [Bool.or_eq_true, decide_eq_true_eq]
    exact fun hc => hc.elim (Nat.not_lt.2 h7) hin
  have hwait : (!((curGroup x).done.any leavesLater || (!extQuiet x x.cur.core x.cur.slot || !x.extPend.isEmpty))) = false := by
    rw [Bool.eq_false_iff]
    intro hc
    simp only [Bool.not_eq_true', Bool.or_eq_false_iff, Bool.not_eq_false', List.isEmpty_iff] at hc
    exact hleft hc
  unfold releaseWait
  rw [bind_ok (getG_run ..), bind_ok (getS_run ..), if_neg hfar, hopen, if_neg Bool.false_ne_true, hwait]
  rfl

end

section
variable {s s2 s3 : State} {p : Option Pfx} {d a b : Code} {cs : List Chk}

/-- A STREL once its accesses are checked: it waits, stores and ends its scope. -/
def strelEnd (d : Code) (n : Nat) (cs : List Chk) (v : Nat → Nat) : M Unit := do
  releaseWait d cs
  performWrites cs n v (decide (7 ≤ d.toNat))
  scopeEnd d

theorem performWrites_idle (n : Nat) (v w : Nat → Nat) (rel : Bool) : performWrites [] n v rel = performWrites [] n w rel := by
  unfold performWrites
  simp only [List.flatMap_nil]

theorem strelM_run (h : issuing s = true) (ha : okPair s a = true) (hb : okSrc s b = true) (hd : d.toNat ≤ 9)
    (hcheck : checkGlobal { n := 4, wr := true, aligned := true } (execs s p) (pairVal (entered (unitLen p) s) a)
      (srcStep (entered (unitLen p) s) (execs s p) b) = .ok (cs, s2)) :
    strelM p d a b (entered (unitLen p) s) = strelEnd d 4 cs (fun t => (srcVal (entered (unitLen p) s) b t).toNat) s2 := by
  rw [← okPair_entered (unitLen p) h] at ha
  rw [← okSrc_entered (unitLen p) h] at hb
  unfold strelM
  rw [scopeOk_of_le hd, bind_ok (ensure_true ..), bind_ok (checkOps_ok _ _ (by
      simp only [List.mem_cons, List.not_mem_nil, or_false, forall_eq_or_imp, forall_eq]
      exact ⟨opnd_pair ha, opnd_src hb⟩)),
    bind_ok (execLanes_entered _ h p), bind_ok (readPair_run _ _ (okPair_code ha)),
    readSrc_bind _ hb (fun hex f g => by rw [hex, checkGlobal_idle, pure_bind, pure_bind, performWrites_idle 4 _ fun t => (g t).toNat]),
    bind_ok hcheck]
  rfl

theorem strel64M_run (h : issuing s = true) (ha : okPair s a = true) (hb : okPair s b = true) (hd : d.toNat ≤ 9)
    (hcheck : checkGlobal { n := 8, wr := true, aligned := true } (execs s p) (pairVal (entered (unitLen p) s) a)
      (entered (unitLen p) s) = .ok (cs, s2)) :
    strel64M p d a b (entered (unitLen p) s) = strelEnd d 8 cs (fun t => (pairVal (entered (unitLen p) s) b t).toNat) s2 := by
  rw [← okPair_entered (unitLen p) h] at ha hb
  unfold strel64M
  rw [scopeOk_of_le hd, bind_ok (ensure_true ..), bind_ok (checkOps_ok _ _ (by
      simp only [List.mem_cons, List.not_mem_nil, or_false, forall_eq_or_imp, forall_eq]
      exact ⟨opnd_pair ha, opnd_pair hb⟩)),
    bind_ok (execLanes_entered _ h p), bind_ok (readPair_run _ _ (okPair_code ha)), bind_ok (readPair_run _ _ (okPair_code hb)), bind_ok hcheck]
  rfl

theorem strelEnd_pass {n : Nat} {v : Nat → Nat} (hr : releaseWait d cs s2 = .ok ((), s2))
    (hw : performWrites cs n v (decide (7 ≤ d.toNat)) s2 = .ok ((), s3)) : strelEnd d n cs v s2 = .ok ((), scopeEnded d s3) := by
  unfold strelEnd
  rw [bind_ok hr, bind_ok hw, scopeEnd_run]

theorem strelEnd_stall {n : Nat} {v : Nat → Nat} (hr : releaseWait d cs s2 = .error .stall) : strelEnd d n cs v s2 = .error .stall := by
  unfold strelEnd
  rw [bind_error hr]

/-! ### Acquiring loads (R257) -/

theorem ldacqM_run {v : Nat → Nat} (h : issuing s = true) (ha : okPair s a = true) (hd : okDst s d = true) (hb : b.toNat ≤ 9)
    (hcheck : checkGlobal { n := 4, aligned := true } (execs s p) (pairVal (entered (unitLen p) s) a) (entered (unitLen p) s) = .ok (cs, s2))
    (hread : performReads cs true s2 = .ok (v, s3)) :
    ldacqM p d a b (entered (unitLen p) s)
      = .ok ((), putWord (scopeEnded b s3) d (execs s p) (zeroed s p) (fun t => BitVec.ofNat 32 (v t))) := by
  rw [← okPair_entered (unitLen p) h] at ha
  rw [← okDst_entered (unitLen p) h] at hd
  unfold ldacqM
  rw [scopeOk_of_le hb, bind_ok (ensure_true ..), bind_ok (checkOps_ok _ _ (by
      simp only [List.mem_cons, List.not_mem_nil, or_false, forall_eq_or_imp, forall_eq]
      exact ⟨opnd_dst hd, opnd_pair ha⟩)),
    bind_ok (execLanes_entered _ h p), bind_ok (zeroLanes_entered _ h p), bind_ok (readPair_run _ _ (okPair_code ha)), bind_ok hcheck,
    bind_ok hread, bind_ok (scopeEnd_run ..), writeDst_plain _ _ _ (okDst_plain hd)]

theorem ldacq64M_run {v : Nat → Nat} (h : issuing s = true) (ha : okPair s a = true) (hd : okPair s d = true) (hb : b.toNat ≤ 9)
    (hcheck : checkGlobal { n := 8, aligned := true } (execs s p) (pairVal (entered (unitLen p) s) a) (entered (unitLen p) s) = .ok (cs, s2))
    (hread : performReads cs true s2 = .ok (v, s3)) :
    ldacq64M p d a b (entered (unitLen p) s)
      = .ok ((), putPair (scopeEnded b s3) d (execs s p) (zeroed s p) (fun t => BitVec.ofNat 64 (v t))) := by
  rw [← okPair_entered (unitLen p) h] at ha hd
  unfold ldacq64M
  rw [scopeOk_of_le hb, bind_ok (ensure_true ..), bind_ok (checkOps_ok _ _ (by
      simp only [List.mem_cons, List.not_mem_nil, or_false, forall_eq_or_imp, forall_eq]
      exact ⟨opnd_pair hd, opnd_pair ha⟩)),
    bind_ok (execLanes_entered _ h p), bind_ok (zeroLanes_entered _ h p), bind_ok (readPair_run _ _ (okPair_code ha)), bind_ok hcheck,
    bind_ok hread, bind_ok (scopeEnd_run ..), writePair_run]

end

/-! ### FENCE (R258) -/

theorem fenceM_run {d : Code} (hd : d.toNat ≤ 9) (x : State) :
    fenceM d x = .ok ((), if 7 ≤ d.toNat then modCur (ending x) (fun g => { g with hold := true }) else x) := by
  unfold fenceM
  rw [scopeOk_of_le hd, bind_ok (ensure_true ..)]
  split <;> rfl

/-! ### What the checks of an access leave of the group (R234) -/

/-- The issuing group stands as it did, at the same place. -/
def SameIssue (s t : State) : Prop := t.cur = s.cur ∧ ∀ slot, groupAt t s.cur.core slot = groupAt s s.cur.core slot

/-- Where it completes, the computation leaves the issuing group as it stood. -/
structure Firm {α : Type} (m : M α) : Prop where
  same : ∀ {s t : State} {a : α}, m s = .ok (a, t) → SameIssue s t

namespace SameIssue

variable {s t u : State}

theorem refl (s : State) : SameIssue s s := ⟨rfl, fun _ => rfl⟩

theorem trans (h : SameIssue s t) (k : SameIssue t u) : SameIssue s u := by
  obtain ⟨kcur, kgroups⟩ := k
  rw [h.1] at kgroups
  exact ⟨kcur.trans h.1, fun slot => (kgroups slot).trans (h.2 slot)⟩

theorem of_outer (h : Outer s.cur.core s t) : SameIssue s t := ⟨h.cur, h.groupAt⟩

theorem of_cores (hcores : t.cores = s.cores) (hcur : t.cur = s.cur) : SameIssue s t :=
  ⟨hcur, fun slot => by unfold groupAt; rw [coreAt_congr hcores]⟩

theorem issuing (h : SameIssue s t) : issuing t = issuing s := by
  unfold Machine.issuing
  rw [h.1, h.2]

theorem curGroup (h : SameIssue s t) : curGroup t = curGroup s := by
  unfold Machine.curGroup
  rw [h.1, h.2]

end SameIssue

namespace Firm

variable {α β : Type}

theorem bind {m : M α} {f : α → M β} (hm : Firm m) (hf : ∀ a, Firm (f a)) : Firm (m >>= f) := ⟨fun h => by
  obtain ⟨a, x, hx, ht⟩ := exists_of_bind_ok h
  exact (hm.same hx).trans ((hf a).same ht)⟩

theorem of_outside {m : M α} (h : Outside m) : Firm m := ⟨fun hm => .of_outer (h.outer hm)⟩

theorem pure (a : α) : Firm (Pure.pure a : M α) := .of_outside (.pure a)

theorem getS (f : State → α) : Firm (getS f) := .of_outside (.getS f)

theorem faultM (f : FaultInfo) : Firm (faultM f : M α) := .of_outside (.faultM f)

theorem ite {b : Prop} [Decidable b] {m n : M α} (hm : Firm m) (hn : Firm n) : Firm (if b then m else n) := by
  split
  · exact hm
  · exact hn

theorem mapM {γ : Type} {f : γ → M α} (hf : ∀ c, Firm (f c)) (ls : List γ) : Firm (ls.mapM f) := by
  induction ls with
  | nil => exact List.mapM_nil (f := f) ▸ .pure []
  | cons c ls ih =>
    rw [List.mapM_cons]
    exact (hf c).bind fun a => ih.bind fun as => .pure (a :: as)

end Firm

theorem sameIssue_countPacket (s : State) (x row : Nat) : SameIssue s (countPacket s x row) := .of_outer (outer_countPacket ..)

theorem sameIssue_enterRebuilt (s : State) (line : Nat) (v : List Byte) : SameIssue s (enterRebuilt s line v) := by
  have hput : ∀ (y : State) kvs, SameIssue y (l2Fill (clearPoison (memPut y kvs) line) line) := fun y kvs =>
    SameIssue.trans (t := clearPoison (memPut y kvs) line) (.of_cores rfl rfl) (.of_outer (outer_l2Fill ..))
  unfold enterRebuilt
  dsimp only
  split
  · exact hput _ _
  · exact SameIssue.trans (t := dramPut s line v) (.of_cores rfl rfl) (hput _ _)

theorem sameIssue_markPoison (s : State) (line : Nat) : SameIssue s (markPoison s line) := by
  unfold markPoison
  dsimp only
  split <;> exact .of_cores rfl rfl

/-- The rebuild of a line has been counted at its parity controller (R401). -/
theorem sameIssue_rebuildCounted (s : State) (p : Nat) : SameIssue s (if (stackAt s p).lost then s else ctrAdd s (ctrKey 3 p 40) 1) := by
  split
  · exact .refl s
  · exact .of_cores rfl rfl

theorem sameIssue_rebuildEnd (s : State) (line : Nat) :
    SameIssue s (if reconOk s line then enterRebuilt s line (reconValue s line) else markPoison s line) := by
  split
  · exact sameIssue_enterRebuilt ..
  · exact sameIssue_markPoison ..

theorem sameIssue_readLine (s : State) (line : Nat) : SameIssue s (readLine s line) := by
  unfold readLine
  split
  · unfold rebuild
    have hcount := (sameIssue_countPacket s (dataStack line) (stripeOf line)).trans (sameIssue_rebuildCounted _ (parityStack line))
    exact hcount.trans (sameIssue_rebuildEnd ..)
  · exact .refl s

theorem firm_checkPoison (f : Form) (lane : Nat) (pas : List Nat) : Firm (checkPoison f lane pas) := by
  unfold checkPoison
  refine (Firm.getS curGroup).bind fun g => Firm.bind ⟨fun {s t a} h => ?_⟩ fun _ => (Firm.getS _).bind fun bad => ?_
  · have ht : (readHomes g pas).foldl (fun s l => readLine s l.2) s = t := congrArg Prod.snd (Except.ok.inj h)
    rw [← ht]
    exact List.foldlRecOn (motive := SameIssue s) _ _ (.refl s) fun x hx l _ => hx.trans (sameIssue_readLine x l.2)
  · cases bad with
    | some l => exact .faultM _
    | none => exact .pure ()

theorem firm_checkPieces (f : Form) (lane : Nat) (ps : List (Dword × Nat)) : Firm (checkPieces f lane ps) := by
  unfold checkPieces
  dsimp only
  refine .ite (.faultM _) ((Firm.of_outside (outside_groupPages ..)).bind fun xs => (Firm.of_outside (outside_acquireHost _)).bind fun _ =>
    (Firm.getS _).bind fun held => (Firm.getS _).bind fun bad => .ite (.faultM _) ?_)
  cases bad with
  | some a => exact .faultM _
  | none => exact (Firm.getS curGroup).bind fun g => .ite (.faultM _) (.ite (.pure _) ((firm_checkPoison ..).bind fun _ => .pure _))

theorem firm_checkAccess (f : Form) (lane : Nat) (va : Dword) : Firm (checkAccess f lane va) := by
  unfold checkAccess
  exact (firm_checkPieces ..).bind fun _ => .pure _

theorem firm_checkGlobal (f : Form) (ex : List Nat) (ea : Nat → Dword) : Firm (checkGlobal f ex ea) := by
  unfold checkGlobal
  exact .mapM (fun t => (firm_checkAccess ..).bind fun _ => .pure _) ex

/-! ### WAITADDR (R259) -/

/-- WAITADDR once its address is checked: the threads sleep and the watch is armed at the commit. -/
def sleeping (ls : List Nat) (line limit : Nat) (x : State) : State :=
  ending (withRegs (deferring x (.watch ls line limit)) (fun r => setThr r ls .addr))

/-- The state as an access beyond the device issues guarded, or not. -/
def guardedIf (b : Bool) (x : State) : State := if b then ctrAdd x (ctrKey 1 x.cur.core 6) 1 else x

theorem guardedIf_run (b : Bool) (x : State) : (if b then guardM else pure () : M Unit) x = .ok ((), guardedIf b x) := by
  cases b <;> rfl

theorem curGroup_guardedIf (b : Bool) (x : State) : curGroup (guardedIf b x) = curGroup x := by
  cases b <;> rfl

theorem waitaddrM_run {s s2 s3 : State} {a b : Code} {t : Nat} {ts : List Nat} {c : Chk} {v : Nat → Nat} (hl : s.cur.lanes = t :: ts)
    (ha : okPair s a = true) (hb : okSrc s b = true) (h96 : 96 ≤ b.toNat) (h111 : b.toNat ≤ 111) (h : issuing s = true)
    (hcheck : checkGlobal { n := 1, sleep := true } [t] (pairVal (entered 4 s) a) (entered 4 s) = .ok ([c], s2))
    (hread : performReads [c] false s2 = .ok (v, s3)) :
    waitaddrM a b (entered 4 s) = .ok ((), guardedIf (inHost (chkPa c) || inCxlMem (chkPa c))
      (sleeping s.cur.lanes (chkPa c / 128) (1100 * (srcVal (entered 4 s) b t).toNat) s3)) := by
  have hstep : srcStep (entered 4 s) (t :: ts) b = entered 4 s := by
    unfold srcStep
    rw [if_neg]
    rintro ⟨rfl, -⟩
    exact absurd h111 (by decide)
  have hlanes : execLanes none (entered 4 s) = .ok (t :: ts, entered 4 s) := by rw [execLanes_all, entered_cur, hl]
  rw [← okPair_entered 4 h] at ha
  rw [← okSrc_entered 4 h] at hb
  rw [hl]
  unfold waitaddrM
  rw [show (decide (96 ≤ b.toNat) && decide (b.toNat ≤ 111)) = true by simp [h96, h111], bind_ok (ensure_true ..),
    bind_ok (checkOps_ok _ _ (by
      simp only [List.mem_cons, List.not_mem_nil, or_false, forall_eq_or_imp, forall_eq]
      exact ⟨opnd_pair ha, opnd_src hb⟩)),
    bind_ok hlanes, bind_ok (readPair_run _ _ (okPair_code ha)),
    bind_ok (readSrc_of_executing (okSrc_plain hb) (List.cons_ne_nil t ts)), hstep]
  refine (bind_ok hcheck).trans ((bind_ok hread).trans ?_)
  rw [bind_ok (deferM_run ..), bind_ok (modR_run ..)]
  exact guardedIf_run _ _

/-- A k register is a legal source of every group (R70, R95). -/
theorem okSrc_of_k {s : State} {c : Code} (h96 : 96 ≤ c.toNat) (h111 : c.toNat ≤ 111) : okSrc s c = true := by
  unfold okSrc plainSrc inAlloc
  rw [decide_eq_true h111, decide_eq_true (show 95 < c.toNat by omega)]
  rfl

/-- The group asleep: its threads, and its chunk, which ends and arms the watch. -/
theorem curGroup_sleeping {x : State} (ls : List Nat) (line limit : Nat) (h : issuing x = true) :
    (curGroup (sleeping ls line limit x)).r = setThr (curGroup x).r ls .addr
      ∧ (curGroup (sleeping ls line limit x)).open_.ending = true
      ∧ (curGroup (sleeping ls line limit x)).open_.effects = (curGroup x).open_.effects ++ [.watch ls line limit] := by
  have hdef : issuing (deferring x (.watch ls line limit)) = true := (issuing_modCur ..).trans h
  have hregs : issuing (withRegs (deferring x (.watch ls line limit)) (fun r => setThr r ls .addr)) = true := (issuing_modCur ..).trans hdef
  have hgroup : curGroup (deferring x (.watch ls line limit))
      = { curGroup x with open_ := { (curGroup x).open_ with effects := (curGroup x).open_.effects ++ [.watch ls line limit] } } :=
    curGroup_modCur _ h
  have hasleep : curGroup (withRegs (deferring x (.watch ls line limit)) (fun r => setThr r ls .addr))
      = { curGroup (deferring x (.watch ls line limit)) with r := setThr (curGroup (deferring x (.watch ls line limit))).r ls .addr } :=
    curGroup_modCur _ hdef
  have hend : curGroup (sleeping ls line limit x)
      = { curGroup (withRegs (deferring x (.watch ls line limit)) (fun r => setThr r ls .addr)) with
          open_ := { (curGroup (withRegs (deferring x (.watch ls line limit)) (fun r => setThr r ls .addr))).open_ with ending := true } } :=
    curGroup_modCur _ hregs
  rw [hend, hasleep, hgroup]
  exact ⟨rfl, rfl, rfl⟩

theorem doing_of_setThr {x : State} {r : GRegs} {ls : List Nat} {v : Thr} (h : (curGroup x).r = setThr r ls v) {u : Nat} (hu : u ∈ ls) :
    doing x u = v := by
  unfold doing
  rw [h]
  exact sget_ssetAll_map .run ls id (fun _ => v) r.thr u (fun _ _ e => e) hu

/-! ### The statement -/

theorem issueP_stop {p : Option Pfx} {m : M Unit} {s : State} (h : issuing s = true) (hm : m (entered (unitLen p) s) = .error .stall) :
    issueP p m s = .next (stopped s .stall) := issue_stop h nofun hm

/-- Settles O24: each form runs to its access, and then to the end of its scope. -/
theorem orderingInstructions : Obligations.OrderingInstructions := by
  unfold Obligations.OrderingInstructions
  intro s s2 s3 p d a b cs v h ha
  have hcur : ∀ {f : Form} {ex ea y}, checkGlobal f ex ea y = .ok (cs, s2) → y.cur = s.cur → s2.cur = s.cur := fun hc hy =>
    ((firm_checkGlobal _ _ _).same hc).1.trans hy
  have hstep : (srcStep (entered (unitLen p) s) (execs s p) b).cur = s.cur := by rw [srcStep_cur, entered_cur]
  refine ⟨fun hd hb hcheck hcs => ⟨fun hleft hw => ?_, fun h7 hout hopen hleft => ?_⟩,
    fun hd hb hcheck => ⟨fun hleft hw => ?_, fun h7 hout hopen hleft => ?_⟩, fun hb hd hcheck hread => ?_, fun hb hd hcheck hread => ?_,
    fun hd => ?_, fun t ts hl h96 h111 hcheck hread => ?_⟩
  · rw [← hcur hcheck hstep] at hleft
    exact issueP_ok (m := strelM p d a b) h ((strelM_run h ha hb hd hcheck).trans (strelEnd_pass (releaseWait_pass hleft) hw))
  · rw [← hcur hcheck hstep] at hleft
    exact issueP_stop (m := strelM p d a b) h ((strelM_run h ha hb hd hcheck).trans (strelEnd_stall (releaseWait_stall h7 hout hopen hleft)))
  · rw [← hcur hcheck (entered_cur ..)] at hleft
    exact issueP_ok (m := strel64M p d a b) h ((strel64M_run h ha hb hd hcheck).trans (strelEnd_pass (releaseWait_pass hleft) hw))
  · rw [← hcur hcheck (entered_cur ..)] at hleft
    exact issueP_stop (m := strel64M p d a b) h ((strel64M_run h ha hb hd hcheck).trans (strelEnd_stall (releaseWait_stall h7 hout hopen hleft)))
  · exact issueP_ok (m := ldacqM p d a b) h (ldacqM_run h ha hd hb hcheck hread)
  · exact issueP_ok (m := ldacq64M p d a b) h (ldacq64M_run h ha hd hb hcheck hread)
  · exact issue_ok (m := fenceM d) h (fenceM_run hd _)
  · obtain ⟨c, rfl⟩ : ∃ c, cs = [c] := List.length_eq_one_iff.1 (by
      have hlanes := congrArg List.length (checkGlobal_lanes hcheck).1
      simpa using hlanes)
    have hissue : issuing s3 = true := by
      rw [(performReads_spec hread).1.issuing, ((firm_checkGlobal _ _ _).same hcheck).issuing]
      exact issuing_entered 4 h
    obtain ⟨hr, hend, heff⟩ := curGroup_sleeping s.cur.lanes (chkPa c / 128) (1100 * (srcVal (entered 4 s) b t).toNat) hissue
    refine ⟨_, c, rfl, issue_ok (m := waitaddrM a b) h (waitaddrM_run hl ha (okSrc_of_k h96 h111) h96 h111 h hcheck hread), ?_⟩
    rw [curGroup_guardedIf]
    exact ⟨fun u hu => doing_of_setThr ((congrArg Group.r (curGroup_guardedIf ..)).trans hr) hu, hend, heff⟩

end Sys2Proof.Proofs

/-! # The copy instructions (R228, R260 to R268) -/

namespace Sys2Proof.Proofs

open Sys2Proof Sys2Proof.Machine Sys2Proof.Laws Sys2Proof.Claims

/-! ### The threads' batches -/

theorem uid_entered (n : Nat) {s : State} (h : issuing s = true) : (curGroup (entered n s)).uid = (curGroup s).uid :=
  entered_field n h Group.uid fun _ _ _ _ _ _ _ _ _ => rfl

theorem sealedOf_entered (n t : Nat) {s : State} (h : issuing s = true) : sealedOf (curGroup (entered n s)).r t = sealedOf (curGroup s).r t := by
  unfold sealedOf
  rw [entered_r n h]

theorem uid_srcStep {y : State} (ex : List Nat) (c : Code) (h : issuing y = true) : (curGroup (srcStep y ex c)).uid = (curGroup y).uid := by
  unfold srcStep withRegs
  split
  · rw [curGroup_modCur _ h]
  · rfl

theorem sealedOf_srcStep {y : State} (ex : List Nat) (c : Code) (t : Nat) (h : issuing y = true) :
    sealedOf (curGroup (srcStep y ex c)).r t = sealedOf (curGroup y).r t := by
  unfold srcStep withRegs
  split
  · rw [curGroup_modCur _ h]
    rfl
  · rfl

/-! ### CPY, TCPY and CPYQ (R260 to R262) -/

theorem queueCopies_run (ds : List (Nat × List Dword)) (x : State) : queueCopies ds x = .ok ((), copiesQueued x ds) := by
  unfold queueCopies
  induction ds generalizing x with
  | nil => rfl
  | cons e ds ih => exact ih _

section
variable {s s2 : State} {p : Option Pfx} {a b d : Code} {ds : List (Nat × List Dword)}

theorem cpyM_room {legal : List Dword → Bool} (h : issuing s = true) (ha : okPair s a = true) (hb : okSrc s b = true)
    (hds : copyDescs p a b legal (entered (unitLen p) s) = .ok (ds, s2)) (hroom : copyRoom s2 ds.length = true) :
    cpyM p a b legal (entered (unitLen p) s) = .ok ((), ending (copiesQueued s2 ds)) := by
  rw [← okPair_entered (unitLen p) h] at ha
  rw [← okSrc_entered (unitLen p) h] at hb
  unfold cpyM
  rw [bind_ok (checkOps_ok _ _ (by
      simp only [List.mem_cons, List.not_mem_nil, or_false, forall_eq_or_imp, forall_eq]
      exact ⟨opnd_pair ha, opnd_src hb⟩)),
    bind_ok hds, bind_ok (getS_run ..), hroom, bind_ok (waitFor_run true s2)]
  exact bind_ok (queueCopies_run ds s2)

theorem cpyM_full {legal : List Dword → Bool} (h : issuing s = true) (ha : okPair s a = true) (hb : okSrc s b = true)
    (hds : copyDescs p a b legal (entered (unitLen p) s) = .ok (ds, s2)) (hroom : copyRoom s2 ds.length = false) :
    cpyM p a b legal (entered (unitLen p) s) = .error .stall := by
  rw [← okPair_entered (unitLen p) h] at ha
  rw [← okSrc_entered (unitLen p) h] at hb
  unfold cpyM
  rw [bind_ok (checkOps_ok _ _ (by
      simp only [List.mem_cons, List.not_mem_nil, or_false, forall_eq_or_imp, forall_eq]
      exact ⟨opnd_pair ha, opnd_src hb⟩)),
    bind_ok hds, bind_ok (getS_run ..), hroom]
  rfl

theorem cpyM_issued {legal : List Dword → Bool} (h : issuing s = true) (ha : okPair s a = true) (hb : okSrc s b = true)
    (hds : copyDescs p a b legal (entered (unitLen p) s) = .ok (ds, s2)) :
    issueP p (cpyM p a b legal) s
      = if copyRoom s2 ds.length then .next (finish s (ending (copiesQueued s2 ds))) else .next (stopped s .stall) := by
  cases hroom : copyRoom s2 ds.length with
  | true => exact issueP_ok h (cpyM_room h ha hb hds hroom)
  | false => exact issueP_stop h (cpyM_full h ha hb hds hroom)

theorem cpyqM_run (h : issuing s = true) (ha : okPair s a = true) (hb : okSrc s b = true) (hd : okDst s d = true)
    (hds : copyDescs p a b (fun x => cpyLegal x || tcpyLegal x) (entered (unitLen p) s) = .ok (ds, s2)) :
    cpyqM p d a b (entered (unitLen p) s) = .ok ((), ending (putWord (if copyRoom s2 ds.length then copiesQueued s2 ds else s2) d (execs s p)
      (zeroed s p) (fun _ => if copyRoom s2 ds.length then 0 else 1))) := by
  rw [← okPair_entered (unitLen p) h] at ha
  rw [← okSrc_entered (unitLen p) h] at hb
  rw [← okDst_entered (unitLen p) h] at hd
  unfold cpyqM
  rw [bind_ok (checkOps_ok _ _ (by
      simp only [List.mem_cons, List.not_mem_nil, or_false, forall_eq_or_imp, forall_eq]
      exact ⟨opnd_dst hd, opnd_pair ha, opnd_src hb⟩)),
    bind_ok (execLanes_entered _ h p), bind_ok (zeroLanes_entered _ h p), bind_ok hds, bind_ok (getS_run ..)]
  cases copyRoom s2 ds.length with
  | true => exact (bind_ok (queueCopies_run ds s2)).trans (bind_ok (writeDst_plain _ _ _ (okDst_plain hd)))
  | false => exact bind_ok (writeDst_plain _ _ _ (okDst_plain hd))

end

/-! ### CPSEAL (R267) -/

section
variable {s : State} {a d : Code}

theorem execLanes_entered_all (s : State) : execLanes none (entered 4 s) = .ok (s.cur.lanes, entered 4 s) := by
  rw [execLanes_all, entered_cur]

theorem cpsealM_run (h : issuing s = true) (hd : okDst s d = true)
    (hfree : ∀ t ∈ s.cur.lanes, ((openBatches (entered 4 s) (curGroup s).uid t).filter (fun n => decide (n ≤ sealedOf (curGroup s).r t))).length < 16) :
    cpsealM d (entered 4 s) = .ok ((), putWord (withRegs (entered 4 s)
        (fun r => { r with sealed := ssetAll 0 r.sealed (s.cur.lanes.map (fun t => (t, sealedOf r t + 1))) })) d s.cur.lanes []
      (fun t => BitVec.ofNat 32 (sealedOf (curGroup s).r t + 1))) := by
  rw [← okDst_entered 4 h] at hd
  have hall : s.cur.lanes.all (fun t => decide (((openBatches (entered 4 s) (curGroup (entered 4 s)).uid t).filter
      (fun n => decide (n ≤ sealedOf (curGroup (entered 4 s)).r t))).length < 16)) = true := by
    simp only [List.all_eq_true, decide_eq_true_eq, uid_entered 4 h, sealedOf_entered 4 _ h]
    exact hfree
  unfold cpsealM
  rw [bind_ok (checkOps_ok _ _ (by
      simp only [List.mem_cons, List.not_mem_nil, or_false, forall_eq]
      exact opnd_dst hd)),
    bind_ok (execLanes_entered_all s), bind_ok (getG_run ..), bind_ok (getS_run ..), hall, bind_ok (waitFor_run true (entered 4 s))]
  refine (bind_ok (modR_run ..)).trans ((writeDst_plain _ _ _ (okDst_plain hd)).trans ?_)
  simp only [sealedOf_entered 4 _ h]

/-! ### CPWAIT (R228, R267, R268) -/

/-- CPWAIT once its operand is read, in the group that reads it. -/
def cpwaitEnd (g : Group) (ex : List Nat) (m : Nat → Word) : M Unit := do
  ex.forM (fun t => if sealedOf g.r t < (m t).toNat then faultM { code := fcIllegalOperand, lane := t } else pure ())
  let busy ← getS (fun s => ex.any (fun t => (openBatches s g.uid t).any (fun n => decide (n ≤ (m t).toNat))))
  waitFor (!busy)
  let bad ← getS (fun s => ex.findSome? (fun t => (copyFault s g.uid t (m t).toNat).map (fun x => (t, x.2))))
  match bad with
  | some (t, x) =>
    faultM { code := fcCopyFault, cause := (x.fault.map (·.cause)).getD 0, lane := t, addr := (x.fault.map (·.addr)).getD 0
             ivec := vecOf (copyCounts x.desc) x.pos }
  | none => modS (fun s => seeFresh s g.uid ex (fun t => (m t).toNat))

/-- A check of each thread that none fails. -/
theorem forM_pass {f : Nat → M Unit} {x : State} {ls : List Nat} (h : ∀ t ∈ ls, f t x = .ok ((), x)) : ls.forM f x = .ok ((), x) := by
  induction ls with
  | nil => rfl
  | cons t ls ih =>
    obtain ⟨ht, hls⟩ := List.forall_mem_cons.1 h
    exact (bind_ok ht).trans (ih hls)

section
variable {g : Group} {ex : List Nat} {m : Nat → Word} {x : State}

theorem sealed_pass (h : ∀ t ∈ ex, (m t).toNat ≤ sealedOf g.r t) :
    ex.forM (fun t => if sealedOf g.r t < (m t).toNat then faultM { code := fcIllegalOperand, lane := t } else pure () : Nat → M Unit) x
      = .ok ((), x) :=
  forM_pass fun t ht => by rw [if_neg (Nat.not_lt.2 (h t ht))]; rfl

theorem cpwaitEnd_done (h : ∀ t ∈ ex, (m t).toNat ≤ sealedOf g.r t)
    (hbusy : ∀ t ∈ ex, (openBatches x g.uid t).any (fun n => decide (n ≤ (m t).toNat)) = false)
    (hbad : ∀ t ∈ ex, copyFault x g.uid t (m t).toNat = none) :
    cpwaitEnd g ex m x = .ok ((), seeFresh x g.uid ex (fun t => (m t).toNat)) := by
  have hidle : ex.any (fun t => (openBatches x g.uid t).any (fun n => decide (n ≤ (m t).toNat))) = false :=
    List.any_eq_false.2 fun t ht => ne_true_of_eq_false (hbusy t ht)
  have hgood : ex.findSome? (fun t => (copyFault x g.uid t (m t).toNat).map (fun y => (t, y.2))) = none :=
    List.findSome?_eq_none_iff.2 fun t ht => by rw [hbad t ht]; rfl
  unfold cpwaitEnd
  rw [bind_ok (sealed_pass h), bind_ok (getS_run ..), hidle, Bool.not_false, bind_ok (waitFor_run true x), bind_ok (getS_run ..), hgood]
  rfl

theorem cpwaitEnd_busy (h : ∀ t ∈ ex, (m t).toNat ≤ sealedOf g.r t)
    (hbusy : ∃ t ∈ ex, (openBatches x g.uid t).any (fun n => decide (n ≤ (m t).toNat)) = true) : cpwaitEnd g ex m x = .error .stall := by
  have hany : ex.any (fun t => (openBatches x g.uid t).any (fun n => decide (n ≤ (m t).toNat))) = true := List.any_eq_true.2 hbusy
  unfold cpwaitEnd
  rw [bind_ok (sealed_pass h), bind_ok (getS_run ..), hany]
  exact bind_error (waitFor_run false x)

theorem seeFresh_idle (s : State) (uid : Nat) (m m' : Nat → Nat) : seeFresh s uid [] m = seeFresh s uid [] m' := by
  unfold seeFresh
  simp only [List.not_mem_nil, false_and, and_false, if_false]

theorem cpwaitEnd_idle (g : Group) (m m' : Nat → Word) : cpwaitEnd g [] m = cpwaitEnd g [] m' := by
  unfold cpwaitEnd
  simp only [List.any_nil, List.findSome?_nil]
  exact congrArg (fun f : State → State => (([] : List Nat).forM (fun _ => pure ()) : M Unit) >>= fun _ =>
    getS (fun _ => false) >>= fun busy => waitFor (!busy) >>= fun _ => getS (fun _ => (none : Option (Nat × Copy))) >>= fun _ => modS f)
    (funext fun s => seeFresh_idle s g.uid _ _)

theorem cpwaitEnd_unsealed {t : Nat} {ts : List Nat} (hex : ex = t :: ts) (h : sealedOf g.r t < (m t).toNat) :
    cpwaitEnd g ex m x = .error (.fault { code := fcIllegalOperand, lane := t }) := by
  subst hex
  unfold cpwaitEnd
  refine bind_error ?_
  refine bind_error (x := .fault { code := fcIllegalOperand, lane := t }) ?_
  dsimp only
  rw [if_pos h]
  rfl

end

theorem cpwaitM_run (h : issuing s = true) (ha : okSrc s a = true) :
    cpwaitM a (entered 4 s) = cpwaitEnd (curGroup (srcStep (entered 4 s) s.cur.lanes a)) s.cur.lanes (srcVal (entered 4 s) a)
      (srcStep (entered 4 s) s.cur.lanes a) := by
  rw [← okSrc_entered 4 h] at ha
  have hend : ∀ m y, (getG >>= fun g => cpwaitEnd g s.cur.lanes m) y = cpwaitEnd (curGroup y) s.cur.lanes m y := fun m y => rfl
  unfold cpwaitM
  rw [bind_ok (checkOps_ok _ _ (by
      simp only [List.mem_cons, List.not_mem_nil, or_false, forall_eq]
      exact opnd_src ha)),
    bind_ok (execLanes_entered_all s)]
  refine (readSrc_bind (fun m => getG >>= fun g => cpwaitEnd g s.cur.lanes m) ha fun hex f f' => ?_).trans (hend _ _)
  refine congrArg (getG >>= ·) (funext fun g => ?_)
  rw [hex, cpwaitEnd_idle g f f']

theorem group_cpwait (h : issuing s = true) : (curGroup (srcStep (entered 4 s) s.cur.lanes a)).uid = (curGroup s).uid
    ∧ ∀ t, sealedOf (curGroup (srcStep (entered 4 s) s.cur.lanes a)).r t = sealedOf (curGroup s).r t := by
  have he := issuing_entered 4 h
  exact ⟨(uid_srcStep s.cur.lanes a he).trans (uid_entered 4 h), fun t => (sealedOf_srcStep s.cur.lanes a t he).trans (sealedOf_entered 4 t h)⟩

end

/-- Settles O27, form by form. -/
theorem copyInstructions : Obligations.CopyInstructions := by
  unfold Obligations.CopyInstructions
  intro s s2 p d a b ds h
  refine ⟨fun ha hb e he hds => ?_, fun hd ha hb hds => issueP_ok (m := cpyqM p d a b) h (cpyqM_run h ha hb hd hds),
    fun hd hfree => issue_ok (m := cpsealM d) h (cpsealM_run h hd hfree), fun ha => ?_⟩
  · simp only [List.mem_cons, List.not_mem_nil, or_false] at he
    obtain rfl | rfl := he
    · exact cpyM_issued (legal := cpyLegal) h ha hb hds
    · exact cpyM_issued (legal := tcpyLegal) h ha hb hds
  · obtain ⟨huid, hseal⟩ := group_cpwait (a := a) h
    refine ⟨fun hm hbusy hbad => ?_, fun hm hbusy => ?_, fun t ts hts hm => ?_⟩
    · rw [← huid]
      refine issue_ok (m := cpwaitM a) h ((cpwaitM_run h ha).trans (cpwaitEnd_done (fun t ht => ?_) ?_ ?_))
      · rw [hseal]; exact hm t ht
      · rw [huid]; exact hbusy
      · rw [huid]; exact hbad
    · refine issue_stop (m := cpwaitM a) h nofun ((cpwaitM_run h ha).trans (cpwaitEnd_busy (fun t ht => ?_) ?_))
      · rw [hseal]; exact hm t ht
      · rw [huid]; exact hbusy
    · refine issue_stop (m := cpwaitM a) h nofun ((cpwaitM_run h ha).trans (cpwaitEnd_unsealed hts ?_))
      rw [hseal]
      exact hm

end Sys2Proof.Proofs

/-! # Pins, cache operations and prefetches (R197, R243, R250, R251) -/

namespace Sys2Proof.Proofs

open Sys2Proof Sys2Proof.Machine Sys2Proof.Laws Sys2Proof.Claims

/-! ### One thread's LLOCK (R197, R250) -/

section
variable {x : State} {c pa : Nat} {va : Dword}

theorem lockLine_outside (hin : inHbm pa = false) : lockLine x c va pa = (3, x) := if_pos (by simp [hin])

theorem lockLine_pinned (hin : inHbm pa = true) (hp : isPinned (coreAt x c) (pa / 128) = true) : lockLine x c va pa = (0, x) :=
  (if_neg (by simp [hin])).trans (if_pos hp)

theorem lockLine_limit (hin : inHbm pa = true) (hp : isPinned (coreAt x c) (pa / 128) = false)
    (hq : lockLimit (coreAt x c) ≤ (coreAt x c).qused) : lockLine x c va pa = (1, x) :=
  (if_neg (by simp [hin])).trans ((if_neg (ne_true_of_eq_false hp)).trans (if_pos hq))

/-- The pinned lines of the line's set in L1. -/
def pinsOf (k : Core) (line : Nat) : Nat := (k.l1.filter (fun y => y.pin && y.line % 256 == line % 256)).length

theorem lockLine_full (hin : inHbm pa = true) (hp : isPinned (coreAt x c) (pa / 128) = false)
    (hq : (coreAt x c).qused < lockLimit (coreAt x c)) (hs : stashMaps (coreAt x c) (va.toNat % 2 ^ 57 / 128) = false)
    (hw : l1Ways (coreAt x c) ≤ pinsOf (coreAt x c) (pa / 128) + 1) : lockLine x c va pa = (2, x) :=
  (if_neg (by simp [hin])).trans ((if_neg (ne_true_of_eq_false hp)).trans ((if_neg (Nat.not_le.2 hq)).trans
    (if_pos (by rw [hs]; exact decide_eq_true hw))))

/-- The core once it has touched the line that a thread pins. -/
def lockTouched (x : State) (c line : Nat) (inStash : Bool) : State := if inStash then touchStash x c line else touchLine x c line

theorem lockLine_pins (hin : inHbm pa = true) (hp : isPinned (coreAt x c) (pa / 128) = false)
    (hq : (coreAt x c).qused < lockLimit (coreAt x c))
    (hw : stashMaps (coreAt x c) (va.toNat % 2 ^ 57 / 128) = true ∨ pinsOf (coreAt x c) (pa / 128) + 1 < l1Ways (coreAt x c)) :
    lockLine x c va pa = (0, modCore (lockTouched x c (pa / 128) (stashMaps (coreAt x c) (va.toNat % 2 ^ 57 / 128))) c
      (fun k => setPin k (pa / 128) true)) := by
  have hroom : ¬ (!stashMaps (coreAt x c) (va.toNat % 2 ^ 57 / 128) && decide (l1Ways (coreAt x c) ≤ pinsOf (coreAt x c) (pa / 128) + 1)) = true := by
    obtain hs | hw := hw
    · rw [hs]
      exact Bool.false_ne_true
    · rw [decide_eq_false (Nat.not_le.2 hw), Bool.and_false]
      exact Bool.false_ne_true
  exact (if_neg (by simp [hin])).trans ((if_neg (ne_true_of_eq_false hp)).trans ((if_neg (Nat.not_le.2 hq)).trans (if_neg hroom)))

end

/-- The core holds the line, valid or not, in its L1 or its stash. -/
def holdsLine (k : Core) (line : Nat) : Bool := k.l1.any (fun y => y.line == line) || k.stashLines.any (fun y => y.line == line)

theorem isPinned_setPin {k : Core} {line : Nat} (h : holdsLine k line = true) : isPinned (setPin k line true) line = true := by
  have hmap : ∀ ls : List L1Line, ls.any (fun y => y.line == line) = true →
      (ls.map (fun y => if y.line = line then { y with pin := true } else y)).any (fun y => y.line == line && y.pin) = true := fun ls hls => by
    obtain ⟨y, hy, he⟩ := List.any_eq_true.1 hls
    have hline : y.line = line := by simpa using he
    refine List.any_eq_true.2 ⟨{ y with pin := true }, List.mem_map.2 ⟨y, hy, if_pos hline⟩, ?_⟩
    simp [hline]
  unfold isPinned setPin
  rw [Bool.or_eq_true]
  exact (Bool.or_eq_true_iff.1 h).imp (hmap k.l1) (hmap k.stashLines)

/-! ### Where a touched line then is (R195, R196) -/

theorem copies_dirAdd (s : State) (c line : Nat) :
    (coreAt (dirAdd s c line) c).l1 = (coreAt s c).l1 ∧ (coreAt (dirAdd s c line) c).stashLines = (coreAt s c).stashLines := by
  have hcore : coreAt (dirAdd s c line) c = { coreAt s c with leaving := (coreAt s c).leaving.filter (fun e => !(e.1 == line)) } := by
    have hleft := coreAt_modCore_self s c (fun k => { k with leaving := k.leaving.filter (fun e => !(e.1 == line)) })
    unfold dirAdd
    generalize modCore s c (fun k => { k with leaving := k.leaving.filter (fun e => !(e.1 == line)) }) = z at hleft ⊢
    dsimp only
    split <;> exact hleft
  rw [hcore]
  exact ⟨rfl, rfl⟩

theorem holdsLine_dirAdd_setCore (s : State) (c line : Nat) {k : Core} (h : holdsLine k line = true) :
    holdsLine (coreAt (dirAdd (setCore s c k) c line) c) line = true := by
  obtain ⟨hl1, hst⟩ := copies_dirAdd (setCore s c k) c line
  unfold holdsLine
  rw [hl1, hst, coreAt_setCore_self]
  exact h

theorem any_revalidated (ls : List L1Line) (line : Nat) :
    (ls.map (fun y => if y.line = line then { y with valid := true } else y)).any (fun y => y.line == line) = ls.any (fun y => y.line == line) := by
  rw [List.any_map]
  refine congrArg (ls.any ·) (funext fun y => ?_)
  dsimp only [Function.comp]
  split <;> rfl

theorem holdsLine_revalidate (k : Core) (line : Nat) : holdsLine (revalidate k line) line = holdsLine k line := by
  unfold holdsLine revalidate
  rw [any_revalidated, any_revalidated]

theorem holdsLine_of_valid {k : Core} {line : Nat} (h : missing k line = false) : holdsLine k line = true := by
  have hany : ∀ ls : List L1Line, ls.any (fun y => y.line == line && y.valid) = true → ls.any (fun y => y.line == line) = true := fun ls hls => by
    obtain ⟨y, hy, he⟩ := List.any_eq_true.1 hls
    exact List.any_eq_true.2 ⟨y, hy, (Bool.and_eq_true_iff.1 he).1⟩
  simp only [missing, Bool.and_eq_false_iff, Bool.not_eq_false'] at h
  unfold holdsLine
  rw [Bool.or_eq_true]
  exact h.imp (hany _) (hany _)

theorem holdsLine_touchStash (x : State) (c line : Nat) : holdsLine (coreAt (touchStash x c line) c) line = true := by
  unfold touchStash
  dsimp only
  split
  · next h =>
    refine holdsLine_of_valid ?_
    simp [missing, h]
  split
  · next h =>
    refine holdsLine_dirAdd_setCore _ c line ((holdsLine_revalidate ..).trans ?_)
    simp [holdsLine, h]
  · refine holdsLine_dirAdd_setCore _ c line ?_
    simp [holdsLine]

theorem touchLine_present {x : State} {c line : Nat} (h : missing (coreAt x c) line = false) : touchLine x c line = x := if_pos (by simp [h])

/-- The touched line is at the core, in the stash that maps it, or in the L1 that held it. -/
theorem holdsLine_lockTouched {x : State} {c line : Nat} {inStash : Bool} (h : inStash = true ∨ ¬ missing (coreAt x c) line = true) :
    holdsLine (coreAt (lockTouched x c line inStash) c) line = true := by
  cases inStash with
  | true => exact holdsLine_touchStash x c line
  | false =>
    have hpresent := Bool.eq_false_iff.2 (h.resolve_left Bool.false_ne_true)
    unfold lockTouched
    rw [if_neg Bool.false_ne_true, touchLine_present hpresent]
    exact holdsLine_of_valid hpresent

/-! ### LLOCK and LUNLOCK (R197, R250) -/

section
variable {s s2 : State} {p : Option Pfx} {d a b : Code} {cs : List Chk}

theorem lineTargets_run {ex : List Nat} {ea : Nat → Dword} {x : State} (hcheck : checkGlobal { n := 1, poisonOk := true } ex ea x = .ok (cs, s2))
    (hguard : guardChange (cs.flatMap (·.vlines)).dedup s2 = .ok ((), s2)) :
    lineTargets ex ea x = .ok (cs.map (fun c => (c.lane, chkPa c)), s2) := by
  unfold lineTargets
  rw [bind_ok hcheck, bind_ok hguard, pure_run]

theorem lineTargets_idle (ea : Nat → Dword) : lineTargets [] ea = guardChange [] >>= fun _ => pure [] := by
  unfold lineTargets
  rw [checkGlobal_idle, pure_bind]
  rfl

/-- LLOCK's threads in order, unless one of them must wait (R195, R202). -/
def lockAll (ea : Nat → Dword) (ts : List (Nat × Nat)) : M (List (Nat × Nat)) := fun s =>
  if ts.any (fun x => readStalls s s.cur.core (x.2 / 128) || decide (sget 0 (lockLines s.cur.core ea ts s).1 x.1 = 0)
      && !isPinned (coreAt (lockLines s.cur.core ea ts s).2 s.cur.core) (x.2 / 128)) then .error .stall
  else .ok (lockLines s.cur.core ea ts s)

theorem lockAll_run {ea : Nat → Dword} {ts : List (Nat × Nat)} {x : State}
    (hread : ∀ e ∈ ts, readStalls x x.cur.core (e.2 / 128) = false)
    (hpin : ∀ e ∈ ts, sget 0 (lockLines x.cur.core ea ts x).1 e.1 = 0 → isPinned (coreAt (lockLines x.cur.core ea ts x).2 x.cur.core) (e.2 / 128) = true) :
    lockAll ea ts x = .ok (lockLines x.cur.core ea ts x) := by
  refine if_neg fun hc => ?_
  obtain ⟨e, he, hw⟩ := List.any_eq_true.1 hc
  rw [hread e he, Bool.false_or, Bool.and_eq_true, decide_eq_true_eq] at hw
  rw [hpin e he hw.1] at hw
  exact absurd hw.2 Bool.false_ne_true

theorem llockM_run (h : issuing s = true) (ha : okPair s a = true) (hb : okSrc s b = true) (hd : okDst s d = true)
    (hts : lineTargets (execs s p) (globalAt (entered (unitLen p) s) (entered (unitLen p) s) a b)
      (srcStep (entered (unitLen p) s) (execs s p) b) = .ok (cs.map (fun c => (c.lane, chkPa c)), s2)) {r : List (Nat × Nat) × State}
    (hlock : lockAll (globalAt (entered (unitLen p) s) (entered (unitLen p) s) a b) (cs.map (fun c => (c.lane, chkPa c))) s2 = .ok r) :
    llockM p d a b (entered (unitLen p) s)
      = .ok ((), putWord r.2 d (execs s p) (zeroed s p) (fun t => BitVec.ofNat 32 (sget 0 r.1 t))) := by
  rw [← okPair_entered (unitLen p) h] at ha
  rw [← okSrc_entered (unitLen p) h] at hb
  rw [← okDst_entered (unitLen p) h] at hd
  unfold llockM
  rw [bind_ok (checkOps_ok _ _ (by
      simp only [List.mem_cons, List.not_mem_nil, or_false, forall_eq_or_imp, forall_eq]
      exact ⟨opnd_dst hd, opnd_pair ha, opnd_src hb⟩)),
    bind_ok (execLanes_entered _ h p), bind_ok (zeroLanes_entered _ h p)]
  refine (globalAddr_bind (fun ea => lineTargets (execs s p) ea >>= fun ts => lockAll ea ts >>= fun vs =>
    writeDst d (execs s p) (zeroed s p) (fun t => BitVec.ofNat 32 (sget 0 vs t))) ha hb fun hex f g => ?_).trans ?_
  · rw [hex, lineTargets_idle, lineTargets_idle, bind_assoc, bind_assoc]
    rfl
  · rw [bind_ok hts, bind_ok hlock, writeDst_plain _ _ _ (okDst_plain hd)]

theorem lunlockM_run (h : issuing s = true) (ha : okPair s a = true) (hb : okSrc s b = true)
    (hts : lineTargets (execs s p) (globalAt (entered (unitLen p) s) (entered (unitLen p) s) a b)
      (srcStep (entered (unitLen p) s) (execs s p) b) = .ok (cs.map (fun c => (c.lane, chkPa c)), s2)) :
    lunlockM p a b (entered (unitLen p) s) = .ok ((), modCore s2 s2.cur.core (fun k =>
      (cs.map (fun x => chkPa x / 128)).foldl (fun k l => if isPinned k l then setPin k l false else k) k)) := by
  rw [← okPair_entered (unitLen p) h] at ha
  rw [← okSrc_entered (unitLen p) h] at hb
  unfold lunlockM
  rw [bind_ok (checkOps_ok _ _ (by
      simp only [List.mem_cons, List.not_mem_nil, or_false, forall_eq_or_imp, forall_eq]
      exact ⟨opnd_pair ha, opnd_src hb⟩)),
    bind_ok (execLanes_entered _ h p), globalAddr_bind _ ha hb (fun hex f g => by rw [hex, lineTargets_idle, lineTargets_idle]), bind_ok hts]
  simp only [List.foldl_map]
  rfl

/-! ### CACHEOP (R251) -/

theorem forM_modS {α : Type} (f : State → α → State) (ls : List α) (x : State) :
    (ls.forM (fun t => modS (fun y => f y t)) : M Unit) x = .ok ((), ls.foldl f x) := by
  induction ls generalizing x with
  | nil => rfl
  | cons t ls ih => exact ih (f x t)

theorem forM_nil (f : Nat → M Unit) : ([] : List Nat).forM f = pure () := rfl

theorem forM_one (f : Nat → M Unit) (t : Nat) (x : State) : [t].forM f x = f t x := by
  show (f t >>= fun _ => pure ()) x = f t x
  rw [bind_run]
  cases f t x <;> rfl

theorem lt_hbmEnd {pa : Nat} (h : inHbm pa = true) : pa < hbmEnd := of_decide_eq_true h

theorem hbmEnd_lt : hbmEnd < 2 ^ 52 := by
  unfold hbmEnd
  norm_num

/-- CACHEOP's operation on its lines, once the addresses lie in HBM. -/
theorem cacheopM_run (h : issuing s = true) (hf : (curGroup s).fmode = true) (ha : okPair s a = true) (hb : okSrc s b = true) (hd : d.toNat ≤ 5)
    (hin : ∀ t ∈ execs s p, inHbm (globalAt (entered (unitLen p) s) (entered (unitLen p) s) a b t).toNat = true) :
    cacheopM p d a b (entered (unitLen p) s)
      = (execs s p).forM (fun t => cacheLine d.toNat ((globalAt (entered (unitLen p) s) (entered (unitLen p) s) a b t).toNat / 128))
        (srcStep (entered (unitLen p) s) (execs s p) b) := by
  have hmode : (curGroup (entered (unitLen p) s)).fmode = true := (entered_field _ h Group.fmode fun _ _ _ _ _ _ _ _ _ => rfl).trans hf
  rw [← okPair_entered (unitLen p) h] at ha
  rw [← okSrc_entered (unitLen p) h] at hb
  unfold cacheopM
  rw [bind_ok (privileged_run hmode), decide_eq_true hd, bind_ok (ensure_true ..), bind_ok (checkOps_ok _ _ (by
      simp only [List.mem_cons, List.not_mem_nil, or_false, forall_eq_or_imp, forall_eq]
      exact ⟨opnd_pair ha, opnd_src hb⟩)),
    bind_ok (execLanes_entered _ h p), globalAddr_bind _ ha hb (fun hex f g => by rw [hex, forM_nil, forM_nil, forM_nil, forM_nil])]
  refine bind_ok (forM_pass fun t ht => ?_)
  have hpa := hin t ht
  have hlow := Nat.div_eq_of_lt ((lt_hbmEnd hpa).trans hbmEnd_lt)
  rw [if_neg (fun hne => hne hlow), hpa, Bool.not_true, if_neg Bool.false_ne_true, pure_run]

theorem cacheOps_run (h : issuing s = true) (hf : (curGroup s).fmode = true) (ha : okPair s a = true) (hb : okSrc s b = true)
    (hin : ∀ t ∈ execs s p, inHbm (globalAt (entered (unitLen p) s) (entered (unitLen p) s) a b t).toNat = true) :
    ∀ e ∈ cacheOps, cacheopM p e.1 a b (entered (unitLen p) s)
      = .ok ((), (execs s p).foldl (fun x t => e.2 x ((globalAt (entered (unitLen p) s) (entered (unitLen p) s) a b t).toNat / 128))
        (srcStep (entered (unitLen p) s) (execs s p) b)) := by
  simp only [cacheOps, List.mem_cons, List.not_mem_nil, or_false, forall_eq_or_imp, forall_eq]
  refine ⟨?_, ?_, ?_, ?_⟩
  all_goals exact (cacheopM_run h hf ha hb (by decide) hin).trans (forM_modS _ _ _)

end

/-! ### Prefetches (R243, R414) -/

/-- Two states have the same issuing context and the same checkpointed registers. -/
def SameRegs (s t : State) : Prop := issuing t = issuing s ∧ t.cur = s.cur ∧ (curGroup t).r = (curGroup s).r

namespace SameRegs

variable {s t u : State}

theorem refl (s : State) : SameRegs s s := ⟨rfl, rfl, rfl⟩

theorem trans (h : SameRegs s t) (k : SameRegs t u) : SameRegs s u := ⟨k.1.trans h.1, k.2.1.trans h.2.1, k.2.2.trans h.2.2⟩

theorem of_sameIssue (h : SameIssue s t) : SameRegs s t := ⟨h.issuing, h.1, by rw [h.curGroup]⟩

theorem deferring (h : issuing s = true) (e : Effect) : SameRegs s (deferring s e) :=
  ⟨issuing_modCur .., modCur_cur .., by rw [Machine.deferring, withChunk, curGroup_modCur _ h]⟩

end SameRegs

/-- The line that a prefetch brings, and the state that its checks leave: none where they fail, or beyond HBM, or at poison. -/
def prefetchLine (va : Dword) (t : Nat) (s : State) : Option (Nat × State) :=
  match checkAccess { n := 1, poisonOk := true } t va s with
  | .ok ((pas, mmio), s') => if mmio || pas.any (fun a => !inHbm a || isPoisoned s (a / 128)) then none else some (pas.headD 0 / 128, s')
  | .error _ => none

/-- What a prefetch that is bound to no barrier does with its line. -/
def prefetched (va : Dword) (c : Nat) : Option (Nat × State) → State → State
  | none, s => s
  | some (l, s), _ =>
    if !missing (coreAt s c) l || decide (l ∈ (coreAt s c).fills) || decide (2048 ≤ (coreAt s c).fills.length) then s
    else if stashMaps (coreAt s c) (va.toNat % 2 ^ 57 / 128) then touchStash s c l
    else send (modCore s c (fun k => { k with fills := k.fills ++ [l] })) (sliceAgent (homeSlice l)) c (.fillReturn c l)

/-- What a thread's prefetch leaves. -/
def prefetchLeft (va : Dword) (t : Nat) (s : State) : State :=
  match boundBarrier s with
  | some b => deferring (((prefetchLine va t s).map (·.2)).getD s) (.pending b (((prefetchLine va t s).map (·.1)).getD (2 ^ 57)))
  | none => prefetched va s.cur.core (prefetchLine va t s) s

theorem prefetchLine_failed {va : Dword} {t : Nat} {s : State} {e : Stop} (h : checkAccess { n := 1, poisonOk := true } t va s = .error e) :
    prefetchLine va t s = none := by
  simp only [prefetchLine, h]

theorem prefetchLine_ignored {va : Dword} {t : Nat} {s y : State} {pas : List Nat} {mmio : Bool}
    (h : checkAccess { n := 1, poisonOk := true } t va s = .ok ((pas, mmio), y))
    (hbad : (mmio || pas.any (fun a => !inHbm a || isPoisoned s (a / 128))) = true) : prefetchLine va t s = none := by
  simp only [prefetchLine, h]
  rw [if_pos hbad]

theorem prefetchLine_found {va : Dword} {t : Nat} {s y : State} {pas : List Nat} {mmio : Bool}
    (h : checkAccess { n := 1, poisonOk := true } t va s = .ok ((pas, mmio), y))
    (hgood : (mmio || pas.any (fun a => !inHbm a || isPoisoned s (a / 128))) = false) : prefetchLine va t s = some (pas.headD 0 / 128, y) := by
  simp only [prefetchLine, h]
  rw [if_neg (ne_true_of_eq_false hgood)]

/-- A prefetch always completes: its checks' failures are ignored (R243). -/
theorem prefetchLane_run (va : Dword) (t : Nat) (s : State) : prefetchLane va t s = .ok ((), prefetchLeft va t s) := by
  unfold prefetchLane prefetchLeft
  rcases hcheck : checkAccess { n := 1, poisonOk := true } t va s with e | ⟨⟨pas, mmio⟩, y⟩
  · rw [prefetchLine_failed hcheck]
    rcases boundBarrier s with _ | b <;> rfl
  · cases hbad : (mmio || pas.any (fun a => !inHbm a || isPoisoned s (a / 128))) with
    | true =>
      rw [prefetchLine_ignored hcheck hbad]
      dsimp only
      rw [hbad, if_pos rfl]
      rcases boundBarrier s with _ | b <;> rfl
    | false =>
      rw [prefetchLine_found hcheck hbad]
      dsimp only
      rw [hbad, if_neg Bool.false_ne_true]
      rcases boundBarrier s with _ | b
      · unfold prefetched
        dsimp only
        split
        · rfl
        split <;> rfl
      · rfl

theorem sameIssue_prefetchLine {va : Dword} {t l : Nat} {s y : State} (h : prefetchLine va t s = some (l, y)) : SameIssue s y := by
  rcases hcheck : checkAccess { n := 1, poisonOk := true } t va s with e | ⟨⟨pas, mmio⟩, z⟩
  · rw [prefetchLine_failed hcheck] at h
    exact absurd h nofun
  · cases hbad : (mmio || pas.any (fun a => !inHbm a || isPoisoned s (a / 128))) with
    | true =>
      rw [prefetchLine_ignored hcheck hbad] at h
      exact absurd h nofun
    | false =>
      rw [prefetchLine_found hcheck hbad] at h
      injection h with h
      injection h with _ h
      subst h
      exact (firm_checkAccess _ _ _).same hcheck

theorem sameRegs_prefetched {va : Dword} {o : Option (Nat × State)} {s : State} (ho : ∀ l y, o = some (l, y) → SameIssue s y) :
    SameRegs s (prefetched va s.cur.core o s) := by
  rcases o with _ | ⟨l, y⟩
  · exact .refl s
  · have hy := ho l y rfl
    have hstash := outer_touchStash_read y y.cur.core l
    have hadd : Outer y.cur.core y (modCore y y.cur.core (fun k => { k with fills := k.fills ++ [l] })) := .modCore y _ fun _ => rfl
    have hfill : Outer y.cur.core y (send (modCore y y.cur.core (fun k => { k with fills := k.fills ++ [l] })) (sliceAgent (homeSlice l)) y.cur.core
        (.fillReturn y.cur.core l)) := hadd.trans (.of_cores rfl rfl rfl rfl)
    rw [← hy.1]
    unfold prefetched
    dsimp only
    split
    · exact .of_sameIssue hy
    split
    · exact .of_sameIssue (hy.trans (.of_outer hstash))
    · exact .of_sameIssue (hy.trans (.of_outer hfill))

theorem sameRegs_prefetchLeft (va : Dword) (t : Nat) {s : State} (h : issuing s = true) : SameRegs s (prefetchLeft va t s) := by
  unfold prefetchLeft
  split
  · cases hline : prefetchLine va t s with
    | none => exact .deferring h _
    | some ly =>
      have hy := sameIssue_prefetchLine (l := ly.1) (y := ly.2) hline
      exact (SameRegs.of_sameIssue hy).trans (.deferring (hy.issuing.trans h) _)
  · exact sameRegs_prefetched fun l y hl => sameIssue_prefetchLine hl

/-- The prefetches of some threads, in order. -/
def prefetchAll (ea : Nat → Dword) (ex : List Nat) (s : State) : State := ex.foldl (fun y t => prefetchLeft (ea t) t y) s

theorem forM_prefetchLane (ea : Nat → Dword) (ex : List Nat) (s : State) :
    ex.forM (fun t => prefetchLane (ea t) t) s = .ok ((), prefetchAll ea ex s) := by
  induction ex generalizing s with
  | nil => rfl
  | cons t ex ih => exact (bind_ok (prefetchLane_run (ea t) t s)).trans (ih _)

theorem sameRegs_prefetchAll (ea : Nat → Dword) (ex : List Nat) {s : State} (h : issuing s = true) : SameRegs s (prefetchAll ea ex s) := by
  unfold prefetchAll
  exact List.foldlRecOn (motive := SameRegs s) _ _ (.refl s) fun y hy t _ => hy.trans (sameRegs_prefetchLeft (ea t) t (hy.1.trans h))

section
variable {s : State} {p : Option Pfx} {a b : Code}

theorem pflM_run (h : issuing s = true) (ha : okPair s a = true) (hb : okSrc s b = true) :
    pflM p a b (entered (unitLen p) s) = .ok ((), prefetchAll (globalAt (entered (unitLen p) s) (entered (unitLen p) s) a b) (execs s p)
      (srcStep (entered (unitLen p) s) (execs s p) b)) := by
  rw [← okPair_entered (unitLen p) h] at ha
  rw [← okSrc_entered (unitLen p) h] at hb
  unfold pflM
  rw [bind_ok (checkOps_ok _ _ (by
      simp only [List.mem_cons, List.not_mem_nil, or_false, forall_eq_or_imp, forall_eq]
      exact ⟨opnd_pair ha, opnd_src hb⟩)),
    bind_ok (execLanes_entered _ h p), globalAddr_bind _ ha hb (fun hex f g => by rw [hex, forM_nil, forM_nil]), forM_prefetchLane]

theorem prefetchLeft_ignored {va : Dword} {t : Nat} {x : State} (hb : boundBarrier x = none) (hl : prefetchLine va t x = none) :
    prefetchLeft va t x = x := by
  unfold prefetchLeft
  rw [hb, hl]
  rfl

end

/-- Settles O26, instruction by instruction. -/
theorem pinAndCacheInstructions : Obligations.PinAndCacheInstructions := by
  unfold Obligations.PinAndCacheInstructions
  intro s s2 s3 p d a b cs h ha hb
  have hstep : (srcStep (entered (unitLen p) s) (execs s p) b).cur = s.cur := by rw [srcStep_cur, entered_cur]
  refine ⟨fun hcheck hguard => ⟨fun hd hread hpin => ?_, ?_⟩, fun x va pa => ⟨lockLine_outside, lockLine_pinned, lockLine_limit, fun hin hp hq =>
      ⟨lockLine_full hin hp hq, fun hw => ?_⟩⟩, fun hf hin => ⟨fun e he => ?_, fun t ht hw => ?_, fun t ht hw => ?_⟩, ?_⟩
  · have hcur : s2.cur = s.cur := ((firm_checkGlobal _ _ _).same hcheck).1.trans hstep
    rw [← hcur] at hread hpin ⊢
    refine issueP_ok (m := llockM p d a b) h (llockM_run h ha hb hd (lineTargets_run hcheck hguard) (lockAll_run ?_ ?_))
    · exact fun e he => by
        obtain ⟨x, hx, rfl⟩ := List.mem_map.1 he
        exact hread x hx
    · exact fun e he => by
        obtain ⟨x, hx, rfl⟩ := List.mem_map.1 he
        exact hpin x hx
  · have hcur : s2.cur = s.cur := ((firm_checkGlobal _ _ _).same hcheck).1.trans hstep
    rw [← hcur]
    exact issueP_ok (m := lunlockM p a b) h (lunlockM_run h ha hb (lineTargets_run hcheck hguard))
  · have hlock := lockLine_pins hin hp hq hw
    refine ⟨congrArg Prod.fst hlock, fun hhere => ?_⟩
    rw [hlock, coreAt_modCore_self]
    exact isPinned_setPin (holdsLine_lockTouched hhere)
  · exact issueP_ok (m := cacheopM p e.1 a b) h (cacheOps_run h hf ha hb hin e he)
  · refine issueP_ok (m := cacheopM p 4 a b) h ((cacheopM_run h hf ha hb (by decide) hin).trans ?_)
    rw [ht] at hw ⊢
    rw [forM_one]
    exact bind_ok hw
  · refine issueP_ok (m := cacheopM p 5 a b) h ((cacheopM_run h hf ha hb (by decide) hin).trans ?_)
    rw [ht] at hw ⊢
    rw [forM_one]
    exact hw
  · refine ⟨_, issueP_ok (m := pflM p a b) h (pflM_run h ha hb), ?_, fun hex => ?_, fun t e hex hbar hfail => ?_, fun t pas y hex hbar hok hbad => ?_⟩
    · exact (sameRegs_prefetchAll _ _ (by rw [issuing_srcStep]; exact issuing_entered _ h)).2.2
    · rw [hex]
      rfl
    · rw [hex] at hfail hbar ⊢
      exact prefetchLeft_ignored hbar (prefetchLine_failed hfail)
    · rw [hex] at hok hbar hbad ⊢
      refine prefetchLeft_ignored hbar (prefetchLine_ignored hok ?_)
      obtain ⟨q, hq, hp⟩ := hbad
      rw [Bool.false_or]
      exact List.any_eq_true.2 ⟨q, hq, by rw [hp, Bool.or_true]⟩

end Sys2Proof.Proofs

/-! # Address faults, and loads of the firmware region (R190, R232, R234, R235, R452)

An address fault is found before anything is performed. In the firmware region a group of PASID 0 has its addresses untranslated: an
aligned word there is in one page and one line of HBM, and where nothing holds that line the whole load completes. -/

namespace Sys2Proof.Proofs

open Sys2Proof Sys2Proof.Machine Sys2Proof.Laws Sys2Proof.Claims

/-! ### Address faults (R234) -/

theorem addAddr_zero (va : Dword) : addAddr va 0 = va := BitVec.add_zero va

theorem checkAccess_misaligned {f : Form} (t : Nat) {va : Dword} (s : State) (ha : f.aligned = true) (hva : va.toNat % f.n ≠ 0) :
    checkAccess f t va s = .error (.fault { code := 0x06, wr := f.wr, lane := t, addr := va.toNat }) := by
  have hbad : (f.aligned && va.toNat % f.n != 0) = true := by simp [ha, hva]
  have hpieces : checkPieces f t [(va, f.n)] s = .error (.fault { code := 0x06, wr := f.wr, lane := t, addr := va.toNat }) :=
    congrFun (if_pos hbad) s
  exact bind_error hpieces

/-- An access that is in one page is one translation. -/
theorem xlatePieces_single {acc : Access} {va : Dword} {n : Nat} {s s' : State} {r : Except XErr Xl}
    (hroom : n ≤ 4096 - va.toNat % 4096) (hx : xlate s s.cur.core (curGroup s).pasid (curGroup s).fmode va acc = (r, s')) :
    xlatePieces acc [(va, n)] s = ([(va, n, [(0, r)])], s') := by
  have hstarts : pageStarts va n = [0] := if_pos hroom
  simp only [xlatePieces, hstarts, xlatePages, addAddr_zero, hx]

theorem checkAccess_noncanonical {f : Form} (t : Nat) {va : Dword} (s : State) (ha : f.aligned = false)
    (hroom : f.n ≤ 4096 - va.toNat % 4096) (hc : canonical va = false) :
    checkAccess f t va s = .error (.fault { code := 0x07, wr := f.wr, lane := t, addr := va.toNat }) := by
  have hx : xlate s s.cur.core (curGroup s).pasid (curGroup s).fmode va { wr := f.wr, who := f.who }
      = (.error (.fault fcTranslation false), s) := by
    unfold xlate
    rw [if_pos (by simp [hc])]
  have hpages : groupPages t [(va, f.n)] { wr := f.wr, who := f.who } f.mmioOk s
      = .error (.fault { code := 0x07, wr := f.wr, lane := t, addr := va.toNat }) := by
    unfold groupPages
    rw [xlatePieces_single hroom hx]
    simp [pagesAt, worstPage, pageRank, addAddr_zero, xfault, fcTranslation]
  have hplain : ¬(f.aligned && va.toNat % f.n != 0) = true := by simp [ha]
  have hpieces : checkPieces f t [(va, f.n)] s = .error (.fault { code := 0x07, wr := f.wr, lane := t, addr := va.toNat }) :=
    (congrFun (if_neg hplain) s).trans (bind_error hpages)
  exact bind_error hpieces

/-! ### What a change of the issuing group's registers keeps -/

/-- What is of no core and no counter is as it was. -/
theorem OwnGroup.outside {s x : State} (h : OwnGroup s x) {α : Type} (f : State → α)
    (hf : ∀ cores ctr, f { s with cores := cores, ctr := ctr } = f s) : f x = f s := by
  have hx : x = { s with cores := x.cores, ctr := x.ctr } := by
    conv_rhs => rw [← h.rest]
    rfl
  rw [hx, hf]

/-- What holds of every group but the issuing one holds of them after a change of that one. -/
theorem otherGroups_modCur {s : State} (f : Group → Group) {P : Nat → Nat × Group → Prop} (hown : ∀ g, P s.cur.core (s.cur.slot, g))
    (h : ∀ ce ∈ s.cores, ∀ ge ∈ ce.2.groups, P ce.1 ge) : ∀ ce ∈ (modCur s f).cores, ∀ ge ∈ ce.2.groups, P ce.1 ge := by
  have hcore : ∀ ge ∈ (coreAt s s.cur.core).groups, P s.cur.core ge := by
    unfold coreAt
    cases hk : aget s.cores s.cur.core with
    | none => exact fun _ hge => absurd hge List.not_mem_nil
    | some k => exact h _ (mem_of_aget hk)
  unfold modCur modGroup
  split
  · exact h
  · intro ce hce ge hge
    rcases mem_aset _ _ _ _ hce with rfl | hold
    · rcases mem_aset _ _ _ _ hge with rfl | hmem
      · exact hown _
      · exact hcore ge hmem
    · exact h ce hold ge hge

theorem otherGroups_srcStep {s : State} (ex : List Nat) (c : Code) {P : Nat → Nat × Group → Prop}
    (hown : ∀ g, P s.cur.core (s.cur.slot, g)) (h : ∀ ce ∈ s.cores, ∀ ge ∈ ce.2.groups, P ce.1 ge) :
    ∀ ce ∈ (srcStep s ex c).cores, ∀ ge ∈ ce.2.groups, P ce.1 ge := by
  unfold srcStep
  split
  · exact otherGroups_modCur _ hown h
  · exact h

/-- Another group than the one at `me` has a commit of the line in progress. -/
def commits (me : Nat × Nat) (line c : Nat) (ge : Nat × Group) : Bool :=
  decide (some (c, ge.1) ≠ some me) && ge.2.done.any (fun k => decide (2 ≤ k.phase) && sigHas k.wsig line)

/-- Another group than the one at `me` has a priority or irrevocable chunk that meets an access to the line. -/
def meets (me : Nat × Nat) (wr : Bool) (line c : Nat) (ge : Nat × Group) : Bool :=
  decide ((c, ge.1) ≠ me) && (ge.2.done ++ [ge.2.open_]).any
    (fun k => (k.pri || k.irr) && decide (k.num ≠ 0) && (sigHas k.wsig line || (wr && sigHas k.rsig line)))

theorem heldRead_eq_false_iff (s : State) (me : Nat × Nat) (line : Nat) :
    heldRead s me line = false ↔ ∀ ce ∈ s.cores, ∀ ge ∈ ce.2.groups, commits me line ce.1 ge = false := by
  rw [show heldRead s me line = s.cores.any (fun ce => ce.2.groups.any (commits me line ce.1)) from rfl]
  simp only [List.any_eq_false, Bool.not_eq_true]

theorem meetsLive_eq_false_iff (s : State) (wr : Bool) (line : Nat) :
    meetsLive s wr line = false ↔ ∀ ce ∈ s.cores, ∀ ge ∈ ce.2.groups, meets (s.cur.core, s.cur.slot) wr line ce.1 ge = false := by
  rw [show meetsLive s wr line = s.cores.any (fun ce => ce.2.groups.any (meets (s.cur.core, s.cur.slot) wr line ce.1)) from rfl]
  simp only [List.any_eq_false, Bool.not_eq_true]

theorem heldRead_srcStep {s : State} (ex : List Nat) (c : Code) {line : Nat} (h : heldRead s (s.cur.core, s.cur.slot) line = false) :
    heldRead (srcStep s ex c) (s.cur.core, s.cur.slot) line = false := by
  rw [heldRead_eq_false_iff] at h ⊢
  exact otherGroups_srcStep ex c (P := fun d ge => commits (s.cur.core, s.cur.slot) line d ge = false) (fun _ => by simp [commits]) h

theorem meetsLive_srcStep {s : State} (ex : List Nat) (c : Code) {wr : Bool} {line : Nat} (h : meetsLive s wr line = false) :
    meetsLive (srcStep s ex c) wr line = false := by
  rw [meetsLive_eq_false_iff] at h ⊢
  rw [srcStep_cur]
  exact otherGroups_srcStep ex c (P := fun d ge => meets (s.cur.core, s.cur.slot) wr line d ge = false) (fun _ => by simp [meets]) h

/-! ### Words of the firmware region (R190, R452) -/

/-- The aligned word at `va` lies in the firmware region, in a line that needs no reconstruction, waits for no packet and meets no commit
in progress and no priority or irrevocable chunk. -/
structure FirmwareWord (s : State) (va : Nat) : Prop where
  low : 0x00EFF0000000 ≤ va
  high : va < 0x00F000000000
  aligned : va % 4 = 0
  whole : needsRebuild s (va / 128) = false
  clean : isPoisoned s (va / 128) = false
  free : heldRead s (s.cur.core, s.cur.slot) (va / 128) = false
  ready : readWaits s (va / 128) = false
  calm : gateLive s false [va / 128] = none

namespace FirmwareWord

variable {s : State} {va : Nat} {a : Dword}

theorem gate_iff (s : State) (lines : List Nat) : gateLive s false lines = none
    ↔ ((curGroup s).open_.pri || (curGroup s).open_.irr) = true → ∀ l ∈ lines, meetsLive s false l = false := by
  unfold gateLive
  simp

theorem srcStep (hi : issuing s = true) (ex : List Nat) (c : Code) (h : FirmwareWord s va) : FirmwareWord (srcStep s ex c) va := by
  have hown := OwnGroup.srcStep s ex c
  have hopen : (curGroup (Machine.srcStep s ex c)).open_ = (curGroup s).open_ :=
    (RegStep.srcStep (vs := fun _ => false) (ks := fun _ => false) hi ex c).field (·.open_) fun _ _ => rfl
  obtain ⟨low, high, aligned, whole, clean, free, ready, calm⟩ := h
  refine ⟨low, high, aligned, ?_, ?_, ?_, ?_, ?_⟩
  · rwa [hown.outside (needsRebuild · _) fun _ _ => rfl]
  · rwa [hown.outside (isPoisoned · _) fun _ _ => rfl]
  · rw [srcStep_cur]
    exact heldRead_srcStep ex c free
  · rwa [hown.outside (readWaits · _) fun _ _ => rfl]
  · rw [gate_iff] at calm ⊢
    rw [hopen]
    exact fun hlive l hl => meetsLive_srcStep ex c (calm hlive l hl)

theorem line (h : FirmwareWord s va) {i : Nat} (hi : i < 4) : (va + i) / 128 = va / 128 := by
  have := h.aligned
  omega

/-- The word's bytes. -/
def bytes (va : Nat) : List Nat := (List.range 4).map (va + ·)

theorem mem_bytes {a : Nat} : a ∈ bytes va ↔ ∃ i < 4, a = va + i := by
  simp [bytes, eq_comm]

/-- It is translated to itself, whatever the access (R190, R452). -/
theorem xlate_eq (h : FirmwareWord s a.toNat) (core : Nat) (fmode : Bool) (acc : Access) :
    xlate s core 0 fmode a acc = (.ok { pa := a.toNat, mmio := false }, s) := by
  have hlow := h.low
  have hhigh := h.high
  have hcanon : canonical a = true := by
    have htop : bitsOf a 63 56 = 0 := by unfold bitsOf; omega
    simp [canonical, htop]
  have hregion : inFwRegion a.toNat = true := by simp [inFwRegion, fwRegion, hbmEnd, hlow, hhigh]
  unfold xlate
  rw [if_neg (by simp [hcanon]), if_pos ⟨rfl, hregion⟩]

theorem groupPages_eq (h : FirmwareWord s a.toNat) (hp : (curGroup s).pasid = 0) (t : Nat) (acc : Access) (m : Bool) :
    groupPages t [(a, 4)] acc m s = .ok ([[(0, { pa := a.toNat, mmio := false })]], s) := by
  have hal := h.aligned
  have hroom : 4 ≤ 4096 - a.toNat % 4096 := by omega
  have hx := h.xlate_eq s.cur.core (curGroup s).fmode acc
  rw [← hp] at hx
  unfold groupPages
  rw [xlatePieces_single hroom hx]
  simp [pagesAt, pagesOk, worstPage, pageRank]

theorem inHbm_of_mem (h : FirmwareWord s va) {x : Nat} (hx : x ∈ bytes va) : inHbm x = true := by
  obtain ⟨i, hi, rfl⟩ := mem_bytes.1 hx
  have hal := h.aligned
  have hhigh := h.high
  exact decide_eq_true (show va + i < 0x00F000000000 by omega)

theorem acquireHost_eq (h : FirmwareWord s va) : acquireHost (bytes va) s = .ok ((), s) := by
  have hnone : (bytes va).filter inHost = [] := by
    refine List.filter_eq_nil_iff.2 fun x hx => ?_
    have hhbm : x < 0x00F000000000 := of_decide_eq_true (h.inHbm_of_mem hx)
    simp only [inHost, Bool.and_eq_true, decide_eq_true_eq]
    omega
  unfold acquireHost
  rw [hnone]
  rfl

theorem formFault_eq (h : FirmwareWord s a.toNat) {f : Form} (hpcie : f.pcieOk = true) (held : Bool) :
    formFault f s [(a, bytes a.toNat)] held = none := by
  have hnone : (bytes a.toNat).zipIdx.find?
      (fun b => !inHbm b.1 && stashMaps (coreAt s s.cur.core) ((a.toNat + b.2) % 2 ^ 57 / 128)) = none := by
    refine List.find?_eq_none.2 fun b hb => ?_
    simp [h.inHbm_of_mem (List.fst_mem_of_mem_zipIdx hb)]
  have hout : stashOutside (coreAt s s.cur.core) a (bytes a.toNat) = none := by
    unfold stashOutside
    rw [hnone]
    rfl
  simp [formFault, hpcie, hout]

/-- The only line that a read of it looks at is its own. -/
theorem home_of_mem (h : FirmwareWord s va) {g : Group} {l : Nat × Nat} (hl : l ∈ readHomes g (bytes va)) : l.2 = va / 128 := by
  simp only [readHomes, List.mem_map, List.mem_filter, List.mem_dedup] at hl
  obtain ⟨line, ⟨⟨x, hx, rfl⟩, -⟩, rfl⟩ := hl
  obtain ⟨i, hi, rfl⟩ := mem_bytes.1 hx
  have hhigh := h.high
  have hdomain : inDomain (128 * (va / 128)) = false := by
    simp only [inDomain, Bool.and_eq_false_imp, decide_eq_true_eq, decide_eq_false_iff_not]
    omega
  rw [h.line hi]
  simp only [homePa, hdomain, Bool.false_and, Bool.false_eq_true, if_false]
  omega

theorem checkPoison_eq (h : FirmwareWord s va) (f : Form) (t : Nat) : checkPoison f t (bytes va) s = .ok ((), s) := by
  have hread : ∀ ls : List (Nat × Nat), (∀ l ∈ ls, l.2 = va / 128) → ls.foldl (fun s l => readLine s l.2) s = s := fun ls hls => by
    induction ls with
    | nil => rfl
    | cons l ls ih =>
      rw [List.foldl_cons, hls l List.mem_cons_self, readLine, h.whole]
      exact ih fun x hx => hls x (List.mem_cons_of_mem _ hx)
  have hclean : (readHomes (curGroup s) (bytes va)).find? (fun l => isPoisoned s l.2) = none :=
    List.find?_eq_none.2 fun l hl => by simp [h.home_of_mem hl, h.clean]
  have hmod : modS (fun s' => (readHomes (curGroup s) (bytes va)).foldl (fun s l => readLine s l.2) s') s = .ok ((), s) :=
    congrArg (fun x => Except.ok ((), x)) (hread _ fun _ hl => h.home_of_mem hl)
  unfold checkPoison
  rw [bind_ok (getG_run s), bind_ok hmod, bind_ok (getS_run ..), hclean]
  rfl

/-- A read of it is checked without a fault, and without a change of the state. -/
theorem checkAccess_eq (h : FirmwareWord s a.toNat) (hp : (curGroup s).pasid = 0) (t : Nat) (m : Bool) :
    checkAccess { n := 4, mmioOk := m } t a s = .ok ((bytes a.toNat, false), s) := by
  have hpieces : checkPieces { n := 4, mmioOk := m } t [(a, 4)] s = .ok (([bytes a.toNat], false), s) := by
    unfold checkPieces
    refine (bind_ok (h.groupPages_eq hp t _ m)).trans ?_
    refine (bind_ok h.acquireHost_eq).trans ?_
    refine (bind_ok (getS_run ..)).trans ?_
    refine (bind_ok (getS_run ..)).trans ?_
    have hfault : ∀ held, formFault { n := 4, mmioOk := m } s (([(a, 4)].map (·.1)).zip
        (([(a, 4)].zip [[(0, ({ pa := a.toNat, mmio := false } : Xl))]]).map (fun e => byteAddrs e.2 e.1.2))) held = none :=
      h.formFault_eq rfl
    refine (congrFun (if_neg Bool.false_ne_true) s).trans ?_
    rw [hfault]
    refine (bind_ok (getG_run s)).trans ?_
    refine (congrFun (if_neg Bool.false_ne_true) s).trans ?_
    refine (congrFun (if_neg Bool.false_ne_true) s).trans ?_
    exact bind_ok (h.checkPoison_eq _ t)
  unfold checkAccess
  rw [bind_ok hpieces]
  rfl

end FirmwareWord

/-- The access of a thread to its word of the firmware region, as its checks leave it. -/
def firmwareChk (ea : Nat → Dword) (t : Nat) : Chk :=
  { lane := t, locs := (FirmwareWord.bytes (ea t).toNat).map .glob, mmio := false, vlines := vlinesOf (ea t) 4 }

section
variable {s : State} {ex : List Nat} {ea : Nat → Dword} (hw : ∀ t ∈ ex, FirmwareWord s (ea t).toNat)
include hw

theorem checkGlobal_firmware (hp : (curGroup s).pasid = 0) (m : Bool) :
    checkGlobal { n := 4, mmioOk := m } ex ea s = .ok (ex.map (firmwareChk ea), s) := by
  unfold checkGlobal
  induction ex with
  | nil => rfl
  | cons t ts ih =>
    rw [List.mapM_cons]
    have hone : (checkAccess { n := 4, mmioOk := m } t (ea t) >>= fun r => (pure
        { lane := t, locs := r.1.map .glob, mmio := r.2, vlines := vlinesOf (ea t) 4 } : M Chk)) s = .ok (firmwareChk ea t, s) :=
      bind_ok ((hw t List.mem_cons_self).checkAccess_eq hp t m)
    refine (bind_ok hone).trans ?_
    rw [bind_ok (ih fun u hu => hw u (List.mem_cons_of_mem _ hu))]
    rfl

/-- The lines that the threads' words lie in. -/
theorem trackedLines_firmware {l : Nat} (hl : l ∈ trackedLines ((ex.map (firmwareChk ea)).flatMap (fun c => globsOf c.locs))) :
    ∃ t ∈ ex, l = (ea t).toNat / 128 := by
  simp only [trackedLines, List.mem_dedup, List.mem_map, List.mem_filter, List.mem_flatMap] at hl
  obtain ⟨x, ⟨⟨c, ⟨t, ht, rfl⟩, hx⟩, -⟩, rfl⟩ := hl
  rw [firmwareChk, globsOf_glob] at hx
  obtain ⟨i, hi, rfl⟩ := FirmwareWord.mem_bytes.1 hx
  exact ⟨t, ht, (hw t ht).line hi⟩

/-- A read of the words enters them: nothing makes it wait. -/
theorem enterReads_firmware (st : List Nat) (hslots : (curGroup s).open_.slots = 0) (hfills : (coreAt s s.cur.core).fills.length < 2048) :
    ∃ z, enterReads ((ex.map (firmwareChk ea)).flatMap (fun c => globsOf c.locs)) st true s = .ok ((), z) := by
  have hline := fun l hl => trackedLines_firmware hw (l := l) hl
  unfold enterReads
  generalize trackedLines ((ex.map (firmwareChk ea)).flatMap (fun c => globsOf c.locs)) = ls at hline
  have hheld : ls.any (heldRead s (s.cur.core, s.cur.slot)) = false := List.any_eq_false.2 fun l hl => by
    obtain ⟨t, ht, rfl⟩ := hline l hl
    simp [(hw t ht).free]
  have hwait : ls.any (readStalls s s.cur.core) = false := List.any_eq_false.2 fun l hl => by
    obtain ⟨t, ht, rfl⟩ := hline l hl
    simp [readStalls, (hw t ht).ready]
  have hgate : gateLive s false ls = none := (FirmwareWord.gate_iff s ls).2 fun hlive l hl => by
    obtain ⟨t, ht, rfl⟩ := hline l hl
    exact (FirmwareWord.gate_iff s _).1 (hw t ht).calm hlive _ List.mem_cons_self
  have hroom : ¬ 2048 ≤ (coreAt s s.cur.core).fills.length := by omega
  simp only [hslots, hheld, hwait, hgate, hroom, ne_eq, not_true_eq_false, decide_false, Bool.and_false, Bool.false_and, Bool.false_eq_true, if_false]
  exact ⟨_, rfl⟩

theorem performReads_firmware (heff : (curGroup s).open_.effects = []) (hdone : (curGroup s).done = [])
    (hslots : (curGroup s).open_.slots = 0) (hfills : (coreAt s s.cur.core).fills.length < 2048) :
    ∃ v z, performReads (ex.map (firmwareChk ea)) true s = .ok (v, z) := by
  have hguard : ∀ ls, guardChange ls s = .ok ((), s) := fun ls => by
    simp [guardChange, touchesChange, heff, hdone]
  have hfresh : ∀ cs z, ∃ n z', freshChoice cs z = .ok (n, z') := fun cs z => by
    unfold freshChoice
    split <;> exact ⟨_, _, rfl⟩
  obtain ⟨y, hy⟩ := enterReads_firmware hw ((ex.map (firmwareChk ea)).flatMap (stashOf (coreAt s s.cur.core))) hslots hfills
  have henter : ∃ z, enterChkReads (ex.map (firmwareChk ea)) true s = .ok ((), z) := by
    unfold enterChkReads
    rw [bind_ok (hguard _)]
    refine ⟨_, (bind_ok (getS_run ..)).trans ((bind_ok hy).trans rfl)⟩
  obtain ⟨x, hx⟩ := henter
  obtain ⟨n, z, hz⟩ := hfresh (ex.map (firmwareChk ea)) x
  exact ⟨_, z, (bind_ok hx).trans (bind_ok hz)⟩

/-- A load of the words completes, and gives each thread its word as the group sees it (R235, R241). -/
theorem loadGlobal_firmware (hp : (curGroup s).pasid = 0) (hn : ex.Nodup) (heff : (curGroup s).open_.effects = [])
    (hdone : (curGroup s).done = []) (hslots : (curGroup s).open_.slots = 0) (hfills : (coreAt s s.cur.core).fills.length < 2048) :
    ∃ v z, loadGlobal 4 ex ea s = .ok (v, z) ∧ SameView s z
      ∧ ∀ t ∈ ex, v t = seenNat s (FirmwareWord.bytes (ea t).toNat) := by
  have hcheck := checkGlobal_firmware hw hp true
  obtain ⟨v, z, hread⟩ := performReads_firmware hw heff hdone hslots hfills
  obtain ⟨hview, n, rfl⟩ := performReads_spec hread
  have hlanes : ((ex.map (firmwareChk ea)).map (·.lane)).Nodup := by
    rw [(checkGlobal_lanes hcheck).1]
    exact hn
  refine ⟨_, z, (loadGlobal_plain hcheck (by simp [firmwareChk])).2 hread, hview, fun t ht => ?_⟩
  have hvalue := chkValue_of_mem z n hlanes (List.mem_map_of_mem (f := firmwareChk ea) ht)
  refine hvalue.trans ((locsNat_glob ..).trans ?_)
  unfold seenNat
  exact congrArg natOfBytes (List.map_congr_left fun a _ => hview.seen a)

end

/-! ### LDG.32 there -/

theorem zeroed_disjoint {s : State} {p : Option Pfx} : ∀ t ∈ zeroed s p, t ∉ execs s p := fun t ht he => by
  unfold zeroed at ht
  split at ht
  · have hout := (List.mem_filter.1 ht).2
    rw [(List.mem_filter.1 he).2] at hout
    exact absurd hout (by decide)
  · exact absurd ht List.not_mem_nil

theorem sameView_putWord (y : State) (d : Code) (ex zl : List Nat) (f : Nat → Word) : SameView y (putWord y d ex zl f) := by
  unfold putWord
  split
  · exact ⟨rfl, rfl, rfl, rfl, rfl, rfl⟩
  · exact .modCur y (fun _ => rfl) fun _ => rfl

theorem srcVal_putWord_vector {y : State} (h : issuing y = true) {d : Code} {ex zl : List Nat} (f : Nat → Word) (hd : d.toNat ≤ 95)
    (hzl : ∀ t ∈ zl, t ∉ ex) {t : Nat} (ht : t ∈ ex) : srcVal (putWord y d ex zl f) d t = f t := by
  rw [srcVal_putWord _ _ _ _ h (by omega) (by omega), readVK_writeVK_vector _ _ hd hzl, if_pos ht]

theorem exec_ldg32 {s z : State} {p : Option Pfx} {d a b : Code} {v : Nat → Nat} (h : issuing s = true) (ha : okPair s a = true)
    (hb : okSrc s b = true) (hd : okDst s d = true)
    (hload : loadGlobal 4 (execs s p) (globalAt (entered (unitLen p) s) (entered (unitLen p) s) a b)
      (srcStep (entered (unitLen p) s) (execs s p) b) = .ok (v, z)) :
    exec (.ldg32 p d a b) s = .next (finish s (putWord z d (execs s p) (zeroed s p) (fun t => BitVec.ofNat 32 (v t)))) := by
  have hmem : (Instr.ldg32, 4, fun v => BitVec.ofNat 32 v) ∈ loads32 := by
    unfold loads32
    exact List.mem_of_mem_getLast? rfl
  rw [loads32_shared p d a b s _ hmem]
  exact issueP_ok h (ldgM_run 4 _ h ha hb hd hload)

/-- Settles O21: the faults come out of the checks, and a firmware word's checks and its performing pass go through. -/
theorem firmwareAccessesAndAddressFaults : Obligations.FirmwareAccessesAndAddressFaults := by
  unfold Obligations.FirmwareAccessesAndAddressFaults
  refine ⟨fun s f t va => ⟨checkAccess_misaligned t s, fun ha _ hroom hc => checkAccess_noncanonical t s ha hroom hc⟩,
    fun s p d a b h _ hp hd ha hb hn => ?_⟩
  dsimp only
  intro hwords heff hdone hslots hfills
  have hi := issuing_entered (unitLen p) h
  have hown := OwnGroup.entered (unitLen p) s
  have hstep : RegStep (fun _ => false) (fun _ => false) (entered (unitLen p) s) (srcStep (entered (unitLen p) s) (execs s p) b) := .srcStep hi _ b
  have hopen := hstep.field (·.open_) fun _ _ => rfl
  have hw : ∀ t ∈ execs s p, FirmwareWord (srcStep (entered (unitLen p) s) (execs s p) b)
      (globalAt (entered (unitLen p) s) (entered (unitLen p) s) a b t).toNat := fun t ht => by
    obtain ⟨-, low, high, aligned, whole, clean, free, ready, calm⟩ := hwords t ht
    exact FirmwareWord.srcStep hi _ b ⟨low, high, aligned, whole, clean, by rwa [hown.cur], ready, calm⟩
  obtain ⟨v, z, hload, hview, hval⟩ := loadGlobal_firmware hw
    ((hstep.field (·.pasid) fun _ _ => rfl).trans ((entered_field (unitLen p) h (·.pasid) fun _ _ _ _ _ _ _ _ _ => rfl).trans hp)) hn
    ((congrArg Chunk.effects hopen).trans heff)
    ((hstep.field (·.done) fun _ _ => rfl).trans ((entered_field (unitLen p) h (·.done) fun _ _ _ _ _ _ _ _ _ => rfl).trans hdone))
    ((congrArg Chunk.slots hopen).trans ((slots_entered (unitLen p) h).trans hslots))
    (by rwa [hstep.own.cur, hstep.own.coreField (·.fills) (fun _ => rfl), hown.cur, hown.coreField (·.fills) fun _ => rfl])
  have hput := sameView_putWord z d (execs s p) (zeroed s p) (fun t => BitVec.ofNat 32 (v t))
  refine ⟨_, exec_ldg32 h ha hb hd hload, fun hd95 t ht => ?_, fun c => ?_, ?_⟩
  · rw [srcVal_putWord_vector (hview.issuing.trans (hstep.own.issuing.trans hi)) _ hd95 zeroed_disjoint ht, hval t ht]
    exact congrArg (fun bs => BitVec.ofNat 32 (natOfBytes bs)) (List.map_congr_left fun x _ => hstep.seen x)
  · rw [hput.seen, hview.seen, hstep.seen]
  · rw [hput.mem, hview.mem, hstep.own.mem, mem_entered]

end Sys2Proof.Proofs

/-! # Chunks that have ended (R161, R221)

What completes an instruction may end its group's chunk, and then commits what can be committed and releases the effects of that. Nothing in
it opens a chunk: a slot in which none is open stays so. One lemma says this of each operation, in the order of the model. -/

namespace Sys2Proof.Proofs

open Sys2Proof Sys2Proof.Machine Sys2Proof.Laws Sys2Proof.Claims

/-- The device issues from where `m` names, and slot `v` of core `u` has no chunk open. -/
structure Shut (m : Cur) (u v : Nat) (s : State) : Prop where
  cur : s.cur = m
  closed : ∀ x, groupAt s u v = some x → x.open_.slots = 0

section
variable {m : Cur} {u v : Nat} {s t : State}

/-! ### Cores, groups and lists -/

theorem Shut.congr (h : Shut m u v s) (ht : (t.cur, t.cores) = (s.cur, s.cores)) : Shut m u v t := by
  obtain ⟨hcur, hcores⟩ := Prod.mk.inj ht
  exact ⟨hcur.trans h.cur, fun x hx => h.closed x (by rwa [groupAt_of_cores hcores] at hx)⟩

theorem Shut.foldl {α : Type} {f : State → α → State} (h : Shut m u v s) (hf : ∀ t a, Shut m u v t → Shut m u v (f t a)) (ls : List α) :
    Shut m u v (ls.foldl f s) :=
  List.foldlRecOn (motive := Shut m u v) ls f h fun t ht a _ => hf t a ht

theorem Shut.ite {p : Prop} [Decidable p] (hs : Shut m u v s) (ht : Shut m u v t) : Shut m u v (if p then s else t) := by
  split <;> assumption

theorem shut_setCore (h : Shut m u v s) {c : Nat} {k : Core} (hk : k.groups = (coreAt s c).groups) : Shut m u v (setCore s c k) := by
  refine ⟨h.cur, fun x hx => ?_⟩
  unfold groupAt at hx
  rw [coreAt_setCore] at hx
  split at hx
  next hc => exact h.closed x (by rw [hc]; unfold groupAt; rwa [← hk])
  · exact h.closed x hx

theorem shut_modCore (h : Shut m u v s) {c : Nat} {f : Core → Core} (hf : (f (coreAt s c)).groups = (coreAt s c).groups) :
    Shut m u v (modCore s c f) :=
  shut_setCore h hf

theorem shut_setGroup (h : Shut m u v s) {c g : Nat} {y : Group} (hy : c = u → g = v → y.open_.slots = 0) :
    Shut m u v (setGroup s c g y) := by
  refine ⟨h.cur, fun x hx => ?_⟩
  rw [groupAt_setGroup] at hx
  split at hx
  next hcg =>
    injection hx with hx
    rw [← hx]
    exact hy hcg.1.symm hcg.2.symm
  · exact h.closed x hx

/-- Replacing a group by one with the same open chunk. -/
theorem shut_setGroup_of (h : Shut m u v s) {c g : Nat} {x y : Group} (hg : groupAt s c g = some x) (hy : y.open_ = x.open_) :
    Shut m u v (setGroup s c g y) :=
  shut_setGroup h fun hc hs => by rw [hy]; exact h.closed x (by rw [← hc, ← hs]; exact hg)

theorem shut_modGroup (h : Shut m u v s) {c g : Nat} {f : Group → Group} (hf : ∀ x, x.open_.slots = 0 → (f x).open_.slots = 0) :
    Shut m u v (modGroup s c g f) := by
  unfold modGroup
  split
  · exact h
  next x hx =>
    refine shut_setGroup h fun hc hg => hf x (h.closed x ?_)
    rwa [← hc, ← hg]

/-- A change of a group that keeps its open chunk. -/
theorem shut_regroup (h : Shut m u v s) {c g : Nat} {f : Group → Group} (hf : (fun x => (f x).open_) = fun x => x.open_) :
    Shut m u v (modGroup s c g f) :=
  shut_modGroup h fun x hx => by rw [congrFun hf x]; exact hx

theorem shut_freeSlot (h : Shut m u v s) {c g : Nat} : Shut m u v (freeSlot s c g) := by
  refine ⟨h.cur, fun x hx => ?_⟩
  unfold groupAt freeSlot at hx
  rw [coreAt_modCore] at hx
  split at hx
  next hc =>
    dsimp only at hx
    rw [aget_adel] at hx
    split at hx
    · exact absurd hx nofun
    · exact h.closed x (by rw [hc]; exact hx)
  · exact h.closed x hx

theorem shut_setTeam (h : Shut m u v s) {c i : Nat} {x : Team} : Shut m u v (setTeam s c i x) := shut_modCore h (by rfl)

theorem shut_modTeam (h : Shut m u v s) {c i : Nat} {f : Team → Team} : Shut m u v (modTeam s c i f) := shut_setTeam h

theorem shut_modDie (h : Shut m u v s) {d : Nat} {f : Die → Die} : Shut m u v (modDie s d f) := h.congr (by rfl)

theorem shut_modGrid (h : Shut m u v s) {g : Nat} {f : Grid → Grid} : Shut m u v (modGrid s g f) := h.congr (by rfl)

theorem shut_modCluster (h : Shut m u v s) {g : Nat} {f : Cluster → Cluster} : Shut m u v (modCluster s g f) := h.congr (by rfl)

theorem shut_ctrAdd (h : Shut m u v s) {k n : Nat} : Shut m u v (ctrAdd s k n) := h.congr (by rfl)

theorem shut_coreCtr (h : Shut m u v s) {c k n : Nat} : Shut m u v (coreCtr s c k n) := shut_ctrAdd h

theorem shut_dieCtr (h : Shut m u v s) {d k n : Nat} : Shut m u v (dieCtr s d k n) := shut_ctrAdd h

theorem shut_refuseAdmission (h : Shut m u v s) {k : Nat} : Shut m u v (refuseAdmission s k) := h.ite (h.congr (by rfl))

theorem shut_send (h : Shut m u v s) {a b : Nat} {e : Instr} : Shut m u v (send s a b e) := h.congr (by rfl)

theorem shut_after (h : Shut m u v s) {n : Nat} {e : Instr} : Shut m u v (after s n e) := h.congr (by rfl)

theorem shut_memPut (h : Shut m u v s) {kvs : List (Nat × Byte)} : Shut m u v (memPut s kvs) := h.congr (by rfl)

theorem shut_kickAcc (h : Shut m u v s) {c : Nat} : Shut m u v (kickAcc s c) := h.ite (shut_send h)

theorem shut_sendPacket (h : Shut m u v s) {a x : Nat} {e : Instr} : Shut m u v (sendPacket s a x e) :=
  .ite (shut_send (h.congr (by rfl))) (h.congr (by rfl))

theorem shut_setFpend (h : Shut m u v s) {c : Nat} {bits : Word} : Shut m u v (setFpend s c bits) := shut_modCore h (by rfl)

theorem shut_pendDie (h : Shut m u v s) {d : Nat} {bits : Word} : Shut m u v (pendDie s d bits) := by
  unfold pendDie
  split
  · exact h
  · exact shut_setFpend h

theorem shut_markPoison (h : Shut m u v s) {line : Nat} : Shut m u v (markPoison s line) := .ite (h.congr (by rfl)) (h.congr (by rfl))

/-! ### Lines, directories and squashes -/

theorem shut_l2Room (h : Shut m u v s) {slice : Nat} : Shut m u v (l2Room s slice) := by
  unfold l2Room
  dsimp only
  split
  · exact h
  split
  · exact h
  · exact .ite (shut_sendPacket (h.congr (by rfl))) (h.congr (by rfl))

theorem shut_l2Write (h : Shut m u v s) {line : Nat} : Shut m u v (l2Write s line) :=
  .ite h (.ite (h.congr (by rfl)) ((shut_l2Room h).congr (by rfl)))

theorem shut_leaveL1 (h : Shut m u v s) {x : L1Line} : Shut m u v (leaveL1 s x) := .ite (shut_l2Write h) h

theorem shut_markDirty (h : Shut m u v s) {c line : Nat} : Shut m u v (markDirty c s line) := by
  unfold markDirty
  exact shut_modCore (.ite (h.congr (by rfl)) h) (by rfl)

theorem shut_dirDel (h : Shut m u v s) {c line : Nat} : Shut m u v (dirDel s c line) := by
  unfold dirDel
  split <;> exact (h.congr (by rfl))

theorem shut_leaveDir (h : Shut m u v s) {c line : Nat} : Shut m u v (leaveDir s c line) :=
  .ite h (.ite (shut_dirDel h) (shut_modCore h (by rfl)))

theorem shut_sweepDir (h : Shut m u v s) {c : Nat} : Shut m u v (sweepDir s c) :=
  .ite h ((shut_setCore h (by rfl)).foldl (fun _ _ ht => shut_dirDel ht) _)

theorem shut_dropUncommitted (h : Shut m u v s) {c : Nat} {lines : List Nat} : Shut m u v (dropUncommitted s c lines) :=
  (shut_setCore h (by rfl)).foldl (fun _ _ ht => shut_leaveDir ht) _

theorem shut_unreserve (h : Shut m u v s) {c slot : Nat} {e : Effect} : Shut m u v (unreserve c slot s e) := by
  unfold unreserve
  split
  · exact .ite (shut_modCore h (by rfl)) (shut_send (shut_modCore h (by rfl)))
  · exact shut_modCore h (by rfl)
  · exact shut_modCore h (by rfl)
  · exact shut_modCore h (by rfl)
  · exact shut_modCore h (by rfl)
  · split
    · exact h
    · exact shut_modCore (shut_setTeam h) (by rfl)
  · exact shut_modCore h (by rfl)
  · exact shut_modCore h (by rfl)
  · exact shut_modCore h (by rfl)
  · split
    · exact h
    · exact shut_modCore h (by rfl)
  · exact h

theorem shut_tallyBar (h : Shut m u v s) {c slot : Nat} : Shut m u v (tallyBar s c slot) := by
  unfold tallyBar
  split
  · exact h
  split
  · exact h
  · exact .ite h (shut_regroup (shut_coreCtr h) (by rfl))

theorem shut_dropAcc (h : Shut m u v s) {c slot : Nat} : Shut m u v (dropAcc s c slot) := by
  refine shut_kickAcc (shut_modCore (h.foldl (fun t r ht => ?_) _) (by rfl))
  split
  · exact shut_unreserve ht
  · exact ht

theorem shut_dropAsker (h : Shut m u v s) {me : Nat × Nat} {q : AtsReq → Bool} : Shut m u v (dropAsker s me q) := .ite h (h.congr (by rfl))

theorem shut_squashFrom (h : Shut m u v s) {c slot num : Nat} : Shut m u v (squashFrom s c slot num) := by
  unfold squashFrom
  split
  · exact h
  extract_lets all dead keep s₁ s₂ s₃ gone left s₄ s₅
  have h₁ : Shut m u v s₁ := h.foldl (fun t k ht => ht.foldl (fun _ _ hr => shut_unreserve hr) _) _
  have h₃ : Shut m u v s₃ := shut_coreCtr (shut_dropAcc h₁)
  clear_value s₃
  have h₄ : Shut m u v s₄ := h₃.ite (h₃.congr (by rfl))
  have h₅ : Shut m u v s₅ := h₄.foldl (fun _ _ hd => shut_send hd) _
  clear_value s₅ dead
  split
  · exact h
  · exact shut_sweepDir (shut_dropUncommitted (shut_dropAsker (shut_tallyBar (shut_modGroup h₅ fun _ _ => rfl))))

theorem shut_squashCore (h : Shut m u v s) {c : Nat} {except : Option Nat} {p : Chunk → Bool} : Shut m u v (squashCore s c except p) := by
  refine h.foldl (fun t e ht => .ite ht ?_) _
  split
  · exact ht
  · exact shut_squashFrom ht

theorem shut_askOver (h : Shut m u v s) {k : ChunkRef} : Shut m u v (askOver s k) := by
  unfold askOver
  split
  · exact h
  · exact .foldl (h.congr (by rfl)) (fun _ _ ht => shut_send ht) _

/-! ### Futures, deques and grids -/

theorem shut_modChan (h : Shut m u v s) {c ch : Nat} {f : Chan → Chan} : Shut m u v (modChan s c ch f) := shut_modCore h (by rfl)

theorem shut_modFut (h : Shut m u v s) {c i : Nat} {f : Fut → Fut} : Shut m u v (modFut s c i f) := shut_modCore h (by rfl)

theorem shut_freeFut (h : Shut m u v s) {c i : Nat} : Shut m u v (freeFut s c i) := shut_modFut h

theorem shut_serveWaiter (h : Shut m u v s) {home : Nat} {hd x : Dword} {w : Bool × NodeRef} : Shut m u v (serveWaiter home hd x s w) :=
  .ite (shut_send h) (shut_send h)

theorem shut_resolveAt (h : Shut m u v s) {ctx : Word} {hd x : Dword} : Shut m u v (resolveAt s ctx hd x) :=
  have hserved : ∀ ws : List (Bool × NodeRef), Shut m u v (ws.foldl (serveWaiter (hHome hd) hd x) (modFut s (hHome hd) (hIndex hd)
      (fun f => { f with st := 2, value := x, waiters := [] }))) :=
    fun ws => (shut_modFut h).foldl (fun _ _ ht => shut_serveWaiter ht) ws
  .ite (.ite (shut_freeFut (hserved _)) (hserved _)) (shut_dieCtr h)

theorem shut_itemsDone (h : Shut m u v s) {ctx : Word} {hd : Dword} {n : Nat} : Shut m u v (itemsDone s ctx hd n) :=
  .ite (.ite (shut_resolveAt (shut_modFut h)) (shut_modFut h)) h

theorem shut_resolveFrom (h : Shut m u v s) {c : Nat} {ctx : Word} {hd x : Dword} : Shut m u v (resolveFrom s c ctx hd x) :=
  .ite h (.ite (shut_resolveAt h) (shut_send h))

theorem shut_freeAt (h : Shut m u v s) {hd : Dword} : Shut m u v (freeAt s hd) := .ite (shut_freeFut h) h

theorem shut_gliveAdd (h : Shut m u v s) {g n : Nat} : Shut m u v (gliveAdd s g n) := shut_modGrid h

theorem shut_gliveDone (h : Shut m u v s) {g : Nat} : Shut m u v (gliveDone s g) := by
  unfold gliveDone
  dsimp only
  split
  · exact shut_modGrid h
  · exact .ite (shut_send (shut_modGrid h)) (shut_modGrid h)

theorem shut_kick (h : Shut m u v s) {c : Nat} : Shut m u v (kick s c) := shut_send (shut_send h)

theorem shut_dqDone (h : Shut m u v s) {c kind : Nat} : Shut m u v (dqDone s c kind) := shut_modCore h (by rfl)

theorem shut_pushHot (h : Shut m u v s) {c : Nat} {e : DqEntry} : Shut m u v (pushHot s c e) := shut_send (shut_kick (shut_modCore h (by rfl)))

theorem shut_pushCommit (h : Shut m u v s) {c : Nat} {e : DqEntry} : Shut m u v (pushCommit s c e) :=
  .ite (shut_after (shut_modCore h (by rfl))) (shut_pushHot (shut_dqDone h))

theorem shut_drainReady (h : Shut m u v s) {c : Nat} : Shut m u v (drainReady s c) := by
  unfold drainReady
  extract_lets k
  split
  · exact h
  refine .ite h (.ite (shut_after h) ?_)
  extract_lets s₁ s₂
  have h₂ : Shut m u v s₂ := by
    unfold s₂
    split
    · exact shut_modCore h (by rfl)
    · exact shut_pushHot (shut_dqDone (shut_modCore h (by rfl)))
  exact h₂.ite (shut_after h₂)

theorem shut_leftDeque (h : Shut m u v s) {c : Nat} : Shut m u v (leftDeque s c) :=
  .ite (shut_drainReady h) (shut_send (shut_drainReady h))

theorem shut_removeClaimed (h : Shut m u v s) {c : Nat} {hd ca : Dword} : Shut m u v (removeClaimed s c hd ca) :=
  .ite (shut_after (shut_modCore h (by rfl))) (shut_leftDeque (shut_dqDone (shut_modCore h (by rfl))))

theorem shut_sendFreg (h : Shut m u v s) {n : NodeRef} {hd : Dword} : Shut m u v (sendFreg s n hd) := shut_send h

theorem shut_groupLive (h : Shut m u v s) {g : Option Nat} : Shut m u v (groupLive s g) := by
  unfold groupLive
  split
  · exact h
  · exact shut_gliveAdd h

/-! ### Faults, aborts and calls -/

theorem shut_abortCheck (h : Shut m u v s) {g : Nat} : Shut m u v (abortCheck s g) := by
  unfold abortCheck
  split
  · exact h
  · exact .ite (shut_send h) h

theorem shut_nudgeGroup (h : Shut m u v s) {c slot : Nat} : Shut m u v (nudgeGroup s c slot) := by
  unfold nudgeGroup
  split
  · exact h
  · exact .ite (shut_send h) h

theorem shut_abortGroup (h : Shut m u v s) {c slot : Nat} : Shut m u v (abortGroup s c slot) := by
  have hend : ∀ x : Group, x.open_.slots = 0 → (if quiet x then
      { x with stop := some { kind := 1, skid := 0, cks := ckstatWord x }, watch := [], replay := none } else { x with atEnd := some 4 }).open_.slots
        = 0 := fun x hx => by split <;> exact hx
  unfold abortGroup
  split
  · exact h
  split
  · exact shut_nudgeGroup (shut_modGroup h hend)
  · exact shut_nudgeGroup (shut_modGroup (shut_squashFrom h) hend)

theorem shut_noteAbort (h : Shut m u v s) {p code : Nat} : Shut m u v (noteAbort s p code) := by
  unfold noteAbort
  split
  · exact h
  · exact .ite h (shut_memPut h)

theorem shut_abortGrid (h : Shut m u v s) {g code : Nat} : Shut m u v (abortGrid s g code) := by
  unfold abortGrid
  split
  · exact h
  · refine .ite h ?_
    extract_lets s₁ s₂ gone s₃
    have h₁ : Shut m u v s₁ := shut_modGrid (shut_noteAbort h)
    have h₂ : Shut m u v s₂ := h₁.foldl (fun _ _ ht => ht.foldl (fun _ _ hr => shut_abortGroup hr) _) _
    clear_value s₂
    have h₃ : Shut m u v s₃ := (h₂.congr (by rfl)).foldl (fun _ _ ht => shut_askOver ht) _
    exact shut_abortCheck h₃

theorem shut_postFault (h : Shut m u v s) {e : FaultEnt} : Shut m u v (postFault s e) :=
  .ite h (.ite (shut_send (shut_pendDie (shut_modDie h))) (shut_modDie h))

theorem shut_writeFaultSection (h : Shut m u v s) {p : Nat} {r : FaultRec} : Shut m u v (writeFaultSection s p r) := by
  unfold writeFaultSection
  split
  · exact h
  · exact .ite h (shut_memPut h)

theorem shut_settle (h : Shut m u v s) {c team : Nat} : Shut m u v (settle s c team) := by
  unfold settle
  dsimp only
  split
  · exact h
  refine .ite h (.ite (shut_postFault (shut_modTeam h)) ?_)
  split
  · exact shut_modTeam h
  · exact shut_abortGrid (shut_writeFaultSection (shut_modTeam h))

theorem shut_uncall (h : Shut m u v s) {c team : Nat} {x : PendCall} : Shut m u v (uncall s c team x) := by
  unfold uncall
  split
  · exact .ite (shut_modCore h (by rfl)) (.ite (shut_pushHot h) (shut_modCore h (by rfl)))
  · split
    · exact h
    · exact shut_modGrid h

theorem shut_uncont (h : Shut m u v s) {c team : Nat} {x : PendCall} : Shut m u v (uncont s c team x) := by
  unfold uncont
  exact shut_modTeam h

theorem shut_dropCall (h : Shut m u v s) {c team : Nat} : Shut m u v (dropCall s c team) := by
  unfold dropCall
  split
  · exact h
  · exact shut_modTeam (shut_uncont (shut_uncall h))

theorem shut_stopGroup (h : Shut m u v s) {c slot : Nat} {pc : PC} {fi : FaultInfo} {cks : Word} :
    Shut m u v (stopGroup s c slot pc fi cks) := by
  unfold stopGroup
  split
  · exact h
  · refine .ite (shut_postFault (shut_regroup h (by rfl))) (.ite (shut_settle (shut_dropCall (shut_regroup h (by rfl)))) ?_)
    exact shut_settle (.foldl (shut_modTeam (shut_dropCall (shut_regroup h (by rfl)))) (fun _ _ ht => shut_send ht) _)

/-! ### Engine operations -/

theorem shut_engineFail (h : Shut m u v s) {o : EngOp} {code addr : Nat} : Shut m u v (engineFail s o code addr) := shut_modTeam h

theorem shut_markReady (h : Shut m u v s) {c : Nat} : Shut m u v (markReady s c) := .ite (shut_modCore h (by rfl)) h

theorem shut_engineKick (h : Shut m u v s) {c : Nat} : Shut m u v (engineKick s c) := by
  have hsent : ∀ os : List EngOp, Shut m u v (os.foldl (fun s o =>
      if s.net.any (fun m => decide (m.ev = .engineOpComplete c o.order)) then s
      else send s c c (.engineOpComplete c o.order)) (markReady s c)) :=
    fun os => (shut_markReady h).foldl (fun _ _ ht => ht.ite (shut_send ht)) os
  unfold engineKick
  refine .ite (shut_markReady h) (.ite (hsent _) ?_)
  split
  · exact shut_after (shut_modCore (hsent _) (by rfl))
  · exact .ite (shut_refuseAdmission (hsent _)) (hsent _)

theorem shut_leaveSlots (h : Shut m u v s) {c team : Nat} {t : Team} : Shut m u v (leaveSlots s c team t) := by
  unfold leaveSlots
  split
  · exact h
  · exact shut_kick (shut_modCore h (by rfl))

theorem shut_closeTeam (h : Shut m u v s) {c team : Nat} : Shut m u v (closeTeam s c team) :=
  .ite h (.ite (.ite (shut_leaveSlots h) h) (shut_kickAcc (shut_kick (shut_modCore h (by rfl)))))

theorem shut_dropUnarrived (h : Shut m u v s) {c team : Nat} : Shut m u v (dropUnarrived s c team) := shut_modCore h (by rfl)

theorem shut_finishOp (h : Shut m u v s) {o : EngOp} : Shut m u v (finishOp s o) :=
  shut_engineKick (shut_kickAcc (shut_closeTeam (shut_modCore h (by rfl))))

theorem shut_mmaArrived (h : Shut m u v s) {o : EngOp} : Shut m u v (mmaArrived s o) :=
  .ite (shut_finishOp h) (.ite (shut_finishOp (shut_engineFail h)) (shut_engineKick h))

theorem shut_modOp (h : Shut m u v s) {c order : Nat} {f : EngOp → EngOp} : Shut m u v (modOp s c order f) := shut_modCore h (by rfl)

theorem shut_mmaRelease (h : Shut m u v s) {o : EngOp} : Shut m u v (mmaRelease s o) := by
  unfold mmaRelease
  extract_lets s₁
  have h₁ : Shut m u v s₁ := by
    unfold s₁
    split
    · exact shut_modOp (shut_engineFail h)
    · exact h
  split
  · exact h₁
  · exact .ite (shut_mmaArrived h₁) (.ite (shut_engineKick (shut_kickAcc h₁)) h₁)

theorem shut_releaseOp (h : Shut m u v s) {o : EngOp} : Shut m u v (releaseOp s o) := by
  unfold releaseOp
  dsimp only
  split
  · exact shut_mmaRelease (shut_modOp h)
  · refine .ite (shut_engineFail (shut_modCore h (by rfl))) (.ite (shut_engineFail (shut_modCore h (by rfl))) ?_)
    refine .ite (shut_mmaRelease ?_) (shut_engineKick ?_)
    all_goals exact .ite (shut_modTeam (shut_modCore (shut_modCore h (by rfl)) (by rfl))) (shut_modCore (shut_modCore h (by rfl)) (by rfl))

/-! ### The firmware's devices -/

theorem shut_startFmode (h : Shut m u v s) {c : Nat} {entry : PC} : Shut m u v (startFmode s c entry) :=
  shut_setTeam (shut_setGroup (h.congr (by rfl)) fun _ _ => rfl)

theorem shut_imgChk (h : Shut m u v s) {x : Dword} : Shut m u v (imgChk s x) := by
  unfold imgChk
  split
  · exact h
  · exact shut_after (h.congr (by rfl))

theorem shut_flashStart (h : Shut m u v s) {x : Dword} : Shut m u v (flashStart s x) := by
  unfold flashStart
  split
  · exact h
  · exact .ite (h.congr (by rfl)) (shut_after (h.congr (by rfl)))

theorem shut_armWatch (h : Shut m u v s) {x : Dword} : Shut m u v (armWatch s x) :=
  .ite h (shut_after ((h.congr (by rfl)).foldl (fun _ _ ht => shut_setFpend ht) _))

theorem shut_fwCommand (h : Shut m u v s) {off : Nat} {x : Dword} : Shut m u v (fwCommand s off x) :=
  .ite (shut_imgChk h) (.ite (shut_flashStart h) (.ite (shut_armWatch h) h))

theorem shut_requestLine (h : Shut m u v s) {c line : Nat} : Shut m u v (requestLine c s line) := .ite h (shut_send (shut_modCore h (by rfl)))

/-! ### Calls, tasks and their ends -/

theorem shut_putCursor (h : Shut m u v s) {c i : Nat} {next hi : Word} : Shut m u v (putCursor s c i next hi) := shut_memPut h

theorem shut_newPiece (h : Shut m u v s) {c grid n : Nat} {ca : Dword} {cl : List Dword} {r : Nat × State}
    (hr : newPiece s c grid ca cl n = some r) : Shut m u v r.2 := by
  obtain ⟨i, -, rfl⟩ := Option.map_eq_some_iff.1 hr
  exact shut_putCursor (shut_modCore h (by rfl))

theorem shut_pieceEnd (h : Shut m u v s) {c i : Nat} : Shut m u v (pieceEnd s c i) := by
  unfold pieceEnd
  split
  · exact h
  · exact .ite (.ite (shut_pushCommit (shut_modCore h (by rfl))) (shut_kick (shut_modCore h (by rfl)))) (shut_gliveDone (shut_modCore h (by rfl)))

theorem shut_enterChild (h : Shut m u v s) {c slot : Nat} {p : PendCall} {solo : Bool} : Shut m u v (enterChild c p solo s slot) := by
  unfold enterChild
  split
  · exact h
  next g hg =>
    extract_lets dest s₁
    have h₁ : Shut m u v s₁ := shut_memPut h
    have hg' : groupAt s₁ c slot = some g := (groupAt_of_cores (memPut_cores ..) c slot).trans hg
    clear_value s₁
    have h₂ : Shut m u v { s₁ with uids := s₁.uids + 1 } := h₁.congr (by rfl)
    exact shut_setGroup_of h₂ hg' rfl

theorem shut_startCall (h : Shut m u v s) {c team : Nat} : Shut m u v (startCall s c team) := by
  unfold startCall
  dsimp only
  split
  · exact h
  next p _ =>
    have hmembers : ∀ {t : State} {ms : List (Nat × Group)} {f : Group → Group} {solo : Bool} {g : Team → Team}, Shut m u v t →
        (∀ x, (f x).open_ = x.open_) → Shut m u v (coreCtr (modTeam (ms.foldl (fun s m => enterChild c p solo s m.1)
          (ms.foldl (fun s m => modGroup s c m.1 f) t)) c team g) c 10 1) := fun ht hf =>
      shut_coreCtr (shut_modTeam (.foldl (ht.foldl (fun _ _ hr => shut_modGroup hr fun x hx => by rw [hf]; exact hx) _)
        (fun _ _ hr => shut_enterChild hr) _))
    refine .ite h (.ite ?_ (.ite ?_ (hmembers h fun _ => rfl)))
    · split
      · exact h
      · exact shut_stopGroup (shut_regroup h (by rfl))
    · split
      · exact h
      next hr => exact hmembers (shut_newPiece h hr) fun _ => rfl

theorem shut_leaveChild (h : Shut m u v s) {c : Nat} {solo : Bool} {e : Nat × Kept} : Shut m u v (leaveChild c solo s e) := by
  unfold leaveChild
  split
  · exact h
  next g hg =>
    dsimp only
    split
    · exact h
    · exact shut_setGroup_of h hg (by rfl)

theorem shut_returnCall (h : Shut m u v s) {c team : Nat} {tk : Task} {info : CallInfo} {j : Nat × Dword} :
    Shut m u v (returnCall s c team tk info j) := by
  unfold returnCall
  dsimp only
  have hleft : ∀ {es : List (Nat × Kept)} {solo : Bool} {f : Team → Team}, Shut m u v (modTeam (es.foldl (leaveChild c solo) s) c team f) :=
    shut_modTeam (h.foldl (fun _ _ ht => shut_leaveChild ht) _)
  split
  · exact shut_regroup hleft (by rfl)
  split
  · exact shut_freeAt (shut_regroup hleft (by rfl))
  · exact shut_send (shut_regroup hleft (by rfl))
  · exact shut_send (shut_regroup hleft (by rfl))

theorem shut_taskEnd (h : Shut m u v s) {c team : Nat} : Shut m u v (taskEnd s c team) := by
  unfold taskEnd
  extract_lets t ctx x
  split
  · exact h
  · extract_lets local_ before s₁ s₂ j
    have h₁ : Shut m u v s₁ := h.ite (shut_resolveFrom h)
    have h₂ : Shut m u v s₂ := by
      unfold s₂
      split
      · exact shut_pieceEnd h
      · cases t.grid with
        | none => exact h₁
        | some g => exact shut_gliveDone h₁
    split
    · exact shut_returnCall h₂
    · exact shut_closeTeam (shut_dropUnarrived (shut_modTeam h₂))

theorem shut_groupEnd (h : Shut m u v s) {c slot : Nat} {e : Option Dword} : Shut m u v (groupEnd s c slot e) := by
  unfold groupEnd
  split
  · exact h
  · extract_lets t called s₁ s₂
    have h₂ : Shut m u v s₂ := shut_modTeam (.ite (shut_regroup h (by rfl)) (shut_freeSlot h))
    exact .ite (shut_taskEnd h₂) h₂

theorem shut_putBar (h : Shut m u v s) {b : BarRef} {x : BarObj} : Shut m u v (putBar s b x) := by
  unfold putBar
  split
  · exact shut_modTeam h
  · exact shut_modCluster h
  · exact shut_modGrid h

/-! ### What is kept for the boundary, and what a commit releases -/

theorem shut_emptied (h : Shut m u v s) {c : Nat} : Shut m u v (modCore s c (fun k => { k with groups := [], teams := [] })) := by
  refine ⟨h.cur, fun x hx => ?_⟩
  unfold groupAt at hx
  rw [coreAt_modCore] at hx
  split at hx
  · exact absurd hx nofun
  · exact h.closed x hx

theorem shut_atBoundaryDo (h : Shut m u v s) {c slot : Nat} : Shut m u v (atBoundaryDo s c slot) := by
  unfold atBoundaryDo
  split
  · exact h
  refine .ite h ?_
  split
  · exact h
  refine .ite (.ite (shut_startFmode (shut_emptied h)) h) ?_
  extract_lets s₁ s₂ s₃
  have h₂ : Shut m u v s₂ := shut_settle (shut_regroup h (by rfl))
  have h₃ : Shut m u v s₃ := .ite (shut_send h₂) h₂
  split
  · exact h₃
  · exact shut_abortCheck h₃

theorem shut_enterExts (h : Shut m u v s) {c slot uid : Nat} {e : Effect} : Shut m u v (enterExts c slot uid s e) := by
  unfold enterExts
  split
  · exact h.foldl (fun _ _ ht => (ht.congr (by rfl))) _
  · exact h

theorem shut_sendExt (h : Shut m u v s) {c slot : Nat} : Shut m u v (sendExt c slot s) := shut_send (h.congr (by rfl))

theorem shut_sendRed (h : Shut m u v s) {r : Red} : Shut m u v (sendRed s r) := shut_send (h.congr (by rfl))

theorem shut_markFresh (h : Shut m u v s) {c base i : Nat} : Shut m u v (markFresh s c base i) :=
  h.foldl (fun _ _ ht => ht.ite (shut_modCore ht (by rfl))) _

theorem shut_enterCopy (h : Shut m u v s) {x : Copy} : Shut m u v (enterCopy s x) :=
  .ite (shut_send (h.congr (by rfl))) (shut_sendFreg (h.congr (by rfl)))

theorem shut_squashRange (h : Shut m u v s) {c slot : Nat} {e : Effect} : Shut m u v (squashRange s c slot e) := by
  unfold squashRange
  split
  · exact shut_squashCore h
  · exact h

theorem shut_awaitChunks (h : Shut m u v s) {ws : List ChunkRef} : Shut m u v (awaitChunks s ws) :=
  h.foldl (fun _ _ ht => shut_modGroup ht fun x hx => by split <;> exact hx) _

theorem shut_dropScratch (h : Shut m u v s) {c sline nline : Nat} : Shut m u v (dropScratch s c sline nline) := by
  unfold dropScratch
  exact shut_modCore h (by rfl)

theorem shut_dropStash (h : Shut m u v s) {c p : Nat} {ls : List Nat} {keep : Bool} : Shut m u v (dropStash s c p ls keep) :=
  .foldl (shut_modCore (h.ite (h.foldl (fun _ _ ht => shut_leaveL1 ht) _)) (by rfl)) (fun _ _ ht => shut_leaveDir ht) _

theorem shut_prepareDrop (h : Shut m u v s) {c slot p : Nat} {e : Effect} : Shut m u v (prepareDrop c slot p s e) := by
  unfold prepareDrop
  split
  · exact shut_regroup h (by rfl)
  · exact h

theorem shut_modViews (h : Shut m u v s) {c slot : Nat} {f : GRegs → GRegs} : Shut m u v (modViews s c slot f) :=
  shut_modGroup h fun x hx => by simp [hx]

theorem shut_barWake (h : Shut m u v s) {c slot i : Nat} {f : State → (GRegs → GRegs) → State}
    (hf : ∀ r, Shut m u v (f s r)) : Shut m u v (barWake s c slot i f) := by
  unfold barWake
  split
  · exact h
  split
  · exact h
  · exact .ite h (shut_tallyBar (.ite (shut_regroup (hf _) (by rfl)) (hf _)))

theorem shut_armWaitaddr (h : Shut m u v s) {c slot line timeout : Nat} {lanes : List Nat} :
    Shut m u v (armWaitaddr s c slot lanes line timeout) :=
  .ite (shut_modViews h) (.ite (shut_after (shut_after (shut_regroup h (by rfl)))) (shut_after (shut_regroup h (by rfl))))

theorem shut_postSyscall (h : Shut m u v s) {c slot : Nat} {imm : BitVec 14} {pc : PC} {args : List Word} :
    Shut m u v (postSyscall s c slot imm pc args) := shut_pendDie (shut_modDie h)

theorem shut_retractCall (h : Shut m u v s) {c slot : Nat} {x : PendCall} : Shut m u v (retractCall s c slot x) := by
  unfold retractCall
  split
  · exact h
  · exact shut_modViews (shut_uncont (shut_unreserve h))

theorem shut_releasePoison (h : Shut m u v s) {e : Nat × List Nat} : Shut m u v (releasePoison s e) :=
  .ite h ((shut_markPoison h).congr (by rfl))

theorem shut_releaseEffect (h : Shut m u v s) {c slot : Nat} {e : Effect} : Shut m u v (releaseEffect c slot s e) := by
  unfold releaseEffect
  split
  · exact h
  extract_lets ctx
  split
  · exact shut_pushCommit (shut_groupLive (shut_modCore h (by rfl)))
  · extract_lets s₁
    split
    · exact shut_modCore h (by rfl)
    · exact .foldl (shut_modCore (shut_groupLive (shut_modCore h (by rfl))) (by rfl)) (fun _ _ ht => shut_sendFreg ht) _
  · exact .ite h (.ite (shut_resolveFrom h) (.ite (shut_modFut h) h))
  · exact shut_modTeam h
  · exact h
  · exact shut_resolveFrom h
  · exact .ite (shut_freeAt (shut_regroup h (by rfl))) (shut_send (shut_regroup h (by rfl)))
  · exact shut_send h
  · exact shut_modChan h
  · exact shut_sendRed h
  · exact h.foldl (fun _ _ ht => shut_sendExt ht) _
  · exact shut_enterCopy (shut_groupLive h)
  · exact .ite (shut_modCore h (by rfl)) (shut_modCore (shut_dropScratch (shut_squashRange h)) (by rfl))
  · exact shut_dropScratch (shut_modCore (shut_dropStash (shut_squashRange h)) (by rfl))
  · exact shut_modCore (shut_dropStash (shut_squashRange h)) (by rfl)
  · exact shut_squashRange h
  · exact h
  · exact shut_releaseOp (.ite (shut_modViews h) h)
  · exact shut_modViews h
  · exact .ite h (.ite (shut_itemsDone h) (shut_send h))
  · exact shut_send h
  · refine .ite (shut_retractCall h) ?_
    extract_lets entry s₁ tag s₂
    have h₁ : Shut m u v s₁ := by
      unfold s₁
      split
      · exact shut_groupLive h
      · exact shut_removeClaimed h
    have h₂ : Shut m u v s₂ := shut_modTeam (h₁.congr (by rfl))
    exact h₂.foldl (fun _ _ ht => shut_sendFreg ht) _
  · exact shut_barWake h fun _ => shut_modViews h
  · exact shut_regroup h (by rfl)
  · exact shut_send (shut_markFresh (shut_regroup h (by rfl)))
  · exact .ite (shut_modCore h (by rfl)) (.ite (shut_requestLine (shut_modCore (shut_putBar h) (by rfl))) (shut_send (shut_putBar h)))
  · exact .foldl (h.congr (by rfl)) (fun _ _ ht => shut_send ht) _
  · exact shut_armWaitaddr h
  · exact shut_postSyscall h
  · exact shut_fwCommand h
  · exact shut_groupEnd h

theorem shut_releaseScratch (h : Shut m u v s) {ws : Sparse (Option Byte)} : Shut m u v (releaseScratch s ws) := by
  refine h.foldl (fun t e ht => ?_) _
  split
  · exact ht
  · exact shut_modCore ht (by rfl)

theorem shut_finishCommit (h : Shut m u v s) {c slot : Nat} : Shut m u v (finishCommit s c slot) := by
  unfold finishCommit
  split
  · exact h
  next g hg =>
    split
    · exact h
    · extract_lets s₁ fx s₂ s₃ s₄ s₅ s₆
      have h₁ : Shut m u v s₁ := shut_modTeam (shut_setGroup_of h hg (by rfl))
      have h₂ : Shut m u v s₂ := h₁.ite (h₁.foldl (fun _ _ ht => shut_enterExts ht) _)
      have h₄ : Shut m u v s₄ := shut_memPut (shut_releaseScratch h₂)
      have h₅ : Shut m u v s₅ := .foldl (h₄.foldl (fun _ _ ht => shut_releaseEffect ht) _) (fun _ _ ht => shut_releasePoison ht) _
      have h₆ : Shut m u v s₆ := shut_coreCtr (shut_sweepDir h₅)
      exact .ite (shut_coreCtr h₆) h₆

theorem shut_afterCommit (h : Shut m u v s) {c slot : Nat} : Shut m u v (afterCommit s c slot) := by
  unfold afterCommit
  split
  · exact h
  · exact shut_atBoundaryDo (shut_startCall (shut_settle h))

/-! ### Commits and the ends of chunks -/

theorem shut_modDone (h : Shut m u v s) {r : ChunkRef} {f : Chunk → Chunk} : Shut m u v (modDone s r f) := shut_regroup h (by rfl)

theorem shut_sendSignature (h : Shut m u v s) {r : ChunkRef} {k : Chunk} : Shut m u v (sendSignature s r k) :=
  .foldl (.foldl (shut_modDone h) (fun _ _ ht => shut_send ht) _) (fun _ _ ht => shut_send ht) _

theorem shut_claimStage (h : Shut m u v s) {r : ChunkRef} {k : Chunk} : Shut m u v (claimStage s r k) := by
  unfold claimStage
  refine .ite h ?_
  extract_lets tag slices s₁ s₂ uid s₃ s₄ s₅
  have h₂ : Shut m u v s₂ := shut_modDone (shut_modCore h (by rfl))
  have h₃ : Shut m u v s₃ := h₂.foldl (fun _ _ ht => shut_enterExts ht) _
  have h₄ : Shut m u v s₄ := h₃.foldl (fun _ _ ht => shut_markDirty ht) _
  exact .foldl (h₄.foldl (fun _ _ ht => shut_send ht) _) (fun _ _ ht => shut_send ht) _

theorem shut_releaseGrants (h : Shut m u v s) {r : ChunkRef} {k : Chunk} : Shut m u v (releaseGrants s r k) :=
  h.foldl (fun _ _ ht => shut_send ht) _

theorem shut_commitStep (h : Shut m u v s) {c slot : Nat} : Shut m u v (commitStep s c slot).1 := by
  unfold commitStep
  split
  · exact h
  split
  · exact h
  next g _ _ k rest _ =>
    have hdrop : Shut m u v (k.effects.foldl (prepareDrop c slot g.pasid) s) := h.foldl (fun _ _ ht => shut_prepareDrop ht) _
    dsimp only
    split
    · exact shut_awaitChunks h
    split
    · split
      · exact shut_afterCommit (shut_releaseGrants (shut_finishCommit hdrop))
      split
      · split
        · exact hdrop
        · exact shut_sendSignature hdrop
      · split
        · exact hdrop
        · exact shut_send (shut_modDone hdrop)
    split
    · exact shut_claimStage h
    · exact h

theorem shut_commitGroup (n : Nat) (h : Shut m u v s) {c slot : Nat} : Shut m u v (commitGroup n c slot s) := by
  induction n generalizing s with
  | zero => exact h
  | succ n ih =>
    have hstep := shut_commitStep h (c := c) (slot := slot)
    unfold commitGroup
    split
    next t ht => exact ih (by rwa [ht] at hstep)
    next t ht => rwa [ht] at hstep

theorem shut_commitAll (h : Shut m u v s) : Shut m u v (commitAll s) :=
  h.foldl (fun _ _ ht => ht.foldl (fun _ _ hr => hr.ite (shut_commitGroup 4 hr)) _) _

theorem shut_closeChunk (h : Shut m u v s) {c slot : Nat} : Shut m u v (closeChunk s c slot) :=
  shut_modGroup h fun x hx => by rw [if_pos hx]; exact hx

theorem shut_endChunk (h : Shut m u v s) {c slot : Nat} : Shut m u v (endChunk s c slot) :=
  shut_atBoundaryDo (shut_commitAll (shut_commitGroup 8 (shut_closeChunk h)))

/-- An end of the slot's own chunk leaves none open there (R161). -/
theorem shut_of_endChunk (s : State) (c slot : Nat) : Shut s.cur c slot (endChunk s c slot) := by
  have hclosed : Shut s.cur c slot (closeChunk s c slot) := by
    refine ⟨modGroup_cur .., fun x hx => ?_⟩
    unfold closeChunk at hx
    rw [groupAt_modGroup, if_pos ⟨rfl, rfl⟩, Option.map_eq_some_iff] at hx
    obtain ⟨g, -, rfl⟩ := hx
    split
    · assumption
    · rfl
  exact shut_atBoundaryDo (shut_commitAll (shut_commitGroup 8 hclosed))

end

/-! ### The completion of an instruction (R161, R177) -/

/-- The group that `m` names has no chunk open, or it has the registers `r`; and the device issues from where it did. -/
structure EndedOrKept (m : Cur) (r : GRegs) (s : State) : Prop where
  cur : s.cur = m
  group : Shut m m.core m.slot s ∨ ∃ g, groupAt s m.core m.slot = some g ∧ g.r = r

section
variable {m : Cur} {r : GRegs} {s : State}

theorem Shut.endedOrKept (h : Shut m m.core m.slot s) : EndedOrKept m r s := ⟨h.cur, .inl h⟩

theorem EndedOrKept.ite {t : State} {p : Prop} [Decidable p] (hs : EndedOrKept m r s) (ht : EndedOrKept m r t) :
    EndedOrKept m r (if p then s else t) := by
  split <;> assumption

theorem endedOrKept_modGroup (h : EndedOrKept m r s) {f : Group → Group} 
    (hf : (fun g => ((f g).r, (f g).open_)) = fun g => (g.r, g.open_)) : EndedOrKept m r (modGroup s m.core m.slot f) := by
  have hkept := fun g => Prod.mk.inj (congrFun hf g)
  obtain ⟨hcur, hshut | ⟨g, hg, hregs⟩⟩ := h
  · exact (shut_regroup hshut (funext fun x => (hkept x).2)).endedOrKept
  · refine ⟨(modGroup_cur ..).trans hcur, .inr ⟨f g, ?_, (hkept g).1.trans hregs⟩⟩
    rw [groupAt_modGroup, if_pos ⟨rfl, rfl⟩, hg]
    rfl

theorem shut_endChunk_of_cur (h : s.cur = m) : Shut m m.core m.slot (endChunk s m.core m.slot) := by
  subst h
  exact shut_of_endChunk ..

theorem endedOrKept_stopHalted (h : EndedOrKept m r s) : EndedOrKept m r (stopHalted s m.core m.slot) := by
  unfold stopHalted
  split
  · exact h
  · extract_lets s₁ s₂
    have h₂ : Shut m m.core m.slot s₂ := shut_endChunk_of_cur ((modGroup_cur ..).trans h.cur)
    split
    · exact h₂.endedOrKept
    · exact (shut_settle h₂).endedOrKept

theorem endedOrKept_spendSkid (h : EndedOrKept m r s) {cks : Word} : EndedOrKept m r (spendSkid s m.core m.slot cks) := by
  unfold spendSkid
  split
  · exact h
  · extract_lets s₁ s₂
    have h₂ : Shut m m.core m.slot s₂ := shut_endChunk_of_cur ((modGroup_cur ..).trans h.cur)
    refine .ite ?_ (endedOrKept_modGroup h (by rfl))
    split
    · exact h₂.endedOrKept
    · exact (shut_settle h₂).endedOrKept

theorem endedOrKept_endRepeat (h : EndedOrKept m r s) : EndedOrKept m r (endRepeat s m.core m.slot) := by
  unfold endRepeat
  dsimp only
  split
  · exact endedOrKept_stopHalted (endedOrKept_modGroup h (by rfl))
  · exact endedOrKept_modGroup h (by rfl)

theorem endedOrKept_endIfBlocked (h : EndedOrKept m r s) {stalled : Bool} : EndedOrKept m r (endIfBlocked s m.core m.slot stalled) := by
  unfold endIfBlocked
  split
  · exact h
  · refine .ite ?_ h
    dsimp only
    split
    · exact (shut_endChunk_of_cur h.cur).endedOrKept
    · exact (shut_startCall (shut_endChunk_of_cur h.cur)).endedOrKept

end

theorem counted_cur (x : State) : (counted x).cur = x.cur := by
  unfold counted tickYield tickGroup
  rw [modCore_cur, modGroup_cur, passTime_cur, coreCtr_cur]
  exact modCur_cur ..

/-- A completed instruction has ended its group's chunk, or its group has the registers that the effect left. -/
theorem endedOrKept_retire {x : State} (h : issuing x = true) : EndedOrKept x.cur (curGroup x).r (retire x) := by
  have hcounted : EndedOrKept x.cur (curGroup x).r (counted x) := ⟨counted_cur x, .inr ⟨turned x, groupAt_counted h, rfl⟩⟩
  unfold retire
  extract_lets c slot cks repeated s₁
  split
  · exact hcounted
  · extract_lets k s₂ s₃ s₄
    have h₂ : EndedOrKept x.cur (curGroup x).r s₂ := .ite (shut_endChunk_of_cur (counted_cur x)).endedOrKept hcounted
    have h₃ : EndedOrKept x.cur (curGroup x).r s₃ := .ite (endedOrKept_endRepeat h₂) (endedOrKept_spendSkid h₂)
    have h₄ : EndedOrKept x.cur (curGroup x).r s₄ := endedOrKept_endIfBlocked h₃
    split
    · exact h₄
    · exact .ite h₄ (endedOrKept_stopHalted h₄)

/-- Where an instruction completes with its chunk open, a vector register reads what the effect left there. -/
theorem srcVal_of_retire {x : State} {d : Code} (t : Nat) (hd : d.toNat ≤ 95) (h : issuing x = true)
    (hopen : (curGroup (retire x)).open_.slots ≠ 0) : srcVal x d t = srcVal (retire x) d t := by
  obtain ⟨hcur, hshut | ⟨g, hg, hr⟩⟩ := endedOrKept_retire h
  · refine absurd ?_ hopen
    have hclosed := hshut.closed
    rw [← hcur] at hclosed
    unfold curGroup
    cases hg : groupAt (retire x) (retire x).cur.core (retire x).cur.slot with
    | none => rfl
    | some g => exact hclosed g hg
  · have hregs : (curGroup (retire x)).r = (curGroup x).r := by
      rw [← hcur] at hg
      unfold curGroup at hr ⊢
      rw [hg]
      exact hr
    unfold srcVal
    dsimp only
    rw [if_pos hd, if_pos hd, hregs]

theorem srcVal_of_not_issuing {x : State} {d : Code} (t : Nat) (hd : d.toNat ≤ 95) (h : issuing x = false) : srcVal x d t = 0 := by
  have hnone : groupAt x x.cur.core x.cur.slot = none := by simpa [issuing] using h
  have hgroup : curGroup x = {} := by
    unfold curGroup
    rw [hnone]
    rfl
  unfold srcVal
  dsimp only
  rw [if_pos hd, hgroup]
  rfl

end Sys2Proof.Proofs

/-! # A scratch word past the window of an index (R191, R226)

A scratch address has 28 bits of offset below its index. A partition of more bytes than that, which the model does not rule out, holds
bytes that no address reaches: the word of the last two offsets of index 15 goes on at offset 0 of index 0. -/

namespace Sys2Proof.Proofs

open Sys2Proof Sys2Proof.Machine Sys2Proof.Laws Sys2Proof.Claims

/-- A core whose partition is larger than an index's window, with one byte set past the window, and v0 naming the last two bytes of the window. -/
def vast : State :=
  { cores := [(0, { role := 1, psize := 8193, scratch := [(2 ^ 28, 1)]
                    groups := [(0, { a := 64, r := { v := [(0, 0xFFFFFFFE)] } })], teams := [(0, {})] })]
    cur := { core := 0, slot := 0, lanes := [0], pc := 0 } }

/-- What holds of the state that an instruction leaves. -/
def leaves (p : State → Bool) : Host.Outcome State Fault Refusal → Bool
  | .next t => p t
  | _ => false

theorem execs_vast : execs vast none = [0] := by decide +kernel

theorem scratchAt_vast : scratchAt (entered (unitLen none) vast) (srcStep (entered (unitLen none) vast) (execs vast none) 0) 0 120 0
    = 0xFFFFFFFE := by decide +kernel

/-- The load goes on with its chunk open, and gives 0. -/
theorem lds32_vast :
    leaves (fun t => decide (srcVal t 5 0 = 0) && decide ((curGroup t).open_.slots ≠ 0)) (exec (.lds32 none 5 0 120) vast) = true := by
  decide +kernel

/-- The bytes that the clause asks for are a word other than 0. -/
theorem viewScratch_vast : natOfBytes ((List.range 4).map (fun i =>
    viewScratch (entered (unitLen none) vast) (curGroup (entered (unitLen none) vast)) 0 (0xFFFFFFFE % 2 ^ 28 + i))) = 0x10000 := by
  decide +kernel

/-- Refutes O22: in `vast` the clause of LDS.32 asks for the byte at offset 2^28, where the load reads the one at offset 0. The load leaves
its chunk open, so that whatever state it completes from has the register as it is then. -/
theorem not_scratchAccesses : ¬ Obligations.ScratchAccesses := by
  unfold Obligations.ScratchAccesses
  intro h
  obtain ⟨-, -, -, -, -, -, hlds, -⟩ := h vast vast none 5 0 120 (fun _ => 0) rfl rfl rfl
  obtain ⟨x, hx, hval⟩ := hlds rfl rfl rfl rfl (by rw [execs_vast]; decide) fun t ht => by
    rw [execs_vast, List.mem_singleton] at ht
    subst ht
    rw [scratchAt_vast]
    exact ⟨by decide, by decide, by decide, fun _ _ _ _ hf => absurd hf nofun⟩
  have hd : (5 : Code).toNat ≤ 95 := by decide
  have hword : srcVal x 5 0 = 0x10000 := by
    rw [hval hd 0 (by rw [execs_vast]; exact List.mem_singleton_self 0), scratchAt_vast]
    exact congrArg (BitVec.ofNat 32) viewScratch_vast
  have hleft := lds32_vast
  rw [hx, finish_of_no_replay x rfl] at hleft
  simp only [leaves, Bool.and_eq_true, decide_eq_true_eq] at hleft
  obtain ⟨hzero, hopen⟩ := hleft
  cases hi : issuing x with
  | true =>
    rw [srcVal_of_retire 0 hd hi hopen, hzero] at hword
    exact absurd hword (by decide)
  | false =>
    rw [srcVal_of_not_issuing 0 hd hi] at hword
    exact absurd hword (by decide)

end Sys2Proof.Proofs
